-- ==== Sys2Proof/Word.lean ====
section
/-! DEFINITION. The 32-bit word every host access transfers (R56). -/

namespace Sys2Proof

/-- One register or memory word: every host access transfers 32 bits (R56). -/
abbrev Word := BitVec 32

end Sys2Proof
end

