-- ==== Sys2Proof/Syntax.lean ====
section
/-! DEFINITION. The commands: every operation and event of the table, with its operands. Values that come from outside
the device (levels, samples, frames, measured times) are operands of the event that brings them. -/

namespace Sys2Proof

/-- Who makes an access, as ERRINFO SOURCE codes it (Table 2.11). -/
inductive Source where
  | parallel | serial | fabric | hke | cle | isn
deriving DecidableEq, Repr

/-- A reader with a holding latch of its own (R22): each host port, the fabric mailbox, each CLE core, the HKE and
Isaenaim. -/
inductive Reader where
  | port (s : Source)
  | core (n : Fin 72)
deriving DecidableEq, Repr

/-- A word address of the 16 MB window: HA[23:2] (R53). -/
abbrev RegAddr := BitVec 22

/-- A page of the window: address bits [23:12], class and instance (R53). -/
abbrev Page := BitVec 12

/-- Which cores of a pair execute an instruction: both in lockstep, or one alone once their control flow has parted; or
both, where the instruction word that one of them fetches shows a parity error (R87). -/
inductive Cores where
  | both | a | b | parityA | parityB
deriving DecidableEq, Repr

/-- The conditions of CMP (Table 3.5). -/
inductive CmpCond where
  | eq | ne | lt | le | gt | ge | ltu | geu
deriving DecidableEq, Repr

/-- What a memory read meets beside its word (R87, R99). -/
inductive MemFault where
  /-- The word reads as it was stored. -/
  | clean
  /-- A single-bit error of shared SRAM. -/
  | single
  /-- A double-bit error of shared SRAM. -/
  | double
  /-- A parity error in core A's data memory. -/
  | parityA
  /-- A parity error in core B's data memory. -/
  | parityB
deriving DecidableEq, Repr

/-- What the two table reads of an INTERP meet (R87, R100): a parity error names the core and whether the second word shows
it. -/
inductive TableFault where
  | clean
  | parity (coreB second : Bool)
deriving DecidableEq, Repr

/-- The port an IN names, and the one of core B where its instruction names another (R495). -/
structure InPorts where
  port : BitVec 14
  other : Option (BitVec 14) := none
deriving DecidableEq, Repr

/-- What one core captures from a port: its value and its update tag (R152). -/
structure PortSample where
  val : Word
  tag : BitVec 8
deriving DecidableEq, Repr


/-- What an analog test of Table 5.2 measures. -/
inductive AnalogRun where
  /-- DAC to ADC: the ADC, whether its queue entries were admitted, and its results at codes 400h, 800h and C00h. -/
  | dacAdc (adc : Fin 24) (admitted : Bool) (r1 r2 r3 : BitVec 16)
  /-- Comparator sweep: the comparator 8g + i, the code at which it trips and the code of the general DAC's level. -/
  | cmpSweep (cmp : Fin 96) (trip level : BitVec 12)
  /-- Gate-driver output sensing of an LV driver. -/
  | drvSense (drv : Fin 16) (pass : Bool)
  /-- Gate-link loopback. -/
  | glLoop (link : Fin 48) (pass : Bool)
deriving DecidableEq, Repr

/-- What an iteration of MC_FOC computes from its measurements (R290–R311). Speeds are in the PFU SPEED format, angles
in turns × 2^32, voltages in mV, currents in mA. -/
structure FocIter where
  speed : Word
  angle : Word
  torque : Word
  id : Word
  iq : Word
  vdc : Word
  /-- Magnitude of the voltage that the iteration before commanded. -/
  vmag : BitVec 31
  /-- Amplitude, angle and signed frequency of the back-EMF vector. -/
  emfAmp : BitVec 31
  emfAngle : Word
  emfSpeed : Word
  /-- Angle of the current vector. -/
  iAngle : Word
  /-- The library observer's innovation, and its angle error in a re-acquisition. -/
  innov : Word
  angErr : Word
deriving DecidableEq, Repr

/-- What an iteration of MC_ACT sees (R315–R318). -/
structure ActIter where
  /-- The traction speed at which the target gear's ratio has no slip (PFU SPEED format). -/
  synchronous : Word
  /-- The actuator stands at its target position, or short of it against a tooth. -/
  arrived : Bool
  stalled : Bool
deriving DecidableEq, Repr

/-- The library loop whose iteration an END closes, with what the iteration computed (Table 9.1). -/
inductive LibIter where
  /-- A loop whose meaning is its instructions alone. -/
  | none
  | foc (it : FocIter)
  | act (it : ActIter)
  /-- MC_SPD of a drive, given by the drive's MC_FOC loop. -/
  | spd (drive : Fin 512)
  /-- MC_SUP of a drive, with the torque limit it has formed from the DC-link voltage, the temperatures and derating. -/
  | sup (drive : Fin 512) (limit : Word)
deriving DecidableEq, Repr

/-- The last run-ahead input has arrived at `at_`; its check is over at `checked`, and a commit takes effect at `done`, with what the
iteration of a library loop computed (R139). -/
structure RaArrival where
  at_ : Nat
  checked : Nat
  done : Nat
  lib : LibIter
deriving DecidableEq, Repr

/-- What an identification step measures (Table 9.8): mV, mA, nH, speeds in the PFU SPEED format. -/
inductive IdentMeas where
  /-- Mean voltage and current over the last 100 ms of each of the two levels. -/
  | rs (v1 i1 v2 i2 : Word)
  /-- V × t ÷ Δi averaged along ±d and along ±q. -/
  | ldq (ld lq : Word)
  /-- Voltage error at full conduction, and the current at half of it. -/
  | dt (v i : Word)
  /-- Amplitude of the back-EMF over the window, and the speed. -/
  | flux (amp : BitVec 31) (speed : Word)
deriving DecidableEq, Repr

/-- What a safe input shows over a period of its source, and for PULSED = 0 its level (R409). -/
inductive SinLook where
  /-- High, for PULSED = 1 except low in its own source's slot. -/
  | high
  /-- Low throughout. -/
  | low
  /-- Low in the slot of another source. -/
  | cross (k : Fin 4)
  /-- High during its own slot. -/
  | stuck
  /-- Any other pattern. -/
  | other
deriving DecidableEq, Repr

/-- A packet on an Erelo lane but for its PTYPE, which the command names (Table 13.2). `crc` and, with ENC = 1, `epoch`, `pn`
and the outcome of the tag check follow the payload. -/
structure Pkt where
  enc : Bool
  dst : BitVec 24
  ttl : BitVec 8
  flow : BitVec 16
  src : BitVec 24
  seq : BitVec 16
  payload : List (BitVec 8)
  hcrc : BitVec 16
  crc : BitVec 32
  epoch : BitVec 8
  pn : BitVec 48
  tagOk : Bool
deriving DecidableEq, Repr

/-- What the probe edge meets (R422): a positive reflection after a time in ps, a negative one, or none. -/
inductive Reflection where
  | positive (ps : Nat)
  | negative
  | nothing
deriving DecidableEq, Repr

/-- A device certificate beside its UID (R436): the device public key, and the fabric CA's signature over the UID and the key. -/
structure LinkCert where
  x : BitVec 256
  y : BitVec 256
  r : BitVec 256
  s : BitVec 256
deriving DecidableEq, Repr

/-- A device's adjacency (R422): its address, and the address of the peer on each port. -/
structure TopoRec where
  addr : BitVec 14
  p0 : Option (BitVec 14)
  p1 : Option (BitVec 14)
  p2 : Option (BitVec 14)
  p3 : Option (BitVec 14)
deriving DecidableEq, Repr

/-- A capability descriptor (Table 13.5). -/
structure Desc where
  uid : BitVec 64
  devClass : BitVec 16
  rootElig : Bool
  authReq : Bool
  warm : Bool
  port : Fin 4
  domain : BitVec 16
  addr : Option (BitVec 14)
  cert : BitVec 128
deriving DecidableEq, Repr

/-- What a reservation request asks of the devices of its route (R431, R433, R434). -/
inductive ResvKind where
  | open_ | test | close | mgmt
deriving DecidableEq, Repr

/-- A reservation request (R431): source device and flow, sink endpoint address, number of the link it asks for, K, phase in
ticks, NW − 1 and ENC. -/
structure Resv where
  kind : ResvKind
  dev : BitVec 14
  flow : Fin 64
  sink : BitVec 24
  hop : BitVec 8
  k : Fin 14
  phase : Word
  nw : Fin 32
  enc : Bool
deriving DecidableEq, Repr

/-- How a received Ethernet frame or a sent one matches the timestamp filter (R442). -/
inductive TsKind where
  | layer2 | udp4 | udp6 | other
deriving DecidableEq, Repr

/-- How far a record write had come when power was lost (R452, R455, R458): some of words 1–7, all eight words but not HEAD, or
the first word of an in-place update. -/
inductive Torn where
  | words (p : Fin 3) (k : Fin 8)
  | noHead (p : Fin 3)
  | update (p : Fin 3)
deriving DecidableEq, Repr

/-- A step whose failure fails a cold start (Table 15.3). -/
inductive ColdStep where
  | c1 | c2 | c3 | c10
deriving DecidableEq, Repr

/-- A step whose failure fails a warm start (Table 15.4). -/
inductive WarmStep where
  | w1 | w3 | w4 | w11
deriving DecidableEq, Repr

/-- What the steps of a cold start meet (R474, R484). -/
structure ColdRun where
  /-- The step that fails. -/
  fail : Option ColdStep
  /-- The patch is present and fails a check: signature, version or length. -/
  patchBad : Option (Fin 3)
  /-- The start stops at step C4 for host accesses; another COLD_START completes it. -/
  atPorts : Bool
  /-- Pairs that fail their logic self-test, with what core A and core B show. -/
  badPairs : List (Fin 36 × Bool × Bool)
  /-- A shared-SRAM word that fails the march. -/
  badWord : Option (BitVec 20)
  /-- Analog tests and the bandgap difference. -/
  analog : List AnalogRun
  bandgap : BitVec 16
  /-- Placers whose delay-line calibration fails, and the reference corrections. -/
  badLines : List (Fin 41)
  corr : List (BitVec 16)
  /-- ST of READY. -/
  readyAt : Nat
deriving DecidableEq, Repr

/-- What the steps of a warm start meet (R478). -/
structure WarmRun where
  fail : Option WarmStep
  patchBad : Option (Fin 3)
  /-- The digest of step W2 equals TOKEN; the seal of step W10 verifies. -/
  tokenOk : Bool
  sealOk : Bool
  /-- The start stops at step W5 for host accesses; another WARM_START completes it. -/
  atPorts : Bool
  badPairs : List (Fin 36 × Bool × Bool)
  bandgap : BitVec 16
  /-- The calibrations and the lifetime values in the power-interface die have a valid CRC-32. -/
  calOk : Bool
  lifeOk : Bool
  badLines : List (Fin 41)
  corr : List (BitVec 16)
  readyAt : Nat
deriving DecidableEq, Repr

/-- The commands and events of the block, one constructor for each row of the table of operations. -/
inductive Instr where
  /-- REGISTER_WRITE (R493): A host or on-chip write to a register that has no row of its own: checked against lock, state and range, then stored or rejected with WR_REJ and ERRINFO. -/
  | registerWrite (src : Source) (a : RegAddr) (v : Word)
  /-- STICKY_CLEAR (R64): A W1C write clears STICKY or flag bits; a bit set in the same cycle stays 1. -/
  | stickyClear (src : Source) (a : RegAddr) (bits : Word)
  /-- COUNTER_CLEAR (R52): A CNT_CLR bit clears its counter, ordered by one arbiter against a coincident increment. -/
  | counterClear (src : Source) (a : RegAddr) (bits : Word)
  /-- UNMAPPED_ACCESS (R55): an access to an address with no implemented page reads 0 or is ignored, sets UNMAPPED and increments UNMAPPED_CNT. -/
  | unmappedAccess (src : Source) (a : RegAddr) (write : Bool)
  /-- ST_LO_READ (R22): A read of ST_LO returns ST[31:0] and latches ST[63:32] for that reader. -/
  | stLoRead (r : Reader)
  /-- LATCHED_LO_READ (R22): A read of another _LO timestamp or count register latches its upper half for the reader. -/
  | latchedLoRead (r : Reader) (a : RegAddr)
  /-- SHP_READ_FRAME (R61): A serial READ frame returns LEN+1 words sampled one by one, followed by a CRC. -/
  | shpReadFrame (a : RegAddr) (len : Fin 64) (cut : Option (Fin 64))
  /-- SHP_WRITE_FRAME (R61): A serial WRITE frame is held until its CRC checks, then its words are applied in ascending address order within 1 µs. -/
  | shpWriteFrame (a : RegAddr) (words : List Word) (crc : BitVec 16) (cut : Bool)
  /-- SHP_STATUS_FRAME (R60): A serial STATUS frame returns SHP_STATUS and a CRC. -/
  | shpStatusFrame (a : Word) (len : Fin 64) (cut : Bool)
  /-- SHP_FRAME_INVALID (R62): A frame with an unknown CMD, or one that crosses a page boundary, is discarded and sets FRAME_ERR. -/
  | shpFrameInvalid (cmd : BitVec 8) (a : RegAddr) (len : Fin 64)
  /-- LOCK_ARM (R65): writing 5A5Ah to LOCK closes any open window and sets ARMED. -/
  | lockArm (src : Source) (p : Page)
  /-- LOCK_OPEN (R65): writing A5A5h to LOCK while armed opens a window of 64 writes and 1 ms. -/
  | lockOpen (src : Source) (p : Page)
  /-- LOCK_CLOSE (R65): writing any other LOCK value, or A5A5h while not armed, closes the window and disarms. -/
  | lockClose (src : Source) (p : Page) (key : BitVec 16)
  /-- UNLOCK_WINDOW_EXPIRE (R65): the unlock window closes when 1 ms of ST has passed since it opened. -/
  | unlockWindowExpire (p : Page)
  /-- SHADOW_WRITE (R69): A write to an RWS field goes into its shadow and sets SHADOW_PENDING. -/
  | shadowWrite (src : Source) (a : RegAddr) (v : Word)
  /-- COMMIT_REQUEST (R69): writing COMMIT_REQ requests a commit of the page's pending shadows; it is refused while the page is in a fired group. -/
  | commitRequest (src : Source) (p : Page)
  /-- SHADOW_COMMIT (R70): at the block's commit point all pending shadows of the page take effect at once and CFG_EPOCH increments. -/
  | shadowCommit (p : Page)
  /-- FREEZE_RELEASE (R72): writing FREEZE 0 lets a pending commit apply at the next commit point. -/
  | freezeRelease (src : Source) (p : Page)
  /-- SOFT_RESET (R73): SOFT_RESET written while EN = 0 returns the block-specific registers and shadows to reset values within 1 µs. -/
  | softReset (src : Source) (p : Page)
  /-- GROUP_FIRE (R75): writing FIRE arms the global commit group for target time GRP_TIME, or for the present instant with IMMEDIATE. -/
  | groupFire (src : Source) (immediate : Bool)
  /-- GROUP_CAPTURE (R75): at T_G the pending shadows of all members are captured into a staged set. -/
  | groupCapture
  /-- GROUP_MEMBER_APPLY (R75): A member applies its whole staged set at its first suitable commit point. -/
  | groupMemberApply (k : Fin 32)
  /-- PORT_CFG_WRITE (R84): A PORT_CFG write enables or disables a host port, and a disabled port ends its access at once. -/
  | portCfgWrite (src : Source) (php shp : Bool)
  /-- MBX_READ (R79): MBX_CMD OP read requests a read of a remote register over the fabric. -/
  | mbxRead (src : Source) (ch : Fin 4)
  /-- MBX_WRITE (R79): MBX_CMD OP write requests a write of a remote register over the fabric. -/
  | mbxWrite (src : Source) (ch : Fin 4)
  /-- MBX_INVALID_OP (R79): an MBX_CMD with an unknown OP is refused with PARAM. -/
  | mbxInvalidOp (src : Source) (ch : Fin 4) (op : BitVec 2)
  /-- MBX_ADMISSION_DONE (R79): within 2 µs the channel refuses the request or accepts it and sets MBX_BOUND. -/
  | mbxAdmissionDone (ch : Fin 4)
  /-- MBX_REPLY (R80): an MRSP reply that wins against the bound sets DONE, read data or REMOTE_REJ. -/
  | mbxReply (ch : Fin 4) (data : Word) (rej : Option (BitVec 8))
  /-- MBX_TIMEOUT (R80): the mailbox bound wins, so TIMEOUT is set and a later reply is discarded as late. -/
  | mbxTimeout (ch : Fin 4)
  /-- PACE_SENSOR_UPDATE (R17): A pace sensor reports a new reading, which updates P_MEAS of its region. -/
  | paceSensorUpdate (rg : Fin 12) (sensor : Fin 4) (pace : BitVec 16) (at_ : Nat)
  /-- PACE_FAULT_DETECT (R19): two sensors of one region differ by more than 10 % for 10 µs, so Leash sets PACE_FAULT and reports the region. -/
  | paceFaultDetect (rg : Fin 12)
  /-- ADM_ADMIT (R32): ADM_CMD OP admit requests admission of a loop on a pair or on any pair. -/
  | admAdmit (src : Source) (loop : Fin 512) (pair : BitVec 6) (anyPair : Bool)
  /-- ADM_WITHDRAW (R37): ADM_CMD OP withdraw requests removal of a loop at its next period boundary. -/
  | admWithdraw (src : Source) (loop : Fin 512)
  /-- ADM_TEST_ONLY (R494): ADM_CMD OP test applies the admission test without committing anything. -/
  | admTestOnly (src : Source) (loop : Fin 512) (pair : BitVec 6) (anyPair : Bool)
  /-- ADM_REEVALUATE (R50): ADM_CMD OP re-evaluate re-tests every committed loop at the present basis and marks failures AT_RISK. -/
  | admReevaluate (src : Source)
  /-- ADM_INVALID_OP (R50): an ADM_CMD with a reserved OP or an out-of-range PAIR is refused with PARAM. -/
  | admInvalidOp (src : Source) (loop : Fin 512) (pair : BitVec 6) (op : BitVec 3)
  /-- ADM_DECISION_DONE (R35): leash completes an admission decision within 5 µs and sets DONE, ACCEPT, REASON and PAIR in ADM_RESULT. -/
  | admDecisionDone
  /-- LOAD_COPY_DONE (R117): the copy of a loop's code and data from the active bank completes, or fails with LOAD_ERR. -/
  | loadCopyDone (pair : Fin 36) (readError : Bool)
  /-- REGION_PACE_CHECK (R38): every 2 µs Leash compares P_MEAS with P_C for each region and enters the response steps as needed. -/
  | regionPaceCheck (rg : Fin 12)
  /-- VOLT_STEP_UP (R38): each microsecond of step 1 raises the regulator target by 10 mV, or sets VOLT_CAPPED at a limit. -/
  | voltStepUp (rg : Fin 12)
  /-- VOLT_STEP_DOWN (R40): after recovery the target falls by 10 mV every 100 µs towards its pre-step value. -/
  | voltStepDown (rg : Fin 12)
  /-- REGION_RECOVER (R40): after 10 ms at or above 1.08 × P_C the region leaves every response step. -/
  | regionRecover (rg : Fin 12)
  /-- SKEW_DETECT (R45): an adjacent-region limit exceeded for 2 µs sets SKEW, refuses spanning work and migrates or marks loops. -/
  | skewDetect (a b : Fin 12)
  /-- SKEW_CLEAR (R45): after 10 ms within 90 % of every limit, SKEW clears in REGION_STATUS. -/
  | skewClear (a b : Fin 12)
  /-- VOLT_LIMIT_WRITE (R15): A VOLT_LIMIT write is clamped to 720–880 mV, with VMIN limited to VMAX. -/
  | voltLimitWrite (src : Source) (vmin vmax : BitVec 10)
  /-- TIMEOUT_EXPIRY (R47): the ST limit of a waiting operation wins its arbitration, and the operation ends with TIMEOUT. -/
  | timeoutExpiry (cls : BitVec 8) (inst : BitVec 8) (chan : BitVec 8)
  /-- NOP (R96): the CLE executes NOP, which charges 1 WU. -/
  | cleNop (p : Fin 36) (cs : Cores) (g : Fin 8)
  /-- ADD (R96): the CLE adds two registers, scaled, rounded and saturated. -/
  | cleAdd (p : Fin 36) (cs : Cores) (g : Fin 8) (rd ra rb : Fin 32) (qs : BitVec 5)
  /-- SUB (R96): the CLE subtracts two registers, scaled, rounded and saturated. -/
  | cleSub (p : Fin 36) (cs : Cores) (g : Fin 8) (rd ra rb : Fin 32) (qs : BitVec 5)
  /-- MUL (R96): the CLE multiplies two registers in Q format with rounding and saturation. -/
  | cleMul (p : Fin 36) (cs : Cores) (g : Fin 8) (rd ra rb : Fin 32) (qs : BitVec 5)
  /-- MAC (R96): the CLE adds a product into an accumulator. -/
  | cleMac (p : Fin 36) (cs : Cores) (g : Fin 8) (acc : Fin 4) (ra rb : Fin 32) (qs : BitVec 5)
  /-- MSU (R96): the CLE subtracts a product from an accumulator. -/
  | cleMsu (p : Fin 36) (cs : Cores) (g : Fin 8) (acc : Fin 4) (ra rb : Fin 32) (qs : BitVec 5)
  /-- ACCR (R96): the CLE reads an accumulator into a register, optionally clearing it. -/
  | cleAccr (p : Fin 36) (cs : Cores) (g : Fin 8) (acc : Fin 4) (rd : Fin 32) (clear : Bool) (qs : BitVec 5)
  /-- ACCW (R96): the CLE writes a register into an accumulator. -/
  | cleAccw (p : Fin 36) (cs : Cores) (g : Fin 8) (acc : Fin 4) (ra : Fin 32) (qs : BitVec 5)
  /-- MIN (R96): the CLE writes the smaller of two registers. -/
  | cleMin (p : Fin 36) (cs : Cores) (g : Fin 8) (rd ra rb : Fin 32)
  /-- MAX (R96): the CLE writes the larger of two registers. -/
  | cleMax (p : Fin 36) (cs : Cores) (g : Fin 8) (rd ra rb : Fin 32)
  /-- ABS (R96): the CLE writes the scaled absolute value of a register. -/
  | cleAbs (p : Fin 36) (cs : Cores) (g : Fin 8) (rd ra : Fin 32) (qs : BitVec 5)
  /-- NEG (R96): the CLE writes the scaled negation of a register. -/
  | cleNeg (p : Fin 36) (cs : Cores) (g : Fin 8) (rd ra : Fin 32) (qs : BitVec 5)
  /-- SHV (R96): the CLE shifts a register by a variable amount. -/
  | cleShv (p : Fin 36) (cs : Cores) (g : Fin 8) (rd ra rb : Fin 32)
  /-- AND (R96): the CLE writes the bitwise AND of two registers. -/
  | cleAnd (p : Fin 36) (cs : Cores) (g : Fin 8) (rd ra rb : Fin 32)
  /-- OR (R96): the CLE writes the bitwise OR of two registers. -/
  | cleOr (p : Fin 36) (cs : Cores) (g : Fin 8) (rd ra rb : Fin 32)
  /-- XOR (R96): the CLE writes the bitwise XOR of two registers. -/
  | cleXor (p : Fin 36) (cs : Cores) (g : Fin 8) (rd ra rb : Fin 32)
  /-- CMP (R96): the CLE sets a predicate from a comparison of two registers. -/
  | cleCmp (p : Fin 36) (cs : Cores) (g : Fin 8) (pd : Fin 8) (ra rb : Fin 32) (cond : CmpCond)
  /-- SEL (R96): the CLE selects one of two registers by a predicate. -/
  | cleSel (p : Fin 36) (cs : Cores) (g : Fin 8) (rd ra rb : Fin 32) (ps : Fin 8)
  /-- CLAMP (R96): the CLE clamps a register between two limit registers. -/
  | cleClamp (p : Fin 36) (cs : Cores) (g : Fin 8) (rd ra : Fin 32) (rb : Fin 31) (flag : Bool)
  /-- RATE (R96): the CLE moves a register towards a target by at most a limit. -/
  | cleRate (p : Fin 36) (cs : Cores) (g : Fin 8) (rd ra rb : Fin 32) (flag : Bool)
  /-- DIV (R96): the CLE divides two registers in Q format. -/
  | cleDiv (p : Fin 36) (cs : Cores) (g : Fin 8) (rd ra rb : Fin 32) (qs : BitVec 5)
  /-- CORDIC_SIN (R97): the CLE computes the sine of an angle. -/
  | cleCordicSin (p : Fin 36) (cs : Cores) (g : Fin 8) (rd ra : Fin 32)
  /-- CORDIC_COS (R97): the CLE computes the cosine of an angle. -/
  | cleCordicCos (p : Fin 36) (cs : Cores) (g : Fin 8) (rd ra : Fin 32)
  /-- CORDIC_SINCOS (R97): the CLE computes the sine and the cosine into two registers. -/
  | cleCordicSincos (p : Fin 36) (cs : Cores) (g : Fin 8) (rd : Fin 31) (ra : Fin 32)
  /-- CORDIC_ATAN2 (R97): the CLE computes atan2 in turns. -/
  | cleCordicAtan2 (p : Fin 36) (cs : Cores) (g : Fin 8) (rd ra rb : Fin 32)
  /-- CORDIC_MAG (R97): the CLE computes a vector magnitude. -/
  | cleCordicMag (p : Fin 36) (cs : Cores) (g : Fin 8) (rd ra rb : Fin 32) (qs : BitVec 5)
  /-- CORDIC_POLAR (R97): the CLE computes the magnitude and the angle into two registers. -/
  | cleCordicPolar (p : Fin 36) (cs : Cores) (g : Fin 8) (rd : Fin 31) (ra rb : Fin 32) (qs : BitVec 5)
  /-- INTERP (R100): the CLE interpolates in a 256-word table of its data segment; `table` holds RAW and
  what the reads meet. -/
  | cleInterp (p : Fin 36) (cs : Cores) (g : Fin 8) (rd ra rb : Fin 32) (table : Bool × TableFault)
  /-- MOV (R96): the CLE copies a register, scaled and saturated. -/
  | cleMov (p : Fin 36) (cs : Cores) (g : Fin 8) (rd ra : Fin 32) (qs : BitVec 5)
  /-- LDI_SIGNED (R96): LDI SUB 00b loads a sign-extended immediate. -/
  | cleLdiSigned (p : Fin 36) (cs : Cores) (g : Fin 8) (rd : Fin 32) (imm : BitVec 16)
  /-- LDI_HIGH (R96): LDI SUB 01b loads an immediate into the upper half. -/
  | cleLdiHigh (p : Fin 36) (cs : Cores) (g : Fin 8) (rd : Fin 32) (imm : BitVec 16)
  /-- LDI_LOW (R96): LDI SUB 10b loads the low half and keeps the upper half. -/
  | cleLdiLow (p : Fin 36) (cs : Cores) (g : Fin 8) (rd : Fin 32) (imm : BitVec 16)
  /-- ADDI (R96): the CLE adds a sign-extended immediate with saturation. -/
  | cleAddi (p : Fin 36) (cs : Cores) (g : Fin 8) (rd : Fin 32) (imm : BitVec 16)
  /-- CMPI (R96): the CLE sets a predicate if a register is below an immediate. -/
  | cleCmpi (p : Fin 36) (cs : Cores) (g : Fin 8) (pd : Fin 4) (rd : Fin 32) (imm : BitVec 16)
  /-- LD (R98): the CLE loads a word from data memory or shared SRAM, seeing its own buffered stores. -/
  | cleLd (p : Fin 36) (cs : Cores) (g : Fin 8) (rd rb : Fin 32) (shared : Bool) (ofs : BitVec 12) (flt : MemFault)
  /-- ST (R128): the CLE buffers a store to data memory or shared SRAM until the output commit. -/
  | cleSt (p : Fin 36) (cs : Cores) (g : Fin 8) (rd rb : Fin 32) (shared : Bool) (ofs : BitVec 12)
  /-- IN (R101): the CLE reads a port at an agreement point and clears its fresh mark. -/
  | cleIn (p : Fin 36) (g : Fin 8) (rd : Fin 32) (ports : InPorts) (capA capB : Option PortSample)
  /-- OUT_STAGED (R102): A staged OUT is queued for the output commit, with clamping and SAT_OUT. -/
  | cleOutStaged (p : Fin 36) (cs : Cores) (g : Fin 8) (rd : Fin 32) (port : BitVec 14)
  /-- OUT_IMMEDIATE (R102): an immediate OUT writes a mailbox port at once, after comparison between the cores. -/
  | cleOutImmediate (p : Fin 36) (g : Fin 8) (rd : Fin 32) (word : Fin 256)
  /-- LOOP (R104): the CLE repeats the following LEN instructions COUNT times. -/
  | cleLoop (p : Fin 36) (cs : Cores) (g : Fin 8) (count : BitVec 12) (len : BitVec 11)
  /-- SKIP (R105): the CLE skips the next DIST instructions when its guard is true. -/
  | cleSkip (p : Fin 36) (cs : Cores) (g : Fin 8) (dist : BitVec 11)
  /-- PLOG (R96): the CLE sets a predicate from a truth table of two predicates. -/
  | clePlog (p : Fin 36) (cs : Cores) (g : Fin 8) (pd pa pb : Fin 8) (tt : BitVec 4)
  /-- WAITP (R106): the CLE waits for a fresh port value, up to LIMIT × 100 ns. -/
  | cleWaitp (p : Fin 36) (g pd : Fin 8) (port : BitVec 14) (limit : BitVec 6)
  /-- WAITP_ARRIVAL (R106): A new port value wins the arbiter, so the predicate becomes 1 and the core continues. -/
  | cleWaitpArrival (p : Fin 36) (at_ : Nat)
  /-- WAITP_LIMIT (R106): the WAITP limit wins, so the predicate becomes 0 and the port value is frozen for the iteration. -/
  | cleWaitpLimit (p : Fin 36)
  /-- END (R127): END wins against the deadline, and the iteration's output commit applies after commit comparison. -/
  | cleEnd (p : Fin 36) (at_ : Nat) (lib : LibIter)
  /-- TRAP (R108): TRAP ends the iteration without commit and puts the loop in FAULT. -/
  | cleTrap (p : Fin 36) (g : Fin 8) (code : BitVec 16)
  /-- LOOP_TRIGGER (R125): A trigger event for a loop arrives with its timestamp, which is the loop's period boundary. -/
  | loopTrigger (loop : Fin 512) (at_ : Nat)
  /-- LOOP_DEADLINE (R127): the deadline wins against END, so the iteration is abandoned and DEADLINE_MISS and the counts update. -/
  | loopDeadline (loop : Fin 512)
  /-- LPD_OPEN_CMD (R132): LPD_CMD OP OPEN requests the OPEN state at the next boundary. -/
  | lpdOpenCmd (src : Source) (inst : Fin 36)
  /-- LPD_CLOSED_CMD (R132): LPD_CMD OP CLOSED requests the CLOSED state after the R133 checks. -/
  | lpdClosedCmd (src : Source) (inst : Fin 36)
  /-- LPD_HOLD_CMD (R132): LPD_CMD OP HOLD requests the HOLD state at the next boundary. -/
  | lpdHoldCmd (src : Source) (inst : Fin 36)
  /-- LPD_TRIGGER_CMD (R125): LPD_CMD OP TRIGGER triggers a loop whose TSRC is 6h. -/
  | lpdTriggerCmd (src : Source) (inst : Fin 36)
  /-- LPD_INVALID_CMD (R132): an LPD_CMD with a reserved OP is refused with PARAM. -/
  | lpdInvalidCmd (src : Source) (inst : Fin 36) (op : BitVec 3)
  /-- SETPT_WRITE (R130): A host LPD_SETPT write takes effect from the next trigger, or is refused when SRC is not 00b. -/
  | setptWrite (src : Source) (inst : Fin 36) (v : Word)
  /-- RA_INPUT_ARRIVAL (R139): the last run-ahead input arrives, and the inputs are checked against their tolerances. -/
  | raInputArrival (p : Fin 36) (capA capB : List (Option PortSample)) (arrival : RaArrival)
  /-- RA_INPUT_TIMEOUT (R139): the run-ahead input wait limit wins, and the iteration ends as a squash with RA_NOINPUT. -/
  | raInputTimeout (p : Fin 36)
  /-- EFFECT_DELIVERY (R167): A port, mailbox or SRAM effect reaches its block, which compares the carried epoch. -/
  | effectDelivery
  /-- MIGRATION_PRECOPY_DONE (R165): the pre-copy of code and data to the destination completes. -/
  | migrationPrecopyDone (loop : Fin 512)
  /-- MIGRATION_FINAL_COPY_DONE (R165): the copy of the dirty words completes. -/
  | migrationFinalCopyDone (loop : Fin 512)
  /-- SIGNATURE_PASS_END (R157): A state-signature pass ends and the two signatures are compared. -/
  | signaturePassEnd (p : Fin 36)
  /-- SELF_TEST_DONE (R161): the logic self-test of a pair ends and its verdict is applied. -/
  | selfTestDone (p : Fin 36) (fails : Bool × Bool) (march : Option (Bool × BitVec 14))
  /-- TEST_REQUEST (R160): TEST_REQ evacuates and tests the pair with CAUSE host, or is refused with STATE. -/
  | testRequest (src : Source) (p : Fin 36)
  /-- ROLLING_TEST_START (R171): every INTERVAL the HKE starts a rolling test on the pair whose pass is oldest. -/
  | rollingTestStart
  /-- ROLL_LATE_DETECT (R172): the oldest in-range pass exceeds 60 s, so ROLL_LATE is set and Isaenaim is informed. -/
  | rollLateDetect
  /-- TEST_SLICE (R178): out of range, a due test runs one slice of at most 20 µs after 200 µs spacing. -/
  | testSlice (p : Fin 36)
  /-- ANALOG_TEST (R173): at each analog interval the HKE runs the next loopback test. -/
  | analogTest (run : AnalogRun)
  /-- BANDGAP_CHECK (R174): every 1 ms the two bandgaps are compared, and REF_MISMATCH is set beyond 0.5 %. -/
  | bandgapCheck (diff : BitVec 16)
  /-- MARCH_SLICE_START (R175): every MARCH_SPACING the next 4 KB slice is saved and march-tested. -/
  | marchSliceStart
  /-- MARCH_SLICE_DONE (R175): the slice test ends and its words are written back. -/
  | marchSliceDone (bad : Option (BitVec 10))
  /-- CMP_CFG_WRITE (R184): A CMP_CFG write sets the device-wide tolerances from the next iteration. -/
  | cmpCfgWrite (src : Source) (inst : Fin 36) (v : Word)
  /-- RETIRE_CLEAR (R186): RETIRE_CLR GO in SAFE releases a retired pair at the next cold start. -/
  | retireClear (src : Source) (pair : BitVec 6)
  /-- TAP_EXTEST (R180): EXTEST connects the boundary scan only under STO, otherwise it acts as BYPASS. -/
  | tapExtest
  /-- TAP_IDCODE (R179): IDCODE selects the identification register. -/
  | tapIdcode
  /-- TAP_SAMPLE_PRELOAD (R179): SAMPLE/PRELOAD samples the digital pins. -/
  | tapSamplePreload
  /-- TAP_HIGHZ (R180): HIGHZ floats the outputs only under STO. -/
  | tapHighz
  /-- TAP_BYPASS (R179): BYPASS, or any unlisted code, selects the bypass register. -/
  | tapBypass (code : BitVec 8)
  /-- TAP_SCANACC (R181): SCANACC zeroises the keys, fences the NV key store and records SCAN_ENTRY before connecting the chains. -/
  | tapScanacc (standstill keysZero : Bool)
  /-- SCAN_CONNECT (R181): the scan chains connect by t0 + 5 ms and SCAN_OPEN is set. -/
  | scanConnect
  /-- ADC_ADMIT (R195): ADC ADM_CMD OP admit requests admission of a queue entry. -/
  | adcAdmit (src : Source) (adc : Fin 24) (e : Fin 32)
  /-- ADC_WITHDRAW (R196): ADC ADM_CMD OP withdraw requests removal of an entry. -/
  | adcWithdraw (src : Source) (adc : Fin 24) (e : Fin 32)
  /-- ADC_TEST_ONLY (R195): ADC ADM_CMD OP test only applies the entry test without admitting the entry. -/
  | adcTestOnly (src : Source) (adc : Fin 24) (e : Fin 32)
  /-- ADC_INVALID_OP (R196): an ADC ADM_CMD with OP 00b is refused with PARAM. -/
  | adcInvalidOp (src : Source) (adc : Fin 24) (e : Fin 32)
  /-- ADC_DECISION_DONE (R196): within 2 µs the ADC reports the decision and the bound of the entry. -/
  | adcDecisionDone (adc : Fin 24)
  /-- ADC_WITHDRAW_EFFECT (R196): A withdrawal takes effect once the entry is neither pending nor converting. -/
  | adcWithdrawEffect (adc : Fin 24) (e : Fin 32)
  /-- ADC_HOST_TRIGGER (R192): A HOST_TRIG write triggers each selected entry whose TSRC is 5h. -/
  | adcHostTrigger (src : Source) (adc : Fin 24) (v : Word)
  /-- ADC_TRIGGER (R192): A trigger event arrives for an ADC entry. -/
  | adcTrigger (adc : Fin 24) (e : Fin 32) (at_ : Nat)
  /-- ADC_CONVERSION_START (R188): the converter starts a pending entry when it becomes free, inserting a start-up delay if it was idle. -/
  | adcConversionStart (adc : Fin 24)
  /-- ADC_RESULT_WRITE (R188): the averaged result is written with its tag and timestamp. -/
  | adcResultWrite (adc : Fin 24) (samples : List Int) (at_ : Nat)
  /-- ADC_IDLE_POWERDOWN (R189): after 1 µs idle without AWAKE the converter needs a start-up delay at its next start. -/
  | adcIdlePowerdown (adc : Fin 24)
  /-- COMPARATOR_ENABLE (R205): A comparator enable sets SETTLING and starts the first-decision sequence. -/
  | comparatorEnable (src : Source) (g : Fin 12)
  /-- COMPARATOR_FIRST_DECISION (R205): at t_EN the first decision is made at the band midpoint and FIRST_MID and IN_BAND are set; `level` is that of the input, nV. -/
  | comparatorFirstDecision (g : Fin 12) (n : Fin 8) (level : BitVec 31) (at_ : Nat)
  /-- COMPARATOR_INPUT_CROSSING (R203): the input, at `level` nV now, crosses a band edge and the live output changes. -/
  | comparatorInputCrossing (g : Fin 12) (n : Fin 8) (level : BitVec 31) (at_ : Nat)
  /-- BLANKING_CLOSE (R209): the blanking window closes, and an active output latches within 2 ns. -/
  | blankingClose (g : Fin 12) (n : Fin 8)
  /-- LATCH_CLEAR (R210): LATCH_CLR clears a latch only if the live output is inactive. -/
  | latchClear (src : Source) (g : Fin 12) (bits : BitVec 8)
  /-- CCFG_WRITE (R207): A CCFG write is accepted only with CEN 0, and a change of CEN enables or disables the comparator. -/
  | ccfgWrite (src : Source) (g : Fin 12) (n : Fin 8) (v : Word)
  /-- DAC_CODE_WRITE (R215): A DCODE write sets the DAC code when SRC is host, else it is refused. -/
  | dacCodeWrite (src : Source) (d : Fin 8) (v : Word)
  /-- DAC_SINE_UPDATE (R216): every 200 ns a sine DAC takes the code computed from ST. -/
  | dacSineUpdate (d : Fin 8) (at_ : Nat)
  /-- PFU_ENABLE (R223): EN = 1 checks the PFU configuration and starts ACQUIRING, or stays 0 with PARAM. -/
  | pfuEnable (src : Source) (k : Fin 6)
  /-- PFU_DISABLE (R236): EN = 0 puts the observer OFF and floats the pins. -/
  | pfuDisable (src : Source) (k : Fin 6)
  /-- PFU_EDGE (R224): A qualified A or B edge changes the count in quadrature. -/
  | pfuEdge (k : Fin 6) (a b : Bool) (at_ : Nat)
  /-- HALL_TRANSITION (R225): A Hall state change moves the count by one sector. -/
  | hallTransition (k : Fin 6) (code : BitVec 3) (at_ : Nat)
  /-- Z_INDEX (R227): A rising Z index captures COUNT and may align M. -/
  | zIndex (k : Fin 6) (at_ : Nat)
  /-- PFU_ZERO (R227): CTRL ZERO sets COUNT to 0 and M to ZPOS. -/
  | pfuZero (src : Source) (k : Fin 6)
  /-- PFU_CAPTURE_CMD (R237): CTRL CAPTURE makes a host capture. -/
  | pfuCaptureCmd (src : Source) (k : Fin 6)
  /-- COMPARE_PULSE_END (R239): the compare pin pulse ends PW × 20 ns after the last firing. -/
  | comparePulseEnd (k : Fin 6)
  /-- CMPL_CFG_WRITE (R240): A CMPL_CFG write resets PTR and DONE. -/
  | cmplCfgWrite (src : Source) (k : Fin 6) (v : Word)
  /-- ENC_FRAME_START (R229): at each FRAME_PER instant an SSI or BiSS-C frame starts. -/
  | encFrameStart (k : Fin 6) (at_ : Nat)
  /-- ENC_FRAME_RECEIVE (R230): A received frame yields a position or is rejected for CRC or error bit. -/
  | encFrameReceive (k : Fin 6) (data : BitVec 48) (crc : BitVec 6) (trip : BitVec 16) (at_ : Nat)
  /-- ENC_FRAME_TIMEOUT (R230): no acknowledge within TM rejects the frame with ENC_NORESP. -/
  | encFrameTimeout (k : Fin 6)
  /-- RESOLVER_PAIR_TIMEOUT (R231): A result with no partner within 1 µs is discarded with RSLV_TIMING. -/
  | resolverPairTimeout (k : Fin 6)
  /-- OBSERVER_UPDATE (R233): at each update instant the tracking observer predicts and corrects. -/
  | observerUpdate (k : Fin 6)
  /-- PG_ENABLE (R244): EN = 1 starts a leg, which becomes master or joins its group at the next period point. -/
  | pgEnable (src : Source) (leg : Fin 40)
  /-- PG_DISABLE (R244): EN = 0 turns both outputs off and hands mastership to the next member. -/
  | pgDisable (src : Source) (leg : Fin 40)
  /-- PG_PERIOD_POINT (R244): A group's period point starts a new period with the PERIOD in force. -/
  | pgPeriodPoint (leg : Fin 40)
  /-- PG_HALF_PERIOD_POINT (R244): the half-period point of a period occurs, producing its event. -/
  | pgHalfPeriodPoint (leg : Fin 40)
  /-- PG_CAPTURE_INSTANT (R248): 200 ns before an update point the pending shadows apply, clamped. -/
  | pgCaptureInstant (leg : Fin 40) (half : Bool)
  /-- PG_EDGE (R246): A placed output edge switches a leg output or sends a Gate Link mark. -/
  | pgEdge (leg : Fin 40)
  /-- TRIP_LINE_ACTIVE (R256): A trip line becomes active and its actions force the legs. -/
  | tripLineActive (line : Fin 32)
  /-- TRIP_LINE_INACTIVE (R258): A line becoming inactive resumes legs at the next period point or leaves them TRIPPED. -/
  | tripLineInactive (line : Fin 32)
  /-- TRIP_CLR (R258): TRIP_CLR takes a leg out of TRIPPED unless a force still acts. -/
  | tripClr (src : Source) (leg : Fin 40)
  /-- HFORCE_WRITE (R259): an HFORCE write applies a host force action, or 00b releases it. -/
  | hforceWrite (src : Source) (leg : Fin 40) (action : BitVec 2)
  /-- SW_FORCE_WRITE (R255): an SW_FORCE write drives or releases trip lines from the host. -/
  | swForceWrite (src : Source) (v : Word)
  /-- SCP_WRITE (R260): an SCP write enables a short-circuit pair after its checks, or changes its fields while disabled. -/
  | scpWrite (src : Source) (k : Fin 40) (v : Word)
  /-- SC_SINGLE_TIMEOUT (R262): an event with no partner after 60 ns is classed SINGLE and reported. -/
  | scSingleTimeout (leg : Fin 40)
  /-- SC_SOFT_HOLD_EXPIRE (R263): at SOFT_HOLD Isaenaim applies active short circuit or freewheel to the group. -/
  | scSoftHoldExpire (leg : Fin 40)
  /-- SC_GROUP_RELEASE (R263): isaenaim releases the group from its short-circuit response. -/
  | scGroupRelease (leg : Fin 40)
  /-- GL_LINK_ENABLE (R273): LEN = 1 runs INIT: idle, LOOP, ID read and configuration writes. -/
  | glLinkEnable (src : Source) (l : Fin 48)
  /-- GL_INIT_TIMEOUT (R273): an INIT step that fails or times out sets LOOP_FAIL and puts the link in FAULT. -/
  | glInitTimeout (l : Fin 48) (at_ : Nat)
  /-- GL_LINK_DISABLE (R273): LEN = 0 sends OFF and stops the transmitter. -/
  | glLinkDisable (src : Source) (l : Fin 48)
  /-- GL_RX_GATE (R272): A GATE telemetry frame arrives and is checked against the Vgs limits. -/
  | glRxGate (l : Fin 48) (reg : BitVec 8) (data : BitVec 16) (at_ : Nat)
  /-- GL_GATE_CHECK_TIMEOUT (R272): no GATE frame within 2 µs skips the check and counts a late frame. -/
  | glGateCheckTimeout (l : Fin 48)
  /-- GL_RX_TEMP (R269): A TEMP frame updates DTEMP. -/
  | glRxTemp (l : Fin 48) (reg : BitVec 8) (data : BitVec 16) (at_ : Nat)
  /-- GL_RX_SUPPLY (R269): A SUPPLY frame updates DSUPPLY. -/
  | glRxSupply (l : Fin 48) (reg : BitVec 8) (data : BitVec 16) (at_ : Nat)
  /-- GL_RX_DESAT_INFO (R276): A DESAT_INFO frame updates DESAT_INFO. -/
  | glRxDesatInfo (l : Fin 48) (reg : BitVec 8) (data : BitVec 16) (at_ : Nat)
  /-- GL_RX_ACK (R277): an ACK frame answers a WRITE or CLEAR_FAULT and completes the command. -/
  | glRxAck (l : Fin 48) (reg : BitVec 8) (data : BitVec 16) (at_ : Nat)
  /-- GL_RX_RDATA (R277): an RDATA frame answers a READ into RX_DATA. -/
  | glRxRdata (l : Fin 48) (reg : BitVec 8) (data : BitVec 16) (at_ : Nat)
  /-- GL_RX_LOOP (R273): A LOOP echo arrives, is compared and sets LOOP_RTT. -/
  | glRxLoop (l : Fin 48) (data rtt : BitVec 16) (at_ : Nat)
  /-- GL_RX_FAULT (R269): A FAULT frame sets DRV_FAULT. -/
  | glRxFault (l : Fin 48) (reg : BitVec 8) (data : BitVec 16) (at_ : Nat)
  /-- GL_RX_BAD_FRAME (R269): A frame with a CRC failure or a reserved TYPE is discarded and CRC_ERR increments. -/
  | glRxBadFrame (l : Fin 48) (at_ : Nat)
  /-- GL_IDLE_LOOP (R274): on an idle READY link a LOOP is sent every 10 ms, and two failures fault the link. -/
  | glIdleLoop (l : Fin 48) (at_ : Nat)
  /-- GL_REVERSE_SILENCE (R274): no reverse transition for 1 µs puts the link in LOST and sets LINK_LOST. -/
  | glReverseSilence (l : Fin 48) (at_ : Nat)
  /-- GL_TELE_TIMEOUT (R274): no valid frame within TELE_TMO puts the link in LOST. -/
  | glTeleTimeout (l : Fin 48)
  /-- GL_DESAT_RECOGNISE (R276): A 40 ns asserted run sets DESAT, drives DESAT_LINE and timestamps a short-circuit event. -/
  | glDesatRecognise (l : Fin 48) (at_ : Nat)
  /-- GL_CMD_WRITE (R277): CMD_TX TYPE WRITE sends a register write, refused while READY. -/
  | glCmdWrite (src : Source) (l : Fin 48) (reg : BitVec 8) (data : BitVec 16)
  /-- GL_CMD_READ (R277): CMD_TX TYPE READ sends a register read. -/
  | glCmdRead (src : Source) (l : Fin 48) (reg : BitVec 8) (data : BitVec 16)
  /-- GL_CMD_CLEAR_FAULT (R276): CMD_TX TYPE CLEAR_FAULT clears the driver's latched fault. -/
  | glCmdClearFault (src : Source) (l : Fin 48) (reg : BitVec 8) (data : BitVec 16)
  /-- GL_CMD_POLL (R277): CMD_TX TYPE POLL requests a telemetry frame. -/
  | glCmdPoll (src : Source) (l : Fin 48) (reg : BitVec 8) (data : BitVec 16)
  /-- GL_CMD_LOOP (R277): CMD_TX TYPE LOOP requests an echo. -/
  | glCmdLoop (src : Source) (l : Fin 48) (reg : BitVec 8) (data : BitVec 16)
  /-- GL_CMD_TIMEOUT (R277): no reply within 2 µs sets TIMEOUT under R47. -/
  | glCmdTimeout (l : Fin 48)
  /-- LV_BOOTSTRAP_UV (R282): A bootstrap below its falling threshold holds the high side off. -/
  | lvBootstrapUv (n : Fin 16) (mv : BitVec 16)
  /-- LV_VG_UV (R282): VGk below its threshold holds all four legs on it off and sets VG_UV. -/
  | lvVgUv (k : Fin 4) (mv : BitVec 16)
  /-- LV_UV_RECOVER (R282): A supply passing its rising threshold lets the output resume at the next period point. -/
  | lvUvRecover (n : Fin 16) (vg : Bool) (mv : BitVec 16)
  /-- LV_GATE_SENSE (R283): GSENSE_T after a switching, the sensed gate is compared with the command. -/
  | lvGateSense (n : Fin 16) (high on : Bool)
  /-- LV_QG_MEASURE (R284): A gate-charge measurement completes, is written to QG and may set QG_RANGE. -/
  | lvQgMeasure (n : Fin 16) (high : Bool) (qg : BitVec 16)
  /-- DRIVE_STOP (R298): A STOP command enters ASC above F_UCG, or STOPPED with the gate asserted. -/
  | driveStop (loop : Fin 512) (speed : Word)
  /-- DRIVE_RUN (R299): A RUN command in STOPPED starts the SENSE window; in ASC it is held pending. -/
  | driveRun (loop : Fin 512)
  /-- DRIVE_IDENT (R312): an IDENT command in STOPPED starts parameter identification. -/
  | driveIdent (loop : Fin 512)
  /-- DRIVE_CLEAR (R298): A CLEAR command in FAULT returns the drive to STOPPED. -/
  | driveClear (loop : Fin 512)
  /-- DRIVE_SENSE_WINDOW_END (R299): the back-EMF window ends, and the drive catches, aligns or runs on its sensor. -/
  | driveSenseWindowEnd (loop : Fin 512) (amp : BitVec 31) (speed angle : Word) (at_ : Nat)
  /-- DRIVE_ALIGN_DONE (R302): the saturation pulses finish and give the rotor angle, or ALIGN_FAIL. -/
  | driveAlignDone (loop : Fin 512) (fwd back : List (BitVec 32)) (north south : BitVec 32) (at_ : Nat)
  /-- REACQ_TIMEOUT (R309): no success by t_d + 5 ms puts the drive in FAULT with REACQ_FAIL. -/
  | reacqTimeout (loop : Fin 512)
  /-- IDENT_STEP_DONE (R313): an identification step ends, writing its result or failing with ID_FAIL. -/
  | identStepDone (loop : Fin 512) (ok : Bool) (meas : IdentMeas) (ramp at_ : Nat)
  /-- ACT_STOP (R315): MC_ACT STOP command. -/
  | actStop (loop : Fin 512)
  /-- ACT_MOVE (R315): MC_ACT MOVE command to a position index. -/
  | actMove (loop : Fin 512)
  /-- ACT_SHIFT (R317): MC_ACT SHIFT command runs the six-step synchroniser shift. -/
  | actShift (loop : Fin 512)
  /-- ACT_ENGAGE (R318): MC_ACT ENGAGE drives the park pawl if Isaenaim permits. -/
  | actEngage (loop : Fin 512)
  /-- ACT_RELEASE (R318): MC_ACT RELEASE releases the park pawl. -/
  | actRelease (loop : Fin 512)
  /-- ACT_PHASE_TIMEOUT (R317): A shift or park phase exceeding T_PHASE ends it with REASON and FAIL_STEP. -/
  | actPhaseTimeout (loop : Fin 512)
  /-- PUMP_NO_LOAD (R319): low IQ for 1 s at speed writes record 4D08h. -/
  | pumpNoLoad (loop : Fin 512)
  /-- CONV_ENABLE (R322): EN = 1 on a CONV page is checked and accepted or refused with PARAM. -/
  | convEnable (src : Source) (k : Fin 8)
  /-- CONV_RUN_REQUEST (R326): A RUN_REQ write starts SOFT_START or returns the converter to OFF. -/
  | convRunRequest (src : Source) (k : Fin 8) (run : Bool)
  /-- CONV_HICCUP_OFF_EXPIRE (R329): HC_OFF after a hiccup, the converter re-enters SOFT_START from zero. -/
  | convHiccupOffExpire (k : Fin 8)
  /-- CONV_RETRY_RESET (R329): 1 s continuously in RUN resets RETRIES. -/
  | convRetryReset (k : Fin 8)
  /-- CONV_SHED_TIMER (R330): low current for 10 ms starts shedding the highest phase. -/
  | convShedTimer (k : Fin 8)
  /-- CONV_HOLDOFF_EXPIRE (R331): the step hold-off ends and the shed timer restarts. -/
  | convHoldoffExpire (k : Fin 8)
  /-- CONV_INPUT_LOSS (R332): the input below VIN_MIN over LOSS_T enters INPUT_LOST. -/
  | convInputLoss (k : Fin 8) (largest : BitVec 32)
  /-- CONV_INPUT_RECOVER (R326): the input back for 100 ms with RUN_REQ 0 returns the converter to OFF. -/
  | convInputRecover (k : Fin 8) (least : Word)
  /-- PILOT_PERIOD (R337): A pilot period is measured for plateaux, duty and allowed current. -/
  | pilotPeriod (p : Fin 2) (high low : BitVec 12) (duty : BitVec 14) (freq : BitVec 16) (pwm : Bool) (at_ : Nat)
  /-- PILOT_STATE_CHANGE (R336): A new pilot band held for 3 periods changes STATE and CHG_CNT. -/
  | pilotStateChange (p : Fin 2) (level : BitVec 12)
  /-- PP_MEASURE (R338): the proximity resistance is measured and decoded into a cable rating. -/
  | ppMeasure (p : Fin 2) (mv : BitVec 16)
  /-- SQ_START (R345): SQ_CMD START checks the session and starts it at STEP0 or WAIT_PILOT. -/
  | sqStart (src : Source) (q : Fin 16)
  /-- SQ_STOP (R351): SQ_CMD STOP ends a session cleanly. -/
  | sqStop (src : Source) (q : Fin 16)
  /-- SQ_INVALID_OP (R345): an SQ_CMD with another OP is refused with PARAM. -/
  | sqInvalidOp (src : Source) (q : Fin 16) (high : Bool)
  /-- SESSION_PILOT_TIMEOUT (R339): no state C within 3 s of closing S2 ends the session with PILOT. -/
  | sessionPilotTimeout (q : Fin 16)
  /-- SESSION_RUN_READY (R339): state C with the input steady 100 ms raises RUN_REQ and enters RUNNING. -/
  | sessionRunReady (q : Fin 16) (least : Word)
  /-- SUPPLY_STATE_HOLD (R340): supply role: state B or C held 500 ms starts PWM or closes the contactor. -/
  | supplyStateHold (q : Fin 16)
  /-- SUPPLY_RUN_DELAY (R340): 100 ms after the contactor closes, RUN_REQ rises. -/
  | supplyRunDelay (q : Fin 16)
  /-- SESSION_END_COMPLETE (R351): the current falls or 10 ms pass, so the stage stops and the session enters DONE or ENDED. -/
  | sessionEndComplete (q : Fin 16)
  /-- SESSION_REDETECT (R351): pilot re-detection after AC loss may start a new session. -/
  | sessionRedetect (q : Fin 16)
  /-- BAT_DETECT (R353): VMEAS in the window for 100 ms sets BAT_PRESENT. -/
  | batDetect (q : Fin 16)
  /-- REST_OCV_POINT (R346): an OCV sample point of a REST step is stored. -/
  | restOcvPoint (q : Fin 16)
  /-- PULSE_EDGE (R347): A PULSE on or off edge switches the mode and measures OCV or DCIR. -/
  | pulseEdge (q : Fin 16)
  /-- ZSWEEP_UPDATE (R342): every 2 µs IREF takes the next sine perturbation value. -/
  | zsweepUpdate (q : Fin 16)
  /-- ZSWEEP_POINT_DONE (R350): A frequency point completes and its impedance is stored. -/
  | zsweepPointDone (q : Fin 16)
  /-- CELL_ASSIGN (R354): an SQCFG CELL write assigns or returns a leg to cell-cycling mode. -/
  | cellAssign (src : Source) (q : Fin 16) (v : Word)
  /-- THERM_SAMPLE (R364): A temperature channel is sampled and evaluated. -/
  | thermSample (ch : Fin 40) (temp : BitVec 16) (valid : Bool) (at_ : Nat)
  /-- THERM_RATE_DOWN (R364): 100 ms without its condition lowers a channel's sample rate. -/
  | thermRateDown (ch : Fin 56)
  /-- DOMAIN_STEP_UP (R370): the throttle level rises by 1 and the mailbox limit is written. -/
  | domainStepUp (d : Fin 8)
  /-- DOMAIN_RESTORE_STEP (R370): each 100 ms clear lowers the throttle level by 1. -/
  | domainRestoreStep (d : Fin 8)
  /-- DOMAIN_ENABLE (R371): enabling a domain sets L = 0 and writes its limit word. -/
  | domainEnable (src : Source) (d : Fin 8)
  /-- XT_TRIM_UPDATE (R374): every 100 ms the crystal trim is updated from temperature. -/
  | xtTrimUpdate
  /-- REF_CORRECTION_UPDATE (R375): A cluster's reference gain correction is recomputed. -/
  | refCorrectionUpdate (cluster : Fin 8) (corr : BitVec 16)
  /-- DL_CALIBRATION (R376): A spare delay line is calibrated against the crystal. -/
  | dlCalibration (p : Fin 41) (ok : Bool)
  /-- DL_SWAP (R376): the delay lines swap at a gap without scheduled edges. -/
  | dlSwap (p : Fin 41)
  /-- DL_DEFER (R376): no gap within 1 ms keeps the old line and sets DL_DEFER. -/
  | dlDefer (p : Fin 41)
  /-- SUPPLY_SAMPLE (R377): the monitor samples the supplies and flags three consecutive faults. -/
  | supplySample (k : Fin 9) (mv vkeep : BitVec 16)
  /-- CAL_SEC_WRITE (R379): A CAL_SEC write sets the calendar, zeroes CAL_SUB and sets CAL_VALID. -/
  | calSecWrite (src : Source) (v : Word)
  /-- CAL_SUB_READ (R379): A CAL_SUB read latches CAL_SEC into CAL_SEC_LAT. -/
  | calSubRead (src : Source)
  /-- CAL_SEC_TICK (R379): the calendar seconds increment. -/
  | calSecTick (at_ : Nat)
  /-- VSYS_FALL (R381): VSYS_OK falls and the hand-over to VBKP begins, or ship mode cuts the cell. -/
  | vsysFall (vbkp : BitVec 16)
  /-- HANDOVER_DONE (R381): the VBKP path conducts, SRC becomes VBKP and HO_CNT increments. -/
  | handoverDone
  /-- VSYS_RISE (R381): VSYS_OK rises and the return wait starts; it may also wake the main domain. -/
  | vsysRise
  /-- RETURN_WAIT_EXPIRE (R381): 5 ms of stable VSYS returns the path to VSYS. -/
  | returnWaitExpire
  /-- BKP_CUTOFF (R382): VBKP below CUTOFF for 100 ms opens the cell switch. -/
  | bkpCutoff (vbkp : BitVec 16)
  /-- BKP_CHARGE_PHASE_END (R383): A backup charge or rest phase ends and the OCV decides the next phase. -/
  | bkpChargePhaseEnd (ocv : BitVec 16)
  /-- BKP_CHARGE_TIMEOUT (R383): no 10 mV rise in 1 h sets CHG_FAULT. -/
  | bkpChargeTimeout
  /-- SHIP_ARM (R384): SHIP_CMD 53A5h arms ship mode. -/
  | shipArm (src : Source)
  /-- SHIP_DISARM (R384): SHIP_CMD 0000h disarms ship mode. -/
  | shipDisarm (src : Source)
  /-- SHIP_WAKE_EVENT (R385): SHIP_WAKE low for 50 ms wakes the device or ends ship mode. -/
  | shipWakeEvent
  /-- WAKE_IN_EVENT (R385): WAKE_IN high for 1 ms raises KEN_PWREN. -/
  | wakeInEvent
  /-- POWER_OFF (R385): WAKE_CFG PWR_OFF flushes the lifetime counters and drops KEN_PWREN. -/
  | powerOff (src : Source)
  /-- TOKEN_CLEAR (R380): TOKEN_CTRL CLR invalidates the warm token. -/
  | tokenClear (src : Source)
  /-- RET_DATA_ACCESS (R389): A RET_DATA access reads or writes retained SRAM and increments RET_ADDR. -/
  | retDataAccess (src : Source) (write : Option Word) (bad : Bool)
  /-- KENNEL_COLD_START (R378): VKEEP returns after loss, and the Kennel restarts with reset values and KCOLD. -/
  | kennelColdStart (vsys : Bool)
  /-- WATCHDOG_FIRE (R391): A refresh out of its window fires the watchdog, which applies both STO cuts. -/
  | watchdogFire (fbA fbB : Bool)
  /-- ISN_CORE_MISMATCH (R390): differing Isaenaim core writes stop both cores and the watchdog refreshes. -/
  | isnCoreMismatch
  /-- REF_WINDOW_CHECK (R392): every 100 µs the crystal count is checked, setting or releasing REF_LOST. -/
  | refWindowCheck (count : BitVec 16)
  /-- REF_EDGE_LOSS (R392): no crystal edge for 1 µs declares the reference out of range. -/
  | refEdgeLoss
  /-- RUN_REQ (R394): RUN_REQ in SAFE enters RUN if every condition holds, else sets RUN_REFUSED. -/
  | runReq (src : Source)
  /-- RESUME (R397): RESUME in DEGRADED with no fault active returns to RUN and restores the limits. -/
  | resume (src : Source)
  /-- SAFE_REQ (R393): SAFE_REQ puts Isaenaim in SAFE. -/
  | safeReq (src : Source) (fbA fbB : Bool)
  /-- FAULT_REPORT (R396): A fault source reports to Isaenaim, which reacts by its class within 10 µs. -/
  | faultReport (fbA fbB : Bool)
  /-- FAULT_CLEARED (R396): A degradable fault is reported absent by its clearing means. -/
  | faultCleared (src : Fin 25)
  /-- DEGRADED_EXPIRE (R397): DEG_TMAX expires with a fault active, so Isaenaim enters SAFE. -/
  | degradedExpire (fbA fbB : Bool)
  /-- ASC_EXIT (R399): low speed for 100 ms or ASC_TMAX moves a group from ASC to STO. -/
  | ascExit (g : Fin 8) (fbA fbB : Bool)
  /-- STO_REQUEST (R401): STO_REQ or a demand applies both cuts and clears leg and link enables. -/
  | stoRequest (src : Source) (fbA fbB : Bool)
  /-- STO_REL (R402): STO_REL releases both cuts if permitted, else it is refused with SAFETY. -/
  | stoRel (src : Source) (fbA fbB : Bool)
  /-- STO_PULSE_TEST (R402): every 8 h of STO each cut is pulsed off in turn and read back. -/
  | stoPulseTest (fbA fbB : Bool)
  /-- SS1_REQ (R403): an SS1 demand enters SS1, zeroes the speed limit and records v0. -/
  | ss1Req (src : Source)
  /-- SS1_ENVELOPE_CHECK (R403): every 1 ms of SS1-r the speed is checked against the envelope and standstill. -/
  | ss1EnvelopeCheck (fbA fbB : Bool)
  /-- SS1_TIMEOUT (R403): SS1_T expires, so STO is applied and Isaenaim enters SAFE. -/
  | ss1Timeout (fbA fbB : Bool)
  /-- SBC_REL (R404): an SBC_REL write releases or engages the brake. -/
  | sbcRel (src : Source) (on : Bool)
  /-- SBC_DELAY_EXPIRE (R404): SBC_DLY after STO or brake engagement, the delayed action applies. -/
  | sbcDelayExpire (fbA fbB : Bool)
  /-- SBC_TEST_PULSE (R405): every SBC_TPER each switch is pulsed off and read back, and a failure sets SBC_FAULT. -/
  | sbcTestPulse (off : Bool)
  /-- HOLD_START (R406): HOLD_START opens the brake switches and starts the holding test. -/
  | holdStart (src : Source)
  /-- HOLD_READY (R406): HOLD_SET after the start, READY is set and movement tracking starts. -/
  | holdReady
  /-- HOLD_TEST_END (R406): HOLD_T ends the test with HOLD_DONE, or HOLD_FAIL on excess movement. -/
  | holdTestEnd
  /-- PARK_SPEED_UPDATE (R407): ENGAGE_OK or RELEASE_OK changes and is written to the PL word. -/
  | parkSpeedUpdate (at_ : Nat)
  /-- PL_CMD (R407): PL_CMD starts or restarts the PL_T confirmation interval. -/
  | plCmd (src : Source)
  /-- PARK_CONFIRM_TIMEOUT (R407): PL_T ends without the position input, setting PARK_FAIL. -/
  | parkConfirmTimeout
  /-- TPS_PULSE (R408): A test-pulse source pulls its line low for TP_W in its slot. -/
  | tpsPulse (k : Fin 4)
  /-- SAFE_INPUT_PERIOD (R409): at each period end a safe input is classed ACTIVE, DEMAND or fault. -/
  | safeInputPeriod (n : Fin 8) (look : SinLook) (fbA fbB : Bool)
  /-- SAFE_INPUT_DEMAND (R409): A low outside the slots longer than TP_W + SIN_FILT is a demand at once. -/
  | safeInputDemand (n : Fin 8) (fbA fbB : Bool)
  /-- SAFE_PAIR_DISCREPANCY (R410): channels of a pair differing for DISC_T set SIN_DISC. -/
  | safePairDiscrepancy (m : Fin 4) (fbA fbB : Bool)
  /-- EL_PORT_ENABLE (R422): port EN = 1 starts probe and training, and EN = 0 takes the port DOWN. -/
  | elPortEnable (src : Source) (port : Fin 4) (en : Bool)
  /-- EL_PROBE (R422): the probe edge's reflection gives the cable length, OPEN or SHORT. -/
  | elProbe (port : Fin 4) (refl : Reflection)
  /-- EL_BLOCK_LOCK (R415): 64 valid sync headers give block lock. -/
  | elBlockLock (port : Fin 4)
  /-- EL_BLOCK_LOCK_LOSS (R415): 16 invalid headers in 64 lose block lock and return the port to TRAIN. -/
  | elBlockLockLoss (port : Fin 4)
  /-- EL_RX_SUSPEND (R418): A SUSPEND block suspends the packet in progress. -/
  | elRxSuspend (port : Fin 4)
  /-- EL_RX_RESUME (R418): A RESUME block resumes the suspended packet. -/
  | elRxResume (port : Fin 4)
  /-- EL_RX_ABORT (R417): an ABORT block ends the packet in progress as invalid. -/
  | elRxAbort (port : Fin 4)
  /-- EL_RX_CREDIT (R416): A CREDIT block returns best-effort credits. -/
  | elRxCredit (port : Fin 4) (units : BitVec 16)
  /-- EL_RX_BLOCK_ERROR (R417): A misplaced data or SOP block, or a reserved type, is counted in SYNC_ERR. -/
  | elRxBlockError (port : Fin 4)
  /-- EL_FORWARD (R420): an SOP for another device is forwarded by cut-through with TTL decremented. -/
  | elForward (port : Fin 4) (ptype : BitVec 4) (pk : Pkt) (at_ : Nat)
  /-- EL_RX_FLOW (R432): A FLOW packet is checked and its words written to the sink endpoint. -/
  | elRxFlow (port : Fin 4) (pk : Pkt) (at_ : Nat)
  /-- EL_RX_MSG (R430): A MSG packet is placed in an endpoint queue ring. -/
  | elRxMsg (port : Fin 4) (pk : Pkt)
  /-- EL_RX_MREQ (R419): A management request performs a register access with SOURCE fabric mailbox. -/
  | elRxMreq (port : Fin 4) (pk : Pkt)
  /-- EL_RX_MRSP (R419): A management response completes a mailbox request. -/
  | elRxMrsp (port : Fin 4) (pk : Pkt) (at_ : Nat)
  /-- EL_RX_RESV (R431): A reservation request tests the output link and holds a tentative window. -/
  | elRxResv (port : Fin 4) (rq : Resv) (keyOk : Bool)
  /-- EL_RX_RESV_ACK (R431): A reservation answer commits or releases windows and completes the flow admission. -/
  | elRxResvAck (port : Fin 4) (kind : ResvKind) (dev : BitVec 14) (flow : Fin 64) (reason : BitVec 8) (sm : Nat)
  /-- EL_RX_TIME (R426): A TIME packet updates the servo, LOCKED and may step ST. -/
  | elRxTime (port : Fin 4) (sent rootOfs : Nat) (at_ : Nat)
  /-- EL_RX_DESC (R422): A DESC descriptor is taken and authentication may start. -/
  | elRxDesc (port : Fin 4) (d : Desc)
  /-- EL_RX_ELECT (R422): an ELECT packet may lower the best known root UID. -/
  | elRxElect (port : Fin 4) (uid : BitVec 64) (dist : BitVec 8)
  /-- EL_RX_ADDR (R422): an ADDR packet assigns the device address. -/
  | elRxAddr (port : Fin 4) (addr : Option (BitVec 14)) (level : BitVec 8) (parent : BitVec 14)
  /-- EL_RX_TOPO (R423): A TOPO flood builds and installs the route table. -/
  | elRxTopo (port : Fin 4) (adj : List TopoRec) (allReported : Bool)
  /-- EL_RX_AUTH (R436): an AUTH exchange verifies the peer and derives the link key, or isolates the port. -/
  | elRxAuth (port : Fin 4) (cert : LinkCert) (sigOk : Bool)
  /-- EL_RX_KEYX (R437): A KEYX packet agrees a flow key. -/
  | elRxKeyx (source : Bool) (n : Fin 64) (ok : Bool)
  /-- DISC_CMD (R422): DISC_CMD requests discovery from the root. -/
  | discCmd (src : Source)
  /-- ELECTION_TIMEOUT (R422): the best UID unchanged for 50 ms makes its owner root. -/
  | electionTimeout
  /-- PORT_DOWN_TIMEOUT (R424): A port DOWN for 100 ms sets TOPO_CHG and reports to the root. -/
  | portDownTimeout (port : Fin 4)
  /-- TIME_SEND (R426): every 1 ms the parent sends TIME. -/
  | timeSend (port : Fin 4)
  /-- TIME_DELAY_EXCHANGE (R426): every 100 ms the link delay is measured. -/
  | timeDelayExchange (port : Fin 4) (t1 t2 t3 t4 : Nat)
  /-- FLOW_OPEN (R431): FLOW_CMD open admits a scheduled flow along its route. -/
  | flowOpen (src : Source) (flow : Fin 64)
  /-- FLOW_CLOSE (R433): FLOW_CMD close releases every window and closes the flow. -/
  | flowClose (src : Source) (flow : Fin 64)
  /-- FLOW_TEST_ONLY (R431): FLOW_CMD test only applies the admission without committing. -/
  | flowTestOnly (src : Source) (flow : Fin 64)
  /-- RESV_TENTATIVE_EXPIRE (R431): A tentative window not settled in 10 ms is released. -/
  | resvTentativeExpire (port : Fin 4) (dev : BitVec 14) (flow : Fin 64)
  /-- FLOW_CAPTURE (R429): at φ − 200 ns the flow's words are captured whole. -/
  | flowCapture (flow : Fin 64)
  /-- FLOW_SEND (R432): at n × P + φ the flow packet leaves the source port. -/
  | flowSend (flow : Fin 64)
  /-- FLOW_SINK_LIMIT (R432): the sink limit wins, so a late packet is discarded and MISS_CNT increments. -/
  | flowSinkLimit (ep : Fin 64) (at_ : Nat)
  /-- MSG_SEND (R430): MSG_CMD SEND sends the MSG buffer to an endpoint. -/
  | msgSend (src : Source) (len : BitVec 11)
  /-- LINK_KEY_RENEW (R436): every 24 h the link key is renewed. -/
  | linkKeyRenew (port : Fin 4) (cert : LinkCert) (sigOk : Bool)
  /-- TIME_OFFSET_WRITE (R442): A TIME_OFS write steps or slews ST on the root. -/
  | timeOffsetWrite (src : Source) (v : Word)
  /-- ATT_CMD (R438): ATT_CMD starts an attestation signature, or is refused while fenced. -/
  | attCmd (src : Source)
  /-- ATT_DONE (R438): the attestation signature is ready within 5 ms. -/
  | attDone
  /-- KEY_DATA_WRITE (R439): A KEY_DATA write stores a key word and increments KEY_ADDR. -/
  | keyDataWrite (src : Source) (v : Word)
  /-- KEY_LOAD (R439): KEY_CMD LOAD loads the written key into the slot. -/
  | keyLoad (src : Source)
  /-- KEY_LOCK (R439): KEY_CMD LOCK makes a slot permanent. -/
  | keyLock (src : Source)
  /-- PROV_CLOSE (R439): KEY_CMD PROV_CLOSE ends provisioning. -/
  | provClose (src : Source)
  /-- RNG_READ (R447): an RNG_DATA read returns 32 fresh random bits. -/
  | rngRead (src : Source) (reseedFails : Bool)
  /-- CAN_TX_REQUEST (R440): A TX_REQ bit requests transmission of a buffer. -/
  | canTxRequest (src : Source) (n : Fin 3) (mask : Word)
  /-- CAN_TX_DONE (R440): A CAN frame is sent and TX_DONE is set. -/
  | canTxDone (n : Fin 3) (b : Fin 32) (at_ : Nat)
  /-- CAN_RX_FRAME (R440): A CAN frame is received, timestamped and filtered into a FIFO. -/
  | canRxFrame (n : Fin 3) (fifo : Option Bool) (len : Fin 2049) (at_ : Nat)
  /-- CAN_MSG_ACCESS (R445): A MSG_DATA access reads or writes message storage and increments MSG_ADDR. -/
  | canMsgAccess (src : Source) (n : Fin 3) (write : Option Word)
  /-- ETH_RX_FRAME (R441): an Ethernet frame is received into the RX ring and timestamped if it matches. -/
  | ethRxFrame (n : Fin 2) (dst : BitVec 48) (len : Fin 1523) (kind : TsKind) (descOk : Bool) (at_ : Nat)
  /-- ETH_TX_FRAME (R441): an Ethernet frame is sent from the TX ring and timestamped if it matches. -/
  | ethTxFrame (n : Fin 2) (len : Fin 1523) (kind : TsKind) (at_ : Nat)
  /-- MDIO_CMD (R441): MDIO_CMD starts a Clause 22 read or write. -/
  | mdioCmd (src : Source) (n : Fin 2) (v : Word)
  /-- MDIO_DONE (R441): the MDIO transaction completes and BUSY clears. -/
  | mdioDone (n : Fin 2) (data : BitVec 16)
  /-- RECORD_WRITE_DONE (R452): A staged record and HEAD are written to MRAM. -/
  | recordWriteDone (p : Fin 3)
  /-- RECORD_REPEAT_UPDATE (R455): accumulated repeats are written in place, at most once per 100 µs. -/
  | recordRepeatUpdate (p : Fin 3)
  /-- HREC_CMD (R468): HREC_CMD GO writes a host record, or is refused for a CODE below 8000h. -/
  | hrecCmd (src : Source) (v : Word)
  /-- REC_SEL_WRITE (R468): A REC_SEL write selects a record, or is refused with PARAM. -/
  | recSelWrite (src : Source) (index : BitVec 15) (part : BitVec 2)
  /-- CLEAR_NONCE (R459): CLR_CMD NONCE requests a clear challenge. -/
  | clearNonce (src : Source)
  /-- CLEAR_NONCE_READY (R459): the nonce is ready and STATE becomes NONCE_READY. -/
  | clearNonceReady
  /-- CLEAR_GO (R461): CLR_CMD GO with a valid MAC clears the partition, else it is refused. -/
  | clearGo (src : Source)
  /-- CLEAR_NONCE_EXPIRE (R459): A nonce expires 10 s after issue. -/
  | clearNonceExpire
  /-- CLEAR_LOCKOUT_EXPIRE (R459): 60 s after three refusals NONCE is accepted again. -/
  | clearLockoutExpire
  /-- LIFE_FLUSH_TIMER (R464): every 60 s the lifetime data is written to NV. -/
  | lifeFlushTimer
  /-- FLUSH_CMD (R464): FLUSH_CMD flushes the lifetime data now. -/
  | flushCmd (src : Source)
  /-- LIFE_FLUSH_DONE (R464): A flush completes, or fails with record 5204h. -/
  | lifeFlushDone (ok : Bool)
  /-- MODULE_TJ_UPDATE (R465): every 1 ms a module's junction temperature and rainflow count are updated. -/
  | moduleTjUpdate (m : Fin 8)
  /-- MOD_RESET (R467): MOD_RESET clears a module's history in SAFE. -/
  | modReset (src : Source)
  /-- PROG_DATA_WRITE (R114): A PROG_DATA write stores a word in the inactive bank and invalidates it. -/
  | progDataWrite (src : Source) (v : Word)
  /-- AUTH_CMD (R470): AUTH_CMD starts authentication of the inactive bank. -/
  | authCmd (src : Source)
  /-- AUTH_DONE (R470): authentication completes with PASS or a failing check. -/
  | authDone (at_ : Nat)
  /-- COMMIT_VERSION (R115): VER_CMD COMMIT_VERSION raises MIN_VERSION to the active VERSION. -/
  | commitVersion (src : Source)
  /-- DMEM_WRITE (R120): A DMEM_DATA write stores a data word if the owning loop permits. -/
  | dmemWrite (src : Source) (p : Fin 36) (v : Word)
  /-- DMEM_READ (R119): A DMEM_DATA read returns a word and increments DMEM_ADDR. -/
  | dmemRead (src : Source) (p : Fin 36)
  /-- PMEM_READ (R119): A PMEM_DATA read returns a program word and increments PMEM_ADDR. -/
  | pmemRead (src : Source) (p : Fin 36)
  /-- SHM_WRITE (R121): an SHM_DATA write stores a shared SRAM word. -/
  | shmWrite (src : Source) (p : Fin 36) (v : Word)
  /-- SHM_READ (R121): an SHM_DATA read returns a corrected word and increments SHM_ADDR. -/
  | shmRead (src : Source) (p : Fin 36) (mf : MemFault)
  /-- SLOT_CLEAR (R119): SLOT_CLR clears SLOT_WU_MAX of the selected slot. -/
  | slotClear (src : Source) (p : Fin 36)
  /-- POWER_UP (R471): the main supplies reach their release thresholds. -/
  | powerUp
  /-- PORST_ASSERT (R472): PORST_N low ends any start and puts every output in its reset state. -/
  | porstAssert (long : Bool) (torn : Option Torn)
  /-- BROWN_OUT (R471): A supply below its brown-out level for 1 µs acts as PORST_N. -/
  | brownOut (long : Bool) (torn : Option Torn)
  /-- COLD_START (R474): A release starts the cold start, steps C1 to C10. -/
  | coldStart (run : ColdRun)
  /-- WRST_RELEASE (R476): WRST_N release starts a warm start if the warm conditions hold, else a cold start. -/
  | wrstRelease
  /-- WARM_START (R478): the warm start runs steps W1 to W11. -/
  | warmStart (run : WarmRun)
  /-- START_RETRY (R481): after the retry delay the HKE begins the next start itself. -/
  | startRetry
  /-- WATCHDOG_REFRESH (R391): isaenaim refreshes the independent watchdog, which checks that the refresh falls 50–150 µs after the previous one and restarts its window. -/
  | watchdogRefresh (at_ : Nat)
  /-- GL_LOOP_ECHO_TIMEOUT (R274): the echo of an idle-link LOOP frame fails to arrive within its limit, which counts as a failed echo, and two in succession put the link in FAULT with LOOP_FAIL. -/
  | glLoopEchoTimeout (l : Fin 48)
  /-- SBC_READBACK_FAULT (R405): while a brake switch is commanded on, its readback stops showing it on; both switches open, SBC_FAULT is set and fault source 19 is reported. -/
  | sbcReadbackFault (low : Bool)
  /-- VKEEP_LOSS (R378): VKEEP collapses (VSYS absent with the cell switch open, VBKP absent, or the capacitor discharged in ship mode), and the Kennel loses its calendar, retained SRAM, token and wake logic. -/
  | vkeepLoss
  /-- TAP_TEST_LOGIC_RESET (R179): TRST_N low, or TMS held high, puts the test access port in Test-Logic-Reset, which loads IDCODE into the instruction register. -/
  | tapTestLogicReset
  /-- WARM_REUSE_TIMEOUT (R425): within 20 ms of a warm start not every previously UP port has come UP with its stored peer, so the device sets TOPO_CHG and proceeds under R424 instead of reusing its address and table. -/
  | warmReuseTimeout
deriving DecidableEq, Repr

end Sys2Proof
end

