-- ==== Sys2Proof/Decode.lean ====
section
/-! DEFINITION. The command that a word spells: the table gives no row bits, so there is none. -/

namespace Sys2Proof

/-- The command that a word of `nbits` bits spells by the table's bits. -/
def decodeTableWord (_nbits _w : Nat) : Option Instr := none

end Sys2Proof
end

