-- ==== Sys2Proof/Config.lean ====
section
/-! DEFINITION. What is fixed for one device, and the free values: constants with no body, which nothing in Lean can
evaluate. -/

namespace Sys2Proof.Config

/-- System Time ticks in one microsecond: a tick is 20 ns / 512 = 39.0625 ps (R20), so 25,600 ticks. -/
abbrev us : Nat := 25600

/-- System Time ticks in one millisecond. -/
abbrev ms : Nat := 25600000

/-- System Time ticks in one second. -/
abbrev sec : Nat := 25600000000

/-- Ticks covering `n` nanoseconds, rounded up: 1 ns is 25.6 ticks (R20). -/
def ns (n : Nat) : Nat := (n * 128 + 4) / 5

/-- Random words of the deterministic random bit generator (R447), by the count of words drawn. FREE VALUE, log 9. -/
opaque randomWord : Nat → Word

/-- Words of a slice of shared SRAM that show a double-bit error when a march test copies it, by count of free values drawn. FREE
VALUE, log 61. -/
opaque eccDouble : Nat → List (BitVec 10)

/-- Levels at the digital pins, and levels shifted into their boundary cells, by count of free values drawn. FREE VALUE, log 77. -/
opaque pinLevels : Nat → List Bool

/-- Event codes of records whose code the spec does not give, by kind of event. FREE VALUE, log 10. -/
opaque eventCode : Nat → BitVec 16

/-- Payloads of records whose payload the spec does not give, by kind of event and count of free values drawn. FREE
VALUE, log 10. -/
opaque eventPayload : Nat → Nat → BitVec 64

/-- Words whose value the spec leaves open, by count of free values drawn. FREE VALUE, log 9. -/
opaque freeWord : Nat → Word

/-- Bytes 20–23 of a motor library record: they carry the loop number, DSTATE, and the layer, REASON or direction of Table 9.11,
in places the spec does not give. FREE VALUE, log 10. -/
opaque drivePayload : Nat → Nat → Nat → Word

/-- The torque command of MC_SPD's control law, which the spec does not give, by the speed command, the speed estimate and the
count of free values drawn. FREE VALUE, log 67. -/
opaque speedLaw : Word → Word → Nat → Word

/-- Where the d-axis lies between neighbouring directions, by the summed times of the shortest axis and of the axes beside it: the
spec gives no formula. FREE VALUE, log 67. -/
opaque alignBetween : Nat → Nat → Nat → Word

/-- ASTATE codes of an MC_ACT, by what it does: the spec gives none. FREE VALUE, log 26. -/
opaque actCode : Nat → BitVec 4

/-- Shared-SRAM index of an MC_ACT's status, whose place in its parameter block the spec does not give, by loop. FREE VALUE,
log 26. -/
opaque actIndex : Nat → Nat

/-- The calibrated internal delay of an Erelo port's probe, ps (R422), by port. FREE VALUE, log 4. -/
opaque probeDelay : Nat → Nat

/-- First 16 bytes of the SHA-256 of this device's certificate (Table 13.5). FREE VALUE, log 4. -/
opaque certDigest : BitVec 128

/-- First word in message storage of an element of a CAN receive FIFO, by FIFO and element. FREE VALUE, log 33. -/
opaque canElement : Nat → Nat → Nat

/-- Words of the header of a CAN receive element. FREE VALUE, log 33. -/
opaque canHeader : Nat

/-- The bit of the hash filter that an Ethernet address selects. FREE VALUE, log 33. -/
opaque ethHash : BitVec 48 → Nat

/-- Whether a MAC passes broadcast frames. FREE VALUE, log 33. -/
opaque ethBroadcast : Bool

/-- First shared-SRAM word of the buffer of a receive descriptor, by MAC and descriptor. FREE VALUE, log 33. -/
opaque ethBuffer : Nat → Nat → Nat

/-- The eight payload bytes of a record whose contents the spec lists without their places, by code and contents. FREE VALUE,
log 10. -/
opaque listedPayload : Nat → Nat → Nat → Nat → BitVec 64

/-- Words beyond the last word of shared SRAM, by index. FREE VALUE, log 84. -/
opaque absentShm : Nat → Word

/-- The factor e^(−1 ms ÷ τ) in units of 2^-32, as the device holds it, by τ in µs. FREE VALUE, log 34. -/
opaque decay : Nat → Nat

end Sys2Proof.Config
end

