-- ==== Sys2Proof/Machine/Tab.lean ====
section
/-! DEFINITION. Sparse tables: a list of key and value pairs with strictly rising keys, the one canonical form in
which the model holds registers, memories and arrays. -/

namespace Sys2Proof.Machine

/-- A sparse table. An unlisted key reads as what the reader of the table says. -/
abbrev Tab (α : Type) := List (Nat × α)

/-- What the table holds at a key. -/
def Tab.find {α : Type} : Tab α → Nat → Option α
  | [], _ => none
  | (k, v) :: t, a => if k = a then some v else Tab.find t a

/-- What the table holds at a key, else a default. -/
def Tab.at {α : Type} (t : Tab α) (d : α) (a : Nat) : α := (Tab.find t a).getD d

/-- The table with a value at a key, its keys kept rising. -/
def Tab.put {α : Type} : Tab α → Nat → α → Tab α
  | [], a, x => [(a, x)]
  | (k, v) :: t, a, x =>
    if a < k then (a, x) :: (k, v) :: t
    else if a = k then (a, x) :: t
    else (k, v) :: Tab.put t a x

/-- The table without a key. -/
def Tab.del {α : Type} : Tab α → Nat → Tab α
  | [], _ => []
  | (k, v) :: t, a => if k = a then Tab.del t a else (k, v) :: Tab.del t a

/-- The table without the keys a test picks. -/
def Tab.drop {α : Type} (p : Nat → Bool) : Tab α → Tab α
  | [] => []
  | (k, v) :: t => if p k then Tab.drop p t else (k, v) :: Tab.drop p t

/-- The table with a value at a key, where the default value is not listed. -/
def Tab.set {α : Type} [DecidableEq α] (t : Tab α) (d : α) (a : Nat) (x : α) : Tab α :=
  if x = d then Tab.del t a else Tab.put t a x

/-- A change of the value at a key, where the default value is not listed. -/
def Tab.upd {α : Type} [DecidableEq α] (t : Tab α) (d : α) (a : Nat) (f : α → α) : Tab α :=
  Tab.set t d a (f (Tab.at t d a))

/-- The keys rise strictly, and every key is above `lo`. -/
def Tab.rising {α : Type} : Option Nat → Tab α → Bool
  | _, [] => true
  | none, (k, _) :: t => Tab.rising (some k) t
  | some lo, (k, _) :: t => decide (lo < k) && Tab.rising (some k) t

end Sys2Proof.Machine
end

