-- ==== Sys2Proof/Machine/State.lean ====
section
/-! DEFINITION. The state of the device. Registers, memories and arrays are sparse tables: an unlisted key reads as its
reset value. -/

namespace Sys2Proof.Machine

/-- Why a step stops. No operation of the device stops on a fault: the type has no constructor, so no command can
answer one (safe: nothing is hidden behind a fault). -/
inductive Fault where
deriving DecidableEq, Repr

/-- Why a command has no meaning. -/
inductive Refusal where
  /-- The command has no meaning in this model yet. Raised by the arms of `exec` that name it; safe. -/
  | notModelled (mnemonic : String)
deriving DecidableEq, Repr

/-- The unlock state of a page (R65). -/
structure LockSt where
  /-- Writes left in the window, 0–64. -/
  remain : Nat := 0
  /-- ST at which the window was opened. -/
  openedAt : Nat := 0
  /-- 5A5Ah received, waiting for A5A5h. -/
  armed : Bool := false
deriving DecidableEq, Repr

/-! ### Engines and loops -/

/-- A LOOP in progress in a core (R104): offsets of its body and the passes left. -/
structure Frame where
  first : Nat
  last : Nat
  left : Nat
deriving DecidableEq, Repr

/-- An entry of a core's commit list (R147). -/
inductive Entry where
  /-- A staged OUT: port and value. -/
  | out (port : Nat) (v : Word)
  /-- A buffered store to a word of the loop's data segment. -/
  | store (idx : Nat) (v : Word)
  /-- A buffered store to a word of the loop's shared-SRAM window, by shared-SRAM word. -/
  | share (word : Nat) (v : Word)
  /-- A flag update: 0 SAT, 1 OVF, 2 DIV0, 3 SAT_ACC, 4 SAT_OUT. -/
  | flag (bit : Nat)
deriving DecidableEq, Repr

/-- One core of a pair (R85): a key that is not listed reads as 0. -/
structure CoreSt where
  /-- w0–w31. -/
  w : Tab Word := []
  /-- a0–a3, 72 bits. -/
  acc : Tab (BitVec 72) := []
  /-- p1–p7; p0 always reads 1. -/
  p : Tab Bool := []
  /-- ITER_FLAGS (port 1102h). -/
  flags : BitVec 5 := 0
  /-- Offset of the next instruction in the loop's code. -/
  pc : Nat := 0
  /-- WU charged in this iteration (R109). -/
  wu : Nat := 0
  /-- LOOPs in progress, innermost first. -/
  frames : List Frame := []
  /-- The commit list, oldest entry first. -/
  list : List Entry := []
  /-- Offset of the first access of the iteration outside its range (R98). -/
  memRej : Option Nat := none
deriving DecidableEq, Repr

/-- A port whose WAITP limit has won: for the cores that waited, IN returns its value then until the iteration ends (R106). -/
structure Frozen where
  port : Nat
  val : Word
  tag : Nat
  /-- A late value has been counted. -/
  late : Bool := false
  cores : Cores := .both
deriving DecidableEq, Repr

/-- Where the running iteration of a pair stands. -/
inductive RunPhase where
  /-- A plain pass, or the recompute of a run-ahead loop. -/
  | plain
  /-- The speculative pass of a run-ahead loop (R139). -/
  | speculative
  /-- The speculative pass has reached END and waits for its inputs. -/
  | inputWait
deriving DecidableEq, Repr

/-- The iteration a pair runs. -/
structure RunSt where
  loop : Nat
  slot : Nat
  /-- ST of the trigger. -/
  trig : Nat
  phase : RunPhase := .plain
  /-- Recompute of a run-ahead iteration: INs return the latched inputs. -/
  recompute : Bool := false
  /-- Marked ADIV (R153). -/
  adiv : Bool := false
  /-- PRED_i and G_ji as latched at the trigger (R139). -/
  pred : List Word := []
  gain : List Word := []
  /-- r_i of core A and core B as latched (R139). -/
  latchedA : List Word := []
  latchedB : List Word := []
  /-- ST at which the speculative pass reached END. -/
  specEnd : Nat := 0
  /-- A WAITP in progress: predicate, port and the ST of its limit. -/
  wait : Option (Nat × Nat × Nat) := none
  /-- The cores that wait at it; the other one has gone on (R106). -/
  waitOn : Cores := .both
  /-- Ports whose WAITP limit has won (R106). -/
  frozen : List Frozen := []
  /-- CMP_CFG as the iteration uses it (R184). -/
  cmp : Word := 0x00641410#32
  /-- Ports whose fresh marks this pass has cleared, restored on squash (R142). -/
  cleared : List Nat := []
deriving DecidableEq, Repr

/-- A loop beside its descriptor registers. -/
structure LoopSt where
  /-- The trigger of an accepted iteration that waits for its pair. -/
  ready : Option Nat := none
  /-- ST of the last accepted trigger (R126). -/
  lastTrig : Option Nat := none
  /-- A pending state command: its OP and the PAIRCMP instance and source it came through (R132); none for the device. -/
  cmd : Option (Nat × Option (Nat × Source)) := none
  /-- Held by Isaenaim (R132). -/
  held : Bool := false
  /-- A withdrawal waits for the period boundary (R37). -/
  withdraw : Bool := false
  /-- The set-point latched at the last accepted trigger (R130). -/
  setpt : Word := 0
  /-- Counted inner triggers since the cascade restarted, kept on the outer loop (R136). -/
  cascCount : Nat := 0
  /-- Inner triggers accepted, kept on the inner loop (R137). -/
  trigCount : Nat := 0
  /-- The inner trigger at which the set-point of the present outer iteration is due, kept on the outer loop (R137). -/
  spDue : Option Nat := none
  /-- Whether that outer iteration has committed, and the value it wrote to the set-point word (R137). -/
  spOk : Bool := false
  spVal : Option Word := none
  /-- Oscillation detector: average, error before, cycle length, range of e and of u less its average (R145). -/
  sdAvg : Word := 0
  sdPrev : Option Word := none
  sdLen : Nat := 0
  sdRun : Bool := false
  sdEmin : Int := 0
  sdEmax : Int := 0
  sdUmin : Int := 0
  sdUmax : Int := 0
  /-- The detector opens the loop at its next period boundary (R146). -/
  sdOpen : Bool := false
  /-- A migration: destination pair, and its cause. -/
  mig : Option (Nat × Nat) := none
  /-- Destination slot and blocks: slot, program base, data base. -/
  migBlk : Nat × Nat × Nat := (0, 0, 0)
  /-- 0 pre-copy, 1 final copy, 2 ready for the switching boundary. -/
  migStep : Nat := 0
  /-- Dirty words of the source segment (R165). -/
  migDirty : List Nat := []
  migDefer : Nat := 0
  migFail : Bool := false
  /-- Causes of AT_RISK: slack (R38), re-evaluation (R50), skew (R45), MIG_FAIL (R165). -/
  riskSlack : Bool := false
  riskTest : Bool := false
  riskSkew : Bool := false
  riskMig : Bool := false
  /-- Program and data copied from the bank as they were admitted: cost used (R140), wait charge (R32). -/
  cost : Nat := 0
  waitCharge : Nat := 0
  /-- The regions the loop spans (R31). -/
  span : List Nat := []
  /-- Shared-SRAM window: base and length in words (Table 3.9). -/
  shmBase : Nat := 0
  shmLen : Nat := 0
  /-- The port list: port, read and write (Table 3.9). -/
  ports : List (Nat × Bool × Bool) := []
deriving DecidableEq, Repr

/-- One CLE pair beside its registers. -/
structure PairSt where
  a : CoreSt := {}
  b : CoreSt := {}
  run : Option RunSt := none
  /-- Program memories of core A and core B. -/
  pmemA : Tab Word := []
  pmemB : Tab Word := []
  /-- Data memories of core A and core B. -/
  dmemA : Tab Word := []
  dmemB : Tab Word := []
  /-- Poisoned data-memory words (R166). -/
  poison : List Nat := []
  /-- STs of the input disagreements of the last 1 ms (R156). -/
  disagree : List Nat := []
  /-- Commits since the last signature comparison (R157). -/
  sigCommits : Nat := 0
  /-- The cause of the evacuation or test in progress (TEST_RESULT CAUSE); 0 none. -/
  cause : Nat := 0
  /-- ST of the last in-range pass; none if it has had none since the start. -/
  lastPass : Option Int := none
  /-- STs of the transient verdicts of the last 10 min (R161). -/
  transients : List Nat := []
  /-- ST of the last slice of a test that runs out of range (R178). -/
  lastSlice : Option Nat := none
  /-- The LDT and slot configuration as core A and core B hold it: SLOT_INFO, SLOT_PMEM, SLOT_DMEM and SLOT_COST of slot s in
  words 4s to 4s + 3 (R157). -/
  cfgA : Tab Word := []
  cfgB : Tab Word := []
  /-- The evacuation has loops that could not be placed (R169). -/
  stuck : Bool := false
deriving DecidableEq, Repr

/-- A port, mailbox or shared-SRAM effect on its way (R167). -/
structure Effect where
  loop : Nat
  pair : Nat
  epoch : Nat
  /-- The port, or for a shared-SRAM store the word. -/
  target : Nat
  shared : Bool
  val : Word
deriving DecidableEq, Repr

/-- A region of the control die beside what LEASH shows of it (R14–R18, R38–R45). -/
structure RegionSt where
  /-- Readings of the pace sensors, 1/16 WU/µs. -/
  sensors : Tab Nat := []
  /-- P_MEAS and the ST from which it stood, newest first, over the last 1 ms (R29). -/
  hist : List (Nat × Nat) := []
  /-- Region temperature, 1/16 °C (R16). -/
  temp : Int := 0
  /-- Regulator target and measured voltage, mV. -/
  target : Nat := 800
  vmeas : Nat := 800
  /-- ST at which the measured voltage last lay more than 20 mV off the target (R178). -/
  voltOut : Option Nat := none
  /-- The target in force before step 1 (R40). -/
  preTarget : Option Nat := none
  /-- The indications of REGION_STATUS (R40). -/
  capped : Bool := false
  watch : Bool := false
  migrating : Bool := false
  refusing : Bool := false
  /-- The rise of step 1 is under way; the highest step of R38 the region has reached and not left, 0 none. -/
  rising : Bool := false
  step : Nat := 0
  /-- ST since which P_MEAS has been at or above 1.08 P_C (R40). -/
  okSince : Option Nat := none
  /-- Neighbours with which an adjacent-region limit stands exceeded (R45). -/
  skew : List Nat := []
deriving DecidableEq, Repr

/-- An admission command latched at its write (R35). -/
structure AdmCmd where
  op : Nat
  loop : Nat
  pair : Nat
  anyPair : Bool
deriving DecidableEq, Repr

/-- A mailbox channel beside its registers (R79–R82). -/
structure MbxSt where
  /-- Latched at the MBX_CMD write: OP, destination, address and data. -/
  op : Nat := 0
  dest : Nat := 0
  addr : Nat := 0
  data : Word := 0
  /-- The channel has accepted the request. -/
  accepted : Bool := false
  /-- ST of the MBX_CMD write. -/
  start : Nat := 0
deriving DecidableEq, Repr

/-! ### Event recorder -/

/-- A record (Table 14.2) without its CRC. -/
structure Rec where
  seq : Nat
  optime : Nat
  pcycle : Nat
  src : Nat
  code : Nat
  rep : Nat
  ms : Nat
  /-- Payload bytes 20–23 and 24–27. -/
  lo : Nat
  hi : Nat
  span : Nat
deriving DecidableEq, Repr

/-- The newest record of a partition, against which an event is held to be a repeat (R454). -/
structure Newest where
  data : Rec
  /-- ST of the first occurrence and of the last one counted. -/
  first : Nat
  last : Nat
  /-- The slot it was written to; none while it is staged. -/
  slot : Option Nat := none
  /-- Repeats not yet written in place (R455). -/
  dirty : Bool := false
  /-- ST of the last in-place update. -/
  updated : Nat := 0
deriving DecidableEq, Repr

/-- A partition of the recorder beside its registers. -/
structure PartSt where
  /-- SEQ of the next record, and the NV reservation mark (R451, R452). -/
  next : Nat := 0
  mark : Nat := 0
  /-- Next slot, and whether the ring has wrapped. -/
  head : Nat := 0
  wrapped : Bool := false
  /-- SEQ of the newest record and of the last CLEAR record. -/
  newestSeq : Nat := 0
  firstSeq : Nat := 0
  newest : Option Newest := none
  /-- Older records with repeats not yet written in place, oldest first (R455). -/
  owed : List Newest := []
  /-- Records accepted and not yet written, oldest first. -/
  queue : List Rec := []
  /-- Refusals since the last 5201h record (R453). -/
  lost : Nat := 0
  /-- Words of the slots: slot × 8 + word; unlisted reads FFFF_FFFFh, blank (R458). -/
  slots : Tab Word := []
deriving DecidableEq, Repr

/-! ### Conversion and comparators -/

/-- A queue entry of an ADC beside its registers (R188, R193). -/
structure AdcEntry where
  /-- Event timestamp of the last accepted trigger. -/
  last : Option Nat := none
  /-- An accepted trigger that waits for the converter: event timestamp and t0. -/
  pend : Option (Nat × Nat) := none
  /-- A withdrawal waits (R196). -/
  withdraw : Bool := false
deriving DecidableEq, Repr

/-- A running conversion (R188): entry, event timestamp, start t1, first hold instant, whether the start-up delay was
inserted, and the gain correction of the cluster's reference latched at the start of the sample window (R375). -/
structure AdcRun where
  entry : Nat
  event : Nat
  start : Nat
  hold : Nat
  startup : Bool
  corr : Nat := 0
deriving DecidableEq, Repr

/-- An ADC beside its registers. -/
structure AdcSt where
  entries : Tab AdcEntry := []
  /-- The admission command latched at its write: OP and entry (R196). -/
  adm : Option (Nat × Nat) := none
  run : Option AdcRun := none
  /-- ST from which the converter is idle. -/
  freeAt : Nat := 0
  /-- Powered down: the next start inserts the start-up delay (R189). -/
  cold : Bool := true
deriving DecidableEq, Repr

/-- A comparator beside its registers. -/
structure CmpSt where
  /-- The input was last seen above the upper band edge, or above the midpoint at the first decision (R203, R205). -/
  high : Bool := false
  /-- The first decision has been made: the hysteresis is on. -/
  hysOn : Bool := false
  /-- Level of its external input as last seen, nV (R203). -/
  level : Nat := 0
  /-- ST at which its open blanking window closes (R208). -/
  blankEnd : Option Nat := none
deriving DecidableEq, Repr

/-! ### Position feedback -/

/-- A position feedback unit beside its registers. -/
structure PfuSt where
  /-- Observer: angle in 2^-64 turn, speed in 2^-48 turn/s, acceleration in 2^-40 turn/s² (R233). -/
  th : Nat := 0
  w : Int := 0
  a : Int := 0
  /-- e of the last update, 2^-64 turn, and the ST of that update. -/
  e : Int := 0
  last : Nat := 0
  /-- The first measurement has seeded th (Table 7.2). -/
  seeded : Bool := false
  /-- Consecutive updates within and beyond INNOV_LIM, and without a measurement (R235, R236). -/
  good : Nat := 0
  high : Nat := 0
  missing : Nat := 0
  /-- Modular position M (R226). -/
  m : Nat := 0
  /-- Levels of A and B, ST of the last edge of each, and the move that the last edge made (R224). -/
  levels : Bool × Bool := (false, false)
  aAt : Option Nat := none
  bAt : Option Nat := none
  step : Int := 0
  /-- Sector of the last valid Hall code, before DIRINV, and a boundary angle crossed since the last update (R225, R232). -/
  sector : Option Nat := none
  boundary : Option Nat := none
  /-- ST of the first clock edge of the frame in progress (R229), and whether a BiSS-C frame has been sent with the CDM value
  that requests no register access, the only one the device sends (R228). -/
  frame : Option Nat := none
  cdmIdle : Bool := false
  /-- Consecutive rejected frames, and the last 16 round trips, newest first (R230, R242). -/
  miss : Nat := 0
  trips : List Nat := []
  /-- Sine and cosine results without a partner, oldest first: result and ST of the hold instant (R231). -/
  sines : List (Int × Nat) := []
  cosines : List (Int × Nat) := []
  /-- Counts of the last resolver sample. -/
  pos : Option Nat := none
  /-- Compare entries that have fired and not re-armed (R238). -/
  spent : List Nat := []
  /-- ST at which the compare pin pulse ends (R239). -/
  pulse : Option Nat := none
deriving DecidableEq, Repr

/-- What a pin of a position feedback unit does (Table 7.1). -/
inductive PinRole where
  | highZ
  | input
  /-- Clock of SSI, MA of BiSS-C. -/
  | clock
  /-- Position-compare output. -/
  | compare
deriving DecidableEq, Repr

/-! ### Pulse generation and gate drive -/

/-- A planned switching of one output of a leg (R246, R247). -/
structure PlanEdge where
  /-- ST of the H edge it follows, and of the switching itself. -/
  from_ : Nat
  at_ : Nat
  /-- High side; on; the switching is dropped under MIN_PW. -/
  high : Bool
  on : Bool
  drop : Bool
deriving DecidableEq, Repr

/-- A force Isaenaim applies to a leg (R263, R398). -/
inductive IsnForce where
  | off
  /-- Active short circuit on the low or the high bank. -/
  | asc (highBank : Bool)
deriving DecidableEq, Repr

/-- A pulse generator leg beside its registers. -/
structure PgSt where
  master : Bool := false
  /-- Runs its group's periods. -/
  joined : Bool := false
  /-- ST at which EN was written 1. -/
  enAt : Nat := 0
  /-- On the master: ST of the next period point. -/
  next : Nat := 0
  /-- ST of the present period point, and the length of the period (R244). -/
  tk : Nat := 0
  len : Nat := 0
  /-- H at the start of the period and its edges within it, in order (R245). -/
  h0 : Bool := false
  hs : List (Nat × Bool) := []
  plan : List PlanEdge := []
  /-- ST of the last accepted one-shot sync (R245). -/
  shot : Option Nat := none
  /-- Dead times in force, ticks (R246, R248). -/
  dtHl : Nat := 12800
  dtLh : Nat := 12800
  /-- The next period point follows a restart (R251). -/
  restart : Bool := false
  /-- A staged set with PERIOD has been captured: every field comes into force at the next period point (R75, R248). -/
  whole : Bool := false
  /-- TRIPPED by the interlock (R254) and by a line with RESUME = 0 or a short circuit (R258, R263). -/
  interlocked : Bool := false
  tripped : Bool := false
  /-- A released action that stands until the next period point: code and softness (R258). -/
  wait : Option (Nat × Bool) := none
  /-- ST at which a forced low side turns on (R256). -/
  lowAt : Option Nat := none
  isn : Option IsnForce := none
  /-- Under-voltage holds: bootstrap and VGk, each 0 none, 1 held, 2 waiting for the period point (R282). -/
  uvBst : Nat := 0
  uvVg : Nat := 0
deriving DecidableEq, Repr

/-- A short-circuit event (R262): of a comparator, or the DESAT of the leg's high or low link. One that has been classified,
or that counts as one with an earlier event, is kept until no other can be its partner. -/
structure ScEvent where
  group : Nat
  leg : Nat
  ts : Nat
  link : Option Bool
  used : Bool
deriving DecidableEq, Repr

/-- A group's response to a double event (R263): tB, the banks that reported, and whether step 3 has been applied. -/
structure ScResp where
  tb : Nat
  high : Bool
  low : Bool
  done : Bool
deriving DecidableEq, Repr

/-- A gate link beside its registers. -/
structure LinkSt where
  /-- INIT step: 1 idle, 2 LOOP, 3 ID read, 4–9 the writes of registers 01h–06h (R273). -/
  step : Nat := 0
  /-- ST of the start of that step. -/
  since : Nat := 0
  /-- An expected GATE frame: after ON, and its limit; and a limit that has won (R272). -/
  gate : Option (Bool × Nat) := none
  gateLate : Bool := false
  /-- A host command in flight: TYPE, REG, DATA and ST of the frame; and a command whose reply limit has won (R277). -/
  cmd : Option (Nat × Nat × Nat × Nat) := none
  cmdLate : Option (Nat × Nat × Nat) := none
  /-- ST of the last mark and of the last valid frame. -/
  lastMark : Nat := 0
  lastFrame : Nat := 0
  /-- An idle LOOP in flight, and the failed echoes in a row (R274). -/
  loopAt : Option Nat := none
  loopFails : Nat := 0
  /-- Its GATE_FAULT stands until GATE_FAULT is cleared in STICKY. -/
  gateFault : Bool := false
deriving DecidableEq, Repr

/-! ### Motor library -/

/-- An MC_FOC drive: what its loop keeps between iterations (R290–R314). -/
structure DriveSt where
  /-- The parameter block has been checked since the loop entered CLOSED (R294). -/
  init : Bool := false
  /-- DSTATE, REASON and SEQ_ACK (Table 9.4). -/
  dstate : Nat := 0
  reason : Nat := 0
  seqAck : Nat := 0
  dir : Bool := false
  fw : Bool := false
  vlim : Bool := false
  tlim : Bool := false
  overspeed : Bool := false
  cmdRej : Bool := false
  idDone : Bool := false
  stcnt : Nat := 0
  /-- LOST_CNT and START_CNT. -/
  lost : Nat := 0
  starts : Nat := 0
  /-- The speed estimate of the last iteration. -/
  speed : Word := 0
  /-- ST at which SENSE, ALIGN, REACQ, the flux build-up or an identification step began. -/
  since : Nat := 0
  /-- ST from which the back-EMF has met the catch condition in every iteration of SENSE (R299). -/
  goodAt : Option Nat := none
  /-- A start is under way that has not been counted (R300, R303). -/
  starting : Bool := false
  /-- Rotor angle and signed speed with which the observer was last seeded, or that it tracks (R300, R302, R303, R309, R310). -/
  obsAngle : Word := 0
  obsSpeed : Word := 0
  /-- Back-EMF voltage, mV and angle, with which the integrators of the current controller were seeded (R300). -/
  vSeed : Nat := 0
  vAngle : Word := 0
  /-- The times of the twelve pulses of ALIGN and of the two of its step 3 (R302). -/
  pulses : List Nat := []
  /-- Offset of an incremental sensor from the ALIGN angle (R302). -/
  sensOfs : Option Word := none
  /-- Voltage injected on the d-axis in LOWSPEED, mV (R303). -/
  inject : Int := 0
  /-- ST since which |IQ| has been below 2 % of IMAX at speed, and whether record 4D08h has been written for it (R319). -/
  lowIq : Option Nat := none
  noLoad : Bool := false
  /-- The speed limit of DEGRADED that MC_SUP applies (R307, R397). -/
  limSpeed : Option Word := none
  /-- The flux of an induction machine builds up (R304). -/
  flux : Bool := false
  brakeFirst : Bool := false
  /-- A RUN waits for the end of ASC (R310). -/
  runPend : Bool := false
  /-- Steps that an identification has left (R312). -/
  ident : Option Nat := none
  /-- ST from which the torque ramps after a re-acquisition (R309). -/
  ramp : Option Nat := none
  /-- Iterations in a row with a high innovation, a wrong back-EMF, a small angle error (R308, R309). -/
  obs : Nat := 0
  emf : Nat := 0
  near : Nat := 0
  /-- Field-weakening current, reduction of iq_ref, and the current references, mA (R306). -/
  idFw : Int := 0
  cut : Int := 0
  idRef : Int := 0
  iqRef : Int := 0
  /-- Place in the order of the status words (R293). -/
  phase : Nat := 0
deriving DecidableEq, Repr

/-- How MC_ACT drives its actuator: not at all, position control towards a rest position (none: neutral) or force control within a
current limit, or a holding current, mA (R317, R318). -/
inductive ActCtl where
  | off
  | position (rest : Option Nat) (limit : Nat)
  | force (current : Nat)
  | hold (current : Nat)
deriving DecidableEq, Repr

/-- What an MC_ACT actuator does. -/
inductive ActStep where
  | stopped
  | moving
  /-- Step 1–6 of a shift (R317). -/
  | shift (n : Nat)
  | engaging
  | releasing
  /-- Standing: at its target, or after a failure. -/
  | holding
deriving DecidableEq, Repr

/-- An MC_ACT actuator beside its data segment (R315–R318). -/
structure ActSt where
  step : ActStep := .stopped
  ctl : ActCtl := .off
  reason : Nat := 0
  seqAck : Nat := 0
  index : Nat := 0
  failStep : Nat := 0
  target : Nat := 0
  /-- ST at which the present phase began. -/
  since : Nat := 0
  count : Word := 0
  /-- Place in the order of its two status words. -/
  second : Bool := false
deriving DecidableEq, Repr

/-! ### Power conversion and charging -/

/-- A converter supervisor beside its registers. -/
structure ConvSt where
  /-- ST of the entries to SOFT_START, RUN and HICCUP. -/
  softAt : Nat := 0
  runAt : Nat := 0
  hiccupAt : Nat := 0
  /-- CL_LINE has been active in the present period (R329). -/
  limited : Bool := false
  /-- Trims of the phases, 2^-31 of T (R328). -/
  trims : Tab Int := []
  /-- A shed in progress: the phase, and the period points of its ramp that have passed (R330). -/
  shed : Option (Nat × Nat) := none
  /-- A phase that becomes active at the next period point. -/
  adding : Option Nat := none
  /-- ST since which IMEAS has been below the shedding current. -/
  lowSince : Option Nat := none
  /-- IMEAS of the period point before (R331). -/
  lastI : Int := 0
  /-- ST of the last period point at which STEP was 1. -/
  stepAt : Option Nat := none
  /-- ST of the last entry to OUTPUT_LOST (R326). -/
  lostAt : Option Nat := none
  /-- The registers SOFTSTART to INLOSS as the last period point has taken them (R358). -/
  inForce : Tab Word := []
  dutyCmd : Word := 0
deriving DecidableEq, Repr

/-- A control pilot beside its registers (R336, R340, R351). -/
structure PilotSt where
  /-- Band of the last period's high plateau, and the periods in a row that have shown it. -/
  band : Nat := 6
  bandN : Nat := 0
  /-- ST at which STATE last changed, and ST since which the pilot has carried PWM. -/
  stateAt : Nat := 0
  pwmSince : Option Nat := none
deriving DecidableEq, Repr

/-- A charge-profile sequencer beside its registers. -/
structure SeqSt where
  /-- Event ST and value of the last V and I results: 2^-16 µV and 2^-16 µA (R343, R348). -/
  vAt : Option Nat := none
  iAt : Option Nat := none
  v : Int := 0
  i : Int := 0
  /-- TS of the last I result, and the ticks before it whose energy is not counted yet (R348). -/
  iTs : Option Nat := none
  eTicks : Nat := 0
  /-- ST of the first V result of those in a row that lie in the window with the stage not switching (R353). -/
  inSince : Option Nat := none
  /-- V results of the last 10 ms, newest first: TS and value. -/
  hist : List (Nat × Int) := []
  /-- ST at which the present step's time started, and ST at which its timer stopped (R339). -/
  stepAt : Nat := 0
  paused : Option Nat := none
  /-- Jumps left of each REPEAT. -/
  reps : Tab Nat := []
  /-- Consecutive evaluations outside VMIN–VMAX, beyond IMAXS, and outside the window with the stage idle (R344, R353). -/
  badV : Nat := 0
  badI : Nat := 0
  badB : Nat := 0
  /-- ST since which |I| has been at the end current of a CV step. -/
  endSince : Option Nat := none
  /-- Charge and capacity, 2^-16 µA × tick; energy in and out, 2^-32 pW × tick (R348). -/
  q : Int := 0
  cap : Nat := 0
  eIn : Nat := 0
  eOut : Nat := 0
  /-- PULSE: on, ST of its last edge, voltage at the end of the last off time, and the results nearest to the DCIR instant:
  distance, V and I (R347). -/
  pulseOn : Bool := false
  edgeAt : Nat := 0
  vOff : Option Int := none
  nearest : Option (Nat × Int × Int) := none
  /-- ZSWEEP: point, its start, and the correlation sums of V and I with the sine and the cosine, and their count (R350). -/
  zk : Nat := 0
  zAt : Nat := 0
  zSums : Int × Int × Int × Int := (0, 0, 0, 0)
  zCount : Nat := 0
  /-- TSs of the SD samples: first and last open-circuit voltage (R346). -/
  sdFirst : Option (Nat × Int) := none
  sdLast : Option (Nat × Int) := none
  /-- A clean end in progress: END_REASON, its start, and the results in a row below 1 % of IMAXS (R351). -/
  ending : Option (Nat × Nat × Nat) := none
  /-- ST at which the last session ended. -/
  endAt : Nat := 0
  /-- Vehicle role: ST at which S2 closed (R339). -/
  s2At : Option Nat := none
  /-- Supply role: 1 waits for B, 2 offers, 3 contactor closed (R340); and ST of the contactor. -/
  supply : Nat := 0
  contAt : Nat := 0
  /-- An AC loss waits for re-detection, and the pilot has shown A or INVALID without PWM since (R351). -/
  acLost : Bool := false
  shownA : Bool := false
  contactor : Bool := false
deriving DecidableEq, Repr


/-! ### Temperatures and the Kennel -/

/-- A temperature channel beside its registers (R363–R365). -/
structure ChanSt where
  /-- ST and temperature at intervals of 1 ms, newest first, over the last second. -/
  hist : List (Nat × Int) := []
  /-- ST of the last evaluation. -/
  last : Option Nat := none
  /-- ST since which the condition for 50 kHz, and for 10 kHz or more, has been absent. -/
  no50 : Option Nat := none
  no10 : Option Nat := none
deriving DecidableEq, Repr

/-- A throttle domain beside its registers (R370). -/
structure DomSt where
  /-- ST of the last step up. -/
  lastUp : Option Nat := none
  /-- ST at which the restore timer started. -/
  clear : Option Nat := none
deriving DecidableEq, Repr

/-- The Kennel beside its registers (R378–R389). -/
structure KenSt where
  /-- Kennel time, in ticks, of the last whole second, and CAL_SUB there. Every instant the Kennel holds is in Kennel time. -/
  secAt : Nat := 0
  subAt : Nat := 0
  /-- Retained SRAM by word; unlisted words hold free values counted from `retBase` (log 9). -/
  ret : Tab Word := []
  retBase : Nat := 0
  /-- Kennel time at which ST was last 0, ticks (R480). -/
  base : Nat := 0
  /-- The start of the return wait. -/
  waitAt : Nat := 0
  /-- In ship mode; the switch of the backup cell is open (R382, R384). -/
  ship : Bool := false
  cellOpen : Bool := false
  /-- KEN_PWREN. -/
  pwren : Bool := true
  /-- Cell charging: 0 none, 1 charge, 2 rest, 3 full; the instant at which the phase began, and at which it was paused (R383). -/
  phase : Nat := 0
  phaseAt : Nat := 0
  paused : Option Nat := none
  /-- The OCV from which a rise of 10 mV is awaited, and since when. -/
  ocvRef : Nat := 0
  refAt : Nat := 0
deriving DecidableEq, Repr

/-! ### Isaenaim -/

/-- A safe input beside its registers (R409, R410). -/
structure SinSt where
  /-- Consecutive ACTIVE samples, and DEMAND samples, to 2. -/
  actRun : Nat := 0
  demRun : Nat := 0
  /-- The channel has been in demand since its pair was last ACTIVE. -/
  seen : Bool := true
  /-- The pair of this even input is ACTIVE. -/
  pair : Bool := false
  /-- ST since which the channels of the pair have differed. -/
  diff : Option Nat := none
deriving DecidableEq, Repr

/-- The Isaenaim supervisor beside its registers. -/
structure IsnSt where
  /-- Both cores have stopped (R390). -/
  dead : Bool := false
  /-- The watchdog has fired; ST of the last refresh (R391). -/
  wdFired : Bool := false
  refresh : Option Nat := none
  /-- Crystal windows in range, in a row (R392). -/
  windows : Nat := 0
  /-- ST at which DEG_TMAX started (R397). -/
  degAt : Option Nat := none
  /-- Groups in ASC: ST of the entry (R399). -/
  ascAt : Tab Nat := []
  /-- SS1: v0 in the PFU SPEED format, and t0 (R403); checks made, and ST since which standstill has held. -/
  ss1V : Nat := 0
  ss1At : Nat := 0
  ss1N : Nat := 0
  stillAt : Option Nat := none
  /-- A brake engagement, and a cut with its DEMAND bit, that wait for SBC_DLY (R404). -/
  brakeDue : Option Nat := none
  stoDue : Option (Nat × Nat) := none
  /-- Holding test: its start; COUNT at READY and the ST of READY (R406). -/
  holdAt : Option Nat := none
  holdRef : Option (Word × Nat) := none
  /-- ST at which the PL_T interval started (R407). -/
  plAt : Option Nat := none
  sins : Tab SinSt := []
  /-- Reported sources with their instances whose clearing means has not been seen (Table 12.2); ST since which a supply (11 × 64 + k)
  has been back in range, or a unit (12 × 64 + k) TRACKING. -/
  faulty : List (Nat × Nat) := []
  okSince : Tab Nat := []
  /-- ST since which the speed of a group in ASC has been at or below ASC_EXIT (R399), and since which the park speeds have been at
  or below their limits (R407). -/
  slowAt : Tab Nat := []
  parkAt : Option Nat := none
  /-- ST of the last test pulse of the released brake, or of its release (R405); of the last pulses of the cuts, or of the cut (R402). -/
  sbcAt : Nat := 0
  cutAt : Nat := 0
  /-- ST of the last pulse of each test-pulse source (R408). -/
  tps : Tab Nat := []
deriving DecidableEq, Repr

/-! ### Erelo -/

/-- A packet put on a lane: its PTYPE, its content, whether it ended with ABORT, and the ST of its SOP. -/
structure ElSent where
  ptype : Nat
  pkt : Pkt
  aborted : Bool := false
  at_ : Nat
deriving DecidableEq, Repr

/-- A scheduled window of an output link (R431): source device and flow, start and length in 1/100 tick, K, the ST from
which it is held while tentative, the port towards the source (4: this device), and whether only a test holds it. -/
structure ElWin where
  dev : Nat
  flow : Nat
  start : Nat
  len : Nat
  k : Nat
  held : Option Nat
  back : Nat
  test : Bool := false
deriving DecidableEq, Repr

/-- An Erelo port beside its registers. -/
structure ElPort where
  /-- ST at which it left UP, and whether that has been declared a topology change (R424). -/
  downAt : Option Nat := none
  declared : Bool := false
  /-- The peer has returned as it was: same UID and address (R424). -/
  same : Bool := false
  /-- The peer's descriptor: AUTH_REQ, DOMAIN_ID and the certificate digest (Table 13.5). -/
  peerAuth : Bool := false
  peerDomain : Nat := 0
  peerCert : Nat := 0
  /-- Link delay, ticks (R426). -/
  delay : Int := 0
  /-- Link keys agreed, and the ST of the last agreement (R436). -/
  keys : Nat := 0
  keyAt : Nat := 0
  /-- A suspended packet is held by the receiver (R418). -/
  rxHeld : Bool := false
  /-- ST at which the packet sent without reservation ends (R418). -/
  txEnd : Nat := 0
  /-- Best-effort packets that wait for credits, oldest first: the port they came from (4: this device), PTYPE and packet. -/
  waiting : List (Nat × Nat × Pkt) := []
  /-- The last packet put on the lane. -/
  tx : Option ElSent := none
  wins : List ElWin := []
  /-- Management flows that cross the output: source and destination device (R434). -/
  mgmt : List (Nat × Nat) := []
deriving DecidableEq, Repr

/-- A source flow beside its window registers (R429–R433, R437). -/
structure ElFlow where
  hops : Nat := 0
  port : Nat := 0
  /-- The devices of its route, this one first. -/
  path : List Nat := []
  seq : Nat := 0
  pn : Nat := 1
  epoch : Nat := 0
  /-- The words captured for the next packet. -/
  words : Option (List Word) := none
deriving DecidableEq, Repr

/-- A sink or queue endpoint beside its registers. -/
structure ElEp where
  /-- The bound flow: source device and flow number; ENC. -/
  bound : Option (Nat × Nat) := none
  enc : Bool := false
  /-- Next SEQ, last PN accepted and KEY_EPOCH. -/
  seq : Option Nat := none
  pn : Nat := 0
  epoch : Nat := 0
  /-- The limit of the present period has won (R432). -/
  late : Bool := false
  /-- Queue: next byte of the ring. -/
  ring : Nat := 0
deriving DecidableEq, Repr

/-- A pair of management flows (R434): destination, whether it is OPEN, its last use, its hops, and the part of S_M due to
the links behind the first, in 0.1 ns. -/
structure ElPair where
  dest : Nat
  isOpen : Bool := false
  used : Nat := 0
  hops : Nat := 0
  rest : Nat := 0
deriving DecidableEq, Repr

/-- What NV memory holds for WARM_REUSE (R425): address and level, root UID, DOMAIN_ID, the peers that were UP as port, UID
and address, the topology and the route table. -/
structure ElNv where
  addr : Nat
  level : Nat
  root : Nat
  domain : Nat
  peers : List (Nat × Nat × Nat)
  topo : List TopoRec
  table : Tab (Nat × Nat)
deriving DecidableEq, Repr

/-- The Erelo manager beside its registers. -/
structure ElSt where
  /-- The best root UID known and its distance, and the ST since which it stands (R422). -/
  best : Option (Nat × Nat) := none
  bestAt : Nat := 0
  /-- The parent an address came from: its address and the port (R422). -/
  parent : Option (Nat × Nat) := none
  /-- ST at which the discovery began. -/
  discAt : Nat := 0
  /-- The topology, and the route table: output port and hops by destination (R423). -/
  topo : List TopoRec := []
  table : Tab (Nat × Nat) := []
  /-- ST since which |offset| ≤ 10 ns (R426); ticks that the servo has still to slew. -/
  inBand : Option Nat := none
  slew : Int := 0
  flows : Tab ElFlow := []
  eps : Tab ElEp := []
  pairs : List ElPair := []
  /-- A MSG that waits for READY (R422). -/
  msg : Option Pkt := none
  nv : Option ElNv := none
  /-- A warm start waits for the stored peers: ST of its start (R425). -/
  warmAt : Option Nat := none
deriving DecidableEq, Repr

/-! ### Security and vehicle networks -/

/-- The security engine beside its registers (R438, R439). -/
structure SecSt where
  /-- Key words in force and written, by slot × 16 + word. -/
  keys : Tab Word := []
  buf : Tab Word := []
  loaded : List Nat := []
  locked : List Nat := []
  /-- Random words drawn (R447). -/
  drawn : Nat := 0
  /-- Provisioning has been closed (R439). -/
  closed : Bool := false
deriving DecidableEq, Repr

/-- A CAN controller beside its registers (R440): message storage by word, and the write and read indexes of the FIFOs. -/
structure CanSt where
  mem : Tab Word := []
  put0 : Nat := 0
  get0 : Nat := 0
  put1 : Nat := 0
  get1 : Nat := 0
deriving DecidableEq, Repr

/-! ### Recorder, lifetime counters and starts -/

/-- A clear of a partition in progress (R459). -/
structure ClrSt where
  /-- A nonce has been asked for; ST of its issue; CLR_CFG has been written since. -/
  asked : Bool := false
  nonceAt : Option Nat := none
  stale : Bool := false
  /-- ST of the third consecutive refusal. -/
  lockAt : Option Nat := none
deriving DecidableEq, Repr

/-- A module beside its registers (R465–R467). -/
structure ModSt where
  /-- θ of each stage, nK. -/
  theta : Tab Int := []
  /-- Rainflow: direction of the last range (0 none yet, 1 rising, 2 falling), its running extreme, and the residue of turning
  points, newest first, 1/16 °C. -/
  dir : Nat := 0
  ext : Option Int := none
  points : List Int := []
  /-- Half cycles by bin. -/
  hist : Tab Nat := []
  /-- Damage in units of 2^-49, and whether it has passed DMG_WARN. -/
  dmg : Nat := 0
  warned : Bool := false
deriving DecidableEq, Repr

/-- The lifetime data of the newer valid NV copy (R464). -/
structure LifeNv where
  gen : Nat := 0
  sw : Tab Nat := []
  /-- SHIFT_CNT, PARK_CNT, CTR_CNT, EIN and EOUT. -/
  shifts : Word := 0
  parks : Word := 0
  contacts : Word := 0
  eIn : Nat := 0
  eOut : Nat := 0
  optime : Word := 0
  pcycle : Word := 0
  mods : Tab ModSt := []
deriving DecidableEq, Repr

/-- A successful authentication of a bank: its DIGEST and write generation (R477). -/
structure Seal where
  digest : List Nat
  gen : Nat
deriving DecidableEq, Repr

/-- What outlives a reset of the start machinery (R476–R482). -/
structure StartSt where
  /-- RESET_CAUSE of the start to come. -/
  cause : Nat := 1
  /-- The three main supplies are above their release thresholds. -/
  supplies : Bool := true
  /-- Kennel times of the last three failed warm and cold starts, newest first. -/
  warmFails : List Nat := []
  coldFails : List Nat := []
  /-- Records that wait for the recorder check of the next start: code and contents (R479). -/
  pend : List (Nat × Nat × Nat × Nat) := []
  /-- ST of the last failure. -/
  failAt : Nat := 0
  /-- Failing steps of the last three failed cold starts, newest first. -/
  steps : List Nat := []
  /-- The next start is cold under R482, or is SAFE-HOLD; the last failed start was warm. -/
  esc : Bool := false
  hold : Bool := false
  lastWarm : Bool := false
  /-- KCOLD has been 0 since the last READY (R476). -/
  kcOk : Bool := false
  /-- The reserve pairs before the reset (R473). -/
  reserves : List Nat := []
deriving DecidableEq, Repr
/-! ### The device -/

/-- Where the device stands between power-up and service (Chapter 15). -/
inductive Phase where
  /-- PORST_N low, a supply below its release threshold, or power removed. -/
  | held
  /-- WRST_N low. -/
  | warmHeld
  /-- A cold start in progress. -/
  | cold
  /-- A warm start in progress. -/
  | warm
  /-- A start has failed; the HKE waits for its retry delay (R481). -/
  | failed
  /-- READY. -/
  | ready
  /-- SAFE-HOLD (R483). -/
  | safeHold
deriving DecidableEq, Repr

/-- The device but for its queue of commands and the unlock windows. -/
structure Chip where
  /-- System Time, ticks of 39.0625 ps (R20). -/
  st : Nat := 0
  phase : Phase := .cold
  /-- Registers by byte address; a windowed register by window index and address. Unlisted: the reset value. -/
  regs : Tab Word := []
  /-- Values written to RWS fields that wait for a commit (R69). -/
  shadow : Tab Word := []
  /-- The staged set of the global commit group (R75). -/
  staged : Tab Word := []
  /-- Members of a fired group that have not applied, by index (R75). -/
  grpLeft : List Nat := []
  /-- Holding latches of the readers, by reader and register (R22). -/
  latches : Tab Word := []
  /-- Words and CRC the last read access drove. -/
  out : List Word := []
  /-- Free values drawn so far (log 9). The model's own field. -/
  fresh : Nat := 1024
  mbx : Tab MbxSt := []
  /-- Reports on their way to Isaenaim, oldest first: source number and instance (R396). -/
  reports : List (Nat × Nat) := []
  adm : Option AdmCmd := none
  regions : Tab RegionSt := []
  pairs : Tab PairSt := []
  loops : Tab LoopSt := []
  /-- Mailbox words 0–255. -/
  mailbox : Tab Word := []
  /-- Update tags of the ports (R152). -/
  portTag : Tab Nat := []
  /-- ST of the last event of each source that can trigger an entry or a loop, by source, instance and event (Tables 4.3 and
  6.2). -/
  events : Tab Nat := []
  /-- Fresh marks: loop, port and core, by key (Table 3.7). -/
  freshMark : Tab Unit := []
  /-- Shared SRAM, by word (1,048,576 words); unlisted reads 0. -/
  shm : Tab Word := []
  /-- Effects on their way to their blocks, oldest first (R167). -/
  effects : List Effect := []
  /-- The slice under march test, its save buffer, and the slice the buffer stands in for (R175–R177). -/
  marchSlice : Option Nat := none
  marchBuf : Tab Word := []
  marchStand : Option Nat := none
  /-- The TAP instruction register and the step of a SCANACC in progress: 1 after its record is staged (R179–R181). -/
  tapIr : Nat := 1
  /-- What the selected data register of the TAP captures. -/
  tapDr : Word := 0x0960018B
  /-- Boundary-scan register of the digital pins: what the cells captured, and what has been shifted in and preloaded, which
  EXTEST drives (R179). -/
  tapScan : List Bool := []
  tapHold : List Bool := []
  scanStep : Nat := 0
  /-- The pair taken out for a rolling test (R171). -/
  rolling : Option Nat := none
  /-- Loop numbers admitted, in order of admission. -/
  admitted : List Nat := []
  /-- The recorder's partitions (Table 14.1). -/
  parts : Tab PartSt := []
  /-- Program-image banks A and B in MRAM, by word (R110); unlisted reads 0. -/
  bankA : Tab Word := []
  bankB : Tab Word := []
  /-- The active bank: 0 A, 1 B; none when neither qualified (R113). -/
  active : Option Nat := none
  /-- The time reference is lost and Isaenaim has not released the condition (R24, R392). -/
  refLost : Bool := false
  /-- Read words of the CONV and CHGSEQ port blocks, by port (Tables 10.2 and 10.6). -/
  portWords : Tab Word := []
  /-- Retirements recorded in NV memory (R162). -/
  retiredNv : List Nat := []
  /-- Pairs released through RETIRE_CLR since the last cold start: not used until one has tested them (R162). -/
  released : List Nat := []
  /-- Consecutive bandgap checks in limit (Table 12.2). -/
  refGood : Nat := 0
  /-- The ADCs beside their registers. -/
  adcs : Tab AdcSt := []
  /-- The comparators beside their registers, by device number 8g + i (R202). -/
  cmps : Tab CmpSt := []
  /-- The position feedback units beside their registers. -/
  pfus : Tab PfuSt := []
  /-- The pulse generator legs beside their registers. -/
  pgs : Tab PgSt := []
  /-- Turn-ons of each LV output counted for its gate charge, and whether one waits to be measured, by 2n + side (R284). -/
  charges : Tab (Nat × Bool) := []
  /-- Short-circuit events, and the groups in a short-circuit response: 0–7, or 8 + leg (R262, R263). -/
  scEvents : List ScEvent := []
  scResp : Tab ScResp := []
  /-- The gate links GL0–GL47 beside their registers. -/
  links : Tab LinkSt := []
  /-- Lines Isaenaim drives (R255). -/
  isnLines : List Nat := []
  /-- Turn-ons of each leg (R252, R463). -/
  switched : Tab Nat := []
  /-- MC_FOC drives and MC_ACT actuators, by loop (Table 9.1). -/
  drives : Tab DriveSt := []
  acts : Tab ActSt := []
  /-- The converter supervisors and the charge-profile sequencers beside their registers. -/
  convs : Tab ConvSt := []
  seqs : Tab SeqSt := []
  /-- The gain correction of each ADC cluster's reference buffer, as last computed (R375). -/
  refCorr : Tab Nat := []
  /-- The control pilots beside their registers. -/
  pilots : Tab PilotSt := []
  /-- Temperature channels and throttle domains beside their registers. -/
  chans : Tab ChanSt := []
  doms : Tab DomSt := []
  /-- Consecutive samples of each supply below UV and above OV (R377). -/
  supRuns : Tab (Nat × Nat) := []
  /-- Delay lines calibrated and not yet in service, by placer: ST of the calibration (R376). -/
  dlPend : Tab Nat := []
  ken : KenSt := {}
  isn : IsnSt := {}
  /-- The Erelo ports and manager, the security engine and the CAN controllers beside their registers. -/
  ports : Tab ElPort := []
  el : ElSt := {}
  sec : SecSt := {}
  cans : Tab CanSt := []
  /-- MDIO transactions in progress, by MAC: the command word (R441). -/
  mdio : Tab Word := []
  /-- A clear of a recorder partition in progress. -/
  wipe : ClrSt := {}
  /-- The modules of the LIFE page beside their registers, the ST of the last flush, and the NV copy (R463–R467). -/
  mods : Tab ModSt := []
  flushAt : Nat := 0
  lifeNv : LifeNv := {}
  /-- Write generations and seals of the banks (R477). -/
  genA : Nat := 0
  genB : Nat := 0
  sealA : Option Seal := none
  sealB : Option Seal := none
  start : StartSt := {}
deriving DecidableEq, Repr


/-- The device: everything but the queue of waiting commands. -/
structure State where
  /-- Commands that wait, first in, first out. -/
  pending : List Instr := []
  /-- The unlock state of every page that is not simply locked, by page number (R65–R67). -/
  locks : Tab LockSt := []
  /-- Everything else. -/
  chip : Chip := {}
deriving DecidableEq, Repr

/-- The device at the instant its host ports open after a first power-up (log 5). -/
def State.reset : State := {}

end Sys2Proof.Machine
end

