-- ==== Sys2Proof/Machine/Operands.lean ====
section
/-! DEFINITION. The operands of the control-law engines: registers, accumulators, predicates, the shift field and the
offsets of a core (R85, R93, R98). -/

namespace Sys2Proof

/-- Core A executes. -/
def Cores.hasA : Cores → Bool
  | .b => false
  | _ => true

/-- Core B executes. -/
def Cores.hasB : Cores → Bool
  | .a => false
  | _ => true

/-- A core executes: core A, or core B for `true`. -/
def Cores.has (cs : Cores) (coreB : Bool) : Bool := if coreB then cs.hasB else cs.hasA

/-- The core whose fetched instruction word shows a parity error (R87): core A, or core B for `true`. -/
def Cores.fetchError : Cores → Option Bool
  | .parityA => some false
  | .parityB => some true
  | _ => none

end Sys2Proof

namespace Sys2Proof.Machine

def CoreSt.getW (x : CoreSt) (r : Nat) : Word := Tab.at x.w 0 r
def CoreSt.setW (x : CoreSt) (r : Nat) (v : Word) : CoreSt := { x with w := Tab.set x.w 0 r v }
def CoreSt.getA (x : CoreSt) (r : Nat) : Int := (Tab.at x.acc 0 r).toInt
def CoreSt.setA (x : CoreSt) (r : Nat) (v : Int) : CoreSt := { x with acc := Tab.set x.acc 0 r (BitVec.ofInt 72 v) }

/-- p0 always reads 1 (R85). -/
def CoreSt.getP (x : CoreSt) (r : Nat) : Bool := if r = 0 then true else Tab.at x.p false r

/-- A write to p0 has no effect: the loader refuses it (R85). -/
def CoreSt.setP (x : CoreSt) (r : Nat) (v : Bool) : CoreSt := if r = 0 then x else { x with p := Tab.set x.p false r v }

/-- A register as a signed integer. -/
def CoreSt.val (x : CoreSt) (r : Nat) : Int := (x.getW r).toInt

/-- QS as an integer (R93). -/
def qsInt (q : BitVec 5) : Int := q.toInt

/-- A 16-bit immediate, sign-extended. -/
def immInt (i : BitVec 16) : Int := i.toInt

/-- The index n = w[RB] + OFS (R98). -/
def CoreSt.index (x : CoreSt) (rb : Nat) (ofs : BitVec 12) : Int := x.val rb + ofs.toInt

end Sys2Proof.Machine
end

