-- ==== Sys2Proof/Machine/Flags.lean ====
section
/-! DEFINITION. Scaling, rounding, saturation and the flags they set (R89–R91, Table 3.2). -/

namespace Sys2Proof.Machine

/-- V × 2^s, rounded to floor(V × 2^s + 1/2) when s is negative (R89). -/
def scale (v : Int) (s : Int) : Int :=
  if s < 0 then
    let k := s.natAbs
    (v + 2 ^ (k - 1)) / 2 ^ k
  else v * 2 ^ s.toNat

/-- Bits of ITER_FLAGS. -/
abbrev flSat : Nat := 0
abbrev flOvf : Nat := 1
abbrev flDiv0 : Nat := 2
abbrev flSatAcc : Nat := 3
abbrev flSatOut : Nat := 4

/-- A flag is raised: at once in ITER_FLAGS, and as an update in the commit list (R91, R147). -/
def CoreSt.flag (x : CoreSt) (bit : Nat) : CoreSt :=
  { x with flags := x.flags ||| BitVec.ofNat 5 (2 ^ bit), list := x.list ++ [Entry.flag bit] }

def CoreSt.flagIf (x : CoreSt) (b : Bool) (bit : Nat) : CoreSt := if b then x.flag bit else x

/-- Saturation to 32 bits, and whether it clamped (R90). -/
def sat32 (v : Int) : Word × Bool :=
  if v < -(2 ^ 31) then (0x80000000#32, true) else if 2 ^ 31 - 1 < v then (0x7FFFFFFF#32, true) else (BitVec.ofInt 32 v, false)

/-- Saturation to 72 bits, and whether it clamped (R90). -/
def sat72 (v : Int) : Int × Bool :=
  if v < -(2 ^ 71) then (-(2 ^ 71), true) else if 2 ^ 71 - 1 < v then (2 ^ 71 - 1, true) else (v, false)

/-- A 32-bit result, saturated, with SAT (R90, R91). -/
def CoreSt.result (x : CoreSt) (rd : Nat) (v : Int) : CoreSt :=
  let r := sat32 v
  (x.flagIf r.2 flSat).setW rd r.1

/-- An accumulator result, saturated, with OVF and SAT_ACC (R90, Table 3.2). -/
def CoreSt.accResult (x : CoreSt) (a : Nat) (v : Int) : CoreSt :=
  let r := sat72 v
  ((x.flagIf r.2 flOvf).flagIf r.2 flSatAcc).setA a r.1

end Sys2Proof.Machine
end

