-- ==== Sys2Proof/Machine/Cordic.lean ====
section
/-! DEFINITION. The CORDIC results (R97, Table 3.5): exact values rounded to the nearest code, ties away from zero. Series
are summed in fixed point of 128 fraction bits, far beyond what the rounding of a 32-bit code can see. -/

namespace Sys2Proof.Machine

/-- π × 2^128, rounded down. -/
def pi128 : Nat := 1069028584064966747859680373161870783300

/-- Sum of the rest of a sine series: the term before it, θ² × 2^128, and n of its power. -/
def sinTail : Nat → Nat → Nat → Nat → Int
  | 0, _, _, _ => 0
  | fuel + 1, term, sq, n =>
    let t : Nat := term * sq / 2 ^ 128 / ((n + 1) * (n + 2))
    0 - (t : Int) - sinTail fuel t sq (n + 2)

/-- sin of a quarter-turn fraction r ÷ 2^30 (r ≤ 2^30), × 2^128. -/
def sinQuarter (r : Nat) : Nat :=
  if r = 2 ^ 30 then 2 ^ 128
  else
    let th : Nat := r * pi128 / 2 ^ 31
    ((th : Int) + sinTail 20 th (th * th / 2 ^ 128) 1).toNat

/-- A value × 2^128 as a Q1.31 code: nearest, ties away from zero; +1 takes the highest code (R97). -/
def q31 (v : Int) : Word :=
  let m : Nat := (v.natAbs + 2 ^ 96) / 2 ^ 97
  if v < 0 then BitVec.ofInt 32 (-(m : Int)) else BitVec.ofNat 32 (min m 0x7FFFFFFF)

/-- SIN of an angle (Table 3.5). -/
def sinCode (a : Word) : Word :=
  let q := a.toNat / 2 ^ 30
  let r := a.toNat % 2 ^ 30
  let s := sinQuarter (if q % 2 = 0 then r else 2 ^ 30 - r)
  q31 (if q < 2 then s else -(s : Int))

/-- COS of an angle: the sine a quarter turn on. -/
def cosCode (a : Word) : Word := sinCode (a + 0x40000000#32)

/-- Sum of an arctangent series: the power t^n × 2^128, t² × 2^128, and n. -/
def atanTail : Nat → Nat → Nat → Nat → Int
  | 0, _, _, _ => 0
  | fuel + 1, p, sq, n => ((p / n : Nat) : Int) - atanTail fuel (p * sq / 2 ^ 128) sq (n + 2)

/-- atan(a ÷ b) for 0 ≤ a ≤ b, b > 0, in turns × 2^128; above tan(π ÷ 8) as 1/8 turn less its complement. -/
def atanTurns (a b : Nat) : Nat :=
  let small (t : Nat) : Nat := (atanTail 56 t (t * t / 2 ^ 128) 1).toNat * 2 ^ 127 / pi128
  if 70 * b < 169 * a then 2 ^ 125 - small ((b - a) * 2 ^ 128 / (b + a)) else small (a * 2 ^ 128 / b)

/-- ATAN2 in turns × 2^32; atan2(0, 0) = 0 (Table 3.5). -/
def atan2Code (y x : Int) : Word :=
  if y = 0 ∧ x = 0 then 0
  else
    let a := y.natAbs
    let b := x.natAbs
    let t : Nat := if a ≤ b then atanTurns a b else 2 ^ 126 - atanTurns b a
    let h : Nat := if x < 0 then 2 ^ 127 - t else t
    let m : Nat := (h + 2 ^ 95) / 2 ^ 96
    if y < 0 then BitVec.ofInt 32 (-(m : Int)) else BitVec.ofNat 32 m

/-- Integer square root, bit by bit from bit `n − 1` of the root. -/
def isqrtFrom : Nat → Nat → Nat → Nat
  | 0, _, r => r
  | k + 1, v, r => if (r + 2 ^ k) * (r + 2 ^ k) ≤ v then isqrtFrom k v (r + 2 ^ k) else isqrtFrom k v r

/-- Largest r with r² ≤ v, for v below 2^128. -/
def isqrt (v : Nat) : Nat := isqrtFrom 64 v 0

/-- MAG before saturation: √(ra² + rb²) × 2^QS, to the nearest code (Table 3.5). -/
def magValue (a b : Int) (qs : Int) : Nat :=
  let n := a.natAbs * a.natAbs + b.natAbs * b.natAbs
  if qs < 0 then
    let k := qs.natAbs
    (isqrt n + 2 ^ (k - 1)) / 2 ^ k
  else (isqrt (4 * (n * 2 ^ (2 * qs.toNat))) + 1) / 2

end Sys2Proof.Machine
end

