-- ==== Sys2Proof/Machine/Regs.lean ====
section
/-! DEFINITION. The registers of every page by name: the 24-bit byte address of each (R53, R54) from the register maps of
the chapters (Tables 1.5, 2.12, 2.13 and those of the other chapters). A page with instances takes the instance n; an
array takes its index k. The `LPD` window of PAIRCMP instance 0 stands for the loop descriptors (R123). -/

namespace Sys2Proof.Machine

-- SYS
abbrev R.SYS.ID : Nat := 0x0
abbrev R.SYS.CAPS : Nat := 0x4
abbrev R.SYS.CTRL : Nat := 0x8
abbrev R.SYS.STATUS : Nat := 0xC
abbrev R.SYS.STICKY : Nat := 0x10
abbrev R.SYS.IRQ_EN : Nat := 0x14
abbrev R.SYS.IRQ_PEND : Nat := 0x18
abbrev R.SYS.LOCK : Nat := 0x1C
abbrev R.SYS.EPOCH : Nat := 0x20
abbrev R.SYS.ERRINFO : Nat := 0x24
abbrev R.SYS.ST_LO : Nat := 0x40
abbrev R.SYS.ST_HI : Nat := 0x44
abbrev R.SYS.UID_LO : Nat := 0x48
abbrev R.SYS.UID_HI : Nat := 0x4C
abbrev R.SYS.DEV_REV : Nat := 0x50
abbrev R.SYS.RESET_CAUSE : Nat := 0x54
abbrev R.SYS.GRP_CTRL : Nat := 0x60
abbrev R.SYS.GRP_STATUS : Nat := 0x64
abbrev R.SYS.GRP_TIME_LO : Nat := 0x68
abbrev R.SYS.GRP_TIME_HI : Nat := 0x6C
abbrev R.SYS.GRP_DONE_LO : Nat := 0x70
abbrev R.SYS.GRP_DONE_HI : Nat := 0x74
abbrev R.SYS.GRP_MEMBER (k : Nat) : Nat := 0x80 + k * 0x4
-- HOST
abbrev R.HOST.ID : Nat := 0x80000
abbrev R.HOST.CAPS : Nat := 0x80004
abbrev R.HOST.CTRL : Nat := 0x80008
abbrev R.HOST.STATUS : Nat := 0x8000C
abbrev R.HOST.STICKY : Nat := 0x80010
abbrev R.HOST.IRQ_EN : Nat := 0x80014
abbrev R.HOST.IRQ_PEND : Nat := 0x80018
abbrev R.HOST.LOCK : Nat := 0x8001C
abbrev R.HOST.EPOCH : Nat := 0x80020
abbrev R.HOST.ERRINFO : Nat := 0x80024
abbrev R.HOST.PORT_CFG : Nat := 0x80040
abbrev R.HOST.UNMAPPED_CNT : Nat := 0x80048
abbrev R.HOST.SHP_STATUS : Nat := 0x8004C
abbrev R.HOST.IRQ_MAP (k : Nat) : Nat := 0x80050 + k * 0x4
abbrev R.HOST.LINE_PEND (k : Nat) : Nat := 0x80070 + k * 0x4
abbrev R.HOST.INST_SEL : Nat := 0x80090
abbrev R.HOST.INST_PEND_LO : Nat := 0x80094
abbrev R.HOST.INST_PEND_HI : Nat := 0x80098
abbrev R.HOST.MBX_DEST (k : Nat) : Nat := 0x800A0 + k * 0x20
abbrev R.HOST.MBX_ADDR (k : Nat) : Nat := 0x800A4 + k * 0x20
abbrev R.HOST.MBX_WDATA (k : Nat) : Nat := 0x800A8 + k * 0x20
abbrev R.HOST.MBX_CMD (k : Nat) : Nat := 0x800AC + k * 0x20
abbrev R.HOST.MBX_STATUS (k : Nat) : Nat := 0x800B0 + k * 0x20
abbrev R.HOST.MBX_RDATA (k : Nat) : Nat := 0x800B4 + k * 0x20
abbrev R.HOST.MBX_BOUND (k : Nat) : Nat := 0x800B8 + k * 0x20
abbrev R.HOST.MBX_LATE_CNT : Nat := 0x80120
-- LEASH
abbrev R.LEASH.ID : Nat := 0x100000
abbrev R.LEASH.CAPS : Nat := 0x100004
abbrev R.LEASH.CTRL : Nat := 0x100008
abbrev R.LEASH.STATUS : Nat := 0x10000C
abbrev R.LEASH.STICKY : Nat := 0x100010
abbrev R.LEASH.IRQ_EN : Nat := 0x100014
abbrev R.LEASH.IRQ_PEND : Nat := 0x100018
abbrev R.LEASH.LOCK : Nat := 0x10001C
abbrev R.LEASH.EPOCH : Nat := 0x100020
abbrev R.LEASH.ERRINFO : Nat := 0x100024
abbrev R.LEASH.ADM_CFG : Nat := 0x100040
abbrev R.LEASH.ADM_CMD : Nat := 0x100044
abbrev R.LEASH.ADM_RESULT : Nat := 0x100048
abbrev R.LEASH.ADM_BOUND : Nat := 0x10004C
abbrev R.LEASH.ADM_DEADLINE : Nat := 0x100050
abbrev R.LEASH.REGION_SEL : Nat := 0x100054
abbrev R.LEASH.REGION_PACE : Nat := 0x100058
abbrev R.LEASH.REGION_NEED : Nat := 0x10005C
abbrev R.LEASH.REGION_VOLT : Nat := 0x100060
abbrev R.LEASH.REGION_TEMP : Nat := 0x100064
abbrev R.LEASH.REGION_STATUS : Nat := 0x100068
abbrev R.LEASH.VOLT_LIMIT : Nat := 0x10006C
abbrev R.LEASH.SKEW_LIMIT : Nat := 0x100070
abbrev R.LEASH.REFUSE_CNT : Nat := 0x100074
abbrev R.LEASH.LATE_CNT : Nat := 0x100078
abbrev R.LEASH.ATRISK_CNT : Nat := 0x10007C
abbrev R.LEASH.MIGR_CNT : Nat := 0x100080
abbrev R.LEASH.LATE_LAST : Nat := 0x100084
abbrev R.LEASH.LAST_REFUSE : Nat := 0x100088
abbrev R.LEASH.CNT_CLR : Nat := 0x10008C
abbrev R.LEASH.DLMISS_CNT : Nat := 0x100090
abbrev R.LEASH.PACE_ALL (k : Nat) : Nat := 0x1000C0 + k * 0x4
abbrev R.LEASH.AT_RISK (k : Nat) : Nat := 0x100100 + k * 0x4
-- CLE
abbrev R.CLE.ID (n : Nat) : Nat := 0x180000 + n * 0x1000
abbrev R.CLE.CAPS (n : Nat) : Nat := 0x180004 + n * 0x1000
abbrev R.CLE.CTRL (n : Nat) : Nat := 0x180008 + n * 0x1000
abbrev R.CLE.STATUS (n : Nat) : Nat := 0x18000C + n * 0x1000
abbrev R.CLE.STICKY (n : Nat) : Nat := 0x180010 + n * 0x1000
abbrev R.CLE.IRQ_EN (n : Nat) : Nat := 0x180014 + n * 0x1000
abbrev R.CLE.IRQ_PEND (n : Nat) : Nat := 0x180018 + n * 0x1000
abbrev R.CLE.LOCK (n : Nat) : Nat := 0x18001C + n * 0x1000
abbrev R.CLE.EPOCH (n : Nat) : Nat := 0x180020 + n * 0x1000
abbrev R.CLE.ERRINFO (n : Nat) : Nat := 0x180024 + n * 0x1000
abbrev R.CLE.PAIR_INFO (n : Nat) : Nat := 0x180040 + n * 0x1000
abbrev R.CLE.MEM_FREE (n : Nat) : Nat := 0x180044 + n * 0x1000
abbrev R.CLE.LOOP_SAT (n : Nat) : Nat := 0x180048 + n * 0x1000
abbrev R.CLE.SLOT_SEL (n : Nat) : Nat := 0x18004C + n * 0x1000
abbrev R.CLE.SLOT_INFO (n : Nat) : Nat := 0x180050 + n * 0x1000
abbrev R.CLE.SLOT_PMEM (n : Nat) : Nat := 0x180054 + n * 0x1000
abbrev R.CLE.SLOT_DMEM (n : Nat) : Nat := 0x180058 + n * 0x1000
abbrev R.CLE.SLOT_COST (n : Nat) : Nat := 0x18005C + n * 0x1000
abbrev R.CLE.SLOT_WU_LAST (n : Nat) : Nat := 0x180060 + n * 0x1000
abbrev R.CLE.SLOT_WU_MAX (n : Nat) : Nat := 0x180064 + n * 0x1000
abbrev R.CLE.SLOT_CLR (n : Nat) : Nat := 0x180068 + n * 0x1000
abbrev R.CLE.LOAD_STATUS (n : Nat) : Nat := 0x18006C + n * 0x1000
abbrev R.CLE.TRAP_INFO (n : Nat) : Nat := 0x180070 + n * 0x1000
abbrev R.CLE.TRAP_ADDR (n : Nat) : Nat := 0x180074 + n * 0x1000
abbrev R.CLE.ECC_INFO (n : Nat) : Nat := 0x180078 + n * 0x1000
abbrev R.CLE.DMEM_ADDR (n : Nat) : Nat := 0x18007C + n * 0x1000
abbrev R.CLE.DMEM_DATA (n : Nat) : Nat := 0x180080 + n * 0x1000
abbrev R.CLE.PMEM_ADDR (n : Nat) : Nat := 0x180084 + n * 0x1000
abbrev R.CLE.PMEM_DATA (n : Nat) : Nat := 0x180088 + n * 0x1000
abbrev R.CLE.SHM_ADDR (n : Nat) : Nat := 0x18008C + n * 0x1000
abbrev R.CLE.SHM_DATA (n : Nat) : Nat := 0x180090 + n * 0x1000
-- LPD
abbrev R.LPD.LPD_SEL : Nat := 0x200800
abbrev R.LPD.LPD_STATE : Nat := 0x200804
abbrev R.LPD.LPD_CMD : Nat := 0x200808
abbrev R.LPD.LPD_TRIG : Nat := 0x20080C
abbrev R.LPD.LPD_PERIOD : Nat := 0x200810
abbrev R.LPD.LPD_DEADLINE : Nat := 0x200814
abbrev R.LPD.LPD_PHASE : Nat := 0x200818
abbrev R.LPD.LPD_CASC : Nat := 0x20081C
abbrev R.LPD.LPD_SPSRC : Nat := 0x200820
abbrev R.LPD.LPD_SETPT : Nat := 0x200824
abbrev R.LPD.LPD_RA : Nat := 0x200828
abbrev R.LPD.LPD_PASS_COST : Nat := 0x20082C
abbrev R.LPD.LPD_OPEN : Nat := 0x200830
abbrev R.LPD.LPD_SDOG : Nat := 0x200834
abbrev R.LPD.LPD_FLAGS : Nat := 0x200838
abbrev R.LPD.LPD_MISS_CNT : Nat := 0x20083C
abbrev R.LPD.LPD_RA_CNT : Nat := 0x200840
abbrev R.LPD.LPD_DROP_CNT : Nat := 0x200844
abbrev R.LPD.LPD_SDOG_STAT : Nat := 0x200848
abbrev R.LPD.LPD_CNT_CLR : Nat := 0x20084C
abbrev R.LPD.LPD_LAST_LO : Nat := 0x200850
abbrev R.LPD.LPD_LAST_HI : Nat := 0x200854
-- PAIRCMP
abbrev R.PAIRCMP.ID (n : Nat) : Nat := 0x200000 + n * 0x1000
abbrev R.PAIRCMP.CAPS (n : Nat) : Nat := 0x200004 + n * 0x1000
abbrev R.PAIRCMP.CTRL (n : Nat) : Nat := 0x200008 + n * 0x1000
abbrev R.PAIRCMP.STATUS (n : Nat) : Nat := 0x20000C + n * 0x1000
abbrev R.PAIRCMP.STICKY (n : Nat) : Nat := 0x200010 + n * 0x1000
abbrev R.PAIRCMP.IRQ_EN (n : Nat) : Nat := 0x200014 + n * 0x1000
abbrev R.PAIRCMP.IRQ_PEND (n : Nat) : Nat := 0x200018 + n * 0x1000
abbrev R.PAIRCMP.LOCK (n : Nat) : Nat := 0x20001C + n * 0x1000
abbrev R.PAIRCMP.EPOCH (n : Nat) : Nat := 0x200020 + n * 0x1000
abbrev R.PAIRCMP.ERRINFO (n : Nat) : Nat := 0x200024 + n * 0x1000
abbrev R.PAIRCMP.CMP_CFG (n : Nat) : Nat := 0x200040 + n * 0x1000
abbrev R.PAIRCMP.MISMATCH_INFO (n : Nat) : Nat := 0x200044 + n * 0x1000
abbrev R.PAIRCMP.MISMATCH_ADDR (n : Nat) : Nat := 0x200048 + n * 0x1000
abbrev R.PAIRCMP.MISMATCH_ST_LO (n : Nat) : Nat := 0x20004C + n * 0x1000
abbrev R.PAIRCMP.MISMATCH_ST_HI (n : Nat) : Nat := 0x200050 + n * 0x1000
abbrev R.PAIRCMP.SIG_A (n : Nat) : Nat := 0x200054 + n * 0x1000
abbrev R.PAIRCMP.SIG_B (n : Nat) : Nat := 0x200058 + n * 0x1000
abbrev R.PAIRCMP.SIG_STATUS (n : Nat) : Nat := 0x20005C + n * 0x1000
abbrev R.PAIRCMP.IND_CNT (n : Nat) : Nat := 0x200060 + n * 0x1000
abbrev R.PAIRCMP.ADIV_CNT (n : Nat) : Nat := 0x200064 + n * 0x1000
abbrev R.PAIRCMP.MIG_STALE_CNT (n : Nat) : Nat := 0x200068 + n * 0x1000
abbrev R.PAIRCMP.MISMATCH_CNT (n : Nat) : Nat := 0x20006C + n * 0x1000
abbrev R.PAIRCMP.TEST_RESULT (n : Nat) : Nat := 0x200070 + n * 0x1000
abbrev R.PAIRCMP.TEST_AGE (n : Nat) : Nat := 0x200074 + n * 0x1000
abbrev R.PAIRCMP.MIG_STATUS (n : Nat) : Nat := 0x200078 + n * 0x1000
abbrev R.PAIRCMP.CNT_CLR (n : Nat) : Nat := 0x20007C + n * 0x1000
-- ISN
abbrev R.ISN.ID : Nat := 0x280000
abbrev R.ISN.CAPS : Nat := 0x280004
abbrev R.ISN.CTRL : Nat := 0x280008
abbrev R.ISN.STATUS : Nat := 0x28000C
abbrev R.ISN.STICKY : Nat := 0x280010
abbrev R.ISN.IRQ_EN : Nat := 0x280014
abbrev R.ISN.IRQ_PEND : Nat := 0x280018
abbrev R.ISN.LOCK : Nat := 0x28001C
abbrev R.ISN.EPOCH : Nat := 0x280020
abbrev R.ISN.ERRINFO : Nat := 0x280024
abbrev R.ISN.ISN_CFG : Nat := 0x280040
abbrev R.ISN.CFG_CRC : Nat := 0x280044
abbrev R.ISN.CFG_CRC_ACT : Nat := 0x280048
abbrev R.ISN.DEG_LIM : Nat := 0x28004C
abbrev R.ISN.DEG_SPD : Nat := 0x280050
abbrev R.ISN.LIM_MBX : Nat := 0x280054
abbrev R.ISN.SS_CHOICE : Nat := 0x280058
abbrev R.ISN.ASC_CFG : Nat := 0x28005C
abbrev R.ISN.SS_STAT : Nat := 0x280060
abbrev R.ISN.DEG_TIME : Nat := 0x280064
abbrev R.ISN.FAULT_ACT : Nat := 0x280068
abbrev R.ISN.FAULT_SEEN : Nat := 0x28006C
abbrev R.ISN.CLASS0 : Nat := 0x280070
abbrev R.ISN.CLASS1 : Nat := 0x280074
abbrev R.ISN.LAST_FAULT : Nat := 0x280078
abbrev R.ISN.LAST_ST_LO : Nat := 0x28007C
abbrev R.ISN.LAST_ST_HI : Nat := 0x280080
abbrev R.ISN.OSC_STAT : Nat := 0x280084
abbrev R.ISN.WD_STAT : Nat := 0x280088
abbrev R.ISN.ENTRY_CNT : Nat := 0x28008C
abbrev R.ISN.CNT_CLR : Nat := 0x280090
-- ADC
abbrev R.ADC.ID (n : Nat) : Nat := 0x300000 + n * 0x1000
abbrev R.ADC.CAPS (n : Nat) : Nat := 0x300004 + n * 0x1000
abbrev R.ADC.CTRL (n : Nat) : Nat := 0x300008 + n * 0x1000
abbrev R.ADC.STATUS (n : Nat) : Nat := 0x30000C + n * 0x1000
abbrev R.ADC.STICKY (n : Nat) : Nat := 0x300010 + n * 0x1000
abbrev R.ADC.IRQ_EN (n : Nat) : Nat := 0x300014 + n * 0x1000
abbrev R.ADC.IRQ_PEND (n : Nat) : Nat := 0x300018 + n * 0x1000
abbrev R.ADC.LOCK (n : Nat) : Nat := 0x30001C + n * 0x1000
abbrev R.ADC.EPOCH (n : Nat) : Nat := 0x300020 + n * 0x1000
abbrev R.ADC.ERRINFO (n : Nat) : Nat := 0x300024 + n * 0x1000
abbrev R.ADC.ADM_CMD (n : Nat) : Nat := 0x300040 + n * 0x1000
abbrev R.ADC.ADM_RESULT (n : Nat) : Nat := 0x300044 + n * 0x1000
abbrev R.ADC.ADMITTED (n : Nat) : Nat := 0x300048 + n * 0x1000
abbrev R.ADC.PENDING (n : Nat) : Nat := 0x30004C + n * 0x1000
abbrev R.ADC.URG_DROP_CNT (n : Nat) : Nat := 0x300050 + n * 0x1000
abbrev R.ADC.EARLY_CNT (n : Nat) : Nat := 0x300054 + n * 0x1000
abbrev R.ADC.LATE_CNT (n : Nat) : Nat := 0x300058 + n * 0x1000
abbrev R.ADC.CNT_CLR (n : Nat) : Nat := 0x30005C + n * 0x1000
abbrev R.ADC.HOST_TRIG (n : Nat) : Nat := 0x300060 + n * 0x1000
abbrev R.ADC.CONV_CNT (n : Nat) : Nat := 0x300064 + n * 0x1000
abbrev R.ADC.CLIP_MAP (n : Nat) : Nat := 0x300068 + n * 0x1000
abbrev R.ADC.RES (n k : Nat) : Nat := 0x300100 + n * 0x1000 + k * 0x4
abbrev R.ADC.TS (n k : Nat) : Nat := 0x300180 + n * 0x1000 + k * 0x4
abbrev R.ADC.ETRIG (n k : Nat) : Nat := 0x300200 + n * 0x1000 + k * 0x10
abbrev R.ADC.ECONV (n k : Nat) : Nat := 0x300204 + n * 0x1000 + k * 0x10
abbrev R.ADC.EPER (n k : Nat) : Nat := 0x300208 + n * 0x1000 + k * 0x10
abbrev R.ADC.EDL (n k : Nat) : Nat := 0x30020C + n * 0x1000 + k * 0x10
-- CMPG
abbrev R.CMPG.ID (n : Nat) : Nat := 0x380000 + n * 0x1000
abbrev R.CMPG.CAPS (n : Nat) : Nat := 0x380004 + n * 0x1000
abbrev R.CMPG.CTRL (n : Nat) : Nat := 0x380008 + n * 0x1000
abbrev R.CMPG.STATUS (n : Nat) : Nat := 0x38000C + n * 0x1000
abbrev R.CMPG.STICKY (n : Nat) : Nat := 0x380010 + n * 0x1000
abbrev R.CMPG.IRQ_EN (n : Nat) : Nat := 0x380014 + n * 0x1000
abbrev R.CMPG.IRQ_PEND (n : Nat) : Nat := 0x380018 + n * 0x1000
abbrev R.CMPG.LOCK (n : Nat) : Nat := 0x38001C + n * 0x1000
abbrev R.CMPG.EPOCH (n : Nat) : Nat := 0x380020 + n * 0x1000
abbrev R.CMPG.ERRINFO (n : Nat) : Nat := 0x380024 + n * 0x1000
abbrev R.CMPG.CMP_STAT (n : Nat) : Nat := 0x380040 + n * 0x1000
abbrev R.CMPG.LATCH_CLR (n : Nat) : Nat := 0x380044 + n * 0x1000
abbrev R.CMPG.FIRST_MID (n : Nat) : Nat := 0x380048 + n * 0x1000
abbrev R.CMPG.IN_BAND (n : Nat) : Nat := 0x38004C + n * 0x1000
abbrev R.CMPG.WCFG (n : Nat) : Nat := 0x380050 + n * 0x1000
abbrev R.CMPG.LATCH_CNT (n k : Nat) : Nat := 0x380060 + n * 0x1000 + k * 0x4
abbrev R.CMPG.CNT_CLR (n : Nat) : Nat := 0x380080 + n * 0x1000
abbrev R.CMPG.CCFG (n k : Nat) : Nat := 0x380100 + n * 0x1000 + k * 0x20
abbrev R.CMPG.CTH (n k : Nat) : Nat := 0x380104 + n * 0x1000 + k * 0x20
abbrev R.CMPG.CBLANK (n k : Nat) : Nat := 0x380108 + n * 0x1000 + k * 0x20
abbrev R.CMPG.CTRIP (n k : Nat) : Nat := 0x38010C + n * 0x1000 + k * 0x20
abbrev R.CMPG.CSTAT (n k : Nat) : Nat := 0x380110 + n * 0x1000 + k * 0x20
-- DAC
abbrev R.DAC.ID : Nat := 0x400000
abbrev R.DAC.CAPS : Nat := 0x400004
abbrev R.DAC.CTRL : Nat := 0x400008
abbrev R.DAC.STATUS : Nat := 0x40000C
abbrev R.DAC.STICKY : Nat := 0x400010
abbrev R.DAC.IRQ_EN : Nat := 0x400014
abbrev R.DAC.IRQ_PEND : Nat := 0x400018
abbrev R.DAC.LOCK : Nat := 0x40001C
abbrev R.DAC.EPOCH : Nat := 0x400020
abbrev R.DAC.ERRINFO : Nat := 0x400024
abbrev R.DAC.DCFG (k : Nat) : Nat := 0x400040 + k * 0x10
abbrev R.DAC.DCODE (k : Nat) : Nat := 0x400044 + k * 0x10
abbrev R.DAC.DFREQ (k : Nat) : Nat := 0x400048 + k * 0x10
abbrev R.DAC.DSINE (k : Nat) : Nat := 0x40004C + k * 0x10
abbrev R.DAC.DPHASE (k : Nat) : Nat := 0x4000C0 + k * 0x4
-- PFU
abbrev R.PFU.ID (n : Nat) : Nat := 0x480000 + n * 0x1000
abbrev R.PFU.CAPS (n : Nat) : Nat := 0x480004 + n * 0x1000
abbrev R.PFU.CTRL (n : Nat) : Nat := 0x480008 + n * 0x1000
abbrev R.PFU.STATUS (n : Nat) : Nat := 0x48000C + n * 0x1000
abbrev R.PFU.STICKY (n : Nat) : Nat := 0x480010 + n * 0x1000
abbrev R.PFU.IRQ_EN (n : Nat) : Nat := 0x480014 + n * 0x1000
abbrev R.PFU.IRQ_PEND (n : Nat) : Nat := 0x480018 + n * 0x1000
abbrev R.PFU.LOCK (n : Nat) : Nat := 0x48001C + n * 0x1000
abbrev R.PFU.EPOCH (n : Nat) : Nat := 0x480020 + n * 0x1000
abbrev R.PFU.ERRINFO (n : Nat) : Nat := 0x480024 + n * 0x1000
abbrev R.PFU.PFCFG (n : Nat) : Nat := 0x480040 + n * 0x1000
abbrev R.PFU.CPR (n : Nat) : Nat := 0x480044 + n * 0x1000
abbrev R.PFU.ZPOS (n : Nat) : Nat := 0x480048 + n * 0x1000
abbrev R.PFU.EOFS (n : Nat) : Nat := 0x48004C + n * 0x1000
abbrev R.PFU.OBS_T (n : Nat) : Nat := 0x480050 + n * 0x1000
abbrev R.PFU.OBS_L (n k : Nat) : Nat := 0x480054 + n * 0x1000 + k * 0x4
abbrev R.PFU.INNOV_LIM (n : Nat) : Nat := 0x480060 + n * 0x1000
abbrev R.PFU.INNOV_N (n : Nat) : Nat := 0x480064 + n * 0x1000
abbrev R.PFU.COUNT (n : Nat) : Nat := 0x480068 + n * 0x1000
abbrev R.PFU.CAPT (n : Nat) : Nat := 0x48006C + n * 0x1000
abbrev R.PFU.CAPT_TS (n : Nat) : Nat := 0x480070 + n * 0x1000
abbrev R.PFU.CAPT_CFG (n : Nat) : Nat := 0x480074 + n * 0x1000
abbrev R.PFU.PFU_STAT (n : Nat) : Nat := 0x480078 + n * 0x1000
abbrev R.PFU.ANGLE (n : Nat) : Nat := 0x480080 + n * 0x1000
abbrev R.PFU.SPEED (n : Nat) : Nat := 0x480084 + n * 0x1000
abbrev R.PFU.ACCEL (n : Nat) : Nat := 0x480088 + n * 0x1000
abbrev R.PFU.INNOV (n : Nat) : Nat := 0x48008C + n * 0x1000
abbrev R.PFU.OBS_TS (n : Nat) : Nat := 0x480090 + n * 0x1000
abbrev R.PFU.ENC_CFG (n : Nat) : Nat := 0x4800A0 + n * 0x1000
abbrev R.PFU.ENC_FIELD (n : Nat) : Nat := 0x4800A4 + n * 0x1000
abbrev R.PFU.ENC_TIME (n : Nat) : Nat := 0x4800A8 + n * 0x1000
abbrev R.PFU.FRAME_PER (n : Nat) : Nat := 0x4800AC + n * 0x1000
abbrev R.PFU.ENC_RAW_LO (n : Nat) : Nat := 0x4800B0 + n * 0x1000
abbrev R.PFU.ENC_RAW_HI (n : Nat) : Nat := 0x4800B4 + n * 0x1000
abbrev R.PFU.ENC_DELAY (n : Nat) : Nat := 0x4800B8 + n * 0x1000
abbrev R.PFU.ENC_ERR_CNT (n : Nat) : Nat := 0x4800BC + n * 0x1000
abbrev R.PFU.RSLV_CFG (n : Nat) : Nat := 0x4800C0 + n * 0x1000
abbrev R.PFU.RSLV_PHI (n : Nat) : Nat := 0x4800C4 + n * 0x1000
abbrev R.PFU.RSLV_MAG (n : Nat) : Nat := 0x4800C8 + n * 0x1000
abbrev R.PFU.RSLV_AMP (n : Nat) : Nat := 0x4800CC + n * 0x1000
abbrev R.PFU.CABLE_CFG (n : Nat) : Nat := 0x4800D0 + n * 0x1000
abbrev R.PFU.CABLE (n : Nat) : Nat := 0x4800D4 + n * 0x1000
abbrev R.PFU.CABLE_REF (n : Nat) : Nat := 0x4800D8 + n * 0x1000
abbrev R.PFU.QERR_CNT (n : Nat) : Nat := 0x4800DC + n * 0x1000
abbrev R.PFU.CMP_FIRE_CNT (n : Nat) : Nat := 0x4800E0 + n * 0x1000
abbrev R.PFU.CNT_CLR (n : Nat) : Nat := 0x4800E4 + n * 0x1000
abbrev R.PFU.CMPL_CFG (n : Nat) : Nat := 0x480100 + n * 0x1000
abbrev R.PFU.CMPL_STAT (n : Nat) : Nat := 0x480104 + n * 0x1000
abbrev R.PFU.CMPL_FIRED_LO (n : Nat) : Nat := 0x480108 + n * 0x1000
abbrev R.PFU.CMPL_FIRED_HI (n : Nat) : Nat := 0x48010C + n * 0x1000
abbrev R.PFU.CMPE_POS (n k : Nat) : Nat := 0x480400 + n * 0x1000 + k * 0x8
abbrev R.PFU.CMPE_CFG (n k : Nat) : Nat := 0x480404 + n * 0x1000 + k * 0x8
-- PG
abbrev R.PG.ID (n : Nat) : Nat := 0x500000 + n * 0x1000
abbrev R.PG.CAPS (n : Nat) : Nat := 0x500004 + n * 0x1000
abbrev R.PG.CTRL (n : Nat) : Nat := 0x500008 + n * 0x1000
abbrev R.PG.STATUS (n : Nat) : Nat := 0x50000C + n * 0x1000
abbrev R.PG.STICKY (n : Nat) : Nat := 0x500010 + n * 0x1000
abbrev R.PG.IRQ_EN (n : Nat) : Nat := 0x500014 + n * 0x1000
abbrev R.PG.IRQ_PEND (n : Nat) : Nat := 0x500018 + n * 0x1000
abbrev R.PG.LOCK (n : Nat) : Nat := 0x50001C + n * 0x1000
abbrev R.PG.EPOCH (n : Nat) : Nat := 0x500020 + n * 0x1000
abbrev R.PG.ERRINFO (n : Nat) : Nat := 0x500024 + n * 0x1000
abbrev R.PG.PGCFG (n : Nat) : Nat := 0x500040 + n * 0x1000
abbrev R.PG.PERIOD (n : Nat) : Nat := 0x500044 + n * 0x1000
abbrev R.PG.DUTY (n : Nat) : Nat := 0x500048 + n * 0x1000
abbrev R.PG.PHASE (n : Nat) : Nat := 0x50004C + n * 0x1000
abbrev R.PG.DT_HL (n : Nat) : Nat := 0x500050 + n * 0x1000
abbrev R.PG.DT_LH (n : Nat) : Nat := 0x500054 + n * 0x1000
abbrev R.PG.MIN_PW (n : Nat) : Nat := 0x500058 + n * 0x1000
abbrev R.PG.SRC (n : Nat) : Nat := 0x50005C + n * 0x1000
abbrev R.PG.PG_STAT (n : Nat) : Nat := 0x500060 + n * 0x1000
abbrev R.PG.PERIOD_ACT (n : Nat) : Nat := 0x500064 + n * 0x1000
abbrev R.PG.DUTY_ACT (n : Nat) : Nat := 0x500068 + n * 0x1000
abbrev R.PG.PHASE_ACT (n : Nat) : Nat := 0x50006C + n * 0x1000
abbrev R.PG.NEXT_PP (n : Nat) : Nat := 0x500070 + n * 0x1000
abbrev R.PG.HFORCE (n : Nat) : Nat := 0x500074 + n * 0x1000
abbrev R.PG.INTLK_CNT (n : Nat) : Nat := 0x500078 + n * 0x1000
abbrev R.PG.TRIP_CNT (n : Nat) : Nat := 0x50007C + n * 0x1000
abbrev R.PG.MINPW_CNT (n : Nat) : Nat := 0x500080 + n * 0x1000
abbrev R.PG.CNT_CLR (n : Nat) : Nat := 0x500084 + n * 0x1000
-- GLNK
abbrev R.GLNK.ID (n : Nat) : Nat := 0x580000 + n * 0x1000
abbrev R.GLNK.CAPS (n : Nat) : Nat := 0x580004 + n * 0x1000
abbrev R.GLNK.CTRL (n : Nat) : Nat := 0x580008 + n * 0x1000
abbrev R.GLNK.STATUS (n : Nat) : Nat := 0x58000C + n * 0x1000
abbrev R.GLNK.STICKY (n : Nat) : Nat := 0x580010 + n * 0x1000
abbrev R.GLNK.IRQ_EN (n : Nat) : Nat := 0x580014 + n * 0x1000
abbrev R.GLNK.IRQ_PEND (n : Nat) : Nat := 0x580018 + n * 0x1000
abbrev R.GLNK.LOCK (n : Nat) : Nat := 0x58001C + n * 0x1000
abbrev R.GLNK.EPOCH (n : Nat) : Nat := 0x580020 + n * 0x1000
abbrev R.GLNK.ERRINFO (n : Nat) : Nat := 0x580024 + n * 0x1000
abbrev R.GLNK.LINK_STATE (n : Nat) : Nat := 0x580040 + n * 0x1000
abbrev R.GLNK.DESAT_MAP (n : Nat) : Nat := 0x580044 + n * 0x1000
abbrev R.GLNK.LOST_MAP (n : Nat) : Nat := 0x580048 + n * 0x1000
abbrev R.GLNK.CNT_CLR (n : Nat) : Nat := 0x58004C + n * 0x1000
abbrev R.GLNK.LCFG (n k : Nat) : Nat := 0x580100 + n * 0x1000 + k * 0x40
abbrev R.GLNK.DRV_CFG (n k : Nat) : Nat := 0x580104 + n * 0x1000 + k * 0x40
abbrev R.GLNK.ADV (n k : Nat) : Nat := 0x580108 + n * 0x1000 + k * 0x40
abbrev R.GLNK.TMO (n k : Nat) : Nat := 0x58010C + n * 0x1000 + k * 0x40
abbrev R.GLNK.VGS_LIM (n k : Nat) : Nat := 0x580110 + n * 0x1000 + k * 0x40
abbrev R.GLNK.LSTAT (n k : Nat) : Nat := 0x580114 + n * 0x1000 + k * 0x40
abbrev R.GLNK.VGS (n k : Nat) : Nat := 0x580118 + n * 0x1000 + k * 0x40
abbrev R.GLNK.DTEMP (n k : Nat) : Nat := 0x58011C + n * 0x1000 + k * 0x40
abbrev R.GLNK.DSUPPLY (n k : Nat) : Nat := 0x580120 + n * 0x1000 + k * 0x40
abbrev R.GLNK.CMD_TX (n k : Nat) : Nat := 0x580124 + n * 0x1000 + k * 0x40
abbrev R.GLNK.CMD_STAT (n k : Nat) : Nat := 0x580128 + n * 0x1000 + k * 0x40
abbrev R.GLNK.RX_DATA (n k : Nat) : Nat := 0x58012C + n * 0x1000 + k * 0x40
abbrev R.GLNK.LOOP_RTT (n k : Nat) : Nat := 0x580130 + n * 0x1000 + k * 0x40
abbrev R.GLNK.ERR_CNT (n k : Nat) : Nat := 0x580134 + n * 0x1000 + k * 0x40
abbrev R.GLNK.EVT_CNT (n k : Nat) : Nat := 0x580138 + n * 0x1000 + k * 0x40
abbrev R.GLNK.DESAT_INFO (n k : Nat) : Nat := 0x58013C + n * 0x1000 + k * 0x40
-- LVDRV
abbrev R.LVDRV.ID (n : Nat) : Nat := 0x600000 + n * 0x1000
abbrev R.LVDRV.CAPS (n : Nat) : Nat := 0x600004 + n * 0x1000
abbrev R.LVDRV.CTRL (n : Nat) : Nat := 0x600008 + n * 0x1000
abbrev R.LVDRV.STATUS (n : Nat) : Nat := 0x60000C + n * 0x1000
abbrev R.LVDRV.STICKY (n : Nat) : Nat := 0x600010 + n * 0x1000
abbrev R.LVDRV.IRQ_EN (n : Nat) : Nat := 0x600014 + n * 0x1000
abbrev R.LVDRV.IRQ_PEND (n : Nat) : Nat := 0x600018 + n * 0x1000
abbrev R.LVDRV.LOCK (n : Nat) : Nat := 0x60001C + n * 0x1000
abbrev R.LVDRV.EPOCH (n : Nat) : Nat := 0x600020 + n * 0x1000
abbrev R.LVDRV.ERRINFO (n : Nat) : Nat := 0x600024 + n * 0x1000
abbrev R.LVDRV.DCFG (n : Nat) : Nat := 0x600040 + n * 0x1000
abbrev R.LVDRV.UV_CFG (n : Nat) : Nat := 0x600044 + n * 0x1000
abbrev R.LVDRV.SUPPLY (n : Nat) : Nat := 0x600048 + n * 0x1000
abbrev R.LVDRV.DSTAT (n : Nat) : Nat := 0x60004C + n * 0x1000
abbrev R.LVDRV.QG (n : Nat) : Nat := 0x600050 + n * 0x1000
abbrev R.LVDRV.QG_LIM (n : Nat) : Nat := 0x600054 + n * 0x1000
abbrev R.LVDRV.GSENSE (n : Nat) : Nat := 0x600058 + n * 0x1000
abbrev R.LVDRV.UV_CNT (n : Nat) : Nat := 0x60005C + n * 0x1000
abbrev R.LVDRV.FLT_CNT (n : Nat) : Nat := 0x600060 + n * 0x1000
abbrev R.LVDRV.CNT_CLR (n : Nat) : Nat := 0x600064 + n * 0x1000
-- TRIP
abbrev R.TRIP.ID : Nat := 0x680000
abbrev R.TRIP.CAPS : Nat := 0x680004
abbrev R.TRIP.CTRL : Nat := 0x680008
abbrev R.TRIP.STATUS : Nat := 0x68000C
abbrev R.TRIP.STICKY : Nat := 0x680010
abbrev R.TRIP.IRQ_EN : Nat := 0x680014
abbrev R.TRIP.IRQ_PEND : Nat := 0x680018
abbrev R.TRIP.LOCK : Nat := 0x68001C
abbrev R.TRIP.EPOCH : Nat := 0x680020
abbrev R.TRIP.ERRINFO : Nat := 0x680024
abbrev R.TRIP.LINE_ACTIVE : Nat := 0x680040
abbrev R.TRIP.LINE_SEEN : Nat := 0x680044
abbrev R.TRIP.SW_FORCE : Nat := 0x680048
abbrev R.TRIP.SC_EVENT : Nat := 0x68004C
abbrev R.TRIP.SC_ST_LO : Nat := 0x680050
abbrev R.TRIP.SC_ST_HI : Nat := 0x680054
abbrev R.TRIP.SC_CNT : Nat := 0x680058
abbrev R.TRIP.CNT_CLR : Nat := 0x68005C
abbrev R.TRIP.SCP_BROKEN_LO : Nat := 0x680060
abbrev R.TRIP.SCP_BROKEN_HI : Nat := 0x680064
abbrev R.TRIP.GRP_SC (k : Nat) : Nat := 0x680080 + k * 0x4
abbrev R.TRIP.LACT0 (k : Nat) : Nat := 0x680100 + k * 0x10
abbrev R.TRIP.LACT1 (k : Nat) : Nat := 0x680104 + k * 0x10
abbrev R.TRIP.LACT2 (k : Nat) : Nat := 0x680108 + k * 0x10
abbrev R.TRIP.LCFG (k : Nat) : Nat := 0x68010C + k * 0x10
abbrev R.TRIP.SCP (k : Nat) : Nat := 0x680300 + k * 0x4
-- CONV
abbrev R.CONV.ID (n : Nat) : Nat := 0x700000 + n * 0x1000
abbrev R.CONV.CAPS (n : Nat) : Nat := 0x700004 + n * 0x1000
abbrev R.CONV.CTRL (n : Nat) : Nat := 0x700008 + n * 0x1000
abbrev R.CONV.STATUS (n : Nat) : Nat := 0x70000C + n * 0x1000
abbrev R.CONV.STICKY (n : Nat) : Nat := 0x700010 + n * 0x1000
abbrev R.CONV.IRQ_EN (n : Nat) : Nat := 0x700014 + n * 0x1000
abbrev R.CONV.IRQ_PEND (n : Nat) : Nat := 0x700018 + n * 0x1000
abbrev R.CONV.LOCK (n : Nat) : Nat := 0x70001C + n * 0x1000
abbrev R.CONV.EPOCH (n : Nat) : Nat := 0x700020 + n * 0x1000
abbrev R.CONV.ERRINFO (n : Nat) : Nat := 0x700024 + n * 0x1000
abbrev R.CONV.CVCFG (n : Nat) : Nat := 0x700040 + n * 0x1000
abbrev R.CONV.PH_MAP0 (n : Nat) : Nat := 0x700044 + n * 0x1000
abbrev R.CONV.PH_MAP1 (n : Nat) : Nat := 0x700048 + n * 0x1000
abbrev R.CONV.PH_ISEN (n k : Nat) : Nat := 0x70004C + n * 0x1000 + k * 0x4
abbrev R.CONV.VSENSE (n : Nat) : Nat := 0x70005C + n * 0x1000
abbrev R.CONV.ITSENSE (n : Nat) : Nat := 0x700060 + n * 0x1000
abbrev R.CONV.VSCALE (n : Nat) : Nat := 0x700064 + n * 0x1000
abbrev R.CONV.ISCALE (n : Nat) : Nat := 0x700068 + n * 0x1000
abbrev R.CONV.VTARGET (n : Nat) : Nat := 0x70006C + n * 0x1000
abbrev R.CONV.LOADLINE (n : Nat) : Nat := 0x700070 + n * 0x1000
abbrev R.CONV.SOFTSTART (n : Nat) : Nat := 0x700074 + n * 0x1000
abbrev R.CONV.HICCUP (n : Nat) : Nat := 0x700078 + n * 0x1000
abbrev R.CONV.BALANCE (n : Nat) : Nat := 0x70007C + n * 0x1000
abbrev R.CONV.SHED (n : Nat) : Nat := 0x700080 + n * 0x1000
abbrev R.CONV.SHED_I (n : Nat) : Nat := 0x700084 + n * 0x1000
abbrev R.CONV.STEP (n : Nat) : Nat := 0x700088 + n * 0x1000
abbrev R.CONV.INLOSS (n : Nat) : Nat := 0x70008C + n * 0x1000
abbrev R.CONV.CV_STAT (n : Nat) : Nat := 0x700090 + n * 0x1000
abbrev R.CONV.VMEAS (n : Nat) : Nat := 0x700094 + n * 0x1000
abbrev R.CONV.IMEAS (n : Nat) : Nat := 0x700098 + n * 0x1000
abbrev R.CONV.VREF_ACT (n : Nat) : Nat := 0x70009C + n * 0x1000
abbrev R.CONV.VINMEAS (n : Nat) : Nat := 0x7000A0 + n * 0x1000
abbrev R.CONV.TRIM (n k : Nat) : Nat := 0x7000A4 + n * 0x1000 + k * 0x4
abbrev R.CONV.HIC_CNT (n : Nat) : Nat := 0x7000B4 + n * 0x1000
abbrev R.CONV.SHED_CNT (n : Nat) : Nat := 0x7000B8 + n * 0x1000
abbrev R.CONV.CL_CNT (n : Nat) : Nat := 0x7000BC + n * 0x1000
abbrev R.CONV.CNT_CLR (n : Nat) : Nat := 0x7000C0 + n * 0x1000
-- CHGSEQ
abbrev R.CHGSEQ.ID (n : Nat) : Nat := 0x780000 + n * 0x1000
abbrev R.CHGSEQ.CAPS (n : Nat) : Nat := 0x780004 + n * 0x1000
abbrev R.CHGSEQ.CTRL (n : Nat) : Nat := 0x780008 + n * 0x1000
abbrev R.CHGSEQ.STATUS (n : Nat) : Nat := 0x78000C + n * 0x1000
abbrev R.CHGSEQ.STICKY (n : Nat) : Nat := 0x780010 + n * 0x1000
abbrev R.CHGSEQ.IRQ_EN (n : Nat) : Nat := 0x780014 + n * 0x1000
abbrev R.CHGSEQ.IRQ_PEND (n : Nat) : Nat := 0x780018 + n * 0x1000
abbrev R.CHGSEQ.LOCK (n : Nat) : Nat := 0x78001C + n * 0x1000
abbrev R.CHGSEQ.EPOCH (n : Nat) : Nat := 0x780020 + n * 0x1000
abbrev R.CHGSEQ.ERRINFO (n : Nat) : Nat := 0x780024 + n * 0x1000
abbrev R.CHGSEQ.SQCFG (n : Nat) : Nat := 0x780040 + n * 0x1000
abbrev R.CHGSEQ.MSENSE (n : Nat) : Nat := 0x780044 + n * 0x1000
abbrev R.CHGSEQ.VGAIN (n : Nat) : Nat := 0x780048 + n * 0x1000
abbrev R.CHGSEQ.IGAIN (n : Nat) : Nat := 0x78004C + n * 0x1000
abbrev R.CHGSEQ.MZERO (n : Nat) : Nat := 0x780050 + n * 0x1000
abbrev R.CHGSEQ.TSENSE (n : Nat) : Nat := 0x780054 + n * 0x1000
abbrev R.CHGSEQ.VMAX (n : Nat) : Nat := 0x780058 + n * 0x1000
abbrev R.CHGSEQ.VMIN (n : Nat) : Nat := 0x78005C + n * 0x1000
abbrev R.CHGSEQ.IMAXS (n : Nat) : Nat := 0x780060 + n * 0x1000
abbrev R.CHGSEQ.TMAX (n : Nat) : Nat := 0x780064 + n * 0x1000
abbrev R.CHGSEQ.DCIR_T (n : Nat) : Nat := 0x780068 + n * 0x1000
abbrev R.CHGSEQ.SQ_CMD (n : Nat) : Nat := 0x78006C + n * 0x1000
abbrev R.CHGSEQ.SQ_STAT (n : Nat) : Nat := 0x780070 + n * 0x1000
abbrev R.CHGSEQ.STEP_TIME (n : Nat) : Nat := 0x780074 + n * 0x1000
abbrev R.CHGSEQ.VMEAS (n : Nat) : Nat := 0x780078 + n * 0x1000
abbrev R.CHGSEQ.IMEAS (n : Nat) : Nat := 0x78007C + n * 0x1000
abbrev R.CHGSEQ.CHG_LO (n : Nat) : Nat := 0x780080 + n * 0x1000
abbrev R.CHGSEQ.CHG_HI (n : Nat) : Nat := 0x780084 + n * 0x1000
abbrev R.CHGSEQ.CAP_LO (n : Nat) : Nat := 0x780088 + n * 0x1000
abbrev R.CHGSEQ.CAP_HI (n : Nat) : Nat := 0x78008C + n * 0x1000
abbrev R.CHGSEQ.EN_IN (n : Nat) : Nat := 0x780090 + n * 0x1000
abbrev R.CHGSEQ.EN_OUT (n : Nat) : Nat := 0x780094 + n * 0x1000
abbrev R.CHGSEQ.OCV (n k : Nat) : Nat := 0x780098 + n * 0x1000 + k * 0x4
abbrev R.CHGSEQ.OCV_N (n : Nat) : Nat := 0x7800B8 + n * 0x1000
abbrev R.CHGSEQ.DCIR (n : Nat) : Nat := 0x7800BC + n * 0x1000
abbrev R.CHGSEQ.SD (n : Nat) : Nat := 0x7800C0 + n * 0x1000
abbrev R.CHGSEQ.GRADE (n : Nat) : Nat := 0x7800C4 + n * 0x1000
abbrev R.CHGSEQ.STEP (n k : Nat) : Nat := 0x780200 + n * 0x1000 + k * 0x4
abbrev R.CHGSEQ.ZF (n k : Nat) : Nat := 0x780400 + n * 0x1000 + k * 0x10
abbrev R.CHGSEQ.ZRE (n k : Nat) : Nat := 0x780404 + n * 0x1000 + k * 0x10
abbrev R.CHGSEQ.ZIM (n k : Nat) : Nat := 0x780408 + n * 0x1000 + k * 0x10
abbrev R.CHGSEQ.ZSTAT (n k : Nat) : Nat := 0x78040C + n * 0x1000 + k * 0x10
-- THERM
abbrev R.THERM.ID : Nat := 0x800000
abbrev R.THERM.CAPS : Nat := 0x800004
abbrev R.THERM.CTRL : Nat := 0x800008
abbrev R.THERM.STATUS : Nat := 0x80000C
abbrev R.THERM.STICKY : Nat := 0x800010
abbrev R.THERM.IRQ_EN : Nat := 0x800014
abbrev R.THERM.IRQ_PEND : Nat := 0x800018
abbrev R.THERM.LOCK : Nat := 0x80001C
abbrev R.THERM.EPOCH : Nat := 0x800020
abbrev R.THERM.ERRINFO : Nat := 0x800024
abbrev R.THERM.TCFG : Nat := 0x800040
abbrev R.THERM.CH_SEL : Nat := 0x800044
abbrev R.THERM.CH_CFG : Nat := 0x800048
abbrev R.THERM.CH_LIM : Nat := 0x80004C
abbrev R.THERM.CH_RATE : Nat := 0x800050
abbrev R.THERM.CH_RISE : Nat := 0x800054
abbrev R.THERM.CH_FLAGS : Nat := 0x800058
abbrev R.THERM.COND_LO : Nat := 0x80005C
abbrev R.THERM.COND_HI : Nat := 0x800060
abbrev R.THERM.NTC_RPU : Nat := 0x800064
abbrev R.THERM.XT_CFG : Nat := 0x800080
abbrev R.THERM.XT_TRIM : Nat := 0x800084
abbrev R.THERM.XT_C1 : Nat := 0x800088
abbrev R.THERM.XT_C2 : Nat := 0x80008C
abbrev R.THERM.XT_C3 : Nat := 0x800090
abbrev R.THERM.REF_STAT : Nat := 0x800094
abbrev R.THERM.DL_STAT : Nat := 0x800098
abbrev R.THERM.SUP_LIM (k : Nat) : Nat := 0x8000C0 + k * 0x4
abbrev R.THERM.SUP_STAT : Nat := 0x8000E4
abbrev R.THERM.SUP_CFG : Nat := 0x8000E8
abbrev R.THERM.TEMP (k : Nat) : Nat := 0x800100 + k * 0x4
abbrev R.THERM.NTC_SRC (k : Nat) : Nat := 0x800200 + k * 0x8
abbrev R.THERM.NTC_PARAM (k : Nat) : Nat := 0x800204 + k * 0x8
abbrev R.THERM.DOM_CFG (k : Nat) : Nat := 0x800300 + k * 0x10
abbrev R.THERM.DOM_MASK_LO (k : Nat) : Nat := 0x800304 + k * 0x10
abbrev R.THERM.DOM_MASK_HI (k : Nat) : Nat := 0x800308 + k * 0x10
abbrev R.THERM.DOM_STAT (k : Nat) : Nat := 0x80030C + k * 0x10
-- TCOMPAT
abbrev R.TCOMPAT.ID : Nat := 0x880000
abbrev R.TCOMPAT.CAPS : Nat := 0x880004
abbrev R.TCOMPAT.CTRL : Nat := 0x880008
abbrev R.TCOMPAT.STATUS : Nat := 0x88000C
abbrev R.TCOMPAT.STICKY : Nat := 0x880010
abbrev R.TCOMPAT.IRQ_EN : Nat := 0x880014
abbrev R.TCOMPAT.IRQ_PEND : Nat := 0x880018
abbrev R.TCOMPAT.LOCK : Nat := 0x88001C
abbrev R.TCOMPAT.EPOCH : Nat := 0x880020
abbrev R.TCOMPAT.ERRINFO : Nat := 0x880024
abbrev R.TCOMPAT.TC_CFG : Nat := 0x880040
abbrev R.TCOMPAT.TC_MASK_LO : Nat := 0x880044
abbrev R.TCOMPAT.TC_MASK_HI : Nat := 0x880048
abbrev R.TCOMPAT.TC_WARN : Nat := 0x88004C
abbrev R.TCOMPAT.TC_THROT : Nat := 0x880050
abbrev R.TCOMPAT.TC_SHUT : Nat := 0x880054
abbrev R.TCOMPAT.TC_STAT : Nat := 0x880058
-- KENNEL
abbrev R.KENNEL.ID : Nat := 0x900000
abbrev R.KENNEL.CAPS : Nat := 0x900004
abbrev R.KENNEL.CTRL : Nat := 0x900008
abbrev R.KENNEL.STATUS : Nat := 0x90000C
abbrev R.KENNEL.STICKY : Nat := 0x900010
abbrev R.KENNEL.IRQ_EN : Nat := 0x900014
abbrev R.KENNEL.IRQ_PEND : Nat := 0x900018
abbrev R.KENNEL.LOCK : Nat := 0x90001C
abbrev R.KENNEL.EPOCH : Nat := 0x900020
abbrev R.KENNEL.ERRINFO : Nat := 0x900024
abbrev R.KENNEL.KSTAT : Nat := 0x900040
abbrev R.KENNEL.CAL_SEC : Nat := 0x900044
abbrev R.KENNEL.CAL_SUB : Nat := 0x900048
abbrev R.KENNEL.CAL_SEC_LAT : Nat := 0x90004C
abbrev R.KENNEL.ALARM : Nat := 0x900050
abbrev R.KENNEL.OPTIME : Nat := 0x900054
abbrev R.KENNEL.PCYCLE : Nat := 0x900058
abbrev R.KENNEL.WAKE_CFG : Nat := 0x90005C
abbrev R.KENNEL.WAKE_CAUSE : Nat := 0x900060
abbrev R.KENNEL.BKP_CFG : Nat := 0x900064
abbrev R.KENNEL.BKP_VLIM : Nat := 0x900068
abbrev R.KENNEL.BKP_CUT : Nat := 0x90006C
abbrev R.KENNEL.BKP_STAT : Nat := 0x900070
abbrev R.KENNEL.SHIP_CMD : Nat := 0x900074
abbrev R.KENNEL.TOKEN : Nat := 0x900078
abbrev R.KENNEL.TOKEN_CTRL : Nat := 0x90007C
abbrev R.KENNEL.RET_ADDR : Nat := 0x900080
abbrev R.KENNEL.RET_DATA : Nat := 0x900084
abbrev R.KENNEL.VMON : Nat := 0x900088
abbrev R.KENNEL.VKEEP_MON : Nat := 0x90008C
abbrev R.KENNEL.HO_CNT : Nat := 0x900090
abbrev R.KENNEL.CNT_CLR : Nat := 0x900094
-- SAFE
abbrev R.SAFE.ID : Nat := 0x980000
abbrev R.SAFE.CAPS : Nat := 0x980004
abbrev R.SAFE.CTRL : Nat := 0x980008
abbrev R.SAFE.STATUS : Nat := 0x98000C
abbrev R.SAFE.STICKY : Nat := 0x980010
abbrev R.SAFE.IRQ_EN : Nat := 0x980014
abbrev R.SAFE.IRQ_PEND : Nat := 0x980018
abbrev R.SAFE.LOCK : Nat := 0x98001C
abbrev R.SAFE.EPOCH : Nat := 0x980020
abbrev R.SAFE.ERRINFO : Nat := 0x980024
abbrev R.SAFE.STO_STAT : Nat := 0x980040
abbrev R.SAFE.SS1_CFG : Nat := 0x980044
abbrev R.SAFE.SS1_RAMP : Nat := 0x980048
abbrev R.SAFE.SS1_STAT : Nat := 0x98004C
abbrev R.SAFE.SBC_CFG : Nat := 0x980050
abbrev R.SAFE.SBC_TEST : Nat := 0x980054
abbrev R.SAFE.SBC_STAT : Nat := 0x980058
abbrev R.SAFE.HOLD_CFG : Nat := 0x98005C
abbrev R.SAFE.HOLD_T : Nat := 0x980060
abbrev R.SAFE.HOLD_STAT : Nat := 0x980064
abbrev R.SAFE.PARK_CFG : Nat := 0x980068
abbrev R.SAFE.PARK_VMAX : Nat := 0x98006C
abbrev R.SAFE.PARK_STAT : Nat := 0x980070
abbrev R.SAFE.TPS_CFG : Nat := 0x980074
abbrev R.SAFE.SIN_STAT : Nat := 0x980078
abbrev R.SAFE.SIN_FAULT_INFO : Nat := 0x98007C
abbrev R.SAFE.SIN_CFG (k : Nat) : Nat := 0x980080 + k * 0x4
abbrev R.SAFE.PL_CMD : Nat := 0x9800A0
abbrev R.SAFE.SAFE_CNT : Nat := 0x9800A4
abbrev R.SAFE.CNT_CLR : Nat := 0x9800A8
-- BIST
abbrev R.BIST.ID : Nat := 0xA00000
abbrev R.BIST.CAPS : Nat := 0xA00004
abbrev R.BIST.CTRL : Nat := 0xA00008
abbrev R.BIST.STATUS : Nat := 0xA0000C
abbrev R.BIST.STICKY : Nat := 0xA00010
abbrev R.BIST.IRQ_EN : Nat := 0xA00014
abbrev R.BIST.IRQ_PEND : Nat := 0xA00018
abbrev R.BIST.LOCK : Nat := 0xA0001C
abbrev R.BIST.EPOCH : Nat := 0xA00020
abbrev R.BIST.ERRINFO : Nat := 0xA00024
abbrev R.BIST.ROLL_CFG : Nat := 0xA00040
abbrev R.BIST.ROLL_STATUS : Nat := 0xA00044
abbrev R.BIST.ROLL_OLDEST : Nat := 0xA00048
abbrev R.BIST.RETIRED_MAP_LO : Nat := 0xA0004C
abbrev R.BIST.RETIRED_MAP_HI : Nat := 0xA00050
abbrev R.BIST.RESERVE_MAP_LO : Nat := 0xA00054
abbrev R.BIST.RESERVE_MAP_HI : Nat := 0xA00058
abbrev R.BIST.RETIRE_CLR : Nat := 0xA0005C
abbrev R.BIST.MARCH_CFG : Nat := 0xA00060
abbrev R.BIST.MARCH_STATUS : Nat := 0xA00064
abbrev R.BIST.MARCH_FAIL_INFO : Nat := 0xA00068
abbrev R.BIST.ANA_CFG : Nat := 0xA0006C
abbrev R.BIST.ANA_STATUS : Nat := 0xA00070
abbrev R.BIST.REF_CHK : Nat := 0xA00074
abbrev R.BIST.RANGE_STATUS : Nat := 0xA00078
abbrev R.BIST.SCAN_STATUS : Nat := 0xA0007C
-- EPORT
abbrev R.EPORT.ID (n : Nat) : Nat := 0xA80000 + n * 0x1000
abbrev R.EPORT.CAPS (n : Nat) : Nat := 0xA80004 + n * 0x1000
abbrev R.EPORT.CTRL (n : Nat) : Nat := 0xA80008 + n * 0x1000
abbrev R.EPORT.STATUS (n : Nat) : Nat := 0xA8000C + n * 0x1000
abbrev R.EPORT.STICKY (n : Nat) : Nat := 0xA80010 + n * 0x1000
abbrev R.EPORT.IRQ_EN (n : Nat) : Nat := 0xA80014 + n * 0x1000
abbrev R.EPORT.IRQ_PEND (n : Nat) : Nat := 0xA80018 + n * 0x1000
abbrev R.EPORT.LOCK (n : Nat) : Nat := 0xA8001C + n * 0x1000
abbrev R.EPORT.EPOCH (n : Nat) : Nat := 0xA80020 + n * 0x1000
abbrev R.EPORT.ERRINFO (n : Nat) : Nat := 0xA80024 + n * 0x1000
abbrev R.EPORT.PORT_CFG (n : Nat) : Nat := 0xA80040 + n * 0x1000
abbrev R.EPORT.PORT_STAT (n : Nat) : Nat := 0xA80044 + n * 0x1000
abbrev R.EPORT.CABLE (n : Nat) : Nat := 0xA80048 + n * 0x1000
abbrev R.EPORT.CABLE_VP (n : Nat) : Nat := 0xA8004C + n * 0x1000
abbrev R.EPORT.PEER_UID_LO (n : Nat) : Nat := 0xA80050 + n * 0x1000
abbrev R.EPORT.PEER_UID_HI (n : Nat) : Nat := 0xA80054 + n * 0x1000
abbrev R.EPORT.PEER_INFO (n : Nat) : Nat := 0xA80058 + n * 0x1000
abbrev R.EPORT.RES_OCC (n : Nat) : Nat := 0xA8005C + n * 0x1000
abbrev R.EPORT.BE_STAT (n : Nat) : Nat := 0xA80060 + n * 0x1000
abbrev R.EPORT.ERR_CNT (n : Nat) : Nat := 0xA80064 + n * 0x1000
abbrev R.EPORT.DROP_CNT (n : Nat) : Nat := 0xA80068 + n * 0x1000
abbrev R.EPORT.DOWN_CNT (n : Nat) : Nat := 0xA8006C + n * 0x1000
abbrev R.EPORT.TX_PKTS (n : Nat) : Nat := 0xA80070 + n * 0x1000
abbrev R.EPORT.RX_PKTS (n : Nat) : Nat := 0xA80074 + n * 0x1000
abbrev R.EPORT.SUSP_CNT (n : Nat) : Nat := 0xA80078 + n * 0x1000
abbrev R.EPORT.CNT_CLR (n : Nat) : Nat := 0xA8007C + n * 0x1000
-- CANX
abbrev R.CANX.ID (n : Nat) : Nat := 0xB00000 + n * 0x1000
abbrev R.CANX.CAPS (n : Nat) : Nat := 0xB00004 + n * 0x1000
abbrev R.CANX.CTRL (n : Nat) : Nat := 0xB00008 + n * 0x1000
abbrev R.CANX.STATUS (n : Nat) : Nat := 0xB0000C + n * 0x1000
abbrev R.CANX.STICKY (n : Nat) : Nat := 0xB00010 + n * 0x1000
abbrev R.CANX.IRQ_EN (n : Nat) : Nat := 0xB00014 + n * 0x1000
abbrev R.CANX.IRQ_PEND (n : Nat) : Nat := 0xB00018 + n * 0x1000
abbrev R.CANX.LOCK (n : Nat) : Nat := 0xB0001C + n * 0x1000
abbrev R.CANX.EPOCH (n : Nat) : Nat := 0xB00020 + n * 0x1000
abbrev R.CANX.ERRINFO (n : Nat) : Nat := 0xB00024 + n * 0x1000
abbrev R.CANX.CAN_MODE (n : Nat) : Nat := 0xB00040 + n * 0x1000
abbrev R.CANX.NBT (n : Nat) : Nat := 0xB00044 + n * 0x1000
abbrev R.CANX.DBT (n : Nat) : Nat := 0xB00048 + n * 0x1000
abbrev R.CANX.XBT (n : Nat) : Nat := 0xB0004C + n * 0x1000
abbrev R.CANX.TDC (n : Nat) : Nat := 0xB00050 + n * 0x1000
abbrev R.CANX.ERR_STAT (n : Nat) : Nat := 0xB00054 + n * 0x1000
abbrev R.CANX.TX_REQ (n : Nat) : Nat := 0xB00058 + n * 0x1000
abbrev R.CANX.TX_DONE (n : Nat) : Nat := 0xB0005C + n * 0x1000
abbrev R.CANX.RXF_STAT (n : Nat) : Nat := 0xB00060 + n * 0x1000
abbrev R.CANX.RXF_ACK (n : Nat) : Nat := 0xB00064 + n * 0x1000
abbrev R.CANX.FILT_CFG (n : Nat) : Nat := 0xB00068 + n * 0x1000
abbrev R.CANX.MSG_ADDR (n : Nat) : Nat := 0xB0006C + n * 0x1000
abbrev R.CANX.MSG_DATA (n : Nat) : Nat := 0xB00070 + n * 0x1000
-- ETH
abbrev R.ETH.ID (n : Nat) : Nat := 0xB80000 + n * 0x1000
abbrev R.ETH.CAPS (n : Nat) : Nat := 0xB80004 + n * 0x1000
abbrev R.ETH.CTRL (n : Nat) : Nat := 0xB80008 + n * 0x1000
abbrev R.ETH.STATUS (n : Nat) : Nat := 0xB8000C + n * 0x1000
abbrev R.ETH.STICKY (n : Nat) : Nat := 0xB80010 + n * 0x1000
abbrev R.ETH.IRQ_EN (n : Nat) : Nat := 0xB80014 + n * 0x1000
abbrev R.ETH.IRQ_PEND (n : Nat) : Nat := 0xB80018 + n * 0x1000
abbrev R.ETH.LOCK (n : Nat) : Nat := 0xB8001C + n * 0x1000
abbrev R.ETH.EPOCH (n : Nat) : Nat := 0xB80020 + n * 0x1000
abbrev R.ETH.ERRINFO (n : Nat) : Nat := 0xB80024 + n * 0x1000
abbrev R.ETH.MAC_CFG (n : Nat) : Nat := 0xB80040 + n * 0x1000
abbrev R.ETH.MAC_ADDR_LO (n : Nat) : Nat := 0xB80044 + n * 0x1000
abbrev R.ETH.MAC_ADDR_HI (n : Nat) : Nat := 0xB80048 + n * 0x1000
abbrev R.ETH.HASH_LO (n : Nat) : Nat := 0xB8004C + n * 0x1000
abbrev R.ETH.HASH_HI (n : Nat) : Nat := 0xB80050 + n * 0x1000
abbrev R.ETH.MDIO_CMD (n : Nat) : Nat := 0xB80054 + n * 0x1000
abbrev R.ETH.MDIO_STAT (n : Nat) : Nat := 0xB80058 + n * 0x1000
abbrev R.ETH.TX_RING (n : Nat) : Nat := 0xB8005C + n * 0x1000
abbrev R.ETH.RX_RING (n : Nat) : Nat := 0xB80060 + n * 0x1000
abbrev R.ETH.RING_IDX (n : Nat) : Nat := 0xB80064 + n * 0x1000
abbrev R.ETH.TS_FILT (n : Nat) : Nat := 0xB80068 + n * 0x1000
abbrev R.ETH.TS_TX_LO (n : Nat) : Nat := 0xB8006C + n * 0x1000
abbrev R.ETH.TS_TX_HI (n : Nat) : Nat := 0xB80070 + n * 0x1000
abbrev R.ETH.TS_RX_LO (n : Nat) : Nat := 0xB80074 + n * 0x1000
abbrev R.ETH.TS_RX_HI (n : Nat) : Nat := 0xB80078 + n * 0x1000
abbrev R.ETH.FRM_CNT (n : Nat) : Nat := 0xB800C0 + n * 0x1000
abbrev R.ETH.EXACT_LO (n k : Nat) : Nat := 0xB80100 + n * 0x1000 + k * 0x8
abbrev R.ETH.EXACT_HI (n k : Nat) : Nat := 0xB80104 + n * 0x1000 + k * 0x8
-- EVREC
abbrev R.EVREC.ID : Nat := 0xC00000
abbrev R.EVREC.CAPS : Nat := 0xC00004
abbrev R.EVREC.CTRL : Nat := 0xC00008
abbrev R.EVREC.STATUS : Nat := 0xC0000C
abbrev R.EVREC.STICKY : Nat := 0xC00010
abbrev R.EVREC.IRQ_EN : Nat := 0xC00014
abbrev R.EVREC.IRQ_PEND : Nat := 0xC00018
abbrev R.EVREC.LOCK : Nat := 0xC0001C
abbrev R.EVREC.EPOCH : Nat := 0xC00020
abbrev R.EVREC.ERRINFO : Nat := 0xC00024
abbrev R.EVREC.REC_SEL : Nat := 0xC00040
abbrev R.EVREC.REC_DATA (k : Nat) : Nat := 0xC00044 + k * 0x4
abbrev R.EVREC.PART_SEL : Nat := 0xC00064
abbrev R.EVREC.HEAD : Nat := 0xC00068
abbrev R.EVREC.NEWEST_SEQ : Nat := 0xC0006C
abbrev R.EVREC.FIRST_SEQ : Nat := 0xC00070
abbrev R.EVREC.REFUSE_CNT : Nat := 0xC00074
abbrev R.EVREC.TORN_CNT : Nat := 0xC00078
abbrev R.EVREC.HREC_PAY_LO : Nat := 0xC0007C
abbrev R.EVREC.HREC_PAY_HI : Nat := 0xC00080
abbrev R.EVREC.HREC_CMD : Nat := 0xC00084
abbrev R.EVREC.CLR_CFG : Nat := 0xC00088
abbrev R.EVREC.CLR_NONCE (k : Nat) : Nat := 0xC0008C + k * 0x4
abbrev R.EVREC.CLR_MAC (k : Nat) : Nat := 0xC000AC + k * 0x4
abbrev R.EVREC.CLR_CMD : Nat := 0xC000CC
abbrev R.EVREC.CLR_STAT : Nat := 0xC000D0
-- LIFE
abbrev R.LIFE.ID : Nat := 0xC80000
abbrev R.LIFE.CAPS : Nat := 0xC80004
abbrev R.LIFE.CTRL : Nat := 0xC80008
abbrev R.LIFE.STATUS : Nat := 0xC8000C
abbrev R.LIFE.STICKY : Nat := 0xC80010
abbrev R.LIFE.IRQ_EN : Nat := 0xC80014
abbrev R.LIFE.IRQ_PEND : Nat := 0xC80018
abbrev R.LIFE.LOCK : Nat := 0xC8001C
abbrev R.LIFE.EPOCH : Nat := 0xC80020
abbrev R.LIFE.ERRINFO : Nat := 0xC80024
abbrev R.LIFE.FLUSH_CMD : Nat := 0xC80040
abbrev R.LIFE.FLUSH_STAT : Nat := 0xC80044
abbrev R.LIFE.OPTIME_NV : Nat := 0xC80048
abbrev R.LIFE.PCYCLE_NV : Nat := 0xC8004C
abbrev R.LIFE.SW_SEL : Nat := 0xC80050
abbrev R.LIFE.SW_LO : Nat := 0xC80054
abbrev R.LIFE.SW_HI : Nat := 0xC80058
abbrev R.LIFE.SHIFT_CNT : Nat := 0xC8005C
abbrev R.LIFE.PARK_CNT : Nat := 0xC80060
abbrev R.LIFE.CTR_CNT : Nat := 0xC80064
abbrev R.LIFE.EIN_LO : Nat := 0xC80068
abbrev R.LIFE.EIN_HI : Nat := 0xC8006C
abbrev R.LIFE.EOUT_LO : Nat := 0xC80070
abbrev R.LIFE.EOUT_HI : Nat := 0xC80074
abbrev R.LIFE.MOD_SEL : Nat := 0xC80088
abbrev R.LIFE.MOD_CFG : Nat := 0xC8008C
abbrev R.LIFE.STAGE_R (k : Nat) : Nat := 0xC80090 + k * 0x8
abbrev R.LIFE.STAGE_TAU (k : Nat) : Nat := 0xC80094 + k * 0x8
abbrev R.LIFE.TJ : Nat := 0xC800B0
abbrev R.LIFE.TJ_MAX : Nat := 0xC800B4
abbrev R.LIFE.RF_CFG : Nat := 0xC800B8
abbrev R.LIFE.DMG_LO : Nat := 0xC800BC
abbrev R.LIFE.DMG_HI : Nat := 0xC800C0
abbrev R.LIFE.DMG_WARN : Nat := 0xC800C4
abbrev R.LIFE.HIST_SEL : Nat := 0xC800C8
abbrev R.LIFE.HIST_DATA : Nat := 0xC800CC
abbrev R.LIFE.TAB_SEL : Nat := 0xC800D0
abbrev R.LIFE.TAB_DATA : Nat := 0xC800D4
abbrev R.LIFE.MOD_RESET : Nat := 0xC800D8
-- NVM
abbrev R.NVM.ID : Nat := 0xD00000
abbrev R.NVM.CAPS : Nat := 0xD00004
abbrev R.NVM.CTRL : Nat := 0xD00008
abbrev R.NVM.STATUS : Nat := 0xD0000C
abbrev R.NVM.STICKY : Nat := 0xD00010
abbrev R.NVM.IRQ_EN : Nat := 0xD00014
abbrev R.NVM.IRQ_PEND : Nat := 0xD00018
abbrev R.NVM.LOCK : Nat := 0xD0001C
abbrev R.NVM.EPOCH : Nat := 0xD00020
abbrev R.NVM.ERRINFO : Nat := 0xD00024
abbrev R.NVM.BANK_STAT : Nat := 0xD00040
abbrev R.NVM.ACTIVE_BANK : Nat := 0xD00044
abbrev R.NVM.MIN_VERSION : Nat := 0xD00048
abbrev R.NVM.VER_CMD : Nat := 0xD0004C
abbrev R.NVM.PROG_ADDR : Nat := 0xD00050
abbrev R.NVM.PROG_DATA : Nat := 0xD00054
abbrev R.NVM.AUTH_CMD : Nat := 0xD00058
abbrev R.NVM.AUTH_STAT : Nat := 0xD0005C
abbrev R.NVM.VER_A : Nat := 0xD00060
abbrev R.NVM.VER_B : Nat := 0xD00064
-- SEC
abbrev R.SEC.ID : Nat := 0xD80000
abbrev R.SEC.CAPS : Nat := 0xD80004
abbrev R.SEC.CTRL : Nat := 0xD80008
abbrev R.SEC.STATUS : Nat := 0xD8000C
abbrev R.SEC.STICKY : Nat := 0xD80010
abbrev R.SEC.IRQ_EN : Nat := 0xD80014
abbrev R.SEC.IRQ_PEND : Nat := 0xD80018
abbrev R.SEC.LOCK : Nat := 0xD8001C
abbrev R.SEC.EPOCH : Nat := 0xD80020
abbrev R.SEC.ERRINFO : Nat := 0xD80024
abbrev R.SEC.KEY_SEL : Nat := 0xD80040
abbrev R.SEC.KEY_INFO : Nat := 0xD80044
abbrev R.SEC.KEY_ADDR : Nat := 0xD80048
abbrev R.SEC.KEY_DATA : Nat := 0xD8004C
abbrev R.SEC.KEY_CMD : Nat := 0xD80050
abbrev R.SEC.FAB_CA : Nat := 0xD80054
abbrev R.SEC.ATT_CMD : Nat := 0xD80058
abbrev R.SEC.ATT_STAT : Nat := 0xD8005C
abbrev R.SEC.ATT_NONCE (k : Nat) : Nat := 0xD80060 + k * 0x4
abbrev R.SEC.ATT_SIG (k : Nat) : Nat := 0xD80080 + k * 0x4
abbrev R.SEC.DEV_PUB (k : Nat) : Nat := 0xD800C0 + k * 0x4
abbrev R.SEC.RNG_DATA : Nat := 0xD80100
abbrev R.SEC.RNG_STAT : Nat := 0xD80104
-- PILOT
abbrev R.PILOT.ID (n : Nat) : Nat := 0xE00000 + n * 0x1000
abbrev R.PILOT.CAPS (n : Nat) : Nat := 0xE00004 + n * 0x1000
abbrev R.PILOT.CTRL (n : Nat) : Nat := 0xE00008 + n * 0x1000
abbrev R.PILOT.STATUS (n : Nat) : Nat := 0xE0000C + n * 0x1000
abbrev R.PILOT.STICKY (n : Nat) : Nat := 0xE00010 + n * 0x1000
abbrev R.PILOT.IRQ_EN (n : Nat) : Nat := 0xE00014 + n * 0x1000
abbrev R.PILOT.IRQ_PEND (n : Nat) : Nat := 0xE00018 + n * 0x1000
abbrev R.PILOT.LOCK (n : Nat) : Nat := 0xE0001C + n * 0x1000
abbrev R.PILOT.EPOCH (n : Nat) : Nat := 0xE00020 + n * 0x1000
abbrev R.PILOT.ERRINFO (n : Nat) : Nat := 0xE00024 + n * 0x1000
abbrev R.PILOT.PCFG (n : Nat) : Nat := 0xE00040 + n * 0x1000
abbrev R.PILOT.CP_SCALE (n : Nat) : Nat := 0xE00044 + n * 0x1000
abbrev R.PILOT.CP_STAT (n : Nat) : Nat := 0xE00048 + n * 0x1000
abbrev R.PILOT.CP_LEVEL (n : Nat) : Nat := 0xE0004C + n * 0x1000
abbrev R.PILOT.CP_DUTY (n : Nat) : Nat := 0xE00050 + n * 0x1000
abbrev R.PILOT.CP_IMAX (n : Nat) : Nat := 0xE00054 + n * 0x1000
abbrev R.PILOT.PP_STAT (n : Nat) : Nat := 0xE00058 + n * 0x1000
abbrev R.PILOT.CP_OFFER (n : Nat) : Nat := 0xE0005C + n * 0x1000
abbrev R.PILOT.CP_OUT (n : Nat) : Nat := 0xE00060 + n * 0x1000
abbrev R.PILOT.CHG_CNT (n : Nat) : Nat := 0xE00064 + n * 0x1000
abbrev R.PILOT.CNT_CLR (n : Nat) : Nat := 0xE00068 + n * 0x1000
-- EMGR
abbrev R.EMGR.ID : Nat := 0xA84000
abbrev R.EMGR.CAPS : Nat := 0xA84004
abbrev R.EMGR.CTRL : Nat := 0xA84008
abbrev R.EMGR.STATUS : Nat := 0xA8400C
abbrev R.EMGR.STICKY : Nat := 0xA84010
abbrev R.EMGR.IRQ_EN : Nat := 0xA84014
abbrev R.EMGR.IRQ_PEND : Nat := 0xA84018
abbrev R.EMGR.LOCK : Nat := 0xA8401C
abbrev R.EMGR.EPOCH : Nat := 0xA84020
abbrev R.EMGR.ERRINFO : Nat := 0xA84024
abbrev R.EMGR.MGR_CFG : Nat := 0xA84040
abbrev R.EMGR.DISC_CMD : Nat := 0xA84044
abbrev R.EMGR.DISC_STAT : Nat := 0xA84048
abbrev R.EMGR.DEV_ADDR : Nat := 0xA8404C
abbrev R.EMGR.ROOT_UID_LO : Nat := 0xA84050
abbrev R.EMGR.ROOT_UID_HI : Nat := 0xA84054
abbrev R.EMGR.DOMAIN_SIZE : Nat := 0xA84058
abbrev R.EMGR.DISC_TIME : Nat := 0xA8405C
abbrev R.EMGR.ROUTE_SEL : Nat := 0xA84060
abbrev R.EMGR.ROUTE : Nat := 0xA84064
abbrev R.EMGR.TIME_CFG : Nat := 0xA84068
abbrev R.EMGR.TIME_STAT : Nat := 0xA8406C
abbrev R.EMGR.TIME_RATE : Nat := 0xA84070
abbrev R.EMGR.TIME_OFS : Nat := 0xA84074
abbrev R.EMGR.FLOW_CMD : Nat := 0xA84078
abbrev R.EMGR.FLOW_RESULT : Nat := 0xA8407C
abbrev R.EMGR.FLOW_SEL : Nat := 0xA84080
abbrev R.EMGR.FLOW_DST : Nat := 0xA84084
abbrev R.EMGR.FLOW_SRC : Nat := 0xA84088
abbrev R.EMGR.FLOW_PER : Nat := 0xA8408C
abbrev R.EMGR.FLOW_PHASE : Nat := 0xA84090
abbrev R.EMGR.FLOW_STAT : Nat := 0xA84094
abbrev R.EMGR.FLOW_BOUND : Nat := 0xA84098
abbrev R.EMGR.FLOW_SENT : Nat := 0xA8409C
abbrev R.EMGR.MGMT_PEND : Nat := 0xA840A0
abbrev R.EMGR.MSG_DST : Nat := 0xA840A4
abbrev R.EMGR.MSG_CMD : Nat := 0xA840A8
abbrev R.EMGR.MSG_STAT : Nat := 0xA840AC
abbrev R.EMGR.EP_CFG (k : Nat) : Nat := 0xA84200 + k * 0x4
abbrev R.EMGR.EP_CNT (k : Nat) : Nat := 0xA84300 + k * 0x4
abbrev R.EMGR.MSG_BUF (k : Nat) : Nat := 0xA84400 + k * 0x4

end Sys2Proof.Machine
end

