-- ==== Sys2Proof/Machine/Fields.lean ====
section
/-! DEFINITION. The fields of the registers by name, from the field tables of the chapters. -/

namespace Sys2Proof.Machine

/-- A field: the byte address of its register, its lowest bit and its width. -/
structure Fld where
  reg : Nat
  lo : Nat
  len : Nat
deriving DecidableEq, Repr

-- SYS
abbrev F.SYS.CAPS.GRADE_IND : Fld := ⟨0x4, 0, 1⟩
abbrev F.SYS.STICKY.WR_REJ : Fld := ⟨0x10, 0, 1⟩
abbrev F.SYS.STICKY.GRP_DONE : Fld := ⟨0x10, 1, 1⟩
abbrev F.SYS.STICKY.GRP_REFUSED : Fld := ⟨0x10, 2, 1⟩
abbrev F.SYS.RESET_CAUSE.POR : Fld := ⟨0x54, 0, 1⟩
abbrev F.SYS.RESET_CAUSE.WRST_N : Fld := ⟨0x54, 1, 1⟩
abbrev F.SYS.RESET_CAUSE.WARM : Fld := ⟨0x54, 2, 1⟩
abbrev F.SYS.RESET_CAUSE.ESC_COLD : Fld := ⟨0x54, 3, 1⟩
abbrev F.SYS.RESET_CAUSE.SAFE_HOLD : Fld := ⟨0x54, 4, 1⟩
abbrev F.SYS.GRP_CTRL.FIRE : Fld := ⟨0x60, 0, 1⟩
abbrev F.SYS.GRP_CTRL.IMMEDIATE : Fld := ⟨0x60, 1, 1⟩
abbrev F.SYS.GRP_STATUS.STATE : Fld := ⟨0x64, 0, 2⟩
abbrev F.SYS.GRP_STATUS.REFUSED : Fld := ⟨0x64, 2, 1⟩
abbrev F.SYS.GRP_STATUS.REASON : Fld := ⟨0x64, 8, 8⟩
abbrev F.SYS.GRP_STATUS.PEND_N : Fld := ⟨0x64, 16, 6⟩
abbrev F.SYS.GRP_MEMBER.CLASS (k : Nat) : Fld := ⟨0x80 + k * 0x4, 0, 5⟩
abbrev F.SYS.GRP_MEMBER.INSTANCE (k : Nat) : Fld := ⟨0x80 + k * 0x4, 8, 7⟩
abbrev F.SYS.GRP_MEMBER.VALID (k : Nat) : Fld := ⟨0x80 + k * 0x4, 31, 1⟩
-- HOST
abbrev F.HOST.STICKY.WR_REJ : Fld := ⟨0x80010, 0, 1⟩
abbrev F.HOST.STICKY.UNMAPPED : Fld := ⟨0x80010, 1, 1⟩
abbrev F.HOST.STICKY.SHP_CRC : Fld := ⟨0x80010, 2, 1⟩
abbrev F.HOST.STICKY.SHP_FRAME : Fld := ⟨0x80010, 3, 1⟩
abbrev F.HOST.STICKY.MBX_DONE0 : Fld := ⟨0x80010, 4, 4⟩
abbrev F.HOST.STICKY.MBX_FAIL0 : Fld := ⟨0x80010, 8, 4⟩
abbrev F.HOST.STICKY.MBX_LATE : Fld := ⟨0x80010, 12, 1⟩
abbrev F.HOST.PORT_CFG.PHP_EN : Fld := ⟨0x80040, 0, 1⟩
abbrev F.HOST.PORT_CFG.SHP_EN : Fld := ⟨0x80040, 1, 1⟩
abbrev F.HOST.SHP_STATUS.LAST_OK : Fld := ⟨0x8004C, 0, 1⟩
abbrev F.HOST.SHP_STATUS.CRC_ERR : Fld := ⟨0x8004C, 1, 1⟩
abbrev F.HOST.SHP_STATUS.FRAME_ERR : Fld := ⟨0x8004C, 2, 1⟩
abbrev F.HOST.SHP_STATUS.LAST_CMD : Fld := ⟨0x8004C, 8, 8⟩
abbrev F.HOST.SHP_STATUS.LAST_LEN : Fld := ⟨0x8004C, 16, 6⟩
abbrev F.HOST.IRQ_MAP.LINE (k : Nat) : Fld := ⟨0x80050 + k * 0x4, 0, 3⟩
abbrev F.HOST.IRQ_MAP.EN (k : Nat) : Fld := ⟨0x80050 + k * 0x4, 7, 1⟩
abbrev F.HOST.MBX_CMD.OP (k : Nat) : Fld := ⟨0x800AC + k * 0x20, 0, 2⟩
abbrev F.HOST.MBX_STATUS.BUSY (k : Nat) : Fld := ⟨0x800B0 + k * 0x20, 0, 1⟩
abbrev F.HOST.MBX_STATUS.DONE (k : Nat) : Fld := ⟨0x800B0 + k * 0x20, 1, 1⟩
abbrev F.HOST.MBX_STATUS.TIMEOUT (k : Nat) : Fld := ⟨0x800B0 + k * 0x20, 2, 1⟩
abbrev F.HOST.MBX_STATUS.REFUSED (k : Nat) : Fld := ⟨0x800B0 + k * 0x20, 3, 1⟩
abbrev F.HOST.MBX_STATUS.REMOTE_REJ (k : Nat) : Fld := ⟨0x800B0 + k * 0x20, 4, 1⟩
abbrev F.HOST.MBX_STATUS.REASON (k : Nat) : Fld := ⟨0x800B0 + k * 0x20, 8, 8⟩
-- LEASH
abbrev F.LEASH.CTRL.HOLD_ADM : Fld := ⟨0x100008, 8, 1⟩
abbrev F.LEASH.STATUS.STATE : Fld := ⟨0x10000C, 5, 3⟩
abbrev F.LEASH.STICKY.WR_REJ : Fld := ⟨0x100010, 0, 1⟩
abbrev F.LEASH.STICKY.REFUSED : Fld := ⟨0x100010, 1, 1⟩
abbrev F.LEASH.STICKY.AT_RISK : Fld := ⟨0x100010, 2, 1⟩
abbrev F.LEASH.STICKY.SKEW : Fld := ⟨0x100010, 3, 1⟩
abbrev F.LEASH.STICKY.LATE_ARRIVAL : Fld := ⟨0x100010, 4, 1⟩
abbrev F.LEASH.STICKY.VOLT_CAPPED : Fld := ⟨0x100010, 5, 1⟩
abbrev F.LEASH.STICKY.MIGRATED : Fld := ⟨0x100010, 6, 1⟩
abbrev F.LEASH.STICKY.PACE_FAULT : Fld := ⟨0x100010, 7, 1⟩
abbrev F.LEASH.STICKY.REF_LOST : Fld := ⟨0x100010, 8, 1⟩
abbrev F.LEASH.STICKY.DLMISS : Fld := ⟨0x100010, 9, 1⟩
abbrev F.LEASH.ADM_CFG.BASIS : Fld := ⟨0x100040, 0, 1⟩
abbrev F.LEASH.ADM_CFG.AUTO_VOLT : Fld := ⟨0x100040, 1, 1⟩
abbrev F.LEASH.ADM_CFG.AUTO_MIG : Fld := ⟨0x100040, 2, 1⟩
abbrev F.LEASH.ADM_CFG.GUARD : Fld := ⟨0x100040, 8, 8⟩
abbrev F.LEASH.ADM_CMD.LOOP : Fld := ⟨0x100044, 0, 9⟩
abbrev F.LEASH.ADM_CMD.PAIR : Fld := ⟨0x100044, 9, 6⟩
abbrev F.LEASH.ADM_CMD.ANY_PAIR : Fld := ⟨0x100044, 15, 1⟩
abbrev F.LEASH.ADM_CMD.OP : Fld := ⟨0x100044, 16, 3⟩
abbrev F.LEASH.ADM_RESULT.DONE : Fld := ⟨0x100048, 0, 1⟩
abbrev F.LEASH.ADM_RESULT.ACCEPT : Fld := ⟨0x100048, 1, 1⟩
abbrev F.LEASH.ADM_RESULT.PAIR : Fld := ⟨0x100048, 2, 6⟩
abbrev F.LEASH.ADM_RESULT.REASON : Fld := ⟨0x100048, 8, 8⟩
abbrev F.LEASH.ADM_RESULT.LOOP : Fld := ⟨0x100048, 16, 9⟩
abbrev F.LEASH.REGION_SEL.REGION : Fld := ⟨0x100054, 0, 4⟩
abbrev F.LEASH.REGION_PACE.P_MEAS : Fld := ⟨0x100058, 0, 16⟩
abbrev F.LEASH.REGION_PACE.P_BASIS : Fld := ⟨0x100058, 16, 16⟩
abbrev F.LEASH.REGION_NEED.P_C : Fld := ⟨0x10005C, 0, 16⟩
abbrev F.LEASH.REGION_NEED.P_ADM : Fld := ⟨0x10005C, 16, 16⟩
abbrev F.LEASH.REGION_VOLT.VMEAS : Fld := ⟨0x100060, 0, 10⟩
abbrev F.LEASH.REGION_VOLT.VTARGET : Fld := ⟨0x100060, 16, 10⟩
abbrev F.LEASH.REGION_TEMP.TREG : Fld := ⟨0x100064, 0, 16⟩
abbrev F.LEASH.REGION_STATUS.WATCH : Fld := ⟨0x100068, 0, 1⟩
abbrev F.LEASH.REGION_STATUS.VOLT_RAISED : Fld := ⟨0x100068, 1, 1⟩
abbrev F.LEASH.REGION_STATUS.VOLT_CAPPED : Fld := ⟨0x100068, 2, 1⟩
abbrev F.LEASH.REGION_STATUS.MIGRATING : Fld := ⟨0x100068, 3, 1⟩
abbrev F.LEASH.REGION_STATUS.REFUSING : Fld := ⟨0x100068, 4, 1⟩
abbrev F.LEASH.REGION_STATUS.SKEW : Fld := ⟨0x100068, 5, 1⟩
abbrev F.LEASH.REGION_STATUS.AT_RISK : Fld := ⟨0x100068, 6, 1⟩
abbrev F.LEASH.REGION_STATUS.AT_RISK_N : Fld := ⟨0x100068, 8, 8⟩
abbrev F.LEASH.VOLT_LIMIT.VMAX : Fld := ⟨0x10006C, 0, 10⟩
abbrev F.LEASH.VOLT_LIMIT.VMIN : Fld := ⟨0x10006C, 16, 10⟩
abbrev F.LEASH.SKEW_LIMIT.DV : Fld := ⟨0x100070, 0, 8⟩
abbrev F.LEASH.SKEW_LIMIT.DT : Fld := ⟨0x100070, 8, 8⟩
abbrev F.LEASH.SKEW_LIMIT.RATIO : Fld := ⟨0x100070, 16, 8⟩
abbrev F.LEASH.LATE_LAST.CLASS : Fld := ⟨0x100084, 0, 8⟩
abbrev F.LEASH.LATE_LAST.INSTANCE : Fld := ⟨0x100084, 8, 8⟩
abbrev F.LEASH.LATE_LAST.CHANNEL : Fld := ⟨0x100084, 16, 8⟩
abbrev F.LEASH.LAST_REFUSE.CLASS : Fld := ⟨0x100088, 0, 8⟩
abbrev F.LEASH.LAST_REFUSE.INSTANCE : Fld := ⟨0x100088, 8, 8⟩
abbrev F.LEASH.LAST_REFUSE.REASON : Fld := ⟨0x100088, 16, 8⟩
abbrev F.LEASH.CNT_CLR.REFUSE : Fld := ⟨0x10008C, 0, 1⟩
abbrev F.LEASH.CNT_CLR.LATE : Fld := ⟨0x10008C, 1, 1⟩
abbrev F.LEASH.CNT_CLR.ATRISK : Fld := ⟨0x10008C, 2, 1⟩
abbrev F.LEASH.CNT_CLR.MIGR : Fld := ⟨0x10008C, 3, 1⟩
abbrev F.LEASH.CNT_CLR.DLMISS : Fld := ⟨0x10008C, 4, 1⟩
-- CLE
abbrev F.CLE.CTRL.EN (n : Nat) : Fld := ⟨0x180008 + n * 0x1000, 0, 1⟩
abbrev F.CLE.STATUS.STATE (n : Nat) : Fld := ⟨0x18000C + n * 0x1000, 5, 3⟩
abbrev F.CLE.STATUS.N_LOOPS (n : Nat) : Fld := ⟨0x18000C + n * 0x1000, 8, 5⟩
abbrev F.CLE.STATUS.LOADING (n : Nat) : Fld := ⟨0x18000C + n * 0x1000, 13, 1⟩
abbrev F.CLE.STICKY.WR_REJ (n : Nat) : Fld := ⟨0x180010 + n * 0x1000, 0, 1⟩
abbrev F.CLE.STICKY.SAT (n : Nat) : Fld := ⟨0x180010 + n * 0x1000, 1, 1⟩
abbrev F.CLE.STICKY.OVF (n : Nat) : Fld := ⟨0x180010 + n * 0x1000, 2, 1⟩
abbrev F.CLE.STICKY.DIV0 (n : Nat) : Fld := ⟨0x180010 + n * 0x1000, 3, 1⟩
abbrev F.CLE.STICKY.MEM_REJ (n : Nat) : Fld := ⟨0x180010 + n * 0x1000, 4, 1⟩
abbrev F.CLE.STICKY.ECC_CE (n : Nat) : Fld := ⟨0x180010 + n * 0x1000, 5, 1⟩
abbrev F.CLE.STICKY.ECC_DED (n : Nat) : Fld := ⟨0x180010 + n * 0x1000, 6, 1⟩
abbrev F.CLE.STICKY.COST_OVR (n : Nat) : Fld := ⟨0x180010 + n * 0x1000, 7, 1⟩
abbrev F.CLE.STICKY.TRAP (n : Nat) : Fld := ⟨0x180010 + n * 0x1000, 8, 1⟩
abbrev F.CLE.STICKY.LOAD_ERR (n : Nat) : Fld := ⟨0x180010 + n * 0x1000, 9, 1⟩
abbrev F.CLE.STICKY.PORT_LATE (n : Nat) : Fld := ⟨0x180010 + n * 0x1000, 10, 1⟩
abbrev F.CLE.PAIR_INFO.PAIR (n : Nat) : Fld := ⟨0x180040 + n * 0x1000, 0, 6⟩
abbrev F.CLE.PAIR_INFO.REGION (n : Nat) : Fld := ⟨0x180040 + n * 0x1000, 8, 4⟩
abbrev F.CLE.PAIR_INFO.RESERVE (n : Nat) : Fld := ⟨0x180040 + n * 0x1000, 16, 1⟩
abbrev F.CLE.PAIR_INFO.RETIRED (n : Nat) : Fld := ⟨0x180040 + n * 0x1000, 17, 1⟩
abbrev F.CLE.MEM_FREE.PFREE (n : Nat) : Fld := ⟨0x180044 + n * 0x1000, 0, 15⟩
abbrev F.CLE.MEM_FREE.DFREE (n : Nat) : Fld := ⟨0x180044 + n * 0x1000, 16, 14⟩
abbrev F.CLE.LOOP_SAT.SAT_ACC (n : Nat) : Fld := ⟨0x180048 + n * 0x1000, 0, 16⟩
abbrev F.CLE.LOOP_SAT.SAT_OUT (n : Nat) : Fld := ⟨0x180048 + n * 0x1000, 16, 16⟩
abbrev F.CLE.LOAD_STATUS.LOOP (n : Nat) : Fld := ⟨0x18006C + n * 0x1000, 0, 9⟩
abbrev F.CLE.LOAD_STATUS.BUSY (n : Nat) : Fld := ⟨0x18006C + n * 0x1000, 9, 1⟩
abbrev F.CLE.LOAD_STATUS.DONE (n : Nat) : Fld := ⟨0x18006C + n * 0x1000, 10, 1⟩
abbrev F.CLE.LOAD_STATUS.ERR (n : Nat) : Fld := ⟨0x18006C + n * 0x1000, 11, 1⟩
abbrev F.CLE.LOAD_STATUS.ERR_CODE (n : Nat) : Fld := ⟨0x18006C + n * 0x1000, 12, 4⟩
abbrev F.CLE.SLOT_SEL.LDT (n : Nat) : Fld := ⟨0x18004C + n * 0x1000, 0, 4⟩
abbrev F.CLE.SLOT_INFO.LOOP (n : Nat) : Fld := ⟨0x180050 + n * 0x1000, 0, 9⟩
abbrev F.CLE.SLOT_INFO.VALID (n : Nat) : Fld := ⟨0x180050 + n * 0x1000, 9, 1⟩
abbrev F.CLE.SLOT_PMEM.PBASE (n : Nat) : Fld := ⟨0x180054 + n * 0x1000, 0, 14⟩
abbrev F.CLE.SLOT_PMEM.PLEN (n : Nat) : Fld := ⟨0x180054 + n * 0x1000, 16, 15⟩
abbrev F.CLE.SLOT_DMEM.DBASE (n : Nat) : Fld := ⟨0x180058 + n * 0x1000, 0, 13⟩
abbrev F.CLE.SLOT_DMEM.DLEN (n : Nat) : Fld := ⟨0x180058 + n * 0x1000, 16, 14⟩
abbrev F.CLE.TRAP_INFO.CODE (n : Nat) : Fld := ⟨0x180070 + n * 0x1000, 0, 16⟩
abbrev F.CLE.TRAP_INFO.SLOT (n : Nat) : Fld := ⟨0x180070 + n * 0x1000, 16, 4⟩
abbrev F.CLE.ECC_INFO.DED (n : Nat) : Fld := ⟨0x180078 + n * 0x1000, 20, 1⟩
-- LPD
abbrev F.LPD.LPD_STATE.STATE : Fld := ⟨0x200804, 0, 2⟩
abbrev F.LPD.LPD_STATE.ADMITTED : Fld := ⟨0x200804, 2, 1⟩
abbrev F.LPD.LPD_STATE.LOADED : Fld := ⟨0x200804, 3, 1⟩
abbrev F.LPD.LPD_STATE.CMD_PEND : Fld := ⟨0x200804, 4, 1⟩
abbrev F.LPD.LPD_STATE.AT_RISK : Fld := ⟨0x200804, 5, 1⟩
abbrev F.LPD.LPD_STATE.PAIR : Fld := ⟨0x200804, 6, 6⟩
abbrev F.LPD.LPD_STATE.SLOT : Fld := ⟨0x200804, 12, 4⟩
abbrev F.LPD.LPD_STATE.EPOCH : Fld := ⟨0x200804, 24, 8⟩
abbrev F.LPD.LPD_CMD.OP : Fld := ⟨0x200808, 0, 3⟩
abbrev F.LPD.LPD_TRIG.TSRC : Fld := ⟨0x20080C, 0, 4⟩
abbrev F.LPD.LPD_TRIG.TINST : Fld := ⟨0x20080C, 8, 8⟩
abbrev F.LPD.LPD_TRIG.TEVT : Fld := ⟨0x20080C, 16, 6⟩
abbrev F.LPD.LPD_CASC.INNER : Fld := ⟨0x20081C, 0, 9⟩
abbrev F.LPD.LPD_CASC.NM1 : Fld := ⟨0x20081C, 9, 6⟩
abbrev F.LPD.LPD_CASC.MM1 : Fld := ⟨0x20081C, 15, 6⟩
abbrev F.LPD.LPD_CASC.MBX : Fld := ⟨0x20081C, 21, 8⟩
abbrev F.LPD.LPD_CASC.EN : Fld := ⟨0x20081C, 31, 1⟩
abbrev F.LPD.LPD_SPSRC.SRC : Fld := ⟨0x200820, 0, 2⟩
abbrev F.LPD.LPD_SPSRC.MBX : Fld := ⟨0x200820, 2, 8⟩
abbrev F.LPD.LPD_RA.EN : Fld := ⟨0x200828, 0, 1⟩
abbrev F.LPD.LPD_RA.NINM1 : Fld := ⟨0x200828, 1, 2⟩
abbrev F.LPD.LPD_RA.NOUTM1 : Fld := ⟨0x200828, 3, 2⟩
abbrev F.LPD.LPD_RA.RA_OFS : Fld := ⟨0x200828, 5, 13⟩
abbrev F.LPD.LPD_RA.WAIT : Fld := ⟨0x200828, 18, 6⟩
abbrev F.LPD.LPD_RA.GQS : Fld := ⟨0x200828, 24, 5⟩
abbrev F.LPD.LPD_OPEN.OPEN_MODE : Fld := ⟨0x200830, 0, 1⟩
abbrev F.LPD.LPD_OPEN.FAULT_MODE : Fld := ⟨0x200830, 1, 1⟩
abbrev F.LPD.LPD_OPEN.FORCE_OFS : Fld := ⟨0x200830, 2, 13⟩
abbrev F.LPD.LPD_OPEN.FORCE_N : Fld := ⟨0x200830, 15, 4⟩
abbrev F.LPD.LPD_OPEN.MISS_MAX : Fld := ⟨0x200830, 19, 4⟩
abbrev F.LPD.LPD_SDOG.EN : Fld := ⟨0x200834, 0, 1⟩
abbrev F.LPD.LPD_SDOG.SD_OFS : Fld := ⟨0x200834, 1, 13⟩
abbrev F.LPD.LPD_FLAGS.DEADLINE_MISS : Fld := ⟨0x200838, 0, 1⟩
abbrev F.LPD.LPD_FLAGS.RA_SQUASH : Fld := ⟨0x200838, 1, 1⟩
abbrev F.LPD.LPD_FLAGS.RA_NOINPUT : Fld := ⟨0x200838, 2, 1⟩
abbrev F.LPD.LPD_FLAGS.TRIG_EARLY : Fld := ⟨0x200838, 3, 1⟩
abbrev F.LPD.LPD_FLAGS.FAULT : Fld := ⟨0x200838, 4, 1⟩
abbrev F.LPD.LPD_FLAGS.MISS_FAULT : Fld := ⟨0x200838, 5, 1⟩
abbrev F.LPD.LPD_FLAGS.SDOG_DETECT : Fld := ⟨0x200838, 6, 1⟩
abbrev F.LPD.LPD_FLAGS.SDOG_SCALED : Fld := ⟨0x200838, 7, 1⟩
abbrev F.LPD.LPD_FLAGS.SDOG_OPENED : Fld := ⟨0x200838, 8, 1⟩
abbrev F.LPD.LPD_FLAGS.FORCE_ERR : Fld := ⟨0x200838, 9, 1⟩
abbrev F.LPD.LPD_FLAGS.CASC_SKIP : Fld := ⟨0x200838, 10, 1⟩
abbrev F.LPD.LPD_MISS_CNT.TOTAL : Fld := ⟨0x20083C, 0, 16⟩
abbrev F.LPD.LPD_MISS_CNT.CONSEC : Fld := ⟨0x20083C, 16, 8⟩
abbrev F.LPD.LPD_RA_CNT.COMMITS : Fld := ⟨0x200840, 0, 16⟩
abbrev F.LPD.LPD_RA_CNT.SQUASHES : Fld := ⟨0x200840, 16, 16⟩
abbrev F.LPD.LPD_DROP_CNT.EARLY : Fld := ⟨0x200844, 0, 16⟩
abbrev F.LPD.LPD_DROP_CNT.NOINPUT : Fld := ⟨0x200844, 16, 16⟩
abbrev F.LPD.LPD_SDOG_STAT.QCYC : Fld := ⟨0x200848, 0, 8⟩
abbrev F.LPD.LPD_SDOG_STAT.SCALINGS : Fld := ⟨0x200848, 8, 4⟩
abbrev F.LPD.LPD_SDOG_STAT.LAST_PER : Fld := ⟨0x200848, 16, 12⟩
abbrev F.LPD.LPD_CNT_CLR.MISS : Fld := ⟨0x20084C, 0, 1⟩
abbrev F.LPD.LPD_CNT_CLR.RA : Fld := ⟨0x20084C, 1, 1⟩
abbrev F.LPD.LPD_CNT_CLR.DROP : Fld := ⟨0x20084C, 2, 1⟩
-- PAIRCMP
abbrev F.PAIRCMP.CTRL.EN (n : Nat) : Fld := ⟨0x200008 + n * 0x1000, 0, 1⟩
abbrev F.PAIRCMP.CTRL.TEST_REQ (n : Nat) : Fld := ⟨0x200008 + n * 0x1000, 8, 1⟩
abbrev F.PAIRCMP.STATUS.STATE (n : Nat) : Fld := ⟨0x20000C + n * 0x1000, 5, 3⟩
abbrev F.PAIRCMP.STICKY.WR_REJ (n : Nat) : Fld := ⟨0x200010 + n * 0x1000, 0, 1⟩
abbrev F.PAIRCMP.STICKY.EXEC_MISMATCH (n : Nat) : Fld := ⟨0x200010 + n * 0x1000, 1, 1⟩
abbrev F.PAIRCMP.STICKY.LATENT (n : Nat) : Fld := ⟨0x200010 + n * 0x1000, 2, 1⟩
abbrev F.PAIRCMP.STICKY.PARITY (n : Nat) : Fld := ⟨0x200010 + n * 0x1000, 3, 1⟩
abbrev F.PAIRCMP.STICKY.SPLIT_CHECK (n : Nat) : Fld := ⟨0x200010 + n * 0x1000, 4, 1⟩
abbrev F.PAIRCMP.STICKY.IN_DISAGREE (n : Nat) : Fld := ⟨0x200010 + n * 0x1000, 5, 1⟩
abbrev F.PAIRCMP.STICKY.INPUT_FAULT (n : Nat) : Fld := ⟨0x200010 + n * 0x1000, 6, 1⟩
abbrev F.PAIRCMP.STICKY.MIG_STALE (n : Nat) : Fld := ⟨0x200010 + n * 0x1000, 7, 1⟩
abbrev F.PAIRCMP.STICKY.MIG_FAIL (n : Nat) : Fld := ⟨0x200010 + n * 0x1000, 8, 1⟩
abbrev F.PAIRCMP.STICKY.POISON (n : Nat) : Fld := ⟨0x200010 + n * 0x1000, 9, 1⟩
abbrev F.PAIRCMP.STICKY.TEST_DONE (n : Nat) : Fld := ⟨0x200010 + n * 0x1000, 10, 1⟩
abbrev F.PAIRCMP.STICKY.TEST_FAIL (n : Nat) : Fld := ⟨0x200010 + n * 0x1000, 11, 1⟩
abbrev F.PAIRCMP.STICKY.TRANSIENT (n : Nat) : Fld := ⟨0x200010 + n * 0x1000, 12, 1⟩
abbrev F.PAIRCMP.CMP_CFG.IN_TOL_K (n : Nat) : Fld := ⟨0x200040 + n * 0x1000, 0, 5⟩
abbrev F.PAIRCMP.CMP_CFG.OUT_TOL_K (n : Nat) : Fld := ⟨0x200040 + n * 0x1000, 8, 5⟩
abbrev F.PAIRCMP.CMP_CFG.IND_LIMIT (n : Nat) : Fld := ⟨0x200040 + n * 0x1000, 16, 8⟩
abbrev F.PAIRCMP.MISMATCH_INFO.KIND (n : Nat) : Fld := ⟨0x200044 + n * 0x1000, 0, 4⟩
abbrev F.PAIRCMP.MISMATCH_INFO.SLOT (n : Nat) : Fld := ⟨0x200044 + n * 0x1000, 4, 4⟩
abbrev F.PAIRCMP.MISMATCH_INFO.LOOP (n : Nat) : Fld := ⟨0x200044 + n * 0x1000, 8, 9⟩
abbrev F.PAIRCMP.MISMATCH_INFO.VALID (n : Nat) : Fld := ⟨0x200044 + n * 0x1000, 17, 1⟩
abbrev F.PAIRCMP.MISMATCH_ADDR.ADDR (n : Nat) : Fld := ⟨0x200048 + n * 0x1000, 0, 20⟩
abbrev F.PAIRCMP.MISMATCH_ADDR.SPACE (n : Nat) : Fld := ⟨0x200048 + n * 0x1000, 20, 3⟩
abbrev F.PAIRCMP.SIG_STATUS.PASSES (n : Nat) : Fld := ⟨0x20005C + n * 0x1000, 0, 16⟩
abbrev F.PAIRCMP.SIG_STATUS.COMMITS (n : Nat) : Fld := ⟨0x20005C + n * 0x1000, 16, 8⟩
abbrev F.PAIRCMP.SIG_STATUS.PASS_ACTIVE (n : Nat) : Fld := ⟨0x20005C + n * 0x1000, 24, 1⟩
abbrev F.PAIRCMP.TEST_RESULT.CORE_FAIL (n : Nat) : Fld := ⟨0x200070 + n * 0x1000, 0, 2⟩
abbrev F.PAIRCMP.TEST_RESULT.CONDITIONAL (n : Nat) : Fld := ⟨0x200070 + n * 0x1000, 2, 1⟩
abbrev F.PAIRCMP.TEST_RESULT.VALID (n : Nat) : Fld := ⟨0x200070 + n * 0x1000, 3, 1⟩
abbrev F.PAIRCMP.TEST_RESULT.CAUSE (n : Nat) : Fld := ⟨0x200070 + n * 0x1000, 4, 4⟩
abbrev F.PAIRCMP.TEST_RESULT.TRANSIENTS (n : Nat) : Fld := ⟨0x200070 + n * 0x1000, 8, 8⟩
abbrev F.PAIRCMP.MIG_STATUS.DEST (n : Nat) : Fld := ⟨0x200078 + n * 0x1000, 0, 6⟩
abbrev F.PAIRCMP.MIG_STATUS.ACTIVE (n : Nat) : Fld := ⟨0x200078 + n * 0x1000, 6, 1⟩
abbrev F.PAIRCMP.MIG_STATUS.LEFT (n : Nat) : Fld := ⟨0x200078 + n * 0x1000, 7, 4⟩
abbrev F.PAIRCMP.MIG_STATUS.MIG_DEFER (n : Nat) : Fld := ⟨0x200078 + n * 0x1000, 16, 8⟩
abbrev F.PAIRCMP.MISMATCH_CNT.EXEC (n : Nat) : Fld := ⟨0x20006C + n * 0x1000, 0, 16⟩
abbrev F.PAIRCMP.MISMATCH_CNT.LATENT (n : Nat) : Fld := ⟨0x20006C + n * 0x1000, 16, 16⟩
abbrev F.PAIRCMP.CNT_CLR.IND (n : Nat) : Fld := ⟨0x20007C + n * 0x1000, 0, 1⟩
abbrev F.PAIRCMP.CNT_CLR.ADIV (n : Nat) : Fld := ⟨0x20007C + n * 0x1000, 1, 1⟩
abbrev F.PAIRCMP.CNT_CLR.STALE (n : Nat) : Fld := ⟨0x20007C + n * 0x1000, 2, 1⟩
abbrev F.PAIRCMP.CNT_CLR.MISMATCH (n : Nat) : Fld := ⟨0x20007C + n * 0x1000, 3, 1⟩
-- ISN
abbrev F.ISN.ISN_CFG.DEG_TMAX : Fld := ⟨0x280040, 0, 12⟩
abbrev F.ISN.DEG_LIM.DEG_TQ : Fld := ⟨0x28004C, 0, 16⟩
abbrev F.ISN.LIM_MBX.PL : Fld := ⟨0x280054, 16, 8⟩
abbrev F.ISN.LIM_MBX.EN : Fld := ⟨0x280054, 31, 1⟩
abbrev F.ISN.SS_CHOICE.SS_EN : Fld := ⟨0x280058, 16, 8⟩
abbrev F.ISN.SS_CHOICE.ASC_BANK : Fld := ⟨0x280058, 24, 8⟩
abbrev F.ISN.ASC_CFG.ASC_TMAX : Fld := ⟨0x28005C, 0, 16⟩
abbrev F.ISN.ASC_CFG.ASC_EXIT : Fld := ⟨0x28005C, 16, 16⟩
abbrev F.ISN.DEG_TIME.RUNNING : Fld := ⟨0x280064, 12, 1⟩
abbrev F.ISN.WD_STAT.FIRED : Fld := ⟨0x280088, 8, 1⟩
abbrev F.ISN.ENTRY_CNT.DEGRADED : Fld := ⟨0x28008C, 0, 16⟩
abbrev F.ISN.ENTRY_CNT.SAFE : Fld := ⟨0x28008C, 16, 16⟩
-- ADC
abbrev F.ADC.CTRL.EN (n : Nat) : Fld := ⟨0x300008 + n * 0x1000, 0, 1⟩
abbrev F.ADC.CTRL.AWAKE (n : Nat) : Fld := ⟨0x300008 + n * 0x1000, 8, 1⟩
abbrev F.ADC.STATUS.STATE (n : Nat) : Fld := ⟨0x30000C + n * 0x1000, 5, 3⟩
abbrev F.ADC.STATUS.CUR_ENTRY (n : Nat) : Fld := ⟨0x30000C + n * 0x1000, 8, 5⟩
abbrev F.ADC.STATUS.URG_RUN (n : Nat) : Fld := ⟨0x30000C + n * 0x1000, 13, 1⟩
abbrev F.ADC.STICKY.WR_REJ (n : Nat) : Fld := ⟨0x300010 + n * 0x1000, 0, 1⟩
abbrev F.ADC.STICKY.URG_DROP (n : Nat) : Fld := ⟨0x300010 + n * 0x1000, 1, 1⟩
abbrev F.ADC.STICKY.TRIG_EARLY (n : Nat) : Fld := ⟨0x300010 + n * 0x1000, 2, 1⟩
abbrev F.ADC.STICKY.RES_LATE (n : Nat) : Fld := ⟨0x300010 + n * 0x1000, 3, 1⟩
abbrev F.ADC.STICKY.REFUSED (n : Nat) : Fld := ⟨0x300010 + n * 0x1000, 4, 1⟩
abbrev F.ADC.STICKY.CLIP (n : Nat) : Fld := ⟨0x300010 + n * 0x1000, 5, 1⟩
abbrev F.ADC.ADM_CMD.ENTRY (n : Nat) : Fld := ⟨0x300040 + n * 0x1000, 0, 5⟩
abbrev F.ADC.ADM_CMD.OP (n : Nat) : Fld := ⟨0x300040 + n * 0x1000, 8, 2⟩
abbrev F.ADC.ADM_RESULT.DONE (n : Nat) : Fld := ⟨0x300044 + n * 0x1000, 0, 1⟩
abbrev F.ADC.ADM_RESULT.ACCEPT (n : Nat) : Fld := ⟨0x300044 + n * 0x1000, 1, 1⟩
abbrev F.ADC.ADM_RESULT.ENTRY (n : Nat) : Fld := ⟨0x300044 + n * 0x1000, 2, 5⟩
abbrev F.ADC.ADM_RESULT.REASON (n : Nat) : Fld := ⟨0x300044 + n * 0x1000, 8, 8⟩
abbrev F.ADC.ADM_RESULT.BOUND (n : Nat) : Fld := ⟨0x300044 + n * 0x1000, 16, 16⟩
abbrev F.ADC.ETRIG.TSRC (n k : Nat) : Fld := ⟨0x300200 + n * 0x1000 + k * 0x10, 0, 3⟩
abbrev F.ADC.ETRIG.TINST (n k : Nat) : Fld := ⟨0x300200 + n * 0x1000 + k * 0x10, 8, 8⟩
abbrev F.ADC.ETRIG.TEVT (n k : Nat) : Fld := ⟨0x300200 + n * 0x1000 + k * 0x10, 16, 6⟩
abbrev F.ADC.ETRIG.TDLY (n k : Nat) : Fld := ⟨0x300200 + n * 0x1000 + k * 0x10, 22, 10⟩
abbrev F.ADC.ECONV.CH (n k : Nat) : Fld := ⟨0x300204 + n * 0x1000 + k * 0x10, 0, 7⟩
abbrev F.ADC.ECONV.DIFF (n k : Nat) : Fld := ⟨0x300204 + n * 0x1000 + k * 0x10, 7, 1⟩
abbrev F.ADC.ECONV.SW (n k : Nat) : Fld := ⟨0x300204 + n * 0x1000 + k * 0x10, 8, 10⟩
abbrev F.ADC.ECONV.AVG_K (n k : Nat) : Fld := ⟨0x300204 + n * 0x1000 + k * 0x10, 18, 4⟩
abbrev F.ADC.ECONV.SHIFT (n k : Nat) : Fld := ⟨0x300204 + n * 0x1000 + k * 0x10, 22, 4⟩
abbrev F.ADC.ECONV.URGENT (n k : Nat) : Fld := ⟨0x300204 + n * 0x1000 + k * 0x10, 26, 1⟩
abbrev F.ADC.CNT_CLR.URG (n : Nat) : Fld := ⟨0x30005C + n * 0x1000, 0, 1⟩
abbrev F.ADC.CNT_CLR.EARLY (n : Nat) : Fld := ⟨0x30005C + n * 0x1000, 1, 1⟩
abbrev F.ADC.CNT_CLR.LATE (n : Nat) : Fld := ⟨0x30005C + n * 0x1000, 2, 1⟩
abbrev F.ADC.CNT_CLR.CONV (n : Nat) : Fld := ⟨0x30005C + n * 0x1000, 3, 1⟩
abbrev F.ADC.RES.VALUE (n k : Nat) : Fld := ⟨0x300100 + n * 0x1000 + k * 0x4, 0, 24⟩
abbrev F.ADC.RES.TAG (n k : Nat) : Fld := ⟨0x300100 + n * 0x1000 + k * 0x4, 24, 8⟩
-- CMPG
abbrev F.CMPG.CTRL.EN (n : Nat) : Fld := ⟨0x380008 + n * 0x1000, 0, 1⟩
abbrev F.CMPG.STATUS.STATE (n : Nat) : Fld := ⟨0x38000C + n * 0x1000, 5, 3⟩
abbrev F.CMPG.STICKY.WR_REJ (n : Nat) : Fld := ⟨0x380010 + n * 0x1000, 0, 1⟩
abbrev F.CMPG.STICKY.LATCHED (n : Nat) : Fld := ⟨0x380010 + n * 0x1000, 1, 1⟩
abbrev F.CMPG.STICKY.FIRST_MID (n : Nat) : Fld := ⟨0x380010 + n * 0x1000, 2, 1⟩
abbrev F.CMPG.STICKY.CLR_HELD (n : Nat) : Fld := ⟨0x380010 + n * 0x1000, 3, 1⟩
abbrev F.CMPG.CCFG.CEN (n k : Nat) : Fld := ⟨0x380100 + n * 0x1000 + k * 0x20, 0, 1⟩
abbrev F.CMPG.CCFG.MODE (n k : Nat) : Fld := ⟨0x380100 + n * 0x1000 + k * 0x20, 1, 2⟩
abbrev F.CMPG.CCFG.POL (n k : Nat) : Fld := ⟨0x380100 + n * 0x1000 + k * 0x20, 3, 1⟩
abbrev F.CMPG.CCFG.INSEL (n k : Nat) : Fld := ⟨0x380100 + n * 0x1000 + k * 0x20, 4, 7⟩
abbrev F.CMPG.CCFG.HYS (n k : Nat) : Fld := ⟨0x380100 + n * 0x1000 + k * 0x20, 11, 3⟩
abbrev F.CMPG.CBLANK.BLANK_LEG (n k : Nat) : Fld := ⟨0x380108 + n * 0x1000 + k * 0x20, 0, 6⟩
abbrev F.CMPG.CBLANK.BGRP (n k : Nat) : Fld := ⟨0x380108 + n * 0x1000 + k * 0x20, 6, 1⟩
abbrev F.CMPG.CBLANK.BLANK_T (n k : Nat) : Fld := ⟨0x380108 + n * 0x1000 + k * 0x20, 16, 10⟩
abbrev F.CMPG.CTRIP.LINE (n k : Nat) : Fld := ⟨0x38010C + n * 0x1000 + k * 0x20, 0, 5⟩
abbrev F.CMPG.CTRIP.LINE_EN (n k : Nat) : Fld := ⟨0x38010C + n * 0x1000 + k * 0x20, 5, 1⟩
abbrev F.CMPG.CTRIP.AUTO_CLR (n k : Nat) : Fld := ⟨0x38010C + n * 0x1000 + k * 0x20, 6, 1⟩
abbrev F.CMPG.CTRIP.CLR_LEG (n k : Nat) : Fld := ⟨0x38010C + n * 0x1000 + k * 0x20, 8, 6⟩
abbrev F.CMPG.CSTAT.LIVE (n k : Nat) : Fld := ⟨0x380110 + n * 0x1000 + k * 0x20, 0, 1⟩
abbrev F.CMPG.CSTAT.LATCH (n k : Nat) : Fld := ⟨0x380110 + n * 0x1000 + k * 0x20, 1, 1⟩
abbrev F.CMPG.CSTAT.BLANKED (n k : Nat) : Fld := ⟨0x380110 + n * 0x1000 + k * 0x20, 2, 1⟩
abbrev F.CMPG.CSTAT.SETTLING (n k : Nat) : Fld := ⟨0x380110 + n * 0x1000 + k * 0x20, 3, 1⟩
abbrev F.CMPG.CSTAT.HYS_ON (n k : Nat) : Fld := ⟨0x380110 + n * 0x1000 + k * 0x20, 4, 1⟩
abbrev F.CMPG.CSTAT.IN_BAND (n k : Nat) : Fld := ⟨0x380110 + n * 0x1000 + k * 0x20, 5, 1⟩
abbrev F.CMPG.CMP_STAT.LATCHED (n : Nat) : Fld := ⟨0x380040 + n * 0x1000, 0, 8⟩
abbrev F.CMPG.CMP_STAT.LIVE (n : Nat) : Fld := ⟨0x380040 + n * 0x1000, 8, 8⟩
abbrev F.CMPG.CMP_STAT.BLANKED (n : Nat) : Fld := ⟨0x380040 + n * 0x1000, 16, 8⟩
abbrev F.CMPG.CMP_STAT.SETTLING (n : Nat) : Fld := ⟨0x380040 + n * 0x1000, 24, 8⟩
-- DAC
abbrev F.DAC.DCFG.SRC (k : Nat) : Fld := ⟨0x400040 + k * 0x10, 0, 2⟩
abbrev F.DAC.DCFG.PIN_EN (k : Nat) : Fld := ⟨0x400040 + k * 0x10, 2, 1⟩
abbrev F.DAC.DFREQ.FREQ (k : Nat) : Fld := ⟨0x400048 + k * 0x10, 0, 16⟩
abbrev F.DAC.DFREQ.PHASE (k : Nat) : Fld := ⟨0x400048 + k * 0x10, 16, 16⟩
abbrev F.DAC.DSINE.AMP (k : Nat) : Fld := ⟨0x40004C + k * 0x10, 0, 12⟩
abbrev F.DAC.DSINE.OFFSET (k : Nat) : Fld := ⟨0x40004C + k * 0x10, 16, 12⟩
-- PFU
abbrev F.PFU.CTRL.EN (n : Nat) : Fld := ⟨0x480008 + n * 0x1000, 0, 1⟩
abbrev F.PFU.CTRL.CAPTURE (n : Nat) : Fld := ⟨0x480008 + n * 0x1000, 8, 1⟩
abbrev F.PFU.CTRL.REPORT_ISN (n : Nat) : Fld := ⟨0x480008 + n * 0x1000, 9, 1⟩
abbrev F.PFU.CTRL.ZERO (n : Nat) : Fld := ⟨0x480008 + n * 0x1000, 10, 1⟩
abbrev F.PFU.STATUS.STATE (n : Nat) : Fld := ⟨0x48000C + n * 0x1000, 5, 3⟩
abbrev F.PFU.STICKY.WR_REJ (n : Nat) : Fld := ⟨0x480010 + n * 0x1000, 0, 1⟩
abbrev F.PFU.STICKY.QERR (n : Nat) : Fld := ⟨0x480010 + n * 0x1000, 1, 1⟩
abbrev F.PFU.STICKY.HALL_ERR (n : Nat) : Fld := ⟨0x480010 + n * 0x1000, 2, 1⟩
abbrev F.PFU.STICKY.ENC_NORESP (n : Nat) : Fld := ⟨0x480010 + n * 0x1000, 3, 1⟩
abbrev F.PFU.STICKY.ENC_CRC (n : Nat) : Fld := ⟨0x480010 + n * 0x1000, 4, 1⟩
abbrev F.PFU.STICKY.ENC_ERRBIT (n : Nat) : Fld := ⟨0x480010 + n * 0x1000, 5, 1⟩
abbrev F.PFU.STICKY.ENC_WARN (n : Nat) : Fld := ⟨0x480010 + n * 0x1000, 6, 1⟩
abbrev F.PFU.STICKY.ENC_FAULT (n : Nat) : Fld := ⟨0x480010 + n * 0x1000, 7, 1⟩
abbrev F.PFU.STICKY.RSLV_MAG (n : Nat) : Fld := ⟨0x480010 + n * 0x1000, 8, 1⟩
abbrev F.PFU.STICKY.RSLV_TIMING (n : Nat) : Fld := ⟨0x480010 + n * 0x1000, 9, 1⟩
abbrev F.PFU.STICKY.INNOV_HI (n : Nat) : Fld := ⟨0x480010 + n * 0x1000, 10, 1⟩
abbrev F.PFU.STICKY.CMP_FIRED (n : Nat) : Fld := ⟨0x480010 + n * 0x1000, 11, 1⟩
abbrev F.PFU.STICKY.CAPTURED (n : Nat) : Fld := ⟨0x480010 + n * 0x1000, 12, 1⟩
abbrev F.PFU.STICKY.CABLE_CHG (n : Nat) : Fld := ⟨0x480010 + n * 0x1000, 13, 1⟩
abbrev F.PFU.STICKY.FRAME_EARLY (n : Nat) : Fld := ⟨0x480010 + n * 0x1000, 14, 1⟩
abbrev F.PFU.PFCFG.INTYPE (n : Nat) : Fld := ⟨0x480040 + n * 0x1000, 0, 3⟩
abbrev F.PFU.PFCFG.CNTMODE (n : Nat) : Fld := ⟨0x480040 + n * 0x1000, 3, 1⟩
abbrev F.PFU.PFCFG.ZACT (n : Nat) : Fld := ⟨0x480040 + n * 0x1000, 4, 2⟩
abbrev F.PFU.PFCFG.ZOUT (n : Nat) : Fld := ⟨0x480040 + n * 0x1000, 6, 1⟩
abbrev F.PFU.PFCFG.DIRINV (n : Nat) : Fld := ⟨0x480040 + n * 0x1000, 7, 1⟩
abbrev F.PFU.PFCFG.FILT (n : Nat) : Fld := ⟨0x480040 + n * 0x1000, 8, 4⟩
abbrev F.PFU.PFCFG.PP (n : Nat) : Fld := ⟨0x480040 + n * 0x1000, 16, 6⟩
abbrev F.PFU.CAPT_CFG.PGCAP (n : Nat) : Fld := ⟨0x480074 + n * 0x1000, 0, 1⟩
abbrev F.PFU.CAPT_CFG.CAP_LEG (n : Nat) : Fld := ⟨0x480074 + n * 0x1000, 1, 6⟩
abbrev F.PFU.CAPT_CFG.HALF (n : Nat) : Fld := ⟨0x480074 + n * 0x1000, 7, 1⟩
abbrev F.PFU.PFU_STAT.TRACKING (n : Nat) : Fld := ⟨0x480078 + n * 0x1000, 0, 1⟩
abbrev F.PFU.PFU_STAT.INNOV_HI (n : Nat) : Fld := ⟨0x480078 + n * 0x1000, 1, 1⟩
abbrev F.PFU.PFU_STAT.FAULT (n : Nat) : Fld := ⟨0x480078 + n * 0x1000, 2, 1⟩
abbrev F.PFU.PFU_STAT.DIR (n : Nat) : Fld := ⟨0x480078 + n * 0x1000, 3, 1⟩
abbrev F.PFU.PFU_STAT.ZSEEN (n : Nat) : Fld := ⟨0x480078 + n * 0x1000, 4, 1⟩
abbrev F.PFU.PFU_STAT.PREDICTED (n : Nat) : Fld := ⟨0x480078 + n * 0x1000, 5, 1⟩
abbrev F.PFU.ENC_CFG.CLK_HP (n : Nat) : Fld := ⟨0x4800A0 + n * 0x1000, 0, 10⟩
abbrev F.PFU.ENC_CFG.FLEN (n : Nat) : Fld := ⟨0x4800A0 + n * 0x1000, 10, 6⟩
abbrev F.PFU.ENC_CFG.GRAY (n : Nat) : Fld := ⟨0x4800A0 + n * 0x1000, 16, 1⟩
abbrev F.PFU.ENC_CFG.CRC_POLY (n : Nat) : Fld := ⟨0x4800A0 + n * 0x1000, 17, 6⟩
abbrev F.PFU.ENC_FIELD.POS_LSB (n : Nat) : Fld := ⟨0x4800A4 + n * 0x1000, 0, 6⟩
abbrev F.PFU.ENC_FIELD.STB (n : Nat) : Fld := ⟨0x4800A4 + n * 0x1000, 6, 6⟩
abbrev F.PFU.ENC_FIELD.MTB (n : Nat) : Fld := ⟨0x4800A4 + n * 0x1000, 12, 5⟩
abbrev F.PFU.ENC_FIELD.ERR_POS (n : Nat) : Fld := ⟨0x4800A4 + n * 0x1000, 17, 6⟩
abbrev F.PFU.ENC_FIELD.ERR_EN (n : Nat) : Fld := ⟨0x4800A4 + n * 0x1000, 23, 1⟩
abbrev F.PFU.ENC_FIELD.WARN_POS (n : Nat) : Fld := ⟨0x4800A4 + n * 0x1000, 24, 6⟩
abbrev F.PFU.ENC_FIELD.WARN_EN (n : Nat) : Fld := ⟨0x4800A4 + n * 0x1000, 30, 1⟩
abbrev F.PFU.ENC_TIME.TM (n : Nat) : Fld := ⟨0x4800A8 + n * 0x1000, 0, 8⟩
abbrev F.PFU.ENC_TIME.SSI_DLY (n : Nat) : Fld := ⟨0x4800A8 + n * 0x1000, 8, 8⟩
abbrev F.PFU.ENC_TIME.MISS_N (n : Nat) : Fld := ⟨0x4800A8 + n * 0x1000, 16, 8⟩
abbrev F.PFU.ENC_TIME.LAT_DLY (n : Nat) : Fld := ⟨0x4800A8 + n * 0x1000, 24, 8⟩
abbrev F.PFU.RSLV_CFG.DAC (n : Nat) : Fld := ⟨0x4800C0 + n * 0x1000, 0, 3⟩
abbrev F.PFU.RSLV_CFG.ADC_S (n : Nat) : Fld := ⟨0x4800C0 + n * 0x1000, 3, 5⟩
abbrev F.PFU.RSLV_CFG.ENT_S (n : Nat) : Fld := ⟨0x4800C0 + n * 0x1000, 8, 5⟩
abbrev F.PFU.RSLV_CFG.ADC_C (n : Nat) : Fld := ⟨0x4800C0 + n * 0x1000, 13, 5⟩
abbrev F.PFU.RSLV_CFG.ENT_C (n : Nat) : Fld := ⟨0x4800C0 + n * 0x1000, 18, 5⟩
abbrev F.PFU.CMPL_CFG.SEQ (n : Nat) : Fld := ⟨0x480100 + n * 0x1000, 0, 1⟩
abbrev F.PFU.CMPL_CFG.LENM1 (n : Nat) : Fld := ⟨0x480100 + n * 0x1000, 1, 6⟩
abbrev F.PFU.CMPL_CFG.STOP (n : Nat) : Fld := ⟨0x480100 + n * 0x1000, 7, 1⟩
abbrev F.PFU.CMPL_CFG.PW (n : Nat) : Fld := ⟨0x480100 + n * 0x1000, 8, 8⟩
abbrev F.PFU.CMPL_CFG.PIN_POL (n : Nat) : Fld := ⟨0x480100 + n * 0x1000, 16, 1⟩
abbrev F.PFU.CMPE_CFG.EN (n k : Nat) : Fld := ⟨0x480404 + n * 0x1000 + k * 0x8, 0, 1⟩
abbrev F.PFU.CMPE_CFG.DIR (n k : Nat) : Fld := ⟨0x480404 + n * 0x1000 + k * 0x8, 1, 2⟩
abbrev F.PFU.CMPE_CFG.PIN (n k : Nat) : Fld := ⟨0x480404 + n * 0x1000 + k * 0x8, 3, 1⟩
abbrev F.PFU.CMPE_CFG.PG_EN (n k : Nat) : Fld := ⟨0x480404 + n * 0x1000 + k * 0x8, 4, 1⟩
abbrev F.PFU.CMPE_CFG.PG_LEG (n k : Nat) : Fld := ⟨0x480404 + n * 0x1000 + k * 0x8, 5, 6⟩
abbrev F.PFU.CMPE_CFG.HYST (n k : Nat) : Fld := ⟨0x480404 + n * 0x1000 + k * 0x8, 16, 8⟩
abbrev F.PFU.ENC_ERR_CNT.CRC (n : Nat) : Fld := ⟨0x4800BC + n * 0x1000, 0, 16⟩
abbrev F.PFU.ENC_ERR_CNT.NORESP (n : Nat) : Fld := ⟨0x4800BC + n * 0x1000, 16, 16⟩
abbrev F.PFU.RSLV_MAG.MAG_LO (n : Nat) : Fld := ⟨0x4800C8 + n * 0x1000, 0, 16⟩
abbrev F.PFU.RSLV_MAG.MAG_HI (n : Nat) : Fld := ⟨0x4800C8 + n * 0x1000, 16, 16⟩
abbrev F.PFU.CABLE_CFG.VP (n : Nat) : Fld := ⟨0x4800D0 + n * 0x1000, 0, 16⟩
abbrev F.PFU.CABLE_CFG.RESP (n : Nat) : Fld := ⟨0x4800D0 + n * 0x1000, 16, 16⟩
abbrev F.PFU.CABLE.LEN_CM (n : Nat) : Fld := ⟨0x4800D4 + n * 0x1000, 0, 16⟩
abbrev F.PFU.CABLE.VALID (n : Nat) : Fld := ⟨0x4800D4 + n * 0x1000, 16, 1⟩
abbrev F.PFU.CABLE.NA (n : Nat) : Fld := ⟨0x4800D4 + n * 0x1000, 17, 1⟩
abbrev F.PFU.CABLE_REF.REF_CM (n : Nat) : Fld := ⟨0x4800D8 + n * 0x1000, 0, 16⟩
abbrev F.PFU.CABLE_REF.TOL_CM (n : Nat) : Fld := ⟨0x4800D8 + n * 0x1000, 16, 16⟩
abbrev F.PFU.CNT_CLR.QERR (n : Nat) : Fld := ⟨0x4800E4 + n * 0x1000, 0, 1⟩
abbrev F.PFU.CNT_CLR.ENC_ERR (n : Nat) : Fld := ⟨0x4800E4 + n * 0x1000, 1, 1⟩
abbrev F.PFU.CNT_CLR.FIRE (n : Nat) : Fld := ⟨0x4800E4 + n * 0x1000, 2, 1⟩
abbrev F.PFU.CMPL_STAT.PTR (n : Nat) : Fld := ⟨0x480104 + n * 0x1000, 0, 6⟩
abbrev F.PFU.CMPL_STAT.DONE (n : Nat) : Fld := ⟨0x480104 + n * 0x1000, 6, 1⟩
-- PG
abbrev F.PG.CTRL.EN (n : Nat) : Fld := ⟨0x500008 + n * 0x1000, 0, 1⟩
abbrev F.PG.CTRL.TRIP_CLR (n : Nat) : Fld := ⟨0x500008 + n * 0x1000, 8, 1⟩
abbrev F.PG.STATUS.STATE (n : Nat) : Fld := ⟨0x50000C + n * 0x1000, 5, 3⟩
abbrev F.PG.STATUS.HS (n : Nat) : Fld := ⟨0x50000C + n * 0x1000, 8, 1⟩
abbrev F.PG.STATUS.LS (n : Nat) : Fld := ⟨0x50000C + n * 0x1000, 9, 1⟩
abbrev F.PG.STICKY.WR_REJ (n : Nat) : Fld := ⟨0x500010 + n * 0x1000, 0, 1⟩
abbrev F.PG.STICKY.INTERLOCK (n : Nat) : Fld := ⟨0x500010 + n * 0x1000, 1, 1⟩
abbrev F.PG.STICKY.TRIPPED (n : Nat) : Fld := ⟨0x500010 + n * 0x1000, 2, 1⟩
abbrev F.PG.STICKY.MINPW_DROP (n : Nat) : Fld := ⟨0x500010 + n * 0x1000, 3, 1⟩
abbrev F.PG.STICKY.CLE_IGN (n : Nat) : Fld := ⟨0x500010 + n * 0x1000, 4, 1⟩
abbrev F.PG.STICKY.GATE_FAULT (n : Nat) : Fld := ⟨0x500010 + n * 0x1000, 5, 1⟩
abbrev F.PG.STICKY.UV_HOLD (n : Nat) : Fld := ⟨0x500010 + n * 0x1000, 6, 1⟩
abbrev F.PG.STICKY.CLAMP (n : Nat) : Fld := ⟨0x500010 + n * 0x1000, 7, 1⟩
abbrev F.PG.PGCFG.CNTMODE (n : Nat) : Fld := ⟨0x500040 + n * 0x1000, 0, 2⟩
abbrev F.PG.PGCFG.OMODE (n : Nat) : Fld := ⟨0x500040 + n * 0x1000, 2, 2⟩
abbrev F.PG.PGCFG.GROUP (n : Nat) : Fld := ⟨0x500040 + n * 0x1000, 4, 3⟩
abbrev F.PG.PGCFG.GRP_EN (n : Nat) : Fld := ⟨0x500040 + n * 0x1000, 7, 1⟩
abbrev F.PG.PGCFG.GANG (n : Nat) : Fld := ⟨0x500040 + n * 0x1000, 8, 1⟩
abbrev F.PG.PGCFG.UPD (n : Nat) : Fld := ⟨0x500040 + n * 0x1000, 9, 2⟩
abbrev F.PG.PGCFG.SYNC (n : Nat) : Fld := ⟨0x500040 + n * 0x1000, 11, 2⟩
abbrev F.PG.PG_STAT.HS_CMD (n : Nat) : Fld := ⟨0x500060 + n * 0x1000, 0, 1⟩
abbrev F.PG.PG_STAT.LS_CMD (n : Nat) : Fld := ⟨0x500060 + n * 0x1000, 1, 1⟩
abbrev F.PG.PG_STAT.STATE (n : Nat) : Fld := ⟨0x500060 + n * 0x1000, 2, 3⟩
abbrev F.PG.PG_STAT.HALF (n : Nat) : Fld := ⟨0x500060 + n * 0x1000, 5, 1⟩
abbrev F.PG.PG_STAT.TAG (n : Nat) : Fld := ⟨0x500060 + n * 0x1000, 24, 8⟩
abbrev F.PG.SRC.DSRC (n : Nat) : Fld := ⟨0x50005C + n * 0x1000, 0, 1⟩
abbrev F.PG.CNT_CLR.INTLK (n : Nat) : Fld := ⟨0x500084 + n * 0x1000, 0, 1⟩
abbrev F.PG.CNT_CLR.TRIP (n : Nat) : Fld := ⟨0x500084 + n * 0x1000, 1, 1⟩
abbrev F.PG.CNT_CLR.MINPW (n : Nat) : Fld := ⟨0x500084 + n * 0x1000, 2, 1⟩
-- GLNK
abbrev F.GLNK.CTRL.EN (n : Nat) : Fld := ⟨0x580008 + n * 0x1000, 0, 1⟩
abbrev F.GLNK.STATUS.STATE (n : Nat) : Fld := ⟨0x58000C + n * 0x1000, 5, 3⟩
abbrev F.GLNK.STICKY.WR_REJ (n : Nat) : Fld := ⟨0x580010 + n * 0x1000, 0, 1⟩
abbrev F.GLNK.STICKY.DESAT (n : Nat) : Fld := ⟨0x580010 + n * 0x1000, 1, 1⟩
abbrev F.GLNK.STICKY.LINK_LOST (n : Nat) : Fld := ⟨0x580010 + n * 0x1000, 2, 1⟩
abbrev F.GLNK.STICKY.GATE_FAULT (n : Nat) : Fld := ⟨0x580010 + n * 0x1000, 3, 1⟩
abbrev F.GLNK.STICKY.CRC_ERR (n : Nat) : Fld := ⟨0x580010 + n * 0x1000, 4, 1⟩
abbrev F.GLNK.STICKY.LOOP_FAIL (n : Nat) : Fld := ⟨0x580010 + n * 0x1000, 5, 1⟩
abbrev F.GLNK.STICKY.DRV_FAULT (n : Nat) : Fld := ⟨0x580010 + n * 0x1000, 6, 1⟩
abbrev F.GLNK.STICKY.CMD_DONE (n : Nat) : Fld := ⟨0x580010 + n * 0x1000, 7, 1⟩
abbrev F.GLNK.LCFG.LEN (n k : Nat) : Fld := ⟨0x580100 + n * 0x1000 + k * 0x40, 0, 1⟩
abbrev F.GLNK.LCFG.DESAT_EN (n k : Nat) : Fld := ⟨0x580100 + n * 0x1000 + k * 0x40, 1, 1⟩
abbrev F.GLNK.LCFG.DESAT_LINE (n k : Nat) : Fld := ⟨0x580100 + n * 0x1000 + k * 0x40, 2, 5⟩
abbrev F.GLNK.LCFG.LOST_EN (n k : Nat) : Fld := ⟨0x580100 + n * 0x1000 + k * 0x40, 7, 1⟩
abbrev F.GLNK.LCFG.LOST_LINE (n k : Nat) : Fld := ⟨0x580100 + n * 0x1000 + k * 0x40, 8, 5⟩
abbrev F.GLNK.LCFG.GFLT_EN (n k : Nat) : Fld := ⟨0x580100 + n * 0x1000 + k * 0x40, 13, 1⟩
abbrev F.GLNK.LCFG.GFLT_LINE (n k : Nat) : Fld := ⟨0x580100 + n * 0x1000 + k * 0x40, 14, 5⟩
abbrev F.GLNK.LCFG.GCHK_EN (n k : Nat) : Fld := ⟨0x580100 + n * 0x1000 + k * 0x40, 19, 1⟩
abbrev F.GLNK.DRV_CFG.DESAT_TH (n k : Nat) : Fld := ⟨0x580104 + n * 0x1000 + k * 0x40, 0, 8⟩
abbrev F.GLNK.DRV_CFG.DESAT_BLANK (n k : Nat) : Fld := ⟨0x580104 + n * 0x1000 + k * 0x40, 8, 8⟩
abbrev F.GLNK.DRV_CFG.ISRC (n k : Nat) : Fld := ⟨0x580104 + n * 0x1000 + k * 0x40, 16, 4⟩
abbrev F.GLNK.DRV_CFG.ISINK (n k : Nat) : Fld := ⟨0x580104 + n * 0x1000 + k * 0x40, 20, 4⟩
abbrev F.GLNK.DRV_CFG.ISINK_SOFT (n k : Nat) : Fld := ⟨0x580104 + n * 0x1000 + k * 0x40, 24, 4⟩
abbrev F.GLNK.LSTAT.STATE (n k : Nat) : Fld := ⟨0x580114 + n * 0x1000 + k * 0x40, 0, 3⟩
abbrev F.GLNK.LSTAT.CMD_ON (n k : Nat) : Fld := ⟨0x580114 + n * 0x1000 + k * 0x40, 3, 1⟩
abbrev F.GLNK.LSTAT.DRV_FAULT (n k : Nat) : Fld := ⟨0x580114 + n * 0x1000 + k * 0x40, 4, 1⟩
abbrev F.GLNK.LSTAT.SOFT_LAST (n k : Nat) : Fld := ⟨0x580114 + n * 0x1000 + k * 0x40, 5, 1⟩
abbrev F.GLNK.TMO.TELE_TMO (n k : Nat) : Fld := ⟨0x58010C + n * 0x1000 + k * 0x40, 0, 16⟩
abbrev F.GLNK.TMO.TELE_PER (n k : Nat) : Fld := ⟨0x58010C + n * 0x1000 + k * 0x40, 16, 10⟩
abbrev F.GLNK.VGS_LIM.VGS_ON_MIN (n k : Nat) : Fld := ⟨0x580110 + n * 0x1000 + k * 0x40, 0, 16⟩
abbrev F.GLNK.VGS_LIM.VGS_OFF_MAX (n k : Nat) : Fld := ⟨0x580110 + n * 0x1000 + k * 0x40, 16, 16⟩
abbrev F.GLNK.VGS.CHECK_OK (n k : Nat) : Fld := ⟨0x580118 + n * 0x1000 + k * 0x40, 16, 1⟩
abbrev F.GLNK.VGS.TAG (n k : Nat) : Fld := ⟨0x580118 + n * 0x1000 + k * 0x40, 24, 8⟩
abbrev F.GLNK.CMD_TX.DATA (n k : Nat) : Fld := ⟨0x580124 + n * 0x1000 + k * 0x40, 0, 16⟩
abbrev F.GLNK.CMD_TX.REG (n k : Nat) : Fld := ⟨0x580124 + n * 0x1000 + k * 0x40, 16, 8⟩
abbrev F.GLNK.CMD_TX.TYPE (n k : Nat) : Fld := ⟨0x580124 + n * 0x1000 + k * 0x40, 24, 4⟩
abbrev F.GLNK.CMD_STAT.BUSY (n k : Nat) : Fld := ⟨0x580128 + n * 0x1000 + k * 0x40, 0, 1⟩
abbrev F.GLNK.CMD_STAT.DONE (n k : Nat) : Fld := ⟨0x580128 + n * 0x1000 + k * 0x40, 1, 1⟩
abbrev F.GLNK.CMD_STAT.TIMEOUT (n k : Nat) : Fld := ⟨0x580128 + n * 0x1000 + k * 0x40, 2, 1⟩
abbrev F.GLNK.CMD_STAT.REFUSED (n k : Nat) : Fld := ⟨0x580128 + n * 0x1000 + k * 0x40, 3, 1⟩
abbrev F.GLNK.CMD_STAT.REASON (n k : Nat) : Fld := ⟨0x580128 + n * 0x1000 + k * 0x40, 8, 8⟩
abbrev F.GLNK.RX_DATA.DATA (n k : Nat) : Fld := ⟨0x58012C + n * 0x1000 + k * 0x40, 0, 16⟩
abbrev F.GLNK.RX_DATA.REG (n k : Nat) : Fld := ⟨0x58012C + n * 0x1000 + k * 0x40, 16, 8⟩
abbrev F.GLNK.RX_DATA.TYPE (n k : Nat) : Fld := ⟨0x58012C + n * 0x1000 + k * 0x40, 24, 4⟩
abbrev F.GLNK.ERR_CNT.CRC (n k : Nat) : Fld := ⟨0x580134 + n * 0x1000 + k * 0x40, 0, 16⟩
abbrev F.GLNK.EVT_CNT.DESAT (n k : Nat) : Fld := ⟨0x580138 + n * 0x1000 + k * 0x40, 0, 8⟩
abbrev F.GLNK.EVT_CNT.LOST (n k : Nat) : Fld := ⟨0x580138 + n * 0x1000 + k * 0x40, 8, 8⟩
abbrev F.GLNK.EVT_CNT.GATE_FAULT (n k : Nat) : Fld := ⟨0x580138 + n * 0x1000 + k * 0x40, 16, 8⟩
abbrev F.GLNK.DESAT_INFO.DATA (n k : Nat) : Fld := ⟨0x58013C + n * 0x1000 + k * 0x40, 0, 16⟩
abbrev F.GLNK.DESAT_INFO.REG (n k : Nat) : Fld := ⟨0x58013C + n * 0x1000 + k * 0x40, 16, 8⟩
-- LVDRV
abbrev F.LVDRV.CTRL.EN (n : Nat) : Fld := ⟨0x600008 + n * 0x1000, 0, 1⟩
abbrev F.LVDRV.STATUS.STATE (n : Nat) : Fld := ⟨0x60000C + n * 0x1000, 5, 3⟩
abbrev F.LVDRV.STICKY.WR_REJ (n : Nat) : Fld := ⟨0x600010 + n * 0x1000, 0, 1⟩
abbrev F.LVDRV.STICKY.BST_UV (n : Nat) : Fld := ⟨0x600010 + n * 0x1000, 1, 1⟩
abbrev F.LVDRV.STICKY.VG_UV (n : Nat) : Fld := ⟨0x600010 + n * 0x1000, 2, 1⟩
abbrev F.LVDRV.STICKY.GATE_FAULT (n : Nat) : Fld := ⟨0x600010 + n * 0x1000, 3, 1⟩
abbrev F.LVDRV.STICKY.QG_RANGE (n : Nat) : Fld := ⟨0x600010 + n * 0x1000, 4, 1⟩
abbrev F.LVDRV.DCFG.ISRC_HS (n : Nat) : Fld := ⟨0x600040 + n * 0x1000, 0, 4⟩
abbrev F.LVDRV.DCFG.ISINK_HS (n : Nat) : Fld := ⟨0x600040 + n * 0x1000, 4, 4⟩
abbrev F.LVDRV.DCFG.ISRC_LS (n : Nat) : Fld := ⟨0x600040 + n * 0x1000, 8, 4⟩
abbrev F.LVDRV.DCFG.ISINK_LS (n : Nat) : Fld := ⟨0x600040 + n * 0x1000, 12, 4⟩
abbrev F.LVDRV.DCFG.SOFT_SINK (n : Nat) : Fld := ⟨0x600040 + n * 0x1000, 16, 4⟩
abbrev F.LVDRV.DCFG.UVTH (n : Nat) : Fld := ⟨0x600040 + n * 0x1000, 20, 2⟩
abbrev F.LVDRV.DCFG.TRICKLE_EN (n : Nat) : Fld := ⟨0x600040 + n * 0x1000, 22, 1⟩
abbrev F.LVDRV.DCFG.QG_EN (n : Nat) : Fld := ⟨0x600040 + n * 0x1000, 23, 1⟩
abbrev F.LVDRV.DCFG.QG_K (n : Nat) : Fld := ⟨0x600040 + n * 0x1000, 24, 4⟩
abbrev F.LVDRV.UV_CFG.BST_TRIP_EN (n : Nat) : Fld := ⟨0x600044 + n * 0x1000, 0, 1⟩
abbrev F.LVDRV.UV_CFG.BST_LINE (n : Nat) : Fld := ⟨0x600044 + n * 0x1000, 1, 5⟩
abbrev F.LVDRV.UV_CFG.VG_TRIP_EN (n : Nat) : Fld := ⟨0x600044 + n * 0x1000, 6, 1⟩
abbrev F.LVDRV.UV_CFG.VG_LINE (n : Nat) : Fld := ⟨0x600044 + n * 0x1000, 7, 5⟩
abbrev F.LVDRV.DSTAT.HG_SENSED (n : Nat) : Fld := ⟨0x60004C + n * 0x1000, 0, 1⟩
abbrev F.LVDRV.DSTAT.LG_SENSED (n : Nat) : Fld := ⟨0x60004C + n * 0x1000, 1, 1⟩
abbrev F.LVDRV.DSTAT.BST_UV (n : Nat) : Fld := ⟨0x60004C + n * 0x1000, 2, 1⟩
abbrev F.LVDRV.DSTAT.VG_UV (n : Nat) : Fld := ⟨0x60004C + n * 0x1000, 3, 1⟩
abbrev F.LVDRV.DSTAT.TRICKLE_ON (n : Nat) : Fld := ⟨0x60004C + n * 0x1000, 4, 1⟩
abbrev F.LVDRV.SUPPLY.VBST (n : Nat) : Fld := ⟨0x600048 + n * 0x1000, 0, 16⟩
abbrev F.LVDRV.SUPPLY.VG (n : Nat) : Fld := ⟨0x600048 + n * 0x1000, 16, 16⟩
abbrev F.LVDRV.QG.QG_HS (n : Nat) : Fld := ⟨0x600050 + n * 0x1000, 0, 16⟩
abbrev F.LVDRV.QG.QG_LS (n : Nat) : Fld := ⟨0x600050 + n * 0x1000, 16, 16⟩
abbrev F.LVDRV.QG_LIM.QG_MIN (n : Nat) : Fld := ⟨0x600054 + n * 0x1000, 0, 16⟩
abbrev F.LVDRV.QG_LIM.QG_MAX (n : Nat) : Fld := ⟨0x600054 + n * 0x1000, 16, 16⟩
abbrev F.LVDRV.GSENSE.GSENSE_T (n : Nat) : Fld := ⟨0x600058 + n * 0x1000, 0, 8⟩
abbrev F.LVDRV.GSENSE.GCHK_EN (n : Nat) : Fld := ⟨0x600058 + n * 0x1000, 8, 1⟩
abbrev F.LVDRV.UV_CNT.VG (n : Nat) : Fld := ⟨0x60005C + n * 0x1000, 16, 16⟩
abbrev F.LVDRV.FLT_CNT.GATE_FAULT (n : Nat) : Fld := ⟨0x600060 + n * 0x1000, 0, 16⟩
abbrev F.LVDRV.FLT_CNT.QG_RANGE (n : Nat) : Fld := ⟨0x600060 + n * 0x1000, 16, 16⟩
abbrev F.LVDRV.CNT_CLR.UV (n : Nat) : Fld := ⟨0x600064 + n * 0x1000, 0, 1⟩
abbrev F.LVDRV.CNT_CLR.FLT (n : Nat) : Fld := ⟨0x600064 + n * 0x1000, 1, 1⟩
-- TRIP
abbrev F.TRIP.CTRL.EN : Fld := ⟨0x680008, 0, 1⟩
abbrev F.TRIP.STATUS.STATE : Fld := ⟨0x68000C, 5, 3⟩
abbrev F.TRIP.STICKY.WR_REJ : Fld := ⟨0x680010, 0, 1⟩
abbrev F.TRIP.STICKY.LINE_ACT : Fld := ⟨0x680010, 1, 1⟩
abbrev F.TRIP.STICKY.SC_SINGLE : Fld := ⟨0x680010, 2, 1⟩
abbrev F.TRIP.STICKY.SC_DOUBLE : Fld := ⟨0x680010, 3, 1⟩
abbrev F.TRIP.STICKY.SCP_BROKEN : Fld := ⟨0x680010, 4, 1⟩
abbrev F.TRIP.STICKY.ASC_APPLIED : Fld := ⟨0x680010, 5, 1⟩
abbrev F.TRIP.SC_EVENT.KIND : Fld := ⟨0x68004C, 0, 2⟩
abbrev F.TRIP.SC_EVENT.ASC : Fld := ⟨0x68004C, 2, 1⟩
abbrev F.TRIP.SC_EVENT.BANK : Fld := ⟨0x68004C, 3, 1⟩
abbrev F.TRIP.SC_EVENT.GROUP : Fld := ⟨0x68004C, 4, 3⟩
abbrev F.TRIP.SC_EVENT.LEG_A : Fld := ⟨0x68004C, 8, 6⟩
abbrev F.TRIP.SC_EVENT.LEG_B : Fld := ⟨0x68004C, 16, 6⟩
abbrev F.TRIP.SC_EVENT.RESP_DONE : Fld := ⟨0x68004C, 22, 1⟩
abbrev F.TRIP.GRP_SC.PFU (k : Nat) : Fld := ⟨0x680080 + k * 0x4, 0, 3⟩
abbrev F.TRIP.GRP_SC.PFU_EN (k : Nat) : Fld := ⟨0x680080 + k * 0x4, 3, 1⟩
abbrev F.TRIP.GRP_SC.DEF_BANK (k : Nat) : Fld := ⟨0x680080 + k * 0x4, 4, 1⟩
abbrev F.TRIP.GRP_SC.SOFT_HOLD (k : Nat) : Fld := ⟨0x680080 + k * 0x4, 8, 8⟩
abbrev F.TRIP.GRP_SC.UCG_SPEED (k : Nat) : Fld := ⟨0x680080 + k * 0x4, 16, 16⟩
abbrev F.TRIP.SCP.P_CMP (k : Nat) : Fld := ⟨0x680300 + k * 0x4, 0, 7⟩
abbrev F.TRIP.SCP.H_CMP (k : Nat) : Fld := ⟨0x680300 + k * 0x4, 7, 7⟩
abbrev F.TRIP.SCP.LEG (k : Nat) : Fld := ⟨0x680300 + k * 0x4, 14, 6⟩
abbrev F.TRIP.SCP.ZERO (k : Nat) : Fld := ⟨0x680300 + k * 0x4, 20, 10⟩
abbrev F.TRIP.SCP.EN (k : Nat) : Fld := ⟨0x680300 + k * 0x4, 31, 1⟩
abbrev F.TRIP.SC_CNT.SINGLE : Fld := ⟨0x680058, 0, 16⟩
abbrev F.TRIP.SC_CNT.SHOOT_THROUGH : Fld := ⟨0x680058, 16, 8⟩
abbrev F.TRIP.SC_CNT.PHASE_TO_PHASE : Fld := ⟨0x680058, 24, 8⟩
abbrev F.TRIP.LCFG.SOFT (k : Nat) : Fld := ⟨0x68010C + k * 0x10, 0, 1⟩
abbrev F.TRIP.LCFG.RESUME (k : Nat) : Fld := ⟨0x68010C + k * 0x10, 1, 1⟩
abbrev F.TRIP.LCFG.ISN_REPORT (k : Nat) : Fld := ⟨0x68010C + k * 0x10, 2, 1⟩
-- CONV
abbrev F.CONV.CTRL.EN (n : Nat) : Fld := ⟨0x700008 + n * 0x1000, 0, 1⟩
abbrev F.CONV.CTRL.RUN_REQ (n : Nat) : Fld := ⟨0x700008 + n * 0x1000, 8, 1⟩
abbrev F.CONV.STATUS.STATE (n : Nat) : Fld := ⟨0x70000C + n * 0x1000, 5, 3⟩
abbrev F.CONV.STICKY.WR_REJ (n : Nat) : Fld := ⟨0x700010 + n * 0x1000, 0, 1⟩
abbrev F.CONV.STICKY.HICCUP (n : Nat) : Fld := ⟨0x700010 + n * 0x1000, 1, 1⟩
abbrev F.CONV.STICKY.LATCHED (n : Nat) : Fld := ⟨0x700010 + n * 0x1000, 2, 1⟩
abbrev F.CONV.STICKY.SHED_ABORT (n : Nat) : Fld := ⟨0x700010 + n * 0x1000, 3, 1⟩
abbrev F.CONV.STICKY.STEP (n : Nat) : Fld := ⟨0x700010 + n * 0x1000, 4, 1⟩
abbrev F.CONV.STICKY.INPUT_LOST (n : Nat) : Fld := ⟨0x700010 + n * 0x1000, 5, 1⟩
abbrev F.CONV.STICKY.OUTPUT_LOST (n : Nat) : Fld := ⟨0x700010 + n * 0x1000, 6, 1⟩
abbrev F.CONV.STICKY.CL_CYCLE (n : Nat) : Fld := ⟨0x700010 + n * 0x1000, 7, 1⟩
abbrev F.CONV.STICKY.TRIM_LIMIT (n : Nat) : Fld := ⟨0x700010 + n * 0x1000, 8, 1⟩
abbrev F.CONV.CVCFG.TYPE (n : Nat) : Fld := ⟨0x700040 + n * 0x1000, 0, 2⟩
abbrev F.CONV.CVCFG.REV (n : Nat) : Fld := ⟨0x700040 + n * 0x1000, 2, 1⟩
abbrev F.CONV.CVCFG.CL_LINE (n : Nat) : Fld := ⟨0x700040 + n * 0x1000, 4, 5⟩
abbrev F.CONV.CVCFG.CL_EN (n : Nat) : Fld := ⟨0x700040 + n * 0x1000, 9, 1⟩
abbrev F.CONV.PH_ISEN.ADC0 (n k : Nat) : Fld := ⟨0x70004C + n * 0x1000 + k * 0x4, 0, 5⟩
abbrev F.CONV.PH_ISEN.ADC1 (n k : Nat) : Fld := ⟨0x70004C + n * 0x1000 + k * 0x4, 16, 5⟩
abbrev F.CONV.PH_ISEN.ENTRY0 (n k : Nat) : Fld := ⟨0x70004C + n * 0x1000 + k * 0x4, 5, 5⟩
abbrev F.CONV.PH_ISEN.ENTRY1 (n k : Nat) : Fld := ⟨0x70004C + n * 0x1000 + k * 0x4, 21, 5⟩
abbrev F.CONV.PH_ISEN.VALID0 (n k : Nat) : Fld := ⟨0x70004C + n * 0x1000 + k * 0x4, 15, 1⟩
abbrev F.CONV.PH_ISEN.VALID1 (n k : Nat) : Fld := ⟨0x70004C + n * 0x1000 + k * 0x4, 31, 1⟩
abbrev F.CONV.VSENSE.VOUT_ADC (n : Nat) : Fld := ⟨0x70005C + n * 0x1000, 0, 5⟩
abbrev F.CONV.VSENSE.VOUT_ENT (n : Nat) : Fld := ⟨0x70005C + n * 0x1000, 5, 5⟩
abbrev F.CONV.VSENSE.VIN_ADC (n : Nat) : Fld := ⟨0x70005C + n * 0x1000, 16, 5⟩
abbrev F.CONV.VSENSE.VIN_ENT (n : Nat) : Fld := ⟨0x70005C + n * 0x1000, 21, 5⟩
abbrev F.CONV.VSENSE.VIN_VALID (n : Nat) : Fld := ⟨0x70005C + n * 0x1000, 31, 1⟩
abbrev F.CONV.ITSENSE.ADC (n : Nat) : Fld := ⟨0x700060 + n * 0x1000, 0, 5⟩
abbrev F.CONV.ITSENSE.ENTRY (n : Nat) : Fld := ⟨0x700060 + n * 0x1000, 5, 5⟩
abbrev F.CONV.ITSENSE.VALID (n : Nat) : Fld := ⟨0x700060 + n * 0x1000, 15, 1⟩
abbrev F.CONV.HICCUP.HC_N (n : Nat) : Fld := ⟨0x700078 + n * 0x1000, 0, 8⟩
abbrev F.CONV.HICCUP.HC_OFF (n : Nat) : Fld := ⟨0x700078 + n * 0x1000, 8, 10⟩
abbrev F.CONV.HICCUP.HC_M (n : Nat) : Fld := ⟨0x700078 + n * 0x1000, 20, 4⟩
abbrev F.CONV.BALANCE.BAL_EN (n : Nat) : Fld := ⟨0x70007C + n * 0x1000, 0, 1⟩
abbrev F.CONV.BALANCE.BAL_G (n : Nat) : Fld := ⟨0x70007C + n * 0x1000, 8, 8⟩
abbrev F.CONV.BALANCE.BAL_MIN (n : Nat) : Fld := ⟨0x70007C + n * 0x1000, 16, 16⟩
abbrev F.CONV.SHED.SHED_EN (n : Nat) : Fld := ⟨0x700080 + n * 0x1000, 0, 1⟩
abbrev F.CONV.SHED.MINPHM1 (n : Nat) : Fld := ⟨0x700080 + n * 0x1000, 1, 3⟩
abbrev F.CONV.SHED.SHED_N (n : Nat) : Fld := ⟨0x700080 + n * 0x1000, 8, 8⟩
abbrev F.CONV.SHED.HOLDOFF (n : Nat) : Fld := ⟨0x700080 + n * 0x1000, 16, 16⟩
abbrev F.CONV.INLOSS.VIN_MIN (n : Nat) : Fld := ⟨0x70008C + n * 0x1000, 0, 16⟩
abbrev F.CONV.INLOSS.LOSS_T (n : Nat) : Fld := ⟨0x70008C + n * 0x1000, 16, 8⟩
abbrev F.CONV.INLOSS.INLOSS_EN (n : Nat) : Fld := ⟨0x70008C + n * 0x1000, 24, 1⟩
abbrev F.CONV.CV_STAT.NA (n : Nat) : Fld := ⟨0x700090 + n * 0x1000, 0, 4⟩
abbrev F.CONV.CV_STAT.ACT_MAP (n : Nat) : Fld := ⟨0x700090 + n * 0x1000, 4, 8⟩
abbrev F.CONV.CV_STAT.SHEDDING (n : Nat) : Fld := ⟨0x700090 + n * 0x1000, 12, 1⟩
abbrev F.CONV.CV_STAT.STEP (n : Nat) : Fld := ⟨0x700090 + n * 0x1000, 13, 1⟩
abbrev F.CONV.CV_STAT.HOLDOFF (n : Nat) : Fld := ⟨0x700090 + n * 0x1000, 14, 1⟩
abbrev F.CONV.CV_STAT.RETRIES (n : Nat) : Fld := ⟨0x700090 + n * 0x1000, 15, 4⟩
abbrev F.CONV.CV_STAT.HC_CONSEC (n : Nat) : Fld := ⟨0x700090 + n * 0x1000, 19, 8⟩
abbrev F.CONV.VSCALE.VOUT_LSB (n : Nat) : Fld := ⟨0x700064 + n * 0x1000, 0, 16⟩
abbrev F.CONV.VSCALE.VIN_LSB (n : Nat) : Fld := ⟨0x700064 + n * 0x1000, 16, 16⟩
abbrev F.CONV.ISCALE.I_LSB (n : Nat) : Fld := ⟨0x700068 + n * 0x1000, 0, 16⟩
abbrev F.CONV.ISCALE.I_ZERO (n : Nat) : Fld := ⟨0x700068 + n * 0x1000, 16, 16⟩
abbrev F.CONV.LOADLINE.SLOPE (n : Nat) : Fld := ⟨0x700070 + n * 0x1000, 0, 8⟩
abbrev F.CONV.SOFTSTART.SS_T (n : Nat) : Fld := ⟨0x700074 + n * 0x1000, 0, 10⟩
abbrev F.CONV.SHED_I.I_SHED (n : Nat) : Fld := ⟨0x700084 + n * 0x1000, 0, 16⟩
abbrev F.CONV.SHED_I.I_ADD (n : Nat) : Fld := ⟨0x700084 + n * 0x1000, 16, 16⟩
abbrev F.CONV.STEP.STEP_I (n : Nat) : Fld := ⟨0x700088 + n * 0x1000, 0, 16⟩
abbrev F.CONV.STEP.STEP_V (n : Nat) : Fld := ⟨0x700088 + n * 0x1000, 16, 16⟩
abbrev F.CONV.CNT_CLR.HIC (n : Nat) : Fld := ⟨0x7000C0 + n * 0x1000, 0, 1⟩
abbrev F.CONV.CNT_CLR.SHED (n : Nat) : Fld := ⟨0x7000C0 + n * 0x1000, 1, 1⟩
abbrev F.CONV.CNT_CLR.CL (n : Nat) : Fld := ⟨0x7000C0 + n * 0x1000, 2, 1⟩
-- CHGSEQ
abbrev F.CHGSEQ.CTRL.EN (n : Nat) : Fld := ⟨0x780008 + n * 0x1000, 0, 1⟩
abbrev F.CHGSEQ.STATUS.STATE (n : Nat) : Fld := ⟨0x78000C + n * 0x1000, 5, 3⟩
abbrev F.CHGSEQ.STICKY.WR_REJ (n : Nat) : Fld := ⟨0x780010 + n * 0x1000, 0, 1⟩
abbrev F.CHGSEQ.STICKY.STEP_DONE (n : Nat) : Fld := ⟨0x780010 + n * 0x1000, 1, 1⟩
abbrev F.CHGSEQ.STICKY.SESSION_END (n : Nat) : Fld := ⟨0x780010 + n * 0x1000, 2, 1⟩
abbrev F.CHGSEQ.STICKY.ABORTED (n : Nat) : Fld := ⟨0x780010 + n * 0x1000, 3, 1⟩
abbrev F.CHGSEQ.STICKY.OUTPUT_LOST (n : Nat) : Fld := ⟨0x780010 + n * 0x1000, 4, 1⟩
abbrev F.CHGSEQ.STICKY.AC_LOST (n : Nat) : Fld := ⟨0x780010 + n * 0x1000, 5, 1⟩
abbrev F.CHGSEQ.STICKY.BAT_DET (n : Nat) : Fld := ⟨0x780010 + n * 0x1000, 6, 1⟩
abbrev F.CHGSEQ.SQCFG.CELL (n : Nat) : Fld := ⟨0x780040 + n * 0x1000, 0, 1⟩
abbrev F.CHGSEQ.SQCFG.CONV (n : Nat) : Fld := ⟨0x780040 + n * 0x1000, 1, 3⟩
abbrev F.CHGSEQ.SQCFG.PILOT_EN (n : Nat) : Fld := ⟨0x780040 + n * 0x1000, 4, 1⟩
abbrev F.CHGSEQ.SQCFG.PILOT (n : Nat) : Fld := ⟨0x780040 + n * 0x1000, 5, 1⟩
abbrev F.CHGSEQ.SQCFG.AUTO_SESSION (n : Nat) : Fld := ⟨0x780040 + n * 0x1000, 6, 1⟩
abbrev F.CHGSEQ.SQCFG.REVERSE (n : Nat) : Fld := ⟨0x780040 + n * 0x1000, 7, 1⟩
abbrev F.CHGSEQ.SQCFG.CTR_LEG (n : Nat) : Fld := ⟨0x780040 + n * 0x1000, 8, 6⟩
abbrev F.CHGSEQ.SQCFG.CTR_EN (n : Nat) : Fld := ⟨0x780040 + n * 0x1000, 14, 1⟩
abbrev F.CHGSEQ.SQCFG.LOST_LINE (n : Nat) : Fld := ⟨0x780040 + n * 0x1000, 16, 5⟩
abbrev F.CHGSEQ.SQCFG.LOST_EN (n : Nat) : Fld := ⟨0x780040 + n * 0x1000, 21, 1⟩
abbrev F.CHGSEQ.MSENSE.V_ADC (n : Nat) : Fld := ⟨0x780044 + n * 0x1000, 0, 5⟩
abbrev F.CHGSEQ.MSENSE.V_ENT (n : Nat) : Fld := ⟨0x780044 + n * 0x1000, 5, 5⟩
abbrev F.CHGSEQ.MSENSE.I_ADC (n : Nat) : Fld := ⟨0x780044 + n * 0x1000, 16, 5⟩
abbrev F.CHGSEQ.MSENSE.I_ENT (n : Nat) : Fld := ⟨0x780044 + n * 0x1000, 21, 5⟩
abbrev F.CHGSEQ.SQ_STAT.STEP (n : Nat) : Fld := ⟨0x780070 + n * 0x1000, 0, 5⟩
abbrev F.CHGSEQ.SQ_STAT.REP_LEFT (n : Nat) : Fld := ⟨0x780070 + n * 0x1000, 8, 8⟩
abbrev F.CHGSEQ.SQ_STAT.BAT_PRESENT (n : Nat) : Fld := ⟨0x780070 + n * 0x1000, 16, 1⟩
abbrev F.CHGSEQ.SQ_STAT.PILOT_OK (n : Nat) : Fld := ⟨0x780070 + n * 0x1000, 17, 1⟩
abbrev F.CHGSEQ.SQ_STAT.END_REASON (n : Nat) : Fld := ⟨0x780070 + n * 0x1000, 20, 4⟩
abbrev F.CHGSEQ.GRADE.GRADED (n : Nat) : Fld := ⟨0x7800C4 + n * 0x1000, 0, 1⟩
abbrev F.CHGSEQ.GRADE.UNGRADED (n : Nat) : Fld := ⟨0x7800C4 + n * 0x1000, 1, 1⟩
abbrev F.CHGSEQ.GRADE.CAP_VALID (n : Nat) : Fld := ⟨0x7800C4 + n * 0x1000, 2, 1⟩
abbrev F.CHGSEQ.GRADE.DCIR_VALID (n : Nat) : Fld := ⟨0x7800C4 + n * 0x1000, 3, 1⟩
abbrev F.CHGSEQ.GRADE.Z_VALID (n : Nat) : Fld := ⟨0x7800C4 + n * 0x1000, 4, 1⟩
abbrev F.CHGSEQ.GRADE.SD_VALID (n : Nat) : Fld := ⟨0x7800C4 + n * 0x1000, 5, 1⟩
abbrev F.CHGSEQ.GRADE.REASON (n : Nat) : Fld := ⟨0x7800C4 + n * 0x1000, 8, 4⟩
abbrev F.CHGSEQ.GRADE.Z_N (n : Nat) : Fld := ⟨0x7800C4 + n * 0x1000, 16, 7⟩
abbrev F.CHGSEQ.MZERO.I_ZERO (n : Nat) : Fld := ⟨0x780050 + n * 0x1000, 0, 16⟩
abbrev F.CHGSEQ.TSENSE.NTC (n : Nat) : Fld := ⟨0x780054 + n * 0x1000, 0, 4⟩
abbrev F.CHGSEQ.TSENSE.T_EN (n : Nat) : Fld := ⟨0x780054 + n * 0x1000, 4, 1⟩
abbrev F.CHGSEQ.SQ_CMD.OP (n : Nat) : Fld := ⟨0x78006C + n * 0x1000, 0, 2⟩
abbrev F.CHGSEQ.ZSTAT.VALID (n k : Nat) : Fld := ⟨0x78040C + n * 0x1000 + k * 0x10, 0, 1⟩
-- THERM
abbrev F.THERM.CTRL.EN : Fld := ⟨0x800008, 0, 1⟩
abbrev F.THERM.STATUS.STATE : Fld := ⟨0x80000C, 5, 3⟩
abbrev F.THERM.STICKY.WR_REJ : Fld := ⟨0x800010, 0, 1⟩
abbrev F.THERM.STICKY.THROTTLE : Fld := ⟨0x800010, 1, 1⟩
abbrev F.THERM.STICKY.RATE : Fld := ⟨0x800010, 2, 1⟩
abbrev F.THERM.STICKY.SHUT : Fld := ⟨0x800010, 3, 1⟩
abbrev F.THERM.STICKY.NTC_FAULT : Fld := ⟨0x800010, 4, 1⟩
abbrev F.THERM.STICKY.SUP_FAULT : Fld := ⟨0x800010, 5, 1⟩
abbrev F.THERM.STICKY.XT_TRIM_LIM : Fld := ⟨0x800010, 6, 1⟩
abbrev F.THERM.STICKY.DL_FAIL : Fld := ⟨0x800010, 7, 1⟩
abbrev F.THERM.STICKY.DL_DEFER : Fld := ⟨0x800010, 8, 1⟩
abbrev F.THERM.TCFG.NATIVE_EN : Fld := ⟨0x800040, 0, 1⟩
abbrev F.THERM.TCFG.ISN_EN : Fld := ⟨0x800040, 1, 1⟩
abbrev F.THERM.CH_CFG.EN : Fld := ⟨0x800048, 0, 1⟩
abbrev F.THERM.CH_CFG.SHUT_EN : Fld := ⟨0x800048, 1, 1⟩
abbrev F.THERM.CH_CFG.THYS : Fld := ⟨0x800048, 4, 8⟩
abbrev F.THERM.CH_FLAGS.LIM : Fld := ⟨0x800058, 0, 1⟩
abbrev F.THERM.CH_FLAGS.RATE10 : Fld := ⟨0x800058, 1, 1⟩
abbrev F.THERM.CH_FLAGS.RATE1S : Fld := ⟨0x800058, 2, 1⟩
abbrev F.THERM.CH_FLAGS.SHUT : Fld := ⟨0x800058, 3, 1⟩
abbrev F.THERM.CH_FLAGS.FAULT : Fld := ⟨0x800058, 4, 1⟩
abbrev F.THERM.CH_FLAGS.SRATE : Fld := ⟨0x800058, 5, 2⟩
abbrev F.THERM.CH_FLAGS.NTC_SLOW : Fld := ⟨0x800058, 7, 1⟩
abbrev F.THERM.NTC_SRC.ADC (k : Nat) : Fld := ⟨0x800200 + k * 0x8, 0, 5⟩
abbrev F.THERM.NTC_SRC.ENTRY (k : Nat) : Fld := ⟨0x800200 + k * 0x8, 5, 5⟩
abbrev F.THERM.NTC_SRC.VALID (k : Nat) : Fld := ⟨0x800200 + k * 0x8, 15, 1⟩
abbrev F.THERM.DOM_CFG.MBX (k : Nat) : Fld := ⟨0x800300 + k * 0x10, 0, 8⟩
abbrev F.THERM.DOM_CFG.MBX_EN (k : Nat) : Fld := ⟨0x800300 + k * 0x10, 8, 1⟩
abbrev F.THERM.DOM_CFG.LMAX (k : Nat) : Fld := ⟨0x800300 + k * 0x10, 16, 5⟩
abbrev F.THERM.DOM_CFG.EN (k : Nat) : Fld := ⟨0x800300 + k * 0x10, 24, 1⟩
abbrev F.THERM.DOM_STAT.LEVEL (k : Nat) : Fld := ⟨0x80030C + k * 0x10, 0, 5⟩
abbrev F.THERM.DOM_STAT.COND (k : Nat) : Fld := ⟨0x80030C + k * 0x10, 8, 1⟩
abbrev F.THERM.DOM_STAT.RESTORE (k : Nat) : Fld := ⟨0x80030C + k * 0x10, 9, 1⟩
abbrev F.THERM.CH_LIM.TLIM : Fld := ⟨0x80004C, 0, 16⟩
abbrev F.THERM.CH_LIM.TSHUT : Fld := ⟨0x80004C, 16, 16⟩
abbrev F.THERM.CH_RATE.RISE10 : Fld := ⟨0x800050, 0, 16⟩
abbrev F.THERM.CH_RATE.RISE1S : Fld := ⟨0x800050, 16, 16⟩
abbrev F.THERM.CH_RISE.RISE1S : Fld := ⟨0x800054, 16, 16⟩
abbrev F.THERM.XT_CFG.XT_SRC : Fld := ⟨0x800080, 0, 6⟩
abbrev F.THERM.XT_CFG.XT_COMP_EN : Fld := ⟨0x800080, 8, 1⟩
abbrev F.THERM.DL_STAT.DEFER : Fld := ⟨0x800098, 24, 1⟩
abbrev F.THERM.SUP_LIM.UV (k : Nat) : Fld := ⟨0x8000C0 + k * 0x4, 0, 16⟩
abbrev F.THERM.SUP_LIM.OV (k : Nat) : Fld := ⟨0x8000C0 + k * 0x4, 16, 16⟩
abbrev F.THERM.SUP_STAT.UV : Fld := ⟨0x8000E4, 0, 9⟩
abbrev F.THERM.SUP_STAT.OV : Fld := ⟨0x8000E4, 16, 9⟩
abbrev F.THERM.NTC_PARAM.BETA (k : Nat) : Fld := ⟨0x800204 + k * 0x8, 0, 16⟩
abbrev F.THERM.NTC_PARAM.R25 (k : Nat) : Fld := ⟨0x800204 + k * 0x8, 16, 16⟩
-- TCOMPAT
abbrev F.TCOMPAT.TC_CFG.TC_EN : Fld := ⟨0x880040, 0, 1⟩
abbrev F.TCOMPAT.TC_CFG.DOMAIN : Fld := ⟨0x880040, 1, 3⟩
abbrev F.TCOMPAT.TC_WARN.TH : Fld := ⟨0x88004C, 0, 8⟩
abbrev F.TCOMPAT.TC_WARN.HYS : Fld := ⟨0x88004C, 8, 4⟩
abbrev F.TCOMPAT.TC_STAT.T_MAX : Fld := ⟨0x880058, 0, 16⟩
abbrev F.TCOMPAT.TC_STAT.WARN : Fld := ⟨0x880058, 24, 1⟩
abbrev F.TCOMPAT.TC_STAT.THROT : Fld := ⟨0x880058, 25, 1⟩
abbrev F.TCOMPAT.TC_STAT.SHUT : Fld := ⟨0x880058, 26, 1⟩
-- KENNEL
abbrev F.KENNEL.CTRL.EN : Fld := ⟨0x900008, 0, 1⟩
abbrev F.KENNEL.STATUS.STATE : Fld := ⟨0x90000C, 5, 3⟩
abbrev F.KENNEL.STICKY.WR_REJ : Fld := ⟨0x900010, 0, 1⟩
abbrev F.KENNEL.STICKY.HANDOVER : Fld := ⟨0x900010, 1, 1⟩
abbrev F.KENNEL.STICKY.RETURN : Fld := ⟨0x900010, 2, 1⟩
abbrev F.KENNEL.STICKY.BKP_ABSENT : Fld := ⟨0x900010, 3, 1⟩
abbrev F.KENNEL.STICKY.CHG_FAULT : Fld := ⟨0x900010, 4, 1⟩
abbrev F.KENNEL.STICKY.RET_PARITY : Fld := ⟨0x900010, 5, 1⟩
abbrev F.KENNEL.STICKY.KCOLD : Fld := ⟨0x900010, 6, 1⟩
abbrev F.KENNEL.KSTAT.SRC : Fld := ⟨0x900040, 0, 2⟩
abbrev F.KENNEL.KSTAT.VSYS_OK : Fld := ⟨0x900040, 2, 1⟩
abbrev F.KENNEL.KSTAT.CHARGING : Fld := ⟨0x900040, 3, 1⟩
abbrev F.KENNEL.KSTAT.CHG_TEMP : Fld := ⟨0x900040, 4, 1⟩
abbrev F.KENNEL.KSTAT.CAL_VALID : Fld := ⟨0x900040, 5, 1⟩
abbrev F.KENNEL.KSTAT.TOKEN_VALID : Fld := ⟨0x900040, 6, 1⟩
abbrev F.KENNEL.KSTAT.SHIP_ARMED : Fld := ⟨0x900040, 7, 1⟩
abbrev F.KENNEL.WAKE_CFG.SHIP_WAKE_EN : Fld := ⟨0x90005C, 0, 1⟩
abbrev F.KENNEL.WAKE_CFG.ALARM_EN : Fld := ⟨0x90005C, 1, 1⟩
abbrev F.KENNEL.WAKE_CFG.WAKE_IN_EN : Fld := ⟨0x90005C, 2, 1⟩
abbrev F.KENNEL.WAKE_CFG.VSYS_EN : Fld := ⟨0x90005C, 3, 1⟩
abbrev F.KENNEL.WAKE_CFG.PWR_OFF : Fld := ⟨0x90005C, 8, 1⟩
abbrev F.KENNEL.BKP_CFG.CHEM : Fld := ⟨0x900064, 0, 1⟩
abbrev F.KENNEL.BKP_CFG.CHG_EN : Fld := ⟨0x900064, 1, 1⟩
abbrev F.KENNEL.BKP_CFG.ICHG : Fld := ⟨0x900064, 8, 8⟩
abbrev F.KENNEL.BKP_CFG.ON_T : Fld := ⟨0x900064, 16, 8⟩
abbrev F.KENNEL.BKP_CFG.REST_T : Fld := ⟨0x900064, 24, 8⟩
abbrev F.KENNEL.BKP_VLIM.VFULL : Fld := ⟨0x900068, 0, 16⟩
abbrev F.KENNEL.BKP_VLIM.VRECHG : Fld := ⟨0x900068, 16, 16⟩
abbrev F.KENNEL.BKP_CUT.CUTOFF : Fld := ⟨0x90006C, 0, 16⟩
abbrev F.KENNEL.BKP_CUT.VPRE : Fld := ⟨0x90006C, 16, 16⟩
abbrev F.KENNEL.TOKEN_CTRL.CLR : Fld := ⟨0x90007C, 0, 1⟩
abbrev F.KENNEL.VMON.VSYS : Fld := ⟨0x900088, 0, 16⟩
abbrev F.KENNEL.VMON.VBKP : Fld := ⟨0x900088, 16, 16⟩
abbrev F.KENNEL.VKEEP_MON.VKEEP : Fld := ⟨0x90008C, 0, 16⟩
-- SAFE
abbrev F.SAFE.CTRL.EN : Fld := ⟨0x980008, 0, 1⟩
abbrev F.SAFE.CTRL.STO_REQ : Fld := ⟨0x980008, 8, 1⟩
abbrev F.SAFE.CTRL.SS1_REQ : Fld := ⟨0x980008, 9, 1⟩
abbrev F.SAFE.CTRL.STO_REL : Fld := ⟨0x980008, 10, 1⟩
abbrev F.SAFE.CTRL.SBC_REL : Fld := ⟨0x980008, 11, 1⟩
abbrev F.SAFE.CTRL.HOLD_START : Fld := ⟨0x980008, 12, 1⟩
abbrev F.SAFE.STATUS.STATE : Fld := ⟨0x98000C, 5, 3⟩
abbrev F.SAFE.STICKY.WR_REJ : Fld := ⟨0x980010, 0, 1⟩
abbrev F.SAFE.STICKY.STO_APPLIED : Fld := ⟨0x980010, 1, 1⟩
abbrev F.SAFE.STICKY.STO_FB_FAULT : Fld := ⟨0x980010, 2, 1⟩
abbrev F.SAFE.STICKY.SS1_FAIL : Fld := ⟨0x980010, 3, 1⟩
abbrev F.SAFE.STICKY.SIN_CROSS : Fld := ⟨0x980010, 4, 1⟩
abbrev F.SAFE.STICKY.SIN_STUCK : Fld := ⟨0x980010, 5, 1⟩
abbrev F.SAFE.STICKY.SIN_DISC : Fld := ⟨0x980010, 6, 1⟩
abbrev F.SAFE.STICKY.SBC_FAULT : Fld := ⟨0x980010, 7, 1⟩
abbrev F.SAFE.STICKY.HOLD_FAIL : Fld := ⟨0x980010, 8, 1⟩
abbrev F.SAFE.STICKY.HOLD_DONE : Fld := ⟨0x980010, 9, 1⟩
abbrev F.SAFE.STICKY.PARK_FAIL : Fld := ⟨0x980010, 10, 1⟩
abbrev F.SAFE.STICKY.SIN_DEMAND : Fld := ⟨0x980010, 11, 1⟩
abbrev F.SAFE.STO_STAT.CUT_A : Fld := ⟨0x980040, 0, 1⟩
abbrev F.SAFE.STO_STAT.CUT_B : Fld := ⟨0x980040, 1, 1⟩
abbrev F.SAFE.STO_STAT.FB_A : Fld := ⟨0x980040, 2, 1⟩
abbrev F.SAFE.STO_STAT.FB_B : Fld := ⟨0x980040, 3, 1⟩
abbrev F.SAFE.STO_STAT.DEMAND : Fld := ⟨0x980040, 8, 5⟩
abbrev F.SAFE.SS1_CFG.MODE : Fld := ⟨0x980044, 0, 1⟩
abbrev F.SAFE.SS1_CFG.SS1_PFU : Fld := ⟨0x980044, 1, 3⟩
abbrev F.SAFE.SS1_CFG.STILL : Fld := ⟨0x980044, 4, 12⟩
abbrev F.SAFE.SS1_CFG.SS1_T : Fld := ⟨0x980044, 16, 16⟩
abbrev F.SAFE.SBC_CFG.SBC_EN : Fld := ⟨0x980050, 0, 1⟩
abbrev F.SAFE.SBC_CFG.ORDER : Fld := ⟨0x980050, 1, 1⟩
abbrev F.SAFE.SBC_CFG.WITH_STO : Fld := ⟨0x980050, 2, 1⟩
abbrev F.SAFE.SBC_CFG.SBC_DLY : Fld := ⟨0x980050, 8, 12⟩
abbrev F.SAFE.SBC_CFG.SBC_TPER : Fld := ⟨0x980050, 24, 8⟩
abbrev F.SAFE.SBC_STAT.HS_ON : Fld := ⟨0x980058, 0, 1⟩
abbrev F.SAFE.SBC_STAT.LS_ON : Fld := ⟨0x980058, 1, 1⟩
abbrev F.SAFE.SBC_STAT.HS_FB : Fld := ⟨0x980058, 2, 1⟩
abbrev F.SAFE.SBC_STAT.LS_FB : Fld := ⟨0x980058, 3, 1⟩
abbrev F.SAFE.SBC_STAT.RELEASED : Fld := ⟨0x980058, 4, 1⟩
abbrev F.SAFE.SBC_STAT.PASSES : Fld := ⟨0x980058, 16, 16⟩
abbrev F.SAFE.PARK_CFG.PFU_A : Fld := ⟨0x980068, 0, 3⟩
abbrev F.SAFE.PARK_CFG.PFU_B : Fld := ⟨0x980068, 4, 3⟩
abbrev F.SAFE.PARK_CFG.PFU_B_EN : Fld := ⟨0x980068, 7, 1⟩
abbrev F.SAFE.PARK_CFG.PL_T : Fld := ⟨0x980068, 8, 8⟩
abbrev F.SAFE.PARK_CFG.POS_SIN : Fld := ⟨0x980068, 16, 3⟩
abbrev F.SAFE.PARK_CFG.POS_SIN_EN : Fld := ⟨0x980068, 19, 1⟩
abbrev F.SAFE.TPS_CFG.TPS_EN : Fld := ⟨0x980074, 0, 4⟩
abbrev F.SAFE.TPS_CFG.TP_W : Fld := ⟨0x980074, 4, 8⟩
abbrev F.SAFE.TPS_CFG.TP_PER : Fld := ⟨0x980074, 16, 16⟩
abbrev F.SAFE.SIN_CFG.TPS (k : Nat) : Fld := ⟨0x980080 + k * 0x4, 0, 2⟩
abbrev F.SAFE.SIN_CFG.PULSED (k : Nat) : Fld := ⟨0x980080 + k * 0x4, 2, 1⟩
abbrev F.SAFE.SIN_CFG.PAIR (k : Nat) : Fld := ⟨0x980080 + k * 0x4, 3, 1⟩
abbrev F.SAFE.SIN_CFG.ANTI (k : Nat) : Fld := ⟨0x980080 + k * 0x4, 4, 1⟩
abbrev F.SAFE.SIN_CFG.FUNC (k : Nat) : Fld := ⟨0x980080 + k * 0x4, 5, 3⟩
abbrev F.SAFE.SIN_CFG.SIN_FILT (k : Nat) : Fld := ⟨0x980080 + k * 0x4, 8, 8⟩
abbrev F.SAFE.SIN_CFG.DISC_T (k : Nat) : Fld := ⟨0x980080 + k * 0x4, 16, 16⟩
abbrev F.SAFE.SS1_RAMP.RAMP : Fld := ⟨0x980048, 0, 16⟩
abbrev F.SAFE.SS1_RAMP.VOFS : Fld := ⟨0x980048, 16, 16⟩
abbrev F.SAFE.SBC_TEST.SBC_TP : Fld := ⟨0x980054, 0, 10⟩
abbrev F.SAFE.HOLD_CFG.HOLD_PFU : Fld := ⟨0x98005C, 0, 3⟩
abbrev F.SAFE.HOLD_CFG.HOLD_SET : Fld := ⟨0x98005C, 8, 8⟩
abbrev F.SAFE.HOLD_CFG.HOLD_CNT : Fld := ⟨0x98005C, 16, 16⟩
abbrev F.SAFE.HOLD_STAT.READY : Fld := ⟨0x980064, 0, 1⟩
abbrev F.SAFE.HOLD_STAT.ACTIVE : Fld := ⟨0x980064, 1, 1⟩
abbrev F.SAFE.PARK_VMAX.VMAX_A : Fld := ⟨0x98006C, 0, 16⟩
abbrev F.SAFE.PARK_VMAX.VMAX_B : Fld := ⟨0x98006C, 16, 16⟩
abbrev F.SAFE.PARK_STAT.ENGAGE_OK : Fld := ⟨0x980070, 0, 1⟩
abbrev F.SAFE.PARK_STAT.RELEASE_OK : Fld := ⟨0x980070, 1, 1⟩
abbrev F.SAFE.PARK_STAT.POS_ACTIVE : Fld := ⟨0x980070, 2, 1⟩
abbrev F.SAFE.SIN_STAT.ACTIVE : Fld := ⟨0x980078, 0, 8⟩
abbrev F.SAFE.SIN_STAT.FAULT : Fld := ⟨0x980078, 8, 8⟩
abbrev F.SAFE.SAFE_CNT.STO : Fld := ⟨0x9800A4, 0, 16⟩
abbrev F.SAFE.SAFE_CNT.SS1 : Fld := ⟨0x9800A4, 16, 16⟩
-- BIST
abbrev F.BIST.ROLL_CFG.INTERVAL : Fld := ⟨0xA00040, 0, 16⟩
abbrev F.BIST.ROLL_STATUS.NEXT_PAIR : Fld := ⟨0xA00044, 0, 6⟩
abbrev F.BIST.ROLL_STATUS.CUR_PAIR : Fld := ⟨0xA00044, 6, 6⟩
abbrev F.BIST.ROLL_STATUS.ACTIVE : Fld := ⟨0xA00044, 12, 1⟩
abbrev F.BIST.ROLL_STATUS.RESERVES : Fld := ⟨0xA00044, 16, 3⟩
abbrev F.BIST.RETIRE_CLR.PAIR : Fld := ⟨0xA0005C, 0, 6⟩
abbrev F.BIST.RETIRE_CLR.GO : Fld := ⟨0xA0005C, 6, 1⟩
abbrev F.BIST.MARCH_CFG.MARCH_SPACING : Fld := ⟨0xA00060, 0, 16⟩
abbrev F.BIST.MARCH_STATUS.NEXT_SLICE : Fld := ⟨0xA00064, 0, 10⟩
abbrev F.BIST.MARCH_STATUS.PASSES : Fld := ⟨0xA00064, 16, 16⟩
abbrev F.BIST.ANA_CFG.DAC_ADC : Fld := ⟨0xA0006C, 0, 1⟩
abbrev F.BIST.ANA_CFG.CMP_SWEEP : Fld := ⟨0xA0006C, 1, 1⟩
abbrev F.BIST.ANA_CFG.DRV_SENSE : Fld := ⟨0xA0006C, 2, 1⟩
abbrev F.BIST.ANA_CFG.GL_LOOP : Fld := ⟨0xA0006C, 3, 1⟩
abbrev F.BIST.ANA_CFG.ANA_INTERVAL : Fld := ⟨0xA0006C, 8, 8⟩
abbrev F.BIST.ANA_STATUS.FAIL : Fld := ⟨0xA00070, 0, 4⟩
abbrev F.BIST.REF_CHK.IN_LIMIT : Fld := ⟨0xA00074, 16, 1⟩
abbrev F.BIST.RANGE_STATUS.REF_OK : Fld := ⟨0xA00078, 12, 1⟩
abbrev F.BIST.RANGE_STATUS.SLICED : Fld := ⟨0xA00078, 13, 1⟩
abbrev F.BIST.SCAN_STATUS.SCAN_OPEN : Fld := ⟨0xA0007C, 0, 1⟩
abbrev F.BIST.SCAN_STATUS.KEYS_ZERO : Fld := ⟨0xA0007C, 1, 1⟩
abbrev F.BIST.SCAN_STATUS.NV_FENCED : Fld := ⟨0xA0007C, 2, 1⟩
abbrev F.BIST.SCAN_STATUS.RECORDED : Fld := ⟨0xA0007C, 3, 1⟩
-- EPORT
abbrev F.EPORT.CTRL.EN (n : Nat) : Fld := ⟨0xA80008 + n * 0x1000, 0, 1⟩
abbrev F.EPORT.STATUS.STATE (n : Nat) : Fld := ⟨0xA8000C + n * 0x1000, 5, 3⟩
abbrev F.EPORT.STICKY.WR_REJ (n : Nat) : Fld := ⟨0xA80010 + n * 0x1000, 0, 1⟩
abbrev F.EPORT.STICKY.LINK_UP (n : Nat) : Fld := ⟨0xA80010 + n * 0x1000, 1, 1⟩
abbrev F.EPORT.STICKY.LINK_DOWN (n : Nat) : Fld := ⟨0xA80010 + n * 0x1000, 2, 1⟩
abbrev F.EPORT.STICKY.AUTH_FAIL (n : Nat) : Fld := ⟨0xA80010 + n * 0x1000, 3, 1⟩
abbrev F.EPORT.STICKY.CABLE_FAULT (n : Nat) : Fld := ⟨0xA80010 + n * 0x1000, 4, 1⟩
abbrev F.EPORT.STICKY.SYNC_ERR (n : Nat) : Fld := ⟨0xA80010 + n * 0x1000, 5, 1⟩
abbrev F.EPORT.STICKY.CRC_ERR (n : Nat) : Fld := ⟨0xA80010 + n * 0x1000, 6, 1⟩
abbrev F.EPORT.STICKY.TTL_DROP (n : Nat) : Fld := ⟨0xA80010 + n * 0x1000, 7, 1⟩
abbrev F.EPORT.PORT_CFG.LOOPBACK (n : Nat) : Fld := ⟨0xA80040 + n * 0x1000, 0, 1⟩
abbrev F.EPORT.PORT_CFG.AUTH_REQ (n : Nat) : Fld := ⟨0xA80040 + n * 0x1000, 1, 1⟩
abbrev F.EPORT.PORT_STAT.LSTATE (n : Nat) : Fld := ⟨0xA80044 + n * 0x1000, 0, 3⟩
abbrev F.EPORT.PORT_STAT.UP_DIR (n : Nat) : Fld := ⟨0xA80044 + n * 0x1000, 3, 1⟩
abbrev F.EPORT.PORT_STAT.PARENT (n : Nat) : Fld := ⟨0xA80044 + n * 0x1000, 4, 1⟩
abbrev F.EPORT.PORT_STAT.LOCK (n : Nat) : Fld := ⟨0xA80044 + n * 0x1000, 5, 1⟩
abbrev F.EPORT.PORT_STAT.AUTH_OK (n : Nat) : Fld := ⟨0xA80044 + n * 0x1000, 6, 1⟩
abbrev F.EPORT.CABLE.LEN_CM (n : Nat) : Fld := ⟨0xA80048 + n * 0x1000, 0, 16⟩
abbrev F.EPORT.CABLE.VALID (n : Nat) : Fld := ⟨0xA80048 + n * 0x1000, 16, 1⟩
abbrev F.EPORT.CABLE.OPEN (n : Nat) : Fld := ⟨0xA80048 + n * 0x1000, 17, 1⟩
abbrev F.EPORT.CABLE.SHORT (n : Nat) : Fld := ⟨0xA80048 + n * 0x1000, 18, 1⟩
abbrev F.EPORT.CABLE_VP.VP (n : Nat) : Fld := ⟨0xA8004C + n * 0x1000, 0, 16⟩
abbrev F.EPORT.PEER_INFO.VALID (n : Nat) : Fld := ⟨0xA80058 + n * 0x1000, 31, 1⟩
abbrev F.EPORT.ERR_CNT.SYNC_ERR (n : Nat) : Fld := ⟨0xA80064 + n * 0x1000, 0, 16⟩
abbrev F.EPORT.ERR_CNT.CRC_ERR (n : Nat) : Fld := ⟨0xA80064 + n * 0x1000, 16, 16⟩
abbrev F.EPORT.DROP_CNT.TTL_DROP (n : Nat) : Fld := ⟨0xA80068 + n * 0x1000, 0, 16⟩
abbrev F.EPORT.CNT_CLR.ERR (n : Nat) : Fld := ⟨0xA8007C + n * 0x1000, 0, 1⟩
abbrev F.EPORT.CNT_CLR.DROP (n : Nat) : Fld := ⟨0xA8007C + n * 0x1000, 1, 1⟩
abbrev F.EPORT.CNT_CLR.DOWN (n : Nat) : Fld := ⟨0xA8007C + n * 0x1000, 2, 1⟩
abbrev F.EPORT.CNT_CLR.PKTS (n : Nat) : Fld := ⟨0xA8007C + n * 0x1000, 3, 1⟩
abbrev F.EPORT.CNT_CLR.SUSP (n : Nat) : Fld := ⟨0xA8007C + n * 0x1000, 4, 1⟩
-- CANX
abbrev F.CANX.CAN_MODE.FD_EN (n : Nat) : Fld := ⟨0xB00040 + n * 0x1000, 0, 1⟩
abbrev F.CANX.CAN_MODE.XL_EN (n : Nat) : Fld := ⟨0xB00040 + n * 0x1000, 1, 1⟩
abbrev F.CANX.CAN_MODE.TMS (n : Nat) : Fld := ⟨0xB00040 + n * 0x1000, 2, 1⟩
abbrev F.CANX.CAN_MODE.LISTEN (n : Nat) : Fld := ⟨0xB00040 + n * 0x1000, 3, 1⟩
abbrev F.CANX.CAN_MODE.LOOPBACK (n : Nat) : Fld := ⟨0xB00040 + n * 0x1000, 4, 1⟩
abbrev F.CANX.CAN_MODE.RESTRICTED (n : Nat) : Fld := ⟨0xB00040 + n * 0x1000, 5, 1⟩
abbrev F.CANX.NBT.TSEG1 (n : Nat) : Fld := ⟨0xB00044 + n * 0x1000, 0, 8⟩
abbrev F.CANX.NBT.TSEG2 (n : Nat) : Fld := ⟨0xB00044 + n * 0x1000, 8, 7⟩
abbrev F.CANX.NBT.SJW (n : Nat) : Fld := ⟨0xB00044 + n * 0x1000, 16, 7⟩
abbrev F.CANX.NBT.BRP (n : Nat) : Fld := ⟨0xB00044 + n * 0x1000, 24, 8⟩
abbrev F.CANX.TDC.TDC_EN (n : Nat) : Fld := ⟨0xB00050 + n * 0x1000, 8, 1⟩
abbrev F.CANX.ERR_STAT.TEC (n : Nat) : Fld := ⟨0xB00054 + n * 0x1000, 0, 8⟩
abbrev F.CANX.ERR_STAT.REC (n : Nat) : Fld := ⟨0xB00054 + n * 0x1000, 8, 8⟩
abbrev F.CANX.RXF_STAT.FIFO (n : Nat) : Fld := ⟨0xB00060 + n * 0x1000, 0, 7⟩
abbrev F.CANX.RXF_ACK.FIFO (n : Nat) : Fld := ⟨0xB00064 + n * 0x1000, 0, 7⟩
abbrev F.CANX.FILT_CFG.XL (n : Nat) : Fld := ⟨0xB00068 + n * 0x1000, 16, 6⟩
-- ETH
abbrev F.ETH.MAC_CFG.SPEED100 (n : Nat) : Fld := ⟨0xB80040 + n * 0x1000, 0, 1⟩
abbrev F.ETH.MAC_CFG.FULL_DUPLEX (n : Nat) : Fld := ⟨0xB80040 + n * 0x1000, 1, 1⟩
abbrev F.ETH.MAC_CFG.PROMISC (n : Nat) : Fld := ⟨0xB80040 + n * 0x1000, 2, 1⟩
abbrev F.ETH.MAC_CFG.REFCLK_OUT (n : Nat) : Fld := ⟨0xB80040 + n * 0x1000, 3, 1⟩
abbrev F.ETH.MDIO_CMD.PHY (n : Nat) : Fld := ⟨0xB80054 + n * 0x1000, 5, 5⟩
abbrev F.ETH.MDIO_STAT.BUSY (n : Nat) : Fld := ⟨0xB80058 + n * 0x1000, 0, 1⟩
abbrev F.ETH.RING_IDX.TX (n : Nat) : Fld := ⟨0xB80064 + n * 0x1000, 0, 8⟩
abbrev F.ETH.RING_IDX.RX (n : Nat) : Fld := ⟨0xB80064 + n * 0x1000, 16, 8⟩
abbrev F.ETH.TS_FILT.UDP (n : Nat) : Fld := ⟨0xB80068 + n * 0x1000, 1, 1⟩
abbrev F.ETH.EXACT_HI.VALID (n k : Nat) : Fld := ⟨0xB80104 + n * 0x1000 + k * 0x8, 31, 1⟩
-- EVREC
abbrev F.EVREC.CTRL.EN : Fld := ⟨0xC00008, 0, 1⟩
abbrev F.EVREC.STATUS.STATE : Fld := ⟨0xC0000C, 5, 3⟩
abbrev F.EVREC.STICKY.WR_REJ : Fld := ⟨0xC00010, 0, 1⟩
abbrev F.EVREC.STICKY.REFUSED : Fld := ⟨0xC00010, 1, 1⟩
abbrev F.EVREC.STICKY.CLEARED : Fld := ⟨0xC00010, 2, 1⟩
abbrev F.EVREC.STICKY.CLR_FAIL : Fld := ⟨0xC00010, 3, 1⟩
abbrev F.EVREC.STICKY.TORN : Fld := ⟨0xC00010, 4, 1⟩
abbrev F.EVREC.CLR_STAT.STATE : Fld := ⟨0xC000D0, 0, 2⟩
abbrev F.EVREC.CLR_STAT.REASON : Fld := ⟨0xC000D0, 8, 8⟩
abbrev F.EVREC.CLR_STAT.FAILS : Fld := ⟨0xC000D0, 16, 4⟩
abbrev F.EVREC.REC_SEL.INDEX : Fld := ⟨0xC00040, 0, 15⟩
abbrev F.EVREC.REC_SEL.PART : Fld := ⟨0xC00040, 16, 2⟩
abbrev F.EVREC.HEAD.WRAPPED : Fld := ⟨0xC00068, 16, 1⟩
abbrev F.EVREC.HREC_CMD.CODE : Fld := ⟨0xC00084, 0, 16⟩
abbrev F.EVREC.HREC_CMD.GO : Fld := ⟨0xC00084, 16, 1⟩
abbrev F.EVREC.CLR_CFG.PART : Fld := ⟨0xC00088, 0, 2⟩
abbrev F.EVREC.CLR_CFG.KEY : Fld := ⟨0xC00088, 4, 2⟩
abbrev F.EVREC.CLR_CMD.NONCE : Fld := ⟨0xC000CC, 0, 1⟩
abbrev F.EVREC.CLR_CMD.GO : Fld := ⟨0xC000CC, 1, 1⟩
-- LIFE
abbrev F.LIFE.CTRL.EN : Fld := ⟨0xC80008, 0, 1⟩
abbrev F.LIFE.STICKY.WR_REJ : Fld := ⟨0xC80010, 0, 1⟩
abbrev F.LIFE.STICKY.FLUSH_FAIL : Fld := ⟨0xC80010, 1, 1⟩
abbrev F.LIFE.STICKY.DMG_WARN : Fld := ⟨0xC80010, 2, 1⟩
abbrev F.LIFE.MOD_CFG.TREF : Fld := ⟨0xC8008C, 0, 6⟩
abbrev F.LIFE.MOD_CFG.DMG_TAB : Fld := ⟨0xC8008C, 14, 1⟩
abbrev F.LIFE.MOD_CFG.EN : Fld := ⟨0xC8008C, 15, 1⟩
abbrev F.LIFE.MOD_CFG.NSTAGE : Fld := ⟨0xC8008C, 16, 3⟩
abbrev F.LIFE.MOD_CFG.PLOSS : Fld := ⟨0xC8008C, 24, 8⟩
abbrev F.LIFE.RF_CFG.GATE : Fld := ⟨0xC800B8, 0, 8⟩
abbrev F.LIFE.RF_CFG.DT_BIN : Fld := ⟨0xC800B8, 8, 8⟩
abbrev F.LIFE.RF_CFG.MEAN_BIN : Fld := ⟨0xC800B8, 16, 8⟩
abbrev F.LIFE.RF_CFG.MEAN_BASE : Fld := ⟨0xC800B8, 24, 8⟩
abbrev F.LIFE.FLUSH_STAT.BUSY : Fld := ⟨0xC80044, 16, 1⟩
abbrev F.LIFE.FLUSH_STAT.FAIL : Fld := ⟨0xC80044, 17, 1⟩
abbrev F.LIFE.DMG_WARN.Q0 : Fld := ⟨0xC800C4, 0, 16⟩
-- NVM
abbrev F.NVM.BANK_STAT.A_VALID : Fld := ⟨0xD00040, 0, 1⟩
abbrev F.NVM.BANK_STAT.B_VALID : Fld := ⟨0xD00040, 1, 1⟩
abbrev F.NVM.BANK_STAT.ACTIVE : Fld := ⟨0xD00040, 2, 1⟩
abbrev F.NVM.BANK_STAT.AUTH_BUSY : Fld := ⟨0xD00040, 3, 1⟩
abbrev F.NVM.VER_CMD.COMMIT_VERSION : Fld := ⟨0xD0004C, 0, 1⟩
abbrev F.NVM.AUTH_STAT.BUSY : Fld := ⟨0xD0005C, 0, 1⟩
abbrev F.NVM.AUTH_STAT.DONE : Fld := ⟨0xD0005C, 1, 1⟩
abbrev F.NVM.AUTH_STAT.PASS : Fld := ⟨0xD0005C, 2, 1⟩
-- SEC
abbrev F.SEC.KEY_INFO.LOADED : Fld := ⟨0xD80044, 0, 1⟩
abbrev F.SEC.KEY_INFO.LOCKED : Fld := ⟨0xD80044, 1, 1⟩
abbrev F.SEC.KEY_INFO.SHA : Fld := ⟨0xD80044, 8, 8⟩
abbrev F.SEC.KEY_CMD.PROV_CLOSE : Fld := ⟨0xD80050, 8, 1⟩
abbrev F.SEC.FAB_CA.FAB_CA_SLOT : Fld := ⟨0xD80054, 0, 3⟩
abbrev F.SEC.ATT_STAT.BUSY : Fld := ⟨0xD8005C, 0, 1⟩
abbrev F.SEC.ATT_STAT.DONE : Fld := ⟨0xD8005C, 1, 1⟩
abbrev F.SEC.ATT_STAT.REASON : Fld := ⟨0xD8005C, 8, 8⟩
abbrev F.SEC.RNG_STAT.SEEDED : Fld := ⟨0xD80104, 0, 1⟩
-- PILOT
abbrev F.PILOT.PCFG.ROLE (n : Nat) : Fld := ⟨0xE00040 + n * 0x1000, 0, 1⟩
abbrev F.PILOT.PCFG.PP_EN (n : Nat) : Fld := ⟨0xE00040 + n * 0x1000, 1, 1⟩
abbrev F.PILOT.PCFG.VENT_OK (n : Nat) : Fld := ⟨0xE00040 + n * 0x1000, 2, 1⟩
abbrev F.PILOT.CP_SCALE.CP_LSB (n : Nat) : Fld := ⟨0xE00044 + n * 0x1000, 0, 16⟩
abbrev F.PILOT.CP_SCALE.CP_ZERO (n : Nat) : Fld := ⟨0xE00044 + n * 0x1000, 16, 12⟩
abbrev F.PILOT.CP_STAT.STATE (n : Nat) : Fld := ⟨0xE00048 + n * 0x1000, 0, 3⟩
abbrev F.PILOT.CP_STAT.PWM (n : Nat) : Fld := ⟨0xE00048 + n * 0x1000, 3, 1⟩
abbrev F.PILOT.CP_STAT.DIODE_FAULT (n : Nat) : Fld := ⟨0xE00048 + n * 0x1000, 4, 1⟩
abbrev F.PILOT.CP_STAT.S2 (n : Nat) : Fld := ⟨0xE00048 + n * 0x1000, 5, 1⟩
abbrev F.PILOT.CP_STAT.DRIVING (n : Nat) : Fld := ⟨0xE00048 + n * 0x1000, 6, 1⟩
abbrev F.PILOT.CP_IMAX.DIGITAL (n : Nat) : Fld := ⟨0xE00054 + n * 0x1000, 16, 1⟩
abbrev F.PILOT.CP_IMAX.NOT_ALLOWED (n : Nat) : Fld := ⟨0xE00054 + n * 0x1000, 17, 1⟩
abbrev F.PILOT.PP_STAT.R_PP (n : Nat) : Fld := ⟨0xE00058 + n * 0x1000, 0, 16⟩
abbrev F.PILOT.PP_STAT.CONNECTED (n : Nat) : Fld := ⟨0xE00058 + n * 0x1000, 24, 1⟩
abbrev F.PILOT.CP_OFFER.PWM_ON (n : Nat) : Fld := ⟨0xE0005C + n * 0x1000, 16, 1⟩
-- EMGR
abbrev F.EMGR.CTRL.EN : Fld := ⟨0xA84008, 0, 1⟩
abbrev F.EMGR.CTRL.CNT_CLR : Fld := ⟨0xA84008, 8, 1⟩
abbrev F.EMGR.STATUS.STATE : Fld := ⟨0xA8400C, 5, 3⟩
abbrev F.EMGR.STICKY.WR_REJ : Fld := ⟨0xA84010, 0, 1⟩
abbrev F.EMGR.STICKY.DISC_DONE : Fld := ⟨0xA84010, 1, 1⟩
abbrev F.EMGR.STICKY.TOPO_CHG : Fld := ⟨0xA84010, 2, 1⟩
abbrev F.EMGR.STICKY.FLOW_LOST : Fld := ⟨0xA84010, 3, 1⟩
abbrev F.EMGR.STICKY.FLOW_MISS : Fld := ⟨0xA84010, 4, 1⟩
abbrev F.EMGR.STICKY.TIME_UNLOCK : Fld := ⟨0xA84010, 5, 1⟩
abbrev F.EMGR.STICKY.NO_ROOT : Fld := ⟨0xA84010, 6, 1⟩
abbrev F.EMGR.STICKY.NO_ADDR : Fld := ⟨0xA84010, 7, 1⟩
abbrev F.EMGR.STICKY.AUTH_DROP : Fld := ⟨0xA84010, 8, 1⟩
abbrev F.EMGR.STICKY.EP_DROP : Fld := ⟨0xA84010, 9, 1⟩
abbrev F.EMGR.MGR_CFG.ROOT_ELIG : Fld := ⟨0xA84040, 0, 1⟩
abbrev F.EMGR.MGR_CFG.AUTO_DISC : Fld := ⟨0xA84040, 1, 1⟩
abbrev F.EMGR.MGR_CFG.WARM_REUSE : Fld := ⟨0xA84040, 2, 1⟩
abbrev F.EMGR.MGR_CFG.HOP_MAX : Fld := ⟨0xA84040, 8, 8⟩
abbrev F.EMGR.MGR_CFG.DOMAIN_ID : Fld := ⟨0xA84040, 16, 16⟩
abbrev F.EMGR.DISC_STAT.DSTATE : Fld := ⟨0xA84048, 0, 3⟩
abbrev F.EMGR.DISC_STAT.IS_ROOT : Fld := ⟨0xA84048, 3, 1⟩
abbrev F.EMGR.DISC_STAT.WARM : Fld := ⟨0xA84048, 4, 1⟩
abbrev F.EMGR.DISC_STAT.LEVEL : Fld := ⟨0xA84048, 8, 8⟩
abbrev F.EMGR.EP_CFG.MBX_BASE (k : Nat) : Fld := ⟨0xA84200 + k * 0x4, 0, 8⟩
abbrev F.EMGR.EP_CFG.NWM1 (k : Nat) : Fld := ⟨0xA84200 + k * 0x4, 8, 5⟩
abbrev F.EMGR.EP_CFG.MODE (k : Nat) : Fld := ⟨0xA84200 + k * 0x4, 13, 2⟩
abbrev F.EMGR.EP_CFG.ENC_REQ (k : Nat) : Fld := ⟨0xA84200 + k * 0x4, 15, 1⟩
abbrev F.EMGR.EP_CFG.RING (k : Nat) : Fld := ⟨0xA84200 + k * 0x4, 16, 16⟩
abbrev F.EMGR.DEV_ADDR.VALID : Fld := ⟨0xA8404C, 31, 1⟩
abbrev F.EMGR.ROUTE.VALID : Fld := ⟨0xA84064, 2, 1⟩
abbrev F.EMGR.TIME_CFG.TSRC : Fld := ⟨0xA84068, 0, 2⟩
abbrev F.EMGR.TIME_CFG.STEP_EN : Fld := ⟨0xA84068, 2, 1⟩
abbrev F.EMGR.TIME_CFG.STEP_TH : Fld := ⟨0xA84068, 16, 16⟩
abbrev F.EMGR.TIME_STAT.LOCKED : Fld := ⟨0xA8406C, 16, 1⟩
abbrev F.EMGR.FLOW_CMD.FLOW : Fld := ⟨0xA84078, 0, 6⟩
abbrev F.EMGR.FLOW_CMD.OP : Fld := ⟨0xA84078, 8, 2⟩
abbrev F.EMGR.FLOW_RESULT.DONE : Fld := ⟨0xA8407C, 0, 1⟩
abbrev F.EMGR.FLOW_RESULT.ACCEPT : Fld := ⟨0xA8407C, 1, 1⟩
abbrev F.EMGR.FLOW_RESULT.REASON : Fld := ⟨0xA8407C, 8, 8⟩
abbrev F.EMGR.FLOW_RESULT.FLOW : Fld := ⟨0xA8407C, 16, 6⟩
abbrev F.EMGR.FLOW_SRC.MBX_BASE : Fld := ⟨0xA84088, 0, 8⟩
abbrev F.EMGR.FLOW_SRC.NW : Fld := ⟨0xA84088, 8, 5⟩
abbrev F.EMGR.FLOW_SRC.ENC : Fld := ⟨0xA84088, 16, 1⟩
abbrev F.EMGR.FLOW_STAT.FSTATE : Fld := ⟨0xA84094, 0, 2⟩
abbrev F.EMGR.FLOW_STAT.REASON : Fld := ⟨0xA84094, 8, 8⟩
abbrev F.EMGR.FLOW_STAT.FLOW_ID : Fld := ⟨0xA84094, 16, 16⟩
abbrev F.EMGR.MGMT_PEND.BUSY : Fld := ⟨0xA840A0, 31, 1⟩
abbrev F.EMGR.MSG_CMD.LEN : Fld := ⟨0xA840A8, 0, 11⟩
abbrev F.EMGR.MSG_CMD.SEND : Fld := ⟨0xA840A8, 31, 1⟩
abbrev F.EMGR.MSG_STAT.BUSY : Fld := ⟨0xA840AC, 0, 1⟩
abbrev F.EMGR.MSG_STAT.DONE : Fld := ⟨0xA840AC, 1, 1⟩
abbrev F.EMGR.MSG_STAT.REFUSED : Fld := ⟨0xA840AC, 2, 1⟩
abbrev F.EMGR.MSG_STAT.REASON : Fld := ⟨0xA840AC, 8, 8⟩

end Sys2Proof.Machine
end

