-- ==== Sys2Proof/Machine/RegMap.lean ====
section
/-! DEFINITION. The register maps: for each class of page its header, and for each register its reset value and which of its
bits a write changes, from the register map and field tables of the chapters (R11, R63). -/

namespace Sys2Proof.Machine

/-- Header of a page class: reset of CAPS, CTRL, STATUS and STICKY; the CTRL bits that store a value, the CTRL bits that
carry a command, and the STICKY bits. A class whose EN reads 1 has no EN bit among the first (R63). -/
structure PageHdr where
  caps : Nat
  ctrl : Nat
  status : Nat
  sticky0 : Nat
  ctrlRw : Nat
  ctrlCmd : Nat
  sticky : Nat
deriving DecidableEq, Repr

/-- A register of a page: first offset, count and stride; reset value; the bits that take a value at once (RW), at a
commit (RWS), are cleared by 1 (W1C) or carry a command (WO); writable only in SAFE (R395). -/
structure RegRow where
  first : Nat
  count : Nat
  stride : Nat
  reset : Nat
  rw : Nat
  rws : Nat
  w1c : Nat
  wo : Nat
  safe : Bool
deriving DecidableEq, Repr

/-- Rows of the SYS register map. -/
def rowsSYS : List RegRow := [
    ⟨0x40, 1, 4, 0x0, 0x0, 0x0, 0x0, 0x0, false⟩,  -- ST_LO
    ⟨0x44, 1, 4, 0x0, 0x0, 0x0, 0x0, 0x0, false⟩,  -- ST_HI
    ⟨0x48, 1, 4, 0x0, 0x0, 0x0, 0x0, 0x0, false⟩,  -- UID_LO
    ⟨0x4C, 1, 4, 0x0, 0x0, 0x0, 0x0, 0x0, false⟩,  -- UID_HI
    ⟨0x50, 1, 4, 0x0, 0x0, 0x0, 0x0, 0x0, false⟩,  -- DEV_REV
    ⟨0x54, 1, 4, 0x1, 0x0, 0x0, 0x0, 0x0, false⟩,  -- RESET_CAUSE
    ⟨0x60, 1, 4, 0x0, 0x2, 0x0, 0x0, 0x1, false⟩,  -- GRP_CTRL
    ⟨0x64, 1, 4, 0x0, 0x0, 0x0, 0x0, 0x0, false⟩,  -- GRP_STATUS
    ⟨0x68, 1, 4, 0x0, 0xFFFFFFFF, 0x0, 0x0, 0x0, false⟩,  -- GRP_TIME_LO
    ⟨0x6C, 1, 4, 0x0, 0xFFFFFFFF, 0x0, 0x0, 0x0, false⟩,  -- GRP_TIME_HI
    ⟨0x70, 1, 4, 0x0, 0x0, 0x0, 0x0, 0x0, false⟩,  -- GRP_DONE_LO
    ⟨0x74, 1, 4, 0x0, 0x0, 0x0, 0x0, 0x0, false⟩,  -- GRP_DONE_HI
    ⟨0x80, 32, 4, 0x0, 0x80007F1F, 0x0, 0x0, 0x0, false⟩  -- GRP_MEMBER
    ]

/-- Rows of the HOST register map. -/
def rowsHOST : List RegRow := [
    ⟨0x40, 1, 4, 0x3, 0x3, 0x0, 0x0, 0x0, false⟩,  -- PORT_CFG
    ⟨0x48, 1, 4, 0x0, 0x0, 0x0, 0x0, 0x0, false⟩,  -- UNMAPPED_CNT
    ⟨0x4C, 1, 4, 0x0, 0x0, 0x0, 0x0, 0x0, false⟩,  -- SHP_STATUS
    ⟨0x50, 8, 4, 0x0, 0x87878787, 0x0, 0x0, 0x0, false⟩,  -- IRQ_MAP
    ⟨0x70, 8, 4, 0x0, 0x0, 0x0, 0x0, 0x0, false⟩,  -- LINE_PEND
    ⟨0x90, 1, 4, 0x0, 0x1F, 0x0, 0x0, 0x0, false⟩,  -- INST_SEL
    ⟨0x94, 1, 4, 0x0, 0x0, 0x0, 0x0, 0x0, false⟩,  -- INST_PEND_LO
    ⟨0x98, 1, 4, 0x0, 0x0, 0x0, 0x0, 0x0, false⟩,  -- INST_PEND_HI
    ⟨0xA0, 4, 32, 0x0, 0x3FFF, 0x0, 0x0, 0x0, false⟩,  -- MBX_DEST
    ⟨0xA4, 4, 32, 0x0, 0xFFFFFC, 0x0, 0x0, 0x0, false⟩,  -- MBX_ADDR
    ⟨0xA8, 4, 32, 0x0, 0xFFFFFFFF, 0x0, 0x0, 0x0, false⟩,  -- MBX_WDATA
    ⟨0xAC, 4, 32, 0x0, 0x0, 0x0, 0x0, 0x3, false⟩,  -- MBX_CMD
    ⟨0xB0, 4, 32, 0x0, 0x0, 0x0, 0x0, 0x0, false⟩,  -- MBX_STATUS
    ⟨0xB4, 4, 32, 0x0, 0x0, 0x0, 0x0, 0x0, false⟩,  -- MBX_RDATA
    ⟨0xB8, 4, 32, 0x0, 0x0, 0x0, 0x0, 0x0, false⟩,  -- MBX_BOUND
    ⟨0x120, 1, 4, 0x0, 0x0, 0x0, 0x0, 0x0, false⟩  -- MBX_LATE_CNT
    ]

/-- Rows of the LEASH register map. -/
def rowsLEASH0 : List RegRow := [
    ⟨0x40, 1, 4, 0x806, 0x7, 0x0, 0x0, 0x0, false⟩,  -- ADM_CFG
    ⟨0x44, 1, 4, 0x0, 0x0, 0x0, 0x0, 0x7FFFF, false⟩,  -- ADM_CMD
    ⟨0x48, 1, 4, 0x0, 0x0, 0x0, 0x0, 0x0, false⟩,  -- ADM_RESULT
    ⟨0x4C, 1, 4, 0x0, 0x0, 0x0, 0x0, 0x0, false⟩,  -- ADM_BOUND
    ⟨0x50, 1, 4, 0x0, 0x0, 0x0, 0x0, 0x0, false⟩,  -- ADM_DEADLINE
    ⟨0x54, 1, 4, 0x0, 0xF, 0x0, 0x0, 0x0, false⟩,  -- REGION_SEL
    ⟨0x58, 1, 4, 0x0, 0x0, 0x0, 0x0, 0x0, false⟩,  -- REGION_PACE
    ⟨0x5C, 1, 4, 0x0, 0x0, 0x0, 0x0, 0x0, false⟩,  -- REGION_NEED
    ⟨0x60, 1, 4, 0x3200320, 0x0, 0x0, 0x0, 0x0, false⟩,  -- REGION_VOLT
    ⟨0x64, 1, 4, 0x0, 0x0, 0x0, 0x0, 0x0, false⟩,  -- REGION_TEMP
    ⟨0x68, 1, 4, 0x0, 0x0, 0x0, 0x0, 0x0, false⟩,  -- REGION_STATUS
    ⟨0x6C, 1, 4, 0x2D00370, 0x3FF03FF, 0x0, 0x0, 0x0, false⟩,  -- VOLT_LIMIT
    ⟨0x70, 1, 4, 0x122D78, 0x0, 0x0, 0x0, 0x0, false⟩,  -- SKEW_LIMIT
    ⟨0x74, 1, 4, 0x0, 0x0, 0x0, 0x0, 0x0, false⟩,  -- REFUSE_CNT
    ⟨0x78, 1, 4, 0x0, 0x0, 0x0, 0x0, 0x0, false⟩,  -- LATE_CNT
    ⟨0x7C, 1, 4, 0x0, 0x0, 0x0, 0x0, 0x0, false⟩,  -- ATRISK_CNT
    ⟨0x80, 1, 4, 0x0, 0x0, 0x0, 0x0, 0x0, false⟩,  -- MIGR_CNT
    ⟨0x84, 1, 4, 0x0, 0x0, 0x0, 0x0, 0x0, false⟩,  -- LATE_LAST
    ⟨0x88, 1, 4, 0x0, 0x0, 0x0, 0x0, 0x0, false⟩,  -- LAST_REFUSE
    ⟨0x8C, 1, 4, 0x0, 0x0, 0x0, 0x0, 0x1F, false⟩  -- CNT_CLR
    ]

/-- Rows of the LEASH register map. -/
def rowsLEASH1 : List RegRow := [
    ⟨0x90, 1, 4, 0x0, 0x0, 0x0, 0x0, 0x0, false⟩,  -- DLMISS_CNT
    ⟨0xC0, 12, 4, 0x0, 0x0, 0x0, 0x0, 0x0, false⟩,  -- PACE_ALL
    ⟨0x100, 16, 4, 0x0, 0x0, 0x0, 0x0, 0x0, false⟩  -- AT_RISK
    ]

/-- The LEASH register map. -/
def rowsLEASH : List RegRow := rowsLEASH0 ++ rowsLEASH1

/-- Rows of the CLE register map. -/
def rowsCLE0 : List RegRow := [
    ⟨0x40, 1, 4, 0x0, 0x0, 0x0, 0x0, 0x0, false⟩,  -- PAIR_INFO
    ⟨0x44, 1, 4, 0x20004000, 0x0, 0x0, 0x0, 0x0, false⟩,  -- MEM_FREE
    ⟨0x48, 1, 4, 0x0, 0x0, 0x0, 0xFFFFFFFF, 0x0, false⟩,  -- LOOP_SAT
    ⟨0x4C, 1, 4, 0x0, 0xF, 0x0, 0x0, 0x0, false⟩,  -- SLOT_SEL
    ⟨0x50, 1, 4, 0x0, 0x0, 0x0, 0x0, 0x0, false⟩,  -- SLOT_INFO
    ⟨0x54, 1, 4, 0x0, 0x0, 0x0, 0x0, 0x0, false⟩,  -- SLOT_PMEM
    ⟨0x58, 1, 4, 0x0, 0x0, 0x0, 0x0, 0x0, false⟩,  -- SLOT_DMEM
    ⟨0x5C, 1, 4, 0x0, 0x0, 0x0, 0x0, 0x0, false⟩,  -- SLOT_COST
    ⟨0x60, 1, 4, 0x0, 0x0, 0x0, 0x0, 0x0, false⟩,  -- SLOT_WU_LAST
    ⟨0x64, 1, 4, 0x0, 0x0, 0x0, 0x0, 0x0, false⟩,  -- SLOT_WU_MAX
    ⟨0x68, 1, 4, 0x0, 0x0, 0x0, 0x0, 0x1, false⟩,  -- SLOT_CLR
    ⟨0x6C, 1, 4, 0x0, 0x0, 0x0, 0x0, 0x0, false⟩,  -- LOAD_STATUS
    ⟨0x70, 1, 4, 0x0, 0x0, 0x0, 0x0, 0x0, false⟩,  -- TRAP_INFO
    ⟨0x74, 1, 4, 0x0, 0x0, 0x0, 0x0, 0x0, false⟩,  -- TRAP_ADDR
    ⟨0x78, 1, 4, 0x0, 0x0, 0x0, 0x0, 0x0, false⟩,  -- ECC_INFO
    ⟨0x7C, 1, 4, 0x0, 0x1FFF, 0x0, 0x0, 0x0, false⟩,  -- DMEM_ADDR
    ⟨0x80, 1, 4, 0x0, 0xFFFFFFFF, 0x0, 0x0, 0x0, false⟩,  -- DMEM_DATA
    ⟨0x84, 1, 4, 0x0, 0x3FFF, 0x0, 0x0, 0x0, false⟩,  -- PMEM_ADDR
    ⟨0x88, 1, 4, 0x0, 0x0, 0x0, 0x0, 0x0, false⟩,  -- PMEM_DATA
    ⟨0x8C, 1, 4, 0x0, 0xFFFFF, 0x0, 0x0, 0x0, false⟩  -- SHM_ADDR
    ]

/-- Rows of the CLE register map. -/
def rowsCLE1 : List RegRow := [
    ⟨0x90, 1, 4, 0x0, 0xFFFFFFFF, 0x0, 0x0, 0x0, false⟩  -- SHM_DATA
    ]

/-- The CLE register map. -/
def rowsCLE : List RegRow := rowsCLE0 ++ rowsCLE1

/-- Rows of the LPD register map. -/
def rowsLPD0 : List RegRow := [
    ⟨0x800, 1, 4, 0x0, 0x1FF, 0x0, 0x0, 0x0, false⟩,  -- LPD_SEL
    ⟨0x804, 1, 4, 0x0, 0x0, 0x0, 0x0, 0x0, false⟩,  -- LPD_STATE
    ⟨0x808, 1, 4, 0x0, 0x0, 0x0, 0x0, 0x7, false⟩,  -- LPD_CMD
    ⟨0x80C, 1, 4, 0x0, 0x3FFF0F, 0x0, 0x0, 0x0, false⟩,  -- LPD_TRIG
    ⟨0x810, 1, 4, 0x0, 0xFFFFFFFF, 0x0, 0x0, 0x0, false⟩,  -- LPD_PERIOD
    ⟨0x814, 1, 4, 0x0, 0xFFFFFFFF, 0x0, 0x0, 0x0, false⟩,  -- LPD_DEADLINE
    ⟨0x818, 1, 4, 0x0, 0xFFFFFFFF, 0x0, 0x0, 0x0, false⟩,  -- LPD_PHASE
    ⟨0x81C, 1, 4, 0x0, 0x9FFFFFFF, 0x0, 0x0, 0x0, false⟩,  -- LPD_CASC
    ⟨0x820, 1, 4, 0x0, 0x3FF, 0x0, 0x0, 0x0, false⟩,  -- LPD_SPSRC
    ⟨0x824, 1, 4, 0x0, 0xFFFFFFFF, 0x0, 0x0, 0x0, false⟩,  -- LPD_SETPT
    ⟨0x828, 1, 4, 0x0, 0x1FFFFFFF, 0x0, 0x0, 0x0, false⟩,  -- LPD_RA
    ⟨0x82C, 1, 4, 0x0, 0x0, 0x0, 0x0, 0x0, false⟩,  -- LPD_PASS_COST
    ⟨0x830, 1, 4, 0x0, 0x7FFFFF, 0x0, 0x0, 0x0, false⟩,  -- LPD_OPEN
    ⟨0x834, 1, 4, 0x0, 0x3FFF, 0x0, 0x0, 0x0, false⟩,  -- LPD_SDOG
    ⟨0x838, 1, 4, 0x0, 0x0, 0x0, 0x7FF, 0x0, false⟩,  -- LPD_FLAGS
    ⟨0x83C, 1, 4, 0x0, 0x0, 0x0, 0x0, 0x0, false⟩,  -- LPD_MISS_CNT
    ⟨0x840, 1, 4, 0x0, 0x0, 0x0, 0x0, 0x0, false⟩,  -- LPD_RA_CNT
    ⟨0x844, 1, 4, 0x0, 0x0, 0x0, 0x0, 0x0, false⟩,  -- LPD_DROP_CNT
    ⟨0x848, 1, 4, 0x0, 0x0, 0x0, 0x0, 0x0, false⟩,  -- LPD_SDOG_STAT
    ⟨0x84C, 1, 4, 0x0, 0x0, 0x0, 0x0, 0x7, false⟩  -- LPD_CNT_CLR
    ]

/-- Rows of the LPD register map. -/
def rowsLPD1 : List RegRow := [
    ⟨0x850, 1, 4, 0x0, 0x0, 0x0, 0x0, 0x0, false⟩,  -- LPD_LAST_LO
    ⟨0x854, 1, 4, 0x0, 0x0, 0x0, 0x0, 0x0, false⟩  -- LPD_LAST_HI
    ]

/-- The LPD register map. -/
def rowsLPD : List RegRow := rowsLPD0 ++ rowsLPD1

/-- Rows of the PAIRCMP register map. -/
def rowsPAIRCMP : List RegRow := [
    ⟨0x40, 1, 4, 0x641410, 0xFF1F1F, 0x0, 0x0, 0x0, false⟩,  -- CMP_CFG
    ⟨0x44, 1, 4, 0x0, 0x0, 0x0, 0x0, 0x0, false⟩,  -- MISMATCH_INFO
    ⟨0x48, 1, 4, 0x0, 0x0, 0x0, 0x0, 0x0, false⟩,  -- MISMATCH_ADDR
    ⟨0x4C, 1, 4, 0x0, 0x0, 0x0, 0x0, 0x0, false⟩,  -- MISMATCH_ST_LO
    ⟨0x50, 1, 4, 0x0, 0x0, 0x0, 0x0, 0x0, false⟩,  -- MISMATCH_ST_HI
    ⟨0x54, 1, 4, 0x0, 0x0, 0x0, 0x0, 0x0, false⟩,  -- SIG_A
    ⟨0x58, 1, 4, 0x0, 0x0, 0x0, 0x0, 0x0, false⟩,  -- SIG_B
    ⟨0x5C, 1, 4, 0x0, 0x0, 0x0, 0x0, 0x0, false⟩,  -- SIG_STATUS
    ⟨0x60, 1, 4, 0x0, 0x0, 0x0, 0x0, 0x0, false⟩,  -- IND_CNT
    ⟨0x64, 1, 4, 0x0, 0x0, 0x0, 0x0, 0x0, false⟩,  -- ADIV_CNT
    ⟨0x68, 1, 4, 0x0, 0x0, 0x0, 0x0, 0x0, false⟩,  -- MIG_STALE_CNT
    ⟨0x6C, 1, 4, 0x0, 0x0, 0x0, 0x0, 0x0, false⟩,  -- MISMATCH_CNT
    ⟨0x70, 1, 4, 0x0, 0x0, 0x0, 0x0, 0x0, false⟩,  -- TEST_RESULT
    ⟨0x74, 1, 4, 0xFFFF, 0x0, 0x0, 0x0, 0x0, false⟩,  -- TEST_AGE
    ⟨0x78, 1, 4, 0x0, 0x0, 0x0, 0x0, 0x0, false⟩,  -- MIG_STATUS
    ⟨0x7C, 1, 4, 0x0, 0x0, 0x0, 0x0, 0xF, false⟩  -- CNT_CLR
    ]

/-- Rows of the ISN register map. -/
def rowsISN0 : List RegRow := [
    ⟨0x40, 1, 4, 0x3C, 0xFFF, 0x0, 0x0, 0x0, true⟩,  -- ISN_CFG
    ⟨0x44, 1, 4, 0x0, 0xFFFFFFFF, 0x0, 0x0, 0x0, false⟩,  -- CFG_CRC
    ⟨0x48, 1, 4, 0x0, 0x0, 0x0, 0x0, 0x0, false⟩,  -- CFG_CRC_ACT
    ⟨0x4C, 1, 4, 0x8000, 0xFFFF, 0x0, 0x0, 0x0, true⟩,  -- DEG_LIM
    ⟨0x50, 1, 4, 0x0, 0xFFFFFFFF, 0x0, 0x0, 0x0, true⟩,  -- DEG_SPD
    ⟨0x54, 1, 4, 0x0, 0x80FFFFFF, 0x0, 0x0, 0x0, true⟩,  -- LIM_MBX
    ⟨0x58, 1, 4, 0x0, 0xFFFFFFFF, 0x0, 0x0, 0x0, true⟩,  -- SS_CHOICE
    ⟨0x5C, 1, 4, 0xA0000, 0xFFFFFFFF, 0x0, 0x0, 0x0, true⟩,  -- ASC_CFG
    ⟨0x60, 1, 4, 0x0, 0x0, 0x0, 0x0, 0x0, false⟩,  -- SS_STAT
    ⟨0x64, 1, 4, 0x0, 0x0, 0x0, 0x0, 0x0, false⟩,  -- DEG_TIME
    ⟨0x68, 1, 4, 0x0, 0x0, 0x0, 0x0, 0x0, false⟩,  -- FAULT_ACT
    ⟨0x6C, 1, 4, 0x0, 0x0, 0x0, 0xFFFFFFFF, 0x0, false⟩,  -- FAULT_SEEN
    ⟨0x70, 1, 4, 0x0, 0xFFFFFFFF, 0x0, 0x0, 0x0, true⟩,  -- CLASS0
    ⟨0x74, 1, 4, 0x0, 0xFFFFFFFF, 0x0, 0x0, 0x0, true⟩,  -- CLASS1
    ⟨0x78, 1, 4, 0x0, 0x0, 0x0, 0x0, 0x0, false⟩,  -- LAST_FAULT
    ⟨0x7C, 1, 4, 0x0, 0x0, 0x0, 0x0, 0x0, false⟩,  -- LAST_ST_LO
    ⟨0x80, 1, 4, 0x0, 0x0, 0x0, 0x0, 0x0, false⟩,  -- LAST_ST_HI
    ⟨0x84, 1, 4, 0x1388, 0x0, 0x0, 0x0, 0x0, false⟩,  -- OSC_STAT
    ⟨0x88, 1, 4, 0x0, 0x0, 0x0, 0x0, 0x0, false⟩,  -- WD_STAT
    ⟨0x8C, 1, 4, 0x0, 0x0, 0x0, 0x0, 0x0, false⟩  -- ENTRY_CNT
    ]

/-- Rows of the ISN register map. -/
def rowsISN1 : List RegRow := [
    ⟨0x90, 1, 4, 0x0, 0x0, 0x0, 0x0, 0x1, false⟩  -- CNT_CLR
    ]

/-- The ISN register map. -/
def rowsISN : List RegRow := rowsISN0 ++ rowsISN1

/-- Rows of the ADC register map. -/
def rowsADC : List RegRow := [
    ⟨0x40, 1, 4, 0x0, 0x0, 0x0, 0x0, 0x31F, false⟩,  -- ADM_CMD
    ⟨0x44, 1, 4, 0x0, 0x0, 0x0, 0x0, 0x0, false⟩,  -- ADM_RESULT
    ⟨0x48, 1, 4, 0x0, 0x0, 0x0, 0x0, 0x0, false⟩,  -- ADMITTED
    ⟨0x4C, 1, 4, 0x0, 0x0, 0x0, 0x0, 0x0, false⟩,  -- PENDING
    ⟨0x50, 1, 4, 0x0, 0x0, 0x0, 0x0, 0x0, false⟩,  -- URG_DROP_CNT
    ⟨0x54, 1, 4, 0x0, 0x0, 0x0, 0x0, 0x0, false⟩,  -- EARLY_CNT
    ⟨0x58, 1, 4, 0x0, 0x0, 0x0, 0x0, 0x0, false⟩,  -- LATE_CNT
    ⟨0x5C, 1, 4, 0x0, 0x0, 0x0, 0x0, 0xF, false⟩,  -- CNT_CLR
    ⟨0x60, 1, 4, 0x0, 0x0, 0x0, 0x0, 0xFFFFFFFF, false⟩,  -- HOST_TRIG
    ⟨0x64, 1, 4, 0x0, 0x0, 0x0, 0x0, 0x0, false⟩,  -- CONV_CNT
    ⟨0x68, 1, 4, 0x0, 0x0, 0x0, 0xFFFFFFFF, 0x0, false⟩,  -- CLIP_MAP
    ⟨0x100, 32, 4, 0x0, 0x0, 0x0, 0x0, 0x0, false⟩,  -- RES
    ⟨0x180, 32, 4, 0x0, 0x0, 0x0, 0x0, 0x0, false⟩,  -- TS
    ⟨0x200, 32, 16, 0x0, 0xFFFFFF07, 0x0, 0x0, 0x0, false⟩,  -- ETRIG
    ⟨0x204, 32, 16, 0x500, 0x7FFFFFF, 0x0, 0x0, 0x0, false⟩,  -- ECONV
    ⟨0x208, 32, 16, 0x2710, 0xFFFFFFFF, 0x0, 0x0, 0x0, false⟩,  -- EPER
    ⟨0x20C, 32, 16, 0x3E8, 0xFFFFFFFF, 0x0, 0x0, 0x0, false⟩  -- EDL
    ]

/-- Rows of the CMPG register map. -/
def rowsCMPG : List RegRow := [
    ⟨0x40, 1, 4, 0x0, 0x0, 0x0, 0x0, 0x0, false⟩,  -- CMP_STAT
    ⟨0x44, 1, 4, 0x0, 0x0, 0x0, 0x0, 0xFF, false⟩,  -- LATCH_CLR
    ⟨0x48, 1, 4, 0x0, 0x0, 0x0, 0xFF, 0x0, false⟩,  -- FIRST_MID
    ⟨0x4C, 1, 4, 0x0, 0x0, 0x0, 0x0, 0x0, false⟩,  -- IN_BAND
    ⟨0x50, 1, 4, 0x0, 0xFF, 0x0, 0x0, 0x0, false⟩,  -- WCFG
    ⟨0x60, 8, 4, 0x0, 0x0, 0x0, 0x0, 0x0, false⟩,  -- LATCH_CNT
    ⟨0x80, 1, 4, 0x0, 0x0, 0x0, 0x0, 0xFF, false⟩,  -- CNT_CLR
    ⟨0x100, 8, 32, 0x0, 0x3FFF, 0x0, 0x0, 0x0, false⟩,  -- CCFG
    ⟨0x104, 8, 32, 0x200, 0x0, 0x3FF, 0x0, 0x0, false⟩,  -- CTH
    ⟨0x108, 8, 32, 0x3F, 0x3FF007F, 0x0, 0x0, 0x0, false⟩,  -- CBLANK
    ⟨0x10C, 8, 32, 0x0, 0x3F7F, 0x0, 0x0, 0x0, false⟩,  -- CTRIP
    ⟨0x110, 8, 32, 0x0, 0x0, 0x0, 0x0, 0x0, false⟩  -- CSTAT
    ]

/-- Rows of the DAC register map. -/
def rowsDAC : List RegRow := [
    ⟨0x40, 8, 16, 0x0, 0x7, 0x0, 0x0, 0x0, false⟩,  -- DCFG
    ⟨0x44, 8, 16, 0x0, 0xFFF, 0x0, 0x0, 0x0, false⟩,  -- DCODE
    ⟨0x48, 8, 16, 0x2710, 0xFFFFFFFF, 0x0, 0x0, 0x0, false⟩,  -- DFREQ
    ⟨0x4C, 8, 16, 0x8000400, 0xFFF0FFF, 0x0, 0x0, 0x0, false⟩,  -- DSINE
    ⟨0xC0, 8, 4, 0x0, 0x0, 0x0, 0x0, 0x0, false⟩  -- DPHASE
    ]

/-- Rows of the PFU register map. -/
def rowsPFU0 : List RegRow := [
    ⟨0x40, 1, 4, 0x10000, 0x3F0FFF, 0x0, 0x0, 0x0, false⟩,  -- PFCFG
    ⟨0x44, 1, 4, 0x1000, 0xFFFFFF, 0x0, 0x0, 0x0, false⟩,  -- CPR
    ⟨0x48, 1, 4, 0x0, 0xFFFFFF, 0x0, 0x0, 0x0, false⟩,  -- ZPOS
    ⟨0x4C, 1, 4, 0x0, 0xFFFFFFFF, 0x0, 0x0, 0x0, false⟩,  -- EOFS
    ⟨0x50, 1, 4, 0xA, 0x3FF, 0x0, 0x0, 0x0, false⟩,  -- OBS_T
    ⟨0x54, 3, 4, 0x0, 0xFFFFFFFF, 0x0, 0x0, 0x0, false⟩,  -- OBS_L
    ⟨0x60, 1, 4, 0x10000000, 0xFFFFFFFF, 0x0, 0x0, 0x0, false⟩,  -- INNOV_LIM
    ⟨0x64, 1, 4, 0x8, 0xFF, 0x0, 0x0, 0x0, false⟩,  -- INNOV_N
    ⟨0x68, 1, 4, 0x0, 0x0, 0x0, 0x0, 0x0, false⟩,  -- COUNT
    ⟨0x6C, 1, 4, 0x0, 0x0, 0x0, 0x0, 0x0, false⟩,  -- CAPT
    ⟨0x70, 1, 4, 0x0, 0x0, 0x0, 0x0, 0x0, false⟩,  -- CAPT_TS
    ⟨0x74, 1, 4, 0x0, 0xFF, 0x0, 0x0, 0x0, false⟩,  -- CAPT_CFG
    ⟨0x78, 1, 4, 0x0, 0x0, 0x0, 0x0, 0x0, false⟩,  -- PFU_STAT
    ⟨0x80, 1, 4, 0x0, 0x0, 0x0, 0x0, 0x0, false⟩,  -- ANGLE
    ⟨0x84, 1, 4, 0x0, 0x0, 0x0, 0x0, 0x0, false⟩,  -- SPEED
    ⟨0x88, 1, 4, 0x0, 0x0, 0x0, 0x0, 0x0, false⟩,  -- ACCEL
    ⟨0x8C, 1, 4, 0x0, 0x0, 0x0, 0x0, 0x0, false⟩,  -- INNOV
    ⟨0x90, 1, 4, 0x0, 0x0, 0x0, 0x0, 0x0, false⟩,  -- OBS_TS
    ⟨0xA0, 1, 4, 0x66414, 0x7FFFFF, 0x0, 0x0, 0x0, false⟩,  -- ENC_CFG
    ⟨0xA4, 1, 4, 0x640, 0x7FFFFFFF, 0x0, 0x0, 0x0, false⟩  -- ENC_FIELD
    ]

/-- Rows of the PFU register map. -/
def rowsPFU1 : List RegRow := [
    ⟨0xA8, 1, 4, 0x30014, 0xFFFFFFFF, 0x0, 0x0, 0x0, false⟩,  -- ENC_TIME
    ⟨0xAC, 1, 4, 0x3E80, 0xFFFFFFFF, 0x0, 0x0, 0x0, false⟩,  -- FRAME_PER
    ⟨0xB0, 1, 4, 0x0, 0x0, 0x0, 0x0, 0x0, false⟩,  -- ENC_RAW_LO
    ⟨0xB4, 1, 4, 0x0, 0x0, 0x0, 0x0, 0x0, false⟩,  -- ENC_RAW_HI
    ⟨0xB8, 1, 4, 0x0, 0x0, 0x0, 0x0, 0x0, false⟩,  -- ENC_DELAY
    ⟨0xBC, 1, 4, 0x0, 0x0, 0x0, 0x0, 0x0, false⟩,  -- ENC_ERR_CNT
    ⟨0xC0, 1, 4, 0x0, 0x7FFFFF, 0x0, 0x0, 0x0, false⟩,  -- RSLV_CFG
    ⟨0xC4, 1, 4, 0x0, 0xFFFF, 0x0, 0x0, 0x0, false⟩,  -- RSLV_PHI
    ⟨0xC8, 1, 4, 0x70001000, 0xFFFFFFFF, 0x0, 0x0, 0x0, false⟩,  -- RSLV_MAG
    ⟨0xCC, 1, 4, 0x0, 0x0, 0x0, 0x0, 0x0, false⟩,  -- RSLV_AMP
    ⟨0xD0, 1, 4, 0x1388, 0xFFFFFFFF, 0x0, 0x0, 0x0, false⟩,  -- CABLE_CFG
    ⟨0xD4, 1, 4, 0x20000, 0x0, 0x0, 0x0, 0x0, false⟩,  -- CABLE
    ⟨0xD8, 1, 4, 0x320000, 0xFFFFFFFF, 0x0, 0x0, 0x0, false⟩,  -- CABLE_REF
    ⟨0xDC, 1, 4, 0x0, 0x0, 0x0, 0x0, 0x0, false⟩,  -- QERR_CNT
    ⟨0xE0, 1, 4, 0x0, 0x0, 0x0, 0x0, 0x0, false⟩,  -- CMP_FIRE_CNT
    ⟨0xE4, 1, 4, 0x0, 0x0, 0x0, 0x0, 0x7, false⟩,  -- CNT_CLR
    ⟨0x100, 1, 4, 0x17E, 0x1FFFF, 0x0, 0x0, 0x0, false⟩,  -- CMPL_CFG
    ⟨0x104, 1, 4, 0x0, 0x0, 0x0, 0x0, 0x0, false⟩,  -- CMPL_STAT
    ⟨0x108, 1, 4, 0x0, 0x0, 0x0, 0xFFFFFFFF, 0x0, false⟩,  -- CMPL_FIRED_LO
    ⟨0x10C, 1, 4, 0x0, 0x0, 0x0, 0xFFFFFFFF, 0x0, false⟩  -- CMPL_FIRED_HI
    ]

/-- Rows of the PFU register map. -/
def rowsPFU2 : List RegRow := [
    ⟨0x400, 64, 8, 0x0, 0xFFFFFFFF, 0x0, 0x0, 0x0, false⟩,  -- CMPE_POS
    ⟨0x404, 64, 8, 0x0, 0xFF07FF, 0x0, 0x0, 0x0, false⟩  -- CMPE_CFG
    ]

/-- The PFU register map. -/
def rowsPFU : List RegRow := rowsPFU0 ++ rowsPFU1 ++ rowsPFU2

/-- Rows of the PG register map. -/
def rowsPG : List RegRow := [
    ⟨0x40, 1, 4, 0x0, 0x1FFF, 0x0, 0x0, 0x0, false⟩,  -- PGCFG
    ⟨0x44, 1, 4, 0x138800, 0x0, 0xFFFFFFFF, 0x0, 0x0, false⟩,  -- PERIOD
    ⟨0x48, 1, 4, 0x0, 0x0, 0xFFFFFFFF, 0x0, 0x0, false⟩,  -- DUTY
    ⟨0x4C, 1, 4, 0x0, 0x0, 0xFFFFFFFF, 0x0, 0x0, false⟩,  -- PHASE
    ⟨0x50, 1, 4, 0x3200, 0x0, 0xFFFF, 0x0, 0x0, false⟩,  -- DT_HL
    ⟨0x54, 1, 4, 0x3200, 0x0, 0xFFFF, 0x0, 0x0, false⟩,  -- DT_LH
    ⟨0x58, 1, 4, 0x500, 0xFFFF, 0x0, 0x0, 0x0, false⟩,  -- MIN_PW
    ⟨0x5C, 1, 4, 0x0, 0x1, 0x0, 0x0, 0x0, false⟩,  -- SRC
    ⟨0x60, 1, 4, 0x0, 0x0, 0x0, 0x0, 0x0, false⟩,  -- PG_STAT
    ⟨0x64, 1, 4, 0x138800, 0x0, 0x0, 0x0, 0x0, false⟩,  -- PERIOD_ACT
    ⟨0x68, 1, 4, 0x0, 0x0, 0x0, 0x0, 0x0, false⟩,  -- DUTY_ACT
    ⟨0x6C, 1, 4, 0x0, 0x0, 0x0, 0x0, 0x0, false⟩,  -- PHASE_ACT
    ⟨0x70, 1, 4, 0x0, 0x0, 0x0, 0x0, 0x0, false⟩,  -- NEXT_PP
    ⟨0x74, 1, 4, 0x0, 0x3, 0x0, 0x0, 0x0, false⟩,  -- HFORCE
    ⟨0x78, 1, 4, 0x0, 0x0, 0x0, 0x0, 0x0, false⟩,  -- INTLK_CNT
    ⟨0x7C, 1, 4, 0x0, 0x0, 0x0, 0x0, 0x0, false⟩,  -- TRIP_CNT
    ⟨0x80, 1, 4, 0x0, 0x0, 0x0, 0x0, 0x0, false⟩,  -- MINPW_CNT
    ⟨0x84, 1, 4, 0x0, 0x0, 0x0, 0x0, 0x7, false⟩  -- CNT_CLR
    ]

/-- Rows of the GLNK register map. -/
def rowsGLNK : List RegRow := [
    ⟨0x40, 1, 4, 0x0, 0x0, 0x0, 0x0, 0x0, false⟩,  -- LINK_STATE
    ⟨0x44, 1, 4, 0x0, 0x0, 0x0, 0xFF, 0x0, false⟩,  -- DESAT_MAP
    ⟨0x48, 1, 4, 0x0, 0x0, 0x0, 0xFF, 0x0, false⟩,  -- LOST_MAP
    ⟨0x4C, 1, 4, 0x0, 0x0, 0x0, 0x0, 0xFF, false⟩,  -- CNT_CLR
    ⟨0x100, 8, 64, 0x0, 0xFFFFF, 0x0, 0x0, 0x0, false⟩,  -- LCFG
    ⟨0x104, 8, 64, 0x330C5A, 0xFFFFFFF, 0x0, 0x0, 0x0, false⟩,  -- DRV_CFG
    ⟨0x108, 8, 64, 0x600, 0xFFFF, 0x0, 0x0, 0x0, false⟩,  -- ADV
    ⟨0x10C, 8, 64, 0x640064, 0x3FFFFFF, 0x0, 0x0, 0x0, false⟩,  -- TMO
    ⟨0x110, 8, 64, 0x7D03A98, 0xFFFFFFFF, 0x0, 0x0, 0x0, false⟩,  -- VGS_LIM
    ⟨0x114, 8, 64, 0x0, 0x0, 0x0, 0x0, 0x0, false⟩,  -- LSTAT
    ⟨0x118, 8, 64, 0x0, 0x0, 0x0, 0x0, 0x0, false⟩,  -- VGS
    ⟨0x11C, 8, 64, 0x0, 0x0, 0x0, 0x0, 0x0, false⟩,  -- DTEMP
    ⟨0x120, 8, 64, 0x0, 0x0, 0x0, 0x0, 0x0, false⟩,  -- DSUPPLY
    ⟨0x124, 8, 64, 0x0, 0x0, 0x0, 0x0, 0xFFFFFFF, false⟩,  -- CMD_TX
    ⟨0x128, 8, 64, 0x0, 0x0, 0x0, 0x0, 0x0, false⟩,  -- CMD_STAT
    ⟨0x12C, 8, 64, 0x0, 0x0, 0x0, 0x0, 0x0, false⟩,  -- RX_DATA
    ⟨0x130, 8, 64, 0x0, 0x0, 0x0, 0x0, 0x0, false⟩,  -- LOOP_RTT
    ⟨0x134, 8, 64, 0x0, 0x0, 0x0, 0x0, 0x0, false⟩,  -- ERR_CNT
    ⟨0x138, 8, 64, 0x0, 0x0, 0x0, 0x0, 0x0, false⟩,  -- EVT_CNT
    ⟨0x13C, 8, 64, 0x0, 0x0, 0x0, 0x0, 0x0, false⟩  -- DESAT_INFO
    ]

/-- Rows of the LVDRV register map. -/
def rowsLVDRV : List RegRow := [
    ⟨0x40, 1, 4, 0x503333, 0xFFFFFFF, 0x0, 0x0, 0x0, false⟩,  -- DCFG
    ⟨0x44, 1, 4, 0x0, 0xFFF, 0x0, 0x0, 0x0, false⟩,  -- UV_CFG
    ⟨0x48, 1, 4, 0x0, 0x0, 0x0, 0x0, 0x0, false⟩,  -- SUPPLY
    ⟨0x4C, 1, 4, 0x0, 0x0, 0x0, 0x0, 0x0, false⟩,  -- DSTAT
    ⟨0x50, 1, 4, 0x0, 0x0, 0x0, 0x0, 0x0, false⟩,  -- QG
    ⟨0x54, 1, 4, 0xFFFF0000, 0xFFFFFFFF, 0x0, 0x0, 0x0, false⟩,  -- QG_LIM
    ⟨0x58, 1, 4, 0x14, 0x1FF, 0x0, 0x0, 0x0, false⟩,  -- GSENSE
    ⟨0x5C, 1, 4, 0x0, 0x0, 0x0, 0x0, 0x0, false⟩,  -- UV_CNT
    ⟨0x60, 1, 4, 0x0, 0x0, 0x0, 0x0, 0x0, false⟩,  -- FLT_CNT
    ⟨0x64, 1, 4, 0x0, 0x0, 0x0, 0x0, 0x3, false⟩  -- CNT_CLR
    ]

/-- Rows of the TRIP register map. -/
def rowsTRIP : List RegRow := [
    ⟨0x40, 1, 4, 0x0, 0x0, 0x0, 0x0, 0x0, false⟩,  -- LINE_ACTIVE
    ⟨0x44, 1, 4, 0x0, 0x0, 0x0, 0xFFFFFFFF, 0x0, false⟩,  -- LINE_SEEN
    ⟨0x48, 1, 4, 0x0, 0xFFFFFFFF, 0x0, 0x0, 0x0, false⟩,  -- SW_FORCE
    ⟨0x4C, 1, 4, 0x0, 0x0, 0x0, 0x0, 0x0, false⟩,  -- SC_EVENT
    ⟨0x50, 1, 4, 0x0, 0x0, 0x0, 0x0, 0x0, false⟩,  -- SC_ST_LO
    ⟨0x54, 1, 4, 0x0, 0x0, 0x0, 0x0, 0x0, false⟩,  -- SC_ST_HI
    ⟨0x58, 1, 4, 0x0, 0x0, 0x0, 0x0, 0x0, false⟩,  -- SC_CNT
    ⟨0x5C, 1, 4, 0x0, 0x0, 0x0, 0x0, 0x1, false⟩,  -- CNT_CLR
    ⟨0x60, 1, 4, 0x0, 0x0, 0x0, 0x0, 0x0, false⟩,  -- SCP_BROKEN_LO
    ⟨0x64, 1, 4, 0x0, 0x0, 0x0, 0x0, 0x0, false⟩,  -- SCP_BROKEN_HI
    ⟨0x80, 8, 4, 0x50500, 0xFFFFFF1F, 0x0, 0x0, 0x0, false⟩,  -- GRP_SC
    ⟨0x100, 32, 16, 0x0, 0xFFFFFFFF, 0x0, 0x0, 0x0, false⟩,  -- LACT0
    ⟨0x104, 32, 16, 0x0, 0xFFFFFFFF, 0x0, 0x0, 0x0, false⟩,  -- LACT1
    ⟨0x108, 32, 16, 0x0, 0xFFFF, 0x0, 0x0, 0x0, false⟩,  -- LACT2
    ⟨0x10C, 32, 16, 0x0, 0x7, 0x0, 0x0, 0x0, false⟩,  -- LCFG
    ⟨0x300, 40, 4, 0x0, 0xBFFFFFFF, 0x0, 0x0, 0x0, false⟩  -- SCP
    ]

/-- Rows of the CONV register map. -/
def rowsCONV0 : List RegRow := [
    ⟨0x40, 1, 4, 0x0, 0x3F7, 0x0, 0x0, 0x0, false⟩,  -- CVCFG
    ⟨0x44, 1, 4, 0x0, 0xBFBFBFBF, 0x0, 0x0, 0x0, false⟩,  -- PH_MAP0
    ⟨0x48, 1, 4, 0x0, 0xBFBFBFBF, 0x0, 0x0, 0x0, false⟩,  -- PH_MAP1
    ⟨0x4C, 4, 4, 0x0, 0x83FF83FF, 0x0, 0x0, 0x0, false⟩,  -- PH_ISEN
    ⟨0x5C, 1, 4, 0x0, 0x83FF03FF, 0x0, 0x0, 0x0, false⟩,  -- VSENSE
    ⟨0x60, 1, 4, 0x0, 0x83FF, 0x0, 0x0, 0x0, false⟩,  -- ITSENSE
    ⟨0x64, 1, 4, 0x0, 0xFFFFFFFF, 0x0, 0x0, 0x0, false⟩,  -- VSCALE
    ⟨0x68, 1, 4, 0x80000000, 0xFFFFFFFF, 0x0, 0x0, 0x0, false⟩,  -- ISCALE
    ⟨0x6C, 1, 4, 0x0, 0x0, 0xFFFFFF, 0x0, 0x0, false⟩,  -- VTARGET
    ⟨0x70, 1, 4, 0x0, 0x0, 0xFF, 0x0, 0x0, false⟩,  -- LOADLINE
    ⟨0x74, 1, 4, 0xA, 0x3FF, 0x0, 0x0, 0x0, false⟩,  -- SOFTSTART
    ⟨0x78, 1, 4, 0x30640A, 0xF3FFFF, 0x0, 0x0, 0x0, false⟩,  -- HICCUP
    ⟨0x7C, 1, 4, 0xA4000, 0xFFFFFF01, 0x0, 0x0, 0x0, false⟩,  -- BALANCE
    ⟨0x80, 1, 4, 0x321000, 0xFFFFFF0F, 0x0, 0x0, 0x0, false⟩,  -- SHED
    ⟨0x84, 1, 4, 0x0, 0xFFFFFFFF, 0x0, 0x0, 0x0, false⟩,  -- SHED_I
    ⟨0x88, 1, 4, 0x0, 0xFFFFFFFF, 0x0, 0x0, 0x0, false⟩,  -- STEP
    ⟨0x8C, 1, 4, 0x0, 0x1FFFFFF, 0x0, 0x0, 0x0, false⟩,  -- INLOSS
    ⟨0x90, 1, 4, 0x0, 0x0, 0x0, 0x0, 0x0, false⟩,  -- CV_STAT
    ⟨0x94, 1, 4, 0x0, 0x0, 0x0, 0x0, 0x0, false⟩,  -- VMEAS
    ⟨0x98, 1, 4, 0x0, 0x0, 0x0, 0x0, 0x0, false⟩  -- IMEAS
    ]

/-- Rows of the CONV register map. -/
def rowsCONV1 : List RegRow := [
    ⟨0x9C, 1, 4, 0x0, 0x0, 0x0, 0x0, 0x0, false⟩,  -- VREF_ACT
    ⟨0xA0, 1, 4, 0x0, 0x0, 0x0, 0x0, 0x0, false⟩,  -- VINMEAS
    ⟨0xA4, 4, 4, 0x0, 0x0, 0x0, 0x0, 0x0, false⟩,  -- TRIM
    ⟨0xB4, 1, 4, 0x0, 0x0, 0x0, 0x0, 0x0, false⟩,  -- HIC_CNT
    ⟨0xB8, 1, 4, 0x0, 0x0, 0x0, 0x0, 0x0, false⟩,  -- SHED_CNT
    ⟨0xBC, 1, 4, 0x0, 0x0, 0x0, 0x0, 0x0, false⟩,  -- CL_CNT
    ⟨0xC0, 1, 4, 0x0, 0x0, 0x0, 0x0, 0x7, false⟩  -- CNT_CLR
    ]

/-- The CONV register map. -/
def rowsCONV : List RegRow := rowsCONV0 ++ rowsCONV1

/-- Rows of the CHGSEQ register map. -/
def rowsCHGSEQ0 : List RegRow := [
    ⟨0x40, 1, 4, 0x0, 0x3F7FFF, 0x0, 0x0, 0x0, false⟩,  -- SQCFG
    ⟨0x44, 1, 4, 0x0, 0x3FF03FF, 0x0, 0x0, 0x0, false⟩,  -- MSENSE
    ⟨0x48, 1, 4, 0xC35000, 0xFFFFFFFF, 0x0, 0x0, 0x0, false⟩,  -- VGAIN
    ⟨0x4C, 1, 4, 0x17D78400, 0xFFFFFFFF, 0x0, 0x0, 0x0, false⟩,  -- IGAIN
    ⟨0x50, 1, 4, 0x8000, 0xFFFF, 0x0, 0x0, 0x0, false⟩,  -- MZERO
    ⟨0x54, 1, 4, 0x0, 0x1F, 0x0, 0x0, 0x0, false⟩,  -- TSENSE
    ⟨0x58, 1, 4, 0x0, 0xFFFFFF, 0x0, 0x0, 0x0, false⟩,  -- VMAX
    ⟨0x5C, 1, 4, 0x0, 0xFFFFFF, 0x0, 0x0, 0x0, false⟩,  -- VMIN
    ⟨0x60, 1, 4, 0x0, 0xFFFFFF, 0x0, 0x0, 0x0, false⟩,  -- IMAXS
    ⟨0x64, 1, 4, 0x0, 0xFFFF, 0x0, 0x0, 0x0, false⟩,  -- TMAX
    ⟨0x68, 1, 4, 0xA, 0xFFFF, 0x0, 0x0, 0x0, false⟩,  -- DCIR_T
    ⟨0x6C, 1, 4, 0x0, 0x0, 0x0, 0x0, 0x3, false⟩,  -- SQ_CMD
    ⟨0x70, 1, 4, 0x0, 0x0, 0x0, 0x0, 0x0, false⟩,  -- SQ_STAT
    ⟨0x74, 1, 4, 0x0, 0x0, 0x0, 0x0, 0x0, false⟩,  -- STEP_TIME
    ⟨0x78, 1, 4, 0x0, 0x0, 0x0, 0x0, 0x0, false⟩,  -- VMEAS
    ⟨0x7C, 1, 4, 0x0, 0x0, 0x0, 0x0, 0x0, false⟩,  -- IMEAS
    ⟨0x80, 1, 4, 0x0, 0x0, 0x0, 0x0, 0x0, false⟩,  -- CHG_LO
    ⟨0x84, 1, 4, 0x0, 0x0, 0x0, 0x0, 0x0, false⟩,  -- CHG_HI
    ⟨0x88, 1, 4, 0x0, 0x0, 0x0, 0x0, 0x0, false⟩,  -- CAP_LO
    ⟨0x8C, 1, 4, 0x0, 0x0, 0x0, 0x0, 0x0, false⟩  -- CAP_HI
    ]

/-- Rows of the CHGSEQ register map. -/
def rowsCHGSEQ1 : List RegRow := [
    ⟨0x90, 1, 4, 0x0, 0x0, 0x0, 0x0, 0x0, false⟩,  -- EN_IN
    ⟨0x94, 1, 4, 0x0, 0x0, 0x0, 0x0, 0x0, false⟩,  -- EN_OUT
    ⟨0x98, 8, 4, 0x0, 0x0, 0x0, 0x0, 0x0, false⟩,  -- OCV
    ⟨0xB8, 1, 4, 0x0, 0x0, 0x0, 0x0, 0x0, false⟩,  -- OCV_N
    ⟨0xBC, 1, 4, 0x0, 0x0, 0x0, 0x0, 0x0, false⟩,  -- DCIR
    ⟨0xC0, 1, 4, 0x0, 0x0, 0x0, 0x0, 0x0, false⟩,  -- SD
    ⟨0xC4, 1, 4, 0x0, 0x0, 0x0, 0x0, 0x0, false⟩,  -- GRADE
    ⟨0x200, 128, 4, 0x0, 0xFFFFFFFF, 0x0, 0x0, 0x0, false⟩,  -- STEP
    ⟨0x400, 64, 16, 0x0, 0x0, 0x0, 0x0, 0x0, false⟩,  -- ZF
    ⟨0x404, 64, 16, 0x0, 0x0, 0x0, 0x0, 0x0, false⟩,  -- ZRE
    ⟨0x408, 64, 16, 0x0, 0x0, 0x0, 0x0, 0x0, false⟩,  -- ZIM
    ⟨0x40C, 64, 16, 0x0, 0x0, 0x0, 0x0, 0x0, false⟩  -- ZSTAT
    ]

/-- The CHGSEQ register map. -/
def rowsCHGSEQ : List RegRow := rowsCHGSEQ0 ++ rowsCHGSEQ1

/-- Rows of the THERM register map. -/
def rowsTHERM0 : List RegRow := [
    ⟨0x40, 1, 4, 0x3, 0x3, 0x0, 0x0, 0x0, false⟩,  -- TCFG
    ⟨0x44, 1, 4, 0x0, 0x3F, 0x0, 0x0, 0x0, false⟩,  -- CH_SEL
    ⟨0x48, 1, 4, 0x0, 0xFF3, 0x0, 0x0, 0x0, false⟩,  -- CH_CFG
    ⟨0x4C, 1, 4, 0x0, 0xFFFFFFFF, 0x0, 0x0, 0x0, false⟩,  -- CH_LIM
    ⟨0x50, 1, 4, 0x0, 0xFFFFFFFF, 0x0, 0x0, 0x0, false⟩,  -- CH_RATE
    ⟨0x54, 1, 4, 0x0, 0x0, 0x0, 0x0, 0x0, false⟩,  -- CH_RISE
    ⟨0x58, 1, 4, 0x0, 0x0, 0x0, 0x0, 0x0, false⟩,  -- CH_FLAGS
    ⟨0x5C, 1, 4, 0x0, 0x0, 0x0, 0x0, 0x0, false⟩,  -- COND_LO
    ⟨0x60, 1, 4, 0x0, 0x0, 0x0, 0x0, 0x0, false⟩,  -- COND_HI
    ⟨0x64, 1, 4, 0x3E8, 0xFFFF, 0x0, 0x0, 0x0, false⟩,  -- NTC_RPU
    ⟨0x80, 1, 4, 0x114, 0x13F, 0x0, 0x0, 0x0, false⟩,  -- XT_CFG
    ⟨0x84, 1, 4, 0x800, 0x0, 0x0, 0x0, 0x0, false⟩,  -- XT_TRIM
    ⟨0x88, 1, 4, 0x0, 0xFFFFFFFF, 0x0, 0x0, 0x0, false⟩,  -- XT_C1
    ⟨0x8C, 1, 4, 0x0, 0xFFFFFFFF, 0x0, 0x0, 0x0, false⟩,  -- XT_C2
    ⟨0x90, 1, 4, 0x0, 0xFFFFFFFF, 0x0, 0x0, 0x0, false⟩,  -- XT_C3
    ⟨0x94, 1, 4, 0x0, 0x0, 0x0, 0x0, 0x0, false⟩,  -- REF_STAT
    ⟨0x98, 1, 4, 0x0, 0x0, 0x0, 0x0, 0x0, false⟩,  -- DL_STAT
    ⟨0xC0, 9, 4, 0x0, 0xFFFFFFFF, 0x0, 0x0, 0x0, false⟩,  -- SUP_LIM
    ⟨0xE4, 1, 4, 0x0, 0x0, 0x0, 0x0, 0x0, false⟩,  -- SUP_STAT
    ⟨0xE8, 1, 4, 0x1FF, 0x1FF, 0x0, 0x0, 0x0, false⟩  -- SUP_CFG
    ]

/-- Rows of the THERM register map. -/
def rowsTHERM1 : List RegRow := [
    ⟨0x100, 56, 4, 0x0, 0x0, 0x0, 0x0, 0x0, false⟩,  -- TEMP
    ⟨0x200, 16, 8, 0x0, 0x83FF, 0x0, 0x0, 0x0, false⟩,  -- NTC_SRC
    ⟨0x204, 16, 8, 0x3E80D7A, 0xFFFFFFFF, 0x0, 0x0, 0x0, false⟩,  -- NTC_PARAM
    ⟨0x300, 8, 16, 0x100000, 0x11F01FF, 0x0, 0x0, 0x0, false⟩,  -- DOM_CFG
    ⟨0x304, 8, 16, 0x0, 0xFFFFFFFF, 0x0, 0x0, 0x0, false⟩,  -- DOM_MASK_LO
    ⟨0x308, 8, 16, 0x0, 0xFFFFFF, 0x0, 0x0, 0x0, false⟩,  -- DOM_MASK_HI
    ⟨0x30C, 8, 16, 0x0, 0x0, 0x0, 0x0, 0x0, false⟩  -- DOM_STAT
    ]

/-- The THERM register map. -/
def rowsTHERM : List RegRow := rowsTHERM0 ++ rowsTHERM1

/-- Rows of the TCOMPAT register map. -/
def rowsTCOMPAT : List RegRow := [
    ⟨0x40, 1, 4, 0x0, 0xF, 0x0, 0x0, 0x0, false⟩,  -- TC_CFG
    ⟨0x44, 1, 4, 0xFFFFFF, 0xFFFFFFFF, 0x0, 0x0, 0x0, false⟩,  -- TC_MASK_LO
    ⟨0x48, 1, 4, 0x0, 0xFFFFFF, 0x0, 0x0, 0x0, false⟩,  -- TC_MASK_HI
    ⟨0x4C, 1, 4, 0x569, 0xFFF, 0x0, 0x0, 0x0, false⟩,  -- TC_WARN
    ⟨0x50, 1, 4, 0x578, 0xFFF, 0x0, 0x0, 0x0, false⟩,  -- TC_THROT
    ⟨0x54, 1, 4, 0x587, 0xFFF, 0x0, 0x0, 0x0, false⟩,  -- TC_SHUT
    ⟨0x58, 1, 4, 0x0, 0x0, 0x0, 0x0, 0x0, false⟩  -- TC_STAT
    ]

/-- Rows of the KENNEL register map. -/
def rowsKENNEL0 : List RegRow := [
    ⟨0x40, 1, 4, 0x0, 0x0, 0x0, 0x0, 0x0, false⟩,  -- KSTAT
    ⟨0x44, 1, 4, 0x0, 0xFFFFFFFF, 0x0, 0x0, 0x0, false⟩,  -- CAL_SEC
    ⟨0x48, 1, 4, 0x0, 0x0, 0x0, 0x0, 0x0, false⟩,  -- CAL_SUB
    ⟨0x4C, 1, 4, 0x0, 0x0, 0x0, 0x0, 0x0, false⟩,  -- CAL_SEC_LAT
    ⟨0x50, 1, 4, 0xFFFFFFFF, 0xFFFFFFFF, 0x0, 0x0, 0x0, false⟩,  -- ALARM
    ⟨0x54, 1, 4, 0x0, 0x0, 0x0, 0x0, 0x0, false⟩,  -- OPTIME
    ⟨0x58, 1, 4, 0x0, 0x0, 0x0, 0x0, 0x0, false⟩,  -- PCYCLE
    ⟨0x5C, 1, 4, 0x9, 0xF, 0x0, 0x0, 0x100, false⟩,  -- WAKE_CFG
    ⟨0x60, 1, 4, 0x0, 0x0, 0x0, 0xF, 0x0, false⟩,  -- WAKE_CAUSE
    ⟨0x64, 1, 4, 0x320A3200, 0xFFFFFF03, 0x0, 0x0, 0x0, false⟩,  -- BKP_CFG
    ⟨0x68, 1, 4, 0xF6E1004, 0xFFFFFFFF, 0x0, 0x0, 0x0, false⟩,  -- BKP_VLIM
    ⟨0x6C, 1, 4, 0xAF00BB8, 0xFFFFFFFF, 0x0, 0x0, 0x0, false⟩,  -- BKP_CUT
    ⟨0x70, 1, 4, 0x0, 0x0, 0x0, 0x0, 0x0, false⟩,  -- BKP_STAT
    ⟨0x74, 1, 4, 0x0, 0x0, 0x0, 0x0, 0xFFFF, false⟩,  -- SHIP_CMD
    ⟨0x78, 1, 4, 0x0, 0x0, 0x0, 0x0, 0x0, false⟩,  -- TOKEN
    ⟨0x7C, 1, 4, 0x0, 0x0, 0x0, 0x0, 0x1, false⟩,  -- TOKEN_CTRL
    ⟨0x80, 1, 4, 0x0, 0x3FF, 0x0, 0x0, 0x0, false⟩,  -- RET_ADDR
    ⟨0x84, 1, 4, 0x0, 0xFFFFFFFF, 0x0, 0x0, 0x0, false⟩,  -- RET_DATA
    ⟨0x88, 1, 4, 0x0, 0x0, 0x0, 0x0, 0x0, false⟩,  -- VMON
    ⟨0x8C, 1, 4, 0x0, 0x0, 0x0, 0x0, 0x0, false⟩  -- VKEEP_MON
    ]

/-- Rows of the KENNEL register map. -/
def rowsKENNEL1 : List RegRow := [
    ⟨0x90, 1, 4, 0x0, 0x0, 0x0, 0x0, 0x0, false⟩,  -- HO_CNT
    ⟨0x94, 1, 4, 0x0, 0x0, 0x0, 0x0, 0x1, false⟩  -- CNT_CLR
    ]

/-- The KENNEL register map. -/
def rowsKENNEL : List RegRow := rowsKENNEL0 ++ rowsKENNEL1

/-- Rows of the SAFE register map. -/
def rowsSAFE : List RegRow := [
    ⟨0x40, 1, 4, 0xF, 0x0, 0x0, 0x0, 0x0, false⟩,  -- STO_STAT
    ⟨0x44, 1, 4, 0xBB80021, 0xFFFFFFFF, 0x0, 0x0, 0x0, true⟩,  -- SS1_CFG
    ⟨0x48, 1, 4, 0x1400C8, 0xFFFFFFFF, 0x0, 0x0, 0x0, true⟩,  -- SS1_RAMP
    ⟨0x4C, 1, 4, 0x0, 0x0, 0x0, 0x0, 0x0, false⟩,  -- SS1_STAT
    ⟨0x50, 1, 4, 0xA000004, 0xFF0FFF07, 0x0, 0x0, 0x0, true⟩,  -- SBC_CFG
    ⟨0x54, 1, 4, 0x1F4, 0x3FF, 0x0, 0x0, 0x0, true⟩,  -- SBC_TEST
    ⟨0x58, 1, 4, 0x0, 0x0, 0x0, 0x0, 0x0, false⟩,  -- SBC_STAT
    ⟨0x5C, 1, 4, 0x640A00, 0xFFFFFF07, 0x0, 0x0, 0x0, true⟩,  -- HOLD_CFG
    ⟨0x60, 1, 4, 0x7D0, 0xFFFF, 0x0, 0x0, 0x0, true⟩,  -- HOLD_T
    ⟨0x64, 1, 4, 0x0, 0x0, 0x0, 0x0, 0x0, false⟩,  -- HOLD_STAT
    ⟨0x68, 1, 4, 0x1400, 0xFFFF7, 0x0, 0x0, 0x0, true⟩,  -- PARK_CFG
    ⟨0x6C, 1, 4, 0x50005, 0xFFFFFFFF, 0x0, 0x0, 0x0, true⟩,  -- PARK_VMAX
    ⟨0x70, 1, 4, 0x0, 0x0, 0x0, 0x0, 0x0, false⟩,  -- PARK_STAT
    ⟨0x74, 1, 4, 0x640050, 0xFFFF0FFF, 0x0, 0x0, 0x0, true⟩,  -- TPS_CFG
    ⟨0x78, 1, 4, 0x0, 0x0, 0x0, 0x0, 0x0, false⟩,  -- SIN_STAT
    ⟨0x7C, 1, 4, 0x0, 0x0, 0x0, 0x0, 0x0, false⟩,  -- SIN_FAULT_INFO
    ⟨0x80, 8, 4, 0x640A00, 0xFFFFFFFF, 0x0, 0x0, 0x0, true⟩,  -- SIN_CFG
    ⟨0xA0, 1, 4, 0x0, 0x0, 0x0, 0x0, 0x1, false⟩,  -- PL_CMD
    ⟨0xA4, 1, 4, 0x0, 0x0, 0x0, 0x0, 0x0, false⟩,  -- SAFE_CNT
    ⟨0xA8, 1, 4, 0x0, 0x0, 0x0, 0x0, 0x1, false⟩  -- CNT_CLR
    ]

/-- Rows of the BIST register map. -/
def rowsBIST : List RegRow := [
    ⟨0x40, 1, 4, 0x640, 0xFFFF, 0x0, 0x0, 0x0, false⟩,  -- ROLL_CFG
    ⟨0x44, 1, 4, 0x0, 0x0, 0x0, 0x0, 0x0, false⟩,  -- ROLL_STATUS
    ⟨0x48, 1, 4, 0x0, 0x0, 0x0, 0x0, 0x0, false⟩,  -- ROLL_OLDEST
    ⟨0x4C, 1, 4, 0x0, 0x0, 0x0, 0x0, 0x0, false⟩,  -- RETIRED_MAP_LO
    ⟨0x50, 1, 4, 0x0, 0x0, 0x0, 0x0, 0x0, false⟩,  -- RETIRED_MAP_HI
    ⟨0x54, 1, 4, 0x0, 0x0, 0x0, 0x0, 0x0, false⟩,  -- RESERVE_MAP_LO
    ⟨0x58, 1, 4, 0x0, 0x0, 0x0, 0x0, 0x0, false⟩,  -- RESERVE_MAP_HI
    ⟨0x5C, 1, 4, 0x0, 0x0, 0x0, 0x0, 0x7F, false⟩,  -- RETIRE_CLR
    ⟨0x60, 1, 4, 0x7D0, 0xFFFF, 0x0, 0x0, 0x0, false⟩,  -- MARCH_CFG
    ⟨0x64, 1, 4, 0x0, 0x0, 0x0, 0x0, 0x0, false⟩,  -- MARCH_STATUS
    ⟨0x68, 1, 4, 0x0, 0x0, 0x0, 0x0, 0x0, false⟩,  -- MARCH_FAIL_INFO
    ⟨0x6C, 1, 4, 0xA0F, 0xFF0F, 0x0, 0x0, 0x0, false⟩,  -- ANA_CFG
    ⟨0x70, 1, 4, 0x0, 0x0, 0x0, 0x0, 0x0, false⟩,  -- ANA_STATUS
    ⟨0x74, 1, 4, 0x0, 0x0, 0x0, 0x0, 0x0, false⟩,  -- REF_CHK
    ⟨0x78, 1, 4, 0x0, 0x0, 0x0, 0x0, 0x0, false⟩,  -- RANGE_STATUS
    ⟨0x7C, 1, 4, 0x0, 0x0, 0x0, 0x0, 0x0, false⟩  -- SCAN_STATUS
    ]

/-- Rows of the EPORT register map. -/
def rowsEPORT : List RegRow := [
    ⟨0x40, 1, 4, 0x2, 0x3, 0x0, 0x0, 0x0, false⟩,  -- PORT_CFG
    ⟨0x44, 1, 4, 0x0, 0x0, 0x0, 0x0, 0x0, false⟩,  -- PORT_STAT
    ⟨0x48, 1, 4, 0x0, 0x0, 0x0, 0x0, 0x0, false⟩,  -- CABLE
    ⟨0x4C, 1, 4, 0x1388, 0xFFFF, 0x0, 0x0, 0x0, false⟩,  -- CABLE_VP
    ⟨0x50, 1, 4, 0x0, 0x0, 0x0, 0x0, 0x0, false⟩,  -- PEER_UID_LO
    ⟨0x54, 1, 4, 0x0, 0x0, 0x0, 0x0, 0x0, false⟩,  -- PEER_UID_HI
    ⟨0x58, 1, 4, 0x0, 0x0, 0x0, 0x0, 0x0, false⟩,  -- PEER_INFO
    ⟨0x5C, 1, 4, 0x0, 0x0, 0x0, 0x0, 0x0, false⟩,  -- RES_OCC
    ⟨0x60, 1, 4, 0x0, 0x0, 0x0, 0x0, 0x0, false⟩,  -- BE_STAT
    ⟨0x64, 1, 4, 0x0, 0x0, 0x0, 0x0, 0x0, false⟩,  -- ERR_CNT
    ⟨0x68, 1, 4, 0x0, 0x0, 0x0, 0x0, 0x0, false⟩,  -- DROP_CNT
    ⟨0x6C, 1, 4, 0x0, 0x0, 0x0, 0x0, 0x0, false⟩,  -- DOWN_CNT
    ⟨0x70, 1, 4, 0x0, 0x0, 0x0, 0x0, 0x0, false⟩,  -- TX_PKTS
    ⟨0x74, 1, 4, 0x0, 0x0, 0x0, 0x0, 0x0, false⟩,  -- RX_PKTS
    ⟨0x78, 1, 4, 0x0, 0x0, 0x0, 0x0, 0x0, false⟩,  -- SUSP_CNT
    ⟨0x7C, 1, 4, 0x0, 0x0, 0x0, 0x0, 0x1F, false⟩  -- CNT_CLR
    ]

/-- Rows of the CANX register map. -/
def rowsCANX : List RegRow := [
    ⟨0x40, 1, 4, 0x0, 0x3F, 0x0, 0x0, 0x0, false⟩,  -- CAN_MODE
    ⟨0x44, 1, 4, 0xA0F, 0xFF7F7FFF, 0x0, 0x0, 0x0, false⟩,  -- NBT
    ⟨0x48, 1, 4, 0x305, 0xFF7F7FFF, 0x0, 0x0, 0x0, false⟩,  -- DBT
    ⟨0x4C, 1, 4, 0x203, 0xFF7F7FFF, 0x0, 0x0, 0x0, false⟩,  -- XBT
    ⟨0x50, 1, 4, 0x0, 0x1FF, 0x0, 0x0, 0x0, false⟩,  -- TDC
    ⟨0x54, 1, 4, 0x0, 0x0, 0x0, 0x0, 0x0, false⟩,  -- ERR_STAT
    ⟨0x58, 1, 4, 0x0, 0xFFFFFFFF, 0x0, 0x0, 0x0, false⟩,  -- TX_REQ
    ⟨0x5C, 1, 4, 0x0, 0x0, 0x0, 0xFFFFFFFF, 0x0, false⟩,  -- TX_DONE
    ⟨0x60, 1, 4, 0x0, 0x0, 0x0, 0x0, 0x0, false⟩,  -- RXF_STAT
    ⟨0x64, 1, 4, 0x0, 0x0, 0x0, 0x0, 0x7F007F, false⟩,  -- RXF_ACK
    ⟨0x68, 1, 4, 0x0, 0x33F7FFF, 0x0, 0x0, 0x0, false⟩,  -- FILT_CFG
    ⟨0x6C, 1, 4, 0x0, 0x3FFC, 0x0, 0x0, 0x0, false⟩,  -- MSG_ADDR
    ⟨0x70, 1, 4, 0x0, 0xFFFFFFFF, 0x0, 0x0, 0x0, false⟩  -- MSG_DATA
    ]

/-- Rows of the ETH register map. -/
def rowsETH : List RegRow := [
    ⟨0x40, 1, 4, 0x3, 0xF, 0x0, 0x0, 0x0, false⟩,  -- MAC_CFG
    ⟨0x44, 1, 4, 0x0, 0xFFFFFFFF, 0x0, 0x0, 0x0, false⟩,  -- MAC_ADDR_LO
    ⟨0x48, 1, 4, 0x0, 0xFFFF, 0x0, 0x0, 0x0, false⟩,  -- MAC_ADDR_HI
    ⟨0x4C, 1, 4, 0x0, 0xFFFFFFFF, 0x0, 0x0, 0x0, false⟩,  -- HASH_LO
    ⟨0x50, 1, 4, 0x0, 0xFFFFFFFF, 0x0, 0x0, 0x0, false⟩,  -- HASH_HI
    ⟨0x54, 1, 4, 0x0, 0x0, 0x0, 0x0, 0xFFFF07FF, false⟩,  -- MDIO_CMD
    ⟨0x58, 1, 4, 0x0, 0x0, 0x0, 0x0, 0x0, false⟩,  -- MDIO_STAT
    ⟨0x5C, 1, 4, 0x0, 0xFF0FFFFF, 0x0, 0x0, 0x0, false⟩,  -- TX_RING
    ⟨0x60, 1, 4, 0x0, 0xFF0FFFFF, 0x0, 0x0, 0x0, false⟩,  -- RX_RING
    ⟨0x64, 1, 4, 0x0, 0x0, 0x0, 0x0, 0x0, false⟩,  -- RING_IDX
    ⟨0x68, 1, 4, 0x7, 0x7, 0x0, 0x0, 0x0, false⟩,  -- TS_FILT
    ⟨0x6C, 1, 4, 0x0, 0x0, 0x0, 0x0, 0x0, false⟩,  -- TS_TX_LO
    ⟨0x70, 1, 4, 0x0, 0x0, 0x0, 0x0, 0x0, false⟩,  -- TS_TX_HI
    ⟨0x74, 1, 4, 0x0, 0x0, 0x0, 0x0, 0x0, false⟩,  -- TS_RX_LO
    ⟨0x78, 1, 4, 0x0, 0x0, 0x0, 0x0, 0x0, false⟩,  -- TS_RX_HI
    ⟨0xC0, 1, 4, 0x0, 0x0, 0x0, 0x0, 0x0, false⟩,  -- FRM_CNT
    ⟨0x100, 16, 8, 0x0, 0xFFFFFFFF, 0x0, 0x0, 0x0, false⟩,  -- EXACT_LO
    ⟨0x104, 16, 8, 0x0, 0x8000FFFF, 0x0, 0x0, 0x0, false⟩  -- EXACT_HI
    ]

/-- Rows of the EVREC register map. -/
def rowsEVREC : List RegRow := [
    ⟨0x40, 1, 4, 0x0, 0x37FFF, 0x0, 0x0, 0x0, false⟩,  -- REC_SEL
    ⟨0x44, 8, 4, 0x0, 0x0, 0x0, 0x0, 0x0, false⟩,  -- REC_DATA
    ⟨0x64, 1, 4, 0x0, 0x3, 0x0, 0x0, 0x0, false⟩,  -- PART_SEL
    ⟨0x68, 1, 4, 0x0, 0x0, 0x0, 0x0, 0x0, false⟩,  -- HEAD
    ⟨0x6C, 1, 4, 0x0, 0x0, 0x0, 0x0, 0x0, false⟩,  -- NEWEST_SEQ
    ⟨0x70, 1, 4, 0x0, 0x0, 0x0, 0x0, 0x0, false⟩,  -- FIRST_SEQ
    ⟨0x74, 1, 4, 0x0, 0x0, 0x0, 0x0, 0x0, false⟩,  -- REFUSE_CNT
    ⟨0x78, 1, 4, 0x0, 0x0, 0x0, 0x0, 0x0, false⟩,  -- TORN_CNT
    ⟨0x7C, 1, 4, 0x0, 0xFFFFFFFF, 0x0, 0x0, 0x0, false⟩,  -- HREC_PAY_LO
    ⟨0x80, 1, 4, 0x0, 0xFFFFFFFF, 0x0, 0x0, 0x0, false⟩,  -- HREC_PAY_HI
    ⟨0x84, 1, 4, 0x0, 0x0, 0x0, 0x0, 0x1FFFF, false⟩,  -- HREC_CMD
    ⟨0x88, 1, 4, 0x0, 0x33, 0x0, 0x0, 0x0, false⟩,  -- CLR_CFG
    ⟨0x8C, 8, 4, 0x0, 0x0, 0x0, 0x0, 0x0, false⟩,  -- CLR_NONCE
    ⟨0xAC, 8, 4, 0x0, 0xFFFFFFFF, 0x0, 0x0, 0x0, false⟩,  -- CLR_MAC
    ⟨0xCC, 1, 4, 0x0, 0x0, 0x0, 0x0, 0x3, false⟩,  -- CLR_CMD
    ⟨0xD0, 1, 4, 0x0, 0x0, 0x0, 0x0, 0x0, false⟩  -- CLR_STAT
    ]

/-- Rows of the LIFE register map. -/
def rowsLIFE0 : List RegRow := [
    ⟨0x40, 1, 4, 0x0, 0x0, 0x0, 0x0, 0x1, false⟩,  -- FLUSH_CMD
    ⟨0x44, 1, 4, 0x0, 0x0, 0x0, 0x0, 0x0, false⟩,  -- FLUSH_STAT
    ⟨0x48, 1, 4, 0x0, 0x0, 0x0, 0x0, 0x0, false⟩,  -- OPTIME_NV
    ⟨0x4C, 1, 4, 0x0, 0x0, 0x0, 0x0, 0x0, false⟩,  -- PCYCLE_NV
    ⟨0x50, 1, 4, 0x0, 0x3F, 0x0, 0x0, 0x0, false⟩,  -- SW_SEL
    ⟨0x54, 1, 4, 0x0, 0x0, 0x0, 0x0, 0x0, false⟩,  -- SW_LO
    ⟨0x58, 1, 4, 0x0, 0x0, 0x0, 0x0, 0x0, false⟩,  -- SW_HI
    ⟨0x5C, 1, 4, 0x0, 0x0, 0x0, 0x0, 0x0, false⟩,  -- SHIFT_CNT
    ⟨0x60, 1, 4, 0x0, 0x0, 0x0, 0x0, 0x0, false⟩,  -- PARK_CNT
    ⟨0x64, 1, 4, 0x0, 0x0, 0x0, 0x0, 0x0, false⟩,  -- CTR_CNT
    ⟨0x68, 1, 4, 0x0, 0x0, 0x0, 0x0, 0x0, false⟩,  -- EIN_LO
    ⟨0x6C, 1, 4, 0x0, 0x0, 0x0, 0x0, 0x0, false⟩,  -- EIN_HI
    ⟨0x70, 1, 4, 0x0, 0x0, 0x0, 0x0, 0x0, false⟩,  -- EOUT_LO
    ⟨0x74, 1, 4, 0x0, 0x0, 0x0, 0x0, 0x0, false⟩,  -- EOUT_HI
    ⟨0x88, 1, 4, 0x0, 0x7, 0x0, 0x0, 0x0, false⟩,  -- MOD_SEL
    ⟨0x8C, 1, 4, 0x10000, 0xFF07C03F, 0x0, 0x0, 0x0, false⟩,  -- MOD_CFG
    ⟨0x90, 4, 8, 0x0, 0xFFFFFFFF, 0x0, 0x0, 0x0, false⟩,  -- STAGE_R
    ⟨0x94, 4, 8, 0x3E8, 0xFFFFFFFF, 0x0, 0x0, 0x0, false⟩,  -- STAGE_TAU
    ⟨0xB0, 1, 4, 0x0, 0x0, 0x0, 0x0, 0x0, false⟩,  -- TJ
    ⟨0xB4, 1, 4, 0x8000, 0x0, 0x0, 0x0, 0x0, false⟩  -- TJ_MAX
    ]

/-- Rows of the LIFE register map. -/
def rowsLIFE1 : List RegRow := [
    ⟨0xB8, 1, 4, 0x18141010, 0xFFFFFFFF, 0x0, 0x0, 0x0, false⟩,  -- RF_CFG
    ⟨0xBC, 1, 4, 0x0, 0x0, 0x0, 0x0, 0x0, false⟩,  -- DMG_LO
    ⟨0xC0, 1, 4, 0x0, 0x0, 0x0, 0x0, 0x0, false⟩,  -- DMG_HI
    ⟨0xC4, 1, 4, 0xC000, 0xFFFF, 0x0, 0x0, 0x0, false⟩,  -- DMG_WARN
    ⟨0xC8, 1, 4, 0x0, 0x7F, 0x0, 0x0, 0x0, false⟩,  -- HIST_SEL
    ⟨0xCC, 1, 4, 0x0, 0x0, 0x0, 0x0, 0x0, false⟩,  -- HIST_DATA
    ⟨0xD0, 1, 4, 0x0, 0xFF, 0x0, 0x0, 0x0, false⟩,  -- TAB_SEL
    ⟨0xD4, 1, 4, 0x0, 0xFFFFFFFF, 0x0, 0x0, 0x0, false⟩,  -- TAB_DATA
    ⟨0xD8, 1, 4, 0x0, 0x0, 0x0, 0x0, 0x1, false⟩  -- MOD_RESET
    ]

/-- The LIFE register map. -/
def rowsLIFE : List RegRow := rowsLIFE0 ++ rowsLIFE1

/-- Rows of the NVM register map. -/
def rowsNVM : List RegRow := [
    ⟨0x40, 1, 4, 0x0, 0x0, 0x0, 0x0, 0x0, false⟩,  -- BANK_STAT
    ⟨0x44, 1, 4, 0x0, 0x1, 0x0, 0x0, 0x0, false⟩,  -- ACTIVE_BANK
    ⟨0x48, 1, 4, 0x0, 0x0, 0x0, 0x0, 0x0, false⟩,  -- MIN_VERSION
    ⟨0x4C, 1, 4, 0x0, 0x0, 0x0, 0x0, 0x1, false⟩,  -- VER_CMD
    ⟨0x50, 1, 4, 0x0, 0x3FFFFC, 0x0, 0x0, 0x0, false⟩,  -- PROG_ADDR
    ⟨0x54, 1, 4, 0x0, 0x0, 0x0, 0x0, 0xFFFFFFFF, false⟩,  -- PROG_DATA
    ⟨0x58, 1, 4, 0x0, 0x0, 0x0, 0x0, 0x1, false⟩,  -- AUTH_CMD
    ⟨0x5C, 1, 4, 0x0, 0x0, 0x0, 0x0, 0x0, false⟩,  -- AUTH_STAT
    ⟨0x60, 1, 4, 0x0, 0x0, 0x0, 0x0, 0x0, false⟩,  -- VER_A
    ⟨0x64, 1, 4, 0x0, 0x0, 0x0, 0x0, 0x0, false⟩  -- VER_B
    ]

/-- Rows of the SEC register map. -/
def rowsSEC : List RegRow := [
    ⟨0x40, 1, 4, 0x0, 0xF, 0x0, 0x0, 0x0, false⟩,  -- KEY_SEL
    ⟨0x44, 1, 4, 0x0, 0x0, 0x0, 0x0, 0x0, false⟩,  -- KEY_INFO
    ⟨0x48, 1, 4, 0x0, 0xF, 0x0, 0x0, 0x0, false⟩,  -- KEY_ADDR
    ⟨0x4C, 1, 4, 0x0, 0x0, 0x0, 0x0, 0xFFFFFFFF, false⟩,  -- KEY_DATA
    ⟨0x50, 1, 4, 0x0, 0x0, 0x0, 0x0, 0x103, false⟩,  -- KEY_CMD
    ⟨0x54, 1, 4, 0x0, 0x7, 0x0, 0x0, 0x0, false⟩,  -- FAB_CA
    ⟨0x58, 1, 4, 0x0, 0x0, 0x0, 0x0, 0x1, false⟩,  -- ATT_CMD
    ⟨0x5C, 1, 4, 0x0, 0x0, 0x0, 0x0, 0x0, false⟩,  -- ATT_STAT
    ⟨0x60, 8, 4, 0x0, 0xFFFFFFFF, 0x0, 0x0, 0x0, false⟩,  -- ATT_NONCE
    ⟨0x80, 16, 4, 0x0, 0x0, 0x0, 0x0, 0x0, false⟩,  -- ATT_SIG
    ⟨0xC0, 16, 4, 0x0, 0x0, 0x0, 0x0, 0x0, false⟩,  -- DEV_PUB
    ⟨0x100, 1, 4, 0x0, 0x0, 0x0, 0x0, 0x0, false⟩,  -- RNG_DATA
    ⟨0x104, 1, 4, 0x0, 0x0, 0x0, 0x0, 0x0, false⟩  -- RNG_STAT
    ]

/-- Rows of the PILOT register map. -/
def rowsPILOT : List RegRow := [
    ⟨0x40, 1, 4, 0x0, 0x7, 0x0, 0x0, 0x0, false⟩,  -- PCFG
    ⟨0x44, 1, 4, 0x80018CC, 0xFFFFFFF, 0x0, 0x0, 0x0, false⟩,  -- CP_SCALE
    ⟨0x48, 1, 4, 0x6, 0x0, 0x0, 0x0, 0x0, false⟩,  -- CP_STAT
    ⟨0x4C, 1, 4, 0x0, 0x0, 0x0, 0x0, 0x0, false⟩,  -- CP_LEVEL
    ⟨0x50, 1, 4, 0x0, 0x0, 0x0, 0x0, 0x0, false⟩,  -- CP_DUTY
    ⟨0x54, 1, 4, 0x0, 0x0, 0x0, 0x0, 0x0, false⟩,  -- CP_IMAX
    ⟨0x58, 1, 4, 0xFFFF, 0x0, 0x0, 0x0, 0x0, false⟩,  -- PP_STAT
    ⟨0x5C, 1, 4, 0x0, 0x1FFFF, 0x0, 0x0, 0x0, false⟩,  -- CP_OFFER
    ⟨0x60, 1, 4, 0x0, 0x0, 0x0, 0x0, 0x0, false⟩,  -- CP_OUT
    ⟨0x64, 1, 4, 0x0, 0x0, 0x0, 0x0, 0x0, false⟩,  -- CHG_CNT
    ⟨0x68, 1, 4, 0x0, 0x0, 0x0, 0x0, 0x1, false⟩  -- CNT_CLR
    ]

/-- Rows of the EMGR register map. -/
def rowsEMGR0 : List RegRow := [
    ⟨0x40, 1, 4, 0x4006, 0xFFFFFF07, 0x0, 0x0, 0x0, false⟩,  -- MGR_CFG
    ⟨0x44, 1, 4, 0x0, 0x0, 0x0, 0x0, 0x1, false⟩,  -- DISC_CMD
    ⟨0x48, 1, 4, 0x0, 0x0, 0x0, 0x0, 0x0, false⟩,  -- DISC_STAT
    ⟨0x4C, 1, 4, 0x0, 0x0, 0x0, 0x0, 0x0, false⟩,  -- DEV_ADDR
    ⟨0x50, 1, 4, 0x0, 0x0, 0x0, 0x0, 0x0, false⟩,  -- ROOT_UID_LO
    ⟨0x54, 1, 4, 0x0, 0x0, 0x0, 0x0, 0x0, false⟩,  -- ROOT_UID_HI
    ⟨0x58, 1, 4, 0x0, 0x0, 0x0, 0x0, 0x0, false⟩,  -- DOMAIN_SIZE
    ⟨0x5C, 1, 4, 0x0, 0x0, 0x0, 0x0, 0x0, false⟩,  -- DISC_TIME
    ⟨0x60, 1, 4, 0x0, 0x3FFF, 0x0, 0x0, 0x0, false⟩,  -- ROUTE_SEL
    ⟨0x64, 1, 4, 0x0, 0x0, 0x0, 0x0, 0x0, false⟩,  -- ROUTE
    ⟨0x68, 1, 4, 0x10000, 0xFFFF0007, 0x0, 0x0, 0x0, false⟩,  -- TIME_CFG
    ⟨0x6C, 1, 4, 0x0, 0x0, 0x0, 0x0, 0x0, false⟩,  -- TIME_STAT
    ⟨0x70, 1, 4, 0x0, 0xFFFFFFFF, 0x0, 0x0, 0x0, false⟩,  -- TIME_RATE
    ⟨0x74, 1, 4, 0x0, 0x0, 0x0, 0x0, 0xFFFFFFFF, false⟩,  -- TIME_OFS
    ⟨0x78, 1, 4, 0x0, 0x0, 0x0, 0x0, 0x33F, false⟩,  -- FLOW_CMD
    ⟨0x7C, 1, 4, 0x0, 0x0, 0x0, 0x0, 0x0, false⟩,  -- FLOW_RESULT
    ⟨0x80, 1, 4, 0x0, 0x3F, 0x0, 0x0, 0x0, false⟩,  -- FLOW_SEL
    ⟨0x84, 1, 4, 0x0, 0xFFFFFF, 0x0, 0x0, 0x0, false⟩,  -- FLOW_DST
    ⟨0x88, 1, 4, 0x0, 0x11FFF, 0x0, 0x0, 0x0, false⟩,  -- FLOW_SRC
    ⟨0x8C, 1, 4, 0x0, 0xF, 0x0, 0x0, 0x0, false⟩  -- FLOW_PER
    ]

/-- Rows of the EMGR register map. -/
def rowsEMGR1 : List RegRow := [
    ⟨0x90, 1, 4, 0x0, 0xFFFFFFFF, 0x0, 0x0, 0x0, false⟩,  -- FLOW_PHASE
    ⟨0x94, 1, 4, 0x0, 0x0, 0x0, 0x0, 0x0, false⟩,  -- FLOW_STAT
    ⟨0x98, 1, 4, 0x0, 0x0, 0x0, 0x0, 0x0, false⟩,  -- FLOW_BOUND
    ⟨0x9C, 1, 4, 0x0, 0x0, 0x0, 0x0, 0x0, false⟩,  -- FLOW_SENT
    ⟨0xA0, 1, 4, 0x0, 0x0, 0x0, 0x0, 0x0, false⟩,  -- MGMT_PEND
    ⟨0xA4, 1, 4, 0x0, 0xFFFFFF, 0x0, 0x0, 0x0, false⟩,  -- MSG_DST
    ⟨0xA8, 1, 4, 0x0, 0x0, 0x0, 0x0, 0x800007FF, false⟩,  -- MSG_CMD
    ⟨0xAC, 1, 4, 0x0, 0x0, 0x0, 0x0, 0x0, false⟩,  -- MSG_STAT
    ⟨0x200, 64, 4, 0x0, 0xFFFFFFFF, 0x0, 0x0, 0x0, false⟩,  -- EP_CFG
    ⟨0x300, 64, 4, 0x0, 0x0, 0x0, 0x0, 0x0, false⟩,  -- EP_CNT
    ⟨0x400, 256, 4, 0x0, 0xFFFFFFFF, 0x0, 0x0, 0x0, false⟩  -- MSG_BUF
    ]

/-- The EMGR register map. -/
def rowsEMGR : List RegRow := rowsEMGR0 ++ rowsEMGR1

/-- The page headers by class (R63 and the owning chapters). Class 21 is an Erelo port, 29 stands for the Erelo manager. -/
def pageHdr : Nat → PageHdr
  | 0 => ⟨0x0, 0x1, 0x0, 0x0, 0x0, 0x0, 0x7⟩  -- SYS
  | 1 => ⟨0x13, 0x1, 0x0, 0x0, 0x0, 0x0, 0x1FFF⟩  -- HOST
  | 2 => ⟨0x0, 0x0, 0x0, 0x0, 0x101, 0x0, 0x3FF⟩  -- LEASH
  | 3 => ⟨0x1204010, 0x0, 0xA0, 0x0, 0x1, 0x0, 0x7FF⟩  -- CLE
  | 4 => ⟨0x0, 0x1, 0x0, 0x0, 0x0, 0x100, 0x1FFF⟩  -- PAIRCMP
  | 5 => ⟨0x0, 0x1, 0x0, 0x0, 0x0, 0x700, 0x7F⟩  -- ISN
  | 6 => ⟨0x2018, 0x0, 0x0, 0x0, 0x101, 0x0, 0x3F⟩  -- ADC
  | 7 => ⟨0x408, 0x0, 0x0, 0x0, 0x1, 0x0, 0xF⟩  -- CMPG
  | 8 => ⟨0xC08, 0x0, 0x0, 0x0, 0x1, 0x0, 0x7⟩  -- DAC
  | 9 => ⟨0x401F, 0x0, 0x0, 0x0, 0x201, 0x500, 0x7FFF⟩  -- PFU
  | 10 => ⟨0x0, 0x0, 0x0, 0x0, 0x1, 0x100, 0xFF⟩  -- PG
  | 11 => ⟨0x8, 0x0, 0x0, 0x0, 0x1, 0x0, 0xFF⟩  -- GLNK
  | 12 => ⟨0x3, 0x0, 0x0, 0x0, 0x1, 0x0, 0x1F⟩  -- LVDRV
  | 13 => ⟨0x82820, 0x1, 0x0, 0x0, 0x0, 0x0, 0x3F⟩  -- TRIP
  | 14 => ⟨0x708, 0x0, 0x0, 0x0, 0x101, 0x100, 0x1FF⟩  -- CONV
  | 15 => ⟨0x4020, 0x0, 0x0, 0x0, 0x1, 0x0, 0x7F⟩  -- CHGSEQ
  | 16 => ⟨0x81038, 0x1, 0x20, 0x0, 0x0, 0x0, 0x1FF⟩  -- THERM
  | 17 => ⟨0x0, 0x1, 0x0, 0x0, 0x0, 0x0, 0xF⟩  -- TCOMPAT
  | 18 => ⟨0x0, 0x1, 0x0, 0x40, 0x0, 0x0, 0x7F⟩  -- KENNEL
  | 19 => ⟨0x0, 0x101, 0x0, 0x0, 0x900, 0x1600, 0xFFF⟩  -- SAFE
  | 20 => ⟨0x0, 0x700, 0x0, 0x0, 0x701, 0x0, 0x1FF⟩  -- BIST
  | 21 => ⟨0x1, 0x0, 0x0, 0x0, 0x1, 0x0, 0xFF⟩  -- EPORT
  | 22 => ⟨0x0, 0x0, 0x0, 0x0, 0x101, 0x0, 0x3F⟩  -- CANX
  | 23 => ⟨0x0, 0x0, 0x0, 0x0, 0x1, 0x0, 0x3F⟩  -- ETH
  | 24 => ⟨0x3, 0x1, 0x0, 0x0, 0x0, 0x0, 0x1F⟩  -- EVREC
  | 25 => ⟨0x2808, 0x1, 0x0, 0x0, 0x0, 0x0, 0x7⟩  -- LIFE
  | 26 => ⟨0x0, 0x0, 0x0, 0x0, 0x1, 0x0, 0x7⟩  -- NVM
  | 27 => ⟨0x0, 0x1, 0x0, 0x0, 0x0, 0x0, 0xF⟩  -- SEC
  | 28 => ⟨0x3, 0x0, 0x0, 0x0, 0x101, 0x0, 0x3F⟩  -- PILOT
  | 29 => ⟨0x403E04, 0x1, 0x0, 0x0, 0x0, 0x100, 0x3FF⟩  -- EMGR
  | _ => ⟨0, 0, 0, 0, 0, 0, 0⟩

/-- The register rows by class. The loop window stands with PAIRCMP. -/
def regRows : Nat → List RegRow
  | 0 => rowsSYS
  | 1 => rowsHOST
  | 2 => rowsLEASH
  | 3 => rowsCLE
  | 4 => rowsPAIRCMP ++ rowsLPD
  | 5 => rowsISN
  | 6 => rowsADC
  | 7 => rowsCMPG
  | 8 => rowsDAC
  | 9 => rowsPFU
  | 10 => rowsPG
  | 11 => rowsGLNK
  | 12 => rowsLVDRV
  | 13 => rowsTRIP
  | 14 => rowsCONV
  | 15 => rowsCHGSEQ
  | 16 => rowsTHERM
  | 17 => rowsTCOMPAT
  | 18 => rowsKENNEL
  | 19 => rowsSAFE
  | 20 => rowsBIST
  | 21 => rowsEPORT
  | 22 => rowsCANX
  | 23 => rowsETH
  | 24 => rowsEVREC
  | 25 => rowsLIFE
  | 26 => rowsNVM
  | 27 => rowsSEC
  | 28 => rowsPILOT
  | 29 => rowsEMGR
  | _ => []

/-- The row that holds an offset. -/
def findRow : List RegRow → Nat → Option RegRow
  | [], _ => none
  | r :: t, off =>
    if r.first ≤ off && (off - r.first) % r.stride == 0 && (off - r.first) / r.stride < r.count then some r
    else findRow t off


end Sys2Proof.Machine
end

