-- ==== Sys2Proof/Machine/Ops.lean ====
section
/-! DEFINITION. The named operations over registers, flags, counters and System Time. -/

namespace Sys2Proof.Machine

/-! ### Bits of a word -/

/-- Field of `len` bits at `lo`. -/
def bits (v : Word) (lo len : Nat) : Nat := (v.toNat >>> lo) % 2 ^ len

/-- The word with a field replaced; the value is cut to the field. -/
def putBits (v : Word) (lo len x : Nat) : Word :=
  (v &&& ~~~(BitVec.ofNat 32 ((2 ^ len - 1) <<< lo))) ||| BitVec.ofNat 32 ((x % 2 ^ len) <<< lo)

/-- A Nat as a word. -/
abbrev wd (n : Nat) : Word := BitVec.ofNat 32 n

/-- An integer as a word, two's complement. -/
abbrev iw (i : Int) : Word := BitVec.ofInt 32 i

/-- The low `len` bits of a Nat as a two's-complement integer. -/
def signed (len n : Nat) : Int :=
  let m := n % 2 ^ len
  if m < 2 ^ (len - 1) then (m : Int) else (m : Int) - (2 ^ len : Nat)

/-- The word with the bits of a mask taken from another. -/
def merge (old new : Word) (mask : Nat) : Word :=
  (old &&& ~~~(BitVec.ofNat 32 mask)) ||| (new &&& BitVec.ofNat 32 mask)

/-! ### Addresses (R53, R54) -/

/-- Class of a byte address. -/
def aCls (a : Nat) : Nat := (a % 0x1000000) / 0x80000

/-- Instance of a byte address. -/
def aInst (a : Nat) : Nat := (a % 0x80000) / 0x1000

/-- Offset of a byte address in its page. -/
def aOff (a : Nat) : Nat := a % 0x1000

/-- First byte address of the page that holds an address. -/
def aPage (a : Nat) : Nat := a % 0x1000000 - a % 0x1000

/-- Number of implemented instances of a class (Table 2.1); the Erelo manager is instance 4. -/
def instances : Nat → Nat
  | 3 => 36 | 4 => 36 | 6 => 24 | 7 => 12 | 9 => 6 | 10 => 40 | 11 => 6 | 12 => 16 | 14 => 8 | 15 => 16
  | 21 => 5 | 22 => 3 | 23 => 2 | 28 => 2 | n => if n ≤ 28 then 1 else 0

/-- The class whose map a page follows: 29 for the Erelo manager. -/
def mapClass (cls inst : Nat) : Nat := if cls = 21 ∧ inst = 4 then 29 else cls

/-- An implemented page (R55). -/
def pageImplemented (a : Nat) : Bool := aInst a < instances (aCls a)

/-- The key of a windowed register: entry `k` of the register at `a`. -/
def win (k a : Nat) : Nat := (k + 1) * 0x1000000 + a

/-- A field of a windowed register. -/
def Fld.win (k : Nat) (f : Fld) : Fld := { f with reg := Machine.win k f.reg }

/-- A descriptor register of a loop (R122): one device-wide set, kept under the addresses of PAIRCMP instance 0. -/
abbrev lpd (loop a : Nat) : Nat := win loop a

/-! ### Reset values -/

/-- Reset values of SUP_LIM, OV × 65,536 + UV (Table 11.2). -/
def supReset (k : Nat) : Nat :=
  let p : Nat × Nat := match k with
    | 0 => (940, 1100) | 1 => (1710, 1890) | 2 => (3000, 3600) | 3 => (9000, 36000) | 4 => (2500, 4350) | _ => (5000, 16000)
  p.1 + p.2 * 65536

/-- Reset values that depend on the instance, the index or the window (Tables 3.13, 11.2, 12.2 and others). -/
def resetSpecial (a : Nat) : Option Nat :=
  let b := a % 0x1000000
  let k := a / 0x1000000
  let off := aOff b
  match aCls b with
  | 10 => if off = 0x04 then some (if aInst b < 24 then 1 else 2) else none
  | 3 => if off = 0x40 then some (aInst b + (aInst b / 4) * 256) else none
  | 5 => if off = 0x70 then some 0x85691559 else if off = 0x74 then some 0x45A6 else none
  | 16 =>
    if off = 0x48 then some (if k ≤ 40 then 0x203 else 0x200)
    else if off = 0x4C then some 0x096008C0
    else if 0xC0 ≤ off ∧ off ≤ 0xE0 then some (supReset ((off - 0xC0) / 4))
    else none
  | _ => none

/-- The reset value of a register (R63 and the register maps). -/
def resetWord (a : Nat) : Word :=
  let b := a % 0x1000000
  let off := aOff b
  let m := mapClass (aCls b) (aInst b)
  let h := pageHdr m
  match resetSpecial a with
  | some n => wd n
  | none =>
    if off = 0x00 then wd (aCls b * 0x1000000 + aInst b * 0x10000)
    else if off = 0x04 then wd h.caps
    else if off = 0x08 then wd h.ctrl
    else if off = 0x0C then wd h.status
    else if off = 0x10 then wd h.sticky0
    else match findRow (regRows m) off with
      | some r => wd r.reset
      | none => 0

/-! ### The register store -/

/-- What a register holds. -/
def Chip.rd (c : Chip) (a : Nat) : Word := (Tab.find c.regs a).getD (resetWord a)

/-- The device with a register set. -/
def Chip.wr (c : Chip) (a : Nat) (v : Word) : Chip :=
  { c with regs := if v = resetWord a then Tab.del c.regs a else Tab.put c.regs a v }

/-- What a field holds. -/
def Chip.get (c : Chip) (f : Fld) : Nat := bits (c.rd f.reg) f.lo f.len

/-- What a field holds, as a two's-complement integer. -/
def Chip.geti (c : Chip) (f : Fld) : Int := signed f.len (c.get f)

/-- A field is not 0. -/
def Chip.on (c : Chip) (f : Fld) : Bool := c.get f != 0

/-- The device with a field set; the value is cut to the field. -/
def Chip.set (c : Chip) (f : Fld) (x : Nat) : Chip := c.wr f.reg (putBits (c.rd f.reg) f.lo f.len x)

/-- The device with a flag field set from a Bool. -/
def Chip.setb (c : Chip) (f : Fld) (b : Bool) : Chip := c.set f b.toNat

/-- The device with every bit of a field set. -/
def Chip.raise (c : Chip) (f : Fld) : Chip := c.set f (2 ^ f.len - 1)

/-- The device with a flag raised when a condition holds. -/
def Chip.raiseIf (c : Chip) (b : Bool) (f : Fld) : Chip := if b then c.raise f else c

/-- The device with a field 0. -/
def Chip.clr (c : Chip) (f : Fld) : Chip := c.set f 0

/-- The device with a field one higher, saturating at all ones. -/
def Chip.inc (c : Chip) (f : Fld) : Chip := c.set f (min (c.get f + 1) (2 ^ f.len - 1))

/-- The device with a field higher by `n`, saturating at all ones. -/
def Chip.addSat (c : Chip) (f : Fld) (n : Nat) : Chip := c.set f (min (c.get f + n) (2 ^ f.len - 1))

/-- The device with a field one higher, wrapping. -/
def Chip.bump (c : Chip) (f : Fld) : Chip := c.set f (c.get f + 1)

/-- A whole register as a field. -/
abbrev whole (a : Nat) : Fld := ⟨a, 0, 32⟩

/-- One bit of a register. -/
abbrev bitOf (a i : Nat) : Fld := ⟨a, i, 1⟩

/-- A 64-bit value in a pair of registers, low word first. -/
def Chip.get64 (c : Chip) (lo hi : Nat) : Nat := (c.rd hi).toNat * 2 ^ 32 + (c.rd lo).toNat

/-- The device with a 64-bit value in a pair of registers; the value wraps. -/
def Chip.set64 (c : Chip) (lo hi n : Nat) : Chip := (c.wr lo (wd n)).wr hi (wd (n / 2 ^ 32))

/-! ### Header fields of any page, by its first byte address -/

abbrev hEn (p : Nat) : Fld := ⟨p + 8, 0, 1⟩
abbrev hFreeze (p : Nat) : Fld := ⟨p + 8, 2, 1⟩
abbrev hCommitReq (p : Nat) : Fld := ⟨p + 8, 3, 1⟩
abbrev hActive (p : Nat) : Fld := ⟨p + 0xC, 0, 1⟩
abbrev hBusy (p : Nat) : Fld := ⟨p + 0xC, 1, 1⟩
abbrev hFault (p : Nat) : Fld := ⟨p + 0xC, 4, 1⟩
abbrev hState (p : Nat) : Fld := ⟨p + 0xC, 5, 3⟩
abbrev hSticky (p i : Nat) : Fld := ⟨p + 0x10, i, 1⟩
abbrev hPlEpoch (p : Nat) : Fld := ⟨p + 0x20, 0, 8⟩
abbrev hCfgEpoch (p : Nat) : Fld := ⟨p + 0x20, 16, 16⟩
abbrev hReason (p : Nat) : Fld := ⟨p + 0x24, 0, 8⟩
abbrev hRejCnt (p : Nat) : Fld := ⟨p + 0x24, 24, 8⟩

/-- First byte address of the page of a class and instance (R53). -/
abbrev pageOf (cls inst : Nat) : Nat := cls * 0x80000 + inst * 0x1000

/-! ### Refused accesses (R68, R493) -/

/-- An access that reaches a page: its source, byte address and value. -/
structure Acc where
  src : Source
  addr : Nat
  val : Word
deriving DecidableEq, Repr

def Acc.off (w : Acc) : Nat := aOff w.addr
def Acc.inst (w : Acc) : Nat := aInst w.addr
def Acc.cls (w : Acc) : Nat := aCls w.addr
def Acc.page (w : Acc) : Nat := aPage w.addr

/-- ERRINFO SOURCE (Table 2.11). -/
def srcCode : Source → Nat
  | .parallel => 0 | .serial => 1 | .fabric => 2 | .hke => 3 | .cle => 4 | .isn => 5

/-- A refused access: WR_REJ is set and ERRINFO records it (R493). -/
def Chip.reject (c : Chip) (w : Acc) (reason : Nat) (wr : Bool) : Chip :=
  let p := w.page
  let n := min (c.get (hRejCnt p) + 1) 255
  (c.raise (hSticky p 0)).wr (p + 0x24)
    (wd (reason + (w.off / 4) * 2 ^ 8 + wr.toNat * 2 ^ 18 + srcCode w.src * 2 ^ 19 + n * 2 ^ 24))

/-! ### Reason codes (Table 1.3) -/

abbrev rOverDeadline : Nat := 0x01
abbrev rBlocksCommitted : Nat := 0x02
abbrev rOverUtil : Nat := 0x03
abbrev rNoSlot : Nat := 0x04
abbrev rNoPair : Nat := 0x05
abbrev rRegionSlow : Nat := 0x06
abbrev rRegionSkew : Nat := 0x07
abbrev rCostMissing : Nat := 0x08
abbrev rLocked : Nat := 0x09
abbrev rState : Nat := 0x0A
abbrev rNoPath : Nat := 0x0B
abbrev rRefLost : Nat := 0x0C
abbrev rSafety : Nat := 0x0D
abbrev rParam : Nat := 0x0E
abbrev rHeld : Nat := 0x0F
abbrev rNoMem : Nat := 0x80
abbrev rPortOwned : Nat := 0x81

/-! ### System Time -/

/-- Time moves on to an instant, never back (R21). -/
def Chip.goto (c : Chip) (t : Nat) : Chip := { c with st := max c.st t }

/-- A fresh free value is drawn (log 9). -/
def Chip.draw (c : Chip) : Nat × Chip := (c.fresh, { c with fresh := c.fresh + 1 })

/-- The tag of a port increments (R152). -/
def Chip.bumpTag (c : Chip) (port : Nat) : Chip :=
  { c with portTag := Tab.set c.portTag 0 port ((Tab.at c.portTag 0 port + 1) % 256) }

/-! ### Events that trigger (R125, R192, R239, R252) -/

/-- The sources of events: PG legs, position compares, ADC results, mailbox words, comparator latches. -/
abbrev evPg : Nat := 1
abbrev evPfu : Nat := 2
abbrev evAdc : Nat := 3
abbrev evMbx : Nat := 5
abbrev evCmp : Nat := 7

/-- Key of an event of an instance of a source. -/
def eventKey (src inst evt : Nat) : Nat := (src * 256 + inst) * 64 + evt

/-- An event occurs at an instant. -/
def Chip.event (c : Chip) (src inst evt at_ : Nat) : Chip := { c with events := Tab.put c.events (eventKey src inst evt) at_ }

/-- The last such event occurred at an instant. -/
def Chip.eventAt (c : Chip) (src inst evt at_ : Nat) : Bool := Tab.find c.events (eventKey src inst evt) == some at_

/-! ### Late arrivals (R47) -/

/-- A timeout has won against an arrival: it is counted, and LATE_LAST names the interface (R47). -/
def Chip.late (c : Chip) (cls inst chan : Nat) : Chip :=
  ((c.inc (whole R.LEASH.LATE_CNT)).raise F.LEASH.STICKY.LATE_ARRIVAL).wr R.LEASH.LATE_LAST
    (wd (cls % 256 + (inst % 256) * 2 ^ 8 + (chan % 256) * 2 ^ 16))

/-- A refusal by Leash or on its behalf (Table 1.14). -/
def Chip.lastRefuse (c : Chip) (cls inst reason : Nat) : Chip :=
  c.wr R.LEASH.LAST_REFUSE (wd (cls % 256 + (inst % 256) * 2 ^ 8 + (reason % 256) * 2 ^ 16))

/-! ### Reports to Isaenaim -/

/-- A source of Table 12.2 informs Isaenaim; FAULT_REPORT is its reaction (R396). -/
def Chip.report (c : Chip) (source inst : Nat) : Chip :=
  let i := c.isn
  { c with
    reports := c.reports ++ [(source, inst)]
    isn := { i with
      faulty := if i.faulty.contains (source, inst) then i.faulty else i.faulty ++ [(source, inst)]
      okSince := if (Tab.find i.okSince (source * 64 + inst)).isSome then Tab.put i.okSince (source * 64 + inst) c.st else i.okSince } }

/-- The means of Table 12.2 that clears a source has come for an instance; FAULT_CLEARED is Isaenaim's reaction (R396, log 69). -/
def Chip.mended (c : Chip) (source inst : Nat) : Chip :=
  { c with isn := { c.isn with faulty := c.isn.faulty.filter fun e => e != (source, inst) } }

/-- Since when a supply has been in range (11), or a unit TRACKING (12): the 1 s of Table 12.2 starts or is lost. -/
def Chip.noteOk (c : Chip) (source inst : Nat) (ok : Bool) : Chip :=
  let k := source * 64 + inst
  let t := c.isn.okSince
  { c with isn := { c.isn with okSince := if !ok then Tab.del t k else if (Tab.find t k).isSome then t else Tab.put t k c.st } }

/-- A failing test of Table 5.2: ANALOG_FAIL, the test and the instance are recorded, and Isaenaim is informed (R173). -/
def Chip.analogFail (c : Chip) (test inst : Nat) : Chip :=
  (((c.raise (bitOf R.BIST.ANA_STATUS test)).set ⟨R.BIST.ANA_STATUS, 8, 8⟩ inst).raise (hSticky R.BIST.ID 5)).report 6 (test * 256 + inst)

/-- A check of Table 5.2 that runs by itself has failed: it counts while ANALOG_EN and its bit of ANA_CFG are 1 (R173). -/
def Chip.analogSeen (c : Chip) (test inst : Nat) : Chip :=
  if c.on (bitOf R.BIST.CTRL 10) && c.on (bitOf R.BIST.ANA_CFG test) then c.analogFail test inst else c

/-- One tick of System Time passes with nothing commanded (log 2). -/
def Chip.idle (c : Chip) : Chip := { c with st := c.st + 1 }

/-! ### Hidden state by index -/

def Chip.pair (c : Chip) (n : Nat) : PairSt := Tab.at c.pairs {} n
def Chip.setPair (c : Chip) (n : Nat) (x : PairSt) : Chip := { c with pairs := Tab.set c.pairs {} n x }
def Chip.loop (c : Chip) (n : Nat) : LoopSt := Tab.at c.loops {} n
def Chip.setLoop (c : Chip) (n : Nat) (x : LoopSt) : Chip := { c with loops := Tab.set c.loops {} n x }
def Chip.updLoop (c : Chip) (n : Nat) (f : LoopSt → LoopSt) : Chip := c.setLoop n (f (c.loop n))
def Chip.updPair (c : Chip) (n : Nat) (f : PairSt → PairSt) : Chip := c.setPair n (f (c.pair n))
def Chip.region (c : Chip) (n : Nat) : RegionSt := Tab.at c.regions {} n
def Chip.setRegion (c : Chip) (n : Nat) (x : RegionSt) : Chip := { c with regions := Tab.set c.regions {} n x }
def Chip.updRegion (c : Chip) (n : Nat) (f : RegionSt → RegionSt) : Chip := c.setRegion n (f (c.region n))

/-- Fold over the numbers below `n`, in rising order. -/
def upto {α : Type} (n : Nat) (f : α → Nat → α) (x : α) : α := (List.range n).foldl f x

/-! ### The whole device -/

/-- A command that changes only the device: the queue and the unlock windows stay as they are. -/
def State.onChip (s : State) (f : Chip → Chip) : State := { s with chip := f s.chip }

/-- The next state after a command that changes only the device. -/
def State.nextChip (s : State) (f : Chip → Chip) : Host.Outcome State Fault Refusal := .next (s.onChip f)

end Sys2Proof.Machine
end

