-- ==== Sys2Proof/Machine/Gate.lean ====
section
/-! DEFINITION. The gate every register write passes: unmapped pages, the unlock window, SAFE-HOLD and the registers of
the safety configuration (R12, R55, R65–R68, R395, R483, R493). -/

namespace Sys2Proof.Machine

/-- The bits of a register that store a value and the bits that carry a command (R63, R493 and the register maps). -/
def writeMasks (a : Nat) : Nat × Nat :=
  let off := aOff a
  let m := mapClass (aCls a) (aInst a)
  let h := pageHdr m
  if off = 0x08 then (h.ctrlRw ||| 0x4, h.ctrlCmd ||| 0xA)
  else if off = 0x10 ∨ off = 0x14 then (h.sticky, 0)
  else match findRow (regRows m) off with
    | some r => (r.rw ||| r.rws ||| r.w1c, r.wo)
    | none => (0, 0)

/-- A write that carries a command: its refusal has WR = 0 (R493). -/
def carriesCommand (a : Nat) (v : Word) : Bool :=
  let m := writeMasks a
  (m.1 == 0 && m.2 != 0) || v.toNat &&& m.2 != 0

/-- A register that holds only RO, ROV or RSV fields ignores writes without a rejection (R12, R66). -/
def readOnly (a : Nat) : Bool :=
  let m := writeMasks a
  m.1 == 0 && m.2 == 0

/-- A register that accepts writes whatever the lock (R65): STICKY, IRQ_EN and the HOST mailbox registers. -/
def lockExempt (a : Nat) : Bool :=
  aOff a == 0x10 || aOff a == 0x14 || (aCls a == 1 && 0xA0 ≤ aOff a && aOff a ≤ 0x11C)

/-- A register of the safety configuration (R395). -/
def safeRow (a : Nat) : Bool :=
  match findRow (regRows (mapClass (aCls a) (aInst a))) (aOff a) with
  | some r => r.safe
  | none => false

/-- A host port takes accesses: it is enabled, and the device is past step C4 or W5 of its start (R84, R475, R487). -/
def Chip.portOpen (c : Chip) : Source → Bool
  | .parallel => c.on F.HOST.PORT_CFG.PHP_EN && c.phase != .held && c.phase != .warmHeld && c.phase != .failed
  | .serial => c.on F.HOST.PORT_CFG.SHP_EN && c.phase != .held && c.phase != .warmHeld && c.phase != .failed
  | _ => c.phase != .held && c.phase != .warmHeld && c.phase != .failed

/-- Isaenaim is in SAFE with STO applied (R395). -/
def Chip.safeSto (c : Chip) : Bool :=
  !c.on (hState R.ISN.ID) && c.on F.SAFE.STO_STAT.CUT_A && c.on F.SAFE.STO_STAT.CUT_B

/-- An access to an address with no implemented page (R55). -/
def Chip.unmapped (c : Chip) : Chip := (c.raise (hSticky R.HOST.ID 1)).inc (whole R.HOST.UNMAPPED_CNT)

/-- The number of a page in the table of unlock windows. -/
def pageNo (a : Nat) : Nat := a % 0x1000000 / 0x1000

/-- The unlock state of a page. -/
def State.lock (s : State) (p : Nat) : LockSt := Tab.at s.locks {} p

/-- An unlock window is open: writes are left and its 1 ms has not passed (R65). -/
def LockSt.isOpen (l : LockSt) (st : Nat) : Bool := l.remain != 0 && decide (st < l.openedAt + Config.ms)

/-- The unlock state after a write to the page that is not to LOCK: ARMED clears, and an open window loses a count. -/
def LockSt.use (l : LockSt) (st : Nat) : LockSt :=
  if l.isOpen st ∧ l.remain ≠ 1 then { remain := l.remain - 1, openedAt := l.openedAt, armed := false } else {}

/-- The unlock state after a key is written to LOCK (R65). -/
def LockSt.key (l : LockSt) (st key : Nat) : LockSt :=
  if key = 0x5A5A then { armed := true }
  else if key = 0xA5A5 ∧ l.armed then { remain := 64, openedAt := st }
  else {}

/-- A page with its unlock state set. -/
def State.setLock (s : State) (p : Nat) (l : LockSt) : State := { s with locks := Tab.set s.locks {} p l }

/-- SAFE-HOLD takes writes on the HOST, KENNEL, NVM and EVREC pages only (R483). -/
def holdWritable (cls : Nat) : Bool := cls == 0x01 || cls == 0x12 || cls == 0x1A || cls == 0x18

/-- A write that has reached its page, with `unlocked` telling whether the page's window was open; `f` is the page's own
handling of it (R12, R66, R395, R483). -/
def Chip.gateWrite (c : Chip) (w : Acc) (unlocked : Bool) (f : Chip → Chip) : Chip :=
  let wr := !carriesCommand w.addr w.val
  if readOnly w.addr then c
  else if c.phase = .safeHold ∧ !holdWritable w.cls then c.reject w rState wr
  else if !unlocked && !lockExempt w.addr then c.reject w rLocked wr
  else if safeRow w.addr && !c.safeSto then c.reject w rSafety wr
  else f c

/-- A write of a source to a register: the gate, then the page's own handling `f`. KEY of LOCK is a WO field, so a refused
write to LOCK has WR = 0 (Table 2.9, R493). -/
def State.gated (s : State) (w : Acc) (f : Chip → Chip) : State :=
  if !s.chip.portOpen w.src then s
  else if !pageImplemented w.addr then { s with chip := s.chip.unmapped }
  else
    let p := pageNo w.addr
    let l := s.lock p
    if w.off = 0x1C then
      if s.chip.phase = .safeHold ∧ !holdWritable w.cls then { s with chip := s.chip.reject w rState false }
      else s.setLock p (l.key s.chip.st (w.val.toNat % 2 ^ 16))
    else { s.setLock p (l.use s.chip.st) with chip := s.chip.gateWrite w (l.isOpen s.chip.st) f }

/-- The outcome of a gated write. -/
def State.nextGated (s : State) (w : Acc) (f : Chip → Chip) : Host.Outcome State Fault Refusal := .next (s.gated w f)

end Sys2Proof.Machine
end

