-- ==== Sys2Proof/Machine/Image.lean ====
section
/-! DEFINITION. Program images: the bundle of a bank, its loop directory, the instruction fields, the loader's checks and
the worst-case cost of a program (R93–R112). -/

namespace Sys2Proof.Machine

/-! ### Bundle bytes (R110) -/

/-- A bank, as its words. -/
abbrev Bank := Tab Word

/-- Byte of a bank. -/
def bankByte (m : Bank) (o : Nat) : Nat := bits (Tab.at m 0 (o / 4)) (o % 4 * 8) 8

/-- Little-endian value of `n` bytes of a bank. -/
def bankLe (m : Bank) (o n : Nat) : Nat := (List.range n).foldr (fun k acc => bankByte m (o + k) + 256 * acc) 0

/-- A directory entry (Table 3.9). -/
structure DirEntry where
  loop : Nat
  runAhead : Bool
  outI : Bool
  codeOfs : Nat
  codeLen : Nat
  dataLen : Nat
  dataOfs : Nat
  cost : Nat
  portsOfs : Nat
  portsN : Nat
  spanLoop : Nat
  spanValid : Bool
  shmBase : Nat
  shmLen : Nat
  /-- The reserved bits of LFLAGS and SPAN are 0. -/
  clean : Bool
deriving DecidableEq, Repr

def bundleVersion (m : Bank) : Nat := bankLe m 12 4
def bundleLen (m : Bank) : Nat := bankLe m 16 4
def bundleLoops (m : Bank) : Nat := bankLe m 20 2
def bundleKey (m : Bank) : Nat := bankByte m 22
def bundleDieRev (m : Bank) : Nat := bankByte m 23

/-- Entry `k` of the loop directory. -/
def dirEntry (m : Bank) (k : Nat) : DirEntry :=
  let o := bankLe m 24 4 + 32 * k
  let fl := bankLe m (o + 2) 2
  let sp := bankLe m (o + 26) 2
  let sh := bankLe m (o + 28) 4
  { loop := bankLe m o 2, runAhead := fl % 2 == 1, outI := fl / 2 % 2 == 1
    codeOfs := bankLe m (o + 4) 4, codeLen := bankLe m (o + 8) 2, dataLen := bankLe m (o + 10) 2
    dataOfs := bankLe m (o + 12) 4, cost := bankLe m (o + 16) 4, portsOfs := bankLe m (o + 20) 4
    portsN := bankLe m (o + 24) 2, spanLoop := sp % 512, spanValid := sp / 2 ^ 15 == 1
    shmBase := sh % 2 ^ 20, shmLen := sh / 2 ^ 20 * 256, clean := fl < 4 && sp / 512 % 64 == 0 }

/-- The whole directory. -/
def directory (m : Bank) : List DirEntry := (List.range (bundleLoops m)).map (dirEntry m)

/-- The directory entry of a loop. -/
def findEntry (m : Bank) (loop : Nat) : Option DirEntry := (directory m).find? fun e => e.loop == loop

/-- The port list of an entry: port, read, write (R110). -/
def portList (m : Bank) (e : DirEntry) : List (Nat × Bool × Bool) :=
  (List.range e.portsN).map fun k =>
    let v := bankLe m (e.portsOfs + 2 * k) 2
    (v % 2 ^ 14, v / 2 ^ 14 % 2 == 1, v / 2 ^ 15 == 1)

/-- The code of an entry, one instruction word each. -/
def codeOf (m : Bank) (e : DirEntry) : List Word := (List.range e.codeLen).map fun k => Tab.at m 0 (e.codeOfs / 4 + k)

/-! ### Instruction fields (R93, Tables 3.3 to 3.5) -/

def iOp (i : Word) : Nat := bits i 26 6
def iPg (i : Word) : Nat := bits i 23 3
def iRd (i : Word) : Nat := bits i 18 5
def iRa (i : Word) : Nat := bits i 13 5
def iRb (i : Word) : Nat := bits i 8 5
def iQs (i : Word) : Int := signed 5 (bits i 3 5)
def iSub (i : Word) : Nat := bits i 0 3
/-- PORT of a form P instruction. -/
def iPort (i : Word) : Nat := bits i 0 14
/-- PORT of WAITP (R106). -/
def wPort (i : Word) : Nat := bits i 6 14
/-- LIMIT of WAITP (R106). -/
def wLimit (i : Word) : Nat := bits i 0 6

/-- A reserved opcode (Table 3.4). -/
def opReserved (i : Word) : Bool :=
  let op := iOp i
  (0x18 ≤ op && op ≤ 0x1F) || (0x23 ≤ op && op ≤ 0x27) || (0x2A ≤ op && op ≤ 0x2F) || (0x32 ≤ op && op ≤ 0x37) || 0x3E ≤ op

/-- WU of an instruction by itself (Table 3.4); a LOOP counts 2 and its body apart. -/
def wuOf (i : Word) : Nat :=
  match iOp i with
  | 0x03 => 3 | 0x04 => 2 | 0x05 => 2 | 0x12 => 2 | 0x13 => 2 | 0x14 => 12
  | 0x15 => if iSub i = 5 then 14 else if iSub i = 2 ∨ iSub i = 3 then 12 else 10
  | 0x16 => 6
  | 0x28 => if bits i 12 1 = 1 then 24 else 2
  | 0x29 => if bits i 12 1 = 1 then 24 else 2
  | 0x30 => 3 | 0x31 => 3 | 0x38 => 2 | 0x3B => 4 + 35 * wLimit i | 0x3C => 4 | 0x3D => 2
  | _ => 1

/-- Opcodes, unused fields, SUB values and QS ranges of a form A instruction (R95, Tables 3.4 and 3.5). -/
def formAOk (i : Word) : Bool :=
  let q0 := bits i 3 5 == 0
  let s0 := iSub i == 0
  match iOp i with
  | 0x01 => s0 | 0x02 => s0 | 0x03 => s0
  | 0x04 => iRd i == 0 && iSub i < 4 && iQs i ≤ 7
  | 0x05 => iRd i == 0 && iSub i < 4 && iQs i ≤ 7
  | 0x06 => iRa i == 0 && iRb i == 0
  | 0x07 => iRd i == 0 && iRb i == 0 && iSub i < 4
  | 0x08 => q0 && s0 | 0x09 => q0 && s0
  | 0x0A => iRb i == 0 && s0 | 0x0B => iRb i == 0 && s0
  | 0x0C => q0 && s0 | 0x0D => q0 && s0 | 0x0E => q0 && s0 | 0x0F => q0 && s0
  | 0x10 => q0 && 1 ≤ iRd i && iRd i < 8
  | 0x11 => q0
  | 0x12 => q0 && iSub i < 2 && iRb i ≤ 30
  | 0x13 => q0 && iSub i < 2
  | 0x14 => s0
  | 0x15 =>
    match iSub i with
    | 0 => q0 && iRb i == 0 | 1 => q0 && iRb i == 0
    | 2 => q0 && iRb i == 0 && iRd i ≤ 30
    | 3 => q0 | 4 => true | 5 => iRd i ≤ 30 | _ => false
  | 0x16 => q0 && iSub i < 2
  | 0x17 => iRb i == 0 && s0
  | _ => false

/-- Opcodes and unused fields of every form (R95, R104–R108). -/
def instrOk (i : Word) : Bool :=
  let op := iOp i
  if op = 0x00 then bits i 0 23 == 0
  else if op < 0x20 then formAOk i
  else match op with
    | 0x20 => bits i 16 2 < 3
    | 0x21 => bits i 16 2 == 0
    | 0x22 => true
    | 0x28 => true | 0x29 => true
    | 0x30 => bits i 14 4 == 0
    | 0x31 => bits i 14 4 < 2
    | 0x38 => 1 ≤ bits i 11 12 && 1 ≤ bits i 0 11
    | 0x39 => bits i 11 12 == 0 && 1 ≤ bits i 0 11
    | 0x3A => bits i 0 10 == 0 && bits i 20 3 != 0
    | 0x3B => bits i 20 3 != 0 && 1 ≤ wLimit i
    | 0x3C => bits i 0 23 == 0 && iPg i == 0
    | 0x3D => bits i 16 7 == 0
    | _ => false

/-- The command of an instruction word by the fields of Table 3.3 (R93–R108): what the pair's cores `cs` execute at it, with
nothing met from outside. None for a word that the loader refuses. -/
def instrOf (p : Fin 36) (cs : Cores) (i : Word) : Option Instr :=
  let g := Fin.ofNat 8 (iPg i)
  let rd := Fin.ofNat 32 (iRd i)
  let ra := Fin.ofNat 32 (iRa i)
  let rb := Fin.ofNat 32 (iRb i)
  let qs := i.extractLsb' 3 5
  let acc := Fin.ofNat 4 (iSub i)
  let imm := i.extractLsb' 0 16
  let port := i.extractLsb' 0 14
  if !instrOk i then none
  else match iOp i with
    | 0x00 => some (.cleNop p cs g)
    | 0x01 => some (.cleAdd p cs g rd ra rb qs)
    | 0x02 => some (.cleSub p cs g rd ra rb qs)
    | 0x03 => some (.cleMul p cs g rd ra rb qs)
    | 0x04 => some (.cleMac p cs g acc ra rb qs)
    | 0x05 => some (.cleMsu p cs g acc ra rb qs)
    | 0x06 => some (.cleAccr p cs g acc rd (i.getLsbD 2) qs)
    | 0x07 => some (.cleAccw p cs g acc ra qs)
    | 0x08 => some (.cleMin p cs g rd ra rb)
    | 0x09 => some (.cleMax p cs g rd ra rb)
    | 0x0A => some (.cleAbs p cs g rd ra qs)
    | 0x0B => some (.cleNeg p cs g rd ra qs)
    | 0x0C => some (.cleShv p cs g rd ra rb)
    | 0x0D => some (.cleAnd p cs g rd ra rb)
    | 0x0E => some (.cleOr p cs g rd ra rb)
    | 0x0F => some (.cleXor p cs g rd ra rb)
    | 0x10 => some (.cleCmp p cs g (Fin.ofNat 8 (iRd i)) ra rb
        (match iSub i with | 0 => .eq | 1 => .ne | 2 => .lt | 3 => .le | 4 => .gt | 5 => .ge | 6 => .ltu | _ => .geu))
    | 0x11 => some (.cleSel p cs g rd ra rb (Fin.ofNat 8 (iSub i)))
    | 0x12 => some (.cleClamp p cs g rd ra (Fin.ofNat 31 (iRb i)) (i.getLsbD 0))
    | 0x13 => some (.cleRate p cs g rd ra rb (i.getLsbD 0))
    | 0x14 => some (.cleDiv p cs g rd ra rb qs)
    | 0x15 => match iSub i with
      | 0 => some (.cleCordicSin p cs g rd ra)
      | 1 => some (.cleCordicCos p cs g rd ra)
      | 2 => some (.cleCordicSincos p cs g (Fin.ofNat 31 (iRd i)) ra)
      | 3 => some (.cleCordicAtan2 p cs g rd ra rb)
      | 4 => some (.cleCordicMag p cs g rd ra rb qs)
      | _ => some (.cleCordicPolar p cs g (Fin.ofNat 31 (iRd i)) ra rb qs)
    | 0x16 => some (.cleInterp p cs g rd ra rb (i.getLsbD 0, .clean))
    | 0x17 => some (.cleMov p cs g rd ra qs)
    | 0x20 => match bits i 16 2 with
      | 0 => some (.cleLdiSigned p cs g rd imm)
      | 1 => some (.cleLdiHigh p cs g rd imm)
      | _ => some (.cleLdiLow p cs g rd imm)
    | 0x21 => some (.cleAddi p cs g rd imm)
    | 0x22 => some (.cleCmpi p cs g (Fin.ofNat 4 (bits i 16 2)) rd imm)
    | 0x28 => some (.cleLd p cs g rd ra (i.getLsbD 12) (i.extractLsb' 0 12) .clean)
    | 0x29 => some (.cleSt p cs g rd ra (i.getLsbD 12) (i.extractLsb' 0 12))
    | 0x30 => some (.cleIn p g rd { port := port } none none)
    | 0x31 => if i.getLsbD 14 then some (.cleOutImmediate p g rd (Fin.ofNat 256 (iPort i))) else some (.cleOutStaged p cs g rd port)
    | 0x38 => some (.cleLoop p cs g (i.extractLsb' 11 12) (i.extractLsb' 0 11))
    | 0x39 => some (.cleSkip p cs g (i.extractLsb' 0 11))
    | 0x3A => some (.clePlog p cs g (Fin.ofNat 8 (bits i 20 3)) (Fin.ofNat 8 (bits i 17 3)) (Fin.ofNat 8 (bits i 14 3)) (i.extractLsb' 10 4))
    | 0x3B => some (.cleWaitp p g (Fin.ofNat 8 (bits i 20 3)) (i.extractLsb' 6 14) (i.extractLsb' 0 6))
    | 0x3C => some (.cleEnd p 0 .none)
    | 0x3D => some (.cleTrap p g imm)
    | _ => none

/-! ### Ports (Table 3.7) -/

/-- A readable port. -/
def portReadable (p : Nat) : Bool :=
  p < 0x300 || (0x400 ≤ p && p ≤ 0x45F && p % 16 ≤ 6) || (0x800 ≤ p && p ≤ 0x89F && p % 4 == 3)
    || (0xA00 ≤ p && p ≤ 0xA0B)
    || (0xB00 ≤ p && p ≤ 0xB7F && p % 16 ≤ 5) || (0xC00 ≤ p && p ≤ 0xCFF && p % 16 ≤ 6)
    || (0x1000 ≤ p && p ≤ 0x10FF)
    || p == 0x1100 || p == 0x1102 || p == 0x1103 || p == 0x1108 || p == 0x1109

/-- A writable port. -/
def portWritable (p : Nat) : Bool :=
  (0x800 ≤ p && p ≤ 0x89F && p % 4 != 3) || (0xA10 ≤ p && p ≤ 0xA17)
    || (0xB00 ≤ p && p ≤ 0xB7F && p % 16 == 8)
    || (0x1000 ≤ p && p ≤ 0x10FF)

/-- A port with a fresh mark. -/
def portFresh (p : Nat) : Bool :=
  p < 0x300 || (0x400 ≤ p && p ≤ 0x45F && p % 16 == 6) || (0x1000 ≤ p && p ≤ 0x10FF)

/-- The continuous ports of Table 5.1: ANGLE, SPEED, ACCEL and INNOV of a PFU. -/
def portContinuous (p : Nat) : Bool :=
  0x400 ≤ p && p ≤ 0x45F && (p % 16 ≤ 2 || p % 16 == 4)

/-- The shared running-loop ports of Table 5.1. -/
def portShared (p : Nat) : Bool := 0x1100 ≤ p && p ≤ 0x111F

/-! ### Worst-case cost (R107) and wait charge (R32) -/

/-- What the paths from a point come to: the largest cost, whether some path runs past the range, and whether some path
ends at END. -/
structure PathRes where
  cost : Nat
  falls : Bool
  ends : Bool
  /-- Largest number of shared-SRAM stores on a path (R128). -/
  stores : Nat
deriving DecidableEq, Repr

def PathRes.join (x y : PathRes) : PathRes :=
  ⟨max x.cost y.cost, x.falls || y.falls, x.ends || y.ends, max x.stores y.stores⟩

/-- The results of every point of `code`, the first at its head; `body` gives the result of a LOOP body (R104, R107). -/
def pathFrom (body : List Word → PathRes) : List Word → List PathRes
  | [] => [⟨0, true, false, 0⟩]
  | i :: rest =>
    let l := pathFrom body rest
    let nxt := l.headD ⟨0, true, false, 0⟩
    let r : PathRes :=
      if iOp i = 0x3C then ⟨4, false, true, 0⟩
      else if iOp i = 0x3D ∧ iPg i = 0 then ⟨2, false, false, 0⟩
      else if iOp i = 0x39 then
        let far := l.getD (bits i 0 11) ⟨0, true, false, 0⟩
        let j := nxt.join far
        { j with cost := j.cost + 1 }
      else if iOp i = 0x38 then
        let n := bits i 0 11
        let cnt := bits i 11 12
        let b := body (rest.take n)
        let far := l.getD n ⟨0, true, false, 0⟩
        -- an unguarded body whose every path ends is never left; under a guard it may be passed over (R104)
        if iPg i = 0 ∧ b.falls = false then ⟨2 + cnt * b.cost, false, b.ends, b.stores⟩
        else ⟨2 + cnt * b.cost + far.cost, far.falls, far.ends || b.ends, cnt * b.stores + far.stores⟩
      else
        let sh := if iOp i = 0x29 ∧ bits i 12 1 = 1 then 1 else 0
        { nxt with cost := nxt.cost + wuOf i, stores := nxt.stores + sh }
    r :: l

/-- The paths through `code`, with LOOP bodies to a nesting depth of `depth` (R104, R107). The list holds the result of every
point, the first at its head. -/
def pathList : Nat → List Word → List PathRes
  | 0, code => code.foldr (fun _ l => ⟨0, true, false, 0⟩ :: l) [⟨0, true, false, 0⟩]
  | depth + 1, code => pathFrom (fun c => (pathList depth c).headD ⟨0, true, false, 0⟩) code

/-- The paths of a program from its entry. -/
def pathsOf (code : List Word) : PathRes := (pathList 5 code).headD ⟨0, true, false, 0⟩

/-- The wait charge of a program: 35 × LIMIT of every WAITP times the COUNT of every enclosing LOOP (R32). The list holds
the LOOPs that enclose the point: instructions left of the body and COUNT. -/
def waitCharge : List (Nat × Nat) → List Word → Nat
  | _, [] => 0
  | fr, i :: rest =>
    let here := fr.filter fun f => f.1 != 0
    let mul := here.foldl (fun a f => a * f.2) 1
    let w := if iOp i = 0x3B then 35 * wLimit i * mul else 0
    let down := here.map fun f => (f.1 - 1, f.2)
    let fr' := if iOp i = 0x38 then (bits i 0 11, bits i 11 12) :: down else down
    w + waitCharge fr' rest

/-- LOOPs nest to a depth of at most 4, each wholly inside its enclosing body and inside the program, and no SKIP leaves
or enters a LOOP body (R104, R105). `fr` holds the instructions left of the bodies that enclose the point, innermost
first; `left` the instructions left of the program. -/
def nestOk : List Nat → List Word → Bool
  | _, [] => true
  | fr, i :: rest =>
    let here := fr.filter fun n => n != 0
    let room := (here.head?).getD (rest.length + 1) - 1
    let ok :=
      if iOp i = 0x38 then here.length < 4 && bits i 0 11 ≤ room
      else if iOp i = 0x39 then
        let d := bits i 0 11
        d ≤ room && (List.range d).all fun k =>
          let j := rest.getD k 0
          iOp j != 0x38 || k + 1 + bits j 0 11 ≤ d
      else true
    let down := here.map fun n => n - 1
    let fr' := if iOp i = 0x38 then bits i 0 11 :: down else down
    ok && nestOk fr' rest

/-! ### The loader's checks (R112) -/

/-- Bytes `o` to `o + n − 1` lie under DIGEST. -/
def insideDigest (m : Bank) (o n : Nat) : Bool := o + n ≤ bundleLen m - 96

/-- What an instruction asks of the port list (R101–R106). -/
def instrPortsOk (ports : List (Nat × Bool × Bool)) (runAhead : Bool) (i : Word) : Bool :=
  let listed (p : Nat) (r w : Bool) := ports.any fun e => e.1 == p && (!r || e.2.1) && (!w || e.2.2)
  match iOp i with
  | 0x30 => portReadable (iPort i) && listed (iPort i) true false
  | 0x31 => portWritable (iPort i) && listed (iPort i) false true
      && (bits i 14 1 == 0 || (0x1000 ≤ iPort i && iPort i ≤ 0x10FF && !runAhead))
  | 0x3B => portFresh (wPort i) && listed (wPort i) true false
  | _ => true

/-- The checks on one directory entry (R112). -/
def entryOk (m : Bank) (e : DirEntry) : Bool :=
  let code := codeOf m e
  let ports := portList m e
  let p := pathsOf code
  e.clean && e.loop < 512 && 1 ≤ e.codeLen && e.codeLen ≤ 16384 && e.dataLen ≤ 8192 && e.codeOfs % 4 == 0
    && insideDigest m e.codeOfs (4 * e.codeLen) && (e.dataLen == 0 || insideDigest m e.dataOfs (4 * e.dataLen))
    && insideDigest m e.portsOfs (2 * e.portsN)
    && code.all instrOk && nestOk [] code && !p.falls && p.ends && p.stores ≤ 64
    && code.all (instrPortsOk ports e.runAhead)
    && ports.all (fun x => (portReadable x.1 || portWritable x.1) && (!x.2.1 || portReadable x.1)
        && (!x.2.2 || portWritable x.1))
    && (e.outI == code.any fun i => iOp i == 0x31 && bits i 14 1 == 1)
    && p.cost ≤ e.cost

/-- The checks on a whole bundle (R110, R112), with the device's control-die revision. That a writable port has one owning loop
at a time (R103) is decided at admission (R116): a bundle may hold loops that are never admitted together. -/
def bundleOk (m : Bank) (dieRev : Nat) : Bool :=
  let d := directory m
  bankLe m 0 4 == 0x4C424D41 && bankLe m 4 2 == 1 && bankLe m 6 2 == 0 && bundleLen m % 4 == 0 && 96 ≤ bundleLen m
    && bundleLen m ≤ 2621440 && 1 ≤ bundleLoops m && bundleLoops m ≤ 512 && bundleKey m < 8
    && bundleDieRev m ≤ dieRev && bankLe m 24 4 == 64 && bankByte m 28 == 1
    && (List.range 35).all (fun k => bankByte m (29 + k) == 0)
    && insideDigest m 64 (32 * bundleLoops m)
    && d.all (entryOk m)
    && (List.range d.length).all fun k => !((d.drop (k + 1)).any fun e => e.loop == (d.getD k (dirEntry m 0)).loop)

end Sys2Proof.Machine
end

