-- ==== Sys2Proof/Machine/Pace.lean ====
section
/-! DEFINITION. Regions, paces and response bounds: the arithmetic of the admission test (R14–R18, R29–R36, R42–R45).
Paces are in 1/16 WU/µs; times are fractions of a microsecond, exact. -/

namespace Sys2Proof.Machine

/-- A non-negative fraction. -/
structure Fr where
  num : Nat
  den : Nat
deriving DecidableEq, Repr

def Fr.ofNat (n : Nat) : Fr := ⟨n, 1⟩
def Fr.add (a b : Fr) : Fr := ⟨a.num * b.den + b.num * a.den, a.den * b.den⟩
def Fr.scale (n : Nat) (a : Fr) : Fr := ⟨n * a.num, a.den⟩
def Fr.le (a b : Fr) : Bool := a.num * b.den ≤ b.num * a.den
def Fr.lt (a b : Fr) : Bool := a.num * b.den < b.num * a.den
/-- The difference, 0 when it would be negative. -/
def Fr.sub (a b : Fr) : Fr := ⟨a.num * b.den - b.num * a.den, a.den * b.den⟩
def Fr.sum (l : List Fr) : Fr := l.foldl Fr.add ⟨0, 1⟩

/-- The regions of Table 1.1. -/
abbrev regionCount : Nat := 12

/-- Region of a pair (Table 1.1). -/
def regionOf (pair : Nat) : Nat := pair / 4

/-- Adjacent regions (Table 1.1). -/
def adjacent : Nat → List Nat
  | 0 => [1, 3, 9, 10] | 1 => [0, 2, 4, 10] | 2 => [1, 5, 10] | 3 => [0, 4, 6, 9] | 4 => [1, 3, 5, 7]
  | 5 => [2, 4, 8] | 6 => [3, 7, 9, 11] | 7 => [4, 6, 8, 11] | 8 => [5, 7, 11] | 9 => [0, 3, 6, 10, 11]
  | 10 => [0, 1, 2, 9] | 11 => [6, 7, 8, 9] | _ => []

/-- Regions whose difference the limits of R42 to R45 bound: the adjacent ones, and both ends of each dedicated route from a
CLE region to RG10 (R99). -/
def crossRegions (g : Nat) : List Nat :=
  if g = 10 then [0, 1, 2, 3, 4, 5, 6, 7, 8, 9] else if g < 9 then (adjacent g ++ [10]).eraseDups else adjacent g

/-- One layer more of a breadth-first search that keeps, for each region reached, the first chain found; chains are
extended from lower region numbers first, so ties break towards the lower region number (R14). Chains are newest first. -/
def growChains (seen : List (List Nat)) : List (List Nat) :=
  seen.foldl (fun acc ch =>
    (adjacent (ch.headD 0)).foldl (fun acc r => if acc.any (fun x => x.headD 99 == r) then acc else acc ++ [r :: ch]) acc)
    seen

/-- The shortest chain of adjacent regions between two regions, both ends in it (R14). -/
def chain (a b : Nat) : List Nat :=
  ((growChains (growChains (growChains (growChains (growChains [[a]]))))).find? fun x => x.headD 99 == b).getD [a, b]

/-- Home region of a mailbox word (R31). -/
def mailboxRegion (w : Nat) : Nat := if w < 252 then w / 28 else 10

/-- Regions on the way from a pair's region to another; RG10 is reached by its dedicated route (R14, R31). -/
def routeTo (home r : Nat) (dedicated : Bool) : List Nat := if dedicated then [home, r] else chain home r

/-- P_MEAS: the lowest reading among a region's sensors (R18); 0 before the first reading. -/
def RegionSt.pMeas (r : RegionSt) : Nat :=
  match r.sensors with
  | [] => 0
  | (_, v) :: t => t.foldl (fun m x => min m x.2) v

/-- The measured voltage lies within 20 mV of the target. -/
def RegionSt.voltNear (x : RegionSt) : Bool := decide (x.vmeas ≤ x.target + 20) && decide (x.target ≤ x.vmeas + 20)

/-- The lowest of a history of P_MEAS, newest first, back to what stood 1 ms ago. -/
def lowest (now : Nat) : List (Nat × Nat) → Nat → Nat
  | [], m => m
  | (v, t) :: rest, m => if t + Config.ms ≤ now then min m v else lowest now rest (min m v)

/-- P_BASIS (R29): the corner pace 380 WU/µs, or the lowest P_MEAS of the preceding 1 ms. -/
def Chip.pBasis (c : Chip) (r : Nat) : Nat :=
  if c.on F.LEASH.ADM_CFG.BASIS then 380 * 16
  else
    let x := c.region r
    lowest c.st x.hist x.pMeas

/-- P_ADM as a fraction of 1 WU/µs: 0.92 × the lowest P_BASIS of a set of regions (R30). -/
def Chip.pAdm (c : Chip) (span : List Nat) : Fr :=
  ⟨23 * ((span.map c.pBasis).foldl min (2 ^ 16)), 400⟩

/-- Iteration time of a loop at a pace, µs: C ÷ P + W × max(0, 1 ÷ 350 − 1 ÷ P) (R32). A pace of 0 gives no time. -/
def iterTime (cost wait : Nat) (p : Fr) : Fr :=
  if p.num = 0 then ⟨10 ^ 30, 1⟩
  else
    let base : Fr := ⟨cost * p.den, p.num⟩
    if Fr.lt ⟨350, 1⟩ p then base.add ⟨wait * (p.num - 350 * p.den), 350 * p.num⟩ else base

/-- What the admission test needs of a loop: number, cost, wait charge, period and deadline in ns, and its pace. -/
structure Load where
  loop : Nat
  cost : Nat
  wait : Nat
  period : Nat
  deadline : Nat
  pace : Fr
deriving DecidableEq, Repr

def Load.time (l : Load) : Fr := iterTime l.cost l.wait l.pace

/-- Iterations of loop j that can fall in the deadline of loop i: ⌈D_i ÷ P_j⌉ (R32). -/
def hits (di pj : Nat) : Nat := if pj = 0 then 0 else (di + pj - 1) / pj

/-- R_i of condition 1, µs, with t_TRIG = 25 ns (R32). -/
def response (set : List Load) (i : Load) : Fr :=
  (Fr.sum ((set.filter fun j => j.loop != i.loop).map fun j => Fr.scale (hits i.deadline j.period) j.time)).add
    (i.time.add ⟨25, 1000⟩)

/-- Condition 1 of R32 for one loop. -/
def meetsDeadline (set : List Load) (i : Load) : Bool := (response set i).le ⟨i.deadline, 1000⟩

/-- Condition 2 of R32: Σ T_j ÷ P_j ≤ 1. -/
def fitsLoad (set : List Load) : Bool :=
  (Fr.sum (set.map fun j => if j.period = 0 then ⟨0, 1⟩ else ⟨j.time.num * 1000, j.time.den * j.period⟩)).le ⟨1, 1⟩

/-- A fraction of a microsecond in whole ns, rounded up, saturating at FFFF_FFFFh. -/
def Fr.toNs (a : Fr) : Nat := if a.den = 0 then 0 else min ((a.num * 1000 + a.den - 1) / a.den) 0xFFFFFFFF

/-- The lowest pace at which condition 1 holds for loop i on a pair with the set (R36): with S_C and S_W the costs and
wait charges that fall in its deadline, S_C ÷ P ≤ D − t_TRIG up to 350 WU/µs, and above it
(S_C − S_W) ÷ P + S_W ÷ 350 ≤ D − t_TRIG. -/
def needOf (set : List Load) (i : Load) : Fr :=
  let others := set.filter fun j => j.loop != i.loop
  let sc := others.foldl (fun a j => a + hits i.deadline j.period * j.cost) i.cost
  let sw := others.foldl (fun a j => a + hits i.deadline j.period * j.wait) i.wait
  let room := i.deadline - 25
  if room = 0 then ⟨10 ^ 6, 1⟩
  else if sc * 1000 ≤ 350 * room then ⟨sc * 1000, room⟩
  else
    -- room ns − S_W ÷ 350 µs, in 1/350 ns
    let r := 350 * room - 1000 * sw
    if r = 0 then ⟨10 ^ 6, 1⟩ else ⟨(sc - sw) * 1000 * 350, r⟩

/-! ### The committed loops -/

/-- Loops committed to a pair, in order of admission. -/
def Chip.loopsOn (c : Chip) (pair : Nat) : List Nat :=
  c.admitted.filter fun l => c.get ((F.LPD.LPD_STATE.PAIR).win l) == pair

/-- A committed loop as a load at its own admission pace (R30). -/
def Chip.load (c : Chip) (l : Nat) : Load :=
  let x := c.loop l
  { loop := l, cost := x.cost, wait := x.waitCharge, period := (c.rd (lpd l R.LPD.LPD_PERIOD)).toNat
    deadline := (c.rd (lpd l R.LPD.LPD_DEADLINE)).toNat, pace := c.pAdm x.span }

/-- The loads of a pair. -/
def Chip.loads (c : Chip) (pair : Nat) : List Load := (c.loopsOn pair).map c.load

/-- The need of a committed loop on its pair (R36). -/
def Chip.loopNeed (c : Chip) (l : Nat) : Fr :=
  needOf (c.loads (c.get ((F.LPD.LPD_STATE.PAIR).win l))) (c.load l)

/-- The larger of two fractions. -/
def Fr.max (a b : Fr) : Fr := if a.lt b then b else a

/-- P_C of a region, WU/µs: the largest need of the committed loops on the pairs of the region (R36). -/
def Chip.pC (c : Chip) (r : Nat) : Fr :=
  ((c.admitted.filter fun l => regionOf (c.get ((F.LPD.LPD_STATE.PAIR).win l)) == r).map c.loopNeed).foldl Fr.max ⟨0, 1⟩

/-- The need a region is watched with: its P_C, and the P_C of each region that a committed loop spans together with it
(R43; log 12). -/
def Chip.watchNeed (c : Chip) (r : Nat) : Fr :=
  ((r :: (c.admitted.map fun l => (c.loop l).span).flatMap fun s => if s.contains r then s else []).eraseDups.map c.pC).foldl
    Fr.max ⟨0, 1⟩

/-- A fraction of 1 WU/µs in 1/16 WU/µs, rounded up, in 16 bits. -/
def Fr.to16 (a : Fr) : Nat := if a.den = 0 then 0 else min ((a.num * 16 + a.den - 1) / a.den) 0xFFFF

/-- The measured pace of a region as a fraction of 1 WU/µs. -/
def Chip.measured (c : Chip) (r : Nat) : Fr := ⟨(c.region r).pMeas, 16⟩

/-- P_MEAS stands at or above a percentage of the need the region is watched with (R38, R43). -/
def Chip.paceAtLeast (c : Chip) (r pct : Nat) : Bool :=
  let n := c.watchNeed r
  Fr.le ⟨n.num * pct, n.den * 100⟩ (c.measured r)

/-- The loads of a pair at the present measured pace of the regions each spans (R38). -/
def Chip.loadsNow (c : Chip) (pair : Nat) : List Load :=
  (c.loopsOn pair).map fun l =>
    { c.load l with pace := ⟨((c.loop l).span.map fun r => (c.region r).pMeas).foldl min (2 ^ 16), 16⟩ }

/-- The response bound of a committed loop at the present measured pace, µs. -/
def Chip.responseNow (c : Chip) (l : Nat) : Fr :=
  let set := c.loadsNow (c.get ((F.LPD.LPD_STATE.PAIR).win l))
  match set.find? fun j => j.loop == l with
  | some j => response set j
  | none => ⟨0, 1⟩

/-- The slack of a committed loop, D − R at the present pace, is 2 % of its deadline or more (R38, R40). -/
def Chip.slackOk (c : Chip) (l : Nat) : Bool :=
  Fr.le (c.responseNow l) ⟨(c.rd (lpd l R.LPD.LPD_DEADLINE)).toNat * 98, 100000⟩

/-- The committed loop has less slack than another at the present pace: D − R compared exactly. -/
def Chip.lessSlack (c : Chip) (l k : Nat) : Bool :=
  let dl : Fr := ⟨(c.rd (lpd l R.LPD.LPD_DEADLINE)).toNat, 1000⟩
  let dk : Fr := ⟨(c.rd (lpd k R.LPD.LPD_DEADLINE)).toNat, 1000⟩
  -- D_l − R_l < D_k − R_k
  (dl.add (c.responseNow k)).lt (dk.add (c.responseNow l))

/-! ### Span sets (R31) -/

/-- The span set of a loop on a pair: none when its SPAN partner is not admitted. -/
def Chip.spanOf (c : Chip) (e : DirEntry) (ports : List (Nat × Bool × Bool)) (pair : Nat) : Option (List Nat) :=
  let home := regionOf pair
  let shm := if e.shmLen = 0 then [] else [10]
  let mail := (ports.filter fun p => 0x1000 ≤ p.1 && p.1 ≤ 0x10FF).map fun p => mailboxRegion (p.1 - 0x1000)
  let part : Option (List Nat) :=
    if e.spanValid then
      if c.on ((F.LPD.LPD_STATE.ADMITTED).win e.spanLoop) then
        some (routeTo home (regionOf (c.get ((F.LPD.LPD_STATE.PAIR).win e.spanLoop))) false)
      else none
    else some []
  part.map fun q =>
    ((shm ++ mail).foldl (fun a r => a ++ routeTo home r (r == 10)) (home :: q)).eraseDups

end Sys2Proof.Machine
end

