-- ==== Sys2Proof/Machine/Records.lean ====
section
/-! DEFINITION. Event records: how an event is accepted into its partition (R448–R455). -/

namespace Sys2Proof.Machine

/-- The partition an event code selects (R449): 0 safety, 1 operational, 2 diagnostic. -/
def partOf (code : Nat) : Nat :=
  if (0x4900 ≤ code ∧ code ≤ 0x49FF) ∨ code = 0x5202 then 0
  else if (0x4300 ≤ code ∧ code ≤ 0x43FF) ∨ (0x4D00 ≤ code ∧ code ≤ 0x4DFF)
      ∨ (0x5200 ≤ code ∧ code ≤ 0x5201) ∨ (0x5203 ≤ code ∧ code ≤ 0x52FF)
      ∨ (0x5400 ≤ code ∧ code ≤ 0x54FF) ∨ 0x8000 ≤ code then 1
  else 2

/-- Entries of a partition's staging queue (Table 14.1). -/
def queueLen : Nat → Nat
  | 0 => 16 | _ => 32

/-- Slots of a partition (Table 14.1). -/
def slotCount : Nat → Nat
  | 1 => 32768 | _ => 16384

/-- First slot of a partition's ring: the safety partition keeps slots 0–4,095 (Table 14.1). -/
def ringStart : Nat → Nat
  | 0 => 4096 | _ => 0

def Chip.part (c : Chip) (n : Nat) : PartSt := Tab.at c.parts {} n
def Chip.setPart (c : Chip) (n : Nat) (x : PartSt) : Chip := { c with parts := Tab.set c.parts {} n x }

/-- ST of an event as the record field MS has it (Table 14.2). -/
def msOf (t : Nat) : Nat := t / Config.ms % 2 ^ 32

/-- The newest record counts one more occurrence (R454). -/
def Newest.again (n : Newest) (t : Nat) : Newest :=
  let d := { n.data with rep := n.data.rep + 1, span := min ((t - n.first) / Config.sec) 0xFFFF }
  { n with data := d, last := t, dirty := n.slot.isSome }

/-- An event is a repeat of the newest record of its partition (R454). -/
def Newest.matches (n : Newest) (src code lo hi t : Nat) : Bool :=
  n.data.src == src && n.data.code == code && n.data.lo == lo && n.data.hi == hi && n.data.rep < 0xFFFF &&
    t ≤ n.last + 10 * Config.sec

/-- An event joins partition `p` as a new record, or is refused when the staging queue is full (R451–R453). -/
def Chip.recordNew (c : Chip) (p src code lo hi : Nat) : Chip :=
  let x := c.part p
  if queueLen p ≤ x.queue.length then
    ((c.setPart p { x with lost := x.lost + 1 }).inc (whole (win p R.EVREC.REFUSE_CNT))).raise
      F.EVREC.STICKY.REFUSED
  else
    let r : Rec := { seq := x.next, optime := (c.rd R.KENNEL.OPTIME).toNat, pcycle := (c.rd R.KENNEL.PCYCLE).toNat % 2 ^ 24,
                     src := src, code := code, rep := 0, ms := msOf c.st, lo := lo % 2 ^ 32, hi := hi % 2 ^ 32, span := 0 }
    c.setPart p { x with
      next := (x.next + 1) % 2 ^ 32
      mark := if x.mark = x.next then (x.next + 256) % 2 ^ 32 else x.mark
      newestSeq := x.next
      owed := x.owed ++ x.newest.toList.filter fun n => n.dirty
      newest := some { data := r, first := c.st, last := c.st }
      queue := x.queue ++ [r] }

/-- An event is accepted: counted as a repeat of the newest record, or a new record (R448, R454). -/
def Chip.recordIn (c : Chip) (p src code lo hi : Nat) : Chip :=
  let x := c.part p
  match x.newest with
  | some n =>
    if n.matches src code (lo % 2 ^ 32) (hi % 2 ^ 32) c.st then
      let n' := n.again c.st
      c.setPart p { x with
        newest := some n'
        queue := if n.slot.isSome then x.queue else x.queue.map fun r => if r.seq = n.data.seq then n'.data else r }
    else c.recordNew p src code lo hi
  | none => c.recordNew p src code lo hi

/-- An event record of a code from a register class, with its eight payload bytes (R448–R454). -/
def Chip.record (c : Chip) (src code lo hi : Nat) : Chip := c.recordIn (partOf code) src code lo hi

/-- A record whose code and payload the spec leaves open: both are free values (log 10). -/
def Chip.recordOpen (c : Chip) (src kind : Nat) : Chip :=
  let d := c.draw
  let q := (Config.eventPayload kind d.1).toNat
  d.2.record src (Config.eventCode kind).toNat (q % 2 ^ 32) (q / 2 ^ 32)

/-- A record whose code the spec gives and whose payload it leaves open: the payload is a free value (log 10). -/
def Chip.recordCode (c : Chip) (src code : Nat) : Chip :=
  let d := c.draw
  let q := (Config.eventPayload code d.1).toNat
  d.2.record src code (q % 2 ^ 32) (q / 2 ^ 32)

/-- An item of the configuration digest has changed, or READY is reached: TOKEN takes the CRC-32 of the new digest, a free value
since its items have no stated layout (log 36), and TOKEN_VALID is set (R476). -/
def Chip.tokenWrite (c : Chip) : Chip :=
  if c.phase = .ready then
    let d := c.draw
    (d.2.wr R.KENNEL.TOKEN (Config.freeWord d.1)).raise F.KENNEL.KSTAT.TOKEN_VALID
  else c

end Sys2Proof.Machine
end

