-- ==== Sys2Proof/Machine/Loops.lean ====
section
/-! DEFINITION. Loops and placement: the state of a loop, its blocks and slot on a pair, effects on their way to their
blocks, set-points, cascades and the period boundary (R116–R118, R122–R137, R165–R169). -/

namespace Sys2Proof.Machine

/-! ### Fields of a loop -/

abbrev fState (l : Nat) : Fld := (F.LPD.LPD_STATE.STATE).win l
abbrev fAdmitted (l : Nat) : Fld := (F.LPD.LPD_STATE.ADMITTED).win l
abbrev fLoaded (l : Nat) : Fld := (F.LPD.LPD_STATE.LOADED).win l
abbrev fCmdPend (l : Nat) : Fld := (F.LPD.LPD_STATE.CMD_PEND).win l
abbrev fAtRisk (l : Nat) : Fld := (F.LPD.LPD_STATE.AT_RISK).win l
abbrev fPair (l : Nat) : Fld := (F.LPD.LPD_STATE.PAIR).win l
abbrev fSlot (l : Nat) : Fld := (F.LPD.LPD_STATE.SLOT).win l
abbrev fEpoch (l : Nat) : Fld := (F.LPD.LPD_STATE.EPOCH).win l
/-- A field of the loop window of a loop. -/
abbrev lf (f : Fld) (l : Nat) : Fld := f.win l

/-- Loop states (Table 4.2). -/
abbrev lsOpen : Nat := 0
abbrev lsClosed : Nat := 1
abbrev lsHold : Nat := 2
abbrev lsFault : Nat := 3

/-- PERIOD of a loop, ns. -/
def Chip.period (c : Chip) (l : Nat) : Nat := (c.rd (lpd l R.LPD.LPD_PERIOD)).toNat
/-- DEADLINE of a loop, ns. -/
def Chip.deadline (c : Chip) (l : Nat) : Nat := (c.rd (lpd l R.LPD.LPD_DEADLINE)).toNat

/-- ST at which an iteration's deadline falls (R127): the trigger plus DEADLINE, in whole ticks. -/
def Chip.deadlineAt (c : Chip) (l trig : Nat) : Nat := trig + Config.ns (c.deadline l)

/-! ### Ports of loops -/

/-- The admitted loop that owns a port for writing (R103). -/
def Chip.portOwner (c : Chip) (port : Nat) : Option Nat :=
  c.admitted.find? fun l => (c.loop l).ports.any fun p => p.1 == port && p.2.2

/-- An integer cut to a range, and whether it was outside. -/
def clampInt (lo hi v : Int) : Int × Bool := if v < lo then (lo, true) else if hi < v then (hi, true) else (v, false)

/-- A port value clamped to the range of its port, and whether it was clamped (R102): DUTY and PHASE of a leg from 0,
PERIOD as R248 states, DAC codes of 12 bits; a mailbox word and DUTY_CMD of a CONV, which is Q1.31, take every value. -/
def portClamp (port : Nat) (v : Word) : Word × Bool :=
  let r (lo hi : Int) : Word × Bool := let x := clampInt lo hi v.toInt; (iw x.1, x.2)
  if 0x800 ≤ port ∧ port ≤ 0x89F then
    if port % 4 = 1 then r (if (port - 0x800) / 4 < 24 then 128000 else 51200) 25600000 else r 0 0x7FFFFFFF
  else if 0xA10 ≤ port ∧ port ≤ 0xA17 then r 0 0xFFF
  else (v, false)

/-- An effect leaves for its block with the loop's present epoch (R167). -/
def Chip.issue (c : Chip) (l target : Nat) (shared : Bool) (v : Word) : Chip :=
  { c with effects := c.effects ++ [{ loop := l, pair := c.get (fPair l), epoch := c.get (fEpoch l), target := target,
                                       shared := shared, val := v }] }

/-! ### Slots and blocks (R116) -/

/-- A slot of a pair is taken. -/
def Chip.slotUsed (c : Chip) (p s : Nat) : Bool := c.on ((F.CLE.SLOT_INFO.VALID p).win s)

/-- The lowest free slot of a pair's LDT. -/
def Chip.freeSlot (c : Chip) (p : Nat) : Option Nat := (List.range 16).find? fun s => !c.slotUsed p s

def Chip.progBlocks (c : Chip) (p : Nat) : List (Nat × Nat) :=
  ((List.range 16).filter (c.slotUsed p)).map fun s =>
    (c.get ((F.CLE.SLOT_PMEM.PBASE p).win s), c.get ((F.CLE.SLOT_PMEM.PLEN p).win s))

def Chip.dataBlocks (c : Chip) (p : Nat) : List (Nat × Nat) :=
  ((List.range 16).filter (c.slotUsed p)).map fun s =>
    (c.get ((F.CLE.SLOT_DMEM.DBASE p).win s), c.get ((F.CLE.SLOT_DMEM.DLEN p).win s))

/-- A block at a base meets none of the blocks taken. -/
def blockFree (taken : List (Nat × Nat)) (base len : Nat) : Bool :=
  taken.all fun t => base + len ≤ t.1 || t.1 + t.2 ≤ base

/-- First fit from address 0: the lowest base at which a block of `len` fits in a memory of `size` (R116). -/
def firstFit (taken : List (Nat × Nat)) (size len : Nat) : Option Nat :=
  ((0 :: taken.map fun t => t.1 + t.2).filter fun b => b + len ≤ size && blockFree taken b len).foldl
    (fun m b => match m with | none => some b | some x => some (min x b)) none

/-- Length of the largest free block. -/
def largestFree (taken : List (Nat × Nat)) (size : Nat) : Nat :=
  (0 :: taken.map fun t => t.1 + t.2).foldl
    (fun m b =>
      if taken.any (fun t => t.1 ≤ b && b < t.1 + t.2) then m
      else max m ((taken.filter fun t => b ≤ t.1 && t.2 != 0).foldl (fun e t => min e t.1) size - b)) 0

/-- Both cores take up the configuration words of a slot as its registers show them (R157). -/
def Chip.latchSlot (c : Chip) (p s : Nat) : Chip :=
  let put (t : Tab Word) : Tab Word :=
    Tab.set (Tab.set (Tab.set (Tab.set t 0 (4 * s) (c.rd (win s (R.CLE.SLOT_INFO p)))) 0 (4 * s + 1) (c.rd (win s (R.CLE.SLOT_PMEM p))))
      0 (4 * s + 2) (c.rd (win s (R.CLE.SLOT_DMEM p)))) 0 (4 * s + 3) (c.rd (win s (R.CLE.SLOT_COST p)))
  c.updPair p fun x => { x with cfgA := put x.cfgA, cfgB := put x.cfgB }

/-- A slot takes a loop with its blocks and cost. -/
def Chip.takeSlot (c : Chip) (p s l pbase plen dbase dlen cost : Nat) : Chip :=
  (((((((c.set ((F.CLE.SLOT_INFO.LOOP p).win s) l).raise ((F.CLE.SLOT_INFO.VALID p).win s)).set
    ((F.CLE.SLOT_PMEM.PBASE p).win s) pbase).set ((F.CLE.SLOT_PMEM.PLEN p).win s) plen).set
    ((F.CLE.SLOT_DMEM.DBASE p).win s) dbase).set ((F.CLE.SLOT_DMEM.DLEN p).win s) dlen).wr
    (win s (R.CLE.SLOT_COST p)) (wd cost)).latchSlot p s

/-- A slot is freed with its blocks (R118). -/
def Chip.freeSlotOf (c : Chip) (p s : Nat) : Chip :=
  ((((c.wr (win s (R.CLE.SLOT_INFO p)) 0).wr (win s (R.CLE.SLOT_PMEM p)) 0).wr (win s (R.CLE.SLOT_DMEM p)) 0).wr
    (win s (R.CLE.SLOT_COST p)) 0).latchSlot p s

/-- The pair states of Table 5.5. -/
abbrev psIdle : Nat := 0
abbrev psComparing : Nat := 1
abbrev psEvacuating : Nat := 2
abbrev psTest : Nat := 3
abbrev psReserve : Nat := 4
abbrev psRetired : Nat := 5
abbrev psSuspect : Nat := 6

/-- What the pages of a pair show of its placement: N_LOOPS, MEM_FREE, LOADING, the CLE STATE, LEFT, and IDLE or
COMPARING (Tables 3.12, 3.13, 5.5, 5.7). -/
def Chip.showPair (c : Chip) (p : Nat) : Chip :=
  let n := ((List.range 16).filter (c.slotUsed p)).length
  let ps := c.get (F.PAIRCMP.STATUS.STATE p)
  let ps' := if ps = psIdle ∨ ps = psComparing then (if n = 0 then psIdle else psComparing) else ps
  let st := if c.on (F.CLE.PAIR_INFO.RETIRED p) then 4 else if ps' = psTest then 2
    else if c.on (F.CLE.PAIR_INFO.RESERVE p) then 3
    else if !c.on (F.CLE.CTRL.EN p) then 5 else if (c.pair p).run.isSome then 1 else 0
  (((((((c.set (F.CLE.STATUS.N_LOOPS p) n).set (F.CLE.MEM_FREE.PFREE p) (largestFree (c.progBlocks p) 16384)).set
    (F.CLE.MEM_FREE.DFREE p) (largestFree (c.dataBlocks p) 8192)).setb (F.CLE.STATUS.LOADING p)
    (c.on (F.CLE.LOAD_STATUS.BUSY p))).set (F.CLE.STATUS.STATE p) st).set (F.PAIRCMP.STATUS.STATE p) ps').set
    (F.PAIRCMP.MIG_STATUS.LEFT p) (min (c.loopsOn p).length 15))

/-! ### A loop's data segment -/

def Chip.dbase (c : Chip) (l : Nat) : Nat := c.get ((F.CLE.SLOT_DMEM.DBASE (c.get (fPair l))).win (c.get (fSlot l)))
def Chip.dlen (c : Chip) (l : Nat) : Nat := c.get ((F.CLE.SLOT_DMEM.DLEN (c.get (fPair l))).win (c.get (fSlot l)))

/-- Word `i` of a loop's data segment, as core A holds it. -/
def Chip.seg (c : Chip) (l i : Nat) : Word := Tab.at (c.pair (c.get (fPair l))).dmemA 0 (c.dbase l + i)

/-- Words of a data memory set in both cores; a write clears poison (R166). -/
def PairSt.store (x : PairSt) (a : Nat) (v : Word) : PairSt :=
  { x with dmemA := Tab.set x.dmemA 0 a v, dmemB := Tab.set x.dmemB 0 a v, poison := x.poison.filter fun k => k != a }

/-! ### At risk (R38, R45, R50, R165) -/

def LoopSt.risk (x : LoopSt) : Bool := x.riskSlack || x.riskTest || x.riskSkew || x.riskMig

/-- A change of the causes of AT_RISK: a loop that becomes at risk is counted and flagged (R38). -/
def Chip.setRisk (c : Chip) (l : Nat) (f : LoopSt → LoopSt) : Chip :=
  let was := c.on (fAtRisk l)
  let c1 := c.updLoop l f
  let now := (c1.loop l).risk
  let c2 := c1.setb (fAtRisk l) now
  if now && !was then (c2.inc (whole R.LEASH.ATRISK_CNT)).raise F.LEASH.STICKY.AT_RISK else c2

/-! ### State changes (R131–R134) -/

/-- An output commit of a loop is recorded: LPD_LAST takes its instant, and CONSEC returns to 0 (R127, R130). -/
def Chip.noteCommit (c : Chip) (l : Nat) : Chip :=
  (c.set64 (lpd l R.LPD.LPD_LAST_LO) (lpd l R.LPD.LPD_LAST_HI) c.st).clr (lf F.LPD.LPD_MISS_CNT.CONSEC l)

/-- The force list of a loop, written as one output commit (R134): ports not owned are skipped and set FORCE_ERR. An empty list is
no commit (log 60). -/
def Chip.forceList (c : Chip) (l : Nat) : Chip :=
  let ofs := c.get (lf F.LPD.LPD_OPEN.FORCE_OFS l)
  let n := c.get (lf F.LPD.LPD_OPEN.FORCE_N l)
  let c1 := upto n (fun c e =>
    let port := (c.seg l (ofs + 2 * e)).toNat % 2 ^ 14
    if c.portOwner port = some l then
      c.issue l port false (portClamp port (c.seg l (ofs + 2 * e + 1))).1
    else c.raise (lf F.LPD.LPD_FLAGS.FORCE_ERR l)) c
  if n = 0 then c1 else c1.noteCommit l

/-- A drive checks its parameter block anew when its loop next enters CLOSED (R294). -/
def Chip.libLeave (c : Chip) (l : Nat) : Chip :=
  match Tab.find c.drives l with
  | some x => { c with drives := Tab.set c.drives {} l { x with init := false } }
  | none => c

/-- A loop enters a state (R131): the force list on entry to OPEN or FAULT with its mode set; FAULT sets its flag; entry
to CLOSED restarts the cascade counts and the oscillation detector (R136, R145). -/
def Chip.enterState (c : Chip) (l st : Nat) : Chip :=
  if c.get (fState l) = st then c
  else
    let c1 := (c.set (fState l) st).libLeave l
    if st = lsOpen then (if c.on (lf F.LPD.LPD_OPEN.OPEN_MODE l) then c1.forceList l else c1)
    else if st = lsFault then
      let c2 := c1.raise (lf F.LPD.LPD_FLAGS.FAULT l)
      if c.on (lf F.LPD.LPD_OPEN.FAULT_MODE l) then c2.forceList l else c2
    else if st = lsClosed then
      let ofs := c1.get (lf F.LPD.LPD_SDOG.SD_OFS l)
      let u := if c1.on (lf F.LPD.LPD_SDOG.EN l) then c1.seg l (bits (c1.seg l ofs) 16 13) else 0
      let c2 := (c1.wr (lpd l R.LPD.LPD_SDOG_STAT) 0).updLoop l fun x =>
        { x with cascCount := 0, sdAvg := u, sdOpen := false, sdPrev := none, sdLen := 0, sdRun := false }
      -- the count restarts each time either loop of a cascade enters CLOSED
      c2.admitted.foldl (fun c o =>
        if c.on (lf F.LPD.LPD_CASC.EN o) && c.get (lf F.LPD.LPD_CASC.INNER o) == l then
          c.updLoop o fun x => { x with cascCount := 0 }
        else c) c2
    else c1

/-- A protected loop writes a PG port of a leg in a group with SS_EN = 1 (R396). -/
def Chip.protectedLoop (c : Chip) (l : Nat) : Bool :=
  (c.loop l).ports.any fun p =>
    p.2.2 && 0x800 ≤ p.1 && p.1 ≤ 0x89F &&
      (let leg := (p.1 - 0x800) / 4
       c.on (F.PG.PGCFG.GRP_EN leg) && (c.get F.ISN.SS_CHOICE.SS_EN) / 2 ^ c.get (F.PG.PGCFG.GROUP leg) % 2 == 1)

/-- A loop goes to FAULT; a protected loop is reported to Isaenaim (R132, Table 12.2). -/
def Chip.faultLoop (c : Chip) (l : Nat) : Chip :=
  let c1 := c.enterState l lsFault
  if c.protectedLoop l then c1.report 16 l else c1

/-- The inner loop of an admitted cascade (R135). -/
def Chip.isInner (c : Chip) (l : Nat) : Bool :=
  c.admitted.any fun o => c.on (lf F.LPD.LPD_CASC.EN o) && c.get (lf F.LPD.LPD_CASC.INNER o) == l

/-! ### Dispatch (R32) -/

/-- A core at the first instruction of an iteration: all of its registers are 0 (R86). -/
def CoreSt.fresh : CoreSt := {}

/-- A pair begins a loop's iteration (R86, R139). -/
def Chip.startRun (c : Chip) (p l trig : Nat) : Chip :=
  let ra := c.on (lf F.LPD.LPD_RA.EN l)
  let o := c.get (lf F.LPD.LPD_RA.RA_OFS l)
  let r : RunSt :=
    { loop := l, slot := c.get (fSlot l), trig := trig
      phase := if ra then .speculative else .plain
      cmp := c.rd (R.PAIRCMP.CMP_CFG 0)
      pred := if ra then (List.range 4).map fun i => c.seg l (o + 8 + i) else []
      gain := if ra then (List.range 16).map fun i => c.seg l (o + 16 + i) else [] }
  ((c.updPair p fun x => { x with a := CoreSt.fresh, b := CoreSt.fresh, run := some r }).updLoop l fun x =>
    { x with ready := none }).showPair p

/-- An idle pair takes the ready loop with the earliest absolute deadline (R32). -/
def Chip.dispatch (c : Chip) (p : Nat) : Chip :=
  if (c.pair p).run.isSome then c
  else
    let best := (c.loopsOn p).foldl (fun (m : Option (Nat × Nat × Nat)) l =>
      match (c.loop l).ready with
      | none => m
      | some t =>
        let d := c.deadlineAt l t
        match m with
        | none => some (l, t, d)
        | some (_, _, e) => if d < e then some (l, t, d) else m) none
    match best with
    | some (l, t, _) => c.startRun p l t
    | none => c

/-- The pair ends its running iteration and takes the next ready one. -/
def Chip.endRun (c : Chip) (p : Nat) : Chip :=
  let c1 := c.updPair p fun x => { x with run := none, a := CoreSt.fresh, b := CoreSt.fresh }
  (c1.showPair p).dispatch p

/-- A loop leaves (R37, R118, R135): OPEN, its slot, blocks and ports freed; the inner loop of a cascade keeps its
set-point in LPD_SETPT. -/
def Chip.leave (c : Chip) (l : Nat) : Chip :=
  if !c.on (fAdmitted l) then c
  else
    let c1 := c.enterState l lsOpen
    let c2 :=
      if c.on (lf F.LPD.LPD_CASC.EN l) then
        let inner := c.get (lf F.LPD.LPD_CASC.INNER l)
        (c1.set (lf F.LPD.LPD_SPSRC.SRC inner) 0).wr (lpd inner R.LPD.LPD_SETPT) (c.loop inner).setpt
      else c1
    let p := c.get (fPair l)
    let c3 := (((c2.freeSlotOf p (c.get (fSlot l))).clr (fAdmitted l)).clr (fLoaded l)).clr (fCmdPend l)
    let x := c3.loop l
    let c4 := match x.mig with
      | some (d, _) => c3.freeSlotOf d x.migBlk.1
      | none => c3
    let c5 := { c4 with admitted := c4.admitted.filter fun k => k != l }
    let c6 := c5.updLoop l fun x =>
      { x with ready := none, cmd := none, withdraw := false, sdOpen := false, mig := none, migStep := 0, migDirty := [], migDefer := 0,
               migFail := false, ports := [], span := [], spDue := none, spOk := false, spVal := none }
    let c7 := c6.setRisk l fun x => { x with riskSlack := false, riskTest := false, riskSkew := false, riskMig := false }
    let c8 := { c7 with freshMark := Tab.drop (fun k => k / 2 ^ 15 == l) c7.freshMark }
    let c9 := (match x.mig with | some (d, _) => c8.showPair d | none => c8).showPair p
    -- a loop that leaves runs no iteration: one in progress ends and commits nothing (R131)
    match (c9.pair p).run with
    | some r => if r.loop = l then c9.endRun p else c9
    | none => c9

/-! ### Trigger sources (Table 4.3) -/

/-- An event a loop names as its trigger source. -/
def Chip.loopsTriggeredBy (c : Chip) (tsrc tinst tevt : Nat) : List Nat :=
  c.admitted.filter fun l =>
    c.get (lf F.LPD.LPD_TRIG.TSRC l) == tsrc && c.get (lf F.LPD.LPD_TRIG.TINST l) == tinst &&
      c.get (lf F.LPD.LPD_TRIG.TEVT l) == tevt

end Sys2Proof.Machine
end

