-- ==== Sys2Proof/Machine/Placement.lean ====
section
/-! DEFINITION. Placement: the admission test on a pair, the search for a pair, admission, loading and the copies of a
migration (R28–R37, R116–R118, R124, R135, R140, R163–R169). -/

namespace Sys2Proof.Machine

/-! ### What a request asks for -/

/-- The active bank (R113). -/
def Chip.bank (c : Chip) : Option Bank := c.active.map fun b => if b = 0 then c.bankA else c.bankB

/-- A request to place a loop. -/
structure Req where
  loop : Nat
  cost : Nat
  wait : Nat
  period : Nat
  deadline : Nat
  entry : DirEntry
  ports : List (Nat × Bool × Bool)
deriving DecidableEq, Repr

/-- Worst-case cost of one pass of a loop (LPD_PASS_COST); 0 if the loop is not in the active bank. -/
def Chip.passCost (c : Chip) (l : Nat) : Nat :=
  match c.bank with
  | none => 0
  | some m => match findEntry m l with
    | none => 0
    | some e => (pathsOf (codeOf m e)).cost

/-- Run-ahead inputs and corrected outputs of a loop. -/
def Chip.nin (c : Chip) (l : Nat) : Nat := c.get (lf F.LPD.LPD_RA.NINM1 l) + 1
def Chip.nout (c : Chip) (l : Nat) : Nat := c.get (lf F.LPD.LPD_RA.NOUTM1 l) + 1

/-- The request of a loop, from its descriptor and the active bank; none without an authenticated cost (R28, R140). -/
def Chip.reqOf (c : Chip) (l : Nat) : Option Req :=
  match c.bank with
  | none => none
  | some m => match findEntry m l with
    | none => none
    | some e =>
      let code := codeOf m e
      let w := waitCharge [] code
      let ra := c.on (lf F.LPD.LPD_RA.EN l)
      let wt := c.get (lf F.LPD.LPD_RA.WAIT l)
      let raCost := 2 * (pathsOf code).cost + 35 * wt + 2 * c.nin l + 2 * c.nin l * c.nout l + 4
      some { loop := l, cost := if ra then max e.cost raCost else e.cost, wait := if ra then 2 * w + 35 * wt else w
             period := c.period l, deadline := c.deadline l, entry := e, ports := portList m e }

/-- A trigger source that exists (Table 4.3). -/
def sourceExists (tsrc tinst tevt : Nat) : Bool :=
  match tsrc with
  | 0 => tinst == 0 && tevt == 0
  | 1 => tinst < 40 && tevt < 2
  | 2 => tinst < 6
  | 3 => tinst < 24 && tevt < 32
  | 4 => tinst == 0 && tevt == 0
  | 5 => tevt == 0
  | 6 => tinst == 0 && tevt == 0
  | _ => false

/-- The conditions of a cascade hold for its outer loop (R135). -/
def Chip.cascadeOk (c : Chip) (r : Req) : Bool :=
  let l := r.loop
  let inner := c.get (lf F.LPD.LPD_CASC.INNER l)
  let n := c.get (lf F.LPD.LPD_CASC.NM1 l) + 1
  let m := c.get (lf F.LPD.LPD_CASC.MM1 l) + 1
  let word := c.get (lf F.LPD.LPD_CASC.MBX l)
  c.on (fAdmitted inner) && c.get (lf F.LPD.LPD_SPSRC.SRC inner) < 2 && r.period == n * c.period inner
    && r.deadline ≤ m * c.period inner && m ≤ n
    && r.ports.any (fun p => p.1 == 0x1000 + word && p.2.2)
    && !c.admitted.any fun o => o != l && c.on (lf F.LPD.LPD_CASC.EN o) && c.get (lf F.LPD.LPD_CASC.INNER o) == inner

/-- The descriptor meets R124. -/
def Chip.paramsOk (c : Chip) (r : Req) : Bool :=
  let l := r.loop
  let tsrc := c.get (lf F.LPD.LPD_TRIG.TSRC l)
  let casc := c.on (lf F.LPD.LPD_CASC.EN l)
  let ra := c.on (lf F.LPD.LPD_RA.EN l)
  1000 ≤ r.period && r.period ≤ 1000000000 && 100 ≤ r.deadline && r.deadline ≤ r.period
    && (tsrc != 0 || (c.rd (lpd l R.LPD.LPD_PHASE)).toNat < r.period)
    && ((tsrc == 4) == casc)
    && sourceExists tsrc (c.get (lf F.LPD.LPD_TRIG.TINST l)) (c.get (lf F.LPD.LPD_TRIG.TEVT l))
    && (ra == r.entry.runAhead) && (!ra || c.get (lf F.LPD.LPD_RA.WAIT l) != 0)
    && (!casc || c.cascadeOk r)

/-! ### The test on one pair -/

/-- A request as a load on a pair, with its span there. -/
def Chip.reqLoad (c : Chip) (r : Req) (span : List Nat) : Load :=
  { loop := r.loop, cost := r.cost, wait := r.wait, period := r.period, deadline := r.deadline, pace := c.pAdm span }

/-- The loads a pair has taken on: its committed loops and the loops on their way to it (R32, R116; log 13). -/
def Chip.loadsAt (c : Chip) (p : Nat) : List Load :=
  c.loads p ++ (c.admitted.filter fun l => match (c.loop l).mig with | some (d, _) => d == p | none => false).map fun l =>
    match c.reqOf l with
    | some r => c.reqLoad r ((c.spanOf r.entry r.ports p).getD [])
    | none => c.load l

/-- Some two regions of a span stand flagged for exceeding an adjacent-region limit (R45). -/
def Chip.spanSkewed (c : Chip) (span : List Nat) : Bool :=
  span.any fun a => (c.region a).skew.any fun b => span.contains b

/-- Reason of conditions 1 and 2 of R32 for a request joined to a set of loads, and the bound of the request (R33). -/
def loadTest (set : List Load) (i : Load) : Nat × Fr :=
  let all := set ++ [i]
  let b := response all i
  (if !meetsDeadline all i then rOverDeadline
   else if !(set.all fun j => meetsDeadline all j) then rBlocksCommitted
   else if !fitsLoad all then rOverUtil else 0, b)

/-- The first fit of a request's program and data blocks on a pair (R116). -/
def Chip.fitBlocks (c : Chip) (p : Nat) (e : DirEntry) : Option (Nat × Nat) :=
  match firstFit (c.progBlocks p) 16384 e.codeLen with
  | none => none
  | some b => if e.dataLen = 0 then some (b, 0) else (firstFit (c.dataBlocks p) 8192 e.dataLen).map fun d => (b, d)

/-- The checks that depend on the pair, in the order of R33 and R116: reason (0 accepts) and the bound tested. -/
def Chip.pairTest (c : Chip) (r : Req) (p : Nat) : Nat × Option Fr :=
  match c.spanOf r.entry r.ports p with
  | none => (rState, none)
  | some span =>
    if span.any fun g => (c.region g).refusing then (rRegionSlow, none)
    else if c.spanSkewed span then (rRegionSkew, none)
    else
      let t := loadTest ((c.loadsAt p).filter fun j => j.loop != r.loop) (c.reqLoad r span)
      if (c.freeSlot p).isNone then (rNoSlot, some t.2)
      else if t.1 ≠ 0 then (t.1, some t.2)
      else if (c.fitBlocks p r.entry).isNone then (rNoMem, some t.2)
      else (0, some t.2)

/-- The pair can be assigned work: EN = 1 and it is IDLE or COMPARING; a reserve when the search allows one (R34, R164). -/
def Chip.assignable (c : Chip) (reserves : Bool) (p : Nat) : Bool :=
  let ps := c.get (F.PAIRCMP.STATUS.STATE p)
  c.on (F.CLE.CTRL.EN p) && !c.on (F.CLE.PAIR_INFO.RETIRED p)
    && (ps == psIdle || ps == psComparing || (reserves && ps == psReserve))
    && (reserves || !c.on (F.CLE.PAIR_INFO.RESERVE p))

/-- Regions RG0–RG8 in descending order of P_BASIS, ties in ascending order (R34). -/
def Chip.regionOrder (c : Chip) : List Nat :=
  (List.range 9).foldl (fun l k =>
    let b := c.pBasis k
    l.takeWhile (fun x => b ≤ c.pBasis x) ++ k :: l.dropWhile (fun x => b ≤ c.pBasis x)) []

/-- The pairs of the search, in order (R34). -/
def Chip.candidates (c : Chip) (reserves : Bool) : List Nat :=
  (c.regionOrder.flatMap fun g => (List.range 4).map fun k => 4 * g + k).filter (c.assignable reserves)

/-- The first pair of the search that passes, and the bound of the last test (R34). -/
def Chip.findPair (c : Chip) (r : Req) (reserves : Bool) (avoid : Nat → Bool) : Option Nat × Option Fr :=
  ((c.candidates reserves).filter fun p => !avoid p).foldl (fun (acc : Option Nat × Option Fr) p =>
    match acc.1 with
    | some _ => acc
    | none =>
      let t := c.pairTest r p
      (if t.1 = 0 then some p else none, match t.2 with | some b => some b | none => acc.2)) (none, none)

/-- A throttle domain owns a mailbox word for writing (R371). -/
def Chip.thermOwns (c : Chip) (port : Nat) : Bool :=
  (List.range 8).any fun d => c.on (F.THERM.DOM_CFG.MBX_EN d) && 0x1000 + c.get (F.THERM.DOM_CFG.MBX d) == port

/-- Isaenaim owns a mailbox word for writing (R397). -/
def Chip.isnOwns (c : Chip) (port : Nat) : Bool :=
  c.on F.ISN.LIM_MBX.EN && (List.range 3).any fun i => 0x1000 + bits (c.rd R.ISN.LIM_MBX) (8 * i) 8 == port

/-- A port the request writes has another owner (R103, R116, R371, R397). -/
def Chip.portsTaken (c : Chip) (r : Req) : Bool :=
  r.ports.any fun p => p.2.2 && (c.thermOwns p.1 || c.isnOwns p.1 || match c.portOwner p.1 with | some o => o != r.loop | none => false)

/-- A loop that writes the PG ports of a cell channel's leg must also read the port block of that channel (R354). -/
def Chip.cellPortsOk (c : Chip) (r : Req) : Bool :=
  (List.range 16).all fun s =>
    !c.on (F.CHGSEQ.SQCFG.CELL s)
      || !(r.ports.any fun p => p.2.2 && decide (0x860 + 4 * s ≤ p.1) && decide (p.1 < 0x864 + 4 * s))
      || r.ports.any fun p => p.2.1 && decide (0xC00 + 0x10 * s ≤ p.1) && decide (p.1 < 0xC10 + 0x10 * s)

/-! ### Loading (R116, R117) -/

/-- The pair's LOAD_STATUS takes the next loop to copy, when no copy is in progress. -/
def Chip.nextLoad (c : Chip) (p : Nat) : Chip :=
  if c.on (F.CLE.LOAD_STATUS.BUSY p) then c
  else match (c.loopsOn p).find? fun l => !c.on (fLoaded l) with
    | none => c.showPair p
    | some l => (c.wr (R.CLE.LOAD_STATUS p) (wd (l + 2 ^ 9))).showPair p

/-- A loop takes a slot and blocks on a pair: the slot and its program and data bases. -/
def Chip.reserveOn (c : Chip) (r : Req) (p : Nat) : Option (Chip × Nat × Nat × Nat) :=
  match c.freeSlot p, c.fitBlocks p r.entry with
  | some s, some (pb, db) =>
    some (c.takeSlot p s r.loop pb r.entry.codeLen db r.entry.dataLen r.cost, s, pb, db)
  | _, _ => none

/-- The reserve pairs, in ascending order (RESERVE_MAP). -/
def Chip.reserves (c : Chip) : List Nat := (List.range 36).filter fun p => c.on (F.CLE.PAIR_INFO.RESERVE p)

/-- A pair stops being a reserve; when none remains, NO_RESERVE is set and Isaenaim is informed (R164, R169). -/
def Chip.endReserve (c : Chip) (p : Nat) : Chip :=
  if !c.on (F.CLE.PAIR_INFO.RESERVE p) then c
  else
    let c1 := c.clr (F.CLE.PAIR_INFO.RESERVE p)
    let c2 := if c1.get (F.PAIRCMP.STATUS.STATE p) = psReserve then c1.set (F.PAIRCMP.STATUS.STATE p) psIdle else c1
    if c2.reserves.isEmpty then (c2.raise (hSticky R.BIST.ID 8)).report 7 0 else c2

/-- A loop is committed to a pair (R35, R36, R116, R135). -/
def Chip.commitLoop (c : Chip) (r : Req) (p : Nat) : Chip :=
  match c.reserveOn r p with
  | none => c
  | some (c1, s, _, _) =>
    let l := r.loop
    let c2 := ((((c1.raise (fAdmitted l)).clr (fLoaded l)).set (fPair l) p).set (fSlot l) s)
    let c3 := { c2 with admitted := c2.admitted ++ [l] }
    let c4 := c3.updLoop l fun x =>
      { x with cost := r.cost, waitCharge := r.wait, span := (c.spanOf r.entry r.ports p).getD [], ports := r.ports,
               shmBase := r.entry.shmBase, shmLen := r.entry.shmLen, lastTrig := none, cascCount := 0, trigCount := 0,
               withdraw := false, cmd := none, ready := none }
    let c5 := if c.on (lf F.LPD.LPD_CASC.EN l) then c4.set (lf F.LPD.LPD_SPSRC.SRC (c.get (lf F.LPD.LPD_CASC.INNER l))) 1 else c4
    ((c5.endReserve p).nextLoad p).showPair p

/-- A loop's code and initial data as they are copied to a pair at given bases (R117). -/
def Chip.copyImage (c : Chip) (l p pbase dbase : Nat) : Chip :=
  match c.bank with
  | none => c
  | some m => match findEntry m l with
    | none => c
    | some e =>
      c.updPair p fun x =>
        let x1 := (List.range e.codeLen).foldl (fun (x : PairSt) k =>
          let w := Tab.at m 0 (e.codeOfs / 4 + k)
          { x with pmemA := Tab.set x.pmemA 0 (pbase + k) w, pmemB := Tab.set x.pmemB 0 (pbase + k) w }) x
        (List.range e.dataLen).foldl (fun (x : PairSt) k =>
          x.store (dbase + k) (wd (bankLe m (e.dataOfs + 4 * k) 4))) x1

/-! ### Migration (R165, R166) -/

/-- Causes of a migration, as TEST_RESULT CAUSE codes them; 0 is Leash itself (R38, R45). -/
abbrev cauLeash : Nat := 0
abbrev cauRolling : Nat := 1
abbrev cauMismatch : Nat := 2
abbrev cauLatent : Nat := 3
abbrev cauHost : Nat := 4
abbrev cauCold : Nat := 5

/-- The number of a loop's code instructions and data words on a pair at bases, copied at pre-copy: the code from the
bank, the data from the source with core A's value, and poison where the copies of a word differ (R165, R166). -/
def Chip.preCopy (c : Chip) (l d : Nat) (blk : Nat × Nat × Nat) : Chip :=
  let p := c.get (fPair l)
  let src := c.pair p
  let base := c.dbase l
  let len := c.dlen l
  let c1 := match c.bank with
    | none => c
    | some m => match findEntry m l with
      | none => c
      | some e => c.updPair d fun x => (List.range e.codeLen).foldl (fun (x : PairSt) k =>
          let w := Tab.at m 0 (e.codeOfs / 4 + k)
          { x with pmemA := Tab.set x.pmemA 0 (blk.2.1 + k) w, pmemB := Tab.set x.pmemB 0 (blk.2.1 + k) w }) x
  let bad := (List.range len).filter fun k =>
    Tab.at src.dmemA 0 (base + k) != Tab.at src.dmemB 0 (base + k) || src.poison.contains (base + k)
  let split := (List.range len).any fun k => Tab.at src.dmemA 0 (base + k) != Tab.at src.dmemB 0 (base + k)
  let c2 := c1.updPair d fun x =>
    let x1 := (List.range len).foldl (fun (x : PairSt) k => x.store (blk.2.2 + k) (Tab.at src.dmemA 0 (base + k))) x
    { x1 with poison := x1.poison ++ bad.map fun k => blk.2.2 + k }
  c2.raiseIf split (F.PAIRCMP.STICKY.POISON p)

/-- The dirty words of a loop's segment are copied (R165 step 2). -/
def Chip.copyDirty (c : Chip) (l d : Nat) : Chip :=
  let x := c.loop l
  let p := c.get (fPair l)
  let src := c.pair p
  let base := c.dbase l
  let ks := x.migDirty
  let split := ks.any fun k => Tab.at src.dmemA 0 (base + k) != Tab.at src.dmemB 0 (base + k)
  let c1 := c.updPair d fun y => ks.foldl (fun (y : PairSt) k =>
    let a := Tab.at src.dmemA 0 (base + k)
    let y1 := y.store (x.migBlk.2.2 + k) a
    if a != Tab.at src.dmemB 0 (base + k) || src.poison.contains (base + k)
    then { y1 with poison := y1.poison ++ [x.migBlk.2.2 + k] } else y1) y
  (c1.updLoop l fun y => { y with migDirty := [] }).raiseIf split (F.PAIRCMP.STICKY.POISON p)

/-- A migration of a loop to a pair starts: the destination reserves the blocks (R165 step 1). -/
def Chip.startMigration (c : Chip) (r : Req) (d cause : Nat) : Chip :=
  match c.reserveOn r d with
  | none => c
  | some (c1, s, pb, db) =>
    ((c1.updLoop r.loop fun x =>
      { x with mig := some (d, cause), migBlk := (s, pb, db), migStep := 0, migDirty := [], migDefer := 0, migFail := false }).endReserve
      d).showPair d

/-- A migration is given up: the destination's slot and blocks are freed. -/
def Chip.dropMigration (c : Chip) (l : Nat) : Chip :=
  let x := c.loop l
  match x.mig with
  | none => c
  | some (d, _) =>
    ((c.freeSlotOf d x.migBlk.1).updLoop l fun y =>
      { y with mig := none, migStep := 0, migDirty := [], migDefer := 0 }).showPair d

/-- The destination of a migration can still take its loop (R165 step 5): it has no mismatch, is not retired and passes
R32 for the loop. -/
def Chip.destOk (c : Chip) (r : Req) (d : Nat) : Bool :=
  let ps := c.get (F.PAIRCMP.STATUS.STATE d)
  (ps == psIdle || ps == psComparing) && !c.on (F.CLE.PAIR_INFO.RETIRED d) && c.on (F.CLE.CTRL.EN d)
    && (match c.spanOf r.entry r.ports d with
        | none => false
        | some span => (loadTest ((c.loadsAt d).filter fun j => j.loop != r.loop) (c.reqLoad r span)).1 == 0)

end Sys2Proof.Machine
end

