-- ==== Sys2Proof/Machine/Migration.lean ====
section
/-! DEFINITION. Evacuations, mismatches and the switch of a migrating loop (R38, R149–R151, R159–R169). -/

namespace Sys2Proof.Machine

/-! ### Where evacuated loops go (R164) -/

/-- The pairs of a reserve search: the same region, then the adjacent regions, then any other (R164). -/
def Chip.reserveOrder (c : Chip) (p : Nat) : List Nat :=
  let g := regionOf p
  let rs := c.reserves.filter fun d => d != p && c.assignable true d
  rs.filter (fun d => regionOf d == g) ++ rs.filter (fun d => (adjacent g).contains (regionOf d))
    ++ rs.filter fun d => regionOf d != g && !(adjacent g).contains (regionOf d)

/-- A request passes R32 and finds its blocks on a pair, whatever the regions refuse (R164). -/
def Chip.passes (c : Chip) (r : Req) (d : Nat) : Bool :=
  match c.spanOf r.entry r.ports d with
  | none => false
  | some span =>
    (loadTest ((c.loadsAt d).filter fun j => j.loop != r.loop) (c.reqLoad r span)).1 == 0
      && (c.freeSlot d).isSome && (c.fitBlocks d r.entry).isSome

/-- The whole set of requests moves to one pair; none when some request does not pass there (R164). -/
def Chip.moveAll (c : Chip) (d cause : Nat) : List Req → Option Chip
  | [] => some c
  | r :: rest => if c.passes r d then (c.startMigration r d cause).moveAll d cause rest else none

/-- Utilisation T ÷ P of a request on the pair that holds it, for the order of R164. -/
def Chip.utilisation (c : Chip) (r : Req) : Fr :=
  let t := (c.load r.loop).time
  ⟨t.num, t.den * r.period⟩

/-- Requests in descending order of utilisation. -/
def Chip.byUtilisation (c : Chip) (rs : List Req) : List Req :=
  rs.foldl (fun l r =>
    let keep (x : Req) : Bool := Fr.le (c.utilisation r) (c.utilisation x)
    l.takeWhile keep ++ r :: l.dropWhile keep) []

/-- Each request is placed separately; the loops that find no pair come back (R164). -/
def Chip.moveEach (c : Chip) (p cause : Nat) : List Req → Chip × List Nat
  | [] => (c, [])
  | r :: rest =>
    match (c.findPair r true fun d => d == p).1 with
    | some d => (c.startMigration r d cause).moveEach p cause rest
    | none =>
      let x := c.moveEach p cause rest
      (x.1, r.loop :: x.2)

/-- The destinations of an evacuation: the device with the migrations started, and the loops without one (R164). Where the loops
go to different pairs, MIG_STATUS DEST shows that of the first loop (R183, log 61). -/
def Chip.evacuate (c : Chip) (p cause : Nat) : Chip × List Nat :=
  let rs := (c.loopsOn p).filterMap c.reqOf
  match (c.reserveOrder p).findSome? fun d => (c.moveAll d cause rs).map fun x => (x, d) with
  | some (x, d) => (x.set (F.PAIRCMP.MIG_STATUS.DEST p) d, [])
  | none =>
    let m := c.moveEach p cause (c.byUtilisation rs)
    let dest := match (m.1.loopsOn p).findSome? fun l => (m.1.loop l).mig with | some (d, _) => d | none => 0
    (m.1.set (F.PAIRCMP.MIG_STATUS.DEST p) dest, m.2)

/-! ### Test of an emptied pair (R160) -/

/-- The last loop has left: the pair goes to TEST (R160 step 5). -/
def Chip.toTest (c : Chip) (p : Nat) : Chip :=
  ((c.set (F.PAIRCMP.STATUS.STATE p) psTest).clr (F.PAIRCMP.MIG_STATUS.ACTIVE p)).showPair p

/-- A pair whose last loop has left while it is evacuated goes to TEST. -/
def Chip.afterLeave (c : Chip) (p : Nat) : Chip :=
  let st := c.get (F.PAIRCMP.STATUS.STATE p)
  if (st = psEvacuating ∨ st = psSuspect) ∧ (c.loopsOn p).isEmpty then c.toTest p else c

/-- The pair becomes SUSPECT (R169). -/
def Chip.suspect (c : Chip) (p : Nat) : Chip :=
  if c.get (F.PAIRCMP.STATUS.STATE p) = psSuspect then c
  else ((c.set (F.PAIRCMP.STATUS.STATE p) psSuspect).report 0 p).showPair p

/-- A rolling or host test is abandoned: the pair returns to COMPARING; a rolling one sets ROLL_DEFER (R169, R172). -/
def Chip.abandonTest (c : Chip) (p : Nat) : Chip :=
  let c1 := (c.loopsOn p).foldl Chip.dropMigration c
  let c2 := ((c1.set (F.PAIRCMP.STATUS.STATE p) psComparing).clr (F.PAIRCMP.MIG_STATUS.ACTIVE p)).showPair p
  if (c.pair p).cause = cauRolling then { c2.raise (hSticky R.BIST.ID 2) with rolling := none } else c2

/-- A loop reaches MIG_FAIL, or finds no destination (R165, R169). -/
def Chip.migFail (c : Chip) (l : Nat) : Chip :=
  let p := c.get (fPair l)
  let c1 := ((c.raise (F.PAIRCMP.STICKY.MIG_FAIL p)).updLoop l fun x => { x with migFail := true }).setRisk l
    fun x => { x with riskMig := true }
  let st := c1.get (F.PAIRCMP.STATUS.STATE p)
  if st ≠ psEvacuating then c1
  else if (c1.pair p).cause = cauMismatch ∨ (c1.pair p).cause = cauLatent then c1.suspect p
  else c1.abandonTest p

/-- An evacuation begins: EVACUATING, destinations chosen; an empty pair goes to TEST at once; a rolling
evacuation without a destination for every loop is deferred (R160, R164, R169, R172). -/
def Chip.beginEvac (c : Chip) (p cause : Nat) : Chip :=
  let c1 := ((c.set (F.PAIRCMP.STATUS.STATE p) psEvacuating).raise (F.PAIRCMP.MIG_STATUS.ACTIVE p)).updPair p
    fun x => { x with cause := cause }
  let c1' := (c1.loopsOn p).foldl Chip.dropMigration c1
  let m := c1'.evacuate p cause
  if cause = cauRolling ∧ !m.2.isEmpty then { c.raise (hSticky R.BIST.ID 2) with rolling := none }
  else
    let c2 := m.2.foldl (fun c l =>
      if cause = cauMismatch ∨ cause = cauLatent then c.suspect p else c.migFail l) m.1
    (c2.showPair p).afterLeave p

/-! ### Mismatches (R149, R151, R156, R159, R160) -/

abbrev kCommit : Nat := 1
abbrev kImmOut : Nat := 2
abbrev kTagged : Nat := 3
abbrev kParityA : Nat := 4
abbrev kParityB : Nat := 5
abbrev kSplit : Nat := 6
abbrev kSignature : Nat := 7
abbrev kInput : Nat := 8
abbrev kFlow : Nat := 9

/-- STICKY bit of a kind of mismatch (Tables 5.5 and 5.6). -/
def kindSticky (kind : Nat) : Nat :=
  if kind = kSignature then 2 else if kind = kParityA ∨ kind = kParityB then 3 else if kind = kSplit then 4
  else if kind = kInput then 6 else 1

/-- A mismatch of a pair: it is recorded, a record is written, Isaenaim is informed and, unless a sequence runs already,
the pair is evacuated (R160). `who` is the running loop and slot, where they apply. -/
def Chip.mismatch (c : Chip) (p kind : Nat) (who : Option (Nat × Nat)) (addr space : Nat) : Chip :=
  let info := match who with
    | some (l, s) => kind + s * 2 ^ 4 + l * 2 ^ 8 + 2 ^ 17
    | none => kind
  let c1 := (c.wr (R.PAIRCMP.MISMATCH_INFO p) (wd info)).wr (R.PAIRCMP.MISMATCH_ADDR p)
    (wd (addr % 2 ^ 20 + space * 2 ^ 20))
  let c2 := c1.set64 (R.PAIRCMP.MISMATCH_ST_LO p) (R.PAIRCMP.MISMATCH_ST_HI p) c.st
  let c3 := c2.inc (if kind = kSignature then F.PAIRCMP.MISMATCH_CNT.LATENT p else F.PAIRCMP.MISMATCH_CNT.EXEC p)
  let c4 := ((c3.raise (hSticky (R.PAIRCMP.ID p) (kindSticky kind))).recordOpen 4 0).report 22 p
  let st := c4.get (F.PAIRCMP.STATUS.STATE p)
  if st = psIdle ∨ st = psComparing ∨ st = psReserve then
    c4.beginEvac p (if kind = kSignature then cauLatent else cauMismatch)
  else c4

/-! ### Leash moves loops away from a region (R38, R45) -/

/-- Committed loops on the pairs of a region, the smallest slack first. -/
def Chip.bySlack (c : Chip) (g : Nat) : List Nat :=
  (c.admitted.filter fun l => regionOf (c.get (fPair l)) == g).foldl (fun acc l =>
    acc.takeWhile (fun x => !c.lessSlack l x) ++ l :: acc.dropWhile (fun x => !c.lessSlack l x)) []

/-- P_C exceeds P_MEAS ÷ 1.05. -/
def Chip.stillShort (c : Chip) (g : Nat) : Bool := !c.paceAtLeast g 105

/-- STATUS STATE shows the highest step any region is in (R40). -/
def Chip.showSteps (c : Chip) : Chip :=
  c.set F.LEASH.STATUS.STATE (((List.range regionCount).map fun g => (c.region g).step).foldl max 0)

/-- Step 3 of R38: the region refuses new work, and the loops that span it with too little slack are at risk (which loops
step 3 looks at: log 12). -/
def Chip.stepRefuse (c : Chip) (g : Nat) : Chip :=
  let c1 := c.updRegion g fun x => { x with refusing := true, migrating := false, step := 3 }
  ((c1.admitted.filter fun l => (c1.loop l).span.contains g && !c1.slackOk l).foldl
    (fun c l => c.setRisk l fun x => { x with riskSlack := true }) c1).showSteps

/-- Step 2 of R38: one loop at a time leaves the region; without a destination for any, step 3 follows. -/
def Chip.stepMigrate (c : Chip) (g : Nat) : Chip :=
  if c.admitted.any fun l => regionOf (c.get (fPair l)) == g && (match (c.loop l).mig with | some (_, k) => k == cauLeash | none => false)
  then c
  else
    match (c.bySlack g).findSome? fun l =>
        if (c.loop l).mig.isSome then none
        else match c.reqOf l with
          | none => none
          | some r => match (c.findPair r false fun d => regionOf d == g).1 with
            | some d => some (c.startMigration r d cauLeash)
            | none => none with
    | some c1 => (c1.updRegion g fun x => { x with migrating := true, step := max 2 x.step }).showSteps
    | none => (c.stepRefuse g)

/-- After a switch Leash looks at the region again (R38). -/
def Chip.afterSwitch (c : Chip) (g : Nat) : Chip :=
  if !(c.region g).migrating then c
  else if c.stillShort g then c.stepMigrate g
  else (c.updRegion g fun x => { x with migrating := false }).showSteps

/-! ### The switching boundary (R165) -/

/-- Span sets of the loops whose SPAN partner has moved (R31). -/
def Chip.respan (c : Chip) (l : Nat) : Chip :=
  c.admitted.foldl (fun c k =>
    match c.reqOf k with
    | none => c
    | some r =>
      if k == l || (r.entry.spanValid && r.entry.spanLoop == l) then
        match c.spanOf r.entry r.ports (c.get (fPair k)) with
        | some s => c.updLoop k fun x => { x with span := s }
        | none => c
      else c) c

/-- AT_RISK of skewed loops clears when they no longer span the two regions and have slack (R45). -/
def Chip.reskew (c : Chip) : Chip :=
  c.admitted.foldl (fun c l =>
    if (c.loop l).riskSkew && !c.spanSkewed (c.loop l).span && c.slackOk l
    then c.setRisk l fun x => { x with riskSkew := false } else c) c

/-- A loop that spans two flagged regions is moved to a placement that does not; a migration under way to a placement that
does takes a new destination; without one, or with AUTO_MIG = 0, the loop is at risk (R45). -/
def Chip.unskew (c : Chip) (l : Nat) : Chip :=
  let risk : Chip := c.setRisk l fun x => { x with riskSkew := true }
  match c.reqOf l with
  | none => risk
  | some r =>
    let place (c1 : Chip) (reserves : Bool) (cause : Nat) : Chip :=
      if !c.on F.LEASH.ADM_CFG.AUTO_MIG then risk
      else match (c1.findPair r reserves fun d => d == c.get (fPair l)).1 with
        | some d => c1.startMigration r d cause
        | none => risk
    match (c.loop l).mig with
    | none => place c false cauLeash
    | some (d, cause) =>
      if c.spanSkewed ((c.spanOf r.entry r.ports d).getD []) then place (c.dropMigration l) (cause != cauLeash) cause else c

/-- Loops that have come to span two flagged regions are moved or are at risk (R31, R45). -/
def Chip.unskewAll (c : Chip) : Chip :=
  (c.admitted.filter fun l => c.spanSkewed (c.loop l).span && (c.loop l).mig.isNone && !(c.loop l).riskSkew).foldl Chip.unskew c

/-- The trigger goes to the destination: epochs, slot and pair (R165 step 3, R118). -/
def Chip.switchLoop (c : Chip) (l d cause : Nat) : Chip :=
  let p := c.get (fPair l)
  let x := c.loop l
  let c1 := (((c.freeSlotOf p (c.get (fSlot l))).set (fPair l) d).set (fSlot l) x.migBlk.1).bump (fEpoch l)
  let c2 := (((c1.bump (hPlEpoch (R.CLE.ID p))).bump (hPlEpoch (R.CLE.ID d))).bump (hPlEpoch (R.PAIRCMP.ID p))).bump
    (hPlEpoch (R.PAIRCMP.ID d))
  let c3 := (c2.updLoop l fun y =>
    { y with mig := none, migStep := 0, migDirty := [], migDefer := 0, migFail := false }).setRisk l
    fun y => { y with riskMig := false }
  let c4 := (((c3.respan l).reskew.showPair p).showPair d).unskewAll
  let c5 := if cause = cauLeash then ((c4.inc (whole R.LEASH.MIGR_CNT)).raise F.LEASH.STICKY.MIGRATED).afterSwitch (regionOf p)
            else c4
  c5.afterLeave p

/-- A new destination under R164 for one loop; without one the loop has reached MIG_FAIL (R165 step 5). -/
def Chip.newDestination (c : Chip) (l cause : Nat) : Chip :=
  let p := c.get (fPair l)
  match c.reqOf l with
  | none => c
  | some r =>
    match ((c.reserveOrder p).find? fun d => c.passes r d), (c.findPair r true fun d => d == p).1 with
    | some d, _ => c.startMigration r d cause
    | none, some d => c.startMigration r d cause
    | none, none => c.migFail l

/-- What a period boundary means to a migrating loop, or to a loop left on a SUSPECT pair (R165, R169). -/
def Chip.migBoundary (c : Chip) (l : Nat) : Chip :=
  let x := c.loop l
  let p := c.get (fPair l)
  match x.mig with
  | none =>
    if c.get (F.PAIRCMP.STATUS.STATE p) = psSuspect then
      (match c.reqOf l with
       | none => c
       | some r => match (c.findPair r true fun d => d == p).1 with
         | some d => c.startMigration r d (c.pair p).cause
         | none => c)
    else c
  | some (d, cause) =>
    match c.reqOf l with
    | none => c
    | some r =>
      if !c.destOk r d then (c.dropMigration l).newDestination l cause
      else if x.migStep = 0 then c
      else if x.migStep = 1 then
        let c1 := (c.inc (F.PAIRCMP.MIG_STATUS.MIG_DEFER p)).updLoop l fun y => { y with migDefer := y.migDefer + 1 }
        if x.migDefer + 1 = 16 then c1.migFail l else c1
      else c.switchLoop l d cause

/-- The end of a pre-copy (R165 step 1). -/
def Chip.preCopyDone (c : Chip) (l : Nat) : Chip :=
  let x := c.loop l
  match x.mig with
  | none => c
  | some (d, cause) =>
    if x.migStep ≠ 0 || !c.on (fLoaded l) then c
    else match c.reqOf l with
      | none => c
      | some r =>
        if !c.destOk r d then (c.dropMigration l).newDestination l cause
        else (c.preCopy l d x.migBlk).updLoop l fun y => { y with migStep := 1 }

/-- The loop has an iteration accepted or running. -/
def Chip.busyLoop (c : Chip) (l : Nat) : Bool :=
  (c.loop l).ready.isSome || (match (c.pair (c.get (fPair l))).run with | some r => r.loop == l | none => false)

/-- The end of a final copy (R165 step 2): it runs after the last output commit, so not during an iteration. -/
def Chip.finalCopyDone (c : Chip) (l : Nat) : Chip :=
  let x := c.loop l
  match x.mig with
  | none => c
  | some (d, _) =>
    if x.migStep ≠ 1 || c.busyLoop l then c
    else (c.copyDirty l d).updLoop l fun y => { y with migStep := 2 }

/-- A commit changed words of a migrating loop's segment: they are dirty, and a final copy made before is stale. -/
def LoopSt.dirty (x : LoopSt) (ks : List Nat) : LoopSt :=
  if x.mig.isNone || ks.isEmpty then x
  else { x with migDirty := (x.migDirty ++ ks).eraseDups, migStep := min x.migStep 1 }

end Sys2Proof.Machine
end

