-- ==== Sys2Proof/Machine/Trig.lean ====
section
/-! DEFINITION. Sines of an angle in turns, in 2^-64, exact to far below the rounding of any code computed from them, and the
phase of a general DAC (R216). -/

namespace Sys2Proof.Machine

/-- π ÷ 2 in 2^-64. -/
def halfPi : Nat := 28976077832308491370

/-- The terms of the sine series of `x` in 2^-64: term number, present term and sum. -/
def sinSeries (x : Nat) : Nat → Nat → Int → Nat → Int
  | 0, _, sum, _ => sum
  | fuel + 1, term, sum, k =>
    let next := term * x / 2 ^ 64 * x / 2 ^ 64 / ((2 * k + 2) * (2 * k + 3))
    sinSeries x fuel next (if k % 2 = 0 then sum + (term : Int) else sum - (term : Int)) (k + 1)

/-- sin of `num ÷ den` of a quarter turn, 0 to 1 quarter. -/
def sinFirst (num den : Nat) : Int :=
  let x := if den = 0 then 0 else halfPi * num / den
  sinSeries x 14 x 0 0

/-- sin of `num ÷ den` turns, in 2^-64. -/
def sinTurns (num den : Nat) : Int :=
  let f := 4 * (num % den)
  let q := if den = 0 then 0 else f / den
  let r := f - q * den
  match q with
  | 0 => sinFirst r den
  | 1 => sinFirst (den - r) den
  | 2 => -sinFirst r den
  | _ => -sinFirst (den - r) den

/-- cos of `num ÷ den` turns, in 2^-64. -/
def cosTurns (num den : Nat) : Int := sinTurns (4 * num + den) (4 * den)

/-- θ of a DAC at an instant, as a fraction of a turn: FREQ × t + PHASE ÷ 65,536 (R216). -/
def Chip.dacPhase (c : Chip) (d t : Nat) : Nat × Nat :=
  let den := Config.sec * 65536
  ((c.get (F.DAC.DFREQ.FREQ d) * t * 65536 + c.get (F.DAC.DFREQ.PHASE d) * Config.sec) % den, den)

end Sys2Proof.Machine
end

