-- ==== Sys2Proof/Machine/Observer.lean ====
section
/-! DEFINITION. The tracking observer of a position feedback unit: its update, its outputs and its states (R232–R236). -/

namespace Sys2Proof.Machine

def Chip.pfu (c : Chip) (k : Nat) : PfuSt := Tab.at c.pfus {} k
def Chip.updPfu (c : Chip) (k : Nat) (f : PfuSt → PfuSt) : Chip := { c with pfus := Tab.upd c.pfus {} k f }

/-- A quotient rounded to the nearest, halves upwards (R89). -/
def rnd (n : Int) (d : Nat) : Int := if d = 0 then 0 else (2 * n + (d : Int)) / (2 * (d : Int))

/-- A value saturated to 32 bits, two's complement. -/
def satWord (v : Int) : Word := iw (max (-(2 ^ 31 : Nat) : Int) (min v ((2 ^ 31 - 1 : Nat) : Int)))

/-- Codes of the observer states (Table 7.2). -/
abbrev osOff : Nat := 0
abbrev osAcquiring : Nat := 1
abbrev osTracking : Nat := 2
abbrev osFault : Nat := 3

def Chip.osState (c : Chip) (k : Nat) : Nat := c.get (F.PFU.STATUS.STATE k)

/-- Electrical cycles per sensor revolution. -/
def Chip.pp (c : Chip) (k : Nat) : Nat := c.get (F.PFU.PFCFG.PP k)

/-! ### Outputs (R234) -/

/-- th + w·Δ + a·Δ² ÷ 2, 2^-64 turn, with Δ in ticks. -/
def PfuSt.thAt (x : PfuSt) (dt : Nat) : Int :=
  (x.th : Int) + rnd (x.w * (2 ^ 16 * dt : Nat)) Config.sec + rnd (x.a * (2 ^ 24 * dt * dt : Nat)) (2 * Config.sec * Config.sec)

/-- w + a·Δ, 2^-48 turn/s. -/
def PfuSt.wAt (x : PfuSt) (dt : Nat) : Int := x.w + rnd (x.a * (2 ^ 8 * dt : Nat)) Config.sec

/-- The outputs of a unit at the instant of a read; 0 in OFF (R234, Table 7.2). -/
def Chip.pfuAngle (c : Chip) (k : Nat) : Word :=
  if c.osState k = osOff then 0
  else iw (rnd ((c.pp k : Int) * (c.pfu k).thAt (c.st - (c.pfu k).last)) (2 ^ 32)) + c.rd (R.PFU.EOFS k)

def Chip.pfuSpeed (c : Chip) (k : Nat) : Word :=
  if c.osState k = osOff then 0 else satWord (rnd ((c.pp k : Int) * (c.pfu k).wAt (c.st - (c.pfu k).last)) (2 ^ 32))

def Chip.pfuAccel (c : Chip) (k : Nat) : Word :=
  if c.osState k = osOff then 0 else satWord (rnd ((c.pp k : Int) * (c.pfu k).a) (2 ^ 32))

def Chip.pfuInnov (c : Chip) (k : Nat) : Word :=
  if c.osState k = osOff then 0 else satWord (rnd ((c.pp k : Int) * (c.pfu k).e) (2 ^ 32))

/-! ### Reports and states (R235, R236) -/

/-- The status port of a unit has been updated: its tag increments when the word changes (R152, log 64). -/
def Chip.statTag (c : Chip) (k : Nat) (before : Word) : Chip :=
  if c.rd (R.PFU.PFU_STAT k) = before then c else c.bumpTag (0x405 + 16 * k)

/-- The speed of a GRP_SC entry exceeds a limit in electrical Hz, or is unknown (R263). -/
def Chip.speedAbove (c : Chip) (g hz : Nat) : Bool :=
  let k := c.get (F.TRIP.GRP_SC.PFU g)
  !c.on (F.TRIP.GRP_SC.PFU_EN g) || c.osState k != osTracking || decide (hz * 65536 < (c.pfuSpeed k).toInt.natAbs)

/-- A unit is TRACKING at or below a speed in electrical Hz (R407). -/
def Chip.slow (c : Chip) (k hz : Nat) : Bool := k < 6 && c.osState k == osTracking && decide ((c.pfuSpeed k).toInt.natAbs ≤ hz * 65536)

/-- The park speeds are at or below their limits (R407). -/
def Chip.parkSlow (c : Chip) : Bool :=
  c.slow (c.get F.SAFE.PARK_CFG.PFU_A) (c.get F.SAFE.PARK_VMAX.VMAX_A)
    && (!c.on F.SAFE.PARK_CFG.PFU_B_EN || c.slow (c.get F.SAFE.PARK_CFG.PFU_B) (c.get F.SAFE.PARK_VMAX.VMAX_B))

/-- Isaenaim sees the speeds: since when each group in ASC is at or below ASC_EXIT, and the park speeds below their limits
(R399, R407). A speed between two updates is not watched (log 69). -/
def Chip.watchSpeed (c : Chip) : Chip :=
  let i := c.isn
  let low (g : Nat) : Bool := !c.speedAbove g (bits (c.rd R.ISN.ASC_CFG) 16 16)
  { c with isn := { i with
      slowAt := (i.ascAt.filter fun e => low e.1).map fun e => (e.1, (Tab.find i.slowAt e.1).getD c.st)
      parkAt := if c.parkSlow then some (i.parkAt.getD c.st) else none } }

/-- A report to Isaenaim when REPORT_ISN = 1. -/
def Chip.pfuReport (c : Chip) (k : Nat) : Chip := if c.on (F.PFU.CTRL.REPORT_ISN k) then c.report 12 k else c

/-- The state of a unit, with the bits of PFU_STAT that show it. -/
def Chip.setOs (c : Chip) (k st : Nat) : Chip :=
  ((c.set (F.PFU.STATUS.STATE k) st).setb (F.PFU.PFU_STAT.TRACKING k) (st == osTracking)).setb (F.PFU.PFU_STAT.FAULT k)
    (st == osFault) |>.noteOk 12 k (st == osTracking)

/-- Entry to FAULT: a = 0, and the angle extrapolates at the last w (Table 7.2). -/
def Chip.obsFault (c : Chip) (k : Nat) : Chip :=
  if c.osState k = osOff ∨ c.osState k = osFault then c
  else (((c.updPfu k fun x => { x with a := 0, missing := 0 }).setOs k osFault).pfuReport k).watchSpeed

/-- |INNOV| against INNOV_LIM, and the state and flags that follow (R235, R236). -/
def Chip.obsJudge (c : Chip) (k : Nat) : Chip :=
  let big := decide ((c.rd (R.PFU.INNOV_LIM k)).toNat < ((c.pfuInnov k).toInt).natAbs)
  let c1 := c.updPfu k fun x => { x with good := if big then 0 else x.good + 1, high := if big then x.high + 1 else 0 }
  let x := c1.pfu k
  let n := max 1 (bits (c.rd (R.PFU.INNOV_N k)) 0 8)
  let c2 :=
    if !big then c1.clr (F.PFU.PFU_STAT.INNOV_HI k)
    else if n ≤ x.high ∧ !c1.on (F.PFU.PFU_STAT.INNOV_HI k) then
      ((c1.raise (F.PFU.PFU_STAT.INNOV_HI k)).raise (F.PFU.STICKY.INNOV_HI k)).pfuReport k
    else c1
  if c2.osState k = osAcquiring ∧ 16 ≤ x.good then c2.setOs k osTracking else c2

/-! ### The update (R233) -/

/-- The difference of two angles in 2^-64 turn as a signed value. -/
def turnDiff (a b : Int) : Int := signed 64 ((a - b) % (2 ^ 64 : Nat)).toNat

/-- The state vector after an update over `t` ticks with innovation `e`. -/
def Chip.obsStep (c : Chip) (k : Nat) (e : Int) (t now : Nat) (x : PfuSt) : PfuSt :=
  let l1 := (c.rd (R.PFU.OBS_L k 0)).toNat
  let l2 := (c.rd (R.PFU.OBS_L k 1)).toNat
  let l3 := (c.rd (R.PFU.OBS_L k 2)).toNat
  { x with
    th := ((x.thAt t + rnd (e * (l1 : Int)) (2 ^ 32)) % (2 ^ 64 : Nat)).toNat
    w := x.wAt t + rnd (e * (l2 * Config.sec : Nat)) (2 ^ 48 * t)
    a := x.a + rnd (e * (l3 * Config.sec * Config.sec : Nat)) (2 ^ 56 * t * t)
    e := e, last := now }

/-- 64 updates in a row without a measurement are a fault in resolver mode (Table 7.2). -/
def Chip.obsMissing (c : Chip) (k : Nat) : Chip :=
  if c.get (F.PFU.PFCFG.INTYPE k) = 4 ∧ 64 ≤ (c.pfu k).missing then c.obsFault k else c

/-- What an update does to the observer and its states (R232, R233, Table 7.2). -/
def Chip.obsTake (c : Chip) (k : Nat) (meas : Option Nat) (now : Nat) : Chip :=
  let x := c.pfu k
  let st := c.osState k
  let t := now - x.last
  let mark (c : Chip) : Chip := (c.setb (F.PFU.PFU_STAT.PREDICTED k) meas.isNone).wr (R.PFU.OBS_TS k) (wd now)
  if st = osOff then c
  else match meas with
    | some v =>
      if st = osFault ∨ !x.seeded then
        mark ((c.updPfu k fun x => { x with th := v * 2 ^ 32, seeded := true, e := 0, last := now, good := 0, high := 0, missing := 0 }).setOs
          k osAcquiring)
      else if t = 0 then c
      else
        mark ((c.updPfu k fun x => { c.obsStep k (turnDiff ((v * 2 ^ 32 : Nat) : Int) (x.thAt t)) t now x with missing := 0 }).obsJudge k)
    | none =>
      if st = osFault then c.setb (F.PFU.PFU_STAT.PREDICTED k) true
      else if !x.seeded then
        ((c.updPfu k fun x => { x with missing := x.missing + 1 }).setb (F.PFU.PFU_STAT.PREDICTED k) true).obsMissing k
      else if t = 0 then c
      else (mark ((c.updPfu k fun x => { c.obsStep k 0 t now x with missing := x.missing + 1 }).obsJudge k)).obsMissing k

/-- An update at an instant with a measurement in 2^-32 turn, or without one. -/
def Chip.obsUpdate (c : Chip) (k : Nat) (meas : Option Nat) (now : Nat) : Chip :=
  ((c.obsTake k meas now).statTag k (c.rd (R.PFU.PFU_STAT k))).watchSpeed

end Sys2Proof.Machine
end

