-- ==== Sys2Proof/Machine/Ports.lean ====
section
/-! DEFINITION. The port space of the control-law engines: what a port holds, its update tag and its fresh marks (R101–R103,
R106, R152, Tables 3.7 and 5.1). -/

namespace Sys2Proof.Machine

/-- A result of an ADC entry as its port returns it: 24 bits, sign-extended for DIFF = 1 (R191). -/
def Chip.adcPort (c : Chip) (a e : Nat) : Word :=
  let v := bits (c.rd (R.ADC.RES a e)) 0 24
  if c.on (F.ADC.ECONV.DIFF a e) then iw (signed 24 v) else wd v

/-- A word of a PFU as its port returns it. -/
def Chip.pfuPort (c : Chip) (k i : Nat) : Word :=
  match i with
  | 0 => c.pfuAngle k | 1 => c.pfuSpeed k | 2 => c.pfuAccel k | 3 => c.rd (R.PFU.COUNT k)
  | 4 => c.pfuInnov k | 5 => c.rd (R.PFU.PFU_STAT k) | _ => c.rd (R.PFU.CAPT k)

/-- What a port holds, but for the running-loop ports (Table 3.7). -/
def Chip.portVal (c : Chip) (port : Nat) : Word :=
  if port < 0x300 then c.adcPort (port / 32) (port % 32)
  else if 0x400 ≤ port ∧ port ≤ 0x45F then c.pfuPort ((port - 0x400) / 16) (port % 16)
  else if 0x800 ≤ port ∧ port ≤ 0x89F then c.rd (R.PG.PG_STAT ((port - 0x800) / 4))
  else if 0xA00 ≤ port ∧ port ≤ 0xA0B then wd (bits (c.rd (R.CMPG.CMP_STAT (port - 0xA00))) 0 16)
  else if 0x1000 ≤ port ∧ port ≤ 0x10FF then Tab.at c.mailbox 0 (port - 0x1000)
  else Tab.at c.portWords 0 port

/-- The update tag of a port (R152). -/
def Chip.tagOf (c : Chip) (port : Nat) : Nat :=
  if port < 0x300 then bits (c.rd (R.ADC.RES (port / 32) (port % 32))) 24 8
  else if 0x800 ≤ port ∧ port ≤ 0x89F then c.get (F.PG.PG_STAT.TAG ((port - 0x800) / 4))
  else Tab.at c.portTag 0 port

/-- Key of the fresh mark of a loop, port and core (0 A, 1 B). -/
def freshKey (l port core : Nat) : Nat := l * 2 ^ 15 + port * 2 + core

/-- The port is fresh for a core within a loop. -/
def Chip.isFresh (c : Chip) (l port core : Nat) : Bool := (Tab.find c.freshMark (freshKey l port core)).isSome

/-- Both cores' fresh marks of a port within a loop are set. -/
def Chip.markFresh (c : Chip) (l port : Nat) : Chip :=
  { c with freshMark := Tab.put (Tab.put c.freshMark (freshKey l port 0) ()) (freshKey l port 1) () }

/-- Both cores' fresh marks of a port within a loop are cleared. -/
def Chip.clearFresh (c : Chip) (l port : Nat) : Chip :=
  { c with freshMark := Tab.del (Tab.del c.freshMark (freshKey l port 0)) (freshKey l port 1) }

/-- The first value after a won WAITP limit is counted as late (R106, R47). -/
def Chip.lateValue (c : Chip) (p port : Nat) : Chip :=
  match (c.pair p).run with
  | none => c
  | some r =>
    if r.frozen.any fun f => f.port == port && !f.late then
      ((c.updPair p fun x => { x with run := some { r with frozen := r.frozen.map fun f =>
          if f.port == port then { f with late := true } else f } }).late 3 p r.slot).raise (F.CLE.STICKY.PORT_LATE p)
    else c

/-- A new value has been written to a fresh port: the marks of every admitted loop that reads it are set (Table 3.7). -/
def Chip.portWritten (c : Chip) (port : Nat) : Chip :=
  let c1 := (c.admitted.filter fun l => (c.loop l).ports.any fun e => e.1 == port && e.2.1).foldl
    (fun (c : Chip) l => c.markFresh l port) c
  upto 36 (fun c p => c.lateValue p port) c1

/-- A mailbox word takes a value: an event of its own (Tables 3.7, 4.3 and 6.2, R152). -/
def Chip.mailboxWrite (c : Chip) (w : Nat) (v : Word) : Chip :=
  (({ c with mailbox := Tab.set c.mailbox 0 w v }.bumpTag (0x1000 + w)).event evMbx w 0 c.st).portWritten (0x1000 + w)

/-- A word of a CONV or CHGSEQ port block takes a value; its tag increments when it changes, or at every update (R325,
R342). -/
def Chip.portWord (c : Chip) (port : Nat) (v : Word) (always : Bool) : Chip :=
  if v = Tab.at c.portWords 0 port ∧ !always then c
  else { c with portWords := Tab.set c.portWords 0 port v }.bumpTag port

/-- A word of shared SRAM: a slice under march test, or one that has failed it, is read in the save buffer (R176, R177). What
lies beyond the last word, which a loop's window may reach, is a free value (R98, log 84). -/
def Chip.shmRd (c : Chip) (w : Nat) : Word :=
  if 2 ^ 20 ≤ w then Config.absentShm w
  else if c.marchSlice = some (w / 1024) ∨ c.marchStand = some (w / 1024) then Tab.at c.marchBuf 0 (w % 1024)
  else Tab.at c.shm 0 w

/-- A store to a word of shared SRAM (R176, R177); beyond the last word nothing is stored (log 84). -/
def Chip.shmWr (c : Chip) (w : Nat) (v : Word) : Chip :=
  if 2 ^ 20 ≤ w then c
  else if c.marchSlice = some (w / 1024) ∨ c.marchStand = some (w / 1024) then
    { c with marchBuf := Tab.set c.marchBuf 0 (w % 1024) v }
  else { c with shm := Tab.set c.shm 0 w v }

/-- Key of a reader's holding latch of a `_LO` register (R22): host ports and on-chip readers by SOURCE code, core `n` of
the engines as 8 + n. -/
def latchKey (reader addr : Nat) : Nat := reader * 0x1000000 + addr % 0x1000000

/-- A reader's latch takes a value. -/
def Chip.setLatch (c : Chip) (reader addr : Nat) (v : Word) : Chip :=
  { c with latches := Tab.set c.latches 0 (latchKey reader addr) v }

/-- What a reader's latch holds; 0 when there has been no read since reset (R23). -/
def Chip.latch (c : Chip) (reader addr : Nat) : Word := Tab.at c.latches 0 (latchKey reader addr)

/-- A loop's set-point, ITER_FLAGS and the other running-loop ports, read once for the pair (Table 3.7, R130): the value
and the device after the read. -/
def Chip.sharedPort (c : Chip) (p port : Nat) : Word × Chip :=
  match (c.pair p).run with
  | none => (0, c)
  | some r =>
    match port with
    | 0x1100 => ((c.loop r.loop).setpt, c)
    | 0x1102 => (((c.pair p).a.flags).setWidth 32, c)
    | 0x1103 => (wd r.loop, c)
    | 0x1108 =>
      let hi := wd (c.st / 2 ^ 32)
      (wd c.st, (c.setLatch (8 + 2 * p) R.SYS.ST_LO hi).setLatch (9 + 2 * p) R.SYS.ST_LO hi)
    | 0x1109 => (c.latch (8 + 2 * p) R.SYS.ST_LO, c)
    | _ => (0, c)

end Sys2Proof.Machine
end

