-- ==== Sys2Proof/Machine/Cle.lean ====
section
/-! DEFINITION. The control-law engines: how a pair executes an instruction of its running iteration (R85–R109, R147–R156,
R495). An instruction command carries the instruction's fields and the cores that execute it (log 15). -/

namespace Sys2Proof.Machine

/-! ### The running iteration -/

/-- The iteration a pair executes; none while it is idle, waits at a WAITP or waits for run-ahead inputs. -/
def Chip.executing (c : Chip) (p : Nat) : Option RunSt :=
  match (c.pair p).run with
  | some r => if r.phase = .inputWait ∨ r.wait.isSome then none else some r
  | none => none

/-- A running iteration with a change. -/
def Chip.updRun (c : Chip) (p : Nat) (f : RunSt → RunSt) : Chip :=
  c.updPair p fun x => { x with run := x.run.map f }

/-- SLOT_COST of the running iteration (R109). -/
def Chip.slotCost (c : Chip) (p : Nat) (r : RunSt) : Nat := (c.rd (win r.slot (R.CLE.SLOT_COST p))).toNat

/-- SLOT_WU_LAST and SLOT_WU_MAX take the count of the iteration that ends (Table 3.11). -/
def Chip.noteWu (c : Chip) (p : Nat) (r : RunSt) : Chip :=
  let x := c.pair p
  let n := max x.a.wu x.b.wu
  let m := win r.slot (R.CLE.SLOT_WU_MAX p)
  (c.wr (win r.slot (R.CLE.SLOT_WU_LAST p)) (wd n)).wr m (wd (max n (c.rd m).toNat))

/-- Fresh marks that a speculative pass cleared are set again (R142). -/
def Chip.restoreFresh (c : Chip) (r : RunSt) : Chip :=
  if r.phase = .plain then c else r.cleared.foldl (fun (c : Chip) port => c.markFresh r.loop port) c

/-- The iteration ends and nothing of it commits. -/
def Chip.abandon (c : Chip) (p : Nat) (r : RunSt) : Chip := ((c.noteWu p r).restoreFresh r).endRun p

/-- The iteration ends as a TRAP (R108): code, offset, FAULT. -/
def Chip.trapRun (c : Chip) (p : Nat) (r : RunSt) (code addr : Nat) : Chip :=
  let c1 := ((c.wr (R.CLE.TRAP_INFO p) (wd (code + r.slot * 2 ^ 16))).wr (R.CLE.TRAP_ADDR p) (wd (addr % 2 ^ 14))).raise
    (F.CLE.STICKY.TRAP p)
  (c1.abandon p r).faultLoop r.loop

/-- The device codes of TRAP (R108). -/
abbrev trPoison : Nat := 0xFFFB
abbrev trEcc : Nat := 0xFFFC
abbrev trRange : Nat := 0xFFFD
abbrev trCost : Nat := 0xFFFE
abbrev trOpcode : Nat := 0xFFFF

/-- A mismatch of the running iteration: nothing commits, and the sequence of R160 begins (R149). -/
def Chip.runMismatch (c : Chip) (p : Nat) (r : RunSt) (kind addr space : Nat) : Chip :=
  (c.abandon p r).mismatch p kind (some (r.loop, r.slot)) addr space

/-- An instruction that would exceed SLOT_COST is not executed (R109). -/
def Chip.costOverrun (c : Chip) (p : Nat) (r : RunSt) (addr : Nat) : Chip :=
  ((c.raise (F.CLE.STICKY.COST_OVR p)).report 1 p).trapRun p r trCost addr

/-- A change of the cores that execute; the flag tells core B. -/
def PairSt.onCores (x : PairSt) (cs : Cores) (f : Bool → CoreSt → CoreSt) : PairSt :=
  { x with a := if cs.hasA then f false x.a else x.a, b := if cs.hasB then f true x.b else x.b }

/-- The instruction word at a core's offset, in its own program memory. -/
def Chip.fetched (c : Chip) (p : Nat) (r : RunSt) (coreB : Bool) : Word :=
  let x := c.pair p
  Tab.at (if coreB then x.pmemB else x.pmemA) 0
    (c.get ((F.CLE.SLOT_PMEM.PBASE p).win r.slot) + (if coreB then x.b.pc else x.a.pc))

/-- What keeps a fetched instruction from being executed. -/
inductive FetchFault where
  /-- A parity error of a core's program memory, at a word of it (R87, R151). -/
  | parity (coreB : Bool) (addr : Nat)
  /-- A reserved opcode, at an offset of the loop's code (R108). -/
  | reserved (pc : Nat)
deriving DecidableEq, Repr

/-- The fetch of the instruction that the executing cores have reached: a parity error comes before the opcode. -/
def Chip.badFetch (c : Chip) (p : Nat) (r : RunSt) (cs : Cores) : Option FetchFault :=
  let x := c.pair p
  match cs.fetchError with
  | some b => some (.parity b (c.get ((F.CLE.SLOT_PMEM.PBASE p).win r.slot) + (if b then x.b.pc else x.a.pc)))
  | none =>
    if cs.hasA && opReserved (c.fetched p r false) then some (.reserved x.a.pc)
    else if cs.hasB && opReserved (c.fetched p r true) then some (.reserved x.b.pc)
    else none

/-- The effect of a fetch fault: a mismatch of the pair, or a TRAP with code FFFFh (R108, R151). -/
def Chip.fetchFails (c : Chip) (p : Nat) (r : RunSt) : FetchFault → Chip
  | .parity b a => c.runMismatch p r (if b then kParityB else kParityA) a 3
  | .reserved pc => c.trapRun p r trOpcode pc

/-- The WU of an instruction is charged, if the pair executes and no core's count would exceed SLOT_COST; then the
instruction's own effect `f` follows (R109). A word that shows a parity error or a reserved opcode is not executed (R87,
R108). -/
def Chip.charged (c : Chip) (p : Nat) (cs : Cores) (wu : CoreSt → Nat) (f : RunSt → Chip → Chip) : Chip :=
  match c.executing p with
  | none => c
  | some r =>
    let x := c.pair p
    let lim := c.slotCost p r
    let overA := cs.hasA && decide (lim < x.a.wu + wu x.a)
    let overB := cs.hasB && decide (lim < x.b.wu + wu x.b)
    match c.badFetch p r cs with
    | some e => c.fetchFails p r e
    | none =>
    if overA || overB then c.costOverrun p r (if overA then x.a.pc else x.b.pc)
    else f r (c.updPair p fun x => x.onCores cs fun _ y => { y with wu := y.wu + wu y })

/-! ### Program order (R88, R104, R105) -/

/-- Where execution goes on from an offset: the end of a LOOP body starts its next pass, or leaves it (R104). -/
def settle : List Frame → Nat → Nat × List Frame
  | [], pc => (pc, [])
  | f :: fs, pc =>
    if pc = f.last + 1 then
      if 1 < f.left then (f.first, { f with left := f.left - 1 } :: fs) else settle fs pc
    else (pc, f :: fs)

/-- The core goes on at an offset. -/
def CoreSt.jump (x : CoreSt) (pc : Nat) : CoreSt :=
  let n := settle x.frames pc
  { x with pc := n.1, frames := n.2 }

/-- The core goes on at the next instruction. -/
def CoreSt.next (x : CoreSt) : CoreSt := x.jump (x.pc + 1)

/-- The effect of an instruction under its guard, and the next instruction (R94). -/
def CoreSt.guarded (x : CoreSt) (g : Nat) (f : CoreSt → CoreSt) : CoreSt := (if x.getP g then f x else x).next

/-- An instruction that acts within each core alone. -/
def Chip.cleOp (c : Chip) (p : Nat) (cs : Cores) (g wu : Nat) (f : CoreSt → CoreSt) : Chip :=
  c.charged p cs (fun _ => wu) fun _ c => c.updPair p fun x => x.onCores cs fun _ y => y.guarded g f

/-! ### Form A and form I instructions (Table 3.4) -/

def execCleNop (p : Fin 36) (cs : Cores) (g : Fin 8) (s : State) : Host.Outcome State Fault Refusal :=
  s.nextChip fun c => c.cleOp p cs g 1 id

def execCleAdd (p : Fin 36) (cs : Cores) (g : Fin 8) (rd ra rb : Fin 32) (qs : BitVec 5) (s : State) :
    Host.Outcome State Fault Refusal :=
  s.nextChip fun c => c.cleOp p cs g 1 fun x => x.result rd (scale (x.val ra + x.val rb) (qsInt qs))

def execCleSub (p : Fin 36) (cs : Cores) (g : Fin 8) (rd ra rb : Fin 32) (qs : BitVec 5) (s : State) :
    Host.Outcome State Fault Refusal :=
  s.nextChip fun c => c.cleOp p cs g 1 fun x => x.result rd (scale (x.val ra - x.val rb) (qsInt qs))

def execCleMul (p : Fin 36) (cs : Cores) (g : Fin 8) (rd ra rb : Fin 32) (qs : BitVec 5) (s : State) :
    Host.Outcome State Fault Refusal :=
  s.nextChip fun c => c.cleOp p cs g 3 fun x => x.result rd (scale (x.val ra * x.val rb) (qsInt qs - 31))

def execCleMac (p : Fin 36) (cs : Cores) (g : Fin 8) (acc : Fin 4) (ra rb : Fin 32) (qs : BitVec 5) (s : State) :
    Host.Outcome State Fault Refusal :=
  s.nextChip fun c => c.cleOp p cs g 2 fun x => x.accResult acc (x.getA acc + scale (x.val ra * x.val rb) (qsInt qs))

def execCleMsu (p : Fin 36) (cs : Cores) (g : Fin 8) (acc : Fin 4) (ra rb : Fin 32) (qs : BitVec 5) (s : State) :
    Host.Outcome State Fault Refusal :=
  s.nextChip fun c => c.cleOp p cs g 2 fun x => x.accResult acc (x.getA acc - scale (x.val ra * x.val rb) (qsInt qs))

/-- ACCR: a clamped result sets SAT and SAT_ACC (Tables 3.2 and 3.4). -/
def CoreSt.accr (x : CoreSt) (acc rd : Nat) (clear : Bool) (qs : Int) : CoreSt :=
  let v := scale (x.getA acc) (qs - 31)
  let y := (x.result rd v).flagIf (sat32 v).2 flSatAcc
  if clear then y.setA acc 0 else y

def execCleAccr (p : Fin 36) (cs : Cores) (g : Fin 8) (acc : Fin 4) (rd : Fin 32) (clear : Bool) (qs : BitVec 5) (s : State) :
    Host.Outcome State Fault Refusal :=
  s.nextChip fun c => c.cleOp p cs g 1 fun x => x.accr acc rd clear (qsInt qs)

def execCleAccw (p : Fin 36) (cs : Cores) (g : Fin 8) (acc : Fin 4) (ra : Fin 32) (qs : BitVec 5) (s : State) :
    Host.Outcome State Fault Refusal :=
  s.nextChip fun c => c.cleOp p cs g 1 fun x => x.accResult acc (scale (x.val ra) (31 + qsInt qs))

def execCleMin (p : Fin 36) (cs : Cores) (g : Fin 8) (rd ra rb : Fin 32) (s : State) : Host.Outcome State Fault Refusal :=
  s.nextChip fun c => c.cleOp p cs g 1 fun x => x.setW rd (if x.val ra ≤ x.val rb then x.getW ra else x.getW rb)

def execCleMax (p : Fin 36) (cs : Cores) (g : Fin 8) (rd ra rb : Fin 32) (s : State) : Host.Outcome State Fault Refusal :=
  s.nextChip fun c => c.cleOp p cs g 1 fun x => x.setW rd (if x.val rb ≤ x.val ra then x.getW ra else x.getW rb)

def execCleAbs (p : Fin 36) (cs : Cores) (g : Fin 8) (rd ra : Fin 32) (qs : BitVec 5) (s : State) :
    Host.Outcome State Fault Refusal :=
  s.nextChip fun c => c.cleOp p cs g 1 fun x => x.result rd (scale ((x.val ra).natAbs : Int) (qsInt qs))

def execCleNeg (p : Fin 36) (cs : Cores) (g : Fin 8) (rd ra : Fin 32) (qs : BitVec 5) (s : State) :
    Host.Outcome State Fault Refusal :=
  s.nextChip fun c => c.cleOp p cs g 1 fun x => x.result rd (scale (-(x.val ra)) (qsInt qs))

/-- The shift of SHV: rb clamped to −31…31 (Table 3.4). -/
def shvShift (b : Int) : Int := max (-31) (min 31 b)

def execCleShv (p : Fin 36) (cs : Cores) (g : Fin 8) (rd ra rb : Fin 32) (s : State) : Host.Outcome State Fault Refusal :=
  s.nextChip fun c => c.cleOp p cs g 1 fun x => x.result rd (scale (x.val ra) (shvShift (x.val rb)))

def execCleAnd (p : Fin 36) (cs : Cores) (g : Fin 8) (rd ra rb : Fin 32) (s : State) : Host.Outcome State Fault Refusal :=
  s.nextChip fun c => c.cleOp p cs g 1 fun x => x.setW rd (x.getW ra &&& x.getW rb)

def execCleOr (p : Fin 36) (cs : Cores) (g : Fin 8) (rd ra rb : Fin 32) (s : State) : Host.Outcome State Fault Refusal :=
  s.nextChip fun c => c.cleOp p cs g 1 fun x => x.setW rd (x.getW ra ||| x.getW rb)

def execCleXor (p : Fin 36) (cs : Cores) (g : Fin 8) (rd ra rb : Fin 32) (s : State) : Host.Outcome State Fault Refusal :=
  s.nextChip fun c => c.cleOp p cs g 1 fun x => x.setW rd (x.getW ra ^^^ x.getW rb)

/-- The conditions of CMP (Table 3.5). -/
def cmpHolds (a b : Word) : CmpCond → Bool
  | .eq => a == b
  | .ne => a != b
  | .lt => decide (a.toInt < b.toInt)
  | .le => decide (a.toInt ≤ b.toInt)
  | .gt => decide (b.toInt < a.toInt)
  | .ge => decide (b.toInt ≤ a.toInt)
  | .ltu => decide (a.toNat < b.toNat)
  | .geu => decide (b.toNat ≤ a.toNat)

def execCleCmp (p : Fin 36) (cs : Cores) (g : Fin 8) (pd : Fin 8) (ra rb : Fin 32) (cond : CmpCond) (s : State) :
    Host.Outcome State Fault Refusal :=
  s.nextChip fun c => c.cleOp p cs g 1 fun x => x.setP pd (cmpHolds (x.getW ra) (x.getW rb) cond)

def execCleSel (p : Fin 36) (cs : Cores) (g : Fin 8) (rd ra rb : Fin 32) (ps : Fin 8) (s : State) :
    Host.Outcome State Fault Refusal :=
  s.nextChip fun c => c.cleOp p cs g 1 fun x => x.setW rd (if x.getP ps then x.getW ra else x.getW rb)

/-- CLAMP between w[RB] and w[RB + 1]; SUB[0] = 1 sets SAT when limited (Table 3.4). -/
def CoreSt.clamp (x : CoreSt) (rd ra rb : Nat) (flag : Bool) : CoreSt :=
  if x.val (rb + 1) < x.val ra then (x.flagIf flag flSat).setW rd (x.getW (rb + 1))
  else if x.val ra < x.val rb then (x.flagIf flag flSat).setW rd (x.getW rb)
  else x.setW rd (x.getW ra)

def execCleClamp (p : Fin 36) (cs : Cores) (g : Fin 8) (rd ra : Fin 32) (rb : Fin 31) (flag : Bool) (s : State) :
    Host.Outcome State Fault Refusal :=
  s.nextChip fun c => c.cleOp p cs g 2 fun x => x.clamp rd ra rb flag

/-- RATE: rd moves towards ra by at most L = max(w[RB], 0) (Table 3.4). -/
def CoreSt.rate (x : CoreSt) (rd ra rb : Nat) (flag : Bool) : CoreSt :=
  let l := max (x.val rb) 0
  let d := clampInt (-l) l (x.val ra - x.val rd)
  (x.flagIf (flag && d.2) flSat).result rd (x.val rd + d.1)

def execCleRate (p : Fin 36) (cs : Cores) (g : Fin 8) (rd ra rb : Fin 32) (flag : Bool) (s : State) :
    Host.Outcome State Fault Refusal :=
  s.nextChip fun c => c.cleOp p cs g 2 fun x => x.rate rd ra rb flag

/-- DIV: floor(ra × 2^(31+QS) ÷ rb + 1/2); a divisor of 0 gives the signed limit and sets DIV0 (R97). -/
def CoreSt.div (x : CoreSt) (rd ra rb : Nat) (qs : Int) : CoreSt :=
  let a := x.val ra
  let b := x.val rb
  if b = 0 then
    (x.flag flDiv0).setW rd (if 0 < a then 0x7FFFFFFF#32 else if a < 0 then 0x80000000#32 else 0)
  else
    let n := (if b < 0 then -a else a) * 2 ^ (31 + qs).toNat
    let d : Int := b.natAbs
    x.result rd ((2 * n + d) / (2 * d))

def execCleDiv (p : Fin 36) (cs : Cores) (g : Fin 8) (rd ra rb : Fin 32) (qs : BitVec 5) (s : State) :
    Host.Outcome State Fault Refusal :=
  s.nextChip fun c => c.cleOp p cs g 12 fun x => x.div rd ra rb (qsInt qs)

def execCleCordicSin (p : Fin 36) (cs : Cores) (g : Fin 8) (rd ra : Fin 32) (s : State) : Host.Outcome State Fault Refusal :=
  s.nextChip fun c => c.cleOp p cs g 10 fun x => x.setW rd (sinCode (x.getW ra))

def execCleCordicCos (p : Fin 36) (cs : Cores) (g : Fin 8) (rd ra : Fin 32) (s : State) : Host.Outcome State Fault Refusal :=
  s.nextChip fun c => c.cleOp p cs g 10 fun x => x.setW rd (cosCode (x.getW ra))

def execCleCordicSincos (p : Fin 36) (cs : Cores) (g : Fin 8) (rd : Fin 31) (ra : Fin 32) (s : State) :
    Host.Outcome State Fault Refusal :=
  s.nextChip fun c => c.cleOp p cs g 12 fun x =>
    (x.setW rd (sinCode (x.getW ra))).setW (rd.val + 1) (cosCode (x.getW ra))

def execCleCordicAtan2 (p : Fin 36) (cs : Cores) (g : Fin 8) (rd ra rb : Fin 32) (s : State) :
    Host.Outcome State Fault Refusal :=
  s.nextChip fun c => c.cleOp p cs g 12 fun x => x.setW rd (atan2Code (x.val ra) (x.val rb))

def execCleCordicMag (p : Fin 36) (cs : Cores) (g : Fin 8) (rd ra rb : Fin 32) (qs : BitVec 5) (s : State) :
    Host.Outcome State Fault Refusal :=
  s.nextChip fun c => c.cleOp p cs g 10 fun x => x.result rd (magValue (x.val ra) (x.val rb) (qsInt qs))

def execCleCordicPolar (p : Fin 36) (cs : Cores) (g : Fin 8) (rd : Fin 31) (ra rb : Fin 32) (qs : BitVec 5) (s : State) :
    Host.Outcome State Fault Refusal :=
  s.nextChip fun c => c.cleOp p cs g 14 fun x =>
    (x.result rd (magValue (x.val ra) (x.val rb) (qsInt qs))).setW (rd.val + 1) (atan2Code (x.val ra) (x.val rb))

def execCleMov (p : Fin 36) (cs : Cores) (g : Fin 8) (rd ra : Fin 32) (qs : BitVec 5) (s : State) :
    Host.Outcome State Fault Refusal :=
  s.nextChip fun c => c.cleOp p cs g 1 fun x => x.result rd (scale (x.val ra) (qsInt qs))

def execCleLdiSigned (p : Fin 36) (cs : Cores) (g : Fin 8) (rd : Fin 32) (imm : BitVec 16) (s : State) :
    Host.Outcome State Fault Refusal :=
  s.nextChip fun c => c.cleOp p cs g 1 fun x => x.setW rd (iw (immInt imm))

def execCleLdiHigh (p : Fin 36) (cs : Cores) (g : Fin 8) (rd : Fin 32) (imm : BitVec 16) (s : State) :
    Host.Outcome State Fault Refusal :=
  s.nextChip fun c => c.cleOp p cs g 1 fun x => x.setW rd (wd (imm.toNat * 2 ^ 16))

def execCleLdiLow (p : Fin 36) (cs : Cores) (g : Fin 8) (rd : Fin 32) (imm : BitVec 16) (s : State) :
    Host.Outcome State Fault Refusal :=
  s.nextChip fun c => c.cleOp p cs g 1 fun x => x.setW rd (putBits (x.getW rd) 0 16 imm.toNat)

def execCleAddi (p : Fin 36) (cs : Cores) (g : Fin 8) (rd : Fin 32) (imm : BitVec 16) (s : State) :
    Host.Outcome State Fault Refusal :=
  s.nextChip fun c => c.cleOp p cs g 1 fun x => x.result rd (x.val rd + immInt imm)

/-- CMPI writes p[SUB + 4] (Table 3.4). -/
def execCleCmpi (p : Fin 36) (cs : Cores) (g : Fin 8) (pd : Fin 4) (rd : Fin 32) (imm : BitVec 16) (s : State) :
    Host.Outcome State Fault Refusal :=
  s.nextChip fun c => c.cleOp p cs g 1 fun x => x.setP (pd.val + 4) (decide (x.val rd < immInt imm))

/-- PLOG: p[PD] = TT[2 × p[PA] + p[PB]] (R97). -/
def execClePlog (p : Fin 36) (cs : Cores) (g : Fin 8) (pd pa pb : Fin 8) (tt : BitVec 4) (s : State) :
    Host.Outcome State Fault Refusal :=
  s.nextChip fun c => c.cleOp p cs g 1 fun x => x.setP pd (tt.getLsbD (2 * (x.getP pa).toNat + (x.getP pb).toNat))

/-! ### Control flow (R104, R105) -/

/-- The WU of one pass of a LOOP body, from the program memory of the running loop (R104, R107). -/
def Chip.bodyCost (c : Chip) (p : Nat) (r : RunSt) (pc len : Nat) : Nat :=
  let base := c.get ((F.CLE.SLOT_PMEM.PBASE p).win r.slot)
  ((pathList 4 ((List.range len).map fun k => Tab.at (c.pair p).pmemA 0 (base + pc + 1 + k))).headD ⟨0, true, false, 0⟩).cost

/-- LOOP: COUNT passes of the LEN instructions that follow; a false guard charges the full cost and passes over the body
(R104). -/
def Chip.cleLoop (c : Chip) (p : Nat) (cs : Cores) (g count len : Nat) : Chip :=
  match (c.pair p).run with
  | none => c
  | some r =>
    c.charged p cs (fun x => if x.getP g then 2 else 2 + count * c.bodyCost p r x.pc len) fun _ c =>
      c.updPair p fun x => x.onCores cs fun _ y =>
        if y.getP g then { y with pc := y.pc + 1, frames := { first := y.pc + 1, last := y.pc + len, left := count } :: y.frames }
        else y.jump (y.pc + 1 + len)

def execCleLoop (p : Fin 36) (cs : Cores) (g : Fin 8) (count : BitVec 12) (len : BitVec 11) (s : State) :
    Host.Outcome State Fault Refusal :=
  s.nextChip fun c => c.cleLoop p cs g count.toNat len.toNat

def execCleSkip (p : Fin 36) (cs : Cores) (g : Fin 8) (dist : BitVec 11) (s : State) : Host.Outcome State Fault Refusal :=
  s.nextChip fun c => c.charged p cs (fun _ => 1) fun _ c => c.updPair p fun x => x.onCores cs fun _ y =>
    if y.getP g then y.jump (y.pc + 1 + dist.toNat) else y.next

/-! ### Memory (R98–R100, R166) -/

/-- The latest buffered store to a word of the data segment (R128). -/
def CoreSt.bufData (x : CoreSt) (i : Nat) : Option Word :=
  x.list.foldl (fun m e => match e with | .store k v => if k = i then some v else m | _ => m) none

/-- The latest buffered store to a word of shared SRAM (R128). -/
def CoreSt.bufShm (x : CoreSt) (w : Nat) : Option Word :=
  x.list.foldl (fun m e => match e with | .share k v => if k = w then some v else m | _ => m) none

/-- What an LD of a core meets. -/
inductive LoadRes where
  /-- A word. -/
  | word (v : Word)
  /-- A double-bit error of a shared-SRAM word. -/
  | ecc
  /-- A poisoned word. -/
  | poison
deriving DecidableEq, Repr

/-- The word of an LD within range, for one core: its own buffered store first (R98, R128). A window may reach beyond the last word of
shared SRAM, of which the spec says nothing: DESIGN CHOICE, log 84. -/
def Chip.loadWord (c : Chip) (p : Nat) (isB : Bool) (x : CoreSt) (l : Nat) (shared : Bool) (n : Nat) (flt : MemFault) : LoadRes :=
  if shared then
    let w := (c.loop l).shmBase + n
    match x.bufShm w with
    | some v => .word v
    | none => if flt = .double then .ecc else .word (c.shmRd w)
  else
    match x.bufData n with
    | some v => .word v
    | none =>
      let a := c.dbase l + n
      if (c.pair p).poison.contains a then .poison
      else .word (Tab.at (if isB then (c.pair p).dmemB else (c.pair p).dmemA) 0 a)

/-- The index lies in its valid range (R98). -/
def Chip.inRange (c : Chip) (l : Nat) (shared : Bool) (n : Int) : Bool :=
  decide (0 ≤ n) && decide (n < ((if shared then (c.loop l).shmLen else c.dlen l : Nat) : Int))

/-- The first access of the iteration outside its range is remembered (R98). -/
def CoreSt.reject (x : CoreSt) : CoreSt := { x with memRej := match x.memRej with | some o => some o | none => some x.pc }

/-- The executing core whose view an event of the pair takes: core A where it executes. -/
def PairSt.lead (x : PairSt) (cs : Cores) : CoreSt := if cs.hasA then x.a else x.b

/-- The core of a pair. -/
def PairSt.core (x : PairSt) (coreB : Bool) : CoreSt := if coreB then x.b else x.a

/-- An LD on the cores whose guard is true: range, buffered stores, poison, ECC and parity (R87, R98, R99, R128, R166). -/
def Chip.cleLd (c : Chip) (p : Nat) (r : RunSt) (cs : Cores) (rd rb : Nat) (shared : Bool) (ofs : BitVec 12) (flt : MemFault) :
    Chip :=
  let x := c.pair p
  let lead := x.lead cs
  let n := lead.index rb ofs
  let ok := c.inRange r.loop shared n
  let w := (c.loop r.loop).shmBase + n.toNat
  let fromShm := shared && ok && (lead.bufShm w).isNone
  let reads (b : Bool) : Bool := cs.has b && !shared && c.inRange r.loop shared ((x.core b).index rb ofs)
  let poisoned (b : Bool) : Bool := cs.has b && c.inRange r.loop shared ((x.core b).index rb ofs) &&
    c.loadWord p b (x.core b) r.loop shared ((x.core b).index rb ofs).toNat flt == .poison
  if flt == .parityA && reads false then c.runMismatch p r kParityA (c.dbase r.loop + (x.a.index rb ofs).toNat) 1
  else if flt == .parityB && reads true then c.runMismatch p r kParityB (c.dbase r.loop + (x.b.index rb ofs).toNat) 1
  else if fromShm && flt == .double then
    (((c.wr (R.CLE.ECC_INFO p) (wd (w % 2 ^ 20 + 2 ^ 20))).raise (F.CLE.STICKY.ECC_DED p)).report 2 (w % 2 ^ 20 / 1024)).trapRun p r trEcc lead.pc
  else if poisoned false then c.trapRun p r trPoison x.a.pc
  else if poisoned true then c.trapRun p r trPoison x.b.pc
  else
    let c1 := if fromShm && flt == .single then (c.wr (R.CLE.ECC_INFO p) (wd (w % 2 ^ 20))).raise (F.CLE.STICKY.ECC_CE p) else c
    let c2 := c1.raiseIf ((cs.hasA && !c.inRange r.loop shared (x.a.index rb ofs)) || (cs.hasB && !c.inRange r.loop shared (x.b.index rb ofs)))
      (F.CLE.STICKY.MEM_REJ p)
    c2.updPair p fun y => y.onCores cs fun isB z =>
      let m := z.index rb ofs
      if c.inRange r.loop shared m then
        match c.loadWord p isB z r.loop shared m.toNat flt with
        | .word v => (z.setW rd v).next
        | _ => (z.setW rd 0).next
      else (z.reject.setW rd 0).next

/-- The executing cores whose own guard is true (R94). -/
def PairSt.acting (x : PairSt) (cs : Cores) (g : Nat) : Option Cores :=
  match cs.hasA && x.a.getP g, cs.hasB && x.b.getP g with
  | true, true => some .both
  | true, false => some .a
  | false, true => some .b
  | false, false => none

/-- An instruction that acts for the cores under a true guard together; an executing core whose own guard is false only goes
on (R94). -/
def Chip.underGuard (c : Chip) (p : Nat) (cs : Cores) (g : Nat) (f : Cores → Chip → Chip) : Chip :=
  let x := c.pair p
  match x.acting cs g with
  | none => c.updPair p fun x => x.onCores cs fun _ y => y.next
  | some act => f act (c.updPair p fun x => x.onCores cs fun b y => if act.has b then y else y.next)

def execCleLd (p : Fin 36) (cs : Cores) (g : Fin 8) (rd rb : Fin 32) (shared : Bool) (ofs : BitVec 12) (flt : MemFault)
    (s : State) : Host.Outcome State Fault Refusal :=
  s.nextChip fun c => c.charged p cs (fun _ => if shared then 24 else 2) fun r c =>
    c.underGuard p cs g fun act c => c.cleLd p r act rd rb shared ofs flt

/-- An ST under its guard: a buffered store, or a rejected access (R98, R128). -/
def Chip.cleSt (c : Chip) (p : Nat) (r : RunSt) (cs : Cores) (g rd rb : Nat) (shared : Bool) (ofs : BitVec 12) : Chip :=
  let bad (x : CoreSt) : Bool := x.getP g && !c.inRange r.loop shared (x.index rb ofs)
  let x := c.pair p
  (c.raiseIf ((cs.hasA && bad x.a) || (cs.hasB && bad x.b)) (F.CLE.STICKY.MEM_REJ p)).updPair p fun y =>
    y.onCores cs fun _ z =>
      if !z.getP g then z.next
      else
        let n := z.index rb ofs
        if c.inRange r.loop shared n then
          { z with list := z.list ++ [if shared then Entry.share ((c.loop r.loop).shmBase + n.toNat) (z.getW rd) else Entry.store n.toNat (z.getW rd)] }.next
        else z.reject.next

def execCleSt (p : Fin 36) (cs : Cores) (g : Fin 8) (rd rb : Fin 32) (shared : Bool) (ofs : BitVec 12) (s : State) :
    Host.Outcome State Fault Refusal :=
  s.nextChip fun c => c.charged p cs (fun _ => if shared then 24 else 2) fun r c => c.cleSt p r cs g rd rb shared ofs

/-- The segment of INTERP's input (R100): i and f. -/
def interpSplit (ra : Word) (raw : Bool) : Nat × Nat :=
  let u := if raw then ra.toNat else (ra + 0x80000000#32).toNat
  (u / 2 ^ 24, u % 2 ^ 24)

/-- The result of INTERP from its two table words (R100). -/
def interpValue (ti tj : Word) (f : Nat) : Int := ti.toInt + scale ((tj.toInt - ti.toInt) * f) (-24)

/-- INTERP on the cores whose guard is true (R87, R98, R100): a table word out of range is a rejected access, whose result is a
free value (log 16); a poisoned word traps, and a parity error is a mismatch. -/
def Chip.cleInterp (c : Chip) (p : Nat) (r : RunSt) (cs : Cores) (rd ra rb : Nat) (raw : Bool) (flt : TableFault) : Chip :=
  let at_ (isB : Bool) (z : CoreSt) (k : Nat) : Option LoadRes :=
    let n := z.val rb + k
    if c.inRange r.loop false n then some (c.loadWord p isB z r.loop false n.toNat .clean) else none
  let words (isB : Bool) (z : CoreSt) : Option LoadRes × Option LoadRes :=
    let i := (interpSplit (z.getW ra) raw).1
    (at_ isB z i, at_ isB z (min (i + 1) 255))
  let x := c.pair p
  let poisoned (b : Bool) : Bool :=
    cs.has b && ((words b (x.core b)).1 == some .poison || (words b (x.core b)).2 == some .poison)
  let failing : Option (Bool × Int) := match flt with
    | .clean => none
    | .parity b second =>
      let i := (interpSplit ((x.core b).getW ra) raw).1
      let n := (x.core b).val rb + (if second then min (i + 1) 255 else i : Nat)
      if cs.has b && c.inRange r.loop false n then some (b, n) else none
  match failing with
  | some (b, n) => c.runMismatch p r (if b then kParityB else kParityA) (c.dbase r.loop + n.toNat) 1
  | none =>
  if poisoned false then c.trapRun p r trPoison x.a.pc
  else if poisoned true then c.trapRun p r trPoison x.b.pc
  else
    let bad (isB : Bool) (z : CoreSt) : Bool := (words isB z).1.isNone || (words isB z).2.isNone
    let rej := (cs.hasA && bad false x.a) || (cs.hasB && bad true x.b)
    let c1 := c.raiseIf rej (F.CLE.STICKY.MEM_REJ p)
    let d := if rej then c1.draw else (c1.fresh, c1)
    d.2.updPair p fun y => y.onCores cs fun isB z =>
      match words isB z with
      | (some (.word ti), some (.word tj)) => (z.result rd (interpValue ti tj (interpSplit (z.getW ra) raw).2)).next
      | _ => (z.reject.setW rd (Config.freeWord d.1)).next

def execCleInterp (p : Fin 36) (cs : Cores) (g : Fin 8) (rd ra rb : Fin 32) (table : Bool × TableFault) (s : State) :
    Host.Outcome State Fault Refusal :=
  s.nextChip fun c => c.charged p cs (fun _ => 6) fun r c =>
    c.underGuard p cs g fun act c => c.cleInterp p r act rd ra rb table.1 table.2

/-! ### Ports (R101, R102, R152–R156, R495) -/

/-- The cores stand at different offsets at an agreement point: a mismatch of kind control flow, with core A's offset and
SPACE program memory (R495). -/
def Chip.flowMismatch (c : Chip) (p : Nat) (r : RunSt) : Chip := c.runMismatch p r kFlow (c.pair p).a.pc 3

/-- A field of CMP_CFG as the running iteration uses it: a write applies from the next iteration (R184). -/
def RunSt.tol (r : RunSt) (f : Fld) : Nat := bits r.cmp f.lo f.len

/-- An input disagreement is counted; more than IND_LIMIT of them within 1 ms are an input fault (R153, R156). -/
def Chip.disagree (c : Chip) (p : Nat) (r : RunSt) : Chip × Bool :=
  let c1 := (c.inc (whole (R.PAIRCMP.IND_CNT p))).raise (F.PAIRCMP.STICKY.IN_DISAGREE p)
  let l := ((c.pair p).disagree.filter fun t => c.st < t + Config.ms) ++ [c.st]
  (c1.updPair p fun x => { x with disagree := l }, max 1 (r.tol (F.PAIRCMP.CMP_CFG.IND_LIMIT 0)) < l.length)

/-- What the agreement rules make of two samples (R153). -/
inductive Agreed where
  /-- Both cores proceed with their own values; the iteration is marked ADIV when the flag is set. -/
  | own (adiv : Bool)
  /-- An input disagreement: the port is sampled once more. -/
  | again
  /-- An execution mismatch of kind tagged input. -/
  | tagged
deriving DecidableEq, Repr

/-- Difference of two samples of a continuous port; of ANGLE modulo one turn (R153). -/
def sampleDiff (port : Nat) (a b : Word) : Nat := if port % 16 = 0 then (a - b).toInt.natAbs else (a.toInt - b.toInt).natAbs

/-- The agreement rules (R153), with the input tolerance 2^k. -/
def agree (port k : Nat) (a b : PortSample) : Agreed :=
  if portContinuous port then
    if a.val = b.val then .own false else if sampleDiff port a.val b.val ≤ 2 ^ k then .own true else .again
  else if a.tag = b.tag then (if a.val = b.val then .own false else .tagged)
  else .again

/-- What the port holds now, as both cores would capture it. -/
def Chip.sample (c : Chip) (port : Nat) : PortSample := { val := c.portVal port, tag := BitVec.ofNat 8 (c.tagOf port) }

/-- The samples of both cores meet: the values the cores use and the device, or a mismatch that has ended the iteration
(R153, R156). -/
def Chip.agreeOn (c : Chip) (p : Nat) (r : RunSt) (port : Nat) (a b : PortSample) : Option (Word × Word) × Chip :=
  match agree port (r.tol (F.PAIRCMP.CMP_CFG.IN_TOL_K 0)) a b with
  | .own adiv => (some (a.val, b.val), if adiv then c.updRun p fun r => { r with adiv := true } else c)
  | .tagged => (none, c.runMismatch p r kTagged port 0)
  | .again =>
    let d := c.disagree p r
    if d.2 then (none, d.1.runMismatch p r kInput port 0)
    else let v := c.portVal port; (some (v, v), d.1)

/-- The index of a port among the run-ahead inputs of a loop (R138). -/
def Chip.raInput (c : Chip) (l port : Nat) : Option Nat :=
  if !c.on (lf F.LPD.LPD_RA.EN l) then none
  else (List.range (c.nin l)).find? fun i => (c.seg l (c.get (lf F.LPD.LPD_RA.RA_OFS l) + i)).toNat % 2 ^ 14 == port

/-- Both cores take values into a register and go on. -/
def Chip.inResult (c : Chip) (p rd : Nat) (va vb : Word) : Chip :=
  c.updPair p fun x => { x with a := (x.a.setW rd va).next, b := (x.b.setW rd vb).next }

/-- The fresh mark that IN clears (Table 3.7); in a speculative pass it is kept for a squash (R142). -/
def Chip.inClears (c : Chip) (p : Nat) (r : RunSt) (port : Nat) : Chip :=
  if portFresh port && c.isFresh r.loop port 0 then
    let c1 := c.clearFresh r.loop port
    if r.phase = .speculative then c1.updRun p fun r => { r with cleared := port :: r.cleared } else c1
  else c

/-- An IN under a true guard (R101, R106, R139, R152–R156); a core for which the limit of a WAITP has won presents the value of
that moment. -/
def Chip.cleIn (c : Chip) (p : Nat) (r : RunSt) (rd port : Nat) (capA capB : Option PortSample) : Chip :=
  if portShared port then
    let v := c.sharedPort p port
    v.2.inResult p rd v.1 v.1
  else match r.frozen.find? fun f => f.port == port && f.cores == .both with
    | some f => c.inResult p rd f.val f.val
    | none => match (if r.phase = .speculative ∨ r.recompute then c.raInput r.loop port else none) with
      | some i =>
        if r.recompute then c.inResult p rd (r.latchedA.getD i 0) (r.latchedB.getD i 0)
        else c.inResult p rd (r.pred.getD i 0) (r.pred.getD i 0)
      | none =>
        let seen (b : Bool) (cap : Option PortSample) : PortSample :=
          match r.frozen.find? fun f => f.port == port && f.cores.has b with
          | some f => { val := f.val, tag := BitVec.ofNat 8 f.tag }
          | none => cap.getD (c.sample port)
        let a := seen false capA
        let b := seen true capB
        match c.agreeOn p r port a b with
        | (none, c1) => c1
        | (some (va, vb), c1) => (c1.inClears p r port).inResult p rd va vb

def execCleIn (p : Fin 36) (g : Fin 8) (rd : Fin 32) (ports : InPorts) (capA capB : Option PortSample)
    (s : State) : Host.Outcome State Fault Refusal :=
  s.nextChip fun c =>
    match c.executing p with
    | none => c
    | some r =>
      let x := c.pair p
      if x.a.pc ≠ x.b.pc ∨ x.a.getP g ≠ x.b.getP g ∨ (ports.other.getD ports.port ≠ ports.port) then c.flowMismatch p r
      else c.charged p .both (fun _ => 3) fun r c =>
        if (c.pair p).a.getP g then c.cleIn p r rd ports.port.toNat capA capB
        else c.updPair p fun x => x.onCores .both fun _ y => y.next

/-- A staged OUT: the value clamped to the range of its port, with SAT_OUT (R102). -/
def CoreSt.out (x : CoreSt) (rd port : Nat) : CoreSt :=
  let v := portClamp port (x.getW rd)
  let y := { x with list := x.list ++ [Entry.out port v.1] }
  y.flagIf v.2 flSatOut

def execCleOutStaged (p : Fin 36) (cs : Cores) (g : Fin 8) (rd : Fin 32) (port : BitVec 14) (s : State) :
    Host.Outcome State Fault Refusal :=
  s.nextChip fun c => c.cleOp p cs g 3 fun x => x.out rd port.toNat

/-- Values agree: exactly, or within 2^OUT_TOL_K for an ADIV iteration; the difference is that of the two signed values and does
not wrap (R148, log 84). -/
def RunSt.valuesAgree (r : RunSt) (a b : Word) : Bool :=
  a == b || (r.adiv && decide ((a.toInt - b.toInt).natAbs ≤ 2 ^ r.tol (F.PAIRCMP.CMP_CFG.OUT_TOL_K 0)))

/-- An immediate OUT to a mailbox word: compared before it leaves the pair (R102, R147, R149). -/
def Chip.cleOutNow (c : Chip) (p : Nat) (r : RunSt) (g rd word : Nat) : Chip :=
  let x := c.pair p
  let port := 0x1000 + word
  if x.a.getP g ≠ x.b.getP g ∨ !r.valuesAgree (x.a.getW rd) (x.b.getW rd) ∧ x.a.getP g then
    c.runMismatch p r kImmOut port 0
  else
    let c1 := c.updPair p fun x => x.onCores .both fun _ y => y.next
    if x.a.getP g then c1.issue r.loop port false (x.a.getW rd) else c1

def execCleOutImmediate (p : Fin 36) (g : Fin 8) (rd : Fin 32) (word : Fin 256) (s : State) :
    Host.Outcome State Fault Refusal :=
  s.nextChip fun c => c.charged p .both (fun _ => 3) fun r c => c.cleOutNow p r g rd word

/-! ### WAITP and TRAP (R106, R108) -/

/-- Cores take a predicate and go on. -/
def Chip.predResult (c : Chip) (p : Nat) (cs : Cores) (pd : Nat) (v : Bool) : Chip :=
  c.updPair p fun x => x.onCores cs fun _ y => (y.setP pd v).next

/-- WAITP on the cores whose guard is true: a fresh port, or a run-ahead input in a speculative pass, sets the predicate at
once; otherwise these cores wait (R94, R106, R139). Both cores' fresh marks of a port are set and cleared together. -/
def Chip.cleWaitp (c : Chip) (p : Nat) (r : RunSt) (g pd port limit : Nat) : Chip :=
  c.underGuard p .both g fun act c =>
    if c.isFresh r.loop port 0 || (r.phase == .speculative && (c.raInput r.loop port).isSome) then c.predResult p act pd true
    else c.updRun p fun r => { r with wait := some (pd, port, c.st + Config.ns (100 * limit)), waitOn := act }

def execCleWaitp (p : Fin 36) (g pd : Fin 8) (port : BitVec 14) (limit : BitVec 6) (s : State) :
    Host.Outcome State Fault Refusal :=
  s.nextChip fun c => c.charged p .both (fun _ => 4 + 35 * limit.toNat) fun r c => c.cleWaitp p r g pd port.toNat limit.toNat

/-- The arrival wins against the limit of a wait (R106): the awaited port has become fresh. -/
def Chip.waitArrival (c : Chip) (p : Nat) : Chip :=
  match (c.pair p).run with
  | none => c
  | some r => match r.wait with
    | none => c
    | some (pd, port, _) =>
      if c.isFresh r.loop port 0 then (c.updRun p fun r => { r with wait := none }).predResult p r.waitOn pd true else c

def execCleWaitpArrival (p : Fin 36) (at_ : Nat) (s : State) : Host.Outcome State Fault Refusal :=
  s.nextChip fun c => (c.goto at_).waitArrival p

/-- The limit of a wait wins (R106): the port's present value is what IN returns until the iteration ends. -/
def Chip.waitLimit (c : Chip) (p : Nat) : Chip :=
  match (c.pair p).run with
  | none => c
  | some r => match r.wait with
    | none => c
    | some (pd, port, lim) =>
      let c1 := c.goto lim
      (c1.updRun p fun r =>
        { r with wait := none
                 frozen := { port := port, val := c1.portVal port, tag := c1.tagOf port, cores := r.waitOn } :: r.frozen }).predResult
        p r.waitOn pd false

def execCleWaitpLimit (p : Fin 36) (s : State) : Host.Outcome State Fault Refusal := s.nextChip fun c => c.waitLimit p

/-- TRAP ends the iteration when a core executes it under a true guard; core A's offset is recorded where it does (R94, R108,
log 84). -/
def Chip.cleTrap (c : Chip) (p : Nat) (r : RunSt) (g code : Nat) : Chip :=
  c.underGuard p .both g fun act c => c.trapRun p r code (if act.hasA then (c.pair p).a.pc else (c.pair p).b.pc)

def execCleTrap (p : Fin 36) (g : Fin 8) (code : BitVec 16) (s : State) : Host.Outcome State Fault Refusal :=
  s.nextChip fun c => c.charged p .both (fun _ => 2) fun r c => c.cleTrap p r g code.toNat

end Sys2Proof.Machine
end

