-- ==== Sys2Proof/Machine/Commit.lean ====
section
/-! DEFINITION. How an iteration ends: the output commit, the commit comparison, the deadline, the oscillation detector and
the state signature (R91, R127, R128, R144–R149, R155, R157–R159). -/

namespace Sys2Proof.Machine

/-! ### Commit comparison (R148) -/

/-- A flag update. -/
def Entry.isFlag : Entry → Bool
  | .flag _ => true
  | _ => false

/-- Two entries agree: one kind, one address, values that agree (R148). -/
def RunSt.entryAgrees (r : RunSt) : Entry → Entry → Bool
  | .out p v, .out q u => p == q && r.valuesAgree v u
  | .store p v, .store q u => p == q && r.valuesAgree v u
  | .share p v, .share q u => p == q && r.valuesAgree v u
  | .flag a, .flag b => a == b
  | _, _ => false

/-- The first place where two lists disagree: the entry of core A there, or of core B past the end of A's list. -/
def RunSt.firstDiff (r : RunSt) : List Entry → List Entry → Option Entry
  | [], [] => none
  | [], b :: _ => some b
  | a :: _, [] => some a
  | a :: as, b :: bs => if r.entryAgrees a b then r.firstDiff as bs else some a

/-- The lists as they are compared: flag updates may differ for an ADIV iteration (R148). -/
def comparedList (adiv : Bool) (l : List Entry) : List Entry := if adiv then l.filter fun e => !e.isFlag else l

/-- MISMATCH_ADDR of a disagreeing entry; for a flag update, for which no address is given, a free value (log 16). -/
def Chip.entryMismatch (c : Chip) (p : Nat) (r : RunSt) : Entry → Chip
  | .out port _ => c.runMismatch p r kCommit port 0
  | .store i _ => c.runMismatch p r kCommit (c.dbase r.loop + i) 1
  | .share w _ => c.runMismatch p r kCommit w 2
  | .flag _ =>
    let d := c.draw
    d.2.runMismatch p r kCommit ((Config.freeWord d.1).toNat % 2 ^ 20) ((Config.freeWord d.1).toNat / 2 ^ 20 % 8)

/-! ### Oscillation detector (R144–R146) -/

/-- The detector's word `i` of a loop. -/
def Chip.sdWord (c : Chip) (l i : Nat) : Word := c.seg l (c.get (lf F.LPD.LPD_SDOG.SD_OFS l) + i)

/-- Each gain word selected by GAIN_MASK is scaled by FACTOR (R146); a selected word at or above DLEN is no word of the loop and is
passed over (log 60). -/
def Chip.scaleGains (c : Chip) (l : Nat) : Chip :=
  let mask := c.sdWord l 6
  let f := (c.sdWord l 5).toInt
  let base := bits (c.sdWord l 7) 0 13
  let ks := ((List.range 32).filter fun b => mask.getLsbD b && decide (base + b < c.dlen l)).map fun b => base + b
  let p := c.get (fPair l)
  let c1 := ks.foldl (fun (c : Chip) k =>
    let v := (sat32 (scale ((c.seg l k).toInt * f) (-31))).1
    c.updPair p fun x => x.store (c.dbase l + k) v) c
  c1.updLoop l fun x => x.dirty ks

/-- The action on a detection (R146); a loop with TSRC = 6 opens at once (R132). -/
def Chip.sdAct (c : Chip) (l : Nat) : Chip :=
  let c1 := ((c.raise (lf F.LPD.LPD_FLAGS.SDOG_DETECT l)).recordOpen 4 1).clr (lf F.LPD.LPD_SDOG_STAT.QCYC l)
  let act := bits (c.sdWord l 4) 16 2
  let n := c.get (lf F.LPD.LPD_SDOG_STAT.SCALINGS l)
  let opened : Chip :=
    let c2 := c1.raise (lf F.LPD.LPD_FLAGS.SDOG_OPENED l)
    if c.get (lf F.LPD.LPD_TRIG.TSRC l) = 6 then c2.enterState l lsOpen else c2.updLoop l fun x => { x with sdOpen := true }
  if act = 1 then
    if n < bits (c.sdWord l 4) 12 4 then
      ((c1.scaleGains l).raise (lf F.LPD.LPD_FLAGS.SDOG_SCALED l)).inc (lf F.LPD.LPD_SDOG_STAT.SCALINGS l)
    else opened
  else if act = 2 then opened
  else c1

/-- A completed cycle qualifies (R145). -/
def Chip.sdQualifies (c : Chip) (l : Nat) (x : LoopSt) (len : Nat) : Bool :=
  let pm := c.sdWord l 3
  bits pm 0 12 ≤ len && len ≤ bits pm 16 12 && decide (2 * (c.sdWord l 1).toInt < x.sdEmax - x.sdEmin)
    && decide (2 * (c.sdWord l 2).toInt < x.sdUmax - x.sdUmin)

/-- The detector after an output commit (R145). E_IDX or U_IDX at or above DLEN reads the data-memory word there (log 60). -/
def Chip.sdUpdate (c : Chip) (l : Nat) : Chip :=
  if !c.on (lf F.LPD.LPD_SDOG.EN l) || c.get (fState l) != lsClosed then c
  else
    let w0 := c.sdWord l 0
    let e := c.seg l (bits w0 0 13)
    let u := c.seg l (bits w0 16 13)
    let x := c.loop l
    let avg := iw (x.sdAvg.toInt + scale (u.toInt - x.sdAvg.toInt) (-(bits (c.sdWord l 4) 8 4 : Int)))
    let du := u.toInt - avg.toInt
    let rising := decide (0 ≤ e.toInt) && (match x.sdPrev with | some q => decide (q.toInt < 0) | none => false)
    let len := x.sdLen + 1
    if rising then
      let c1 := c.updLoop l fun x =>
        { x with sdAvg := avg, sdPrev := some e, sdLen := 0, sdRun := true, sdEmin := e.toInt, sdEmax := e.toInt, sdUmin := du, sdUmax := du }
      if !x.sdRun then c1
      else
        let c2 := c1.set (lf F.LPD.LPD_SDOG_STAT.LAST_PER l) (min len 0xFFF)
        if c.sdQualifies l x len then
          let q := c.get (lf F.LPD.LPD_SDOG_STAT.QCYC l) + 1
          if bits (c.sdWord l 4) 0 8 < q then c2.sdAct l else c2.set (lf F.LPD.LPD_SDOG_STAT.QCYC l) q
        else c2.clr (lf F.LPD.LPD_SDOG_STAT.QCYC l)
    else
      let c1 := c.updLoop l fun x =>
        { x with sdAvg := avg, sdPrev := some e, sdLen := len, sdEmin := min x.sdEmin e.toInt, sdEmax := max x.sdEmax e.toInt,
                 sdUmin := min x.sdUmin du, sdUmax := max x.sdUmax du }
      if bits (c.sdWord l 3) 16 12 ≤ len then c1.clr (lf F.LPD.LPD_SDOG_STAT.QCYC l) else c1

/-! ### State signature (R157–R159) -/

/-- The first word in which the cores' program memories, data memories or configurations differ: address and SPACE (R157). -/
def PairSt.differs (x : PairSt) : Option (Nat × Nat) :=
  let keys (t u : Tab Word) : List Nat := (t.map fun e => e.1) ++ u.map fun e => e.1
  match (keys x.pmemA x.pmemB).find? fun k => Tab.at x.pmemA 0 k != Tab.at x.pmemB 0 k with
  | some k => some (k, 3)
  | none => match (keys x.dmemA x.dmemB).find? fun k => Tab.at x.dmemA 0 k != Tab.at x.dmemB 0 k with
    | some k => some (k, 1)
    | none => ((keys x.cfgA x.cfgB).find? fun k => Tab.at x.cfgA 0 k != Tab.at x.cfgB 0 k).map fun k => (k, 4)

/-- The signatures are compared (R157, R159): their low words are free values, equal when nothing differs (log 17). A
difference on a pair whose commits have agreed is a latent divergence. -/
def Chip.sigCompare (c : Chip) (p : Nat) : Chip :=
  let d := c.draw
  let e := d.2.draw
  let diff := (c.pair p).differs
  let c1 := ((e.2.wr (R.PAIRCMP.SIG_A p) (Config.freeWord d.1)).wr (R.PAIRCMP.SIG_B p)
    (Config.freeWord (if diff.isSome then e.1 else d.1))).clr (F.PAIRCMP.SIG_STATUS.COMMITS p)
  let c2 := c1.updPair p fun x => { x with sigCommits := 0 }
  match diff with
  | none => c2
  | some (a, sp) => c2.mismatch p kSignature none a sp

/-! ### The output commit (R127, R91, R92) -/

/-- One entry of core A's list takes effect (R127, R128). -/
def Chip.commitEntry (c : Chip) (p : Nat) (r : RunSt) : Entry → Chip
  | .out port v => c.issue r.loop port false v
  | .store i v => c.updPair p fun x => x.store (c.dbase r.loop + i) v
  | .share w v => c.issue r.loop w true v
  | .flag b =>
    let c1 := if b < 3 then c.raise (hSticky (R.CLE.ID p) (b + 1)) else c
    if b = flSatAcc then c1.raise (bitOf (R.CLE.LOOP_SAT p) r.slot)
    else if b = flSatOut then c1.raise (bitOf (R.CLE.LOOP_SAT p) (16 + r.slot))
    else c1

/-- The words of the data segment that a list stores to. -/
def storedWords (l : List Entry) : List Nat := l.filterMap fun e => match e with | .store i _ => some i | _ => none

/-- The last value a list writes to a port. -/
def lastOut (l : List Entry) (port : Nat) : Option Word :=
  l.foldl (fun m e => match e with | .out q v => if q = port then some v else m | _ => m) none

/-- An outer iteration of a cascade has committed: its set-point stands to be latched (R137). -/
def Chip.cascCommit (c : Chip) (l : Nat) (list : List Entry) : Chip :=
  if !c.on (lf F.LPD.LPD_CASC.EN l) then c
  else
    let w := c.get (lf F.LPD.LPD_CASC.MBX l)
    c.updLoop l fun x => { x with spOk := true, spVal := some ((lastOut list (0x1000 + w)).getD (Tab.at c.mailbox 0 w)) }

/-- The output commit of an iteration: every entry of core A's list at one instant, LPD_LAST, and the counts (R127, R155,
R157). -/
def Chip.outputCommit (c : Chip) (p : Nat) (r : RunSt) (list : List Entry) : Chip :=
  let c1 := list.foldl (fun (c : Chip) e => c.commitEntry p r e) c
  let c2 := c1.updLoop r.loop fun x => x.dirty (storedWords list)
  let c3 := c2.noteCommit r.loop
  let c4 := if r.adiv then c3.inc (whole (R.PAIRCMP.ADIV_CNT p)) else c3
  ((c4.cascCommit r.loop list).sdUpdate r.loop).updPair p fun x => { x with sigCommits := x.sigCommits + 1 }

/-- After the commit: 256 of them bring a comparison of the partial signatures (R157). -/
def Chip.afterCommit (c : Chip) (p : Nat) : Chip :=
  let n := (c.pair p).sigCommits
  if 256 ≤ n then c.sigCompare p else c.set (F.PAIRCMP.SIG_STATUS.COMMITS p) n

/-! ### Deadlines (R127, R132, R41) -/

/-- A consecutive failure counts towards MISS_MAX; reaching it puts the loop in FAULT (R132). -/
def Chip.countConsec (c : Chip) (l : Nat) : Chip :=
  let c1 := c.inc (lf F.LPD.LPD_MISS_CNT.CONSEC l)
  let m := c.get (lf F.LPD.LPD_OPEN.MISS_MAX l)
  if m ≠ 0 ∧ m ≤ c1.get (lf F.LPD.LPD_MISS_CNT.CONSEC l) then (c1.raise (lf F.LPD.LPD_FLAGS.MISS_FAULT l)).faultLoop l else c1

/-- A deadline miss is flagged and counted (R41, R127, R137). -/
def Chip.countMiss (c : Chip) (l : Nat) : Chip :=
  let c1 := ((c.raise (lf F.LPD.LPD_FLAGS.DEADLINE_MISS l)).inc (lf F.LPD.LPD_MISS_CNT.TOTAL l)).countConsec l
  let c2 := if c.on (lf F.LPD.LPD_CASC.EN l) then c1.raise (lf F.LPD.LPD_FLAGS.CASC_SKIP l) else c1
  (c2.inc (whole R.LEASH.DLMISS_CNT)).raise F.LEASH.STICKY.DLMISS

/-- The deadline of a loop's iteration passes: it is abandoned, running or not yet dispatched (R127). -/
def Chip.missDeadline (c : Chip) (l : Nat) : Chip :=
  let p := c.get (fPair l)
  let waiting : Chip :=
    match (c.loop l).ready with
    | some t => ((c.goto (c.deadlineAt l t)).updLoop l fun x => { x with ready := none }).countMiss l
    | none => c
  match (c.pair p).run with
  | some r => if r.loop = l then ((c.goto (c.deadlineAt l r.trig)).abandon p r).countMiss l else waiting
  | none => waiting

def execLoopDeadline (loop : Fin 512) (s : State) : Host.Outcome State Fault Refusal :=
  s.nextChip fun c => if c.on (fAdmitted loop) then c.missDeadline loop else c

/-- The lists meet: agreeing lists commit core A's, others are an execution mismatch (R127, R148, R149). -/
def Chip.finish (c : Chip) (p : Nat) (r : RunSt) : Chip :=
  let x := c.pair p
  match r.firstDiff (comparedList r.adiv x.a.list) (comparedList r.adiv x.b.list) with
  | some e => c.entryMismatch p r e
  | none => (((c.outputCommit p r x.a.list).noteWu p r).endRun p).afterCommit p

/-- SIGNATURE_PASS_END (R157): a pass ends and the signatures are compared. -/
def execSignaturePassEnd (p : Fin 36) (s : State) : Host.Outcome State Fault Refusal :=
  s.nextChip fun c =>
    ((c.inc (F.PAIRCMP.SIG_STATUS.PASSES p)).raise (F.PAIRCMP.SIG_STATUS.PASS_ACTIVE p)).sigCompare p

end Sys2Proof.Machine
end

