-- ==== Sys2Proof/Machine/Page.lean ====
section
/-! DEFINITION. What every page does with a write to one of its registers: values, shadows, commits and flags (R64,
R69–R73). -/

namespace Sys2Proof.Machine

/-- The row of a register, by its byte address or the key of a windowed register. -/
def rowOf (a : Nat) : Option RegRow := findRow (regRows (mapClass (aCls (a % 0x1000000)) (aInst (a % 0x1000000)))) (aOff a)

/-- The RWS bits of a register. -/
def rwsMask (a : Nat) : Nat := match rowOf a with | some r => r.rws | none => 0

/-- The value of an RWS register as the next write to it finds it: its shadow, else the staged set, else the register. -/
def Chip.shadowOf (c : Chip) (a : Nat) : Word :=
  match Tab.find c.shadow a with
  | some v => v
  | none => match Tab.find c.staged a with
    | some v => v
    | none => c.rd a

/-- A value goes into the shadow of an RWS register (R69). -/
def Chip.setShadow (c : Chip) (a : Nat) (v : Word) : Chip := { c with shadow := Tab.put c.shadow a v }

/-- A write to a register that has no meaning of its own, at key `a`: RW bits take the value, W1C bits written 1 clear,
RWS bits go to the shadow (R11, R69). -/
def Chip.storeAt (c : Chip) (a : Nat) (v : Word) : Chip :=
  match rowOf a with
  | none => c
  | some r =>
    let c1 := if r.rw = 0 then c else c.wr a (merge (c.rd a) v r.rw)
    let c2 := if r.w1c = 0 then c1 else c1.wr a (c1.rd a &&& ~~~(v &&& wd r.w1c))
    if r.rws = 0 then c2 else c2.setShadow a (merge (c2.shadowOf a) v r.rws)

/-- A write to a register that has no meaning of its own. -/
def Chip.store (c : Chip) (w : Acc) : Chip := c.storeAt w.addr w.val

/-- The shadows of a page that wait for a commit. -/
def Chip.shadowsOf (c : Chip) (page : Nat) : Tab Word := c.shadow.filter fun e => aPage e.1 == page

/-- Shadow values take effect together (R70). -/
def Chip.applyShadows (c : Chip) (vs : Tab Word) : Chip :=
  vs.foldl (fun c e => c.wr e.1 (merge (c.rd e.1) e.2 (rwsMask e.1))) c

/-- The commit of a page: every pending shadow takes effect, SHADOW_PENDING and COMMIT_REQ read 0 and CFG_EPOCH
increments when a value applied (R70, Table 2.10). -/
def Chip.commitPage (c : Chip) (page : Nat) : Chip :=
  let vs := c.shadowsOf page
  let c1 := ({ c with shadow := Tab.drop (fun k => aPage k == page) c.shadow }).applyShadows vs
  (if vs.isEmpty then c1 else c1.bump (hCfgEpoch page)).clr (hCommitReq page)

/-- A page is a member of a commit group that has been fired and is not DONE (R76). -/
def Chip.inGroup (c : Chip) (page : Nat) : Bool :=
  let st := c.get F.SYS.GRP_STATUS.STATE
  (st == 1 || st == 2) && (List.range 32).any fun k =>
    c.on (F.SYS.GRP_MEMBER.VALID k) && pageOf (c.get (F.SYS.GRP_MEMBER.CLASS k)) (c.get (F.SYS.GRP_MEMBER.INSTANCE k)) == page

/-- A request for a commit (R68, R69, R76): refused while the page is in a fired group. -/
def Chip.requestCommit (c : Chip) (w : Acc) : Chip :=
  if c.inGroup w.page then c.reject w rState false else c.raise (hCommitReq w.page)

/-- A commit point of a page at which a requested commit applies unless FREEZE or a fired group holds it (R70, R72, R76). -/
def Chip.commitPoint (c : Chip) (page : Nat) : Chip :=
  if c.on (hCommitReq page) && !c.on (hFreeze page) && !c.inGroup page then c.commitPage page else c

/-- A clear of counters: bit `i` of the value clears field `i` of the list. -/
def Chip.clearFields (c : Chip) (v : Word) (l : List Fld) : Chip :=
  (List.range l.length).foldl (fun c i => if bits v i 1 = 1 then c.clr (l.getD i (whole 0)) else c) c

/-- A field of a written value cut to a range. -/
def clampField (v : Word) (lo len a b : Nat) : Word := putBits v lo len (max a (min b (bits v lo len)))

end Sys2Proof.Machine
end

