-- ==== Sys2Proof/Machine/Triggers.lean ====
section
/-! DEFINITION. Triggers, period boundaries, state commands, set-points, cascades and the run-ahead inputs; the loop window
(R122–R143). -/

namespace Sys2Proof.Machine

/-! ### State commands (R131–R133) -/

/-- OP codes of LPD_CMD. -/
abbrev opOpen : Nat := 1
abbrev opClosed : Nat := 2
abbrev opHold : Nat := 3
abbrev opTrigger : Nat := 4

/-- The state a command asks for. -/
def opTarget (op : Nat) : Nat := if op = opClosed then lsClosed else if op = opHold then lsHold else lsOpen

/-- A configured block of a loop lies wholly inside its data segment (R133). -/
def Chip.blocksOk (c : Chip) (l : Nat) : Bool :=
  let n := c.dlen l
  (!c.on (lf F.LPD.LPD_RA.EN l) || c.get (lf F.LPD.LPD_RA.RA_OFS l) + 32 ≤ n)
    && (!c.on (lf F.LPD.LPD_SDOG.EN l) || c.get (lf F.LPD.LPD_SDOG.SD_OFS l) + 8 ≤ n)
    && (c.get (lf F.LPD.LPD_OPEN.FORCE_N l) == 0
        || c.get (lf F.LPD.LPD_OPEN.FORCE_OFS l) + 2 * c.get (lf F.LPD.LPD_OPEN.FORCE_N l) ≤ n)

/-- A transition that Table 4.5 lists for a command, with its condition. -/
def Chip.transitionOk (c : Chip) (l op : Nat) : Bool :=
  let st := c.get (fState l)
  if op = opClosed then
    (st == lsOpen && c.on (fAdmitted l) && c.on (fLoaded l)) || (st == lsHold && !(c.loop l).held)
  else if op = opHold then st == lsClosed
  else st == lsClosed || st == lsFault || (st == lsHold && !(c.loop l).held)

/-- A state command waits, or is replaced (R132). -/
def Chip.setCmd (c : Chip) (l op : Nat) (from_ : Option (Nat × Source)) : Chip :=
  (c.updLoop l fun x => { x with cmd := some (op, from_) }).raise (fCmdPend l)

/-- An iteration of the loop in progress ends, and nothing of it commits. -/
def Chip.stopRun (c : Chip) (l : Nat) : Chip :=
  let p := c.get (fPair l)
  match (c.pair p).run with
  | some r => if r.loop = l then c.abandon p r else c
  | none => c

/-- A loop leaves a state for the one commanded. No iteration runs in OPEN or HOLD (Table 4.4): one that is accepted and not
dispatched, or one that a loop with TSRC = 6 still runs when its command takes effect, ends and commits nothing (log 60). -/
def Chip.moveState (c : Chip) (l st : Nat) : Chip :=
  let c1 := c.enterState l st
  if st = lsClosed then c1 else (c1.updLoop l fun x => { x with ready := none }).stopRun l

/-- A pending command takes effect, or is refused as no longer listed, at its boundary (R132). -/
def Chip.applyCmd (c : Chip) (l : Nat) : Chip :=
  let x := c.loop l
  let c1 := if x.sdOpen then (c.updLoop l fun x => { x with sdOpen := false }).moveState l lsOpen else c
  match x.cmd with
  | none => c1
  | some (op, from_) =>
    let c2 := (c1.updLoop l fun x => { x with cmd := none }).clr (fCmdPend l)
    let blocks := op != opClosed || c1.get (fState l) != lsOpen || c1.blocksOk l
    if c1.transitionOk l op && blocks then c2.moveState l (opTarget op)
    else match from_ with
      | none => c2
      | some (inst, src) => c2.reject { src := src, addr := R.LPD.LPD_CMD + inst * 0x1000, val := wd op } rState false

/-! ### Period boundary (R129, R130, R135–R137) -/

/-- The outer loop of an admitted cascade on a loop. -/
def Chip.outerOf (c : Chip) (l : Nat) : Option Nat :=
  c.admitted.find? fun o => c.on (lf F.LPD.LPD_CASC.EN o) && c.get (lf F.LPD.LPD_CASC.INNER o) == l

/-- The set-point of a trigger is latched from its source (R130, R137). -/
def Chip.latchSetpt (c : Chip) (l : Nat) : Chip :=
  match c.get (lf F.LPD.LPD_SPSRC.SRC l) with
  | 0 => c.updLoop l fun x => { x with setpt := c.rd (lpd l R.LPD.LPD_SETPT) }
  | 2 => c.updLoop l fun x => { x with setpt := Tab.at c.mailbox 0 (c.get (lf F.LPD.LPD_SPSRC.MBX l)) }
  | _ =>
    match c.outerOf l with
    | none => c
    | some o =>
      let y := c.loop o
      if y.spDue = some (c.loop l).trigCount then
        let c1 := c.updLoop o fun y => { y with spDue := none }
        match y.spOk, y.spVal with
        | true, some v => c1.updLoop l fun x => { x with setpt := v }
        | _, _ => c1
      else c

/-- The iteration of a trigger, in CLOSED. -/
def Chip.startIteration (c : Chip) (l at_ : Nat) : Chip :=
  if c.get (fState l) = lsClosed then (c.updLoop l fun x => { x with ready := some at_ }).dispatch (c.get (fPair l)) else c

/-- Withdrawal or switch, then the pending command: what a period boundary does before its trigger (R37, R132, R165). -/
def Chip.atBoundary (c : Chip) (l : Nat) : Chip :=
  if (c.loop l).withdraw then let p := c.get (fPair l); (c.leave l).afterLeave p
  else (c.migBoundary l).applyCmd l

/-- A trigger earlier than PERIOD after the last accepted one (R126), in whole ticks. -/
def Chip.tooEarly (c : Chip) (l at_ : Nat) : Bool :=
  match (c.loop l).lastTrig with
  | none => false
  | some t => decide (at_ < t + c.period l * 128 / 5)

/-- A trigger of a loop (R125, R126, R129), and of the outer loops it triggers in turn (R136). The first argument bounds
the length of a chain of cascades. -/
def Chip.trigger : Nat → Nat → Nat → Chip → Chip
  | 0, _, _, c => c
  | fuel + 1, l, at_, c0 =>
    if c0.tooEarly l at_ then (c0.raise (lf F.LPD.LPD_FLAGS.TRIG_EARLY l)).inc (lf F.LPD.LPD_DROP_CNT.EARLY l)
    else
      -- DEADLINE does not exceed PERIOD: the deadline of an iteration still open comes before this trigger (R129)
      let c := if c0.busyLoop l then c0.missDeadline l else c0
      let c1 := (c.updLoop l fun x => { x with lastTrig := some at_, trigCount := x.trigCount + 1 }).atBoundary l
      if !c1.on (fAdmitted l) then c1
      else
        let c2 := (c1.latchSetpt l).startIteration l at_
        match c2.outerOf l with
        | none => c2
        | some o =>
          let both (x : Chip) : Bool := x.get (fState l) == lsClosed && x.get (fState o) == lsClosed
          -- while it is not triggered, the outer loop has a period boundary at an inner trigger at least its PERIOD after its
          -- last trigger, with the iteration of that trigger past its deadline (log 60)
          let c3 := if both c2 || c2.tooEarly o at_ then c2
            else (if c2.busyLoop o then c2.missDeadline o else c2).atBoundary o
          if !both c3 || !c3.on (fAdmitted o) then c3
          else
            let n := (c3.loop o).cascCount
            let c4 := c3.updLoop o fun y => { y with cascCount := n + 1 }
            if n % (c.get (lf F.LPD.LPD_CASC.NM1 o) + 1) = 0 then
              -- a dropped trigger leaves a set-point that is still due as it is
              Chip.trigger fuel o at_ (if c4.tooEarly o at_ then c4 else c4.updLoop o fun y =>
                { y with spDue := some ((c4.loop l).trigCount + c.get (lf F.LPD.LPD_CASC.MM1 o) + 1), spOk := false, spVal := none })
            else c4

/-- The longest chain of cascades: every loop is in it once. -/
abbrev loopCount : Nat := 512

/-- An ST-periodic trigger falls at tick floor((n × PERIOD + PHASE) × 128 ÷ 5) (Table 4.3). -/
def onGrid (period phase t : Nat) : Bool :=
  let x := (5 * t + 127) / 128
  let n := if period = 0 then 0 else (x - phase + period - 1) / period
  (n * period + phase) * 128 / 5 == t

/-- A trigger at an instant is one of a loop's source: a tick of an ST-periodic one, else the last event of the source,
whose timestamp it carries (R125, Table 4.3, log 14). Cascades and host triggers have paths of their own. -/
def Chip.sourceFires (c : Chip) (l at_ : Nat) : Bool :=
  let i := c.get (lf F.LPD.LPD_TRIG.TINST l)
  let e := c.get (lf F.LPD.LPD_TRIG.TEVT l)
  c.on (fAdmitted l) && (match c.get (lf F.LPD.LPD_TRIG.TSRC l) with
    | 0 => onGrid (c.period l) (c.rd (lpd l R.LPD.LPD_PHASE)).toNat at_
    | 1 => c.eventAt evPg i e at_
    | 2 => c.eventAt evPfu i e at_
    | 3 => c.eventAt evAdc i e at_
    | 5 => c.eventAt evMbx i 0 at_
    | _ => false)

def execLoopTrigger (loop : Fin 512) (at_ : Nat) (s : State) : Host.Outcome State Fault Refusal :=
  s.nextChip fun c => if c.sourceFires loop at_ then (c.goto at_).trigger loopCount loop at_ else c

/-! ### The loop window (R122–R124, R130, R132) -/

/-- The loop a PAIRCMP instance shows. -/
def Chip.lpdSel (c : Chip) (inst : Nat) : Nat := bits (c.rd (R.LPD.LPD_SEL + inst * 0x1000)) 0 9

/-- A state command (R132, R133). -/
def Chip.lpdCmd (c : Chip) (w : Acc) (l : Nat) : Chip :=
  let op := bits w.val 0 3
  let now := c.get (lf F.LPD.LPD_TRIG.TSRC l) = 6
  let no (reason : Nat) : Chip := c.reject w reason false
  if op = opTrigger then
    if !now then no rParam
    else if c.on (fAdmitted l) then c.trigger loopCount l c.st else c
  else if op = 0 ∨ 4 < op then no rParam
  else if (c.loop l).held then no rSafety
  else if !c.transitionOk l op then no rState
  else if op = opClosed ∧ c.get (fState l) = lsOpen ∧ !c.blocksOk l then no rParam
  else if now then (c.setCmd l op (some (w.inst, w.src))).applyCmd l
  else c.setCmd l op (some (w.inst, w.src))

/-- The states in which a field of the loop window accepts writes (R123, Table 4.1). -/
def Chip.lpdWritable (c : Chip) (l off : Nat) : Bool :=
  if (0x80C ≤ off ∧ off ≤ 0x820) ∨ off = 0x828 then !c.on (fAdmitted l)
  else if off = 0x830 ∨ off = 0x834 then !c.on (fAdmitted l) || c.get (fState l) == lsOpen
  else true

/-- A write to a register of the loop window. -/
def Lpd.onWrite (w : Acc) (c : Chip) : Chip :=
  let l := c.lpdSel w.inst
  if w.off = 0x800 then c.store w
  else if w.off = 0x808 then c.lpdCmd w l
  else if !c.lpdWritable l w.off then c.reject w rState true
  else if w.off = 0x820 ∧ bits w.val 0 1 = 1 then c.reject w rParam true
  else if w.off = 0x824 ∧ c.on (lf F.LPD.LPD_SPSRC.SRC l) then c.reject w rParam true
  else if w.off = 0x830 ∧ 8 < bits w.val 15 4 then c.reject w rParam true
  else if w.off = 0x84C then c.clearFields w.val
    [whole (lpd l R.LPD.LPD_MISS_CNT), whole (lpd l R.LPD.LPD_RA_CNT), whole (lpd l R.LPD.LPD_DROP_CNT)]
  else c.storeAt (lpd l (w.off - 0x800 + R.LPD.LPD_SEL)) w.val

/-- A state command written to LPD_CMD of an instance. -/
def State.lpdWrite (s : State) (src : Source) (inst op : Nat) : State :=
  let w : Acc := { src := src, addr := R.LPD.LPD_CMD + inst * 0x1000, val := wd op }
  s.gated w (Lpd.onWrite w)

def execLpdOpenCmd (src : Source) (inst : Fin 36) (s : State) : Host.Outcome State Fault Refusal :=
  .next (s.lpdWrite src inst opOpen)

def execLpdClosedCmd (src : Source) (inst : Fin 36) (s : State) : Host.Outcome State Fault Refusal :=
  .next (s.lpdWrite src inst opClosed)

def execLpdHoldCmd (src : Source) (inst : Fin 36) (s : State) : Host.Outcome State Fault Refusal :=
  .next (s.lpdWrite src inst opHold)

def execLpdTriggerCmd (src : Source) (inst : Fin 36) (s : State) : Host.Outcome State Fault Refusal :=
  .next (s.lpdWrite src inst opTrigger)

def execLpdInvalidCmd (src : Source) (inst : Fin 36) (op : BitVec 3) (s : State) : Host.Outcome State Fault Refusal :=
  .next (s.lpdWrite src inst op.toNat)

def execSetptWrite (src : Source) (inst : Fin 36) (v : Word) (s : State) : Host.Outcome State Fault Refusal :=
  let w : Acc := { src := src, addr := R.LPD.LPD_SETPT + inst * 0x1000, val := v }
  s.nextGated w (Lpd.onWrite w)

/-! ### Run-ahead (R138–R143) -/

/-- Word `i` of a loop's run-ahead block. -/
def Chip.raWord (c : Chip) (l i : Nat) : Word := c.seg l (c.get (lf F.LPD.LPD_RA.RA_OFS l) + i)

/-- The input ports of a run-ahead loop. -/
def Chip.raPorts (c : Chip) (l : Nat) : List Nat := (List.range (c.nin l)).map fun i => (c.raWord l i).toNat % 2 ^ 14

/-- Both cores latch the inputs, one after another, under the agreement rules (R139 step 4, R153): the latched values, or a
mismatch that has ended the iteration. -/
def Chip.raLatch (c : Chip) (p : Nat) (r : RunSt) : List (Nat × PortSample × PortSample) → Option (List Word × List Word) × Chip
  | [] => (some ([], []), c)
  | (port, a, b) :: rest =>
    match c.agreeOn p r port a b with
    | (none, c1) => (none, c1)
    | (some (va, vb), c1) =>
      match (c1.clearFresh r.loop port).raLatch p r rest with
      | (some (la, lb), c2) => (some (va :: la, vb :: lb), c2)
      | x => x

/-- Every input is within its tolerance (R139 step 4). -/
def Chip.raWithin (c : Chip) (r : RunSt) (vs : List Word) : Bool :=
  (List.range vs.length).all fun i =>
    decide (((vs.getD i 0).toInt - (r.pred.getD i 0).toInt).natAbs ≤ (c.raWord r.loop (4 + i)).toNat % 2 ^ 31)

/-- The correction of output j: rnd(Σ_i G_ji × (r_i − PRED_i) × 2^(GQS − 31)) (R139 step 5). -/
def Chip.raDelta (c : Chip) (r : RunSt) (vs : List Word) (j : Nat) : Int :=
  let sum := (List.range vs.length).foldl (fun (a : Int) i =>
    a + (r.gain.getD (4 * j + i) 0).toInt * ((vs.getD i 0).toInt - (r.pred.getD i 0).toInt)) 0
  scale sum (signed 5 (c.get (lf F.LPD.LPD_RA.GQS r.loop)) - 31)

/-- The last staged OUT to a port is replaced (R139 step 5). -/
def replaceLast (port : Nat) (f : Word → Word) : List Entry → List Entry
  | [] => []
  | .out q v :: rest =>
    if q = port ∧ (lastOut rest port).isNone then .out q (f v) :: rest else .out q v :: replaceLast port f rest
  | e :: rest => e :: replaceLast port f rest

/-- One core's outputs corrected, with SAT and SAT_OUT (R102, R139 step 5). -/
def Chip.raCorrect (c : Chip) (r : RunSt) (vs : List Word) (x : CoreSt) : CoreSt :=
  (List.range (c.nout r.loop)).foldl (fun (x : CoreSt) j =>
    let port := (c.raWord r.loop (12 + j)).toNat % 2 ^ 14
    match lastOut x.list port with
    | none => x
    | some v =>
      let s := sat32 (v.toInt + c.raDelta r vs j)
      let k := portClamp port s.1
      ({ x with list := replaceLast port (fun _ => k.1) x.list }.flagIf s.2 flSat).flagIf k.2 flSatOut) x

/-- WU charged for the check, and for correction and commit (R139). -/
def PairSt.addWu (x : PairSt) (n : Nat) : PairSt := { x with a := { x.a with wu := x.a.wu + n }, b := { x.b with wu := x.b.wu + n } }

/-- The iteration has no room for `n` more WU (R109, R140). -/
def Chip.raOver (c : Chip) (p : Nat) (r : RunSt) (n : Nat) : Bool := decide (c.slotCost p r < (c.pair p).a.wu + n)

/-- A recompute ends in time at the present pace: the present time plus LPD_PASS_COST ÷ P_MEAS does not pass t0 + D (R139
step 6). -/
def Chip.raTime (c : Chip) (p : Nat) (r : RunSt) : Bool :=
  let pm := (c.region (regionOf p)).pMeas
  pm != 0 && decide (c.st * pm + c.passCost r.loop * 16 * Config.us ≤ c.deadlineAt r.loop r.trig * pm)

/-- A squash: the shadow is discarded; the recompute begins, or the iteration ends as a miss (R139 step 6). -/
def Chip.raSquash (c : Chip) (p : Nat) (r : RunSt) (la lb : List Word) : Chip :=
  let c1 := (c.raise (lf F.LPD.LPD_FLAGS.RA_SQUASH r.loop)).inc (lf F.LPD.LPD_RA_CNT.SQUASHES r.loop)
  if c1.raTime p r then
    (c1.restoreFresh r).updPair p fun x =>
      { x with a := { CoreSt.fresh with wu := x.a.wu }, b := { CoreSt.fresh with wu := x.b.wu }
               run := some { r with phase := .plain, recompute := true, latchedA := la, latchedB := lb, cleared := [] } }
  else (c1.abandon p r).countMiss r.loop

/-- ST of the input wait's limit (R139 step 3). -/
def Chip.raLimit (c : Chip) (r : RunSt) : Nat := r.specEnd + Config.ns (100 * c.get (lf F.LPD.LPD_RA.WAIT r.loop))

/-- The limit of the input wait wins: a squash without recompute (R139 step 7). -/
def Chip.raTimeout (c : Chip) (p : Nat) : Chip :=
  match (c.pair p).run with
  | none => c
  | some r =>
    if r.phase ≠ .inputWait then c
    else
      let l := r.loop
      let c1 := ((c.goto (c.raLimit r)).raise (lf F.LPD.LPD_FLAGS.RA_NOINPUT l)).inc (lf F.LPD.LPD_DROP_CNT.NOINPUT l)
      let c2 := (c1.raise (lf F.LPD.LPD_FLAGS.RA_SQUASH l)).inc (lf F.LPD.LPD_RA_CNT.SQUASHES l)
      ((c2.abandon p r).countConsec l).late 4 p r.slot

def execRaInputTimeout (p : Fin 36) (s : State) : Host.Outcome State Fault Refusal := s.nextChip fun c => c.raTimeout p

/-! ### Migration and the comparison page (R165, R184) -/

def execMigrationPrecopyDone (loop : Fin 512) (s : State) : Host.Outcome State Fault Refusal :=
  s.nextChip fun c => c.preCopyDone loop

def execMigrationFinalCopyDone (loop : Fin 512) (s : State) : Host.Outcome State Fault Refusal :=
  s.nextChip fun c => c.finalCopyDone loop

/-- CMP_CFG is one device-wide value (R184, Table 5.6); it stands under instance 0. -/
def Chip.cmpCfg (c : Chip) (v : Word) : Chip :=
  c.wr (R.PAIRCMP.CMP_CFG 0) (clampField (clampField (v &&& 0x00FF1F1F#32) 0 5 0 24) 8 5 0 24)

/-- A write to a register of a PAIRCMP page. -/
def PairCmp.onWrite (w : Acc) (c : Chip) : Chip :=
  if 0x800 ≤ w.off then Lpd.onWrite w c
  else if w.off = 0x40 then c.cmpCfg w.val
  else if w.off = 0x7C then
    let p := w.inst
    c.clearFields w.val [whole (R.PAIRCMP.IND_CNT p), whole (R.PAIRCMP.ADIV_CNT p), whole (R.PAIRCMP.MIG_STALE_CNT p),
      whole (R.PAIRCMP.MISMATCH_CNT p)]
  else c.store w

def execCmpCfgWrite (src : Source) (inst : Fin 36) (v : Word) (s : State) : Host.Outcome State Fault Refusal :=
  let w : Acc := { src := src, addr := R.PAIRCMP.CMP_CFG inst, val := v }
  s.nextGated w (PairCmp.onWrite w)

end Sys2Proof.Machine
end

