-- ==== Sys2Proof/Machine/Bist.lean ====
section
/-! DEFINITION. Self-test: verdicts, rolling tests, test slices, analog and reference checks, march tests and the release
of a retired pair (R160–R163, R169–R178, R185, R186). -/

namespace Sys2Proof.Machine

/-! ### Operating range (R178) -/

/-- A junction temperature, 1/16 °C, lies within the grade's range: −40 to 150 °C, or 125 °C for the industrial grade. -/
def Chip.tempInGrade (c : Chip) (t : Int) : Bool :=
  decide (-640 ≤ t) && decide (t ≤ (if bits (c.rd R.SYS.CAPS) 0 1 = 1 then 2000 else 2400))

/-- A region is in range (R178): its voltage lies within 20 mV of its target and has not been seen off it for 1 ms. -/
def Chip.regionInRange (c : Chip) (g : Nat) : Bool :=
  let x := c.region g
  x.voltNear && (match x.voltOut with | some t => decide (t + Config.ms ≤ c.st) | none => true) && !x.capped
    && c.tempInGrade x.temp && !c.refLost

/-! ### Verdicts (R161, R162, R178) -/

/-- The pair is retired: recorded in NV memory and no longer used (R161, R162). -/
def Chip.retire (c : Chip) (p : Nat) : Chip :=
  let c1 := { c.endReserve p with retiredNv := if c.retiredNv.contains p then c.retiredNv else c.retiredNv ++ [p] }
  (((c1.raise (F.CLE.PAIR_INFO.RETIRED p)).set (F.PAIRCMP.STATUS.STATE p) psRetired).showPair p).tokenWrite.mended 0 p

/-- The pair becomes a reserve (R161). -/
def Chip.toReserve (c : Chip) (p : Nat) : Chip :=
  ((c.raise (F.CLE.PAIR_INFO.RESERVE p)).set (F.PAIRCMP.STATUS.STATE p) psReserve).showPair p

/-- A test result is recorded (R160 step 6, Table 5.7). -/
def Chip.testResult (c : Chip) (p : Nat) (failA failB cond : Bool) (transients : Nat) : Chip :=
  ((c.wr (R.PAIRCMP.TEST_RESULT p)
    (wd (failA.toNat + failB.toNat * 2 + cond.toNat * 4 + 8 + (c.pair p).cause * 16 + min transients 255 * 256))).raise
    (F.PAIRCMP.STICKY.TEST_DONE p)).raiseIf (failA || failB) (F.PAIRCMP.STICKY.TEST_FAIL p)

/-- Transient verdicts of the last 10 min. -/
def recent (now : Nat) (l : List Nat) : List Nat := l.filter fun t => now < t + 600 * Config.sec

/-- The rolling test of a pair is over. -/
def Chip.rollingOver (c : Chip) (p : Nat) : Chip := if c.rolling = some p then { c with rolling := none } else c

/-- A march failure of a pair's memories in its test (R177): MARCH_FAIL, and in MARCH_FAIL_INFO the word, the memory and the pair;
only a failing core has one. -/
def Chip.marchOfPair (c : Chip) (p : Nat) (fail : Bool) : Option (Bool × BitVec 14) → Chip
  | some (prog, w) =>
    if fail then
      ((c.raise (hSticky R.BIST.ID 4)).wr R.BIST.MARCH_FAIL_INFO (wd (w.toNat + (if prog then 2 else 1) * 2 ^ 20 + p * 2 ^ 23))).report 5 0
    else c
  | none => c

/-- The non-retired pairs and the ST of their last in-range pass. -/
def Chip.livePairs (c : Chip) : List Nat := (List.range 36).filter fun p => !c.on (F.CLE.PAIR_INFO.RETIRED p)

/-- Some non-retired pair has had no in-range pass for more than 60 s (R172). -/
def Chip.rollLate (c : Chip) : Bool :=
  c.livePairs.any fun p => match (c.pair p).lastPass with
    | none => true
    | some t => decide (t + (60 * Config.sec : Nat) < (c.st : Int))

/-- An in-range pass of a pair clears what Table 12.2 says it clears: the pair's SUSPECT, a PACE_FAULT of its region, and ROLL_LATE
once its condition has ended. -/
def Chip.passedInRange (c : Chip) (p : Nat) : Chip :=
  let c1 := (c.mended 0 p).mended 8 (regionOf p)
  if c1.rollLate then c1 else c1.mended 3 0

/-- A verdict is applied (R161, R177, R178). -/
def Chip.verdict (c0 : Chip) (p : Nat) (failA failB : Bool) (march : Option (Bool × BitVec 14)) : Chip :=
  let c := c0.marchOfPair p (failA || failB) march
  let x := c.pair p
  let old := recent c.st x.transients
  let fail := failA || failB
  if !c.regionInRange (regionOf p) then
    let c1 := c.testResult p failA failB true old.length
    if fail then ((c1.raise (hSticky R.BIST.ID 7)).endReserve p).set (F.PAIRCMP.STATUS.STATE p) psTest else c1
  else if fail then ((c.testResult p failA failB false old.length).rollingOver p).retire p
  else if x.cause = cauMismatch ∨ x.cause = cauLatent then
    let now := old ++ [c.st]
    let c1 := (((c.testResult p false false false now.length).raise (F.PAIRCMP.STICKY.TRANSIENT p)).updPair p
      fun x => { x with transients := now, lastPass := some (c.st : Int) }).passedInRange p
    if old.isEmpty then c1.toReserve p else c1.retire p
  else
    (((c.testResult p false false false old.length).rollingOver p).updPair p
      fun x => { x with transients := old, lastPass := some (c.st : Int) }).passedInRange p |>.toReserve p

def execSelfTestDone (p : Fin 36) (fails : Bool × Bool) (march : Option (Bool × BitVec 14)) (s : State) :
    Host.Outcome State Fault Refusal :=
  s.nextChip fun c => if c.get (F.PAIRCMP.STATUS.STATE p) = psTest then c.verdict p fails.1 fails.2 march else c

/-! ### Host and rolling tests (R171, R172, Table 5.5) -/

/-- TEST_REQ: the pair is evacuated and tested with CAUSE host; refused when it is retired or its sequence runs. -/
def Chip.testReq (c : Chip) (w : Acc) : Chip :=
  let ps := c.get (F.PAIRCMP.STATUS.STATE w.inst)
  if ps = psIdle ∨ ps = psComparing ∨ ps = psReserve then c.beginEvac w.inst cauHost else c.reject w rState false

/-- CTRL as a command bit is written to it: the bits that store a value stay as they are. -/
def Chip.ctrlWith (c : Chip) (page bit : Nat) : Word := c.rd (page + 8) ||| wd (2 ^ bit)

def execTestRequest (src : Source) (p : Fin 36) (s : State) : Host.Outcome State Fault Refusal :=
  let w : Acc := { src := src, addr := R.PAIRCMP.CTRL p, val := s.chip.ctrlWith (R.PAIRCMP.ID p) 8 }
  s.nextGated w fun c => c.testReq w

/-- A pair's pass is older than another's: none since the start is oldest. -/
def older (a b : Option Int) : Bool :=
  match a, b with
  | none, some _ => true
  | some x, some y => x < y
  | _, none => false

/-- The pair of a list whose last in-range pass is oldest, the lowest number first. -/
def Chip.oldest (c : Chip) (l : List Nat) : Option Nat :=
  l.foldl (fun m p => match m with
    | none => some p
    | some q => if older (c.pair p).lastPass (c.pair q).lastPass then some p else some q) none

/-- A pair is the destination of a migration in progress. -/
def Chip.isDest (c : Chip) (p : Nat) : Bool :=
  c.admitted.any fun l => match (c.loop l).mig with | some (d, _) => d == p | none => false

/-- The pair a rolling test would take (R165, R171): among non-retired pairs in service that are no destination. -/
def Chip.nextRolling (c : Chip) : Option Nat :=
  c.oldest (c.livePairs.filter fun p =>
    let ps := c.get (F.PAIRCMP.STATUS.STATE p)
    (ps == psIdle || ps == psComparing || ps == psReserve) && !c.isDest p)

/-- A rolling test starts (R171); out of range no evacuation starts (R178). -/
def Chip.startRolling (c : Chip) : Chip :=
  if !c.on (bitOf R.BIST.CTRL 8) || c.rolling.isSome || c.phase != .ready then c
  else match c.nextRolling with
    | none => c
    | some p =>
      let out := !c.regionInRange (regionOf p)
      let c1 := c.raiseIf out (hSticky R.BIST.ID 3)
      if out && !(c.loopsOn p).isEmpty then c1
      else { c1.set F.BIST.ROLL_STATUS.CUR_PAIR p with rolling := some p }.beginEvac p cauRolling

def execRollingTestStart (s : State) : Host.Outcome State Fault Refusal := s.nextChip Chip.startRolling

def execRollLateDetect (s : State) : Host.Outcome State Fault Refusal :=
  s.nextChip fun c => if c.rollLate then (c.raise (hSticky R.BIST.ID 1)).report 3 0 else c

/-- A slice of a test that runs out of range, at least 200 µs after the one before (R178). -/
def Chip.testSlice (c : Chip) (p : Nat) : Chip :=
  let x := c.pair p
  let spaced := match x.lastSlice with | none => true | some t => decide (t + 200 * Config.us ≤ c.st)
  if c.get (F.PAIRCMP.STATUS.STATE p) = psTest && !c.regionInRange (regionOf p) && spaced then
    (c.updPair p fun x => { x with lastSlice := some c.st }).raise (hSticky R.BIST.ID 3)
  else c

def execTestSlice (p : Fin 36) (s : State) : Host.Outcome State Fault Refusal := s.nextChip fun c => c.testSlice p

/-! ### Analog and reference checks (R173, R174) -/

/-- What every ADC admission asks whatever its entry: service, EN, the reference, and an entry that is free (R24, R196, R475). -/
def Chip.adcOpen (c : Chip) (a : Nat) : Bool :=
  c.phase == .ready && c.on (F.ADC.CTRL.EN a) && !c.refLost && c.rd (R.ADC.ADMITTED a) != 0xFFFFFFFF#32

/-- Number of a test as ANA_CFG orders it, its instance, whether it can run, and whether it passes (Table 5.2). Whether R195 admits
the device's own queue entries depends on their parameters, which the spec does not give: `admitted` says it (log 61). -/
def Chip.analogVerdict (c : Chip) : AnalogRun → Nat × Nat × Bool × Bool
  | .dacAdc adc admitted r1 r2 r3 =>
    let near (r : BitVec 16) (code : Nat) : Bool := decide (r.toNat ≤ 16 * code + 64) && decide (16 * code ≤ r.toNat + 64)
    (0, adc, admitted && c.adcOpen adc, near r1 0x400 && near r2 0x800 && near r3 0xC00)
  | .cmpSweep k trip level =>
    (1, k, !(c.on (hEn (R.CMPG.ID (k / 8))) && c.on (F.CMPG.CCFG.CEN (k / 8) (k % 8))), decide (trip.toNat ≤ level.toNat + 4) && decide (level.toNat ≤ trip.toNat + 4))
  | .drvSense d pass => (2, d, true, pass)
  | .glLoop k pass => (3, k, true, pass)

/-- An analog test (R173): a failure is flagged, recorded and reported; a passing repeat of the failed test clears its bit. -/
def Chip.analogTest (c : Chip) (run : AnalogRun) : Chip :=
  let v := c.analogVerdict run
  let bit := bitOf R.BIST.ANA_STATUS v.1
  if !c.on (bitOf R.BIST.CTRL 10) || !c.on (bitOf R.BIST.ANA_CFG v.1) || !v.2.2.1 then c
  else if v.2.2.2 then
    ((if c.get ⟨R.BIST.ANA_STATUS, 8, 8⟩ = v.2.1 then c.clr bit else c).mended 6 (v.1 * 256 + v.2.1))
  else c.analogFail v.1 v.2.1

def execAnalogTest (run : AnalogRun) (s : State) : Host.Outcome State Fault Refusal := s.nextChip fun c => c.analogTest run

/-- The bandgap check of every millisecond: the difference in 0.01 % units against 0.5 % (R174). -/
def Chip.bandgap (c : Chip) (diff : BitVec 16) : Chip :=
  let good := decide (diff.toInt ≤ 50) && decide (-50 ≤ diff.toInt)
  let c1 := { c.wr R.BIST.REF_CHK (wd (diff.toNat + good.toNat * 2 ^ 16)) with refGood := if good then c.refGood + 1 else 0 }
  if good then c1 else (c1.raise (hSticky R.BIST.ID 6)).report 4 0

def execBandgapCheck (diff : BitVec 16) (s : State) : Host.Outcome State Fault Refusal := s.nextChip fun c => c.bandgap diff

/-! ### March tests (R175–R177) -/

/-- The words of a slice as a table by offset. -/
def Chip.sliceWords (c : Chip) (k : Nat) : Tab Word :=
  (c.shm.filter fun e => e.1 / 1024 == k).map fun e => (e.1 % 1024, e.2)

/-- A slice is saved, with the ECC of every word checked, and its test starts; marching stops once a slice has failed (R175, R177).
A word with a single-bit error is saved corrected; one with a double-bit error reads 0 and is reported (R99, log 61). Which words
show one is a free value. -/
def Chip.marchStart (c : Chip) : Chip :=
  if !c.on (bitOf R.BIST.CTRL 9) || c.marchSlice.isSome || c.marchStand.isSome then c
  else
    let k := c.get F.BIST.MARCH_STATUS.NEXT_SLICE
    let d := c.draw
    let dbl := Config.eccDouble d.1
    let saved := dbl.foldl (fun (t : Tab Word) w => Tab.set t 0 w.toNat 0) (c.sliceWords k)
    let c1 : Chip := { d.2 with marchSlice := some k, marchBuf := saved }
    if dbl.isEmpty then c1 else c1.report 2 k

def execMarchSliceStart (s : State) : Host.Outcome State Fault Refusal := s.nextChip Chip.marchStart

/-- The saved words are written back (R175 step 3). -/
def Chip.writeBack (c : Chip) (k : Nat) : Chip :=
  let kept := Tab.drop (fun w => w / 1024 == k) c.shm
  { c with marchSlice := none, marchBuf := [], shm := c.marchBuf.foldl (fun t e => Tab.set t 0 (1024 * k + e.1) e.2) kept }

/-- The end of a slice: with a bad word the save buffer stands in for it and marching stops (R175, R177). -/
def Chip.marchDone (c : Chip) (bad : Option (BitVec 10)) : Chip :=
  match c.marchSlice with
  | none => c
  | some k =>
    match bad with
    | some o =>
      ((({ c with marchSlice := none, marchStand := some k }.raise (hSticky R.BIST.ID 4)).wr R.BIST.MARCH_FAIL_INFO
        (wd (1024 * k + o.toNat))).report 5 0)
    | none =>
      let c1 := (c.writeBack k).set F.BIST.MARCH_STATUS.NEXT_SLICE ((k + 1) % 1024) |>.mended 2 k
      if k = 1023 then c1.inc F.BIST.MARCH_STATUS.PASSES else c1

def execMarchSliceDone (bad : Option (BitVec 10)) (s : State) : Host.Outcome State Fault Refusal :=
  s.nextChip fun c => c.marchDone bad

/-! ### The BIST page (R185, R186) -/

/-- A release of a retired pair (R186): only in the safe state; it takes effect at the next cold start (R162). -/
def Chip.retireClear (c : Chip) (w : Acc) : Chip :=
  let p := bits w.val 0 6
  if bits w.val 6 1 = 0 then c
  else if 36 ≤ p then c.reject w rParam false
  else if c.on (hState R.ISN.ID) then c.reject w rSafety false
  else if c.retiredNv.contains p then
    ({ c with retiredNv := c.retiredNv.filter fun q => q != p, released := p :: c.released }.recordOpen 20 2).tokenWrite
  else c

/-- A write to a register of the BIST page: ROLL_CFG, RETIRE_CLR, MARCH_CFG and ANA_CFG clamp or act. -/
def Bist.onWrite (w : Acc) (c : Chip) : Chip :=
  if w.off = 0x40 then c.storeAt w.addr (clampField w.val 0 16 100 1666)
  else if w.off = 0x5C then c.retireClear w
  else if w.off = 0x60 then c.storeAt w.addr (clampField w.val 0 16 100 65535)
  else if w.off = 0x6C then c.storeAt w.addr (clampField w.val 8 8 1 255)
  else c.store w

def execRetireClear (src : Source) (pair : BitVec 6) (s : State) : Host.Outcome State Fault Refusal :=
  let w : Acc := { src := src, addr := R.BIST.RETIRE_CLR, val := wd (pair.toNat + 64) }
  s.nextGated w (Bist.onWrite w)

end Sys2Proof.Machine
end

