-- ==== Sys2Proof/Machine/Convert.lean ====
section
/-! DEFINITION. The ADCs: admission of queue entries, triggers, the converter and its results (R187–R200, R218). -/

namespace Sys2Proof.Machine

def Chip.adc (c : Chip) (a : Nat) : AdcSt := Tab.at c.adcs {} a
def Chip.updAdc (c : Chip) (a : Nat) (f : AdcSt → AdcSt) : Chip := { c with adcs := Tab.upd c.adcs {} a f }
def AdcSt.entry (x : AdcSt) (e : Nat) : AdcEntry := Tab.at x.entries {} e
def AdcSt.updEntry (x : AdcSt) (e : Nat) (f : AdcEntry → AdcEntry) : AdcSt :=
  { x with entries := Tab.upd x.entries {} e f }

/-! ### Costs and the test (R195, R196) -/

/-- C_e of an entry, ns (R195). -/
def Chip.adcCost (c : Chip) (a e : Nat) : Nat :=
  300 + 2 ^ c.get (F.ADC.ECONV.AVG_K a e) * (c.get (F.ADC.ECONV.SW a e) * 10 + 150)

def Chip.eper (c : Chip) (a e : Nat) : Nat := (c.rd (R.ADC.EPER a e)).toNat
def Chip.edl (c : Chip) (a e : Nat) : Nat := (c.rd (R.ADC.EDL a e)).toNat
def Chip.urgent (c : Chip) (a e : Nat) : Bool := c.on (F.ADC.ECONV.URGENT a e)

/-- The admitted entries of an ADC. -/
def Chip.adcEntries (c : Chip) (a : Nat) : List Nat := (List.range 32).filter fun e => c.on (bitOf (R.ADC.ADMITTED a) e)

/-- R_i of an entry in a set of entries, ns (R195). -/
def Chip.adcBound (c : Chip) (a : Nat) (set : List Nat) (i : Nat) : Nat :=
  let block := (set.filter fun h => h != i && (decide (i < h) || c.urgent a h)).foldl (fun m h => max m (c.adcCost a h)) 0
  let above := (set.filter fun h => decide (h < i) && !c.urgent a h).foldl
    (fun n h => n + hits (c.edl a i) (c.eper a h) * c.adcCost a h) 0
  c.get (F.ADC.ETRIG.TDLY a i) * 10 + 25 + block + above + c.adcCost a i

/-- Condition 1 of R195 for an entry. -/
def Chip.adcMeets (c : Chip) (a : Nat) (set : List Nat) (i : Nat) : Bool :=
  c.urgent a i || decide (c.adcBound a set i ≤ c.edl a i)

/-- Condition 2 of R195. -/
def Chip.adcFits (c : Chip) (a : Nat) (set : List Nat) : Bool :=
  (Fr.sum ((set.filter fun h => !c.urgent a h).map fun h =>
    if c.eper a h = 0 then ⟨0, 1⟩ else ⟨c.adcCost a h, c.eper a h⟩)).le ⟨1, 1⟩

/-- CH and DIFF name an input (R187). -/
def channelOk (ch : Nat) (diff : Bool) : Bool :=
  if diff then ch < 8 && ch % 2 == 0 else ch < 8 || (16 ≤ ch && ch ≤ 39)

/-- TSRC, TINST and TEVT name a source for an entry (Table 6.2). -/
def adcSourceOk (e src inst evt : Nat) : Bool :=
  match src with
  | 1 => inst < 40 && evt < 6
  | 2 => inst < 6
  | 4 => evt == 0
  | 0 => false
  | 6 => inst < 32 && inst != e && evt == 0
  | 7 => inst < 12 && evt < 8
  | _ => inst == 0 && evt == 0

/-- The checks before R195 (R196). -/
def Chip.adcParamsOk (c : Chip) (a e : Nat) : Bool :=
  let sw := c.get (F.ADC.ECONV.SW a e)
  channelOk (c.get (F.ADC.ECONV.CH a e)) (c.on (F.ADC.ECONV.DIFF a e))
    && 5 ≤ sw && sw ≤ 1000 && c.get (F.ADC.ECONV.AVG_K a e) ≤ 8 && c.get (F.ADC.ECONV.SHIFT a e) ≤ 8
    && 200 ≤ c.eper a e && c.eper a e ≤ 1000000000
    && (c.urgent a e || (100 ≤ c.edl a e && c.edl a e ≤ c.eper a e))
    && c.get (F.ADC.ETRIG.TDLY a e) * 10 ≤ c.edl a e
    && adcSourceOk e (c.get (F.ADC.ETRIG.TSRC a e)) (c.get (F.ADC.ETRIG.TINST a e)) (c.get (F.ADC.ETRIG.TEVT a e))

/-- The reason of a request, 0 when it is accepted (R195, R196). -/
def Chip.adcTest (c : Chip) (a e : Nat) : Nat :=
  let old := c.adcEntries a
  let set := old ++ [e]
  if c.phase ≠ .ready then rState
  else if !c.adcParamsOk a e then rParam
  else if old.contains e then rNoSlot
  else if !c.adcMeets a set e then rOverDeadline
  else if !(old.all fun i => c.adcMeets a set i) then rBlocksCommitted
  else if !c.adcFits a set then rOverUtil
  else 0

/-- The answer to an admission command (R196): DONE, ACCEPT, entry, reason and bound in 10 ns. -/
def Chip.adcAnswer (c : Chip) (a e reason bound : Nat) : Chip :=
  let b := min ((bound + 9) / 10) 0xFFFF
  let c1 := c.wr (R.ADC.ADM_RESULT a) (wd (1 + (if reason = 0 then 2 else 0) + e * 4 + reason * 2 ^ 8 + b * 2 ^ 16))
  if reason = 0 then c1
  else ((c1.raise (F.ADC.STICKY.REFUSED a)).lastRefuse 6 a reason).inc (whole R.LEASH.REFUSE_CNT)

/-- R_e as it is reported: an urgent entry has no bound (R197). -/
def Chip.adcReported (c : Chip) (a e : Nat) : Nat :=
  let old := c.adcEntries a
  if c.urgent a e then 0 else c.adcBound a (if old.contains e then old else old ++ [e]) e

/-- The entry is admitted. -/
def Chip.adcAdmit (c : Chip) (a e : Nat) : Chip :=
  (c.raise (bitOf (R.ADC.ADMITTED a) e)).updAdc a fun x => x.updEntry e fun _ => {}

/-- The entry leaves: it is neither pending nor converting (R196). -/
def Chip.adcLeave (c : Chip) (a e : Nat) : Chip :=
  (c.clr (bitOf (R.ADC.ADMITTED a) e)).updAdc a fun x => x.updEntry e fun _ => {}

/-- The entry is pending or converting. -/
def AdcSt.busy (x : AdcSt) (e : Nat) : Bool :=
  (x.entry e).pend.isSome || (match x.run with | some r => r.entry == e | none => false)

/-- A waiting withdrawal takes effect (R196). -/
def Chip.adcWithdrawn (c : Chip) (a e : Nat) : Chip :=
  let x := c.adc a
  if (x.entry e).withdraw && !x.busy e then c.adcLeave a e else c

/-- The decision on the latched command (R196). -/
def Chip.adcDecide (c : Chip) (a : Nat) : Chip :=
  match (c.adc a).adm with
  | none => c
  | some (op, e) =>
    let c1 := c.updAdc a fun x => { x with adm := none }
    let b := c1.adcReported a e
    if op = 2 then
      let c2 := if c1.on (bitOf (R.ADC.ADMITTED a) e) then c1.updAdc a fun x => x.updEntry e fun y => { y with withdraw := true } else c1
      (c2.adcWithdrawn a e).adcAnswer a e 0 b
    else if op = 0 then c1.adcAnswer a e rParam b
    else
      let r := c1.adcTest a e
      (if r = 0 ∧ op = 1 then c1.adcAdmit a e else c1).adcAnswer a e r b

/-! ### Triggers (R192, R193, R197) -/

/-- Ticks from one instant to another are fewer than `n` ns. -/
def closer (a b n : Nat) : Bool := 5 * (b - a) < 128 * n

/-- A conversion starts at t1, with or without the start-up delay (R188, R189). -/
def Chip.adcStart (c : Chip) (a e event t1 : Nat) : Chip :=
  let x := c.adc a
  let delay := !c.on (F.ADC.CTRL.AWAKE a) && (x.cold || decide (x.freeAt + Config.us < t1))
  let hold := t1 + (if delay then 300 * 128 / 5 else 0) + c.get (F.ADC.ECONV.SW a e) * 256
  (c.updAdc a fun y => { (y.updEntry e fun z => { z with pend := none }) with
    run := some { entry := e, event := event, start := t1, hold := hold, startup := delay, corr := Tab.at c.refCorr 0 (a / 3) }, cold := false }).clr
    (bitOf (R.ADC.PENDING a) e)

/-- A trigger of an entry whose event has timestamp `ev`, as it arrives at t0 (R188, R193, R197). -/
def Chip.adcTrigger (c : Chip) (a e ev : Nat) : Chip :=
  let t0 := ev + c.get (F.ADC.ETRIG.TDLY a e) * 256
  let c1 := c.goto t0
  let x := c1.adc a
  let early := match (x.entry e).last with | some t => decide (ev < t) || closer t ev (c1.eper a e) | none => false
  if !c1.on (F.ADC.CTRL.EN a) || !c1.on (bitOf (R.ADC.ADMITTED a) e) then c1
  else if early || x.busy e then (c1.raise (F.ADC.STICKY.TRIG_EARLY a)).inc (whole (R.ADC.EARLY_CNT a))
  else
    let c2 := c1.updAdc a fun y => y.updEntry e fun z => { z with last := some ev }
    if c1.urgent a e then
      if x.run.isSome then (c1.raise (F.ADC.STICKY.URG_DROP a)).inc (whole (R.ADC.URG_DROP_CNT a))
      else c2.adcStart a e ev (t0 + 640)
    else (c2.updAdc a fun y => y.updEntry e fun z => { z with pend := some (ev, t0) }).raise (bitOf (R.ADC.PENDING a) e)

/-- A trigger at an instant is one of an entry's source: a time of an ST-periodic one, else the last event of the source,
whose timestamp it carries (Table 6.2, log 14). Host triggers come through HOST_TRIG. -/
def Chip.adcSourceFires (c : Chip) (a e at_ : Nat) : Bool :=
  let i := c.get (F.ADC.ETRIG.TINST a e)
  let k := c.get (F.ADC.ETRIG.TEVT a e)
  match c.get (F.ADC.ETRIG.TSRC a e) with
  | 1 => c.eventAt evPg i k at_
  | 2 => c.eventAt evPfu i k at_
  | 3 => onGrid (c.eper a e) 0 at_
  | 4 => c.eventAt evMbx i 0 at_
  | 6 => c.eventAt evAdc a i at_
  | 7 => c.eventAt evCmp i k at_
  | _ => false

def execAdcTrigger (adc : Fin 24) (e : Fin 32) (at_ : Nat) (s : State) : Host.Outcome State Fault Refusal :=
  s.nextChip fun c => if c.adcSourceFires adc e at_ then c.adcTrigger adc e at_ else c

/-! ### The converter (R188, R189, R194) -/

/-- The waiting entry the converter takes and the instant it starts: free, and 25 ns past t0; of the entries that wait
then, the lowest (R188, R194). -/
def Chip.adcNext (c : Chip) (a : Nat) : Option (Nat × Nat × Nat) :=
  let x := c.adc a
  let ps := (List.range 32).filterMap fun e => (x.entry e).pend.map fun p => (e, p.1, p.2 + 640)
  match ps with
  | [] => none
  | p :: rest =>
    let t := max x.freeAt (rest.foldl (fun m q => min m q.2.2) p.2.2)
    (ps.find? fun q => q.2.2 ≤ t).map fun q => (q.1, q.2.1, t)

def Chip.adcConvert (c : Chip) (a : Nat) : Chip :=
  if (c.adc a).run.isSome then c
  else match c.adcNext a with
    | none => c
    | some (e, ev, t) => (c.goto t).adcStart a e ev t

def execAdcConversionStart (adc : Fin 24) (s : State) : Host.Outcome State Fault Refusal :=
  s.nextChip fun c => c.adcConvert adc

/-- One microsecond of idle time has passed (R189). -/
def Chip.adcPowerdown (c : Chip) (a : Nat) : Chip :=
  if (c.adc a).run.isSome || c.on (F.ADC.CTRL.AWAKE a) then c
  else (c.goto ((c.adc a).freeAt + Config.us)).updAdc a fun x => { x with cold := true }

def execAdcIdlePowerdown (adc : Fin 24) (s : State) : Host.Outcome State Fault Refusal :=
  s.nextChip fun c => c.adcPowerdown adc

/-! ### Results (R190, R191, R198) -/

/-- A sample as a code of the range, and whether it was clipped (R190). -/
def clipSample (diff : Bool) (v : Int) : Int × Bool := if diff then clampInt (-32768) 32767 v else clampInt 0 65535 v

/-- A result from the sum of the codes (R190). -/
def adcResult (shift : Nat) (sum : Int) : Int := if shift = 0 then sum else (sum + (2 ^ (shift - 1) : Nat)) / (2 ^ shift : Nat)

/-- A late result is counted; Isaenaim is informed of each protected loop that reads the entry (R198, Table 12.2). -/
def Chip.resLate (c : Chip) (a e : Nat) : Chip :=
  let c1 := (c.raise (F.ADC.STICKY.RES_LATE a)).inc (whole (R.ADC.LATE_CNT a))
  (c1.admitted.filter fun l => c1.protectedLoop l && (c1.loop l).ports.any fun p => p.1 == 32 * a + e && p.2.1).foldl
    (fun (c : Chip) l => c.report 16 l) c1

/-- The result of the running conversion is written; the entry and the device after it (R188, R190, R191). -/
def Chip.adcWrite (c : Chip) (a : Nat) (samples : List Int) (at_ : Nat) : Option (Nat × Chip) :=
  match (c.adc a).run with
  | none => none
  | some r =>
    let e := r.entry
    let c1 := c.goto (max at_ r.hold)
    let diff := c1.on (F.ADC.ECONV.DIFF a e)
    let n := 2 ^ c1.get (F.ADC.ECONV.AVG_K a e)
    let xs := (samples.take n).map (clipSample diff)
    let v := adcResult (c1.get (F.ADC.ECONV.SHIFT a e)) (xs.foldl (fun s x => s + x.1) 0)
    let clip := xs.any fun x => x.2
    let tag := (bits (c1.rd (R.ADC.RES a e)) 24 8 + 1) % 256
    let c2 := ((c1.wr (R.ADC.RES a e) (putBits (wd (tag * 2 ^ 24)) 0 24 (iw v).toNat)).wr (R.ADC.TS a e) (wd r.hold)).inc
      (whole (R.ADC.CONV_CNT a))
    let c3 := (c2.raiseIf clip (F.ADC.STICKY.CLIP a)).raiseIf clip (bitOf (R.ADC.CLIP_MAP a) e)
    let late := !c3.urgent a e && !closer r.event c3.st (c3.edl a e) && 5 * (c3.st - r.event) != 128 * c3.edl a e
    let c4 := if late then c3.resLate a e else c3
    some (e, ((c4.updAdc a fun x => { x with run := none, freeAt := c4.st }).event evAdc a e c4.st).portWritten (32 * a + e))

/-! ### The ADC page (R196, R199, R218) -/

/-- A host trigger of every selected entry whose TSRC is 5h, with the ST of the write (Table 6.2). -/
def Chip.adcHostTrig (c : Chip) (a : Nat) (v : Word) : Chip :=
  let t := c.st
  upto 32 (fun c e => if v.getLsbD e && c.get (F.ADC.ETRIG.TSRC a e) == 5 then c.adcTrigger a e t else c) c

/-- A write to a register of an ADC page. -/
def Adc.onWrite (w : Acc) (c : Chip) : Chip :=
  let a := w.inst
  if w.off = 0x40 then
    if (c.adc a).adm.isSome then c.reject w rState false
    else (c.updAdc a fun x => { x with adm := some (bits w.val 8 2, bits w.val 0 5) }).wr (R.ADC.ADM_RESULT a) 0
  else if w.off = 0x5C then c.clearFields w.val
    [whole (R.ADC.URG_DROP_CNT a), whole (R.ADC.EARLY_CNT a), whole (R.ADC.LATE_CNT a), whole (R.ADC.CONV_CNT a)]
  else if w.off = 0x60 then c.adcHostTrig a w.val
  else if 0x200 ≤ w.off ∧ w.off < 0x400 then
    if c.on (bitOf (R.ADC.ADMITTED a) ((w.off - 0x200) / 16)) then c.reject w rState true else c.store w
  else c.store w

/-- An admission command of an ADC. -/
def State.adcCmd (s : State) (src : Source) (a op e : Nat) : State :=
  let w : Acc := { src := src, addr := R.ADC.ADM_CMD a, val := wd (e + op * 2 ^ 8) }
  s.gated w (Adc.onWrite w)

def execAdcAdmit (src : Source) (adc : Fin 24) (e : Fin 32) (s : State) : Host.Outcome State Fault Refusal :=
  .next (s.adcCmd src adc 1 e)

def execAdcWithdraw (src : Source) (adc : Fin 24) (e : Fin 32) (s : State) : Host.Outcome State Fault Refusal :=
  .next (s.adcCmd src adc 2 e)

def execAdcTestOnly (src : Source) (adc : Fin 24) (e : Fin 32) (s : State) : Host.Outcome State Fault Refusal :=
  .next (s.adcCmd src adc 3 e)

def execAdcInvalidOp (src : Source) (adc : Fin 24) (e : Fin 32) (s : State) : Host.Outcome State Fault Refusal :=
  .next (s.adcCmd src adc 0 e)

def execAdcHostTrigger (src : Source) (adc : Fin 24) (v : Word) (s : State) : Host.Outcome State Fault Refusal :=
  let w : Acc := { src := src, addr := R.ADC.HOST_TRIG adc, val := v }
  s.nextGated w (Adc.onWrite w)

/-- A write of 0 to EN of an ADC with an entry admitted is refused (R199). -/
def Adc.ctrlRefused (a : Nat) (v : Word) (c : Chip) : Bool := bits v 0 1 == 0 && c.rd (R.ADC.ADMITTED a) != 0

end Sys2Proof.Machine
end

