-- ==== Sys2Proof/Machine/Compare.lean ====
section
/-! DEFINITION. The comparators: first decisions, live outputs, blanking, latches and windows (R202–R213, R219). -/

namespace Sys2Proof.Machine

def Chip.cmp (c : Chip) (g i : Nat) : CmpSt := Tab.at c.cmps {} (8 * g + i)
def Chip.updCmp (c : Chip) (g i : Nat) (f : CmpSt → CmpSt) : Chip := { c with cmps := Tab.upd c.cmps {} (8 * g + i) f }

abbrev fLatched (g i : Nat) : Fld := bitOf (R.CMPG.CMP_STAT g) i
abbrev fLive (g i : Nat) : Fld := bitOf (R.CMPG.CMP_STAT g) (8 + i)
abbrev fBlanked (g i : Nat) : Fld := bitOf (R.CMPG.CMP_STAT g) (16 + i)
abbrev fSettling (g i : Nat) : Fld := bitOf (R.CMPG.CMP_STAT g) (24 + i)

/-- Both enables of a comparator are set (R205). -/
def Chip.cmpOn (c : Chip) (g i : Nat) : Bool := c.on (F.CMPG.CTRL.EN g) && c.on (F.CMPG.CCFG.CEN g i)

/-- A comparator decides: it is enabled and has made its first decision. -/
def Chip.cmpReady (c : Chip) (g i : Nat) : Bool := c.cmpOn g i && (c.cmp g i).hysOn

/-- The window that holds a comparator is enabled (R212). -/
def Chip.winOn (c : Chip) (g i : Nat) : Bool := c.on (bitOf (R.CMPG.WCFG g) (i / 2 * 2))

/-- The live output of a comparator, after window combination (R203, R212); inactive until each decision it takes has been
made (log 22). -/
def Chip.liveOf (c : Chip) (g i : Nat) : Bool :=
  if !c.cmpReady g i then false
  else if c.winOn g i then
    if i % 2 = 1 then !(c.cmp g i).high
    else
      let low := c.cmpReady g (i + 1) && !(c.cmp g (i + 1)).high
      let outside := (c.cmp g i).high || low
      !c.on (fSettling g (i + 1)) && (if c.on (bitOf (R.CMPG.WCFG g) (i + 1)) then !outside else outside)
  else (c.cmp g i).high != c.on (F.CMPG.CCFG.POL g i)

/-! ### Levels and thresholds (R202, R203) -/

/-- The input of a comparator: INSEL, for the upper one of an enabled window that of the lower (R202, R212). -/
def Chip.cmpInput (c : Chip) (g i : Nat) : Nat := c.get (F.CMPG.CCFG.INSEL g (if c.winOn g i then i / 2 * 2 else i))

/-- TH in nV: 1.5625 mV for each step of CTH (R203). -/
def Chip.cmpTh (c : Chip) (g i : Nat) : Nat := bits (c.rd (R.CMPG.CTH g i)) 0 10 * 1562500

/-- HYS ÷ 2 in nV (Table 6.11). -/
def Chip.cmpHalf (c : Chip) (g i : Nat) : Nat :=
  (match c.get (F.CMPG.CCFG.HYS g i) with | 0 => 0 | 1 => 2 | 2 => 4 | 3 => 8 | 4 => 16 | 5 => 32 | 6 => 48 | _ => 64) * 500000

/-- What a comparator sees: the code of a general DAC on inputs 96–103, of 1.6 V ÷ 4096 a step, else its external level. -/
def Chip.cmpLevel (c : Chip) (g i : Nat) : Nat :=
  let n := c.cmpInput g i
  if 96 ≤ n ∧ n < 104 then c.get ⟨R.DAC.DCODE (n - 96), 0, 12⟩ * 390625 else (c.cmp g i).level

/-- The decision of a comparator with its hysteresis on: above the band, below it, or as before within it (R203). -/
def Chip.cmpDecide (c : Chip) (g i : Nat) : Chip :=
  let v := c.cmpLevel g i
  let th := c.cmpTh g i
  let h := c.cmpHalf g i
  c.updCmp g i fun x => { x with high := if th + h < v then true else if v + h < th then false else x.high }

/-- The latch of a comparator sets, which is an event of its own (R210, Table 6.2). -/
def Chip.latchSet (c : Chip) (g i : Nat) : Chip :=
  if c.on (fLatched g i) then c
  else (((c.raise (fLatched g i)).raise (F.CMPG.STICKY.LATCHED g)).inc ⟨R.CMPG.LATCH_CNT g i, 0, 16⟩).event evCmp g i c.st

/-- The live output of a comparator follows its decision; active outside a blanking window it sets the latch (R210). -/
def Chip.liveStep (c : Chip) (g i : Nat) : Chip :=
  let now := c.liveOf g i
  let was := c.on (fLive g i)
  let c1 := c.setb (fLive g i) now
  if now && !was && !c.on (fBlanked g i) then c1.latchSet g i else c1

/-- The port of a group has changed: its tag increments (R213). -/
def Chip.cmpTag (c : Chip) (g : Nat) (before : Word) : Chip :=
  if bits (c.rd (R.CMPG.CMP_STAT g)) 0 16 = bits before 0 16 then c else c.bumpTag (0xA00 + g)

/-- A change of a group's comparators, followed by its outputs, latches and port tag. -/
def Chip.cmpChange (c : Chip) (g : Nat) (f : Chip → Chip) : Chip :=
  (upto 8 (fun c i => c.liveStep g i) (f c)).cmpTag g (c.rd (R.CMPG.CMP_STAT g))

/-- A comparator is enabled (R205 step 1). -/
def Chip.cmpEnable (c : Chip) (g i : Nat) : Chip :=
  (((c.updCmp g i fun x => { x with high := false, hysOn := false }).clr (fLive g i)).clr (fLatched g i)).raise (fSettling g i)

/-- A comparator is disabled: its latch clears and its line is released (R210). -/
def Chip.cmpDisable (c : Chip) (g i : Nat) : Chip :=
  (((c.updCmp g i fun x => { x with high := false, hysOn := false }).clr (fLive g i)).clr (fLatched g i)).clr (fSettling g i)

/-- EN of a group changes (R205, Table 6.11). -/
def Cmpg.setEn (g : Nat) (on : Bool) (c : Chip) : Chip :=
  if c.on (F.CMPG.CTRL.EN g) = on then c
  else
    c.cmpChange g fun c =>
      upto 8 (fun c i => if on then (if c.on (F.CMPG.CCFG.CEN g i) then c.cmpEnable g i else c) else c.cmpDisable g i)
        (c.setb (F.CMPG.CTRL.EN g) on)

/-- The first decision, at a level of the external input: against TH with the hysteresis off, and against both band edges
(R205 steps 2–4, log 63). -/
def Chip.firstDecision (c : Chip) (g i level at_ : Nat) : Chip :=
  if !c.cmpOn g i || !c.on (fSettling g i) then c
  else
    (c.goto at_).cmpChange g fun c =>
      let c1 := c.updCmp g i fun x => { x with level := level }
      let v := c1.cmpLevel g i
      let th := c1.cmpTh g i
      let h := c1.cmpHalf g i
      ((((c1.updCmp g i fun x => { x with high := decide (th < v), hysOn := true }).clr (fSettling g i)).raise
        (bitOf (R.CMPG.FIRST_MID g) i)).raise (F.CMPG.STICKY.FIRST_MID g)).setb (bitOf (R.CMPG.IN_BAND g) i)
        (decide (th < v + h ∧ v < th + h))

/-- The external input of a comparator comes to a level (R203). -/
def Chip.crossing (c : Chip) (g i level : Nat) : Chip :=
  if c.cmpReady g i then c.cmpChange g fun c => (c.updCmp g i fun x => { x with level := level }).cmpDecide g i
  else c.updCmp g i fun x => { x with level := level }

/-- The comparators of a group decide against thresholds that have come into force (R206). -/
def Chip.thresholds (c : Chip) (g : Nat) : Chip :=
  c.cmpChange g fun c => upto 8 (fun c i => if c.cmpReady g i then c.cmpDecide g i else c) c

/-- The comparators that select a general DAC follow its code (R202, R215). -/
def Chip.dacSeen (c : Chip) (d : Nat) : Chip :=
  (c.cmps.map fun e => e.1).foldl (fun (c : Chip) k =>
    if c.cmpReady (k / 8) (k % 8) && c.cmpInput (k / 8) (k % 8) == 96 + d
    then c.cmpChange (k / 8) fun c => c.cmpDecide (k / 8) (k % 8) else c) c

/-! ### Blanking (R208, R209) -/

/-- The comparator is blanked by the edges of a leg. -/
def Chip.blankedBy (c : Chip) (g i leg : Nat) : Bool :=
  let b := c.get (F.CMPG.CBLANK.BLANK_LEG g i)
  b < 40 && c.get (F.CMPG.CBLANK.BLANK_T g i) != 0
    && (b == leg || (c.on (F.CMPG.CBLANK.BGRP g i) && c.on (F.PG.PGCFG.GRP_EN b) && c.on (F.PG.PGCFG.GRP_EN leg)
          && c.get (F.PG.PGCFG.GROUP b) == c.get (F.PG.PGCFG.GROUP leg)))

/-- An edge of a leg opens or extends the blanking windows it governs (R208). -/
def Chip.blankEdge (c : Chip) (leg at_ : Nat) : Chip :=
  upto 96 (fun c k =>
    let g := k / 8
    let i := k % 8
    if c.blankedBy g i leg then
      let t := at_ + c.get (F.CMPG.CBLANK.BLANK_T g i) * 128
      (c.updCmp g i fun x => { x with blankEnd := some (match x.blankEnd with | some u => max u t | none => t) }).raise
        (fBlanked g i)
    else c) c

/-- The blanking window closes: an output still active sets the latch (R209). -/
def Chip.blankClose (c : Chip) (g i : Nat) : Chip :=
  match (c.cmp g i).blankEnd with
  | none => c
  | some t =>
    (c.goto t).cmpChange g fun c =>
      let c1 := (c.updCmp g i fun x => { x with blankEnd := none }).clr (fBlanked g i)
      if c1.on (fLive g i) then c1.latchSet g i else c1

/-! ### Clears (R210) -/

/-- A clear of a latch: it holds while the live output is active. -/
def Chip.latchClear (c : Chip) (g i : Nat) : Chip :=
  if !c.on (fLatched g i) then c
  else if c.on (fLive g i) then c.raise (F.CMPG.STICKY.CLR_HELD g)
  else c.cmpChange g fun c => c.clr (fLatched g i)

/-- The clears of a period point of a leg (R210). -/
def Chip.autoClear (c : Chip) (leg : Nat) : Chip :=
  upto 96 (fun c k =>
    if c.on (F.CMPG.CTRIP.AUTO_CLR (k / 8) (k % 8)) && c.get (F.CMPG.CTRIP.CLR_LEG (k / 8) (k % 8)) == leg
    then c.latchClear (k / 8) (k % 8) else c) c

/-! ### Trip lines (R211) -/

/-- Some comparator drives a trip line. -/
def Chip.lineDriven (c : Chip) (line : Nat) : Bool :=
  (List.range 96).any fun k =>
    c.on (fLatched (k / 8) (k % 8)) && c.on (F.CMPG.CTRIP.LINE_EN (k / 8) (k % 8))
      && c.get (F.CMPG.CTRIP.LINE (k / 8) (k % 8)) == line

/-! ### The CMPG page (R207, R219) -/

/-- A write to CCFG (R207). -/
def Chip.ccfg (c : Chip) (w : Acc) (g i : Nat) : Chip :=
  let old := c.rd w.addr
  let v := w.val &&& 0x3FFF#32
  if 104 ≤ bits v 4 7 then c.reject w rParam true
  else if v.extractLsb' 1 31 ≠ old.extractLsb' 1 31 ∧ (bits old 0 1 = 1 ∨ bits v 0 1 = 1) then c.reject w rState true
  else c.cmpChange g fun c =>
    let c1 := c.wr w.addr v
    if bits v 0 1 = 1 ∧ bits old 0 1 = 0 then (if c1.on (F.CMPG.CTRL.EN g) then c1.cmpEnable g i else c1)
    else if bits v 0 1 = 0 ∧ bits old 0 1 = 1 then c1.cmpDisable g i
    else c1

/-- A write to WCFG: WIN_EN changes only while both comparators have CEN = 0 (R212). -/
def Chip.wcfg (c : Chip) (w : Acc) (g : Nat) : Chip :=
  let old := c.rd w.addr
  if (List.range 4).any fun k => bits old (2 * k) 1 != bits w.val (2 * k) 1
      && (c.on (F.CMPG.CCFG.CEN g (2 * k)) || c.on (F.CMPG.CCFG.CEN g (2 * k + 1)))
  then c.reject w rState true
  else c.cmpChange g fun c => c.store w

/-- A write to a register of a CMPG page. -/
def Cmpg.onWrite (w : Acc) (c : Chip) : Chip :=
  let g := w.inst
  if w.off = 0x44 then upto 8 (fun c i => if w.val.getLsbD i then c.latchClear g i else c) c
  else if w.off = 0x50 then c.wcfg w g
  else if w.off = 0x80 then c.clearFields w.val ((List.range 8).map fun i => whole (R.CMPG.LATCH_CNT g i))
  else if 0x100 ≤ w.off ∧ w.off < 0x200 ∧ w.off % 32 = 0 then c.ccfg w g ((w.off - 0x100) / 32)
  else if 0x100 ≤ w.off ∧ w.off < 0x200 ∧ w.off % 32 = 8 then c.storeAt w.addr (clampField w.val 16 10 0 1000)
  else c.store w

end Sys2Proof.Machine
end

