-- ==== Sys2Proof/Machine/Pfu.lean ====
section
/-! DEFINITION. The position feedback units: counting, index, position compare, capture, SSI and BiSS-C frames, resolvers and
the PFU page (R221–R232, R237–R243). An operation that can send sync pulses answers the device and the legs they go to. -/

namespace Sys2Proof.Machine

/-- Counts per sensor revolution: 6 in Hall mode (R225). -/
def Chip.cpr (c : Chip) (k : Nat) : Nat := if c.get (F.PFU.PFCFG.INTYPE k) = 1 then 6 else bits (c.rd (R.PFU.CPR k)) 0 24

/-- COUNT runs in MODULO mode (R226). -/
def Chip.modulo (c : Chip) (k : Nat) : Bool := c.on (F.PFU.PFCFG.CNTMODE k)

/-- The count range: 2^32 in FULL mode; in MODULO mode CPR, or for a unit that reads frames the values of the single-turn
field (R226, R230). -/
def Chip.range (c : Chip) (k : Nat) : Nat :=
  if !c.modulo k then 2 ^ 32
  else match c.get (F.PFU.PFCFG.INTYPE k) with
    | 2 | 3 => 2 ^ c.get (F.PFU.ENC_FIELD.STB k)
    | _ => c.cpr k

def Chip.count (c : Chip) (k : Nat) : Nat := (c.rd (R.PFU.COUNT k)).toNat

/-! ### Pins (R221) -/

/-- What pin A (0), B (1) or Z (2) of a unit does (Table 7.1). -/
def Chip.pinRole (c : Chip) (k i : Nat) : PinRole :=
  let z : PinRole := if c.on (F.PFU.PFCFG.ZOUT k) then .compare else .highZ
  if !c.on (F.PFU.CTRL.EN k) then .highZ
  else match c.get (F.PFU.PFCFG.INTYPE k), i with
    | 0, 2 => if c.on (F.PFU.PFCFG.ZOUT k) then .compare else .input
    | 0, _ | 1, _ | 2, 1 | 3, 1 => .input
    | 2, 0 | 3, 0 => .clock
    | _, 2 => z
    | _, _ => .highZ

/-- Level of PFn_Z while it is the compare output: active during the pulse, with the polarity of PIN_POL (R239). -/
def Chip.compareOut (c : Chip) (k : Nat) : Option Bool :=
  if c.pinRole k 2 = .compare then some ((c.pfu k).pulse.isSome != c.on (F.PFU.CMPL_CFG.PIN_POL k)) else none

/-- A non-negative remainder. -/
def wrapTo (v : Int) (n : Nat) : Nat := (v % (n : Int)).toNat

/-! ### Capture (R237) -/

/-- A capture of COUNT at an instant. -/
def Chip.capture (c : Chip) (k at_ : Nat) : Chip :=
  ((((c.wr (R.PFU.CAPT k) (c.rd (R.PFU.COUNT k))).wr (R.PFU.CAPT_TS k) (wd at_)).raise (F.PFU.STICKY.CAPTURED k)).bumpTag
    (0x406 + 16 * k)).portWritten (0x406 + 16 * k)

/-- The captures of a period point or half-period point of a leg. -/
def Chip.pgCaptures (c : Chip) (leg : Nat) (half : Bool) (at_ : Nat) : Chip :=
  upto 6 (fun c k =>
    if c.on (F.PFU.CAPT_CFG.PGCAP k) && c.get (F.PFU.CAPT_CFG.CAP_LEG k) == leg && c.on (F.PFU.CAPT_CFG.HALF k) == half
    then c.capture k at_ else c) c

/-! ### Position compare (R238–R241) -/

/-- A move of COUNT by a signed amount crosses a position in a direction an entry selects. -/
def crosses (range pos prev : Nat) (d : Int) (dir : Nat) : Bool :=
  let up := decide (0 < d) && decide (2 * d < (range : Int)) &&
    (let x := wrapTo ((pos : Int) - prev) range; 0 < x && decide ((x : Int) ≤ d))
  let down := decide (d < 0) && decide (-2 * d < (range : Int)) &&
    (let x := wrapTo ((prev : Int) - pos) range; decide ((x : Int) < -d))
  match dir with
  | 0 => up
  | 1 => down
  | _ => up || down

/-- Distance of COUNT from a position: modulo CPR in MODULO mode. -/
def countGap (modulo : Bool) (range count pos : Nat) : Nat :=
  if modulo then min (wrapTo ((count : Int) - pos) range) (wrapTo ((pos : Int) - count) range)
  else (signed 32 (wrapTo ((count : Int) - pos) (2 ^ 32))).natAbs

/-- An entry is armed (R238, R240). -/
def Chip.entryArmed (c : Chip) (k e : Nat) : Bool :=
  c.on (F.PFU.CMPE_CFG.EN k e) && !(c.pfu k).spent.contains e
    && (!c.on (F.PFU.CMPL_CFG.SEQ k) || (c.get (F.PFU.CMPL_STAT.PTR k) == e && !c.on (F.PFU.CMPL_STAT.DONE k)))
    && (!c.modulo k || decide ((c.rd (R.PFU.CMPE_POS k e)).toNat < c.cpr k))

/-- An entry fires at an event time, which triggers entries and loops (R239, R240, R241). -/
def Chip.fire (c : Chip) (k e at_ : Nat) : Chip :=
  let reg := if e < 32 then R.PFU.CMPL_FIRED_LO k else R.PFU.CMPL_FIRED_HI k
  let c1 := (((c.raise (bitOf reg (e % 32))).inc (whole (R.PFU.CMP_FIRE_CNT k))).raise (F.PFU.STICKY.CMP_FIRED k)).event
    evPfu k e at_
  let t := at_ + max 1 (c.get (F.PFU.CMPL_CFG.PW k)) * 512
  let pin := c.on (F.PFU.CMPE_CFG.PIN k e) && c.pinRole k 2 == .compare
  let c2 := c1.updPfu k fun x =>
    { x with spent := x.spent ++ [e], pulse := if pin then some (match x.pulse with | some u => max u t | none => t) else x.pulse }
  if !c2.on (F.PFU.CMPL_CFG.SEQ k) then c2
  else if c2.get (F.PFU.CMPL_STAT.PTR k) = c2.get (F.PFU.CMPL_CFG.LENM1 k) then
    (if c2.on (F.PFU.CMPL_CFG.STOP k) then c2.raise (F.PFU.CMPL_STAT.DONE k) else c2.clr (F.PFU.CMPL_STAT.PTR k))
  else c2.bump (F.PFU.CMPL_STAT.PTR k)

/-- Spent entries that lie HYST or more counts away re-arm (R238). -/
def Chip.rearm (c : Chip) (k : Nat) : Chip :=
  let near (e : Nat) : Bool :=
    countGap (c.modulo k) (c.cpr k) (c.count k) (c.rd (R.PFU.CMPE_POS k e)).toNat < c.get (F.PFU.CMPE_CFG.HYST k e)
  c.updPfu k fun x => { x with spent := x.spent.filter near }

/-- COUNT moves by a signed amount at an event time: M and DIR follow, and armed entries fire on their crossings (R226, R238). -/
def Chip.move (c : Chip) (k : Nat) (d : Int) (at_ : Nat) : Chip × List Nat :=
  let prev := c.count k
  let range := c.range k
  let hit := (List.range 64).filter fun e =>
    c.entryArmed k e && crosses range (c.rd (R.PFU.CMPE_POS k e)).toNat prev d (c.get (F.PFU.CMPE_CFG.DIR k e))
  let c1 := (c.wr (R.PFU.COUNT k) (wd (wrapTo ((prev : Int) + d) range))).updPfu k fun x =>
    { x with m := wrapTo ((x.m : Int) + d) (c.cpr k) }
  let c2 := if d = 0 then c1
    else ((c1.setb (F.PFU.PFU_STAT.DIR k) (decide (d < 0))).statTag k (c.rd (R.PFU.PFU_STAT k))).bumpTag (0x403 + 16 * k)
  let c3 := hit.foldl (fun (c : Chip) e => c.fire k e at_) c2
  (c3.rearm k, (hit.filter fun e => c.on (F.PFU.CMPE_CFG.PG_EN k e)).map fun e => c.get (F.PFU.CMPE_CFG.PG_LEG k e))

/-- COUNT takes a value by the shortest way round its range. -/
def Chip.moveTo (c : Chip) (k new at_ : Nat) : Chip × List Nat :=
  let range := c.range k
  let x := wrapTo ((new : Int) - c.count k) range
  c.move k (if 2 * x < range then (x : Int) else (x : Int) - range) at_

def execComparePulseEnd (k : Fin 6) (s : State) : Host.Outcome State Fault Refusal :=
  s.nextChip fun c => match (c.pfu k).pulse with
    | none => c
    | some t => (c.goto t).updPfu k fun x => { x with pulse := none }

/-! ### Incremental and Hall inputs (R224, R225, R227) -/

/-- Place of a pair of levels in the forward quadrature sequence. -/
def quadrature : Bool × Bool → Nat
  | (false, false) => 0
  | (true, false) => 1
  | (true, true) => 2
  | (false, true) => 3

/-- Two instants lie less than 2 ns apart. -/
def within2ns (t : Option Nat) (u : Nat) : Bool :=
  match t with | some t => decide (5 * (u - t) < 256 ∧ 5 * (t - u) < 256) | none => false

/-- A move of the count that the edge after it shows to be no count is taken back (R224). -/
def Chip.takeBack (c : Chip) (k : Nat) (d : Int) : Chip :=
  if d = 0 then c
  else ((c.wr (R.PFU.COUNT k) (wd (wrapTo ((c.count k : Int) - d) (c.range k)))).updPfu k fun x =>
    { x with m := wrapTo ((x.m : Int) - d) (c.cpr k) }).bumpTag (0x403 + 16 * k)

/-- A qualified edge of A or B (R224): a step of the quadrature sequence counts; A and B together, or within 2 ns, do not.
The levels are followed in every mode (log 64). -/
def Chip.edge (c : Chip) (k : Nat) (a b : Bool) (at_ : Nat) : Chip × List Nat :=
  let x := c.pfu k
  let old := x.levels
  let c1 := c.updPfu k fun x => { x with
    levels := (a, b), step := 0
    aAt := if a = old.1 then x.aAt else some at_
    bAt := if b = old.2 then x.bAt else some at_ }
  let bad (c : Chip) : Chip × List Nat := ((c.raise (F.PFU.STICKY.QERR k)).inc (whole (R.PFU.QERR_CNT k)), [])
  if !c.on (F.PFU.CTRL.EN k) || c.get (F.PFU.PFCFG.INTYPE k) != 0 then (c1, [])
  else
    let fwd : Int := if c.on (F.PFU.PFCFG.DIRINV k) then -1 else 1
    let count (d : Int) : Chip × List Nat :=
      if within2ns (if a = old.1 then x.aAt else x.bAt) at_ then bad (c1.takeBack k x.step)
      else (c1.updPfu k fun x => { x with step := d }).move k d at_
    match (quadrature (a, b) + 4 - quadrature old) % 4 with
    | 1 => count fwd
    | 3 => count (-fwd)
    | 2 => bad c1
    | _ => (c1, [])

/-- Sector of a Hall code; none for 000b and 111b (R225). -/
def hallSector : Nat → Option Nat
  | 1 => some 0 | 3 => some 1 | 2 => some 2 | 6 => some 3 | 4 => some 4 | 5 => some 5 | _ => none

/-- The sector a unit stands in, in its forward direction (R225). -/
def Chip.hallAt (c : Chip) (k s : Nat) : Nat := if c.on (F.PFU.PFCFG.DIRINV k) then 5 - s else s

/-- A Hall transition (R225). The sector is followed in every mode; the first valid code after power-up comes from no sector
and is no count (log 64). -/
def Chip.hall (c : Chip) (k code at_ : Nat) : Chip × List Nat :=
  if !c.on (F.PFU.CTRL.EN k) || c.get (F.PFU.PFCFG.INTYPE k) != 1 then
    (match hallSector code with | some s => c.updPfu k fun x => { x with sector := some s } | none => c, [])
  else match hallSector code with
    | none => (c.raise (F.PFU.STICKY.HALL_ERR k), [])
    | some s0 =>
      let s := c.hallAt k s0
      let go (bound : Option Nat) : Chip := c.updPfu k fun x =>
        { x with sector := some s0, boundary := (match bound with | some b => some b | none => x.boundary) }
      match (c.pfu k).sector.map (c.hallAt k) with
      | none => (go none, [])
      | some old =>
        match (s + 6 - old) % 6 with
        | 0 => (c, [])
        | 1 => (go (some s)).move k 1 at_
        | 5 => (go (some (s + 1))).move k (-1) at_
        | _ => ((go none).raise (F.PFU.STICKY.HALL_ERR k), [])

/-- A rising edge of Z (R227). -/
def Chip.zIndex (c : Chip) (k at_ : Nat) : Chip :=
  let act := c.get (F.PFU.PFCFG.ZACT k)
  if !c.on (F.PFU.CTRL.EN k) || c.get (F.PFU.PFCFG.INTYPE k) != 0 || act == 0 then c
  else
    let c1 := c.capture k at_
    if act = 3 ∨ (act = 2 ∧ !c1.on (F.PFU.PFU_STAT.ZSEEN k)) then
      ((c1.updPfu k fun x => { x with m := bits (c.rd (R.PFU.ZPOS k)) 0 24 }).raise (F.PFU.PFU_STAT.ZSEEN k)).statTag k
        (c.rd (R.PFU.PFU_STAT k))
    else c1

def execZIndex (k : Fin 6) (at_ : Nat) (s : State) : Host.Outcome State Fault Refusal :=
  s.nextChip fun c => (c.goto at_).zIndex k at_

/-! ### The observer's own instants (R232) -/

/-- Boundary below sector `s` as an angle, 2^-32 turn. -/
def boundaryAngle (s : Nat) : Nat := s * 2 ^ 32 / 6 % 2 ^ 32

/-- The prediction of a Hall unit limited to its present sector, 2^-32 turn. -/
def Chip.hallPredict (c : Chip) (k s t : Nat) : Nat :=
  let th := wrapTo (rnd ((c.pfu k).thAt t) (2 ^ 32)) (2 ^ 32)
  let lo := boundaryAngle s
  let hi := (s + 1) * 2 ^ 32 / 6
  if lo ≤ th ∧ th < hi then th
  else if wrapTo ((th : Int) - hi) (2 ^ 32) ≤ wrapTo ((lo : Int) - th) (2 ^ 32) then (hi - 1) % 2 ^ 32 else lo

/-- The update instant of an incremental or Hall unit (R232, R233). -/
def Chip.obsInstant (c : Chip) (k : Nat) : Chip :=
  let ty := c.get (F.PFU.PFCFG.INTYPE k)
  let t := bits (c.rd (R.PFU.OBS_T k)) 0 10 * 2560
  if c.osState k = osOff ∨ 1 < ty then c
  else
    let now := (c.pfu k).last + t
    let c1 := c.goto now
    if ty = 0 then
      let n := c1.cpr k
      c1.obsUpdate k (some (if n = 0 then 0 else (c1.pfu k).m * 2 ^ 32 / n)) now
    else match (c1.pfu k).boundary, (c1.pfu k).sector.map (c1.hallAt k) with
      | some b, _ => (c1.obsUpdate k (some (boundaryAngle b)) now).updPfu k fun x => { x with boundary := none }
      | none, some s => if (c1.pfu k).seeded then c1.obsUpdate k (some (c1.hallPredict k s t)) now
                        else (c1.obsUpdate k none now).updPfu k fun x => { x with last := now }
      | none, none => (c1.obsUpdate k none now).updPfu k fun x => { x with last := now }

def execObserverUpdate (k : Fin 6) (s : State) : Host.Outcome State Fault Refusal := s.nextChip fun c => c.obsInstant k

/-! ### SSI and BiSS-C (R228–R230, R242) -/

/-- The unit reads frames. -/
def Chip.framed (c : Chip) (k : Nat) : Bool :=
  c.on (F.PFU.CTRL.EN k) && (c.get (F.PFU.PFCFG.INTYPE k) == 2 || c.get (F.PFU.PFCFG.INTYPE k) == 3)

/-- A frame start (R229); a BiSS-C frame carries the CDM value that requests no register access (R228). -/
def Chip.frameStart (c : Chip) (k : Nat) : Chip :=
  if (c.pfu k).frame.isSome then c.raise (F.PFU.STICKY.FRAME_EARLY k)
  else c.updPfu k fun x => { x with frame := some c.st, cdmIdle := c.get (F.PFU.PFCFG.INTYPE k) == 3 }

def execEncFrameStart (k : Fin 6) (at_ : Nat) (s : State) : Host.Outcome State Fault Refusal :=
  s.nextChip fun c => if c.framed k && onGrid (c.rd (R.PFU.FRAME_PER k)).toNat 0 at_ then (c.goto at_).frameStart k else c

/-- The remainder of a frame's bits, highest first, under a CRC of six bits. -/
def crc6 (poly : Nat) (data : Nat) : Nat → Nat → Nat
  | 0, r => r
  | n + 1, r =>
    let top := r / 32 % 2
    let b := data / 2 ^ n % 2
    let s := r * 2 % 64
    crc6 poly data n (if top != b then s ^^^ poly else s)

/-- Gray code of `n` bits to binary. -/
def grayDecode (g : Nat) : Nat → Nat
  | 0 => 0
  | n + 1 => let rest := grayDecode (g / 2) n; rest * 2 + (g % 2 + rest) % 2

/-- A rejected frame supplies no measurement; MISS_N of them in a row are a fault (R230). -/
def Chip.frameMiss (c : Chip) (k at_ : Nat) : Chip :=
  let c1 := (c.updPfu k fun x => { x with miss := x.miss + 1, frame := none }).obsUpdate k none at_
  if (c1.pfu k).miss = c1.get (F.PFU.ENC_TIME.MISS_N k) then
    ((c1.raise (F.PFU.STICKY.ENC_FAULT k)).obsFault k).statTag k (c1.rd (R.PFU.PFU_STAT k))
  else c1

/-- CABLE after an accepted BiSS-C frame (R242). -/
def Chip.cable (c : Chip) (k trip : Nat) : Chip :=
  let c1 := c.updPfu k fun x => { x with trips := (trip :: x.trips).take 16 }
  let ts := (c1.pfu k).trips
  if ts.length < 16 then c1
  else
    -- sum of 16 trips of 39.0625 ps: the mean in 1/256 ps is sum × 625
    let mean : Int := ((ts.foldl (fun n t => n + t) 0 * 625 : Nat) : Int)
    let len := rnd ((mean - c.get (F.PFU.CABLE_CFG.RESP k) * 256) * 100) (512 * c.get (F.PFU.CABLE_CFG.VP k))
    let v := (clampInt 0 0xFFFF len).1.toNat
    let gap := ((v : Int) - c.get (F.PFU.CABLE_REF.REF_CM k)).natAbs
    ((c1.set (F.PFU.CABLE.LEN_CM k) v).raise (F.PFU.CABLE.VALID k)).raiseIf (decide (c.get (F.PFU.CABLE_REF.TOL_CM k) < gap))
      (F.PFU.STICKY.CABLE_CHG k)

/-- The position of an accepted frame (R230). -/
def Chip.framePos (c : Chip) (k data ts : Nat) : Chip × List Nat :=
  let stb := c.get (F.PFU.ENC_FIELD.STB k)
  let n := stb + c.get (F.PFU.ENC_FIELD.MTB k)
  let raw := data / 2 ^ c.get (F.PFU.ENC_FIELD.POS_LSB k) % 2 ^ n
  let v := if c.get (F.PFU.PFCFG.INTYPE k) = 2 ∧ c.on (F.PFU.ENC_CFG.GRAY k) then grayDecode raw n else raw
  let single := v % 2 ^ stb
  let c1 := c.obsUpdate k (some (single * 2 ^ (32 - stb))) ts
  c1.moveTo k (if c.modulo k then single else v % 2 ^ 32) ts

/-- The latch instant of a frame that started at `t0`: the timestamp of its measurement (R229). -/
def Chip.frameTs (c : Chip) (k t0 : Nat) : Nat := t0 + c.get (F.PFU.ENC_TIME.LAT_DLY k) * 256

/-- A frame has been received (R229, R230). -/
def Chip.frameReceive (c : Chip) (k data crc trip : Nat) : Chip × List Nat :=
  match (c.pfu k).frame with
  | none => (c, [])
  | some t0 =>
    let flen := c.get (F.PFU.ENC_CFG.FLEN k)
    let d := data % 2 ^ flen
    let biss := c.get (F.PFU.PFCFG.INTYPE k) == 3
    let ts := c.frameTs k t0
    let bit (i : Nat) : Nat := d / 2 ^ i % 2
    let c0 := ((c.wr (R.PFU.ENC_RAW_LO k) (wd d)).wr (R.PFU.ENC_RAW_HI k) (wd (d / 2 ^ 32))).wr (R.PFU.ENC_DELAY k)
      (if biss then wd trip else c.rd (R.PFU.ENC_DELAY k))
    let badCrc := biss && crc6 (c.get (F.PFU.ENC_CFG.CRC_POLY k)) d flen 0 != 63 - crc % 64
    let badErr := c.on (F.PFU.ENC_FIELD.ERR_EN k) && bit (c.get (F.PFU.ENC_FIELD.ERR_POS k)) == 0
    let warn := c.on (F.PFU.ENC_FIELD.WARN_EN k) && bit (c.get (F.PFU.ENC_FIELD.WARN_POS k)) == 0
    let c1 := c0.raiseIf warn (F.PFU.STICKY.ENC_WARN k)
    let c2 := if badCrc then (c1.raise (F.PFU.STICKY.ENC_CRC k)).inc (F.PFU.ENC_ERR_CNT.CRC k) else c1
    let c3 := c2.raiseIf badErr (F.PFU.STICKY.ENC_ERRBIT k)
    if badCrc || badErr then (c3.frameMiss k ts, [])
    else
      let c4 := c3.updPfu k fun x => { x with frame := none, miss := 0 }
      (if biss then c4.cable k trip else c4).framePos k d ts

/-- No acknowledge or start bit within TM of the first clock edge (R230). -/
def Chip.frameTimeout (c : Chip) (k : Nat) : Chip :=
  match (c.pfu k).frame with
  | none => c
  | some t0 =>
    let c1 := ((c.goto (t0 + c.get (F.PFU.ENC_TIME.TM k) * Config.us)).raise (F.PFU.STICKY.ENC_NORESP k)).inc
      (F.PFU.ENC_ERR_CNT.NORESP k)
    c1.frameMiss k (c1.frameTs k t0)

def execEncFrameTimeout (k : Fin 6) (s : State) : Host.Outcome State Fault Refusal := s.nextChip fun c => c.frameTimeout k

/-! ### Resolver (R231) -/

/-- Square root rounded to the nearest. -/
def sqrtNear (v : Nat) : Nat := let r := isqrt v; if r * r + r < v then r + 1 else r

/-- The measurement of a pair of results at the sine's instant (R231 steps 2–5). -/
def Chip.resolve (c : Chip) (k : Nat) (sine cosine : Int) (ts : Nat) : Chip × List Nat :=
  let th := c.dacPhase (c.get (F.PFU.RSLV_CFG.DAC k)) ts
  let phi := bits (c.rd (R.PFU.RSLV_PHI k)) 0 16
  let car := sinTurns (th.1 + th.2 - phi * Config.sec) th.2
  if 2 * car.natAbs < 2 ^ 64 then ((c.raise (F.PFU.STICKY.RSLV_TIMING k)).obsUpdate k none ts, [])
  else
    let s : Int := if car < 0 then -1 else 1
    let vs := s * sine
    let vc := s * cosine
    let sq := (vs * vs + vc * vc).toNat
    let c1 := c.wr (R.PFU.RSLV_AMP k) (wd (min (sqrtNear sq) 0xFFFFFF))
    let lo := c.get (F.PFU.RSLV_MAG.MAG_LO k)
    let hi := c.get (F.PFU.RSLV_MAG.MAG_HI k)
    if sq < lo * lo ∨ hi * hi < sq then
      (((c1.raise (F.PFU.STICKY.RSLV_MAG k)).pfuReport k).obsUpdate k none ts, [])
    else
      let ang := (atan2Code vs vc).toNat
      let n := c.cpr k
      let pos := ang * n / 2 ^ 32
      let c2 := (c1.obsUpdate k (some ang) ts).updPfu k fun x => { x with pos := some pos }
      match (c.pfu k).pos with
      | none => c2.moveTo k pos ts
      | some old =>
        let d := wrapTo ((pos : Int) - old) n
        c2.move k (if 2 * d < n then (d : Int) else (d : Int) - n) ts

/-- Two hold instants lie no more than 2 ns apart. -/
def paired (a b : Nat) : Bool := 5 * (a - b) ≤ 256 && 5 * (b - a) ≤ 256

/-- A sine result of a unit, and a cosine result (R231 step 1). -/
def Chip.sineIn (c : Chip) (k : Nat) (v : Int) (ts : Nat) : Chip × List Nat :=
  match (c.pfu k).cosines.find? fun x => paired x.2 ts with
  | some m => (c.updPfu k fun x => { x with cosines := x.cosines.filter fun y => y != m }).resolve k v m.1 ts
  | none => (c.updPfu k fun x => { x with sines := x.sines ++ [(v, ts)] }, [])

def Chip.cosineIn (c : Chip) (k : Nat) (v : Int) (ts : Nat) : Chip × List Nat :=
  match (c.pfu k).sines.find? fun x => paired x.2 ts with
  | some m => (c.updPfu k fun x => { x with sines := x.sines.filter fun y => y != m }).resolve k m.1 v m.2
  | none => (c.updPfu k fun x => { x with cosines := x.cosines ++ [(v, ts)] }, [])

/-- A result of an ADC entry goes to the resolver units that use it. -/
def Chip.resolverResult (c : Chip) (a e ts : Nat) : Chip × List Nat :=
  (List.range 6).foldl (fun (acc : Chip × List Nat) k =>
    let c := acc.1
    if c.osState k = osOff ∨ c.get (F.PFU.PFCFG.INTYPE k) ≠ 4 then acc
    else
      let v := (c.adcPort a e).toInt
      if c.get (F.PFU.RSLV_CFG.ADC_S k) = a ∧ c.get (F.PFU.RSLV_CFG.ENT_S k) = e then
        let r := c.sineIn k v ts
        (r.1, acc.2 ++ r.2)
      else if c.get (F.PFU.RSLV_CFG.ADC_C k) = a ∧ c.get (F.PFU.RSLV_CFG.ENT_C k) = e then
        let r := c.cosineIn k v ts
        (r.1, acc.2 ++ r.2)
      else acc) (c, [])

/-- The oldest result without a partner is discarded 1 µs after it came (R231 step 1). -/
def Chip.pairTimeout (c : Chip) (k : Nat) : Chip :=
  let x := c.pfu k
  let ts := (x.sines ++ x.cosines).map fun y => y.2
  match ts with
  | [] => c
  | t :: rest =>
    let m := rest.foldl min t
    ((((c.goto (m + Config.us)).updPfu k fun x =>
      { x with sines := x.sines.filter fun y => y.2 != m, cosines := x.cosines.filter fun y => y.2 != m }).raise
      (F.PFU.STICKY.RSLV_TIMING k)).obsUpdate k none m)

def execResolverPairTimeout (k : Fin 6) (s : State) : Host.Outcome State Fault Refusal := s.nextChip fun c => c.pairTimeout k

/-! ### Enable and the PFU page (R223, R229, R231, R233, R241, R243) -/

/-- The configuration passes the checks of an enable. -/
def Chip.pfuOk (c : Chip) (k : Nat) : Bool :=
  let ty := c.get (F.PFU.PFCFG.INTYPE k)
  let within (v lo hi : Nat) : Bool := lo ≤ v && v ≤ hi
  let hp := c.get (F.PFU.ENC_CFG.CLK_HP k)
  let flen := c.get (F.PFU.ENC_CFG.FLEN k)
  let tm := c.get (F.PFU.ENC_TIME.TM k)
  let per := (c.rd (R.PFU.FRAME_PER k)).toNat
  let sa := c.get (F.PFU.RSLV_CFG.ADC_S k)
  let se := c.get (F.PFU.RSLV_CFG.ENT_S k)
  let ca := c.get (F.PFU.RSLV_CFG.ADC_C k)
  let ce := c.get (F.PFU.RSLV_CFG.ENT_C k)
  ty ≤ 4 && !(ty == 0 && c.on (F.PFU.PFCFG.ZOUT k) && c.get (F.PFU.PFCFG.ZACT k) != 0)
    && c.get (F.PFU.PFCFG.FILT k) ≤ 10 && within (c.pp k) 1 64
    && 4 ≤ bits (c.rd (R.PFU.CPR k)) 0 24 && within (bits (c.rd (R.PFU.OBS_T k)) 0 10) 1 1000
    && (List.range 3).all (fun i => c.rd (R.PFU.OBS_L k i) != 0)
    && within hp 10 1000 && within flen 8 48 && within (c.get (F.PFU.ENC_FIELD.STB k)) 1 32 && 1 ≤ tm
    && 1 ≤ c.get (F.PFU.ENC_TIME.MISS_N k) && within per 2000 10000000 && sa < 24 && ca < 24
    && c.get (F.PFU.CAPT_CFG.CAP_LEG k) < 40 && (List.range 64).all (fun e => c.get (F.PFU.CMPE_CFG.PG_LEG k e) < 40)
    && ((ty != 2 && ty != 3) || (flen + 10) * 2 * hp * 5 + tm * 1000 + 1000 ≤ per)
    && (ty != 4 ||
      (c.on (bitOf (R.ADC.ADMITTED sa) se) && c.on (bitOf (R.ADC.ADMITTED ca) ce)
        && c.on (F.ADC.ECONV.DIFF sa se) && c.on (F.ADC.ECONV.DIFF ca ce) && c.on (F.ADC.CTRL.AWAKE sa) && c.on (F.ADC.CTRL.AWAKE ca)
        && c.rd (R.ADC.ETRIG sa se) == c.rd (R.ADC.ETRIG ca ce)
        && (c.get (F.ADC.ETRIG.TSRC sa se) != 3 || c.eper sa se == c.eper ca ce)))

/-- What a unit keeps when EN changes: the position, and the levels of its pins. -/
def PfuSt.kept (x : PfuSt) (now : Nat) : PfuSt :=
  { m := x.m, levels := x.levels, aAt := x.aAt, bAt := x.bAt, sector := x.sector, last := now }

/-- A unit is enabled: it begins to acquire (Table 7.2). -/
def Chip.pfuStart (c : Chip) (k : Nat) : Chip :=
  ((((((c.updPfu k fun x => x.kept c.st).raise (F.PFU.CTRL.EN k)).wr (R.PFU.PFU_STAT k) 0).setb (F.PFU.CABLE.NA k)
    (c.get (F.PFU.PFCFG.INTYPE k) != 3)).clr (F.PFU.CABLE.VALID k)).setOs k osAcquiring).statTag k (c.rd (R.PFU.PFU_STAT k)) |>.watchSpeed

/-- A unit is disabled: OFF, its pins at high impedance (R221, Table 7.2). -/
def Chip.pfuStop (c : Chip) (k : Nat) : Chip :=
  (((c.updPfu k fun x => x.kept 0).clr (F.PFU.CTRL.EN k)).setOs k osOff).statTag k (c.rd (R.PFU.PFU_STAT k)) |>.watchSpeed

/-- EN of a unit is written; an enable that fails its checks is refused with PARAM (R223). -/
def Pfu.setEn (w : Acc) (on : Bool) (c : Chip) : Chip :=
  let k := w.inst
  if c.on (F.PFU.CTRL.EN k) = on then c
  else if !on then c.pfuStop k
  else if c.pfuOk k then c.pfuStart k else c.reject w rParam true

/-- The command bits of CTRL: CAPTURE and ZERO (Table 7.4). -/
def Pfu.ctrlCmd (w : Acc) (c : Chip) : Chip :=
  let k := w.inst
  let c1 := if bits w.val 8 1 = 1 then c.capture k c.st else c
  if bits w.val 10 1 = 1 then
    (((c1.wr (R.PFU.COUNT k) 0).updPfu k fun x => { x with m := bits (c.rd (R.PFU.ZPOS k)) 0 24, step := 0 }).bumpTag
      (0x403 + 16 * k)).rearm k
  else c1

/-- A register that accepts writes only while EN = 0 (R223). -/
def pfuFixed (off : Nat) : Bool :=
  [0x40, 0x44, 0x48, 0x50, 0x54, 0x58, 0x5C, 0xA0, 0xA4, 0xA8, 0xAC, 0xC0, 0xC4].contains off

/-- A write to an entry of the compare list (R241). -/
def Chip.cmpeWrite (c : Chip) (w : Acc) : Chip :=
  let k := w.inst
  let e := (w.off - 0x400) / 8
  let onlyEn := w.off % 8 = 4 ∧ (w.val ^^^ c.rd w.addr) &&& 0x00FF07FE#32 = 0
  if c.on (F.PFU.CMPE_CFG.EN k e) ∧ ¬onlyEn then c.reject w rState true
  else
    let was := c.on (F.PFU.CMPE_CFG.EN k e)
    let c1 := c.store w
    if !was && c1.on (F.PFU.CMPE_CFG.EN k e) then c1.updPfu k fun x => { x with spent := x.spent.filter fun i => i != e } else c1

/-- A write to a register of a PFU page. -/
def Pfu.onWrite (w : Acc) (c : Chip) : Chip :=
  let k := w.inst
  if pfuFixed w.off && c.on (F.PFU.CTRL.EN k) then c.reject w rState true
  -- CABLE in another mode than BiSS-C (R242)
  else if w.off = 0x40 then
    let c1 := c.store w
    if c1.get (F.PFU.PFCFG.INTYPE k) = 3 then c1.clr (F.PFU.CABLE.NA k)
    else (c1.raise (F.PFU.CABLE.NA k)).clr (F.PFU.CABLE.VALID k)
  else if w.off = 0xE4 then c.clearFields w.val [whole (R.PFU.QERR_CNT k), whole (R.PFU.ENC_ERR_CNT k), whole (R.PFU.CMP_FIRE_CNT k)]
  else if w.off = 0x100 then (c.store w).wr (R.PFU.CMPL_STAT k) 0
  else if 0x400 ≤ w.off ∧ w.off < 0x600 then c.cmpeWrite w
  else c.store w

def execPfuEnable (src : Source) (k : Fin 6) (s : State) : Host.Outcome State Fault Refusal :=
  let w : Acc := { src := src, addr := R.PFU.CTRL k, val := s.chip.ctrlWith (R.PFU.ID k) 0 }
  s.nextGated w (Pfu.setEn w true)

def execPfuDisable (src : Source) (k : Fin 6) (s : State) : Host.Outcome State Fault Refusal :=
  let w : Acc := { src := src, addr := R.PFU.CTRL k, val := s.chip.rd (R.PFU.CTRL k) &&& ~~~1#32 }
  s.nextGated w (Pfu.setEn w false)

def execPfuZero (src : Source) (k : Fin 6) (s : State) : Host.Outcome State Fault Refusal :=
  let w : Acc := { src := src, addr := R.PFU.CTRL k, val := s.chip.ctrlWith (R.PFU.ID k) 10 }
  s.nextGated w (Pfu.ctrlCmd w)

def execPfuCaptureCmd (src : Source) (k : Fin 6) (s : State) : Host.Outcome State Fault Refusal :=
  let w : Acc := { src := src, addr := R.PFU.CTRL k, val := s.chip.ctrlWith (R.PFU.ID k) 8 }
  s.nextGated w (Pfu.ctrlCmd w)

def execCmplCfgWrite (src : Source) (k : Fin 6) (v : Word) (s : State) : Host.Outcome State Fault Refusal :=
  let w : Acc := { src := src, addr := R.PFU.CMPL_CFG k, val := v }
  s.nextGated w (Pfu.onWrite w)

end Sys2Proof.Machine
end

