-- ==== Sys2Proof/Machine/Muzzle.lean ====
section
/-! DEFINITION. The output stage of the legs and the trip network (Muzzle): lines, forces, the interlock and short circuits
(R253–R264, R289). -/

namespace Sys2Proof.Machine

def Chip.pg (c : Chip) (n : Nat) : PgSt := Tab.at c.pgs {} n
def Chip.updPg (c : Chip) (n : Nat) (f : PgSt → PgSt) : Chip := { c with pgs := Tab.upd c.pgs {} n f }
def Chip.link (c : Chip) (l : Nat) : LinkSt := Tab.at c.links {} l
def Chip.updLink (c : Chip) (l : Nat) (f : LinkSt → LinkSt) : Chip := { c with links := Tab.upd c.links {} l f }

/-! ### Gate links as the legs see them -/

/-- Codes of the link states (Table 8.11). -/
abbrev lkOff : Nat := 0
abbrev lkInit : Nat := 1
abbrev lkReady : Nat := 2
abbrev lkFault : Nat := 3
abbrev lkLost : Nat := 4

def Chip.linkState (c : Chip) (l : Nat) : Nat := c.get ⟨R.GLNK.LINK_STATE (l / 8), 4 * (l % 8), 4⟩

/-- A frame of 740 ns (R269). -/
abbrev frameLen : Nat := 18944

/-- The leading edges of the marks scheduled on a link, in order: its switching instants less ADV (R253). -/
def Chip.marksDue (c : Chip) (l : Nat) : List Nat :=
  (((c.pg (l / 2)).plan.filter fun e => e.high == (l % 2 == 0) && !e.drop).map fun e =>
    e.at_ - c.get ⟨R.GLNK.ADV (l / 8) (l % 8), 0, 16⟩)

/-- The first instant from `t` at which a forward frame can start: it ends at least 60 ns before each scheduled leading edge,
or follows its mark of 32 ns and four idle bits (R266, R268, R269). -/
def frameSlot : List Nat → Nat → Nat
  | [], t => t
  | m :: r, t => if m + 2867 < t ∨ t + frameLen + 1536 ≤ m then frameSlot r t else frameSlot r (m + 2868)

/-- The next gap for a frame on a link (R268), after four idle bits behind a frame that is on its way. -/
def Chip.frameGap (c : Chip) (l t : Nat) : Nat :=
  let after (t : Nat) (f : Option Nat) : Nat :=
    match f with | some u => if u ≤ t ∧ t < u + frameLen + 2048 then u + frameLen + 2048 else t | none => t
  frameSlot (c.marksDue l) (after (after t (c.link l).loopAt) ((c.link l).cmd.map fun q => q.2.2.2))

/-- A frame after a mark at `t`: one in progress is aborted and sent again in the next gap, one that had not started waits
for it (R268). -/
def Chip.resend (c : Chip) (l t u : Nat) : Nat := if t + 2868 ≤ u ∨ u + frameLen ≤ t then u else frameSlot (c.marksDue l) (t + 2868)

/-- A mark leaves on a READY link (R266, R268, R272): a GATE frame is expected within 2 µs of its execution, and a forward
frame in progress, of the host or the LOOP of an idle link, is aborted and sent again. -/
def Chip.mark (c : Chip) (l : Nat) (on soft : Bool) (lead : Nat) : Chip :=
  if c.linkState l ≠ lkReady then c
  else
    let i := l / 8
    let j := l % 8
    let t := c.st - lead
    let c1 := c.setb (F.GLNK.LSTAT.CMD_ON i j) on
    let c2 := if on then c1 else c1.setb (F.GLNK.LSTAT.SOFT_LAST i j) soft
    let busy (f : Option Nat) : Bool := match f with | some u => decide (u ≤ t ∧ t < u + frameLen) | none => false
    let c3 := if busy ((c.link l).cmd.map fun q => q.2.2.2) || busy (c.link l).loopAt then c2.inc ⟨R.GLNK.ERR_CNT i j, 16, 16⟩ else c2
    c3.updLink l fun x => { x with
      lastMark := c.st
      gate := if c.on (F.GLNK.LCFG.GCHK_EN i j) then some (on, t + 1280 + 2 * Config.us) else none
      gateLate := false
      cmd := x.cmd.map fun q => (q.1, q.2.1, q.2.2.1, c.resend l t q.2.2.2)
      loopAt := x.loopAt.map fun u => c.resend l t u }

/-! ### Groups (R244) -/

/-- The group of a leg: 0–7, or one of its own as 8 + leg. -/
def Chip.groupOf (c : Chip) (n : Nat) : Nat := if c.on (F.PG.PGCFG.GRP_EN n) then c.get (F.PG.PGCFG.GROUP n) else 8 + n

/-- The legs of a group. -/
def Chip.groupLegs (c : Chip) (g : Nat) : List Nat := (List.range 40).filter fun n => c.groupOf n == g

/-! ### Actions on a leg (R256–R259) -/

/-- The action of a line on a leg. -/
def Chip.lineAction (c : Chip) (line leg : Nat) : Nat := c.get ⟨R.TRIP.LACT0 line + 4 * (leg / 16), 2 * (leg % 16), 2⟩

/-- Leg of phase `j` of a CONV page, when it is VALID (Table 10.10). -/
def Chip.phLeg (c : Chip) (k j : Nat) : Option Nat :=
  let b := bits (c.rd (R.CONV.PH_MAP0 k + 4 * (j / 4))) (8 * (j % 4)) 8
  if b / 128 = 1 then some (b % 64) else none

/-- The phases of a CONV that list a leg. -/
def Chip.phasesOf (c : Chip) (k n : Nat) : List Nat := (List.range 8).filter fun j => c.phLeg k j == some n

/-- Codes of the converter states (Table 10.3). -/
abbrev cvOff : Nat := 0
abbrev cvSoft : Nat := 1
abbrev cvRun : Nat := 2
abbrev cvHiccup : Nat := 3
abbrev cvLatched : Nat := 4
abbrev cvOutLost : Nat := 5
abbrev cvInLost : Nat := 6

/-- A CONV forces a leg off: it is neither in SOFT_START nor in RUN, or the leg's phase is inactive (R324). A page with
EN = 0 gives way to an enabled page that lists the leg. -/
def Chip.convForce (c : Chip) (n : Nat) : Bool :=
  let lists := (List.range 8).filter fun k => !(c.phasesOf k n).isEmpty
  let enabled := lists.filter fun k => c.on (F.CONV.CTRL.EN k)
  (if enabled.isEmpty then lists else enabled).any fun k =>
    let st := c.get (F.CONV.STATUS.STATE k)
    !(st == cvSoft || st == cvRun) || (c.phasesOf k n).any fun j => !c.on (bitOf (R.CONV.CV_STAT k) (4 + j))

/-- DUTY and PHASE of a leg are written by an enabled CONV of TYPE INTERLEAVED (R323). -/
def Chip.convDrives (c : Chip) (n : Nat) : Bool :=
  (List.range 8).any fun k => c.on (F.CONV.CTRL.EN k) && c.get (F.CONV.CVCFG.TYPE k) == 0 && !(c.phasesOf k n).isEmpty

/-- The actions of lines and of HFORCE on a leg, with their softness. -/
def Chip.lineActions (c : Chip) (n : Nat) : List (Nat × Bool) :=
  ((List.range 32).filter fun l => c.on (bitOf R.TRIP.LINE_ACTIVE l) && c.lineAction l n != 0).map
      (fun l => (c.lineAction l n, c.on (F.TRIP.LCFG.SOFT l)))
    ++ (let h := bits (c.rd (R.PG.HFORCE n)) 0 2; if h = 0 then [] else [(h, false)])

/-- The actions in force on a leg: lines, HFORCE, and the force of a CONV. -/
def Chip.actions (c : Chip) (n : Nat) : List (Nat × Bool) := c.lineActions n ++ (if c.convForce n then [(1, false)] else [])

/-- The prevailing action: force off, then low side on, then hold; soft when a prevailing line is (R256). -/
def prevailing (l : List (Nat × Bool)) : Nat × Bool :=
  let code := l.foldl (fun m a => if m = 0 ∨ a.1 < m then a.1 else m) 0
  (code, l.any fun a => a.1 == code && a.2)

/-! ### The output stage (Table 8.10) -/

/-- Codes of a leg's STATE. -/
abbrev lgOff : Nat := 0
abbrev lgRun : Nat := 1
abbrev lgForced : Nat := 2
abbrev lgTripped : Nat := 3
abbrev lgUv : Nat := 4
abbrev lgLink : Nat := 5
abbrev lgSto : Nat := 6

/-- The group of a leg is between the classification of a double event and Isaenaim's response (R263 step 1). -/
def Chip.scForced (c : Chip) (n : Nat) : Bool :=
  match Tab.find c.scResp (c.groupOf n) with | some r => !r.done | none => false

/-- STATE of a leg: the STO cut, an under-voltage hold, EN = 0, links that are not READY, the interlock, Isaenaim and
short-circuit forces, TRIPPED, line actions, RUN, in this order (log 25). -/
def Chip.legState (c : Chip) (n : Nat) : Nat :=
  let x := c.pg n
  if c.on F.SAFE.STO_STAT.CUT_B then lgSto
  else if x.uvBst ≠ 0 ∨ x.uvVg ≠ 0 then lgUv
  else if !c.on (F.PG.CTRL.EN n) then lgOff
  else if n < 24 ∧ (c.linkState (2 * n) ≠ lkReady ∨ c.linkState (2 * n + 1) ≠ lkReady) then lgLink
  else if x.interlocked then lgTripped
  else if x.isn.isSome ∨ c.scForced n then lgForced
  else if x.tripped then lgTripped
  else if !(c.actions n).isEmpty ∨ x.wait.isSome then lgForced
  else lgRun

/-- The outputs a force gives: high side, low side, softness of a turn-off, and the code of a line action. -/
def Chip.forcedOut (c : Chip) (n : Nat) : Bool × Bool × Bool × Nat :=
  let x := c.pg n
  match x.isn with
  | some .off => (false, false, false, 0)
  | some (.asc high) => (high, !high, false, 0)
  | none =>
    if c.scForced n then (false, false, true, 0)
    else
      let a := match c.actions n with
        | [] => x.wait.getD (0, false)
        | l => prevailing l
      let hs := c.on (F.PG.STATUS.HS n)
      let ls := c.on (F.PG.STATUS.LS n)
      match a.1 with
      | 2 => (false, ls || (match x.lowAt with | some t => decide (t ≤ c.st) | none => false), a.2, 2)
      | 3 => (hs, ls, false, 3)
      | _ => (false, false, a.2, 1)

/-- The outputs a leg's state gives; an under-voltage of the bootstrap alone leaves the low side switching (R282). -/
def Chip.wantedOut (c : Chip) (n : Nat) : Bool × Bool × Bool × Nat :=
  let x := c.pg n
  let hs := c.on (F.PG.PG_STAT.HS_CMD n)
  let ls := c.on (F.PG.PG_STAT.LS_CMD n)
  let st := c.legState n
  if st = lgRun then (hs, ls, false, 0)
  else if st = lgForced then c.forcedOut n
  else if st = lgUv ∧ x.uvVg = 0 ∧ c.on (F.PG.CTRL.EN n) ∧ !x.interlocked ∧ !x.tripped then
    (if x.isn.isSome || c.scForced n || !(c.actions n).isEmpty || x.wait.isSome then
       let f := c.forcedOut n
       (false, f.2.1, f.2.2.1, f.2.2.2)
     else (false, ls, false, 0))
  else (false, false, false, 0)

/-- PG_STAT shows the leg; its tag increments at every change of the bits [5:0] (Table 8.10). -/
def Chip.tagPg (c : Chip) (n : Nat) (before : Word) : Chip :=
  if bits (c.rd (R.PG.PG_STAT n)) 0 6 = bits before 0 6 then c else c.bump (F.PG.PG_STAT.TAG n)

/-- A turn-on of an LV output (side 0 high, 1 low) is counted; every 2^QG_K-th is to be measured (R284). -/
def Chip.countCharge (c : Chip) (n side : Nat) : Chip :=
  if n < 24 ∨ !c.on (F.LVDRV.CTRL.EN (n - 24)) ∨ !c.on (F.LVDRV.DCFG.QG_EN (n - 24)) then c
  else { c with charges := Tab.upd c.charges (0, false) (2 * (n - 24) + side) fun x =>
    let k := (x.1 + 1) % 2 ^ c.get (F.LVDRV.DCFG.QG_K (n - 24))
    (k, x.2 || k == 0) }

/-- Both outputs of a leg take their states: marks leave, and turn-ons are counted (R252, R253). -/
def Chip.drive (c : Chip) (n : Nat) (hs ls soft : Bool) (lead : Bool) : Chip :=
  let side (c : Chip) (k : Nat) (f : Fld) (on : Bool) : Chip :=
    if c.on f = on then c
    else
      let l := 2 * n + k
      let c1 := c.setb f on
      let c2 := if n < 24 then c1.mark l on soft (if lead then c1.get ⟨R.GLNK.ADV (l / 8) (l % 8), 0, 16⟩ else 0) else c1
      if on then ({ c2 with switched := Tab.upd c2.switched 0 n fun k => min (k + 1) (2 ^ 48 - 1) }.countCharge n k) else c2
  side (side c 0 (F.PG.STATUS.HS n) hs) 1 (F.PG.STATUS.LS n) ls

/-- What a leg waited for until its period point is over (R258, R282). -/
def PgSt.resume (x : PgSt) : PgSt :=
  { x with wait := none, uvBst := if x.uvBst = 2 then 0 else x.uvBst, uvVg := if x.uvVg = 2 then 0 else x.uvVg }

/-- A leg's outputs are resolved: state, forces, the interlock, counts and status (R254–R259). -/
def Chip.resolveLeg (c : Chip) (n : Nat) (lead : Bool) : Chip :=
  let before := c.rd (R.PG.PG_STAT n)
  let was := c.get (F.PG.STATUS.STATE n)
  let c0 := if c.on (F.PG.CTRL.EN n) then c else c.updPg n PgSt.resume
  -- a forced low side turns on DT_HL after the force began
  let low := match c0.actions n with
    | [] => (match (c0.pg n).wait with | some (2, _) => true | _ => false)
    | l => (prevailing l).1 == 2
  let c1 := c0.updPg n fun x => { x with
    lowAt := if low then (match x.lowAt with | some t => some t | none => some (c0.st + (c0.pg n).dtHl)) else none }
  let o := c1.wantedOut n
  let both := o.1 && o.2.1
  let c2 := if both then ((c1.updPg n fun x => { x with interlocked := true }).raise (F.PG.STICKY.INTERLOCK n)).inc
      (whole (R.PG.INTLK_CNT n)) else c1
  let st := c2.legState n
  let c3 := (c2.set (F.PG.STATUS.STATE n) st).set (F.PG.PG_STAT.STATE n) st
  let c4 := if st = lgForced ∧ was ≠ lgForced then c3.inc (whole (R.PG.TRIP_CNT n)) else c3
  ((if both then c4.drive n false false false false else c4.drive n o.1 o.2.1 o.2.2.1 lead)).tagPg n before

/-- Several legs are resolved. -/
def Chip.resolveAll (c : Chip) (l : List Nat) : Chip := l.foldl (fun (c : Chip) n => c.resolveLeg n false) c

/-! ### Lines (R255, R258, R289) -/

/-- A source drives a line (R255). -/
def Chip.driven (c : Chip) (line : Nat) : Bool :=
  c.lineDriven line || c.on (bitOf R.TRIP.SW_FORCE line) || c.isnLines.contains line
  || ((List.range 48).any fun l =>
      let i := l / 8
      let j := l % 8
      (c.on (F.GLNK.LCFG.DESAT_EN i j) && c.get (F.GLNK.LCFG.DESAT_LINE i j) == line && c.on (bitOf (R.GLNK.DESAT_MAP i) j))
      || (c.on (F.GLNK.LCFG.LOST_EN i j) && c.get (F.GLNK.LCFG.LOST_LINE i j) == line && c.on (bitOf (R.GLNK.LOST_MAP i) j))
      || (c.on (F.GLNK.LCFG.GFLT_EN i j) && c.get (F.GLNK.LCFG.GFLT_LINE i j) == line && (c.link l).gateFault
          && c.on (F.GLNK.STICKY.GATE_FAULT i)))
  || ((List.range 16).any fun n =>
      (c.on (F.LVDRV.UV_CFG.BST_TRIP_EN n) && c.get (F.LVDRV.UV_CFG.BST_LINE n) == line && c.on (F.LVDRV.DSTAT.BST_UV n))
      || (c.on (F.LVDRV.UV_CFG.VG_TRIP_EN n) && c.get (F.LVDRV.UV_CFG.VG_LINE n) == line && c.on (F.LVDRV.DSTAT.VG_UV n)))

/-- The legs a line acts on. -/
def Chip.lineLegs (c : Chip) (line : Nat) : List Nat := (List.range 40).filter fun n => c.lineAction line n != 0

/-- A line becomes active (R255, R256, R289). -/
def Chip.lineOn (c : Chip) (line : Nat) : Chip :=
  if c.on (bitOf R.TRIP.LINE_ACTIVE line) || !c.driven line then c
  else
    let c1 := ((c.raise (bitOf R.TRIP.LINE_ACTIVE line)).raise (bitOf R.TRIP.LINE_SEEN line)).raise F.TRIP.STICKY.LINE_ACT
    let c2 := if c1.on (F.TRIP.LCFG.ISN_REPORT line) then c1.report 24 line else c1
    -- the current-limit lines of the converters are watched within their periods (R329)
    let c3 := upto 8 (fun c k =>
      if c.get (F.CONV.CVCFG.CL_LINE k) = line then { c with convs := Tab.upd c.convs {} k fun x => { x with limited := true } } else c) c2
    ((c3.lineLegs line).foldl (fun (c : Chip) n => c.raise (F.PG.STICKY.TRIPPED n)) c3).resolveAll (c3.lineLegs line)

/-- A line becomes inactive (R258): its legs resume at their next period point, or stay TRIPPED. -/
def Chip.lineOff (c : Chip) (line : Nat) : Chip :=
  if !c.on (bitOf R.TRIP.LINE_ACTIVE line) || c.driven line then c
  else
    let c1 := c.clr (bitOf R.TRIP.LINE_ACTIVE line)
    let c2 := (c.lineLegs line).foldl (fun (c : Chip) n =>
      if !c.on (F.TRIP.LCFG.RESUME line) then c.updPg n fun x => { x with tripped := true }
      else if c.on (F.PG.CTRL.EN n) then
        let a := (c.lineAction line n, c.on (F.TRIP.LCFG.SOFT line))
        c.updPg n fun x => { x with wait := some (match x.wait with | some w => prevailing [w, a] | none => a) }
      else c) c1
    c2.resolveAll (c2.lineLegs line)

/-! ### Short-circuit pairs (R260) -/

/-- The conditions of an enabled pair, for a value of its register. -/
def Chip.scpHolds (c : Chip) (v : Word) : Bool :=
  let p := bits v 0 7
  let h := bits v 7 7
  let leg := bits v 14 6
  let zero : Int := bits v 20 10
  let th (k : Nat) : Int := bits (c.rd (R.CMPG.CTH (k / 8) (k % 8))) 0 10
  let pol := c.on (F.CMPG.CCFG.POL (p / 8) (p % 8))
  let far (k : Nat) : Int := if pol then zero - th k else th k - zero
  let acts (k : Nat) : Bool :=
    c.on (F.CMPG.CTRIP.LINE_EN (k / 8) (k % 8)) && c.lineAction (c.get (F.CMPG.CTRIP.LINE (k / 8) (k % 8))) leg != 0
  let blank (k : Nat) : Nat := c.get (F.CMPG.CBLANK.BLANK_LEG (k / 8) (k % 8))
  p < 96 && h < 96 && leg < 40
    && c.get (F.CMPG.CCFG.INSEL (p / 8) (p % 8)) == c.get (F.CMPG.CCFG.INSEL (h / 8) (h % 8))
    && pol == c.on (F.CMPG.CCFG.POL (h / 8) (h % 8))
    && blank p == leg && c.get (F.CMPG.CBLANK.BLANK_T (p / 8) (p % 8)) != 0
    && (40 ≤ blank h || c.get (F.CMPG.CBLANK.BLANK_T (h / 8) (h % 8)) == 0)
    && c.get (F.CMPG.CCFG.MODE (h / 8) (h % 8)) == 0
    && decide (0 < far p) && decide (0 < far h) && decide (3 * far p ≤ 2 * far h) && acts p && acts h

/-- The bit of SCP_BROKEN for a pair. -/
def scpBroken (k : Nat) : Fld := if k < 32 then bitOf R.TRIP.SCP_BROKEN_LO k else bitOf R.TRIP.SCP_BROKEN_HI (k - 32)

/-- SCP_BROKEN shows which enabled pairs break a condition; a new break is flagged and reported (R260). -/
def Chip.scpCheck (c : Chip) : Chip :=
  upto 40 (fun c k =>
    if !c.on (F.TRIP.SCP.EN k) then c
    else
      let bad := !c.scpHolds (c.rd (R.TRIP.SCP k))
      let c1 := c.setb (scpBroken k) bad
      if bad && !c.on (scpBroken k) then (c1.raise F.TRIP.STICKY.SCP_BROKEN).report 13 k else c1) c

/-- A write to SCPp (R260). -/
def Chip.scpWrite (c : Chip) (w : Acc) (k : Nat) : Chip :=
  let old := c.rd w.addr
  let v := w.val &&& 0xBFFFFFFF#32
  let onlyEn := v.extractLsb' 0 31 == old.extractLsb' 0 31
  let en := bits v 31 1 == 1
  if v == old || (!onlyEn && (en || c.on (F.TRIP.SCP.EN k))) then c.reject w rState true
  else if en && !c.on (F.TRIP.SCP.EN k) && !c.scpHolds v then c.reject w rParam true
  else ((c.wr w.addr v).clr (scpBroken k)).scpCheck

/-! ### Short-circuit events (R262–R264) -/

/-- Two events lie 60 ns or less apart; at exactly 60 ns the arbiter takes them as partners (R262, log 7). -/
def ScEvent.near (a b : ScEvent) : Bool := a.group == b.group && a.ts ≤ b.ts + 1536 && b.ts ≤ a.ts + 1536

/-- The DESATs of both links of one leg, which count as two events (R262). -/
def ScEvent.bothLinks (a b : ScEvent) : Bool := a.leg == b.leg && a.link.isSome && b.link.isSome && a.link != b.link

/-- A bank has reported among some events of a group: the high one, or the low (R264). -/
def reported (l : List ScEvent) (g : Nat) (high : Bool) : Bool := l.any fun e => e.group == g && e.link == some high

/-- A double event is classified: every leg of the group is forced off softly, and Isaenaim is informed (R263 steps 1, 2). A
group that already stands in a response stays in it, with what the banks have reported. -/
def Chip.scDouble (c : Chip) (a b : ScEvent) : Chip :=
  let late := if a.ts ≤ b.ts then b else a
  let early := if a.ts ≤ b.ts then a else b
  let kind := if a.leg = b.leg then 2 else 3
  let g := a.group
  let word := kind + c.get (F.PG.PGCFG.GROUP a.leg) * 2 ^ 4 + early.leg * 2 ^ 8 + late.leg * 2 ^ 16
  let evs := a :: b :: c.scEvents.filter fun e => e.near a || e.near b
  let resp : ScResp := match Tab.find c.scResp g with
    | some r => if r.done then r else { r with high := r.high || reported evs g true, low := r.low || reported evs g false }
    | none => { tb := late.ts, high := reported evs g true, low := reported evs g false, done := false }
  let c1 := { c with scResp := Tab.put c.scResp g resp }
  let c2 := ((c1.wr R.TRIP.SC_EVENT (wd word)).set64 R.TRIP.SC_ST_LO R.TRIP.SC_ST_HI late.ts).inc
    (if kind = 2 then F.TRIP.SC_CNT.SHOOT_THROUGH else F.TRIP.SC_CNT.PHASE_TO_PHASE)
  let legs := c2.groupLegs g
  let c3 := legs.foldl (fun (c : Chip) n => c.updPg n fun x => { x with tripped := true }) (c2.raise F.TRIP.STICKY.SC_DOUBLE)
  ((c3.resolveAll legs).report 15 a.leg).recordOpen 13 5

/-- A DESAT during SOFT_HOLD is a report of its bank (R264). -/
def Chip.scBank (c : Chip) (e : ScEvent) : Chip :=
  match Tab.find c.scResp e.group with
  | some r => if r.done then c else
    { c with scResp := Tab.put c.scResp e.group { r with high := r.high || e.link == some true, low := r.low || e.link == some false } }
  | none => c

/-- A short-circuit event on a leg (R262): DESATs of both its links, or an event of another leg of its group, 60 ns or less
away classify it; with an earlier event of its own leg it counts as one; else it waits for a partner. -/
def Chip.scEvent (c : Chip) (leg ts : Nat) (link : Option Bool) : Chip :=
  let e : ScEvent := { group := c.groupOf leg, leg := leg, ts := ts, link := link, used := false }
  let c0 := { c with scEvents := c.scEvents.filter fun p => !p.used || p.near e }.scBank e
  let close := c0.scEvents.filter fun p => p.near e
  let classify (p : ScEvent) : Chip :=
    { c0 with scEvents := (c0.scEvents.map fun (x : ScEvent) => if x.near e && (x.leg == e.leg || x.leg == p.leg) then { x with used := true } else x)
      ++ [{ e with used := true }] }.scDouble p e
  match close.find? (ScEvent.bothLinks e), close.find? (fun p => p.leg == leg), close.find? (fun p => p.leg != leg) with
  | some p, _, _ => classify p
  | none, some _, _ => { c0 with scEvents := c0.scEvents ++ [{ e with used := true }] }
  | none, none, some p => classify p
  | none, none, none => { c0 with scEvents := c0.scEvents ++ [e] }

/-- The comparators whose latch has set between two states of the device, as device numbers. -/
def newLatches (before after : Chip) : List Nat :=
  (List.range 96).filter fun k => !before.on (fLatched (k / 8) (k % 8)) && after.on (fLatched (k / 8) (k % 8))

/-- The first latch set of either comparator of an enabled pair is a short-circuit event of its leg (R262). -/
def Chip.scLatches (c before : Chip) : Chip :=
  (newLatches before c).foldl (fun (c : Chip) k =>
    upto 40 (fun c p =>
      let pc := c.get (F.TRIP.SCP.P_CMP p)
      let hc := c.get (F.TRIP.SCP.H_CMP p)
      let other := if pc = k then hc else pc
      if c.on (F.TRIP.SCP.EN p) && (pc == k || hc == k) && !before.on (fLatched (other / 8) (other % 8))
      then c.scEvent (c.get (F.TRIP.SCP.LEG p)) c.st none else c) c) c

/-- A change of a comparator group, with the short-circuit events of its latches. -/
def Chip.withSc (c : Chip) (f : Chip → Chip) : Chip := (f c).scLatches c

/-- An event of a leg has found no partner within 60 ns: SINGLE (R262). -/
def Chip.scSingle (c : Chip) (leg : Nat) : Chip :=
  match c.scEvents.find? fun e => e.leg == leg && !e.used with
  | none => c
  | some e =>
    let c1 := { c.goto (e.ts + 1536) with scEvents := c.scEvents.filter fun x => x != e }
    let word := 1 + c.get (F.PG.PGCFG.GROUP leg) * 2 ^ 4 + leg * 2 ^ 8 + leg * 2 ^ 16
    ((((c1.wr R.TRIP.SC_EVENT (wd word)).set64 R.TRIP.SC_ST_LO R.TRIP.SC_ST_HI e.ts).inc F.TRIP.SC_CNT.SINGLE).raise
      F.TRIP.STICKY.SC_SINGLE).report 14 leg

/-- Isaenaim forces legs (R263, R398). -/
def Chip.isnForce (c : Chip) (legs : List Nat) (f : Option IsnForce) : Chip :=
  let c1 := legs.foldl (fun (c : Chip) n => c.updPg n fun x => { x with isn := f }) c
  let c2 := match f with | some (.asc _) => c1.raise F.TRIP.STICKY.ASC_APPLIED | _ => c1
  c2.resolveAll legs

/-- The response of Isaenaim at SOFT_HOLD: active short circuit on a fault-free bank at speed, else freewheel (R263, R264). -/
def Chip.scRespond (c : Chip) (leg : Nat) : Chip :=
  let g := c.groupOf leg
  match Tab.find c.scResp g with
  | none => c
  | some r =>
    if r.done then c
    else
      let k := c.get (F.PG.PGCFG.GROUP leg)
      let c1 := c.goto (r.tb + max 1 (c.get (F.TRIP.GRP_SC.SOFT_HOLD k)) * Config.us)
      let bank : Option Bool :=
        if r.high && r.low then none else if r.high then some false else if r.low then some true
        else some (c1.on (F.TRIP.GRP_SC.DEF_BANK k))
      let f : IsnForce := match bank with
        | some b => if c1.speedAbove k (c1.get (F.TRIP.GRP_SC.UCG_SPEED k)) then .asc b else .off
        | none => .off
      let c2 := { c1 with scResp := Tab.put c1.scResp g { r with done := true } }
      let c3 := c2.raise F.TRIP.SC_EVENT.RESP_DONE
      let c4 := match f with
        | .asc b => (c3.raise F.TRIP.SC_EVENT.ASC).setb F.TRIP.SC_EVENT.BANK b
        | .off => c3
      c4.isnForce (c4.groupLegs g) (some f)

/-- Isaenaim releases a group from its response (R263 step 4). -/
def Chip.scRelease (c : Chip) (leg : Nat) : Chip :=
  let g := c.groupOf leg
  match Tab.find c.scResp g with
  | some r => if r.done then { c with scResp := Tab.del c.scResp g }.isnForce (c.groupLegs g) none else c
  | none => c

/-! ### TRIP_CLR, HFORCE and the TRIP page -/

/-- TRIP_CLR of a leg (R258). -/
def Chip.tripClr (c : Chip) (w : Acc) : Chip :=
  let n := w.inst
  if !(c.lineActions n).isEmpty || (c.pg n).isn.isSome || (Tab.find c.scResp (c.groupOf n)).isSome then c.reject w rState false
  else (c.updPg n fun x => { x with tripped := false, interlocked := false }).resolveLeg n false

/-- A write to HFORCE (R259): 00b lets the leg resume at its next period point. -/
def Chip.hforce (c : Chip) (n v : Nat) : Chip :=
  let old := bits (c.rd (R.PG.HFORCE n)) 0 2
  let c1 := c.wr (R.PG.HFORCE n) (wd v)
  let c2 := if old ≠ 0 ∧ v = 0 ∧ c.on (F.PG.CTRL.EN n) then
      c1.updPg n fun x => { x with wait := some (match x.wait with | some w => prevailing [w, (old, false)] | none => (old, false)) }
    else c1
  (c2.raiseIf (v ≠ 0 && v ≠ old) (F.PG.STICKY.TRIPPED n)).resolveLeg n false

/-- A write to a register of the TRIP page (R258, R260, R289). -/
def Trip.onWrite (w : Acc) (c : Chip) : Chip :=
  if w.off = 0x5C then c.clearFields w.val [whole R.TRIP.SC_CNT]
  else if 0x80 ≤ w.off ∧ w.off < 0xA0 then
    let g := (w.off - 0x80) / 4
    if (Tab.find c.scResp g).isSome then c.reject w rState true else c.store w
  else if 0x100 ≤ w.off ∧ w.off < 0x300 then
    if c.on (bitOf R.TRIP.LINE_ACTIVE ((w.off - 0x100) / 16)) then c.reject w rState true else (c.store w).scpCheck
  else if 0x300 ≤ w.off ∧ w.off < 0x3A0 then c.scpWrite w ((w.off - 0x300) / 4)
  else c.store w

def execTripLineInactive (line : Fin 32) (s : State) : Host.Outcome State Fault Refusal := s.nextChip fun c => c.lineOff line

def execTripClr (src : Source) (leg : Fin 40) (s : State) : Host.Outcome State Fault Refusal :=
  let w : Acc := { src := src, addr := R.PG.CTRL leg, val := s.chip.ctrlWith (R.PG.ID leg) 8 }
  s.nextGated w fun c => c.tripClr w

def execSwForceWrite (src : Source) (v : Word) (s : State) : Host.Outcome State Fault Refusal :=
  let w : Acc := { src := src, addr := R.TRIP.SW_FORCE, val := v }
  s.nextGated w (Trip.onWrite w)

def execScpWrite (src : Source) (k : Fin 40) (v : Word) (s : State) : Host.Outcome State Fault Refusal :=
  let w : Acc := { src := src, addr := R.TRIP.SCP k, val := v }
  s.nextGated w (Trip.onWrite w)

def execScSingleTimeout (leg : Fin 40) (s : State) : Host.Outcome State Fault Refusal := s.nextChip fun c => c.scSingle leg

def execScSoftHoldExpire (leg : Fin 40) (s : State) : Host.Outcome State Fault Refusal := s.nextChip fun c => c.scRespond leg

def execScGroupRelease (leg : Fin 40) (s : State) : Host.Outcome State Fault Refusal := s.nextChip fun c => c.scRelease leg

/-! ### Events of the comparators (R203–R212) -/

def execComparatorEnable (src : Source) (g : Fin 12) (s : State) : Host.Outcome State Fault Refusal :=
  let w : Acc := { src := src, addr := R.CMPG.CTRL g, val := s.chip.ctrlWith (R.CMPG.ID g) 0 }
  s.nextGated w (Cmpg.setEn g true)

def execComparatorFirstDecision (g : Fin 12) (i : Fin 8) (level : BitVec 31) (at_ : Nat) (s : State) : Host.Outcome State Fault Refusal :=
  s.nextChip fun c => c.withSc fun c => c.firstDecision g i level.toNat at_

def execComparatorInputCrossing (g : Fin 12) (i : Fin 8) (level : BitVec 31) (at_ : Nat) (s : State) :
    Host.Outcome State Fault Refusal :=
  s.nextChip fun c => (c.goto at_).withSc fun c => c.crossing g i level.toNat

def execBlankingClose (g : Fin 12) (i : Fin 8) (s : State) : Host.Outcome State Fault Refusal :=
  s.nextChip fun c => c.withSc fun c => c.blankClose g i

def execLatchClear (src : Source) (g : Fin 12) (bits : BitVec 8) (s : State) : Host.Outcome State Fault Refusal :=
  let w : Acc := { src := src, addr := R.CMPG.LATCH_CLR g, val := bits.setWidth 32 }
  s.nextGated w (Cmpg.onWrite w)

def execCcfgWrite (src : Source) (g : Fin 12) (i : Fin 8) (v : Word) (s : State) : Host.Outcome State Fault Refusal :=
  let w : Acc := { src := src, addr := R.CMPG.CCFG g i, val := v }
  s.nextGated w fun c => (Cmpg.onWrite w c).scpCheck

end Sys2Proof.Machine
end

