-- ==== Sys2Proof/Machine/Pulse.lean ====
section
/-! DEFINITION. The timebase of the pulse generators: groups and masters, placed edges, captures, syncs and the PG page
(R244–R252, R259, R286). -/

namespace Sys2Proof.Machine

/-- A start is in progress (R475). -/
def Chip.starting (c : Chip) : Bool := c.phase == .cold || c.phase == .warm

/-- A page that cannot be enabled during a start (R475). -/
def Chip.unlessStarting (c : Chip) (w : Acc) (f : Chip → Chip) : Chip :=
  if c.starting then c.reject w rState (!carriesCommand w.addr w.val) else f c

def Chip.legOn (c : Chip) (n : Nat) : Bool := c.on (F.PG.CTRL.EN n)

/-- The enabled legs of the group of a leg. -/
def Chip.groupOn (c : Chip) (n : Nat) : List Nat := (c.groupLegs (c.groupOf n)).filter fun m => c.legOn m

/-- The master of the group of a leg (R244). -/
def Chip.masterOf (c : Chip) (n : Nat) : Option Nat := (c.groupOn n).find? fun m => (c.pg m).master

/-- A member that follows its master's outputs (R250). -/
def Chip.ganged (c : Chip) (n : Nat) : Bool := c.on (F.PG.PGCFG.GANG n) && !(c.pg n).master

/-- The prevailing action on a leg is hold: its edges and commits are suspended, in whatever STATE the leg is (R256). -/
def Chip.heldLeg (c : Chip) (n : Nat) : Bool := (c.forcedOut n).2.2.2 == 3

/-- The group of a leg is in a period: some enabled member runs it. -/
def Chip.groupRuns (c : Chip) (n : Nat) : Bool := (c.groupOn n).any fun m => (c.pg m).joined

/-! ### The ideal signal H (R245) -/

/-- Level of H at the start of a period of `t` ticks and its edges within it. -/
def idealShape (centre : Bool) (on phi t : Nat) : Bool × List (Nat × Bool) :=
  if on = 0 then (false, [])
  else if t ≤ on then (true, [])
  else
    let rise := (if centre then t / 2 + phi - on / 2 else phi) % t
    let fall := (rise + on) % t
    if rise = 0 then (true, [(fall, false)])
    else if fall = 0 then (false, [(rise, true)])
    else if rise < fall then (false, [(rise, true), (fall, false)])
    else (true, [(fall, false), (rise, true)])

/-- H of a leg over a period from `tk`: its level there, and its edges by ST. -/
def Chip.ideal (c : Chip) (n tk t : Nat) : Bool × List (Nat × Bool) :=
  let on := (rnd ((c.rd (R.PG.DUTY_ACT n)).toNat * t : Nat) (2 ^ 31)).toNat
  let phi := (rnd ((c.rd (R.PG.PHASE_ACT n)).toNat * t : Nat) (2 ^ 31)).toNat
  let mode := c.get (F.PG.PGCFG.CNTMODE n)
  if mode = 2 then
    match (c.pg n).shot with
    | none => (false, [])
    | some te =>
      let rise := te + phi
      let fall := rise + on
      if on = 0 then (false, [])
      else (decide (rise ≤ tk ∧ tk < fall), [(rise, true), (fall, false)].filter fun e => decide (tk < e.1 ∧ e.1 < tk + t))
  else
    let s := idealShape (mode == 1) on phi t
    (s.1, s.2.map fun e => (tk + e.1, e.2))

/-- The edges of a sequence that change the level. -/
def levelChanges (h : Bool) : List (Nat × Bool) → List (Nat × Bool)
  | [] => []
  | e :: r => if e.2 = h then levelChanges h r else e :: levelChanges e.2 r

/-- Level of H after the edges before an instant. -/
def PgSt.hAt (x : PgSt) (t : Nat) : Bool := (x.hs.filter fun e => e.1 < t).foldl (fun _ e => e.2) x.h0

/-! ### Placed edges (R246, R247) -/

/-- Edges of one output for the edges of H: a turn-on waits for the dead time and is not produced when H turns back first. -/
def sideEdges (high : Bool) (dt : Nat) : List (Nat × Bool) → List PlanEdge
  | [] => []
  | (t, h) :: r =>
    let rest := sideEdges high dt r
    if h = high then
      let stands := match r with | (u, _) :: _ => decide (t + dt < u) | [] => true
      if stands then { from_ := t, at_ := t + dt, high := high, on := true, drop := false } :: rest else rest
    else { from_ := t, at_ := t, high := high, on := false, drop := false } :: rest

/-- The edges that change an output's level. -/
def planChanges (lvl : Bool) : List PlanEdge → List PlanEdge
  | [] => []
  | e :: r => if e.on = lvl then planChanges lvl r else e :: planChanges e.on r

/-- Intervals shorter than `m` are not produced: the edge that would open one is marked, the one that closes it goes (R247). -/
def minWidth (m : Nat) : List PlanEdge → List PlanEdge
  | a :: b :: r => if b.at_ - a.at_ < m then { a with drop := true } :: minWidth m r else a :: minWidth m (b :: r)
  | l => l

/-- Order of two placed edges: by time, turn-offs first. -/
def PlanEdge.before (a b : PlanEdge) : Bool := a.at_ < b.at_ || (a.at_ == b.at_ && !a.on && b.on)

/-- A placed edge takes its place in a plan. -/
def planInsert (e : PlanEdge) : List PlanEdge → List PlanEdge
  | [] => [e]
  | x :: r => if e.before x then e :: x :: r else x :: planInsert e r

/-- The plan of a leg from `tu` to the end of its period, for H at level `h` before `tu` and its edges from there; edges
that follow earlier edges of H stand. Lengths look one period ahead, under the values in force. -/
def Chip.planFrom (c : Chip) (n tu : Nat) (h : Bool) (hs : List (Nat × Bool)) : List PlanEdge :=
  let x := c.pg n
  let om := c.get (F.PG.PGCFG.OMODE n)
  let fin := x.tk + x.len
  let ahead := c.ideal n fin x.len
  let es := levelChanges h (hs ++ (fin, ahead.1) :: ahead.2)
  let kept := (x.plan.filter fun e => decide (e.from_ < tu)).filter fun e =>
    match es with | (t, _) :: _ => !(e.on && !e.drop && decide (t ≤ e.at_)) | [] => true
  let side (high : Bool) (dt : Nat) (cmd : Fld) : List PlanEdge :=
    let old := kept.filter fun e => e.high == high && !e.drop
    ((minWidth (bits (c.rd (R.PG.MIN_PW n)) 0 16) (planChanges (c.on cmd) (old ++ sideEdges high (if om = 0 then dt else 0) es)))).filter
      fun e => decide (e.from_ < fin)
  let hi := if om = 0 ∨ om = 1 then side true x.dtLh (F.PG.PG_STAT.HS_CMD n) else []
  let lo := if om = 0 ∨ om = 2 then side false x.dtHl (F.PG.PG_STAT.LS_CMD n) else []
  (hi ++ lo).foldl (fun l e => planInsert e l) (kept.filter fun e => e.drop)

/-- The plan of a leg at its period point. After a restart both outputs take the states of position 0 (R251). -/
def Chip.planPeriod (c : Chip) (n : Nat) (before restart : Bool) : Chip :=
  let x := c.pg n
  let s := c.ideal n x.tk x.len
  let h := if restart then !s.1 else before
  let plan := if c.ganged n then [] else c.planFrom n x.tk h ((x.tk, s.1) :: s.2)
  c.updPg n fun x => { x with h0 := s.1, hs := s.2, plan := plan }

/-- The edges at or after an instant within the period are placed anew (R245, R248). -/
def Chip.replan (c : Chip) (n tu : Nat) : Chip :=
  let x := c.pg n
  let h := x.hAt tu
  let new := levelChanges h ((c.ideal n x.tk x.len).2.filter fun e => decide (tu ≤ e.1))
  let plan := if c.ganged n then [] else c.planFrom n tu h new
  c.updPg n fun x => { x with hs := (x.hs.filter fun e => decide (e.1 < tu)) ++ new, plan := plan }

/-! ### Values in force (R248) -/

/-- PERIOD comes into force. -/
def Chip.takePeriod (c : Chip) (n : Nat) : Chip := c.wr (R.PG.PERIOD_ACT n) (c.rd (R.PG.PERIOD n))

/-- The other fields come into force. -/
def Chip.takeShape (c : Chip) (n : Nat) : Chip :=
  ((c.wr (R.PG.DUTY_ACT n) (c.rd (R.PG.DUTY n))).wr (R.PG.PHASE_ACT n) (c.rd (R.PG.PHASE n))).updPg n fun x =>
    { x with dtHl := bits (c.rd (R.PG.DT_HL n)) 0 16, dtLh := bits (c.rd (R.PG.DT_LH n)) 0 16 }

/-- A ganged member takes its master's values in force (R250). -/
def Chip.gangShape (c : Chip) (m n : Nat) : Chip :=
  ((c.wr (R.PG.DUTY_ACT n) (c.rd (R.PG.DUTY_ACT m))).wr (R.PG.PHASE_ACT n) (c.rd (R.PG.PHASE_ACT m))).updPg n fun x =>
    { x with dtHl := (c.pg m).dtHl, dtLh := (c.pg m).dtLh }

/-- A captured value out of range is clamped and CLAMP is set. -/
def Chip.pgClamp (c : Chip) (n a lo hi : Nat) : Chip :=
  let v := (c.rd a).toNat
  let u := max lo (min hi v)
  if u = v then c else (c.wr a (wd u)).raise (F.PG.STICKY.CLAMP n)

/-- After a commit of a PG page: clamps, and with EN = 0 the values come into force. -/
def Chip.pgCommitted (c : Chip) (n : Nat) : Chip :=
  let neg (c : Chip) (a : Nat) : Chip := if bits (c.rd a) 31 1 = 1 then (c.wr a 0).raise (F.PG.STICKY.CLAMP n) else c
  let c1 := c.pgClamp n (R.PG.PERIOD n) (if n < 24 then 128000 else 51200) 25600000
  let c2 := neg (neg c1 (R.PG.DUTY n)) (R.PG.PHASE n)
  let c3 := (c2.pgClamp n (R.PG.DT_HL n) 0 51200).pgClamp n (R.PG.DT_LH n) 0 51200
  if c.legOn n then c3 else (c3.takePeriod n).takeShape n

/-- UPD selects the period points, or the half-period points. -/
def Chip.updSelects (c : Chip) (n : Nat) (half : Bool) : Bool :=
  let u := c.get (F.PG.PGCFG.UPD n)
  if half then u == 1 || u == 2 else u != 1

/-- The capture of a leg: the pending fields whose instant this is apply (R248). -/
def Chip.pgCapture (c : Chip) (n : Nat) (half : Bool) : Chip :=
  let page := R.PG.ID n
  if !c.on (hCommitReq page) || c.on (hFreeze page) || c.inGroup page || c.heldLeg n then c
  else
    let own (a : Nat) : Bool := aPage a == page && (if a = R.PG.PERIOD n then !half else c.updSelects n half)
    let vs := c.shadow.filter fun e => own e.1
    let c1 := ({ c with shadow := Tab.drop own c.shadow }).applyShadows vs
    let c2 := if vs.isEmpty then c1 else (c1.bump (hCfgEpoch page)).pgCommitted n
    if (c2.shadowsOf page).isEmpty then c2.clr (hCommitReq page) else c2

/-- The capture instant before a period point or a half-period point of a group, given by its master (R248). -/
def Chip.captureAt (c : Chip) (leg : Nat) (half : Bool) : Option Nat :=
  let x := c.pg leg
  let point := if half then x.tk + x.len / 2 else x.next
  if !c.legOn leg || !x.master || (half && !c.groupRuns leg) || point < c.st + 5120 then none else some (point - 5120)

/-- The legs of a group capture, at the instant given for their master. -/
def Chip.captureGroup (c : Chip) (leg : Nat) (half : Bool) : Chip :=
  (c.groupOn leg).foldl (fun (c : Chip) n => if half && !(c.pg n).joined then c else c.pgCapture n half) c

/-! ### Enable, disable and mastership (R244) -/

/-- Rising threshold of the bootstrap lock-out of an LV leg, mV (Table 8.8). -/
def Chip.bstRise (c : Chip) (n : Nat) : Nat :=
  match c.get (F.LVDRV.DCFG.UVTH (n - 24)) with | 0 => 4500 | 1 => 7500 | _ => 10000

/-- DSTAT shows a bootstrap under-voltage; it is counted as it begins (R282). -/
def Chip.bstDown (c : Chip) (n : Nat) : Chip :=
  if c.on (F.LVDRV.DSTAT.BST_UV n) then c
  else ((c.raise (F.LVDRV.DSTAT.BST_UV n)).raise (F.LVDRV.STICKY.BST_UV n)).inc ⟨R.LVDRV.UV_CNT n, 0, 16⟩

/-- An LV leg enabled with its bootstrap below the rising threshold has its high side held off (R281). -/
def Chip.bootHold (c : Chip) (n : Nat) : Chip :=
  if n < 24 ∨ c.bstRise n ≤ c.get (F.LVDRV.SUPPLY.VBST (n - 24)) then c
  else ((c.bstDown (n - 24)).raise (F.PG.STICKY.UV_HOLD n)).updPg n fun x => { x with uvBst := 1 }

/-- A leg is enabled. -/
def Chip.pgEnable (c : Chip) (n : Nat) : Chip :=
  if c.legOn n then c
  else
    let m := c.masterOf n
    let c1 := c.raise (F.PG.CTRL.EN n)
    let fresh : PgSt → PgSt := fun x =>
      { x with master := false, joined := false, enAt := c.st, next := 0, h0 := false, hs := [], plan := [], shot := none, restart := false,
               wait := none, whole := false }
    let lead (c : Chip) (t : Nat) : Chip := c.updPg n fun x => { fresh x with master := true, next := t }
    let c2 := match m with
      | none => lead c1 (c.st + Config.us)
      | some k =>
        let y := c.pg k
        if n < k ∧ y.enAt = c.st ∧ y.next = c.st + Config.us then
          (lead c1 y.next).updPg k fun x => { x with master := false, next := 0 }
        else c1.updPg n fresh
    (c2.bootHold n).resolveLeg n false

/-- A command of a leg's outputs that is withdrawn. -/
def Chip.dropCommands (c : Chip) (n : Nat) : Chip :=
  ((c.clr (F.PG.PG_STAT.HS_CMD n)).clr (F.PG.PG_STAT.LS_CMD n)).tagPg n (c.rd (R.PG.PG_STAT n))

/-- A leg is disabled: both outputs go off, and the lowest-numbered enabled member takes over a master's period point. -/
def Chip.pgDisable (c : Chip) (n : Nat) : Chip :=
  if !c.legOn n then c
  else
    let x := c.pg n
    let before := c.rd (R.PG.PG_STAT n)
    let followers := if x.master then (c.groupOn n).filter fun m => c.ganged m else []
    let c1 := (((c.clr (F.PG.CTRL.EN n)).takePeriod n).takeShape n).updPg n fun x =>
      { x with master := false, joined := false, next := 0, h0 := false, hs := [], plan := [], shot := none, restart := false, whole := false }
    let c2 := match (if x.master then (c1.groupOn n).head? else none) with
      | some m => c1.updPg m fun y => { y with master := true, next := x.next, restart := x.restart, tk := x.tk, len := x.len }
      | none => c1
    let c3 := (((c2.clr (F.PG.PG_STAT.HS_CMD n)).clr (F.PG.PG_STAT.LS_CMD n)).clr (F.PG.PG_STAT.HALF n)).tagPg n before
    (followers.foldl (fun (c : Chip) m => (c.dropCommands m).resolveLeg m false) c3).resolveLeg n false

/-- EN of a leg is written. -/
def Pg.setEn (w : Acc) (on : Bool) (c : Chip) : Chip :=
  if on then (if c.legOn w.inst then c else c.unlessStarting w fun c => c.pgEnable w.inst) else c.pgDisable w.inst

def execPgEnable (src : Source) (leg : Fin 40) (s : State) : Host.Outcome State Fault Refusal :=
  let w : Acc := { src := src, addr := R.PG.CTRL leg, val := s.chip.ctrlWith (R.PG.ID leg) 0 }
  s.nextGated w (Pg.setEn w true)

def execPgDisable (src : Source) (leg : Fin 40) (s : State) : Host.Outcome State Fault Refusal :=
  let w : Acc := { src := src, addr := R.PG.CTRL leg, val := s.chip.rd (R.PG.CTRL leg) &&& ~~~1#32 }
  s.nextGated w (Pg.setEn w false)

/-! ### Switching (R246, R252, R253) -/

/-- An output of a leg is commanded: its edge opens blanking windows and is an event, unless the leg is held (R208, R252). -/
def Chip.place (c : Chip) (n : Nat) (high on : Bool) : Chip :=
  let f := if high then F.PG.PG_STAT.HS_CMD n else F.PG.PG_STAT.LS_CMD n
  if c.on f = on then c
  else
    let held := c.heldLeg n
    let c1 := (c.setb f on).tagPg n (c.rd (R.PG.PG_STAT n))
    (if held then c1 else (c1.blankEdge n c1.st).event evPg n ((if high then 2 else 4) + (!on).toNat) c1.st).resolveLeg n true

/-- The instant at which a forced low side turns on, while it is due (R256). -/
def Chip.lowDue (c : Chip) (n : Nat) : Option Nat :=
  match (c.pg n).lowAt with
  | none => none
  | some t => if !c.on (F.PG.STATUS.LS n) && ((c.goto t).wantedOut n).2.1 then some t else none

/-- The next placed edge of a leg occurs, or its forced low side turns on. -/
def Chip.nextEdge (c : Chip) (n : Nat) : Chip :=
  let low (t : Nat) : Chip := (c.goto t).resolveLeg n false
  let go (e : PlanEdge) (r : List PlanEdge) : Chip :=
    let c1 := (c.goto e.at_).updPg n fun x => { x with plan := r }
    if e.drop then (c1.inc (whole (R.PG.MINPW_CNT n))).raise (F.PG.STICKY.MINPW_DROP n)
    else
      let c2 := c1.place n e.high e.on
      if (c2.pg n).master then
        ((c2.groupOn n).filter fun m => c2.ganged m && (c2.pg m).joined).foldl (fun (c : Chip) m => c.place m e.high e.on) c2
      else c2
  match (c.pg n).plan, c.lowDue n with
  | [], none => c
  | [], some t => low t
  | e :: r, none => go e r
  | e :: r, some t => if t ≤ e.at_ then low t else go e r

def execPgEdge (leg : Fin 40) (s : State) : Host.Outcome State Fault Refusal := s.nextChip fun c => c.nextEdge leg

/-! ### Period points and half-period points (R244, R248, R258) -/

/-- A member of a group at a period point: values come into force, and its edges are placed. -/
def Chip.memberPeriod (c : Chip) (n tk t : Nat) (restart : Bool) : Chip :=
  let stat := c.rd (R.PG.PG_STAT n)
  let c1 := c.takePeriod n
  let c2 := if c.updSelects n false || (c.pg n).whole then c1.takeShape n else c1
  let h := (c2.pg n).hAt tk
  let c3 := (c2.updPg n fun x => { x.resume with joined := true, tk := tk, len := t, whole := false }).planPeriod n h restart
  ((c3.clr (F.PG.PG_STAT.HALF n)).tagPg n stat).event evPg n 0 tk

/-- A ganged member takes its master's commands. -/
def Chip.follow (c : Chip) (m n : Nat) : Chip :=
  let hs := c.on (F.PG.PG_STAT.HS_CMD m)
  let ls := c.on (F.PG.PG_STAT.LS_CMD m)
  let c1 := if hs then c else c.place n true false
  let c2 := c1.place n false ls
  if hs then c2.place n true true else c2

/-- The period point of a group, given by its master. -/
def Chip.periodPoint (c : Chip) (leg : Nat) : Chip :=
  let x := c.pg leg
  if !c.legOn leg || !x.master then c
  else
    let tk := x.next
    let legs := c.groupOn leg
    let c0 := (c.goto tk).takePeriod leg
    let t := (c0.rd (R.PG.PERIOD_ACT leg)).toNat
    let c1 := c0.updPg leg fun x => { x with next := tk + t, restart := false }
    let c2 := legs.foldl (fun (c : Chip) n => c.memberPeriod n tk t x.restart) c1
    let c3 := legs.foldl (fun (c : Chip) n => if c.ganged n then (c.gangShape leg n).follow leg n else c) c2
    let c4 := c3.resolveAll legs
    legs.foldl (fun (c : Chip) n => (c.withSc fun c => c.autoClear n).pgCaptures n false tk) c4

/-- The half-period point of a group, given by its master. -/
def Chip.halfPoint (c : Chip) (leg : Nat) : Chip :=
  let x := c.pg leg
  let th := x.tk + x.len / 2
  let legs := (c.groupOn leg).filter fun n => (c.pg n).joined
  if !c.legOn leg || !x.master || legs.isEmpty || (legs.any fun n => c.on (F.PG.PG_STAT.HALF n)) || x.next ≤ th then c
  else
    let c0 := legs.foldl (fun (c : Chip) n => if c.updSelects n true && !c.ganged n then (c.takeShape n).replan n th else c) (c.goto th)
    legs.foldl (fun (c : Chip) n =>
      let c1 := if c.ganged n then c.gangShape leg n else c
      (((c1.raise (F.PG.PG_STAT.HALF n)).tagPg n (c1.rd (R.PG.PG_STAT n))).event evPg n 1 th).pgCaptures n true th) c0

def execPgHalfPeriodPoint (leg : Fin 40) (s : State) : Host.Outcome State Fault Refusal := s.nextChip fun c => c.halfPoint leg

/-! ### Syncs (R245, R251) -/

/-- A position-compare sync at `te` addressed to a leg acts on its group's master. -/
def Chip.pgSync (c : Chip) (leg te : Nat) : Chip :=
  match c.masterOf leg with
  | none => c
  | some m =>
    let x := c.pg m
    match c.get (F.PG.PGCFG.SYNC m) with
    | 1 =>
      let c1 := (c.groupOn m).foldl (fun (c : Chip) n => c.updPg n fun x =>
        { x with plan := [], hs := x.hs.filter fun e => decide (e.1 < te) }) c
      c1.updPg m fun x => { x with next := te + 1280, restart := true }
    | 2 =>
      let on := (rnd ((c.rd (R.PG.DUTY_ACT m)).toNat * x.len : Nat) (2 ^ 31)).toNat
      let phi := (rnd ((c.rd (R.PG.PHASE_ACT m)).toNat * x.len : Nat) (2 ^ 31)).toNat
      let busy : Bool := match x.shot with | some t => decide (te < t + phi + on ∨ te < t + x.len) | none => false
      if c.get (F.PG.PGCFG.CNTMODE m) ≠ 2 ∨ !x.joined ∨ busy then c
      else (c.updPg m fun x => { x with shot := some te }).replan m te
    | _ => c

/-- Syncs go to several legs. -/
def Chip.pgSyncs (c : Chip) (legs : List Nat) (te : Nat) : Chip := legs.foldl (fun (c : Chip) l => c.pgSync l te) c

/-! ### The PG page (R247, R249, R259, R286) -/

/-- A write of an engine to the port of a leg: DUTY, PERIOD or PHASE (R249). -/
def Chip.pgPort (c : Chip) (n word : Nat) (v : Word) : Chip :=
  let a := match word with | 0 => R.PG.DUTY n | 1 => R.PG.PERIOD n | _ => R.PG.PHASE n
  if 2 < word then c
  else if !c.on (F.PG.SRC.DSRC n) || c.convDrives n then c.raise (F.PG.STICKY.CLE_IGN n)
  else
    let c1 := c.setShadow a v
    if c1.inGroup (R.PG.ID n) then c1.reject { src := .cle, addr := R.PG.CTRL n, val := 8#32 } rState false
    else c1.raise (hCommitReq (R.PG.ID n))

/-- A write to a register of a PG page. -/
def Pg.onWrite (w : Acc) (c : Chip) : Chip :=
  let n := w.inst
  if w.off = 0x40 then
    if c.legOn n then c.reject w rState true
    else if bits w.val 0 2 = 3 ∨ bits w.val 9 2 = 3 ∨ bits w.val 11 2 = 3 then c.reject w rParam true
    else c.store w
  else if w.off = 0x44 ∨ w.off = 0x48 ∨ w.off = 0x4C then
    if c.on (F.PG.SRC.DSRC n) || (w.off != 0x44 && c.convDrives n) then c.reject w rState true else c.store w
  else if w.off = 0x58 then c.storeAt w.addr (clampField w.val 0 16 (if n < 24 then 1280 else 0) 51200)
  else if w.off = 0x74 then c.hforce n (bits w.val 0 2)
  else if w.off = 0x84 then
    c.clearFields w.val [whole (R.PG.INTLK_CNT n), whole (R.PG.TRIP_CNT n), whole (R.PG.MINPW_CNT n)]
  else c.store w

def execHforceWrite (src : Source) (leg : Fin 40) (action : BitVec 2) (s : State) : Host.Outcome State Fault Refusal :=
  let w : Acc := { src := src, addr := R.PG.HFORCE leg, val := action.setWidth 32 }
  s.nextGated w (Pg.onWrite w)

end Sys2Proof.Machine
end

