-- ==== Sys2Proof/Machine/Conv.lean ====
section
/-! DEFINITION. The converter supervisors (R321–R333, R358). -/

namespace Sys2Proof.Machine

def Chip.conv (c : Chip) (k : Nat) : ConvSt := Tab.at c.convs {} k
def Chip.updConv (c : Chip) (k : Nat) (f : ConvSt → ConvSt) : Chip := { c with convs := Tab.upd c.convs {} k f }

def Chip.cvState (c : Chip) (k : Nat) : Nat := c.get (F.CONV.STATUS.STATE k)

/-- A record of Table 10.8: class and instance, and a six-byte value (R357). -/
def Chip.recordPower (c : Chip) (cls inst code value : Nat) : Chip :=
  c.record cls code (cls + inst * 2 ^ 8 + (value % 2 ^ 16) * 2 ^ 16) (value / 2 ^ 16)

/-- A record of Table 10.8 whose two values have no stated places: those six bytes are a free value of them (log 10). -/
def Chip.recordPowerOf (c : Chip) (cls inst code a b : Nat) : Chip :=
  c.recordPower cls inst code ((Config.listedPayload code a b 0).toNat % 2 ^ 48)

/-- A field of SOFTSTART to INLOSS as the last period point has taken it (R358). -/
def Chip.cvGet (c : Chip) (k : Nat) (f : Fld) : Nat := bits (Tab.at (c.conv k).inForce (c.rd f.reg) f.reg) f.lo f.len
def Chip.cvOn (c : Chip) (k : Nat) (f : Fld) : Bool := c.cvGet k f == 1

/-- The registers SOFTSTART to INLOSS take effect. -/
def Chip.cvTake (c : Chip) (k : Nat) : Chip :=
  c.updConv k fun x => { x with
    inForce := (List.range 7).foldl (fun t i => let a := R.CONV.SOFTSTART k + 4 * i; Tab.put t a (c.rd a)) [] }

/-! ### Phases and sources (R322) -/

/-- The VALID phases of a page. -/
def Chip.phases (c : Chip) (k : Nat) : List Nat := (List.range 8).filter fun j => (c.phLeg k j).isSome

/-- The legs of the VALID phases. -/
def Chip.stageLegs (c : Chip) (k : Nat) : List Nat := (List.range 8).filterMap fun j => c.phLeg k j

/-- Phase `j` is active. -/
def Chip.phaseOn (c : Chip) (k j : Nat) : Bool := c.on (bitOf (R.CONV.CV_STAT k) (4 + j))

def Chip.activePhases (c : Chip) (k : Nat) : List Nat := (c.phases k).filter fun j => c.phaseOn k j

/-- The active phases are those of a list. -/
def Chip.setActive (c : Chip) (k : Nat) (l : List Nat) : Chip :=
  (c.set (F.CONV.CV_STAT.ACT_MAP k) ((l.map fun j => 2 ^ j).sum)).set (F.CONV.CV_STAT.NA k) l.length

/-- The current source of a phase: ADC and entry (Table 10.10). -/
def Chip.phIsen (c : Chip) (k j : Nat) : Option (Nat × Nat) :=
  let b := bits (c.rd (R.CONV.PH_ISEN k (j / 2))) (16 * (j % 2)) 16
  if b / 32768 = 1 then some (b % 32, b / 32 % 32) else none

/-- An entry of an ADC is admitted. -/
def Chip.adcAdmitted (c : Chip) (a e : Nat) : Bool := a < 24 && c.on (bitOf (R.ADC.ADMITTED a) e)

/-- The entries a CONV page names. -/
def Chip.convEntries (c : Chip) (k : Nat) : List (Nat × Nat) :=
  [(c.get (F.CONV.VSENSE.VOUT_ADC k), c.get (F.CONV.VSENSE.VOUT_ENT k))]
    ++ (if c.on (F.CONV.VSENSE.VIN_VALID k) then [(c.get (F.CONV.VSENSE.VIN_ADC k), c.get (F.CONV.VSENSE.VIN_ENT k))] else [])
    ++ (if c.on (F.CONV.ITSENSE.VALID k) then [(c.get (F.CONV.ITSENSE.ADC k), c.get (F.CONV.ITSENSE.ENTRY k))] else [])
    ++ (c.phases k).filterMap fun j => c.phIsen k j

/-- A leg is assigned to a cell channel (R354). -/
def Chip.cellLeg (c : Chip) (n : Nat) : Bool := 24 ≤ n && n < 40 && c.on (F.CHGSEQ.SQCFG.CELL (n - 24))

/-- The conditions of R322. -/
def Chip.convAccepts (c : Chip) (k : Nat) : Bool :=
  let legs := c.stageLegs k
  let type := c.get (F.CONV.CVCFG.TYPE k)
  let line := c.get (F.CONV.CVCFG.CL_LINE k)
  match legs, c.phLeg k 0 with
  | _ :: _, some m =>
    legs.all (fun n => n < 40 && c.groupOf n == c.groupOf m && !c.cellLeg n
        && (List.range 8).all fun q => q == k || !c.on (F.CONV.CTRL.EN q) || (c.phasesOf q n).isEmpty)
      && c.masterOf m == some m
      && (c.convEntries k).all (fun e => c.adcAdmitted e.1 e.2)
      && (if type = 0 then legs.all fun n => !c.on (F.PG.SRC.DSRC n) && c.get (F.PG.PGCFG.OMODE n) == 0
          else legs.all (fun n => c.on (F.PG.SRC.DSRC n)) && !c.on (F.CONV.BALANCE.BAL_EN k) && !c.on (F.CONV.SHED.SHED_EN k))
      && (!c.on (F.CONV.CVCFG.CL_EN k) || (c.on (F.TRIP.LCFG.RESUME line) && legs.all fun n => c.lineAction line n == 1))
      && (!c.on (F.CONV.SHED.SHED_EN k) || decide (c.get (F.CONV.SHED_I.I_SHED k) < c.get (F.CONV.SHED_I.I_ADD k)))
  | _, _ => false

/-! ### States (R324, R326) -/

/-- A change of a supervisor, with its forces on the legs its page lists before and after: a leg whose force goes waits for its next period point (R258, R324). -/
def Chip.withForces (c : Chip) (k : Nat) (f : Chip → Chip) : Chip :=
  let c1 := f c
  let legs := (c.stageLegs k ++ (c1.stageLegs k).filter fun n => !(c.stageLegs k).contains n).filter fun n => n < 40
  let c2 := legs.foldl (fun (d : Chip) n =>
    if c.convForce n && !d.convForce n && d.legOn n then
      d.updPg n fun x => { x with wait := some (match x.wait with | some w => prevailing [w, (1, false)] | none => (1, false)) }
    else d) c1
  c2.resolveAll legs

/-- A supervisor is in a state in which its legs are forced off. -/
def Chip.cvStop (c : Chip) (k st : Nat) : Chip :=
  c.withForces k fun c =>
    let c1 := ((c.set (F.CONV.STATUS.STATE k) st).setActive k []).updConv k fun x => { x with shed := none, adding := none, lowSince := none }
    c1.clr (F.CONV.CV_STAT.SHEDDING k)

/-- The trims of a page. -/
def Chip.setTrims (c : Chip) (k : Nat) (t : Tab Int) : Chip :=
  let reg (j : Nat) : Nat := (iw (rnd (Tab.at t 0 j * 10000) (2 ^ 31))).toNat % 2 ^ 16
  upto 4 (fun c m => c.wr (R.CONV.TRIM k m) (wd (reg (2 * m) + reg (2 * m + 1) * 2 ^ 16))) (c.updConv k fun x => { x with trims := t })

/-- SOFT_START is entered (R327–R329). -/
def Chip.cvSoftStart (c : Chip) (k : Nat) : Chip :=
  c.withForces k fun c =>
    let c1 := (((c.set (F.CONV.STATUS.STATE k) cvSoft).setActive k (c.phases k)).setTrims k []).clr (F.CONV.CV_STAT.HC_CONSEC k)
    (c1.clr (F.CONV.CV_STAT.SHEDDING k)).updConv k fun x =>
      { x with softAt := c.st, shed := none, adding := none, lowSince := none, limited := c.on (bitOf R.TRIP.LINE_ACTIVE (c.get (F.CONV.CVCFG.CL_LINE k))) }

/-- EN and RUN_REQ act on the state (Table 10.3). -/
def Chip.cvControl (c : Chip) (k : Nat) : Chip :=
  let st := c.cvState k
  if !c.on (F.CONV.CTRL.EN k) then (if st = cvOff then c else c.cvStop k cvOff)
  else if c.on (F.CONV.CTRL.RUN_REQ k) then (if st = cvOff then c.cvSoftStart k else c)
  else if st = cvOff ∨ st = cvInLost then c
  else c.cvStop k cvOff

/-- RUN_REQ takes a value. -/
def Chip.setRunReq (c : Chip) (k : Nat) (on : Bool) : Chip := (c.setb (F.CONV.CTRL.RUN_REQ k) on).cvControl k

/-- A sequencer targets the page: as its DAB page, or as the PFC page below it (R326, R345). -/
def Chip.targeted (c : Chip) (k : Nat) : Bool :=
  (List.range 16).any fun s =>
    let t := c.get (F.CHGSEQ.SQCFG.CONV s)
    c.on (F.CHGSEQ.CTRL.EN s) && !c.on (F.CHGSEQ.SQCFG.CELL s) && t != 0 && (t == k || t == k + 1)

/-- EN of a page is written (R322). -/
def Conv.setEn (w : Acc) (on : Bool) (c : Chip) : Chip :=
  let k := w.inst
  if !on then (c.withForces k fun c => c.clr (F.CONV.CTRL.EN k)).cvControl k
  else if c.on (F.CONV.CTRL.EN k) then c
  else c.unlessStarting w fun c =>
    if c.convAccepts k then (c.withForces k fun c => c.raise (F.CONV.CTRL.EN k)).cvTake k |>.cvControl k else c.reject w rParam (!carriesCommand w.addr w.val)

/-- RUN_REQ of a page is written (R326). -/
def Conv.setRun (w : Acc) (on : Bool) (c : Chip) : Chip :=
  let k := w.inst
  if c.on (F.CONV.CTRL.RUN_REQ k) = on ∧ c.cvState k ≠ cvOutLost then c
  else if c.targeted k then c.reject w rState false
  else c.setRunReq k on

def execConvEnable (src : Source) (k : Fin 8) (s : State) : Host.Outcome State Fault Refusal :=
  let w : Acc := { src := src, addr := R.CONV.CTRL k, val := s.chip.ctrlWith (R.CONV.ID k) 0 }
  s.nextGated w (Conv.setEn w true)

def execConvRunRequest (src : Source) (k : Fin 8) (run : Bool) (s : State) : Host.Outcome State Fault Refusal :=
  let old := s.chip.rd (R.CONV.CTRL k)
  let w : Acc := { src := src, addr := R.CONV.CTRL k, val := if run then old ||| 0x100#32 else old &&& ~~~0x100#32 }
  s.nextGated w (Conv.setRun w run)

/-! ### Measurements (R325, Table 10.9) -/

/-- Current from a code, mA. -/
def Chip.convAmps (c : Chip) (k : Nat) (e : Nat × Nat) : Int :=
  rnd (((c.adcPort e.1 e.2).toInt - c.get (F.CONV.ISCALE.I_ZERO k)) * c.get (F.CONV.ISCALE.I_LSB k)) 1000

/-- Current of a phase, mA, when it has a source. -/
def Chip.phaseAmps (c : Chip) (k j : Nat) : Option Int := (c.phIsen k j).map fun e => c.convAmps k e

/-- IMEAS: the phase currents, or the total-current source when no phase has one. -/
def Chip.convImeas (c : Chip) (k : Nat) : Int :=
  let l := (c.phases k).filterMap fun j => c.phaseAmps k j
  if !l.isEmpty then l.sum
  else if c.on (F.CONV.ITSENSE.VALID k) then c.convAmps k (c.get (F.CONV.ITSENSE.ADC k), c.get (F.CONV.ITSENSE.ENTRY k))
  else 0

def Chip.convVmeas (c : Chip) (k : Nat) : Int :=
  max 0 (rnd ((c.adcPort (c.get (F.CONV.VSENSE.VOUT_ADC k)) (c.get (F.CONV.VSENSE.VOUT_ENT k))).toInt * c.get (F.CONV.VSCALE.VOUT_LSB k)) 1000)

def Chip.convVin (c : Chip) (k : Nat) : Int :=
  if c.on (F.CONV.VSENSE.VIN_VALID k) then
    rnd ((c.adcPort (c.get (F.CONV.VSENSE.VIN_ADC k)) (c.get (F.CONV.VSENSE.VIN_ENT k))).toInt * c.get (F.CONV.VSCALE.VIN_LSB k)) 1000
  else 0

/-! ### The AC current limit (R333, R337–R340) -/

/-- Codes of the session states (Table 10.12). -/
abbrev sqIdle : Nat := 0
abbrev sqWait : Nat := 1
abbrev sqRunning : Nat := 2
abbrev sqDone : Nat := 3
abbrev sqAborted : Nat := 4
abbrev sqOutLost : Nat := 5
abbrev sqEnded : Nat := 6

def Chip.seq (c : Chip) (s : Nat) : SeqSt := Tab.at c.seqs {} s
def Chip.updSeq (c : Chip) (s : Nat) (f : SeqSt → SeqSt) : Chip := { c with seqs := Tab.upd c.seqs {} s f }
def Chip.sqState (c : Chip) (s : Nat) : Nat := c.get (F.CHGSEQ.STATUS.STATE s)

/-- A session is RUNNING or WAIT_PILOT. -/
def Chip.inSession (c : Chip) (s : Nat) : Bool := c.sqState s == sqWait || c.sqState s == sqRunning

/-- The session uses a pilot instance. -/
def Chip.usesPilot (c : Chip) (s : Nat) : Bool :=
  !c.on (F.CHGSEQ.SQCFG.CELL s) && (c.on (F.CHGSEQ.SQCFG.PILOT_EN s) || c.on (F.CHGSEQ.SQCFG.REVERSE s))

/-- IAC_LIM of a page, mA. -/
def Chip.iacLim (c : Chip) (k : Nat) : Nat :=
  let s? := if c.get (F.CONV.CVCFG.TYPE k) = 1 then
      (List.range 16).find? fun s => c.inSession s && c.usesPilot s && c.get (F.CHGSEQ.SQCFG.CONV s) == k + 1
    else none
  match s? with
  | none => 0x7FFFFFFF
  | some s =>
    let p := c.get (F.CHGSEQ.SQCFG.PILOT s)
    if c.on (F.CHGSEQ.SQCFG.REVERSE s) then bits (c.rd (R.PILOT.CP_OFFER p)) 0 16 * 100
    else if (c.seq s).paused.isSome then 0
    else
      let allowed := bits (c.rd (R.PILOT.CP_IMAX p)) 0 16 * 100
      if c.on (F.PILOT.PCFG.PP_EN p) then min allowed (bits (c.rd (R.PILOT.PP_STAT p)) 16 8 * 1000) else allowed

/-! ### The master period point (R327–R331) -/

/-- The supervisor is in SOFT_START or RUN. -/
def Chip.switching (c : Chip) (k : Nat) : Bool := c.cvState k == cvSoft || c.cvState k == cvRun

/-- The period just ended was current-limited, or not (R329 steps 1, 2). -/
def Chip.cvLimit (c : Chip) (k : Nat) : Chip :=
  if !c.on (F.CONV.CVCFG.CL_EN k) || !c.switching k then c
  else if !(c.conv k).limited then c.clr (F.CONV.CV_STAT.HC_CONSEC k)
  else
    let c1 := ((c.inc (F.CONV.CV_STAT.HC_CONSEC k)).inc (whole (R.CONV.CL_CNT k))).raise (F.CONV.STICKY.CL_CYCLE k)
    if c1.get (F.CONV.CV_STAT.HC_CONSEC k) < max 1 (c.get (F.CONV.HICCUP.HC_N k)) then c1
    else
      let m := c.get (F.CONV.HICCUP.HC_M k)
      if m ≠ 0 ∧ c.get (F.CONV.CV_STAT.RETRIES k) = m then
        (((c1.raise (F.CONV.STICKY.LATCHED k)).inc ⟨R.CONV.HIC_CNT k, 16, 16⟩).cvStop k cvLatched).recordPowerOf 0x0E k 0x4303
          (c1.get (F.CONV.CV_STAT.RETRIES k)) (c1.inc ⟨R.CONV.HIC_CNT k, 16, 16⟩ |>.rd (R.CONV.HIC_CNT k)).toNat
      else
        (((c1.raise (F.CONV.STICKY.HICCUP k)).inc ⟨R.CONV.HIC_CNT k, 0, 16⟩).cvStop k cvHiccup).updConv k fun x => { x with hiccupAt := c.st }

/-- VSS and VREF_ACT; the ramp ends in RUN (R327). Outside SOFT_START and RUN there is no reference: 0 (log 27). -/
def Chip.cvReference (c : Chip) (k : Nat) (i : Int) : Chip :=
  let vt := bits (c.rd (R.CONV.VTARGET k)) 0 24
  let ss := max 1 (c.get (F.CONV.SOFTSTART.SS_T k)) * Config.ms
  let dt := c.st - (c.conv k).softAt
  let c1 := if c.cvState k = cvSoft ∧ ss ≤ dt then
      (c.set (F.CONV.STATUS.STATE k) cvRun).updConv k fun x => { x with runAt := c.st } else c
  let slope := c.get (F.CONV.LOADLINE.SLOPE k)
  -- mV: VSS is vt × dt ÷ ss, and the droop SLOPE × I ÷ 4000
  let ref (num den : Nat) : Nat := (max 0 (rnd ((num * 4000 : Nat) - slope * i * den) (den * 4000))).toNat
  let v := if c1.cvState k = cvRun then ref vt 1 else if c1.cvState k = cvSoft then ref (vt * dt) ss else 0
  c1.wr (R.CONV.VREF_ACT k) (wd (v % 2 ^ 24))

/-- The load-step condition and its hold-off; a shed is aborted (R331). -/
def Chip.cvStep (c : Chip) (k : Nat) (i v : Int) : Chip :=
  let vref := (c.rd (R.CONV.VREF_ACT k)).toNat
  let step := decide (c.get (F.CONV.STEP.STEP_I k) * 100 < (i - (c.conv k).lastI).natAbs)
    || decide (c.get (F.CONV.STEP.STEP_V k) < (v - vref).natAbs)
  let c1 := c.setb (F.CONV.CV_STAT.STEP k) step
  if !step then c1
  else
    let c2 := ((c1.raise (F.CONV.STICKY.STEP k)).raise (F.CONV.CV_STAT.HOLDOFF k)).updConv k fun x =>
      { x with stepAt := some c.st, lowSince := none }
    match (c.conv k).shed with
    | none => c2
    | some _ =>
      (((c2.raise (F.CONV.STICKY.SHED_ABORT k)).inc ⟨R.CONV.SHED_CNT k, 16, 16⟩).clr (F.CONV.CV_STAT.SHEDDING k)).updConv k fun x =>
        { x with shed := none }

/-- The current below which shedding starts, mA (R330). -/
def Chip.shedBelow (c : Chip) (k : Nat) : Int := ((c.activePhases k).length - 1 : Int) * (c.cvGet k (F.CONV.SHED_I.I_SHED k) * 100 : Nat)

/-- Shedding and adding at a period point (R330). -/
def Chip.cvShed (c : Chip) (k : Nat) (i : Int) : Chip :=
  if !c.on (F.CONV.SHED.SHED_EN k) || !c.switching k then c
  else
    let act := c.activePhases k
    let n := max 1 (c.get (F.CONV.SHED.SHED_N k))
    let c1 := match (c.conv k).shed with
      | some (j, d) =>
        if n ≤ d + 1 then
          ((c.withForces k fun c => (c.setActive k (act.filter fun q => q != j)).updConv k fun x => { x with shed := none }).clr
            (F.CONV.CV_STAT.SHEDDING k)).inc ⟨R.CONV.SHED_CNT k, 0, 16⟩
        else c.updConv k fun x => { x with shed := some (j, d + 1) }
      | none => c
    let idle := (c1.phases k).filter fun j => !c1.phaseOn k j
    let c2 := match idle with
      | j :: _ => if i > ((c1.activePhases k).length * (c.get (F.CONV.SHED_I.I_ADD k) * 100) : Nat) then c1.updConv k fun x => { x with adding := some j } else c1
      | [] => c1
    let low := decide (i < c2.shedBelow k) && !c2.on (F.CONV.CV_STAT.STEP k) && !c2.on (F.CONV.CV_STAT.HOLDOFF k)
    c2.updConv k fun x => { x with lowSince := if low then (match x.lowSince with | some t => some t | none => some c.st) else none }

/-- A phase that was to be added becomes active (R330 step 4). -/
def Chip.cvAdd (c : Chip) (k : Nat) : Chip :=
  match (c.conv k).adding with
  | none => c
  | some j =>
    let c1 := c.withForces k fun c =>
      (c.setActive k ((List.range 8).filter fun q => c.phaseOn k q || q == j)).updConv k fun x => { x with adding := none }
    c1.setTrims k (Tab.set (c1.conv k).trims 0 j 0)

/-- ±0.03 of T in 2^-31. -/
abbrev trimMax : Int := 64424509

/-- Phase balance (R328). With a mean current of 0 the correction has no stated value: it is free (log 9). -/
def Chip.cvBalance (c : Chip) (k : Nat) (i : Int) : Chip :=
  let act := c.activePhases k
  let amps := act.filterMap fun j => c.phaseAmps k j
  if c.cvState k ≠ cvRun ∨ !c.on (F.CONV.BALANCE.BAL_EN k) ∨ i.natAbs < c.get (F.CONV.BALANCE.BAL_MIN k) * 100 ∨ act.length < 2
      ∨ amps.length ≠ act.length then c
  else
    let sum := amps.sum
    let g : Int := c.get (F.CONV.BALANCE.BAL_G k)
    let add (j : Nat) (a : Int) : Int :=
      if sum = 0 then (Config.freeWord (c.fresh + j)).toInt else rnd ((sum - act.length * a) * g * 2 ^ 15) sum.natAbs
    let t1 := (act.zip amps).map fun e => (e.1, Tab.at (c.conv k).trims 0 e.1 + add e.1 e.2)
    let mean := rnd (t1.map fun e => e.2).sum t1.length
    let t2 := t1.map fun e => (e.1, e.2 - mean)
    let cut (v : Int) : Int := max (-trimMax) (min v trimMax)
    let c1 := if sum = 0 then { c with fresh := c.fresh + 8 } else c
    (c1.raiseIf (t2.any fun e => cut e.2 != e.2) (F.CONV.STICKY.TRIM_LIMIT k)).setTrims k
      (t2.foldl (fun t e => Tab.set t 0 e.1 (cut e.2)) (c.conv k).trims)

/-- First port of the block of a CONV (R325). -/
abbrev convPortBase (k : Nat) : Nat := 0xB00 + 0x10 * k

/-- The read words of the port block (Table 10.2). -/
def Chip.convPorts (c : Chip) (k : Nat) : Chip :=
  let put (c : Chip) (i : Nat) (v : Word) : Chip := c.portWord (convPortBase k + i) v true
  let state := wd (c.cvState k + (c.get (F.CONV.CV_STAT.NA k)) * 8 + (c.get (F.CONV.CV_STAT.STEP k)) * 128)
  put (put (put (put (put (put c 0 (c.rd (R.CONV.VREF_ACT k))) 1 (c.rd (R.CONV.VMEAS k))) 2 (c.rd (R.CONV.IMEAS k))) 3 state)
    4 (c.rd (R.CONV.VINMEAS k))) 5 (wd (c.iacLim k))

/-- What a supervisor does at its master's period point. -/
def Chip.convPoint (c : Chip) (k : Nat) : Chip :=
  let c0 := (c.commitPoint (R.CONV.ID k)).cvTake k
  let v := c0.convVmeas k
  let i := c0.convImeas k
  let c1 := ((c0.wr (R.CONV.VMEAS k) (wd (v.toNat % 2 ^ 24))).wr (R.CONV.IMEAS k) (iw i)).wr (R.CONV.VINMEAS k) (iw (c0.convVin k))
  let c2 := if c1.cvState k = cvOutLost then c1.cvControl k else c1
  let c3 := (((c2.cvLimit k).cvAdd k).cvReference k i).cvStep k i v
  let c4 := ((c3.cvShed k i).cvBalance k i).updConv k fun x => { x with lastI := i }
  c4.convPorts k

/-- The enabled supervisors whose phase 0 lies in the group of a leg. -/
def Chip.groupConvs (c : Chip) (leg : Nat) : List Nat :=
  (List.range 8).filter fun k => c.on (F.CONV.CTRL.EN k) && (match c.phLeg k 0 with | some m => c.groupOf m == c.groupOf leg | none => false)

/-- The period point of a group, with the supervisors it clocks (R244, R327). -/
def Chip.masterPoint (c : Chip) (leg : Nat) : Chip :=
  if !c.legOn leg || !(c.pg leg).master then c
  else
    let l := c.groupConvs leg
    let c1 := l.foldl (fun (c : Chip) k => c.convPoint k) (c.goto (c.pg leg).next)
    l.foldl (fun (c : Chip) k =>
      let line := c.get (F.CONV.CVCFG.CL_LINE k)
      c.updConv k fun x => { x with limited := c.on (bitOf R.TRIP.LINE_ACTIVE line) && c.driven line }) (c1.periodPoint leg)

/-! ### Distribution of the duty (R323) -/

/-- DUTY and PHASE of the active phases go into the shadows of their legs, and the commit is requested. -/
def Chip.convShadows (c : Chip) (k : Nat) : Chip :=
  let x := c.conv k
  let act := (List.range 8).filter fun j => (c.phLeg k j).isSome && (c.phaseOn k j || x.adding == some j)
  let n := max 1 (c.cvGet k (F.CONV.SHED.SHED_N k))
  (act.zip (List.range act.length)).foldl (fun (c : Chip) e =>
    match c.phLeg k e.1 with
    | none => c
    | some leg =>
      let weight : Nat := match x.shed with | some (q, d) => if q = e.1 then n - d else n | none => n
      let trim := if x.adding = some e.1 then 0 else Tab.at x.trims 0 e.1
      let duty := max 0 (min (rnd (weight * (x.dutyCmd.toInt + trim)) n) ((2 ^ 31 - 1 : Nat) : Int))
      let c1 := (c.setShadow (R.PG.DUTY leg) (iw duty)).setShadow (R.PG.PHASE leg) (wd (e.2 * 2 ^ 31 / act.length))
      if c1.inGroup (R.PG.ID leg) then c1 else c1.raise (hCommitReq (R.PG.ID leg))) c

/-- The capture instant of a group: the supervisors write their shadows first. -/
def Chip.captureInstant (c : Chip) (leg : Nat) (half : Bool) : Chip :=
  match c.captureAt leg half with
  | none => c
  | some t =>
    let l := (c.groupConvs leg).filter fun k => c.get (F.CONV.CVCFG.TYPE k) == 0
    (l.foldl (fun (c : Chip) k => c.convShadows k) (c.goto t)).captureGroup leg half

def execPgCaptureInstant (leg : Fin 40) (half : Bool) (s : State) : Host.Outcome State Fault Refusal :=
  s.nextChip fun c => c.captureInstant leg half

/-- A write of an engine to a CONV port (Table 10.2). -/
def Chip.convPort (c : Chip) (k word : Nat) (v : Word) : Chip :=
  if word = 8 ∧ c.get (F.CONV.CVCFG.TYPE k) = 0 then c.updConv k fun x => { x with dutyCmd := v } else c

/-! ### Timers (R329–R331) -/

/-- HC_OFF has passed since the hiccup. -/
def Chip.hiccupEnd (c : Chip) (k : Nat) : Chip :=
  if c.cvState k ≠ cvHiccup then c
  else ((c.goto ((c.conv k).hiccupAt + c.cvGet k (F.CONV.HICCUP.HC_OFF k) * Config.ms)).inc (F.CONV.CV_STAT.RETRIES k)).cvSoftStart k

def execConvHiccupOffExpire (k : Fin 8) (s : State) : Host.Outcome State Fault Refusal := s.nextChip fun c => c.hiccupEnd k

/-- 1 s has passed in RUN. -/
def Chip.retryReset (c : Chip) (k : Nat) : Chip :=
  if c.cvState k ≠ cvRun then c else (c.goto ((c.conv k).runAt + Config.sec)).clr (F.CONV.CV_STAT.RETRIES k)

def execConvRetryReset (k : Fin 8) (s : State) : Host.Outcome State Fault Refusal := s.nextChip fun c => c.retryReset k

/-- IMEAS has stayed low for 10 ms: the highest active phase starts to be shed. -/
def Chip.shedStart (c : Chip) (k : Nat) : Chip :=
  let x := c.conv k
  let act := c.activePhases k
  match x.lowSince, act.getLast? with
  | some t, some j =>
    if !c.cvOn k (F.CONV.SHED.SHED_EN k) || !c.switching k || act.length ≤ c.cvGet k (F.CONV.SHED.MINPHM1 k) + 1 || x.shed.isSome then c
    else ((c.goto (t + 10 * Config.ms)).raise (F.CONV.CV_STAT.SHEDDING k)).updConv k fun x => { x with shed := some (j, 0), lowSince := none }
  | _, _ => c

def execConvShedTimer (k : Fin 8) (s : State) : Host.Outcome State Fault Refusal := s.nextChip fun c => c.shedStart k

/-- The hold-off after a load step ends; the 10 ms of R330 start anew. -/
def Chip.holdoffEnd (c : Chip) (k : Nat) : Chip :=
  match (c.conv k).stepAt with
  | none => c
  | some t =>
    let c1 := (c.goto (t + c.cvGet k (F.CONV.SHED.HOLDOFF k) * Config.ms)).clr (F.CONV.CV_STAT.HOLDOFF k)
    c1.updConv k fun x => { x with
      stepAt := none
      lowSince := if c.switching k ∧ x.lastI < c.shedBelow k ∧ !c.on (F.CONV.CV_STAT.STEP k) then some c1.st else none }

def execConvHoldoffExpire (k : Fin 8) (s : State) : Host.Outcome State Fault Refusal := s.nextChip fun c => c.holdoffEnd k

/-! ### Input loss (R332) -/

/-- The input is lost when its largest magnitude over LOSS_T, in mV, lies below VIN_MIN; an output lost at the same instant goes
before it (R326). -/
def Chip.inputLost (c : Chip) (k largest : Nat) : Bool :=
  c.on (F.CONV.CTRL.EN k) && c.cvOn k (F.CONV.INLOSS.INLOSS_EN k) && c.cvState k != cvInLost
    && !(c.cvState k == cvOutLost && (c.conv k).lostAt == some c.st)
    && decide (largest < c.cvGet k (F.CONV.INLOSS.VIN_MIN k) * 100)

/-- INPUT_LOST is entered. -/
def Chip.cvInputLoss (c : Chip) (k largest : Nat) : Chip :=
  ((c.raise (F.CONV.STICKY.INPUT_LOST k)).cvStop k cvInLost).recordPower 0x0E k 0x4304 largest

/-- The input has been back for 100 ms at `least` mV or more, with RUN_REQ = 0. -/
def Chip.cvInputBack (c : Chip) (k : Nat) (least : Int) : Chip :=
  if c.cvState k = cvInLost ∧ !c.on (F.CONV.CTRL.RUN_REQ k) ∧ (c.cvGet k (F.CONV.INLOSS.VIN_MIN k) * 100 : Nat) ≤ least then
    c.cvStop k cvOff
  else c

def execConvInputRecover (k : Fin 8) (least : Word) (s : State) : Host.Outcome State Fault Refusal :=
  s.nextChip fun c => c.cvInputBack k least.toInt

/-! ### The CONV page (R358) -/

/-- A write to a register of a CONV page. -/
def Conv.onWrite (w : Acc) (c : Chip) : Chip :=
  let k := w.inst
  if 0x40 ≤ w.off ∧ w.off ≤ 0x68 then
    if c.on (F.CONV.CTRL.EN k) then c.reject w rState true
    else if w.off = 0x40 ∧ bits w.val 0 2 = 3 then c.reject w rParam true
    else c.withForces k fun c => c.store w
  else if w.off = 0x78 then c.storeAt w.addr (clampField w.val 8 10 1 1000)
  else if w.off = 0xC0 then
    c.clearFields w.val [whole (R.CONV.HIC_CNT k), whole (R.CONV.SHED_CNT k), whole (R.CONV.CL_CNT k)]
  else c.store w

end Sys2Proof.Machine
end

