-- ==== Sys2Proof/Machine/Crc.lean ====
section
/-! DEFINITION. The checks of frames, records and configurations: CRC-16/CCITT with initial value FFFFh and CRC-32 of IEEE
802.3 (R61, R357, R395, R452). -/

namespace Sys2Proof.Machine

/-- One bit of a shift register with the polynomial `poly`, most significant bit first, of 16 bits. -/
def crcStep16 (r : Nat) (bit : Bool) : Nat :=
  let top := (r / 2 ^ 15 % 2 == 1) != bit
  let s := r * 2 % 2 ^ 16
  if top then s ^^^ 0x1021 else s

/-- CRC-16/CCITT of bytes, each most significant bit first. -/
def crc16 (bytes : List Nat) : Nat :=
  bytes.foldl (fun r b => [7, 6, 5, 4, 3, 2, 1, 0].foldl (fun r i => crcStep16 r (Nat.testBit b i)) r) 0xFFFF

/-- One bit of the reflected CRC-32. -/
def crcStep32 (r : Nat) (bit : Bool) : Nat :=
  let low := (r % 2 == 1) != bit
  let s := r / 2
  if low then s ^^^ 0xEDB88320 else s

/-- CRC-32 of IEEE 802.3 of bytes, each least significant bit first, from a register value. -/
def crc32From (r : Nat) (bytes : List Nat) : Nat :=
  bytes.foldl (fun r b => [0, 1, 2, 3, 4, 5, 6, 7].foldl (fun r i => crcStep32 r (Nat.testBit b i)) r) r

/-- CRC-32 of IEEE 802.3: initial value and final XOR FFFF_FFFFh. -/
def crc32 (bytes : List Nat) : Nat := crc32From 0xFFFFFFFF bytes ^^^ 0xFFFFFFFF

/-- Bytes of a word, least significant first. -/
def leBytes (v : Word) : List Nat := (List.range 4).map fun i => v.toNat / 2 ^ (8 * i) % 256

end Sys2Proof.Machine
end

