-- ==== Sys2Proof/Machine/Charge.lean ====
section
/-! DEFINITION. The charge-profile sequencers: step lists, measurements, results and the ends of a session (R339–R357, R359). -/

namespace Sys2Proof.Machine

/-! ### Ports and configuration (R342) -/

/-- First port of the block of a sequencer. -/
abbrev seqPortBase (s : Nat) : Nat := 0xC00 + 0x10 * s

def Chip.seqPut (c : Chip) (s i : Nat) (v : Word) : Chip := c.portWord (seqPortBase s + i) v false

/-- MODE of a sequencer: 0 off, 1 current, 2 voltage. -/
def Chip.sqMode (c : Chip) (s : Nat) : Nat := (Tab.at c.portWords 0 (seqPortBase s)).toNat % 4

/-- MODE and the references of a sequencer (Table 10.6). -/
def Chip.sqRefs (c : Chip) (s mode : Nat) (iref : Word) (vref ilim : Nat) : Chip :=
  (((c.seqPut s 0 (wd mode)).seqPut s 1 iref).seqPut s 2 (wd vref)).seqPut s 3 (wd ilim)

/-- STATE of a session and the port word that shows it with STEP. -/
def Chip.sqShow (c : Chip) (s : Nat) : Chip := c.seqPut s 4 (wd (c.sqState s + c.get (F.CHGSEQ.SQ_STAT.STEP s) * 8))
def Chip.setSq (c : Chip) (s st : Nat) : Chip := (c.set (F.CHGSEQ.STATUS.STATE s) st).sqShow s

def Chip.cellMode (c : Chip) (s : Nat) : Bool := c.on (F.CHGSEQ.SQCFG.CELL s)

/-- The CONV pages of a charger: DAB and PFC. -/
def Chip.dabOf (c : Chip) (s : Nat) : Option Nat :=
  let t := c.get (F.CHGSEQ.SQCFG.CONV s)
  if c.cellMode s || t == 0 then none else some t

/-- The legs of the stage of a sequencer (R345, R352, R354). -/
def Chip.sqLegs (c : Chip) (s : Nat) : List Nat :=
  if c.cellMode s then [24 + s] else match c.dabOf s with | some k => c.stageLegs k | none => []

/-- The stage of a sequencer does not switch (R353). -/
def Chip.stageIdle (c : Chip) (s : Nat) : Bool :=
  if c.cellMode s then c.sqMode s == 0 else match c.dabOf s with | some k => !c.switching k | none => true

/-- RUN_REQ of the pages of a charger (R326, R339). -/
def Chip.sqRun (c : Chip) (s : Nat) (on : Bool) : Chip :=
  match c.dabOf s with
  | none => c
  | some k => (c.setRunReq (k - 1) on).setRunReq k on

/-- The contactor on CTR_LEG (Table 10.12); closings are counted (R356). -/
def Chip.contactor (c : Chip) (s : Nat) (close : Bool) : Chip :=
  let n := c.get (F.CHGSEQ.SQCFG.CTR_LEG s)
  if !c.on (F.CHGSEQ.SQCFG.CTR_EN s) || n < 24 || 40 ≤ n || (c.seq s).contactor == close then c
  else
    let c1 := (c.setShadow (R.PG.DUTY n) (if close then 0x7FFFFFFF#32 else 0)).updSeq s fun x => { x with contactor := close }
    let c2 := if c1.inGroup (R.PG.ID n) then c1 else c1.raise (hCommitReq (R.PG.ID n))
    if close then c2.inc (whole R.LIFE.CTR_CNT) else c2

/-- Step word `i` of step `k`. -/
def Chip.stepWord (c : Chip) (s k i : Nat) : Word := c.rd (R.CHGSEQ.STEP s (4 * k + i))
def Chip.stepType (c : Chip) (s k : Nat) : Nat := bits (c.stepWord s k 0) 0 4
def Chip.stepCount (c : Chip) (s k : Nat) : Nat := bits (c.stepWord s k 0) 8 8

/-! ### Impedance points (R350) -/

/-- The largest n with lo^q × 10^n ≤ hi^q: floor(q × log10(hi ÷ lo)). -/
def decades (q lo hi : Nat) : Nat := ((List.range 128).filter fun n => decide (lo ^ q * 10 ^ (n + 1) ≤ hi ^ q)).length

/-- Largest r below 2^b with r^q ≤ v. -/
def rootFrom : Nat → Nat → Nat → Nat → Nat
  | 0, _, _, r => r
  | b + 1, q, v, r => if (r + 2 ^ b) ^ q ≤ v then rootFrom b q v (r + 2 ^ b) else rootFrom b q v r

def Chip.zStart (c : Chip) (s k : Nat) : Nat := bits (c.stepWord s k 2) 0 16
def Chip.zEnd (c : Chip) (s k : Nat) : Nat := bits (c.stepWord s k 2) 16 16

/-- N of a ZSWEEP step. -/
def Chip.zPoints (c : Chip) (s k : Nat) : Nat :=
  let a := c.zStart s k
  let b := c.zEnd s k
  decades (c.stepCount s k) (min a b) (max a b) + 1

/-- Frequency of point `j`, in 2^-20 mHz: f_start × 10^(±j ÷ COUNT). -/
def Chip.zFreq (c : Chip) (s k j : Nat) : Nat :=
  let q := c.stepCount s k
  let a := c.zStart s k * 100 * 2 ^ 20
  if c.zStart s k ≤ c.zEnd s k then rootFrom 60 q (a ^ q * 10 ^ j) 0 else rootFrom 60 q (a ^ q / 10 ^ j) 0

/-- Ticks of `n` cycles at a frequency in 2^-20 mHz, rounded up. -/
def cycleTicks (f n : Nat) : Nat := if f = 0 then 0 else (n * (1000 * 2 ^ 20) * Config.sec + f - 1) / f

/-- Sine or cosine of the perturbation at `dt` ticks after the start of a point, in 2^-64. -/
def zSin (f dt : Nat) : Int := sinTurns (f * dt) (1000 * 2 ^ 20 * Config.sec)
def zCos (f dt : Nat) : Int := cosTurns (f * dt) (1000 * 2 ^ 20 * Config.sec)

/-! ### Ends of a session (R344, R351, R352, R356) -/

/-- The end of a session: GRADE, END_REASON, the lifetime counters and the record (R356, R357). -/
def Chip.sqClose (c : Chip) (s st reason : Nat) : Chip :=
  let c1 := (c.setSq s st).set (F.CHGSEQ.SQ_STAT.END_REASON s) reason
  let c2 := (c1.raise (if reason = 1 then F.CHGSEQ.GRADE.GRADED s else F.CHGSEQ.GRADE.UNGRADED s)).set (F.CHGSEQ.GRADE.REASON s) reason
  let joule (e : Nat) : Nat := e / (2 ^ 32 * 10 ^ 12 * Config.sec)
  let x := c2.seq s
  let c3 := c2.set64 R.LIFE.EIN_LO R.LIFE.EIN_HI (min (2 ^ 64 - 1) (c2.get64 R.LIFE.EIN_LO R.LIFE.EIN_HI + joule x.eIn))
  let c4 := c3.set64 R.LIFE.EOUT_LO R.LIFE.EOUT_HI (min (2 ^ 64 - 1) (c3.get64 R.LIFE.EOUT_LO R.LIFE.EOUT_HI + joule x.eOut))
  c4.updSeq s fun x => { x with ending := none, endAt := c.st, supply := 0, s2At := none, paused := none }

/-- Step 2 of R351: the stage stops. -/
def Chip.sqStage (c : Chip) (s : Nat) : Chip :=
  let c1 := ((c.sqRefs s 0 0 0 0).sqRun s false).contactor s false
  if c1.usesPilot s then (c1.clr ⟨R.PILOT.CTRL (c1.get (F.CHGSEQ.SQCFG.PILOT s)), 8, 1⟩) else c1

/-- The session ends as ABORTED (R344). -/
def Chip.sqAbort (c : Chip) (s reason : Nat) : Chip :=
  if !c.inSession s then c
  else (((c.sqStage s).raise (F.CHGSEQ.STICKY.ABORTED s)).sqClose s sqAborted reason).recordPowerOf 0x0F s 0x4301 reason (c.get (F.CHGSEQ.SQ_STAT.STEP s))

/-- A clean end begins (R351 step 1). -/
def Chip.sqEnd (c : Chip) (s reason : Nat) : Chip :=
  if !c.inSession s || (c.seq s).ending.isSome then c
  else ((c.sqRefs s 1 0 0 0).updSeq s fun x => { x with ending := some (reason, c.st, 0) })

/-- A clean end is complete (R351 steps 2, 3). -/
def Chip.sqFinish (c : Chip) (s : Nat) : Chip :=
  match (c.seq s).ending with
  | none => c
  | some (reason, _, _) =>
    (((c.sqStage s).sqClose s (if reason = 1 then sqDone else sqEnded) reason).raise (F.CHGSEQ.STICKY.SESSION_END s)).recordPowerOf
      0x0F s 0x4301 reason (c.get (F.CHGSEQ.SQ_STAT.STEP s))

/-- A loss or fault in the supply role: RUN_REQ clears at once (R340 step 5). -/
def Chip.supplyFault (c : Chip) (s : Nat) : Chip :=
  if !c.inSession s then c
  else
    let c1 := c.sqRun s false
    match (c1.seq s).ending with
    | some _ => c1.updSeq s fun x => { x with supply := 4 }
    | none => (c1.sqRefs s 1 0 0 0).updSeq s fun x => { x with ending := some (9, c.st, 0), supply := 4 }

/-- The output is lost (R352 step 4). -/
def Chip.sqOutputLost (c : Chip) (s : Nat) : Chip :=
  let c1 := match c.dabOf s with
    | none => c.sqRefs s 0 0 0 0
    | some k =>
      ((((c.sqRefs s 0 0 0 0).clr (F.CONV.CTRL.RUN_REQ k)).setRunReq (k - 1) false).cvStop k cvOutLost |>.raise (F.CONV.STICKY.OUTPUT_LOST k)).updConv
        k fun x => { x with lostAt := some c.st }
  let c2 := (c1.clr (F.CHGSEQ.SQ_STAT.BAT_PRESENT s)).raise (F.CHGSEQ.STICKY.OUTPUT_LOST s)
  let c3 := if c.inSession s then c2.sqClose s sqOutLost 7
    else ((c2.setSq s sqOutLost).set (F.CHGSEQ.SQ_STAT.END_REASON s) 7).set (F.CHGSEQ.GRADE.REASON s) 7
  ((c3.clr (F.CHGSEQ.GRADE.GRADED s)).raise (F.CHGSEQ.GRADE.UNGRADED s)).recordPowerOf 0x0F s 0x4302
    (c.rd (R.CHGSEQ.VMEAS s)).toNat (c.rd (R.CHGSEQ.IMEAS s)).toNat

/-- A line has become active: the sequencers whose LOST_LINE it is lose their outputs; a session that ended at this very
instant counts as lost too. -/
def Chip.outputsLost (c : Chip) (line : Nat) : Chip :=
  upto 16 (fun c s =>
    let now := (c.seq s).endAt == c.st && decide (c.sqState s = sqDone ∨ c.sqState s = sqAborted ∨ c.sqState s = sqEnded)
    if c.on (F.CHGSEQ.CTRL.EN s) && c.on (F.CHGSEQ.SQCFG.LOST_EN s) && c.get (F.CHGSEQ.SQCFG.LOST_LINE s) == line
        && (c.inSession s || now) then c.sqOutputLost s else c) c

/-- A line becomes active, with the sequencers it tells of a lost output (R255, R352). -/
def Chip.lineActive (c : Chip) (line : Nat) : Chip :=
  if c.on (bitOf R.TRIP.LINE_ACTIVE line) || !c.driven line then c else (c.lineOn line).outputsLost line

def execTripLineActive (line : Fin 32) (s : State) : Host.Outcome State Fault Refusal := s.nextChip fun c => c.lineActive line

/-- The target CONV of a charger has entered LATCHED (R344). -/
def Chip.sqConvLatched (c : Chip) (k : Nat) : Chip :=
  upto 16 (fun c s => if c.dabOf s == some k && c.sqState s == sqRunning then c.sqAbort s 10 else c) c

/-- The period point of a group, with the sessions whose converter latches off. -/
def Chip.groupPoint (c : Chip) (leg : Nat) : Chip :=
  let c1 := c.masterPoint leg
  upto 8 (fun d k => if d.cvState k = cvLatched ∧ c.cvState k ≠ cvLatched then d.sqConvLatched k else d) c1

def execPgPeriodPoint (leg : Fin 40) (s : State) : Host.Outcome State Fault Refusal := s.nextChip fun c => c.groupPoint leg

/-- The NTC channel of a session is above TMAX (R344). -/
def Chip.sqTemp (c : Chip) (channel : Nat) (t : Int) : Chip :=
  upto 16 (fun c s =>
    if c.on (F.CHGSEQ.TSENSE.T_EN s) && c.get (F.CHGSEQ.TSENSE.NTC s) == channel && c.sqState s == sqRunning
        && decide (signed 16 (c.rd (R.CHGSEQ.TMAX s)).toNat < t) then c.sqAbort s 5 else c) c

/-- Isaenaim enters DEGRADED: sessions whose target is a CONV end cleanly (R344, R397). -/
def Chip.sqSafety (c : Chip) : Chip := upto 16 (fun c s => if (c.dabOf s).isSome then c.sqEnd s 11 else c) c

/-! ### Steps (R341–R347) -/

/-- The mean of the V results of the 10 ms before the present, µV; without one it is not stated: free (log 9). -/
def Chip.vMean (c : Chip) (s : Nat) : Int × Chip :=
  let l := ((c.seq s).hist.filter fun e => decide (c.st ≤ e.1 + 10 * Config.ms)).map fun e => e.2
  if l.isEmpty then
    let d := c.draw
    ((Config.freeWord d.1).toInt, d.2)
  else (rnd l.sum (l.length * 2 ^ 16), c)

/-- The PULSE step turns on, with the voltage before it (R347). -/
def Chip.pulseOn (c : Chip) (s : Nat) : Chip :=
  let m := c.vMean s
  (m.2.sqRefs s 1 (c.stepWord s (c.get (F.CHGSEQ.SQ_STAT.STEP s)) 1) 0 0).updSeq s fun x =>
    { x with pulseOn := true, edgeAt := c.st, vOff := some m.1, nearest := none }

/-- A step starts at the present instant (R341–R343, R346, R347, R350). -/
def Chip.stepStart (c : Chip) (s k : Nat) : Chip :=
  let a := c.stepWord s k 1
  let b := c.stepWord s k 2
  let c1 := ((c.set (F.CHGSEQ.SQ_STAT.STEP s) k).sqShow s).updSeq s fun x =>
    { x with stepAt := c.st, paused := x.paused.map fun _ => c.st, endSince := none, sdFirst := none, sdLast := none, pulseOn := false,
             zk := 0, zAt := c.st, zSums := (0, 0, 0, 0), zCount := 0 }
  match c.stepType s k with
  | 1 => c1.sqRefs s 1 a 0 0
  | 2 => c1.sqRefs s 2 0 a.toNat (bits b 0 16 * 10)
  | 3 => c1.pulseOn s
  | 4 => (c1.sqRefs s 0 0 0 0).wr (R.CHGSEQ.OCV_N s) 0
  | 5 => c1.sqRefs s 1 0 0 0
  | _ => c1.sqEnd s 1

/-- The step that runs when a step is reached: a REPEAT jumps while it has jumps left, and else reloads and falls through. -/
def Chip.stepFrom (c : Chip) (s : Nat) : Nat → Nat → Chip
  | 0, _ => c
  | fuel + 1, k =>
    if c.stepType s k ≠ 6 then c.stepStart s (min k 31)
    else
      let left := Tab.at (c.seq s).reps (c.stepCount s k) k
      let c1 := (c.raise (F.CHGSEQ.STICKY.STEP_DONE s)).set (F.CHGSEQ.SQ_STAT.REP_LEFT s) (left - 1)
      if left = 0 then
        ((c1.set (F.CHGSEQ.SQ_STAT.REP_LEFT s) 0).updSeq s fun x => { x with reps := Tab.del x.reps k }).stepFrom s fuel (k + 1)
      else (c1.updSeq s fun x => { x with reps := Tab.put x.reps k (left - 1) }).stepFrom s fuel (bits (c.stepWord s k 0) 16 5)

/-- SD of a REST step, µV/h (R346); from fewer than two points it is not stated: free (log 9). -/
def Chip.selfDischarge (c : Chip) (s : Nat) : Chip :=
  let x := c.seq s
  let c1 := c.raise (F.CHGSEQ.GRADE.SD_VALID s)
  match x.sdFirst, x.sdLast with
  | some (t0, v0), some (t1, v1) =>
    if t0 < t1 then c1.wr (R.CHGSEQ.SD s) (iw (rnd ((v1 - v0) * (3600 * Config.sec : Nat)) (t1 - t0)))
    else
      let d := c1.draw
      d.2.wr (R.CHGSEQ.SD s) (Config.freeWord d.1)
  | _, _ =>
    let d := c1.draw
    d.2.wr (R.CHGSEQ.SD s) (Config.freeWord d.1)

/-- The present step ends and the next one starts (R343). -/
def Chip.stepEnd (c : Chip) (s : Nat) : Chip :=
  let k := c.get (F.CHGSEQ.SQ_STAT.STEP s)
  let w0 := c.stepWord s k 0
  let c1 := (c.raise (F.CHGSEQ.STICKY.STEP_DONE s)).raiseIf (bits w0 6 1 = 1) (F.CHGSEQ.GRADE.CAP_VALID s)
  let c2 := if bits w0 0 4 = 4 ∧ bits w0 7 1 = 1 then c1.selfDischarge s else c1
  c2.stepFrom s 4096 (k + 1)

/-- The instant at which the timers of the present step stand: a suspension stops them (R339). -/
def Chip.stepNow (c : Chip) (s : Nat) : Nat := ((c.seq s).paused).getD c.st

/-- Time in the present step, ticks (R339, R343). -/
def Chip.stepElapsed (c : Chip) (s : Nat) : Nat := c.stepNow s - (c.seq s).stepAt

/-- LIMIT of a step, ticks. -/
def Chip.stepLimit (c : Chip) (s k : Nat) : Nat := bits (c.stepWord s k 3) 0 24 * 100 * Config.ms

/-- The end condition of the present step, but for its LIMIT (R341). -/
def Chip.stepReached (c : Chip) (s k : Nat) : Bool :=
  let a := (c.stepWord s k 1).toInt
  let b := c.stepWord s k 2
  let v : Int := (c.rd (R.CHGSEQ.VMEAS s)).toNat
  match c.stepType s k with
  | 1 => if 0 < a then decide (b.toInt ≤ v) else decide (v ≤ b.toInt)
  | 2 => match (c.seq s).endSince with | some t => decide (t + Config.sec ≤ c.stepNow s) | none => false
  | 5 => decide (c.zPoints s k ≤ (c.seq s).zk)
  | _ => false

/-- The end current of a CV step: since when the current has been at it; the timer stops in a suspension (R339). -/
def Chip.cvWatch (c : Chip) (s k : Nat) : Chip :=
  if (c.seq s).paused.isSome then c else
  let low := c.stepType s k == 2 && decide ((c.rd (R.CHGSEQ.IMEAS s)).toInt.natAbs ≤ bits (c.stepWord s k 2) 16 16 * 10)
  c.updSeq s fun x => { x with endSince := if low then (match x.endSince with | some t => some t | none => some c.st) else none }

/-- DCIR from a voltage and a current, 2^-16 µV and 2^-16 µA, and the voltage before the on-edge (R347); with no current it is not
stated: free (log 9). -/
def Chip.dcirStore (c : Chip) (s : Nat) (v0 v i : Int) : Chip :=
  let d := c.draw
  let c1 := if i = 0 then d.2 else c
  let ohm : Int := if i = 0 then (Config.freeWord d.1).toNat else (if i < 0 then -1 else 1) * rnd ((v - v0 * 2 ^ 16) * 10 ^ 6) i.natAbs
  ((c1.wr (R.CHGSEQ.DCIR s) (wd ((iw ohm).toNat % 2 ^ 24))).raise (F.CHGSEQ.GRADE.DCIR_VALID s)).updSeq s fun x =>
    { x with vOff := none, nearest := none }

/-- DCIR at the first evaluation past the instant on-edge plus DCIR_T, from the nearer of it and the one before (R347). -/
def Chip.dcirWatch (c : Chip) (s : Nat) (at_ : Nat) : Chip :=
  let x := c.seq s
  let goal := x.edgeAt + (c.rd (R.CHGSEQ.DCIR_T s)).toNat % 2 ^ 16 * Config.ms
  match x.vOff with
  | none => c
  | some v0 =>
    if !x.pulseOn || at_ < x.edgeAt || x.paused.isSome then c
    else if at_ < goal then c.updSeq s fun x => { x with nearest := some (goal - at_, x.v, x.i) }
    else
      let r : Int × Int := match x.nearest with | some (d, v, i) => if d < at_ - goal then (v, i) else (x.v, x.i) | none => (x.v, x.i)
      c.dcirStore s v0 r.1 r.2

/-- The pulse turns off before any evaluation has come past the DCIR instant: the nearest result so far stands (R347). -/
def Chip.dcirLate (c : Chip) (s : Nat) : Chip :=
  let x := c.seq s
  match x.vOff, x.nearest with
  | some v0, some (_, v, i) => c.dcirStore s v0 v i
  | some v0, none => c.dcirStore s v0 x.v x.i
  | none, _ => c

/-- A count of consecutive evaluations. -/
def counted (bad : Bool) (n : Nat) : Nat := if bad then n + 1 else 0

/-- The evaluation at the second result of a trigger (R343, R344, R351). -/
def Chip.evaluate (c : Chip) (s at_ : Nat) : Chip :=
  let x := c.seq s
  let v := (c.rd (R.CHGSEQ.VMEAS s)).toNat
  let i := (c.rd (R.CHGSEQ.IMEAS s)).toInt.natAbs
  let imax := (c.rd (R.CHGSEQ.IMAXS s)).toNat % 2 ^ 24
  let vmin := (c.rd (R.CHGSEQ.VMIN s)).toNat % 2 ^ 24
  if c.sqState s ≠ sqRunning ∧ x.ending.isNone then c
  else
    let bv := counted (decide (v < vmin ∨ (c.rd (R.CHGSEQ.VMAX s)).toNat % 2 ^ 24 < v)) x.badV
    let bi := counted (decide (imax < i)) x.badI
    let c1 := c.updSeq s fun x => { x with badV := bv, badI := bi }
    if c.sqState s = sqRunning ∧ 10 ≤ bv then c1.sqAbort s 3
    else if c.sqState s = sqRunning ∧ 10 ≤ bi then c1.sqAbort s 4
    else match x.ending with
      | some (r, t0, n) =>
        if x.supply = 4 then (if i < 500 then c1.sqFinish s else c1)
        else
          let n1 := counted (decide (100 * i < imax)) n
          if 3 ≤ n1 then c1.sqFinish s else c1.updSeq s fun x => { x with ending := some (r, t0, n1) }
      | none =>
        if c.on (F.CHGSEQ.SQCFG.REVERSE s) && !c.cellMode s then
          if v ≤ vmin then
            let d := c1.draw
            let r := (Config.freeWord d.1).toNat % 15
            d.2.sqEnd s (if r = 0 then 0 else r + 1)
          else c1
        else
          let k := c.get (F.CHGSEQ.SQ_STAT.STEP s)
          let c2 := (c1.cvWatch s k).dcirWatch s at_
          let limit := decide (c2.stepLimit s k ≤ c2.stepElapsed s)
          if limit && bits (c2.stepWord s k 0) 5 1 == 1 then c2.sqAbort s 6
          else if limit || c2.stepReached s k then c2.stepEnd s
          else c2

/-! ### Results of the entries (R343, R348, R350, R353) -/

/-- A result counts towards the impedance point in progress: after 2 cycles, for 4 cycles. -/
def Chip.zWeight (c : Chip) (s at_ : Nat) : Option (Int × Int) :=
  let x := c.seq s
  let k := c.get (F.CHGSEQ.SQ_STAT.STEP s)
  if c.sqState s ≠ sqRunning ∨ c.stepType s k ≠ 5 ∨ x.ending.isSome ∨ c.zPoints s k ≤ x.zk ∨ at_ < x.zAt then none
  else
    let f := c.zFreq s k x.zk
    let dt := at_ - x.zAt
    if cycleTicks f 2 ≤ dt ∧ dt < cycleTicks f 6 then some (zSin f dt, zCos f dt) else none

/-- Charge and capacity of an I result (R348). -/
def Chip.accumulate (c : Chip) (s ts : Nat) : Chip :=
  let x := c.seq s
  match x.iTs with
  | none => c
  | some t0 =>
    let dt : Nat := (ts + 2 ^ 32 - t0 % 2 ^ 32) % 2 ^ 32
    let q := x.q + x.i * dt
    let k := c.get (F.CHGSEQ.SQ_STAT.STEP s)
    let cap := if bits (c.stepWord s k 0) 6 1 = 1 then x.cap + (x.i * dt).natAbs else x.cap
    let unit : Nat := 2 ^ 16 * Config.sec
    let charge := (BitVec.ofInt 64 (q / (unit : Int))).toNat
    ((c.set64 (R.CHGSEQ.CHG_LO s) (R.CHGSEQ.CHG_HI s) charge).set64 (R.CHGSEQ.CAP_LO s) (R.CHGSEQ.CAP_HI s) (cap / unit)).updSeq s fun x =>
      { x with q := q, cap := cap, eTicks := dt }

/-- Energy of an I result and the V result of its trigger, when both have come (R348). -/
def Chip.energy (c : Chip) (s : Nat) : Chip :=
  let x := c.seq s
  let e := x.v * x.i * x.eTicks
  let eIn := if 0 < e then x.eIn + e.natAbs else x.eIn
  let eOut := if e < 0 then x.eOut + e.natAbs else x.eOut
  let joule (e : Nat) : Word := wd (min (e / (2 ^ 32 * 10 ^ 12 * Config.sec)) (2 ^ 32 - 1))
  if x.eTicks = 0 then c
  else ((c.wr (R.CHGSEQ.EN_IN s) (joule eIn)).wr (R.CHGSEQ.EN_OUT s) (joule eOut)).updSeq s fun x => { x with eIn := eIn, eOut := eOut, eTicks := 0 }

/-- A V result: VMEAS, the window of R353 and the impedance sums. -/
def Chip.vResult (c : Chip) (s : Nat) (code : Int) (event hold : Nat) : Chip :=
  let v : Int := code * ((c.rd (R.CHGSEQ.VGAIN s)).toNat : Int)
  let mv := (max 0 (rnd v (2 ^ 16 * 1000))).toNat % 2 ^ 24
  let c1 := ((c.wr (R.CHGSEQ.VMEAS s) (wd mv)).seqPut s 5 (wd mv)).updSeq s fun x => { x with
    v := v, vAt := some event
    hist := ((hold, v) :: x.hist).filter fun e => decide (hold ≤ e.1 + 10 * Config.ms) }
  let out := decide (mv < (c.rd (R.CHGSEQ.VMIN s)).toNat % 2 ^ 24 ∨ (c.rd (R.CHGSEQ.VMAX s)).toNat % 2 ^ 24 < mv)
  let n := counted (out && c1.stageIdle s) (c1.seq s).badB
  let inside := !out && c1.stageIdle s
  let c2 := c1.updSeq s fun x => { x with badB := n, inSince := if inside then some (x.inSince.getD hold) else none }
  let c3 := if 10 ≤ n then c2.clr (F.CHGSEQ.SQ_STAT.BAT_PRESENT s) else c2
  match c3.zWeight s hold with
  | none => c3
  | some w => c3.updSeq s fun x => { x with zSums := (x.zSums.1 + v * w.1, x.zSums.2.1 + v * w.2, x.zSums.2.2.1, x.zSums.2.2.2) }

/-- An I result: IMEAS, the integrators and the impedance sums. -/
def Chip.iResult (c : Chip) (s : Nat) (code : Int) (event hold : Nat) : Chip :=
  let i := (code - c.get (F.CHGSEQ.MZERO.I_ZERO s)) * ((c.rd (R.CHGSEQ.IGAIN s)).toNat : Int)
  let ma := iw (rnd i (2 ^ 16 * 1000))
  let c1 := ((c.wr (R.CHGSEQ.IMEAS s) ma).seqPut s 6 ma).updSeq s fun x => { x with i := i, iAt := some event }
  let c2 := if c1.sqState s = sqRunning then c1.accumulate s hold else c1
  let c3 := c2.updSeq s fun x => { x with iTs := some hold }
  match c3.zWeight s hold with
  | none => c3
  | some w => c3.updSeq s fun x =>
      { x with zCount := x.zCount + 1
               zSums := (x.zSums.1, x.zSums.2.1, x.zSums.2.2.1 + i * w.1, x.zSums.2.2.2 + i * w.2) }

/-- A result of an ADC entry reaches the enabled sequencers that name it. -/
def Chip.seqResult (c : Chip) (a e event hold : Nat) : Chip :=
  let code := (c.adcPort a e).toInt
  upto 16 (fun c s =>
    if !c.on (F.CHGSEQ.CTRL.EN s) then c
    else
      let isV := c.get (F.CHGSEQ.MSENSE.V_ADC s) == a && c.get (F.CHGSEQ.MSENSE.V_ENT s) == e
      let isI := c.get (F.CHGSEQ.MSENSE.I_ADC s) == a && c.get (F.CHGSEQ.MSENSE.I_ENT s) == e
      let c1 := if isV then c.vResult s code event hold else c
      let c2 := if isI then c1.iResult s code event hold else c1
      if (isV || isI) && (c2.seq s).vAt == some event && (c2.seq s).iAt == some event then (c2.energy s).evaluate s hold else c2) c

/-! ### The pilot of a session (R337–R340) -/

def Chip.pilot (c : Chip) (p : Nat) : PilotSt := Tab.at c.pilots {} p
def Chip.updPilot (c : Chip) (p : Nat) (f : PilotSt → PilotSt) : Chip := { c with pilots := Tab.upd c.pilots {} p f }

/-- Codes of the pilot states (Table 10.13). -/
abbrev cpA : Nat := 0
abbrev cpB : Nat := 1
abbrev cpC : Nat := 2
abbrev cpD : Nat := 3

/-- Allowed current of an instance, 0.1 A. -/
def Chip.cpAllowed (c : Chip) (p : Nat) : Nat := bits (c.rd (R.PILOT.CP_IMAX p)) 0 16

/-- PWM, an allowed current of at least 6 A, and a cable when one is looked for (R339 step 1). -/
def Chip.pilotReady (c : Chip) (p : Nat) : Bool :=
  c.on (F.PILOT.CP_STAT.PWM p) && decide (60 ≤ c.cpAllowed p) && (!c.on (F.PILOT.PCFG.PP_EN p) || c.on (F.PILOT.PP_STAT.CONNECTED p))

/-- The pilot shows what ends a session: A, E, F or INVALID, or a diode fault. -/
def Chip.pilotFault (c : Chip) (p : Nat) : Bool :=
  let st := c.get (F.PILOT.CP_STAT.STATE p)
  !(st == cpB || st == cpC || st == cpD) || c.on (F.PILOT.CP_STAT.DIODE_FAULT p)

/-- A vehicle-role session sees its pilot anew (R339). -/
def Chip.vehicleEval (c : Chip) (s p : Nat) : Chip :=
  let x := c.seq s
  let st := c.get (F.PILOT.CP_STAT.STATE p)
  let c0 := c.setb (F.CHGSEQ.SQ_STAT.PILOT_OK s) ((st == cpB || st == cpC) && c.pilotReady p)
  match x.s2At with
  | none =>
    if c0.sqState s = sqWait ∧ x.ending.isNone ∧ st = cpB ∧ c0.pilotReady p then
      (c0.raise ⟨R.PILOT.CTRL p, 8, 1⟩).updSeq s fun x => { x with s2At := some c.st }
    else c0
  | some _ =>
    if c0.pilotFault p then (c0.clr ⟨R.PILOT.CTRL p, 8, 1⟩).sqEnd s 9
    else if c0.sqState s ≠ sqRunning then c0
    else
      let stop := c0.cpAllowed p == 0 || st == cpB
      match x.paused, stop with
      | none, true => c0.updSeq s fun x => { x with paused := some c.st }
      | some t, false => c0.updSeq s fun x => { x with
          paused := none, stepAt := x.stepAt + (c.st - t), edgeAt := x.edgeAt + (c.st - t), endSince := x.endSince.map fun e => e + (c.st - t) }
      | _, _ => c0

/-- A supply-role session sees its pilot anew (R340). -/
def Chip.supplyEval (c : Chip) (s p : Nat) : Chip :=
  let x := c.seq s
  let st := c.get (F.PILOT.CP_STAT.STATE p)
  let c0 := c.setb (F.CHGSEQ.SQ_STAT.PILOT_OK s) (!c.pilotFault p)
  if x.supply < 2 then c0
  else if c0.pilotFault p then c0.supplyFault s
  else if x.supply = 3 ∧ st = cpB then c0.sqEnd s 9
  else c0

/-- The sessions that use an instance see its pilot anew. -/
def Chip.pilotEval (c : Chip) (p : Nat) : Chip :=
  upto 16 (fun c s =>
    if c.get (F.CHGSEQ.SQCFG.PILOT s) = p ∧ c.usesPilot s then
      let seen := c.get (F.PILOT.CP_STAT.STATE p) == cpA || (c.get (F.PILOT.CP_STAT.STATE p) == 6 && !c.on (F.PILOT.CP_STAT.PWM p))
      let c1 := if seen then c.updSeq s fun x => if x.acLost then { x with shownA := true } else x else c
      if !c1.inSession s then c1
      else if c1.on (F.CHGSEQ.SQCFG.REVERSE s) then c1.supplyEval s p
      else c1.vehicleEval s p
    else c) c

/-! ### Starting a session (R339, R340, R345) -/

/-- A step of the list is defined and in range (R341, R345). -/
def Chip.stepGood (c : Chip) (s k : Nat) : Bool :=
  let w0 := c.stepWord s k 0
  let a := c.stepWord s k 1
  let b := c.stepWord s k 2
  let n := c.stepCount s k
  bits w0 4 1 == 0 && bits w0 21 11 == 0 && bits (c.stepWord s k 3) 24 8 == 0 &&
  match bits w0 0 4 with
  | 0 => a == 0 && b == 0 && n == 0
  | 1 => a != 0 && n == 0
  | 2 => n == 0
  | 3 => n == 0 && decide ((c.rd (R.CHGSEQ.DCIR_T s)).toNat % 2 ^ 16 < bits b 0 16)
  | 4 => b == 0 && 1 ≤ n && n ≤ 8
  | 5 => 1 ≤ n && n ≤ 20 && c.zStart s k != 0 && c.zEnd s k != 0 && c.zPoints s k ≤ 64
  | 6 => a == 0 && b == 0 && n != 0 && decide (bits w0 16 5 < k)
  | _ => false

/-- The steps up to the first END; none without one (log 28). -/
def Chip.stepList (c : Chip) (s : Nat) : Option (List Nat) :=
  ((List.range 32).find? fun k => c.stepType s k == 0).map fun n => List.range (n + 1)

/-- The highest ZSWEEP frequency of a list, 0.1 Hz. -/
def Chip.zHighest (c : Chip) (s : Nat) (l : List Nat) : Nat :=
  l.foldl (fun m k => if c.stepType s k = 5 then max m (max (c.zStart s k) (c.zEnd s k)) else m) 0

/-- The checks of R345 but for the battery. -/
def Chip.sqAccepts (c : Chip) (s : Nat) : Bool :=
  let va := c.get (F.CHGSEQ.MSENSE.V_ADC s)
  let ve := c.get (F.CHGSEQ.MSENSE.V_ENT s)
  let ia := c.get (F.CHGSEQ.MSENSE.I_ADC s)
  let ie := c.get (F.CHGSEQ.MSENSE.I_ENT s)
  let cell := c.cellMode s
  let rev := c.on (F.CHGSEQ.SQCFG.REVERSE s) && !cell
  let steps := if rev then some [] else c.stepList s
  let line := c.get (F.CHGSEQ.SQCFG.LOST_LINE s)
  let p := c.get (F.CHGSEQ.SQCFG.PILOT s)
  match steps with
  | none => false
  | some l =>
    let per := (c.rd (R.ADC.EPER ia ie)).toNat
    c.on (F.CHGSEQ.CTRL.EN s) && !c.inSession s
      && l.all (fun k => c.stepGood s k)
      && c.adcAdmitted va ve && c.adcAdmitted ia ie
      && c.get (F.ADC.ETRIG.TSRC va ve) == c.get (F.ADC.ETRIG.TSRC ia ie)
      && c.get (F.ADC.ETRIG.TINST va ve) == c.get (F.ADC.ETRIG.TINST ia ie)
      && c.get (F.ADC.ETRIG.TEVT va ve) == c.get (F.ADC.ETRIG.TEVT ia ie)
      && per ≤ 100000000 && decide (per * 8 * c.zHighest s l ≤ 10 ^ 10)
      && c.on (F.CHGSEQ.SQCFG.LOST_EN s) && !c.on (F.TRIP.LCFG.RESUME line) && (c.sqLegs s).all (fun n => c.lineAction line n == 1)
      && (cell || match c.dabOf s with
        | none => false
        | some k => c.on (F.CONV.CTRL.EN k) && c.get (F.CONV.CVCFG.TYPE k) == 2 && c.on (F.CONV.CTRL.EN (k - 1))
            && c.get (F.CONV.CVCFG.TYPE (k - 1)) == 1 && (!rev || (c.on (F.CONV.CVCFG.REV k) && c.on (F.CONV.CVCFG.REV (k - 1)))))
      && (!c.usesPilot s || (c.on ⟨R.PILOT.CTRL p, 0, 1⟩ && c.on (F.PILOT.PCFG.ROLE p) == rev))
      && (c.sqState s != sqOutLost || (c.sqLegs s).all fun n => !(c.pg n).tripped)

/-- CRC-16/CCITT of the step list, its bytes in rising address (R357). -/
def Chip.stepCrc (c : Chip) (s : Nat) : Nat :=
  crc16 ((List.range 128).flatMap fun i => leBytes (c.rd (R.CHGSEQ.STEP s i)))

/-- Every result register reads 0 (R359). -/
def Chip.clearResults (c : Chip) (s : Nat) : Chip :=
  let regs := (List.range 18).map (fun i => R.CHGSEQ.CHG_LO s + 4 * i) ++ (List.range 256).map fun i => R.CHGSEQ.ZF s 0 + 4 * i
  regs.foldl (fun (c : Chip) a => c.wr a 0) c

/-- RUNNING is entered, with RUN_REQ and the first step. -/
def Chip.sqGo (c : Chip) (s : Nat) : Chip :=
  let c1 := (c.sqRun s true).setSq s sqRunning
  if c.on (F.CHGSEQ.SQCFG.REVERSE s) && !c.cellMode s then c1.updSeq s fun x => { x with stepAt := c.st } else c1.stepFrom s 4096 0

/-- An accepted START. -/
def Chip.sqBegin (c : Chip) (s : Nat) : Chip :=
  let x := c.seq s
  let c1 := ((c.clearResults s).clr (F.CHGSEQ.SQ_STAT.END_REASON s)).clr (F.CHGSEQ.SQ_STAT.REP_LEFT s)
  let c2 := ((c1.clr (F.CHGSEQ.SQ_STAT.STEP s)).updSeq s fun _ =>
    { vAt := x.vAt, iAt := x.iAt, v := x.v, i := x.i, iTs := x.iTs, hist := x.hist, badB := x.badB, inSince := x.inSince, contactor := x.contactor }).recordPower
      0x0F s 0x4300 (c.stepCrc s)
  if !c2.usesPilot s then c2.sqGo s
  else
    let p := c2.get (F.CHGSEQ.SQCFG.PILOT s)
    if c2.on (F.CHGSEQ.SQCFG.REVERSE s) then
      ((c2.setSq s sqWait).updSeq s fun x => { x with supply := 1 }).clr (F.PILOT.CP_OFFER.PWM_ON p) |>.pilotEval p
    else (c2.setSq s sqWait).pilotEval p

/-- A write to SQ_CMD (R345, R351). -/
def Chip.sqCmd (c : Chip) (w : Acc) : Chip :=
  let s := w.inst
  match bits w.val 0 2 with
  | 1 =>
    let rev := c.on (F.CHGSEQ.SQCFG.REVERSE s) && !c.cellMode s
    if !rev && !c.on (F.CHGSEQ.SQ_STAT.BAT_PRESENT s) then c.reject w rState false
    else if c.sqAccepts s then c.sqBegin s
    else c.reject w rParam false
  | 2 => c.sqEnd s 2
  | _ => c.reject w rParam false

/-! ### Cell channels (R354) -/

/-- Leg and driver of a channel can be assigned. -/
def Chip.cellFree (c : Chip) (s : Nat) : Bool :=
  let n := 24 + s
  !c.legOn n && !c.on (F.LVDRV.CTRL.EN s)
    && (List.range 8).all (fun k => !c.on (F.CONV.CTRL.EN k) || (c.phasesOf k n).isEmpty)
    && c.admitted.all fun l => (c.loop l).ports.all fun e => !(0x800 + 4 * n ≤ e.1 && e.1 < 0x804 + 4 * n && e.2.2)

/-- A write to a register of a CHGSEQ page (R354, R359). -/
def Chgseq.onWrite (w : Acc) (c : Chip) : Chip :=
  let s := w.inst
  if 0x40 ≤ w.off ∧ w.off ≤ 0x50 then
    if c.on (F.CHGSEQ.CTRL.EN s) then c.reject w rState true
    else if w.off = 0x40 ∧ bits w.val 0 1 = 1 ∧ !c.cellMode s ∧ !c.cellFree s then c.reject w rState true
    else c.store w
  else if w.off = 0x6C then c.sqCmd w
  else if 0x200 ≤ w.off ∧ w.off < 0x400 then (if c.inSession s then c.reject w rState true else c.store w)
  else c.store w

/-- EN of a CHGSEQ page is written (R354, R475). -/
def Chgseq.setEn (w : Acc) (on : Bool) (c : Chip) : Chip :=
  let f := F.CHGSEQ.CTRL.EN w.inst
  if c.on f = on then c
  else if on then c.unlessStarting w fun c => c.raise f
  else if c.inSession w.inst then c.reject w rState (!carriesCommand w.addr w.val)
  else c.clr f

def execCellAssign (src : Source) (q : Fin 16) (v : Word) (s : State) : Host.Outcome State Fault Refusal :=
  let w : Acc := { src := src, addr := R.CHGSEQ.SQCFG q, val := v }
  s.nextGated w (Chgseq.onWrite w)

/-- A write to SQ_CMD. -/
def State.sqWrite (s : State) (src : Source) (q op : Nat) : State :=
  let w : Acc := { src := src, addr := R.CHGSEQ.SQ_CMD q, val := wd op }
  s.gated w (Chgseq.onWrite w)

def execSqStart (src : Source) (q : Fin 16) (s : State) : Host.Outcome State Fault Refusal := .next (s.sqWrite src q 1)

def execSqStop (src : Source) (q : Fin 16) (s : State) : Host.Outcome State Fault Refusal := .next (s.sqWrite src q 2)

def execSqInvalidOp (src : Source) (q : Fin 16) (high : Bool) (s : State) : Host.Outcome State Fault Refusal :=
  .next (s.sqWrite src q (if high then 3 else 0))

/-! ### Events of a session -/

/-- 3 s after S2 closed without state C (R339 step 2). -/
def Chip.pilotTimeout (c : Chip) (s : Nat) : Chip :=
  match (c.seq s).s2At with
  | some t =>
    if c.sqState s ≠ sqWait ∨ c.get (F.PILOT.CP_STAT.STATE (c.get (F.CHGSEQ.SQCFG.PILOT s))) = cpC then c
    else (c.goto (t + 3 * Config.sec)).sqEnd s 9
  | none => c

def execSessionPilotTimeout (q : Fin 16) (s : State) : Host.Outcome State Fault Refusal := s.nextChip fun c => c.pilotTimeout q

/-- State C, with the input of the PFC page at `least` mV or more for 100 ms (R339 step 3). -/
def Chip.runReady (c : Chip) (s : Nat) (least : Int) : Chip :=
  match (c.seq s).s2At, c.dabOf s with
  | some _, some k =>
    if c.sqState s = sqWait ∧ (c.seq s).ending.isNone ∧ c.get (F.PILOT.CP_STAT.STATE (c.get (F.CHGSEQ.SQCFG.PILOT s))) = cpC
        ∧ (c.cvGet (k - 1) (F.CONV.INLOSS.VIN_MIN (k - 1)) * 100 : Nat) ≤ least then (c.sqGo s).pilotEval (c.get (F.CHGSEQ.SQCFG.PILOT s))
    else c
  | _, _ => c

def execSessionRunReady (q : Fin 16) (least : Word) (s : State) : Host.Outcome State Fault Refusal :=
  s.nextChip fun c => c.runReady q least.toInt

/-- The pilot has shown its present state for so many ms. -/
def Chip.pilotHeldFor (c : Chip) (p ms : Nat) : Chip := c.goto ((c.pilot p).stateAt + ms * Config.ms)

/-- A pilot state of a supply-role session has held for 500 ms (R340 steps 2, 3). -/
def Chip.supplyHold (c : Chip) (s : Nat) : Chip :=
  let p := c.get (F.CHGSEQ.SQCFG.PILOT s)
  let st := c.get (F.PILOT.CP_STAT.STATE p)
  if c.sqState s ≠ sqWait ∨ (c.seq s).ending.isSome then c
  else match (c.seq s).supply with
    | 1 => if st = cpB then ((c.pilotHeldFor p 500).raise (F.PILOT.CP_OFFER.PWM_ON p)).updSeq s fun x => { x with supply := 2 } else c
    | 2 =>
      if st = cpC ∨ (st = cpD ∧ c.on (F.PILOT.PCFG.VENT_OK p)) then
        let c1 := c.pilotHeldFor p 500
        (c1.contactor s true).updSeq s fun x => { x with supply := 3, contAt := c1.st }
      else c
    | _ => c

def execSupplyStateHold (q : Fin 16) (s : State) : Host.Outcome State Fault Refusal := s.nextChip fun c => c.supplyHold q

/-- 100 ms after the contactor (R340 step 3). -/
def Chip.supplyRun (c : Chip) (s : Nat) : Chip :=
  let x := c.seq s
  if c.sqState s ≠ sqWait ∨ x.ending.isSome ∨ x.supply ≠ 3 then c else (c.goto (x.contAt + 100 * Config.ms)).sqGo s

def execSupplyRunDelay (q : Fin 16) (s : State) : Host.Outcome State Fault Refusal := s.nextChip fun c => c.supplyRun q

/-- The clean end is complete 10 ms after it began (R340 step 5, R351 step 2). -/
def Chip.endComplete (c : Chip) (s : Nat) : Chip :=
  match (c.seq s).ending with
  | some (_, t0, _) => (c.goto (t0 + 10 * Config.ms)).sqFinish s
  | none => c

def execSessionEndComplete (q : Fin 16) (s : State) : Host.Outcome State Fault Refusal := s.nextChip fun c => c.endComplete q

/-- The pilot has shown state B with PWM for 500 ms after the re-detection of R351; a start that is refused leaves no trace
on a port: none wrote it (log 28). -/
def Chip.redetect (c : Chip) (s : Nat) : Chip :=
  let p := c.get (F.CHGSEQ.SQCFG.PILOT s)
  let x := c.seq s
  if !(x.acLost && x.shownA) || c.sqState s ≠ sqEnded || c.get (F.PILOT.CP_STAT.STATE p) ≠ cpB || !c.on (F.PILOT.CP_STAT.PWM p) then c
  else
    let since := max (c.pilot p).stateAt (((c.pilot p).pwmSince).getD 0)
    let c1 := (c.goto (since + 500 * Config.ms)).updSeq s fun x => { x with acLost := false, shownA := false }
    if c1.on (F.CHGSEQ.SQCFG.AUTO_SESSION s) && c1.on (F.CHGSEQ.SQ_STAT.BAT_PRESENT s) && c1.sqAccepts s then c1.sqBegin s else c1

def execSessionRedetect (q : Fin 16) (s : State) : Host.Outcome State Fault Refusal := s.nextChip fun c => c.redetect q

/-- VMEAS has stayed within the window for 100 ms with the stage not switching (R353). -/
def Chip.batDetect (c : Chip) (s : Nat) : Chip :=
  match (c.seq s).inSince with
  | none => c
  | some t =>
    if !c.on (F.CHGSEQ.CTRL.EN s) || c.on (F.CHGSEQ.SQ_STAT.BAT_PRESENT s) || !c.stageIdle s then c
    else ((c.goto (t + 100 * Config.ms)).raise (F.CHGSEQ.SQ_STAT.BAT_PRESENT s)).raise (F.CHGSEQ.STICKY.BAT_DET s)

def execBatDetect (q : Fin 16) (s : State) : Host.Outcome State Fault Refusal := s.nextChip fun c => c.batDetect q

/-- The next point of a REST step (R346). -/
def Chip.ocvPoint (c : Chip) (s : Nat) : Chip :=
  let k := c.get (F.CHGSEQ.SQ_STAT.STEP s)
  let n := (c.rd (R.CHGSEQ.OCV_N s)).toNat % 16
  let x := c.seq s
  let dt := (c.stepWord s k 1).toNat * 2 ^ n * 100 * Config.ms
  if c.sqState s ≠ sqRunning ∨ x.ending.isSome ∨ x.paused.isSome ∨ c.stepType s k ≠ 4 ∨ c.stepCount s k ≤ n ∨ 8 ≤ n ∨ c.stepLimit s k < dt then c
  else
    let c1 := c.goto (x.stepAt + dt)
    let m := c1.vMean s
    ((m.2.wr (R.CHGSEQ.OCV s n) (iw m.1)).wr (R.CHGSEQ.OCV_N s) (wd (n + 1))).updSeq s fun x =>
      { x with sdFirst := (match x.sdFirst with | some f => some f | none => some (c1.st, m.1)), sdLast := some (c1.st, m.1) }

def execRestOcvPoint (q : Fin 16) (s : State) : Host.Outcome State Fault Refusal := s.nextChip fun c => c.ocvPoint q

/-- The next edge of a PULSE step (R347). -/
def Chip.pulseEdge (c : Chip) (s : Nat) : Chip :=
  let k := c.get (F.CHGSEQ.SQ_STAT.STEP s)
  let b := c.stepWord s k 2
  let x := c.seq s
  if c.sqState s ≠ sqRunning ∨ x.ending.isSome ∨ x.paused.isSome ∨ c.stepType s k ≠ 3 then c
  else if x.pulseOn then
    let c1 := (c.goto (x.edgeAt + bits b 0 16 * Config.ms)).dcirLate s
    (c1.sqRefs s 0 0 0 0).updSeq s fun x => { x with pulseOn := false, edgeAt := c1.st }
  else
    let c1 := (c.goto (x.edgeAt + bits b 16 16 * Config.ms)).pulseOn s
    match (c1.seq s).vOff with
    | some v => (c1.wr (R.CHGSEQ.OCV s 0) (iw v)).wr (R.CHGSEQ.OCV_N s) 1
    | none => c1

def execPulseEdge (q : Fin 16) (s : State) : Host.Outcome State Fault Refusal := s.nextChip fun c => c.pulseEdge q

/-- The present step is a ZSWEEP with points left. -/
def Chip.sweeping (c : Chip) (s : Nat) : Bool :=
  let k := c.get (F.CHGSEQ.SQ_STAT.STEP s)
  c.sqState s == sqRunning && (c.seq s).ending.isNone && c.stepType s k == 5 && decide ((c.seq s).zk < c.zPoints s k)

/-- IREF takes the next value of the perturbation, at the next 2 µs of ST (R342, R350). -/
def Chip.zUpdate (c : Chip) (s : Nat) : Chip :=
  if !c.sweeping s then c
  else
    let k := c.get (F.CHGSEQ.SQ_STAT.STEP s)
    let c1 := c.goto ((c.st / (2 * Config.us) + 1) * (2 * Config.us))
    let x := c1.seq s
    c1.seqPut s 1 (iw (rnd ((c.stepWord s k 1).toInt * zSin (c.zFreq s k x.zk) (c1.st - x.zAt)) (2 ^ 64)))

def execZsweepUpdate (q : Fin 16) (s : State) : Host.Outcome State Fault Refusal := s.nextChip fun c => c.zUpdate q

/-- Re and Im of V̂ ÷ Î in µΩ; with Î = 0 they are not stated: free (log 9). -/
def zOhms (z : Int × Int × Int × Int) (fresh : Nat) : Word × Word :=
  let den := z.2.2.1 * z.2.2.1 + z.2.2.2 * z.2.2.2
  if den = 0 then (Config.freeWord fresh, Config.freeWord (fresh + 1))
  else (iw (rnd ((z.1 * z.2.2.1 + z.2.1 * z.2.2.2) * 10 ^ 6) den.natAbs), iw (rnd ((z.2.1 * z.2.2.1 - z.1 * z.2.2.2) * 10 ^ 6) den.natAbs))

/-- A frequency point is complete (R350). -/
def Chip.zPoint (c : Chip) (s : Nat) : Chip :=
  if !c.sweeping s then c
  else
    let k := c.get (F.CHGSEQ.SQ_STAT.STEP s)
    let x := c.seq s
    let f := c.zFreq s k x.zk
    let c1 := c.goto (x.zAt + cycleTicks f 6)
    let z := x.zSums
    let o := zOhms z c.fresh
    let amp : Int := (c.stepWord s k 1).toInt * (x.zCount * 2 ^ 16 * 1000 * 2 ^ 64 : Nat)
    let valid := decide (amp * amp ≤ 64 * (z.2.2.1 * z.2.2.1 + z.2.2.2 * z.2.2.2)) && x.zCount != 0
    let c2 := ((({ c1 with fresh := c1.fresh + 2 }.wr (R.CHGSEQ.ZF s x.zk) (wd ((f + 2 ^ 19) / 2 ^ 20))).wr (R.CHGSEQ.ZRE s x.zk) o.1).wr
      (R.CHGSEQ.ZIM s x.zk) o.2).wr (R.CHGSEQ.ZSTAT s x.zk) (wd valid.toNat)
    let c3 := c2.updSeq s fun x => { x with zk := x.zk + 1, zAt := c1.st, zSums := (0, 0, 0, 0), zCount := 0 }
    let n := c3.zPoints s k
    if (c3.seq s).zk < n then c3
    else ((c3.raise (F.CHGSEQ.GRADE.Z_VALID s)).set (F.CHGSEQ.GRADE.Z_N s) n).seqPut s 1 0

def execZsweepPointDone (q : Fin 16) (s : State) : Host.Outcome State Fault Refusal := s.nextChip fun c => c.zPoint q

/-- The input of a PFC page is lost: its session ends with AC_LOST (R332, R351). -/
def Chip.acLoss (c : Chip) (k largest : Nat) : Chip :=
  if !c.inputLost k largest then c
  else upto 16 (fun c s =>
    if c.dabOf s = some (k + 1) ∧ c.inSession s then
      ((c.raise (F.CHGSEQ.STICKY.AC_LOST s)).sqEnd s 8).updSeq s fun x => { x with acLost := true, shownA := false }
    else c) (c.cvInputLoss k largest)

def execConvInputLoss (k : Fin 8) (largest : BitVec 32) (s : State) : Host.Outcome State Fault Refusal :=
  s.nextChip fun c => c.acLoss k largest.toNat

end Sys2Proof.Machine
end

