-- ==== Sys2Proof/Machine/Leash.lean ====
section
/-! DEFINITION. Leash: pace sensors, admission, the responses of a region that slows, adjacent regions and late arrivals
(R14–R52, R116, R117, R494). -/

namespace Sys2Proof.Machine

/-! ### Measured pace (R17–R19) -/

/-- Pace sensors of a region (Table 1.1). -/
def sensorCount (g : Nat) : Nat := if g < 9 then 4 else 2

/-- What a look at a region keeps: the ST since which P_MEAS has stood at or above 1.08 P_C, where a rise ends and VOLT_CAPPED
clears (R38, R40), and the ST at which its voltage was last off its target (R178). -/
def Chip.watchOk (c : Chip) (g : Nat) : Chip :=
  let ok := c.paceAtLeast g 108
  c.updRegion g fun x =>
    { x with okSince := if ok then (match x.okSince with | some t => some t | none => some c.st) else none
             rising := x.rising && !ok, capped := x.capped && !ok
             voltOut := if x.voltNear then x.voltOut else some c.st }

/-- A reading of a pace sensor (R17, R18). -/
def Chip.paceReading (c : Chip) (g sensor pace : Nat) : Chip :=
  if sensorCount g ≤ sensor then c
  else
    let c1 := c.updRegion g fun x =>
      let y := { x with sensors := Tab.put x.sensors sensor pace }
      { y with hist := (y.pMeas, c.st) :: (x.hist.takeWhile (fun h => c.st < h.2 + Config.ms)
          ++ ((x.hist.dropWhile fun h => c.st < h.2 + Config.ms).take 1)) }
    c1.watchOk g

def execPaceSensorUpdate (rg : Fin 12) (sensor : Fin 4) (pace : BitVec 16) (at_ : Nat) (s : State) :
    Host.Outcome State Fault Refusal :=
  s.nextChip fun c => (c.goto at_).paceReading rg sensor pace.toNat

/-- Two sensors of a region differ by more than 10 %. DESIGN CHOICE (log 59): the rule gives no base for the 10 %; here the
highest reading is compared with 1.1 times the lowest. -/
def RegionSt.sensorsDiffer (x : RegionSt) : Bool :=
  11 * x.pMeas < 10 * x.sensors.foldl (fun m v => max m v.2) 0

def execPaceFaultDetect (rg : Fin 12) (s : State) : Host.Outcome State Fault Refusal :=
  s.nextChip fun c =>
    if (c.region rg).sensorsDiffer then (c.raise F.LEASH.STICKY.PACE_FAULT).report 8 rg else c

/-! ### Region voltage (R15, R40, R44) -/

/-- Differences of target voltage that stand inside 120 mV of every adjacent region. -/
def Chip.voltFits (c : Chip) (g v : Nat) : Bool :=
  (crossRegions g).all fun k => let t := (c.region k).target; v ≤ t + 120 && t ≤ v + 120

/-- The target in force before step 1, when step 1 begins or raises the target: one that stands already is kept (log 59). -/
def RegionSt.before (x : RegionSt) : Option Nat :=
  match x.preTarget with | some q => some (min q x.target) | none => some x.target

/-- A region's target rises by 10 mV; adjacent regions in the way rise first (R44). None when it cannot rise. `record`: the
rise is one of step 1, so the target before it is kept (R40). -/
def Chip.raiseTarget (record : Bool) : Nat → Chip → Nat → Option Chip
  | 0, _, _ => none
  | fuel + 1, c, g =>
    let t := (c.region g).target
    if c.get F.LEASH.VOLT_LIMIT.VMAX < t + 10 then none
    else
      let c1 := (crossRegions g).foldl (fun (a : Option Chip) k =>
        match a with
        | none => none
        | some x => if (x.region k).target + 120 < t + 10 then x.raiseTarget record fuel k else some x) (some c)
      c1.map fun x => x.updRegion g fun y =>
        { y with target := t + 10, vmeas := t + 10, preTarget := if record then y.before else y.preTarget }

/-- The target of a region can rise by a step inside VMAX and the limit of R44. -/
def Chip.canRise (c : Chip) (g : Nat) : Bool := (c.raiseTarget true 12 g).isSome

/-- The target of a region cannot rise further (R38). -/
def Chip.atLimit (c : Chip) (g : Nat) : Bool := !c.on F.LEASH.ADM_CFG.AUTO_VOLT || !c.canRise g

/-- VOLT_CAPPED clears in each region whose target has left the limit (R40). -/
def Chip.uncap (c : Chip) : Chip :=
  ((List.range regionCount).filter fun g => (c.region g).capped && c.canRise g).foldl
    (fun (x : Chip) g => x.updRegion g fun y => { y with capped := false }) c

/-! ### Admission commands (R35, R51, Table 1.10) -/

/-- A write to ADM_CMD: latched for its decision; ignored and reported while an earlier command waits (R35, R51). -/
def Chip.admCmd (c : Chip) (w : Acc) : Chip :=
  if c.adm.isSome then c.reject w rState false
  else
    { c.clr F.LEASH.ADM_RESULT.DONE with
      adm := some { op := bits w.val 16 3, loop := bits w.val 0 9, pair := bits w.val 9 6, anyPair := bits w.val 15 1 = 1 } }

/-- VOLT_LIMIT (R15, Table 1.13): both values clamped to 720–880 mV; VMIN above VMAX takes VMAX. -/
def Chip.voltLimit (c : Chip) (v : Word) : Chip :=
  let vmax := max 720 (min 880 (bits v 0 10))
  let vmin := min vmax (max 720 (min 880 (bits v 16 10)))
  (c.wr R.LEASH.VOLT_LIMIT (wd (vmax + vmin * 2 ^ 16))).uncap

/-- A write to a register of the LEASH page. -/
def Leash.onWrite (w : Acc) (c : Chip) : Chip :=
  if w.off = 0x44 then c.admCmd w
  else if w.off = 0x54 then (if bits w.val 0 4 < 12 then c.store w else c)
  else if w.off = 0x6C then c.voltLimit w.val
  else if w.off = 0x8C then c.clearFields w.val
    [whole R.LEASH.REFUSE_CNT, whole R.LEASH.LATE_CNT, whole R.LEASH.ATRISK_CNT, whole R.LEASH.MIGR_CNT, whole R.LEASH.DLMISS_CNT]
  else c.store w

/-- The word of an admission command. -/
def admWord (op loop pair : Nat) (anyPair : Bool) : Word := wd (loop + pair * 2 ^ 9 + anyPair.toNat * 2 ^ 15 + op * 2 ^ 16)

/-- An admission command written to ADM_CMD. -/
def State.admWrite (s : State) (src : Source) (v : Word) : State :=
  let w : Acc := { src := src, addr := R.LEASH.ADM_CMD, val := v }
  s.gated w (Leash.onWrite w)

def execAdmAdmit (src : Source) (loop : Fin 512) (pair : BitVec 6) (anyPair : Bool) (s : State) :
    Host.Outcome State Fault Refusal :=
  .next (s.admWrite src (admWord 1 loop pair.toNat anyPair))

def execAdmWithdraw (src : Source) (loop : Fin 512) (s : State) : Host.Outcome State Fault Refusal :=
  .next (s.admWrite src (admWord 2 loop 0 false))

def execAdmTestOnly (src : Source) (loop : Fin 512) (pair : BitVec 6) (anyPair : Bool) (s : State) :
    Host.Outcome State Fault Refusal :=
  .next (s.admWrite src (admWord 3 loop pair.toNat anyPair))

def execAdmReevaluate (src : Source) (s : State) : Host.Outcome State Fault Refusal :=
  .next (s.admWrite src (admWord 4 0 0 false))

def execAdmInvalidOp (src : Source) (loop : Fin 512) (pair : BitVec 6) (op : BitVec 3) (s : State) :
    Host.Outcome State Fault Refusal :=
  .next (s.admWrite src (admWord op.toNat loop pair.toNat false))

/-! ### The decision (R28–R37, R50, R116, R124, R494) -/

/-- A decision in ADM_RESULT: DONE, ACCEPT, PAIR, REASON and LOOP (Table 1.11). -/
def Chip.admAnswer (c : Chip) (loop pair reason : Nat) : Chip :=
  let c1 := c.wr R.LEASH.ADM_RESULT
    (wd (1 + (if reason = 0 then 2 else 0) + pair % 64 * 2 ^ 2 + reason * 2 ^ 8 + loop * 2 ^ 16))
  if reason = 0 then c1
  else
    let c2 := (c1.inc (whole R.LEASH.REFUSE_CNT)).raise F.LEASH.STICKY.REFUSED
    if reason = rNoMem ∨ reason = rPortOwned then c2.lastRefuse 3 pair reason else c2.lastRefuse 2 0 reason

/-- The bound of the last test, in ns, and the deadline of the requested loop. -/
def Chip.admBound (c : Chip) (b : Option Fr) (deadline : Nat) : Chip :=
  let c1 := c.wr R.LEASH.ADM_DEADLINE (wd deadline)
  match b with
  | some x => c1.wr R.LEASH.ADM_BOUND (wd x.toNs)
  | none => c1

/-- The test of an admitted loop where it stands (R494). -/
def Chip.admTestHere (c : Chip) (l : Nat) : Chip :=
  let p := c.get (fPair l)
  let i := c.load l
  let t := loadTest ((c.loads p).filter fun j => j.loop != l) i
  (c.admBound (some t.2) (c.deadline l)).admAnswer l p t.1

/-- A pair a request names can be tried (Table 1.10): EN = 1 and not retired. -/
def Chip.nameable (c : Chip) (p : Nat) : Bool := c.on (F.CLE.CTRL.EN p) && !c.on (F.CLE.PAIR_INFO.RETIRED p)

/-- An admit or test-only command (R28–R36, R116, R124, R494). DESIGN CHOICE: the order of the checks (log 14), and that PAIR
reads 0 where ANY_PAIR finds no pair or the command ends before the search (log 14). -/
def Chip.admRequest (c : Chip) (a : AdmCmd) : Chip :=
  let l := a.loop
  let p := if a.anyPair then 0 else a.pair
  let no (reason : Nat) : Chip := c.admAnswer l p reason
  if c.phase ≠ .ready then no rState
  else if c.on (fAdmitted l) then (if a.op = 1 then no rState else c.admTestHere l)
  else if c.on F.LEASH.CTRL.HOLD_ADM then no rHeld
  else if c.refLost then (c.admAnswer l p rRefLost).raise F.LEASH.STICKY.REF_LOST
  else if !a.anyPair && decide (36 ≤ a.pair) then no rParam
  else match c.reqOf l with
    | none => no rCostMissing
    | some r =>
      let c1 := c.admBound none r.deadline
      let no1 (q reason : Nat) : Chip := c1.admAnswer l q reason
      if !c.paramsOk r || !c.cellPortsOk r then no1 p rParam
      else if r.entry.spanValid && !c.on (fAdmitted r.entry.spanLoop) then no1 p rState
      else if a.anyPair then
        if c.portsTaken r then no1 p rPortOwned
        else
          let f := c.findPair r false fun _ => false
          let c2 := c.admBound f.2 r.deadline
          match f.1 with
          | none => c2.admAnswer l p rNoPair
          | some q => (if a.op = 1 then c2.commitLoop r q else c2).admAnswer l q 0
      else if !c.nameable p then no1 p rState
      else
        let t := c.pairTest r p
        let c2 := c.admBound t.2 r.deadline
        if t.1 ≠ 0 then c2.admAnswer l p t.1
        else if c.portsTaken r then c2.admAnswer l p rPortOwned
        else (if a.op = 1 then c2.commitLoop r p else c2).admAnswer l p 0

/-- A withdrawal (R37, R135, R494); a loop with TSRC = 6 leaves at once (R132). -/
def Chip.admLeave (c : Chip) (l : Nat) : Chip :=
  let p := c.get (fPair l)
  if !c.on (fAdmitted l) then c.admAnswer l p 0
  else if c.isInner l then c.admAnswer l p rState
  else if c.get (lf F.LPD.LPD_TRIG.TSRC l) = 6 then ((c.leave l).afterLeave p).admAnswer l p 0
  else (c.updLoop l fun x => { x with withdraw := true }).admAnswer l p 0

/-- The first failing reason of a pair in the order of R33, for the re-evaluation: every loop is already committed (R50,
log 55). -/
def Chip.retest (c : Chip) (p : Nat) : Nat :=
  let set := c.loads p
  if !(set.all fun j => meetsDeadline set j) then rBlocksCommitted
  else if !fitsLoad set then rOverUtil else 0

/-- A loop fails the re-evaluation: condition 1 for itself, or condition 2 for its pair (R50). -/
def Chip.failsRetest (c : Chip) (l : Nat) : Bool :=
  let set := c.loads (c.get (fPair l))
  !fitsLoad set || !meetsDeadline set (c.load l)

/-- The re-evaluation of every committed loop at the present basis (R50). -/
def Chip.admAgain (c : Chip) (l : Nat) : Chip :=
  let c1 := c.admitted.foldl (fun (x : Chip) k => x.setRisk k fun y => { y with riskTest := c.failsRetest k }) c
  match (List.range 36).find? fun p => c.retest p != 0 with
  | none => c1.admAnswer l 0 0
  | some p => c1.admAnswer l p (c.retest p)

/-- The decision on a latched command (R35, Table 1.10). -/
def Chip.admDecide (c : Chip) (a : AdmCmd) : Chip :=
  match a.op with
  | 1 => c.admRequest a
  | 2 => c.admLeave a.loop
  | 3 => c.admRequest a
  | 4 => c.admAgain a.loop
  | _ => c.admAnswer a.loop a.pair rParam

def execAdmDecisionDone (s : State) : Host.Outcome State Fault Refusal :=
  s.nextChip fun c =>
    match c.adm with
    | none => c
    | some a => { c with adm := none }.admDecide a

/-! ### Loading (R117) -/

/-- The active bank has been written since its authentication: its write generation is not that of its seal (Table 3.14, R477). -/
def Chip.bankChanged (c : Chip) : Bool :=
  match c.active with
  | none => false
  | some b => match (if b = 0 then c.sealA else c.sealB) with
    | some x => x.gen != (if b = 0 then c.genA else c.genB)
    | none => false

/-- The copy on a pair ends (R117). -/
def Chip.loadDone (c : Chip) (p : Nat) (readError : Bool) : Chip :=
  if !c.on (F.CLE.LOAD_STATUS.BUSY p) then c
  else
    let l := c.get (F.CLE.LOAD_STATUS.LOOP p)
    let c1 := c.clr (F.CLE.LOAD_STATUS.BUSY p)
    if !c.on (fAdmitted l) || c.get (fPair l) != p || c.on (fLoaded l) then (c1.nextLoad p).showPair p
    else if readError || c.bankChanged then
      let c2 := ((c1.raise (F.CLE.LOAD_STATUS.ERR p)).set (F.CLE.LOAD_STATUS.ERR_CODE p) (if readError then 1 else 2)).raise (F.CLE.STICKY.LOAD_ERR p)
      (((c2.leave l).afterLeave p).nextLoad p).showPair p
    else
      let s := c.get (fSlot l)
      let c2 := c1.copyImage l p (c.get ((F.CLE.SLOT_PMEM.PBASE p).win s)) (c.get ((F.CLE.SLOT_DMEM.DBASE p).win s))
      (((c2.raise (F.CLE.LOAD_STATUS.DONE p)).raise (fLoaded l)).nextLoad p).showPair p

def execLoadCopyDone (pair : Fin 36) (readError : Bool) (s : State) : Host.Outcome State Fault Refusal :=
  s.nextChip fun c => c.loadDone pair readError

/-! ### When a region slows (R38–R40, R44) -/

/-- Step 2 of R38 where its conditions hold, or step 3 where step 2 is disabled. -/
def Chip.pressOn (c : Chip) (g : Nat) : Chip :=
  if c.paceAtLeast g 102 || !c.atLimit g then c
  else if c.on F.LEASH.ADM_CFG.AUTO_MIG then c.stepMigrate g else c.stepRefuse g

/-- The comparison of P_MEAS with P_C (R38). -/
def Chip.paceCheck (c : Chip) (g : Nat) : Chip :=
  let c1 := c.watchOk g
  let c2 := if !c1.paceAtLeast g 105 && c1.on F.LEASH.ADM_CFG.AUTO_VOLT
    then c1.updRegion g fun x => { x with watch := true, step := max 1 x.step, rising := !x.capped, preTarget := x.before }
    else c1
  let c3 := if (c2.region g).migrating && !c2.stillShort g then c2.updRegion g fun x => { x with migrating := false } else c2
  (c3.pressOn g).showSteps

def execRegionPaceCheck (rg : Fin 12) (s : State) : Host.Outcome State Fault Refusal := s.nextChip fun c => c.paceCheck rg

/-- A rise stands stopped at a limit (R38, R40). -/
def Chip.capVolt (c : Chip) (g : Nat) : Chip :=
  ((c.updRegion g fun x => { x with capped := true, rising := false }).raise F.LEASH.STICKY.VOLT_CAPPED).pressOn g

/-- One step of the rise of step 1 (R38, R44); a target below VMIN rises too (R15). -/
def Chip.voltUp (c : Chip) (g : Nat) : Chip :=
  let x := c.region g
  if x.target < c.get F.LEASH.VOLT_LIMIT.VMIN then ((c.raiseTarget false 12 g).getD c).uncap
  else if !x.rising || !c.on F.LEASH.ADM_CFG.AUTO_VOLT || c.paceAtLeast g 108 then c
  else match c.raiseTarget true 12 g with
    | none => c.capVolt g
    | some c1 => if c1.uncap.canRise g then c1.uncap else c1.uncap.capVolt g

def execVoltStepUp (rg : Fin 12) (s : State) : Host.Outcome State Fault Refusal := s.nextChip fun c => (c.voltUp rg).showSteps

/-- One step of the fall towards the target in force before step 1, and not below VMIN (R15, R40); a target above VMAX falls
too (R15). -/
def Chip.voltDown (c : Chip) (g : Nat) : Chip :=
  let x := c.region g
  let v := x.target - 10
  let fall (q : Option Nat) : Chip :=
    (c.updRegion g fun y => { y with target := v, vmeas := v, preTarget := q, capped := false }).uncap
  if !c.voltFits g v then c
  else if c.get F.LEASH.VOLT_LIMIT.VMAX < x.target then fall x.preTarget
  else match x.preTarget with
    | none => c
    | some q =>
      if x.step ≠ 0 || !c.paceAtLeast g 108 || v < max q (c.get F.LEASH.VOLT_LIMIT.VMIN) then c
      else fall (if v = q then none else some q)

def execVoltStepDown (rg : Fin 12) (s : State) : Host.Outcome State Fault Refusal := s.nextChip fun c => c.voltDown rg

/-- The region leaves every response step (R40). -/
def Chip.recover (c : Chip) (g : Nat) : Chip :=
  let c1 := c.updRegion g fun x =>
    { x with watch := false, migrating := false, refusing := false, capped := false, rising := false, step := 0 }
  let c2 := (c1.admitted.filter fun l => (c1.loop l).span.contains g && c1.slackOk l).foldl
    (fun (c : Chip) l => c.setRisk l fun x => { x with riskSlack := false, riskTest := false }) c1
  c2.reskew.showSteps

def execRegionRecover (rg : Fin 12) (s : State) : Host.Outcome State Fault Refusal :=
  s.nextChip fun c =>
    match (c.region rg).okSince with
    | none => c
    | some t => if c.paceAtLeast rg 108 then (c.goto (t + 10 * Config.ms)).recover rg else c

/-! ### Adjacent regions (R42–R45) -/

/-- A limit of R42 is exceeded between two regions: voltage over 120 mV, temperature over 45 K, pace over 1.8 : 1. -/
def Chip.overLimit (c : Chip) (a b : Nat) : Bool :=
  let x := c.region a
  let y := c.region b
  x.vmeas + 120 < y.vmeas || y.vmeas + 120 < x.vmeas || 720 < (x.temp - y.temp).natAbs
    || 18 * min x.pMeas y.pMeas < 10 * max x.pMeas y.pMeas

/-- All three differences stand inside 90 % of their limits (R45). -/
def Chip.inside90 (c : Chip) (a b : Nat) : Bool :=
  let x := c.region a
  let y := c.region b
  x.vmeas ≤ y.vmeas + 108 && y.vmeas ≤ x.vmeas + 108 && (x.temp - y.temp).natAbs ≤ 648
    && 100 * max x.pMeas y.pMeas ≤ 172 * min x.pMeas y.pMeas

/-- An adjacent-region limit has been exceeded (R45). -/
def Chip.skewSet (c : Chip) (a b : Nat) : Chip :=
  let add (g k : Nat) (c : Chip) : Chip := c.updRegion g fun x => { x with skew := (k :: x.skew).eraseDups }
  let c1 := (add b a (add a b c)).raise F.LEASH.STICKY.SKEW
  (c1.admitted.filter fun l => (c1.loop l).span.contains a && (c1.loop l).span.contains b).foldl Chip.unskew c1

def execSkewDetect (a b : Fin 12) (s : State) : Host.Outcome State Fault Refusal :=
  s.nextChip fun c => if (crossRegions a).contains b && c.overLimit a b then c.skewSet a b else c

/-- SKEW clears between two regions (R45). -/
def Chip.skewReset (c : Chip) (a b : Nat) : Chip :=
  let del (g k : Nat) (c : Chip) : Chip := c.updRegion g fun x => { x with skew := x.skew.filter fun y => y != k }
  (del b a (del a b c)).reskew

def execSkewClear (a b : Fin 12) (s : State) : Host.Outcome State Fault Refusal :=
  s.nextChip fun c => if c.inside90 a b then c.skewReset a b else c

def execVoltLimitWrite (src : Source) (vmin vmax : BitVec 10) (s : State) : Host.Outcome State Fault Refusal :=
  let w : Acc := { src := src, addr := R.LEASH.VOLT_LIMIT, val := wd (vmax.toNat + vmin.toNat * 2 ^ 16) }
  s.nextGated w (Leash.onWrite w)

end Sys2Proof.Machine
end

