-- ==== Sys2Proof/Machine/P256.lean ====
section
/-! DEFINITION. Verification of an ECDSA signature over NIST P-256 (FIPS 186-5), the signature of Table 13.7, on natural
numbers. -/

namespace Sys2Proof.Machine

/-- The prime of the field. -/
abbrev p256P : Nat := 2 ^ 256 - 2 ^ 224 + 2 ^ 192 + 2 ^ 96 - 1

/-- The order of the base point. -/
abbrev p256N : Nat := 0xFFFFFFFF00000000FFFFFFFFFFFFFFFFBCE6FAADA7179E84F3B9CAC2FC632551

/-- The coefficient b of y² = x³ − 3x + b. -/
abbrev p256B : Nat := 0x5AC635D8AA3A93E7B3EBBD55769886BC651D06B0CC53B0F63BCE3C3E27D2604B

/-- The bits of a 256-bit number, the most significant first. -/
def bits256 (n : Nat) : List Bool := ((List.range 256).map fun k => n.testBit k).reverse

/-- b^e modulo m. -/
def powMod (m b e : Nat) : Nat :=
  (bits256 e).foldl (fun a bit => let s := a * a % m; if bit then s * b % m else s) 1

/-- The inverse modulo a prime (Fermat). -/
def invMod (m a : Nat) : Nat := powMod m (a % m) (m - 2)

/-- A point of the curve; none is the point at infinity. -/
abbrev EcPoint := Option (Nat × Nat)

/-- The base point. -/
def p256G : EcPoint :=
  some (0x6B17D1F2E12C4247F8BCE6E563A440F277037D812DEB33A0F4A13945D898C296,
    0x4FE342E2FE1A7F9B8EE7EB4A7C0F9E162BCE33576B315ECECBB6406837BF51F5)

/-- The third point on a line of slope `s` through two points, mirrored. -/
def ecThird (s x1 y1 x2 : Nat) : EcPoint :=
  let p := p256P
  let x3 := (s * s + 2 * p - x1 - x2) % p
  some (x3, (s * (x1 + p - x3) + p - y1) % p)

/-- The sum of two points. -/
def ecAdd (a b : EcPoint) : EcPoint :=
  let p := p256P
  match a, b with
  | none, q => q
  | q, none => q
  | some (x1, y1), some (x2, y2) =>
    if x1 = x2 then
      if (y1 + y2) % p = 0 then none else ecThird (3 * (x1 * x1 + p - 1) * invMod p (2 * y1) % p) x1 y1 x2
    else ecThird ((y2 + p - y1) * invMod p (x2 + p - x1) % p) x1 y1 x2

/-- A multiple of a point. -/
def ecMul (k : Nat) (q : EcPoint) : EcPoint :=
  (bits256 k).foldl (fun (a : EcPoint) bit => let d := ecAdd a a; if bit then ecAdd d q else d) none

/-- The coordinates lie on the curve. -/
def onP256 (x y : Nat) : Bool :=
  decide (x < p256P) && decide (y < p256P) && (y * y + 3 * x) % p256P == (x * x * x + p256B) % p256P

/-- The signature (r, s) of a message with hash `e` verifies under the public key (x, y). -/
def ecdsaOk (x y e r s : Nat) : Bool :=
  let n := p256N
  let w := invMod n s
  decide (0 < r) && decide (r < n) && decide (0 < s) && decide (s < n) && onP256 x y &&
    (match ecAdd (ecMul (e % n * w % n) p256G) (ecMul (r * w % n) (some (x, y))) with
     | some (x1, _) => x1 % n == r
     | none => false)

/-- Bytes as a number, the first the most significant. -/
def beNat (l : List Nat) : Nat := l.foldl (fun n b => n * 256 + b) 0

end Sys2Proof.Machine
end

