-- ==== Sys2Proof/Machine/Sha.lean ====
section
/-! DEFINITION. SHA-256 (FIPS 180-4), the hash of Table 13.7. -/

namespace Sys2Proof.Machine

/-- The constants of the rounds. -/
def shaK : List Nat :=
  [0x428a2f98, 0x71374491, 0xb5c0fbcf, 0xe9b5dba5, 0x3956c25b, 0x59f111f1, 0x923f82a4, 0xab1c5ed5] ++
  [0xd807aa98, 0x12835b01, 0x243185be, 0x550c7dc3, 0x72be5d74, 0x80deb1fe, 0x9bdc06a7, 0xc19bf174] ++
  [0xe49b69c1, 0xefbe4786, 0x0fc19dc6, 0x240ca1cc, 0x2de92c6f, 0x4a7484aa, 0x5cb0a9dc, 0x76f988da] ++
  [0x983e5152, 0xa831c66d, 0xb00327c8, 0xbf597fc7, 0xc6e00bf3, 0xd5a79147, 0x06ca6351, 0x14292967] ++
  [0x27b70a85, 0x2e1b2138, 0x4d2c6dfc, 0x53380d13, 0x650a7354, 0x766a0abb, 0x81c2c92e, 0x92722c85] ++
  [0xa2bfe8a1, 0xa81a664b, 0xc24b8b70, 0xc76c51a3, 0xd192e819, 0xd6990624, 0xf40e3585, 0x106aa070] ++
  [0x19a4c116, 0x1e376c08, 0x2748774c, 0x34b0bcb5, 0x391c0cb3, 0x4ed8aa4a, 0x5b9cca4f, 0x682e6ff3] ++
  [0x748f82ee, 0x78a5636f, 0x84c87814, 0x8cc70208, 0x90befffa, 0xa4506ceb, 0xbef9a3f7, 0xc67178f2]

/-- The initial hash value. -/
def shaInit : List Word :=
  [0x6a09e667, 0xbb67ae85, 0x3c6ef372, 0xa54ff53a, 0x510e527f, 0x9b05688c, 0x1f83d9ab, 0x5be0cd19]

/-- The message schedule, newest word first, grown by one word. -/
def shaGrow (ws : List Word) : List Word :=
  let w (k : Nat) : Word := ws.getD k 0
  let s0 (x : Word) : Word := x.rotateRight 7 ^^^ x.rotateRight 18 ^^^ (x >>> 3)
  let s1 (x : Word) : Word := x.rotateRight 17 ^^^ x.rotateRight 19 ^^^ (x >>> 10)
  (s1 (w 1) + w 6 + s0 (w 14) + w 15) :: ws

/-- One round on the working variables a–h. -/
def shaRound (v : List Word) (kw : Word) : List Word :=
  let x (k : Nat) : Word := v.getD k 0
  let e1 := (x 4).rotateRight 6 ^^^ (x 4).rotateRight 11 ^^^ (x 4).rotateRight 25
  let ch := (x 4 &&& x 5) ^^^ (~~~(x 4) &&& x 6)
  let t1 := x 7 + e1 + ch + kw
  let e0 := (x 0).rotateRight 2 ^^^ (x 0).rotateRight 13 ^^^ (x 0).rotateRight 22
  let maj := (x 0 &&& x 1) ^^^ (x 0 &&& x 2) ^^^ (x 1 &&& x 2)
  [t1 + e0 + maj, x 0, x 1, x 2, x 3 + t1, x 4, x 5, x 6]

/-- One block of 16 words. -/
def shaBlock (h : List Word) (ws : List Word) : List Word :=
  let sched := ((List.range 48).foldl (fun l _ => shaGrow l) ws.reverse).reverse
  let v := (List.range 64).foldl (fun v k => shaRound v (sched.getD k 0 + BitVec.ofNat 32 (shaK.getD k 0))) h
  (List.range 8).map fun k => h.getD k 0 + v.getD k 0

/-- A message as words, padded to whole blocks. -/
def shaWords (bytes : List Nat) : List Word :=
  let n := bytes.length
  let zeros := (119 - n % 64) % 64
  let tail := (List.range 8).map fun k => n * 8 / 2 ^ (8 * (7 - k)) % 256
  let all := bytes ++ [0x80] ++ List.replicate zeros 0 ++ tail
  (List.range (all.length / 4)).map fun k =>
    BitVec.ofNat 32 ((all.getD (4 * k) 0) * 2 ^ 24 + (all.getD (4 * k + 1) 0) * 2 ^ 16 + (all.getD (4 * k + 2) 0) * 2 ^ 8 +
      all.getD (4 * k + 3) 0)

/-- SHA-256 of bytes, as 32 bytes. -/
def sha256 (bytes : List Nat) : List Nat :=
  let ws := shaWords bytes
  let h := (List.range (ws.length / 16)).foldl (fun h b => shaBlock h ((ws.drop (16 * b)).take 16)) shaInit
  h.flatMap fun w => [w.toNat / 2 ^ 24, w.toNat / 2 ^ 16 % 256, w.toNat / 2 ^ 8 % 256, w.toNat % 256]

/-- Bytes of a word, most significant first. -/
def beBytes (v : Word) : List Nat := [v.toNat / 2 ^ 24, v.toNat / 2 ^ 16 % 256, v.toNat / 2 ^ 8 % 256, v.toNat % 256]

end Sys2Proof.Machine
end

