-- ==== Sys2Proof/Machine/Erelo.lean ====
section
/-! DEFINITION. Erelo packets, routes, ports and windows: what the commands of the fabric share (R414–R424, R431, R434). -/

namespace Sys2Proof.Machine

def Chip.eport (c : Chip) (n : Nat) : ElPort := Tab.at c.ports {} n
def Chip.setEport (c : Chip) (n : Nat) (x : ElPort) : Chip := { c with ports := Tab.set c.ports {} n x }
def Chip.updEport (c : Chip) (n : Nat) (f : ElPort → ElPort) : Chip := c.setEport n (f (c.eport n))
def Chip.eflow (c : Chip) (n : Nat) : ElFlow := Tab.at c.el.flows {} n
def Chip.updEl (c : Chip) (f : ElSt → ElSt) : Chip := { c with el := f c.el }
def Chip.setEflow (c : Chip) (n : Nat) (x : ElFlow) : Chip := c.updEl fun e => { e with flows := Tab.set e.flows {} n x }
def Chip.eep (c : Chip) (n : Nat) : ElEp := Tab.at c.el.eps {} n
def Chip.setEep (c : Chip) (n : Nat) (x : ElEp) : Chip := c.updEl fun e => { e with eps := Tab.set e.eps {} n x }

/-! ### Names of states -/

abbrev epDown : Nat := 0
abbrev epProbe : Nat := 1
abbrev epTrain : Nat := 2
abbrev epAuth : Nat := 3
abbrev epUp : Nat := 4
abbrev epIsolated : Nat := 5
abbrev dsIdle : Nat := 0
abbrev dsProbing : Nat := 1
abbrev dsElecting : Nat := 2
abbrev dsAddressing : Nat := 3
abbrev dsRouting : Nat := 4
abbrev dsReady : Nat := 5
abbrev dsNoAddr : Nat := 6

/-- STATE of a port. -/
def Chip.elState (c : Chip) (p : Nat) : Nat := c.get (F.EPORT.STATUS.STATE p)

/-- A port's STATE and LSTATE. -/
def Chip.elSetState (c : Chip) (p v : Nat) : Chip := (c.set (F.EPORT.STATUS.STATE p) v).set (F.EPORT.PORT_STAT.LSTATE p) v

/-- A port carries traffic. -/
def Chip.elUp (c : Chip) (p : Nat) : Bool := c.elState p == epUp

/-- DSTATE. -/
def Chip.elD (c : Chip) : Nat := c.get F.EMGR.DISC_STAT.DSTATE

/-- DSTATE, which STATUS repeats. -/
def Chip.elSetD (c : Chip) (v : Nat) : Chip := (c.set F.EMGR.DISC_STAT.DSTATE v).set F.EMGR.STATUS.STATE v

/-- The domain runs: DSTATE is READY. -/
def Chip.elReadyD (c : Chip) : Bool := c.elD == dsReady

/-- The device's unique ID. -/
def Chip.uid (c : Chip) : Nat := c.get64 R.SYS.UID_LO R.SYS.UID_HI

/-- The device's address, while it holds one. -/
def Chip.elAddr (c : Chip) : Option Nat := if c.on F.EMGR.DEV_ADDR.VALID then some (bits (c.rd R.EMGR.DEV_ADDR) 0 14) else none

/-- The device's address for a record or a header: 0 while it holds none. -/
def Chip.elOwn (c : Chip) : Nat := (c.elAddr).getD 0

/-- `n` words of a key slot as one big-endian number: a public key is x in words 0–7 and y in words 8–15 (R447). -/
def Chip.keyNumber (c : Chip) (slot first n : Nat) : Nat :=
  beNat ((List.range n).flatMap fun k => beBytes (Tab.at c.sec.keys 0 (slot * 16 + first + k)))

/-- New key agreements are refused: the key store is fenced (R438). -/
def Chip.fenced (c : Chip) : Bool := bits (c.rd R.SEC.STATUS) 5 3 == 2

/-- A fabric event record (R443): payload byte 20 holds the port or flow where the event has one, bytes 22–23 the device
address; the other bytes are free values (log 10). -/
def Chip.elRecord (c : Chip) (code : Nat) (which : Option Nat) (dev : Nat) : Chip :=
  let d := c.draw
  let q := (Config.eventPayload code d.1).toNat
  let b20 := which.getD (q % 256)
  d.2.record 0x15 code (b20 % 256 + q / 256 % 256 * 256 + dev % 65536 * 65536) (q / 2 ^ 32)

/-! ### Packets (R417, R419) -/

/-- CLASS of a PTYPE (Table 13.3): 0 best effort, 1 scheduled, 2 link-local, 3 reserved. -/
def elClass (ptype : Nat) : Nat :=
  match ptype with
  | 0 => 1 | 1 => 0 | 2 => 1 | 3 => 1 | 12 => 1 | n => if n ≤ 11 then 2 else 3

/-- Bytes of a value, most significant first. -/
def beOf (n v : Nat) : List Nat := (List.range n).map fun k => v / 2 ^ (8 * (n - 1 - k)) % 256

/-- The first 14 bytes of a header (Table 13.2), with a TTL. -/
def pktHeader (pk : Pkt) (ptype ttl : Nat) : List Nat :=
  [ptype * 16 + elClass ptype * 4 + pk.enc.toNat * 2] ++ beOf 3 pk.dst.toNat ++ [ttl] ++ beOf 2 pk.flow.toNat ++
    beOf 3 pk.src.toNat ++ beOf 2 pk.seq.toNat ++ beOf 2 pk.payload.length

/-- HCRC: CRC-16/CCITT over bytes 0–13. -/
def pktHcrc (pk : Pkt) (ptype : Nat) : BitVec 16 := BitVec.ofNat 16 (crc16 (pktHeader pk ptype pk.ttl.toNat))

/-- The CRC-32 over the header, with byte 4 and bytes 14–15 as 00h, and the payload. -/
def pktCrc (pk : Pkt) (ptype : Nat) : BitVec 32 :=
  BitVec.ofNat 32 (crc32 (pktHeader pk ptype 0 ++ [0, 0] ++ pk.payload.map fun b => b.toNat))

/-- The packet with its checks computed, for sending. -/
def pktSeal (pk : Pkt) (ptype : Nat) : Pkt := { pk with hcrc := pktHcrc pk ptype, crc := pktCrc pk ptype }

/-- L: bytes of the packet. -/
def pktLen (pk : Pkt) : Nat := (if pk.enc then 40 else 20) + pk.payload.length

/-- N: blocks of a packet of L bytes (R417). -/
def elBlocks (l : Nat) : Nat := 2 + (l - 7) / 8

/-- Ticks that cover `n` blocks of 26.4 ns. -/
def blockTicks (n : Nat) : Nat := (n * 67584 + 99) / 100

/-- A packet's checks beyond the header: CRC-32, or the tag with ENC = 1. -/
def pktBodyOk (pk : Pkt) (ptype : Nat) : Bool := if pk.enc then pk.tagOk else pk.crc == pktCrc pk ptype

/-- CRC_ERR counts at a port (R420). -/
def Chip.elCrcErr (c : Chip) (p : Nat) : Chip := (c.inc (F.EPORT.ERR_CNT.CRC_ERR p)).raise (F.EPORT.STICKY.CRC_ERR p)

/-- SYNC_ERR counts at a port (R416, R417). -/
def Chip.elSyncErr (c : Chip) (p : Nat) : Chip := (c.inc (F.EPORT.ERR_CNT.SYNC_ERR p)).raise (F.EPORT.STICKY.SYNC_ERR p)

/-- Route and authentication drops of a port: DROP_CNT [31:16]. -/
def Chip.elDrop (c : Chip) (p : Nat) : Chip := c.inc ⟨R.EPORT.DROP_CNT p, 16, 16⟩

/-- A packet has been received on a port. -/
def Chip.elGot (c : Chip) (p : Nat) : Chip := c.inc (whole (R.EPORT.RX_PKTS p))

/-- A packet is put on a port's lane. -/
def Chip.elPut (c : Chip) (p ptype : Nat) (pk : Pkt) (aborted : Bool) : Chip :=
  (c.inc (whole (R.EPORT.TX_PKTS p))).updEport p fun x =>
    { x with tx := some { ptype := ptype, pkt := pktSeal pk ptype, aborted := aborted, at_ := c.st } }

/-- A link-local packet, which a scheduled one may suspend (R418): its payload layout is given for DESC only, and is left empty
otherwise (log 31). -/
def Chip.elLocal (c : Chip) (p ptype : Nat) (payload : List Nat) : Chip :=
  let pk : Pkt :=
    { enc := false, dst := 0, ttl := 0, flow := 0, src := BitVec.ofNat 24 (c.elOwn * 64), seq := 0
      payload := payload.map fun b => BitVec.ofNat 8 b, hcrc := 0, crc := 0, epoch := 0, pn := 0, tagOk := true }
  (c.elPut p ptype pk false).updEport p fun x => { x with txEnd := max x.txEnd c.st + blockTicks (elBlocks (pktLen pk)) }

/-- A link-local packet on every UP port (R422). -/
def Chip.elLocalAll (c : Chip) (ptype : Nat) : Chip := upto 4 (fun c p => if c.elUp p then c.elLocal p ptype [] else c) c

/-- A scheduled packet suspends a packet that is being sent without reservation (R418). -/
def Chip.elSuspend (c : Chip) (p blocks : Nat) : Chip :=
  let x := c.eport p
  if c.st < x.txEnd then
    (c.inc (whole (R.EPORT.SUSP_CNT p))).setEport p { x with txEnd := x.txEnd + blockTicks (blocks + 2) }
  else c

/-- A scheduled packet leaves through a port. -/
def Chip.elSendSched (c : Chip) (p ptype : Nat) (pk : Pkt) (aborted : Bool) : Chip :=
  (c.elSuspend p (elBlocks (pktLen pk))).elPut p ptype pk aborted

/-! ### Best effort (R416) -/

/-- Best-effort credits of a port. -/
abbrev elCredits (p : Nat) : Fld := ⟨R.EPORT.BE_STAT p, 0, 16⟩

/-- Bytes of a port's buffer in use. -/
abbrev elBuffer (p : Nat) : Fld := ⟨R.EPORT.BE_STAT p, 16, 16⟩

/-- Credits that a packet takes, of 64 bytes. -/
def creditsOf (pk : Pkt) : Nat := (pktLen pk + 63) / 64

/-- A best-effort packet leaves a port and takes its credits; a MSG of this device is done. -/
def Chip.elSendBe (c : Chip) (p from_ ptype : Nat) (pk : Pkt) (aborted : Bool) : Chip :=
  let c1 := (c.set (elCredits p) (c.get (elCredits p) - creditsOf pk)).elPut p ptype pk aborted
  let c2 := c1.updEport p fun x => { x with txEnd := max x.txEnd c.st + blockTicks (elBlocks (pktLen pk)) }
  if from_ = 4 then (c2.clr F.EMGR.MSG_STAT.BUSY).raise F.EMGR.MSG_STAT.DONE else c2

/-- A best-effort packet is sent, or waits for credits in the buffer of the port it came through. -/
def Chip.elOfferBe (c : Chip) (p from_ ptype : Nat) (pk : Pkt) (aborted : Bool) : Chip :=
  if (c.eport p).waiting.isEmpty && creditsOf pk ≤ c.get (elCredits p) then c.elSendBe p from_ ptype pk aborted
  else
    let c1 := if from_ < 4 then c.addSat (elBuffer from_) (pktLen pk) else c
    c1.updEport p fun x => { x with waiting := x.waiting ++ [(from_, ptype, pk)] }

/-- Waiting packets leave in order while there are credits. -/
def Chip.elDrain (c : Chip) (p : Nat) : List (Nat × Nat × Pkt) → Chip
  | [] => c.updEport p fun x => { x with waiting := [] }
  | e :: t =>
    if creditsOf e.2.2 ≤ c.get (elCredits p) then
      let c1 := if e.1 < 4 then c.set (elBuffer e.1) (c.get (elBuffer e.1) - (pktLen e.2.2)) else c
      (c1.elSendBe p e.1 e.2.1 e.2.2 false).elDrain p t
    else c.updEport p fun x => { x with waiting := e :: t }

/-! ### Topology and routes (R422, R423) -/

/-- A device's links: port and peer. -/
def topoLinks (r : TopoRec) : List (Nat × Nat) :=
  [(0, r.p0), (1, r.p1), (2, r.p2), (3, r.p3)].filterMap fun e => e.2.map fun a => (e.1, a.toNat)

/-- The links of a device of the topology. -/
def linksOf (t : List TopoRec) (a : Nat) : List (Nat × Nat) :=
  match t.find? fun r => r.addr.toNat == a with
  | some r => topoLinks r
  | none => []

/-- Distances from the root, breadth first. -/
def elLevels (t : List TopoRec) : Tab Nat :=
  let step (st : List Nat × Tab Nat) (d : Nat) : List Nat × Tab Nat :=
    st.1.foldl (fun acc a => (linksOf t a).foldl (fun acc l =>
      if (Tab.find acc.2 l.2).isSome then acc else (acc.1 ++ [l.2], Tab.put acc.2 l.2 (d + 1))) acc) ([], st.2)
  ((List.range t.length).foldl step ([0], [(0, 0)])).2

/-- The link from `a` to `b` is up: `a` has the greater (level, address) (R423). -/
def upLink (lv : Tab Nat) (a b : Nat) : Bool :=
  let la := Tab.at lv 0 a
  let lb := Tab.at lv 0 b
  decide (lb < la) || (la == lb && decide (b < a))

/-- A reached place of the search for routes: output port, hops and the devices passed, the last first. -/
abbrev Reach := Nat × Nat × List Nat

/-- Legal routes from a device, breadth first: by address × 2, plus 1 once a down link has been taken (R423). -/
def elSearch (t : List TopoRec) (self : Nat) : Tab Reach :=
  let lv := elLevels t
  let add (seen new : Tab Reach) (k : Nat) (r : Reach) : Tab Reach :=
    if (Tab.find seen k).isSome then new
    else match Tab.find new k with
      | some q => if q.1 ≤ r.1 then new else Tab.put new k r
      | none => Tab.put new k r
  let from_ (seen new : Tab Reach) (a : Nat) (down : Bool) (r : Reach) (first : Bool) : Tab Reach :=
    (linksOf t a).foldl (fun (new : Tab Reach) l =>
      let up := upLink lv a l.2
      if down && up then new
      else add seen new (l.2 * 2 + (!up).toNat) (if first then l.1 else r.1, r.2.1 + 1, l.2 :: r.2.2)) new
  let one := from_ [] [] self false (0, 0, [self]) true
  let step (st : Tab Reach × Tab Reach) : Tab Reach × Tab Reach :=
    let new := st.1.foldl (fun (n : Tab Reach) e => from_ st.2 n (e.1 / 2) (e.1 % 2 == 1) e.2 false) []
    (new, new.foldl (fun (s : Tab Reach) e => Tab.put s e.1 e.2) st.2)
  ((List.range (2 * t.length)).foldl (fun st _ => step st) (one, one)).2

/-- The better of the two ways to reach a device: fewer hops, then the lower output port. -/
def bestReach (s : Tab Reach) (d : Nat) : Option Reach :=
  match Tab.find s (2 * d), Tab.find s (2 * d + 1) with
  | some a, some b => if a.2.1 < b.2.1 ∨ (a.2.1 = b.2.1 ∧ a.1 ≤ b.1) then some a else some b
  | some a, none => some a
  | none, r => r

/-- The route table of a device: output port and hops by destination. -/
def elTable (t : List TopoRec) (self : Nat) : Tab (Nat × Nat) :=
  let s := elSearch t self
  t.foldl (fun (tab : Tab (Nat × Nat)) r =>
    let d := r.addr.toNat
    if d = self then tab
    else match bestReach s d with
      | some x => Tab.put tab d (x.1, x.2.1)
      | none => tab) []

/-- The devices of the route to a destination, this device first. -/
def elPath (t : List TopoRec) (self d : Nat) : List Nat :=
  match bestReach (elSearch t self) d with
  | some r => r.2.2.reverse
  | none => []

/-- Two devices are neighbours in the topology. -/
def neighbours (t : List TopoRec) (a b : Nat) : Bool := (linksOf t a).any fun l => l.2 == b

/-- Every link of a path is in the topology. -/
def pathStands (t : List TopoRec) : List Nat → Bool
  | a :: b :: rest => neighbours t a b && pathStands t (b :: rest)
  | _ => true

/-- The route to a device: output port and hops. -/
def Chip.elRoute (c : Chip) (d : Nat) : Option (Nat × Nat) := Tab.find c.el.table d

/-! ### Windows (R431) -/

/-- P of a flow in ticks: 2^K × 10 µs. -/
def flowPeriod (k : Nat) : Nat := 2 ^ k * 256000

/-- G = 70 ns, in ticks. -/
abbrev elGuard : Nat := 1792

/-- The window of a flow on its link of hop `h`, from 1: start and length in 1/100 tick. -/
def flowWindow (k phase h blocks : Nat) : Nat × Nat :=
  ((((phase + (h - 1) * 3072) * 100 + flowPeriod k * 100) - elGuard * 100) % (flowPeriod k * 100), blocks * 67584 + 2 * elGuard * 100)

/-- Two windows meet, modulo the smaller of their periods. -/
def ElWin.meets (a b : ElWin) : Bool :=
  let p := min (flowPeriod a.k) (flowPeriod b.k) * 100
  decide ((b.start + (p - a.start % p)) % p ≤ a.len) || decide ((a.start + (p - b.start % p)) % p ≤ b.len)

/-- Occupancy of windows on a link: Σ length ÷ P × 2^13. -/
def elOccupancy (ws : List ElWin) : Nat := ws.foldl (fun n w => n + w.len * 2 ^ (13 - w.k)) 0

/-- The test of a link: SLOT_BUSY, OVER_UTIL, or 0 when it holds (R431). -/
def Chip.elTestLink (c : Chip) (p : Nat) (w : ElWin) : Nat :=
  let ws := (c.eport p).wins
  if ws.any fun v => v.meets w then 0x83
  else if 4 * elOccupancy (w :: ws) ≤ 3 * (2 ^ 13 * 25600000) then 0
  else rOverUtil

/-- RES_OCC of a port: occupancy in 0.1 % and the number of management flows. -/
def Chip.elOcc (c : Chip) (p : Nat) : Chip :=
  let x := c.eport p
  c.wr (R.EPORT.RES_OCC p) (wd (min 1023 (elOccupancy x.wins * 1000 / (2 ^ 13 * 25600000)) + min 255 x.mgmt.length * 65536))

/-- The windows of a port changed. -/
def Chip.elWins (c : Chip) (p : Nat) (f : List ElWin → List ElWin) : Chip :=
  (c.updEport p fun x => { x with wins := f x.wins }).elOcc p

/-- The windows of a flow on every port released. -/
def Chip.elRelease (c : Chip) (dev flow : Nat) : Chip :=
  upto 4 (fun c p => if (c.eport p).wins.any fun w => w.dev == dev && w.flow == flow then
    c.elWins p fun ws => ws.filter fun w => !(w.dev == dev && w.flow == flow) else c) c

/-- The windows of a flow on every port committed. -/
def Chip.elCommit (c : Chip) (dev flow : Nat) : Chip :=
  upto 4 (fun c p => if (c.eport p).wins.any fun w => w.dev == dev && w.flow == flow then
    c.elWins p fun ws => ws.map fun w => if w.dev == dev && w.flow == flow then { w with held := none } else w else c) c

/-! ### Management flows (R434) -/

/-- The pair of management flows to a device. -/
def Chip.elPairTo (c : Chip) (d : Nat) : Option ElPair := c.el.pairs.find? fun x => x.dest == d

/-- S_M of this device's own link, in 0.1 ns: the longest scheduled window plus 202 ns, and 132 ns for each other management
flow on the link. -/
def Chip.elOwnTerm (c : Chip) (p : Nat) : Nat :=
  let x := c.eport p
  let longest := x.wins.foldl (fun m w => max m w.len) 0
  (longest * 10 + 2559) / 2560 + 2020 + 1320 * (x.mgmt.length - 1)

/-- B_F of an open management flow, in 0.1 ns: H × 120 ns + S_M. -/
def Chip.elBound (c : Chip) (x : ElPair) : Nat :=
  let own := match c.elRoute x.dest with | some r => c.elOwnTerm r.1 | none => 0
  x.hops * 1200 + 1320 + own + x.rest

/-- The destination of the pair that gives way to a seventeenth: the one unused for longest. -/
def leavingPair (l : List ElPair) : Option Nat :=
  if l.length < 16 then none
  else
    let oldest := l.foldl (fun m y => min m y.used) ((l.head?.map fun y => y.used).getD 0)
    (l.find? fun y => y.used == oldest).map fun y => y.dest

/-- A pair joins the list; when there are 16 the pair unused for longest is closed, and its flow leaves its link. -/
def Chip.elAddPair (c : Chip) (x : ElPair) : Chip :=
  match leavingPair c.el.pairs with
  | none => c.updEl fun e => { e with pairs := e.pairs ++ [x] }
  | some d =>
    let c1 := c.updEl fun e => { e with pairs := (e.pairs.filter fun y => y.dest != d) ++ [x] }
    upto 4 (fun (c : Chip) p => (c.updEport p fun y => { y with mgmt := y.mgmt.filter fun m => !(m == (c.elOwn, d)) }).elOcc p) c1

/-- The request for a pair to a device starts its opening (R434): MGMT_PEND shows it. A link carries at most 8 management flows. -/
def Chip.elOpenPair (c : Chip) (d : Nat) : Chip :=
  match c.elRoute d with
  | none => c
  | some r =>
    if c.on F.EMGR.MGMT_PEND.BUSY || !c.elReadyD || decide (8 ≤ (c.eport r.1).mgmt.length) then c
    else
      let c1 := (c.elAddPair { dest := d, used := c.st, hops := r.2 }).wr R.EMGR.MGMT_PEND (wd (d + 2 ^ 31))
      ((c1.updEport r.1 fun x => { x with mgmt := x.mgmt ++ [(c.elOwn, d)] }).elOcc r.1).elLocal r.1 4 []

end Sys2Proof.Machine
end

