-- ==== Sys2Proof/Machine/Thermal.lean ====
section
/-! DEFINITION. The thermal supervisor: channels, throttle domains, the compatibility thresholds, compensation and supplies
(R361–R377, R386–R388). -/

namespace Sys2Proof.Machine

def Chip.chan (c : Chip) (n : Nat) : ChanSt := Tab.at c.chans {} n
def Chip.updChan (c : Chip) (n : Nat) (f : ChanSt → ChanSt) : Chip := { c with chans := Tab.upd c.chans {} n f }
def Chip.dom (c : Chip) (d : Nat) : DomSt := Tab.at c.doms {} d
def Chip.updDom (c : Chip) (d : Nat) (f : DomSt → DomSt) : Chip := { c with doms := Tab.upd c.doms {} d f }

/-- Temperature of a channel, 1/16 °C. -/
def Chip.tempOf (c : Chip) (ch : Nat) : Int := signed 16 (c.rd (R.THERM.TEMP ch)).toNat

/-- A record of Table 11.6: an index in byte 20, a temperature or voltage in bytes 22–23; the other bytes are not stated:
free (log 10). -/
def Chip.recordTherm (c : Chip) (code idx val : Nat) : Chip :=
  let d := c.draw
  let q := (Config.eventPayload code d.1).toNat
  d.2.record 0x10 code (idx % 256 + (q % 256) * 2 ^ 8 + (val % 2 ^ 16) * 2 ^ 16) (q / 2 ^ 32)

/-- Bit of a channel in a pair of registers. -/
def chanBit (lo hi ch : Nat) : Fld := if ch < 32 then bitOf lo ch else bitOf hi (ch - 32)

/-! ### Limits and rates (R364–R368) -/

/-- The channel is in the mask of TCOMPAT, and TCOMPAT is in use. -/
def Chip.tcMasked (c : Chip) (ch : Nat) : Bool :=
  c.on F.TCOMPAT.TC_CFG.TC_EN && c.on (chanBit R.TCOMPAT.TC_MASK_LO R.TCOMPAT.TC_MASK_HI ch)

/-- Threshold and hysteresis of a TCOMPAT register, 1/16 °C and 1/16 K. -/
def Chip.tcLimit (c : Chip) (a : Nat) : Int × Int :=
  let v := c.rd a
  (signed 8 (bits v 0 8) * 16, (bits v 8 4 * 16 : Nat))

/-- The limits of a channel, 1/16 °C. -/
def Chip.chanLimits (c : Chip) (ch : Nat) : List Int :=
  [c.geti (F.THERM.CH_LIM.TLIM.win ch), c.geti (F.THERM.CH_LIM.TSHUT.win ch)]
    ++ (if c.tcMasked ch then [R.TCOMPAT.TC_WARN, R.TCOMPAT.TC_THROT, R.TCOMPAT.TC_SHUT].map (fun a => (c.tcLimit a).1) else [])

/-- The rate a channel's temperature calls for: 0 1 kHz, 1 10 kHz, 2 50 kHz. A channel past a limit is near it (log 30). -/
def Chip.rateNeeded (c : Chip) (ch : Nat) : Nat :=
  let t := c.tempOf ch
  let near (k : Int) : Bool := (c.chanLimits ch).any fun l => decide (l - 16 * k ≤ t)
  let steep (rise : Int) (lim : Nat) : Bool := lim != 0 && decide ((lim : Int) < 2 * rise)
  let r := c.rd (win ch R.THERM.CH_RISE)
  if near 3 then 2
  else if near 10 || steep (signed 16 r.toNat) (c.get (F.THERM.CH_RATE.RISE10.win ch))
      || steep (signed 16 (r.toNat / 2 ^ 16)) (c.get (F.THERM.CH_RATE.RISE1S.win ch)) then 1
  else 0

/-- The sample rate of a channel follows at once upwards; the absence of a condition is timed (R364). -/
def Chip.rateUpdate (c : Chip) (ch : Nat) : Chip :=
  let need := c.rateNeeded ch
  let now := c.get (F.THERM.CH_FLAGS.SRATE.win ch)
  let since (absent : Bool) (t : Option Nat) : Option Nat := if absent then (match t with | some x => some x | none => some c.st) else none
  (c.set (F.THERM.CH_FLAGS.SRATE.win ch) (max need now)).updChan ch fun x =>
    { x with no50 := since (need < 2) x.no50, no10 := since (need < 1) x.no10 }

/-- A channel returns to a lower rate 100 ms after its condition went (R364). -/
def Chip.rateDown (c : Chip) (ch : Nat) : Chip :=
  let x := c.chan ch
  let lower (t : Nat) : Chip :=
    let c1 := c.goto (t + 100 * Config.ms)
    let idle := match x.no10 with | some u => decide (u + 100 * Config.ms ≤ c1.st) | none => false
    c1.set (F.THERM.CH_FLAGS.SRATE.win ch) (if idle then 0 else 1)
  match c.get (F.THERM.CH_FLAGS.SRATE.win ch), x.no50, x.no10 with
  | 2, some t, _ => lower t
  | 1, _, some t => lower t
  | _, _, _ => c

def execThermRateDown (ch : Fin 56) (s : State) : Host.Outcome State Fault Refusal := s.nextChip fun c => c.rateDown ch

/-- The native method acts on a channel (R366, R373, log 30). -/
def Chip.native (c : Chip) (ch : Nat) : Bool := c.on F.THERM.TCFG.NATIVE_EN && c.on (F.THERM.CH_CFG.EN.win ch)

/-- A shutdown request (R367). -/
def Chip.shutRequest (c : Chip) (idx temp : Nat) : Chip :=
  let c1 := (c.raise F.THERM.STICKY.SHUT).recordTherm 0x5402 idx temp
  if c.on F.THERM.TCFG.ISN_EN then c1.report 10 idx else c1

/-- STATE of the THERM page (Table 11.8). -/
def Chip.thermState (c : Chip) : Chip :=
  let shut := c.on F.TCOMPAT.TC_STAT.SHUT || (List.range 56).any fun ch => c.on (F.THERM.CH_FLAGS.SHUT.win ch)
  let thr := (List.range 8).any fun d => c.get (F.THERM.DOM_STAT.LEVEL d) != 0
  c.set F.THERM.STATUS.STATE (if shut then 3 else if thr then 2 else 1)

/-! ### Throttle domains (R369–R371) -/

/-- The limit of a domain's level, Q1.31. -/
def levelWord (l : Nat) : Word := if l = 0 then 0x7FFFFFFF#32 else wd ((16 - l) * 2 ^ 27)

/-- The limit goes to the domain's mailbox word (R371). -/
def Chip.domWrite (c : Chip) (d : Nat) : Chip :=
  if c.on (F.THERM.DOM_CFG.MBX_EN d) then
    c.mailboxWrite (c.get (F.THERM.DOM_CFG.MBX d)) (levelWord (c.get (F.THERM.DOM_STAT.LEVEL d)))
  else c

/-- The condition of a domain (R369). -/
def Chip.domCond (c : Chip) (d : Nat) : Bool :=
  ((List.range 56).any fun ch => c.on (chanBit (R.THERM.DOM_MASK_LO d) (R.THERM.DOM_MASK_HI d) ch)
      && c.on (chanBit R.THERM.COND_LO R.THERM.COND_HI ch))
    || (c.on F.TCOMPAT.TC_STAT.THROT && c.get F.TCOMPAT.TC_CFG.DOMAIN == d)

/-- A step up, when the last one lies 10 ms or more back (R370 step 1). -/
def Chip.domUp (c : Chip) (d : Nat) : Chip :=
  let l := c.get (F.THERM.DOM_STAT.LEVEL d)
  let due := match (c.dom d).lastUp with | some t => decide (t + 10 * Config.ms ≤ c.st) | none => true
  if !due || c.get (F.THERM.DOM_CFG.LMAX d) ≤ l then c
  else
    let c1 := (((c.set (F.THERM.DOM_STAT.LEVEL d) (l + 1)).raise F.THERM.STICKY.THROTTLE).updDom d fun x => { x with lastUp := some c.st }).domWrite d
    (if l = 0 then c1.recordCode 0x10 0x5400 else c1).thermState

/-- A domain follows its condition. -/
def Chip.domUpdate (c : Chip) (d : Nat) : Chip :=
  if !c.on (F.THERM.DOM_CFG.EN d) then c
  else
    let was := c.on (F.THERM.DOM_STAT.COND d)
    let cond := c.domCond d
    let c1 := c.setb (F.THERM.DOM_STAT.COND d) cond
    if cond then ((c1.clr (F.THERM.DOM_STAT.RESTORE d)).updDom d fun x => { x with clear := none }).domUp d
    else if was && c1.get (F.THERM.DOM_STAT.LEVEL d) != 0 then
      (c1.raise (F.THERM.DOM_STAT.RESTORE d)).updDom d fun x => { x with clear := some c.st }
    else c1

def Chip.domsUpdate (c : Chip) : Chip := upto 8 (fun c d => c.domUpdate d) c

/-- The next step up of a domain whose condition stays (R370). -/
def Chip.domStep (c : Chip) (d : Nat) : Chip :=
  if !c.on (F.THERM.DOM_CFG.EN d) || !c.on (F.THERM.DOM_STAT.COND d) then c
  else (match (c.dom d).lastUp with | some t => c.goto (t + 10 * Config.ms) | none => c).domUp d

def execDomainStepUp (d : Fin 8) (s : State) : Host.Outcome State Fault Refusal := s.nextChip fun c => c.domStep d

/-- A restore step (R370 step 2). -/
def Chip.domRestore (c : Chip) (d : Nat) : Chip :=
  match (c.dom d).clear with
  | none => c
  | some t =>
    let l := c.get (F.THERM.DOM_STAT.LEVEL d)
    if !c.on (F.THERM.DOM_CFG.EN d) || l == 0 then c
    else
      let c1 := ((c.goto (t + 100 * Config.ms)).set (F.THERM.DOM_STAT.LEVEL d) (l - 1)).domWrite d
      if l = 1 then (((c1.clr (F.THERM.DOM_STAT.RESTORE d)).updDom d fun x => { x with clear := none }).recordCode 0x10 0x5401).thermState
      else c1.updDom d fun x => { x with clear := some (t + 100 * Config.ms) }

def execDomainRestoreStep (d : Fin 8) (s : State) : Host.Outcome State Fault Refusal := s.nextChip fun c => c.domRestore d

/-- A write to DOM_CFG (R371): with EN = 1 only a write that clears EN and changes nothing else is accepted (log 30). -/
def Chip.domCfg (c : Chip) (w : Acc) (d : Nat) : Chip :=
  let old := c.rd w.addr
  let v := clampField (w.val &&& 0x11F01FF#32) 16 5 0 16
  if c.on (F.THERM.DOM_CFG.EN d) then
    if v = old then c
    else if v = old &&& ~~~0x1000000#32 then
      (((c.wr w.addr v).wr (R.THERM.DOM_STAT d) 0).updDom d fun _ => {}).thermState
    else c.reject w rState true
  else if bits v 8 1 = 1 ∧ (c.portOwner (0x1000 + bits v 0 8)).isSome then c.reject w rState true
  else
    let c1 := c.wr w.addr v
    if bits v 24 1 = 1 then (((c1.wr (R.THERM.DOM_STAT d) 0).updDom d fun _ => {}).domWrite d).thermState else c1

/-! ### Compatibility thresholds (R372, R373) -/

/-- The hottest masked channel that is not in FAULT. -/
def Chip.hottest (c : Chip) : Option Nat :=
  ((List.range 56).filter fun ch => c.tcMasked ch && !c.on (F.THERM.CH_FLAGS.FAULT.win ch)).foldl
    (fun m ch => match m with | some k => if c.tempOf k < c.tempOf ch then some ch else m | none => some ch) none

/-- A threshold with its hysteresis. -/
def hysteresis (active : Bool) (t th hys : Int) : Bool := if active then decide (th - hys ≤ t) else decide (th ≤ t)

/-- The evaluation of the TCOMPAT page. -/
def Chip.tcEvaluate (c : Chip) : Chip :=
  match c.hottest with
  | none => c
  | some ch =>
    let t := c.tempOf ch
    let lim (a : Nat) (f : Fld) : Bool := let l := c.tcLimit a; hysteresis (c.on f) t l.1 l.2
    let warn := lim R.TCOMPAT.TC_WARN F.TCOMPAT.TC_STAT.WARN
    let thr := lim R.TCOMPAT.TC_THROT F.TCOMPAT.TC_STAT.THROT
    let shut := lim R.TCOMPAT.TC_SHUT F.TCOMPAT.TC_STAT.SHUT
    let t16 := (iw t).toNat % 2 ^ 16
    let c1 := c.wr R.TCOMPAT.TC_STAT (wd (t16 + ch * 2 ^ 16 + warn.toNat * 2 ^ 24 + thr.toNat * 2 ^ 25 + shut.toNat * 2 ^ 26))
    let c2 := if warn && !c.on F.TCOMPAT.TC_STAT.WARN then (c1.raise ⟨R.TCOMPAT.STICKY, 1, 1⟩).recordTherm 0x5404 ch t16 else c1
    let c3 := c2.raiseIf (thr && !c.on F.TCOMPAT.TC_STAT.THROT) ⟨R.TCOMPAT.STICKY, 2, 1⟩
    if shut && !c.on F.TCOMPAT.TC_STAT.SHUT then (c3.raise ⟨R.TCOMPAT.STICKY, 3, 1⟩).shutRequest ch t16 else c3

/-- A write to a register of the TCOMPAT page: its thresholds wait for the next sample (R372). -/
def Tcompat.onWrite (w : Acc) (c : Chip) : Chip :=
  let c1 := c.store w
  if w.off = 0x40 then
    let on := c1.on F.TCOMPAT.TC_CFG.TC_EN
    let c2 := c1.set (hState R.TCOMPAT.ID) on.toNat
    (if on then c2 else c2.wr R.TCOMPAT.TC_STAT 0).domsUpdate.thermState
  else c1

/-! ### Samples (R362–R368) -/

/-- The history point nearest to an age, and the rise since. -/
def riseSince (hist : List (Nat × Int)) (now age : Nat) (t : Int) : Int :=
  let dist (p : Nat × Int) : Nat := ((now : Int) - age - p.1).natAbs
  match hist.foldl (fun m p => match m with | some q => if dist p < dist q then some p else m | none => some p) (none : Option (Nat × Int)) with
  | some p => t - p.2
  | none => 0

/-- The throttle condition of a channel, its domains and the state (R366, R368). -/
def Chip.condUpdate (c : Chip) (ch : Nat) : Chip :=
  let f (x : Fld) : Bool := c.on (x.win ch)
  let cond := c.native ch && (f F.THERM.CH_FLAGS.LIM || f F.THERM.CH_FLAGS.RATE10 || f F.THERM.CH_FLAGS.RATE1S || f F.THERM.CH_FLAGS.FAULT)
  let c1 := c.setb (chanBit R.THERM.COND_LO R.THERM.COND_HI ch) cond
  (if c1.tcMasked ch then c1.tcEvaluate else c1).domsUpdate.thermState

/-- A channel enters FAULT (R368). -/
def Chip.chanFault (c : Chip) (ch : Nat) : Chip :=
  if c.on (F.THERM.CH_FLAGS.FAULT.win ch) then c
  else
    let t16 := (c.rd (R.THERM.TEMP ch)).toNat
    let c1 := ((c.raise (F.THERM.CH_FLAGS.FAULT.win ch)).raise F.THERM.STICKY.NTC_FAULT).recordTherm 0x5403 ch t16
    let c2 := if c1.native ch && c1.on (F.THERM.CH_CFG.SHUT_EN.win ch) && !c1.on (F.THERM.CH_FLAGS.SHUT.win ch) then
        (c1.raise (F.THERM.CH_FLAGS.SHUT.win ch)).shutRequest ch t16 else c1
    c2.condUpdate ch

/-- A valid sample of a channel (R365–R367). -/
def Chip.chanSample (c : Chip) (ch : Nat) (t : Int) : Chip :=
  let t16 := (iw t).toNat % 2 ^ 16
  let h := (c.chan ch).hist
  let r10 := riseSince h c.st (10 * Config.ms) t
  let r1s := riseSince h c.st Config.sec t
  let keep := h.filter fun p => decide (c.st ≤ p.1 + Config.sec + 10 * Config.ms)
  let hist := match h with
    | (u, _) :: _ => if u + Config.ms ≤ c.st then (c.st, t) :: keep else keep
    | [] => [(c.st, t)]
  let c1 := (((c.wr (R.THERM.TEMP ch) (wd t16)).clr (F.THERM.CH_FLAGS.FAULT.win ch)).wr (win ch R.THERM.CH_RISE)
    (wd ((iw r10).toNat % 2 ^ 16 + ((iw r1s).toNat % 2 ^ 16) * 2 ^ 16))).updChan ch fun x => { x with hist := hist, last := some c.st }
  let en := c1.native ch
  let thys := c1.get (F.THERM.CH_CFG.THYS.win ch)
  let lim := en && hysteresis (c1.on (F.THERM.CH_FLAGS.LIM.win ch)) t (c1.geti (F.THERM.CH_LIM.TLIM.win ch)) thys
  let above (r : Int) (f : Fld) : Bool := en && c1.get (f.win ch) != 0 && decide ((c1.get (f.win ch) : Int) < r)
  let a10 := above r10 F.THERM.CH_RATE.RISE10
  let a1s := above r1s F.THERM.CH_RATE.RISE1S
  let new := (a10 && !c1.on (F.THERM.CH_FLAGS.RATE10.win ch)) || (a1s && !c1.on (F.THERM.CH_FLAGS.RATE1S.win ch))
  let c2 := (((c1.setb (F.THERM.CH_FLAGS.LIM.win ch) lim).setb (F.THERM.CH_FLAGS.RATE10.win ch) a10).setb (F.THERM.CH_FLAGS.RATE1S.win ch) a1s).raiseIf
    new F.THERM.STICKY.RATE
  let was := c2.on (F.THERM.CH_FLAGS.SHUT.win ch)
  let shut := en && c2.on (F.THERM.CH_CFG.SHUT_EN.win ch) && hysteresis was t (c2.geti (F.THERM.CH_LIM.TSHUT.win ch)) thys
  let c3 := c2.setb (F.THERM.CH_FLAGS.SHUT.win ch) shut
  let c4 := if shut && !was then c3.shutRequest ch t16 else c3
  ((c4.rateUpdate ch).condUpdate ch).sqTemp (if 40 ≤ ch then ch - 40 else 99) t

/-- Charging of the backup cell pauses while channel 39 lies outside 0–45 °C (R383). -/
def Chip.cellTemp (c : Chip) : Chip :=
  let out := decide (c.tempOf 39 < 0 ∨ 720 < c.tempOf 39)
  let k := c.ken
  let c1 := c.setb F.KENNEL.KSTAT.CHG_TEMP out
  match out, k.paused with
  | true, none => (({ c1 with ken := { k with paused := some (c.ken.base + c.st) } }).clr F.KENNEL.KSTAT.CHARGING).set ⟨R.KENNEL.BKP_STAT, 16, 8⟩ 0
  | false, some t =>
    let c2 := { c1 with ken := { k with paused := none, phaseAt := k.phaseAt + (k.base + c.st - t), refAt := k.refAt + (k.base + c.st - t) } }
    if k.phase = 1 then c2.raise F.KENNEL.KSTAT.CHARGING else c2
  | _, _ => c1

/-- A sample of an on-die sensor; a region takes the higher of its two (R16, R361, R368). -/
def Chip.sensorSample (c : Chip) (ch : Nat) (temp : Int) (valid : Bool) (at_ : Nat) : Chip :=
  let c0 := c.goto at_
  if !valid then c0.chanFault ch
  else
    let c1 := c0.chanSample ch temp
    if ch < 24 then c1.updRegion (ch / 2) fun x => { x with temp := max (c1.tempOf (ch / 2 * 2)) (c1.tempOf (ch / 2 * 2 + 1)) }
    else if ch = 39 then c1.cellTemp
    else c1

def execThermSample (ch : Fin 40) (temp : BitVec 16) (valid : Bool) (at_ : Nat) (s : State) : Host.Outcome State Fault Refusal :=
  s.nextChip fun c => c.sensorSample ch temp.toInt valid at_

/-! ### NTC channels (R363) -/

/-- The terms of the area hyperbolic tangent of `y` in 2^-64: term, its power, and the sum. -/
def atanhSeries (y2 : Int) : Nat → Int → Nat → Int → Int
  | 0, _, _, sum => sum
  | fuel + 1, p, k, sum => atanhSeries y2 fuel (p * y2 / 2 ^ 64) (k + 2) (sum + p / k)

/-- ln(num ÷ den) in 2^-64, for positive arguments. -/
def lnRatio (num den : Nat) : Int :=
  let e : Int := (Nat.log2 num : Int) - (Nat.log2 den : Int)
  let a : Int := if 0 ≤ e then num else num * 2 ^ e.natAbs
  let b : Int := if 0 ≤ e then den * 2 ^ e.natAbs else den
  let y : Int := (a - b) * 2 ^ 64 / (a + b)
  2 * atanhSeries (y * y / 2 ^ 64) 40 y 1 0 + e * 12786308645202655660

/-- Temperature in 1/16 °C of a thermistor by the β model, cut to 16 bits. -/
def ntcTemp (r r25 beta : Nat) : Int :=
  let d : Int := 20 * beta * 2 ^ 64 + 5963 * lnRatio r r25
  if d ≤ 0 then 32767
  else max (-32768) (min 32767 (rnd (16 * 5963 * beta * 2 ^ 64 * 5 - 21852 * d) (5 * d.natAbs)))

/-- Ticks between samples at a rate. -/
def rateTicks : Nat → Nat
  | 0 => Config.ms | 1 => 100 * Config.us | _ => 20 * Config.us

/-- A result of an entry reaches the NTC channel that names it. -/
def Chip.ntcResult (c : Chip) (n a e : Nat) : Chip :=
  let ch := 40 + n
  if c.on (F.ADC.ECONV.DIFF a e) then c
  else
    let per := rateTicks (c.get (F.THERM.CH_FLAGS.SRATE.win ch))
    let slow := decide (per < (c.rd (R.ADC.EPER a e)).toNat * 128 / 5)
    let c0 := c.setb (F.THERM.CH_FLAGS.NTC_SLOW.win ch) slow
    let due := match (c0.chan ch).last with | some t => slow || decide (t + per ≤ c0.st) | none => true
    if !due then c0
    else
      -- the result over full scale, as code ÷ full
      let code := bits (c.rd (R.ADC.RES a e)) 0 24 * 2 ^ c.get (F.ADC.ECONV.SHIFT a e)
      let full := 2 ^ 16 * 2 ^ c.get (F.ADC.ECONV.AVG_K a e)
      let beta := c.get (F.THERM.NTC_PARAM.BETA n)
      let r25 := c.get (F.THERM.NTC_PARAM.R25 n)
      let rpu := bits (c.rd R.THERM.NTC_RPU) 0 16
      if 100 * code < full ∨ 99 * full < 100 * code then (c0.updChan ch fun x => { x with last := some c.st }).chanFault ch
      else if beta = 0 ∨ r25 = 0 ∨ rpu = 0 then
        let d := c0.draw
        d.2.chanSample ch (signed 16 (Config.freeWord d.1).toNat)
      else c0.chanSample ch (ntcTemp (rpu * code) (r25 * (full - code)) beta)

/-- A result of an ADC entry reaches the channels that name it. -/
def Chip.thermResult (c : Chip) (a e : Nat) : Chip :=
  upto 16 (fun c n =>
    if c.on (F.THERM.NTC_SRC.VALID n) && c.get (F.THERM.NTC_SRC.ADC n) == a && c.get (F.THERM.NTC_SRC.ENTRY n) == e then c.ntcResult n a e else c) c

/-- The channels whose entry has been withdrawn between two states enter FAULT (R368). -/
def Chip.ntcWithdrawn (c before : Chip) : Chip :=
  upto 16 (fun c n =>
    let a := c.get (F.THERM.NTC_SRC.ADC n)
    let e := c.get (F.THERM.NTC_SRC.ENTRY n)
    if c.on (F.THERM.NTC_SRC.VALID n) && before.adcAdmitted a e && !c.adcAdmitted a e then c.chanFault (40 + n) else c) c

def execAdcDecisionDone (adc : Fin 24) (s : State) : Host.Outcome State Fault Refusal :=
  s.nextChip fun c => (c.adcDecide adc).ntcWithdrawn c

def execAdcWithdrawEffect (adc : Fin 24) (e : Fin 32) (s : State) : Host.Outcome State Fault Refusal :=
  s.nextChip fun c => (c.adcWithdrawn adc e).ntcWithdrawn c

/-! ### Compensation (R374–R376) -/

/-- The crystal trim is updated: the correction, 0.01 ppm, moves by at most 0.1 ppm. The code it takes is not stated: free
(log 9). -/
def Chip.xtUpdate (c : Chip) : Chip :=
  let src := c.get F.THERM.XT_CFG.XT_SRC
  if !c.on F.THERM.XT_CFG.XT_COMP_EN || 56 ≤ src then c
  else
    let d := c.tempOf src - 400
    let c1 := (c.rd R.THERM.XT_C1).toInt
    let c2 := (c.rd R.THERM.XT_C2).toInt
    let c3 := (c.rd R.THERM.XT_C3).toInt
    let goal := -rnd (c1 * d * 256000 + c2 * d * d * 160 + c3 * d * d * d) 40960000
    let old := signed 16 ((c.rd R.THERM.XT_TRIM).toNat / 2 ^ 16)
    let new := max (-5000) (min 5000 (max (old - 10) (min (old + 10) goal)))
    let q := c.draw
    let v := (Config.freeWord q.1).toNat % 2 ^ 12 + ((iw new).toNat % 2 ^ 16) * 2 ^ 16
    (q.2.wr R.THERM.XT_TRIM (wd v)).raiseIf (new.natAbs == 5000) F.THERM.STICKY.XT_TRIM_LIM

def execXtTrimUpdate (s : State) : Host.Outcome State Fault Refusal := s.nextChip fun c => c.xtUpdate

/-- The gain correction of a cluster's reference buffer is recomputed; `corr` comes from its factory calibration (R375). -/
def Chip.refCorrect (c : Chip) (cluster : Nat) (corr : BitVec 16) : Chip :=
  { c with refCorr := Tab.set c.refCorr 0 cluster corr.toNat }.wr R.THERM.REF_STAT (wd (cluster + corr.toNat * 2 ^ 16))

def execRefCorrectionUpdate (cluster : Fin 8) (corr : BitVec 16) (s : State) : Host.Outcome State Fault Refusal :=
  s.nextChip fun c => c.refCorrect cluster corr

/-- A spare delay line of a placer has been calibrated, in its range or not (R376). -/
def Chip.dlCalibrate (c : Chip) (p : Nat) (ok : Bool) : Chip :=
  let c1 := (c.inc ⟨R.THERM.DL_STAT, 0, 16⟩).set ⟨R.THERM.DL_STAT, 16, 6⟩ p
  if ok then { c1 with dlPend := Tab.put c1.dlPend p c.st }.mended 17 p else (c1.raise F.THERM.STICKY.DL_FAIL).report 17 p

def execDlCalibration (p : Fin 41) (ok : Bool) (s : State) : Host.Outcome State Fault Refusal := s.nextChip fun c => c.dlCalibrate p ok

/-- The lines of a placer swap at an instant without an edge within ±100 ns (R376). -/
def Chip.dlSwap (c : Chip) (p : Nat) : Chip :=
  if (Tab.find c.dlPend p).isNone || (p < 40 && (c.pg p).plan.any fun e => decide (c.st ≤ e.at_ + 2560 ∧ e.at_ ≤ c.st + 2560)) then c
  else { c with dlPend := Tab.del c.dlPend p }.clr F.THERM.DL_STAT.DEFER

def execDlSwap (p : Fin 41) (s : State) : Host.Outcome State Fault Refusal := s.nextChip fun c => c.dlSwap p

/-- No such instant has come within 1 ms: the line in service stays. -/
def Chip.dlDefer (c : Chip) (p : Nat) : Chip :=
  match Tab.find c.dlPend p with
  | none => c
  | some t => ({ c.goto (t + Config.ms) with dlPend := Tab.del c.dlPend p }.raise F.THERM.STICKY.DL_DEFER).raise F.THERM.DL_STAT.DEFER

def execDlDefer (p : Fin 41) (s : State) : Host.Outcome State Fault Refusal := s.nextChip fun c => c.dlDefer p

/-! ### Supplies (R377) -/

/-- A supply is sampled. -/
def Chip.supplySample (c : Chip) (k mv vkeep : Nat) : Chip :=
  let r := Tab.at c.supRuns (0, 0) k
  let lim := c.rd (R.THERM.SUP_LIM k)
  let low := decide (mv < bits lim 0 16)
  let high := decide (bits lim 16 16 < mv)
  let u := min 3 (counted low r.1)
  let o := min 3 (counted high r.2)
  let fu := bitOf R.THERM.SUP_STAT k
  let fo := bitOf R.THERM.SUP_STAT (16 + k)
  let nu := (c.on fu && low) || u == 3
  let no := (c.on fo && high) || o == 3
  let new := (nu && !c.on fu) || (no && !c.on fo)
  let c1 := (({ c with supRuns := Tab.set c.supRuns (0, 0) k (u, o) }.setb fu nu).setb fo no).set F.KENNEL.VKEEP_MON.VKEEP vkeep
  let c2 := (if k = 3 then c1.set F.KENNEL.VMON.VSYS mv else if k = 4 then c1.set F.KENNEL.VMON.VBKP mv else c1).noteOk 11 k (!nu && !no)
  if !new then c2
  else
    let c3 := (c2.raise F.THERM.STICKY.SUP_FAULT).recordTherm 0x5405 k mv
    if c3.on (bitOf R.THERM.SUP_CFG k) then c3.report 11 k else c3

def execSupplySample (k : Fin 9) (mv vkeep : BitVec 16) (s : State) : Host.Outcome State Fault Refusal :=
  s.nextChip fun c => c.supplySample k mv.toNat vkeep.toNat

/-! ### The THERM page (R387) -/

/-- A write to a register of the THERM page. -/
def Therm.onWrite (w : Acc) (c : Chip) : Chip :=
  let sel := bits (c.rd R.THERM.CH_SEL) 0 6
  if w.off = 0x44 then (if 56 ≤ bits w.val 0 6 then c else c.store w)
  else if w.off = 0x48 ∨ w.off = 0x4C ∨ w.off = 0x50 then c.storeAt (win sel w.addr) w.val
  else if 0x300 ≤ w.off ∧ w.off < 0x380 then
    let d := (w.off - 0x300) / 16
    if w.off % 16 = 0 then c.domCfg w d
    else if c.on (F.THERM.DOM_CFG.EN d) then c.reject w rState true
    else c.store w
  else c.store w

def execDomainEnable (src : Source) (d : Fin 8) (s : State) : Host.Outcome State Fault Refusal :=
  let w : Acc := { src := src, addr := R.THERM.DOM_CFG d, val := s.chip.rd (R.THERM.DOM_CFG d) ||| 0x1000000#32 }
  s.nextGated w (Therm.onWrite w)

end Sys2Proof.Machine
end

