-- ==== Sys2Proof/Machine/Kennel.lean ====
section
/-! DEFINITION. The Kennel: calendar, retained memory, power path, backup cell, ship mode and wake (R378–R386, R389). -/

namespace Sys2Proof.Machine

def Chip.updKen (c : Chip) (f : KenSt → KenSt) : Chip := { c with ken := f c.ken }

/-- The value a read access drives (R58, R61). -/
def Chip.answer (c : Chip) (v : Word) : Chip := { c with out := [v] }

/-- A read access of a source, which takes place while its port is open (R55). -/
def State.nextRead (s : State) (src : Source) (f : Chip → Chip) : Host.Outcome State Fault Refusal :=
  .next (if s.chip.portOpen src then s.onChip f else s)

/-- STATE codes of the Kennel (Table 11.11). -/
abbrev knVsys : Nat := 0
abbrev knHandover : Nat := 1
abbrev knVbkp : Nat := 2
abbrev knWait : Nat := 3

def Chip.kenState (c : Chip) : Nat := c.get F.KENNEL.STATUS.STATE

/-- The main domain is powered. -/
def Chip.powered (c : Chip) : Bool := c.phase != .held

/-! ### Calendar (R379, R385) -/

/-- Kennel time, which runs on across resets of the main domain (R378, R480). -/
def Chip.kenNow (c : Chip) : Nat := c.ken.base + c.st

/-- Time moves on to an instant of Kennel time. -/
def Chip.kenGoto (c : Chip) (t : Nat) : Chip := c.goto (t - c.ken.base)

/-- CAL_SUB at the present instant. -/
def Chip.calSub (c : Chip) : Nat := min 32767 (c.ken.subAt + (c.kenNow - c.ken.secAt) * 32768 / Config.sec)

/-- A read of CAL_SUB copies CAL_SEC into CAL_SEC_LAT. -/
def Chip.calSubRead (c : Chip) : Chip := (c.wr R.KENNEL.CAL_SEC_LAT (c.rd R.KENNEL.CAL_SEC)).answer (wd c.calSub)

def execCalSubRead (src : Source) (s : State) : Host.Outcome State Fault Refusal := s.nextRead src fun c => c.calSubRead

/-- A wake source is seen: WAKE_CAUSE records it, and raises KEN_PWREN when it is enabled (R385). -/
def Chip.wake (c : Chip) (i : Nat) : Chip :=
  let c1 := c.raise (bitOf R.KENNEL.WAKE_CAUSE i)
  if c1.on (bitOf R.KENNEL.WAKE_CFG i) then c1.updKen fun k => { k with pwren := true } else c1

/-- The calendar seconds increment; OPTIME counts the seconds with the main domain powered. -/
def Chip.calTick (c : Chip) (at_ : Nat) : Chip :=
  let c0 := c.goto at_
  let c1 := (c0.bump (whole R.KENNEL.CAL_SEC)).updKen fun k => { k with secAt := c0.kenNow, subAt := 0 }
  let c2 := if c1.powered then c1.bump (whole R.KENNEL.OPTIME) else c1
  if c2.rd R.KENNEL.CAL_SEC = c2.rd R.KENNEL.ALARM then c2.wake 1 else c2

def execCalSecTick (at_ : Nat) (s : State) : Host.Outcome State Fault Refusal := s.nextChip fun c => c.calTick at_

/-! ### Token and retained memory (R380, R389) -/

/-- The warm token is invalidated. -/
def Chip.tokenClear (c : Chip) : Chip := c.clr F.KENNEL.KSTAT.TOKEN_VALID

/-- A word of the retained SRAM. -/
def Chip.retWord (c : Chip) (i : Nat) : Word := (Tab.find c.ken.ret i).getD (Config.freeWord (c.ken.retBase + i))

/-- RET_ADDR after an access. -/
def Chip.retNext (c : Chip) : Chip := c.bump ⟨R.KENNEL.RET_ADDR, 0, 10⟩

/-- A write to RET_DATA. -/
def Chip.retWrite (c : Chip) (v : Word) : Chip :=
  (c.updKen fun k => { k with ret := Tab.put k.ret (bits (c.rd R.KENNEL.RET_ADDR) 0 10) v }).retNext

/-- A read of RET_DATA, with a parity error or without. -/
def Chip.retRead (c : Chip) (bad : Bool) : Chip :=
  ((c.answer (c.retWord (bits (c.rd R.KENNEL.RET_ADDR) 0 10))).raiseIf bad F.KENNEL.STICKY.RET_PARITY).retNext

/-! ### Cell charging (R383) -/

/-- Charging can run: enabled, from VSYS, with no fault. -/
def Chip.chargeable (c : Chip) : Bool :=
  c.on F.KENNEL.BKP_CFG.CHG_EN && !c.on F.KENNEL.KSTAT.SRC && !c.on F.KENNEL.STICKY.CHG_FAULT

/-- A charging phase begins: the current is ICHG, or a tenth of it below VPRE. -/
def Chip.chargePhase (c : Chip) (n : Nat) : Chip :=
  let run := n == 1 && !c.on F.KENNEL.KSTAT.CHG_TEMP
  let ichg := c.get F.KENNEL.BKP_CFG.ICHG
  let i := if bits (c.rd R.KENNEL.BKP_STAT) 0 16 < c.get F.KENNEL.BKP_CUT.VPRE then ichg / 10 else ichg
  ((c.setb F.KENNEL.KSTAT.CHARGING run).set ⟨R.KENNEL.BKP_STAT, 16, 8⟩ (if run then i else 0)).updKen fun k =>
    { k with phase := n, phaseAt := c.kenNow, paused := if c.on F.KENNEL.KSTAT.CHG_TEMP && n != 0 then some c.kenNow else none }

/-- Charging starts, or stops, as its conditions now say. -/
def Chip.chargeCheck (c : Chip) : Chip :=
  if c.chargeable then
    (if c.ken.phase = 0 then (c.chargePhase 1).updKen fun k => { k with ocvRef := bits (c.rd R.KENNEL.BKP_STAT) 0 16, refAt := c.kenNow } else c)
  else if c.ken.phase = 0 then c else c.chargePhase 0

/-- A charge or rest phase ends; `ocv` is the open-circuit voltage at the end of a rest. -/
def Chip.chargeEnd (c : Chip) (ocv : Nat) : Chip :=
  let k := c.ken
  if k.phase = 0 ∨ k.paused.isSome then c
  else if k.phase = 1 then (c.kenGoto (k.phaseAt + max 1 (c.get F.KENNEL.BKP_CFG.ON_T) * 100 * Config.ms)).chargePhase 2
  else
    let dt := if k.phase = 2 then max 1 (c.get F.KENNEL.BKP_CFG.REST_T) * 100 * Config.ms else 600 * Config.sec
    let c1 := (c.kenGoto (k.phaseAt + dt)).set ⟨R.KENNEL.BKP_STAT, 0, 16⟩ ocv
    let c2 := if k.ocvRef + 10 ≤ ocv then c1.updKen fun k => { k with ocvRef := ocv, refAt := c1.kenNow } else c1
    if k.phase = 2 then c2.chargePhase (if c.get F.KENNEL.BKP_VLIM.VFULL ≤ ocv then 3 else 1)
    else if ocv < c.get F.KENNEL.BKP_VLIM.VRECHG then
      (c2.updKen fun k => { k with ocvRef := ocv, refAt := c1.kenNow }).chargePhase 1
    else c2.chargePhase 3

def execBkpChargePhaseEnd (ocv : BitVec 16) (s : State) : Host.Outcome State Fault Refusal := s.nextChip fun c => c.chargeEnd ocv.toNat

/-- The OCV has not risen by 10 mV over 1 h of charging. -/
def Chip.chargeTimeout (c : Chip) : Chip :=
  let k := c.ken
  if (k.phase ≠ 1 ∧ k.phase ≠ 2) ∨ k.paused.isSome then c
  else
    let c1 := ((c.kenGoto (k.refAt + 3600 * Config.sec)).raise F.KENNEL.STICKY.CHG_FAULT).chargePhase 0
    let d := c1.draw
    let q := (Config.eventPayload 0x5407 d.1).toNat
    d.2.record 0x12 0x5407 (q % 2 ^ 16 + bits (c1.rd R.KENNEL.BKP_STAT) 0 16 * 2 ^ 16) (q / 2 ^ 32)

def execBkpChargeTimeout (s : State) : Host.Outcome State Fault Refusal := s.nextChip fun c => c.chargeTimeout

/-! ### Power path (R381, R382, R384) -/

/-- VSYS_OK falls with the cell at `vbkp` mV. -/
def Chip.vsysFall (c : Chip) (vbkp : Nat) : Chip :=
  if !c.on F.KENNEL.KSTAT.VSYS_OK then c
  else
    let c1 := c.clr F.KENNEL.KSTAT.VSYS_OK
    if c1.on F.KENNEL.KSTAT.SHIP_ARMED then
      (((c1.tokenClear).clr F.KENNEL.KSTAT.SHIP_ARMED).updKen fun k => { k with ship := true, cellOpen := true }).chargePhase 0
    else match c1.kenState with
      | 0 =>
        let c2 := ((c1.set F.KENNEL.STATUS.STATE knHandover).raise F.KENNEL.STICKY.HANDOVER).raiseIf (vbkp < 2500) F.KENNEL.STICKY.BKP_ABSENT
        let d := c2.draw
        let q := (Config.eventPayload 0x5406 d.1).toNat
        d.2.record 0x12 0x5406 (q % 2 ^ 16 + vbkp * 2 ^ 16) (q / 2 ^ 32)
      | 3 => c1.set F.KENNEL.STATUS.STATE knVbkp
      | _ => c1

def execVsysFall (vbkp : BitVec 16) (s : State) : Host.Outcome State Fault Refusal := s.nextChip fun c => c.vsysFall vbkp.toNat

/-- The return wait starts. -/
def Chip.returnWait (c : Chip) : Chip := (c.set F.KENNEL.STATUS.STATE knWait).updKen fun k => { k with waitAt := c.kenNow }

/-- The VBKP path conducts. -/
def Chip.handoverDone (c : Chip) : Chip :=
  if c.kenState ≠ knHandover then c
  else
    let c1 := (((c.set F.KENNEL.KSTAT.SRC 1).inc ⟨R.KENNEL.HO_CNT, 0, 16⟩).set F.KENNEL.STATUS.STATE knVbkp).chargeCheck
    if c1.on F.KENNEL.KSTAT.VSYS_OK then c1.returnWait else c1

def execHandoverDone (s : State) : Host.Outcome State Fault Refusal := s.nextChip fun c => c.handoverDone

/-- VSYS_OK rises: the return wait starts, ship mode ends, and it is a wake source. -/
def Chip.vsysRise (c : Chip) : Chip :=
  if c.on F.KENNEL.KSTAT.VSYS_OK then c
  else
    let c1 := (c.raise F.KENNEL.KSTAT.VSYS_OK).updKen fun k => { k with ship := false }
    let c2 := c1.wake 3
    if c2.kenState = knVbkp then c2.returnWait else c2

def execVsysRise (s : State) : Host.Outcome State Fault Refusal := s.nextChip fun c => c.vsysRise

/-- VSYS_OK has stayed 1 for 5 ms: the path returns to VSYS. -/
def Chip.returnDone (c : Chip) : Chip :=
  if c.kenState ≠ knWait then c
  else
    let c1 := (c.kenGoto (c.ken.waitAt + 5 * Config.ms)).set F.KENNEL.KSTAT.SRC 0
    (((c1.set F.KENNEL.STATUS.STATE knVsys).raise F.KENNEL.STICKY.RETURN).inc ⟨R.KENNEL.HO_CNT, 16, 16⟩).chargeCheck

def execReturnWaitExpire (s : State) : Host.Outcome State Fault Refusal := s.nextChip fun c => c.returnDone

/-- The cell has been below CUTOFF for 100 ms while it is the source: its switch opens. -/
def Chip.cellCutoff (c : Chip) (vbkp : Nat) : Chip :=
  if c.on F.KENNEL.KSTAT.SRC && decide (vbkp < c.get F.KENNEL.BKP_CUT.CUTOFF) then c.updKen fun k => { k with cellOpen := true } else c

def execBkpCutoff (vbkp : BitVec 16) (s : State) : Host.Outcome State Fault Refusal := s.nextChip fun c => c.cellCutoff vbkp.toNat

/-- SHIP_WAKE has been low for 50 ms: it wakes the device, or ends ship mode. -/
def execShipWakeEvent (s : State) : Host.Outcome State Fault Refusal :=
  s.nextChip fun c => if c.ken.ship then c.updKen fun k => { k with ship := false, cellOpen := false } else c.wake 0

/-- WAKE_IN has been high for 1 ms. -/
def execWakeInEvent (s : State) : Host.Outcome State Fault Refusal := s.nextChip fun c => c.wake 2

/-- The registers of the Kennel but for the header words that follow the main domain. -/
def isKennelReg (a : Nat) : Bool := aCls (a % 0x1000000) == 0x12

/-- The Kennel loses what it holds: its registers return to their reset values, with OPTIME and PCYCLE from their NV copies; the
retained SRAM holds free values, and the escalation state is empty (R378, R462, R480). -/
def Chip.kennelLost (c : Chip) : Chip :=
  let c1 := { c with regs := Tab.drop isKennelReg c.regs, fresh := c.fresh + 1024,
                     ken := { retBase := c.fresh, secAt := c.kenNow, base := c.ken.base, pwren := false, ship := c.ken.ship, cellOpen := c.ken.cellOpen } }
  let c2 := (c1.wr R.KENNEL.OPTIME c.lifeNv.optime).wr R.KENNEL.PCYCLE c.lifeNv.pcycle
  { c2 with start := { c2.start with warmFails := [], coldFails := [], steps := [], esc := false, hold := false, kcOk := false } }

/-- A Kennel cold start (R378); `vsys` is what the comparator shows. It ends SAFE-HOLD (R483). -/
def Chip.kennelCold (c : Chip) (vsys : Bool) : Chip :=
  let c1 := (c.kennelLost.updKen fun k => { k with pwren := vsys, ship := false, cellOpen := false }).setb F.KENNEL.KSTAT.VSYS_OK vsys
  if c.phase = .safeHold then { c1 with phase := .held, start := { c1.start with cause := 1 } } else c1

def execKennelColdStart (vsys : Bool) (s : State) : Host.Outcome State Fault Refusal := s.nextChip fun c => c.kennelCold vsys

/-- VKEEP collapses (R378, R382, R384). -/
def execVkeepLoss (s : State) : Host.Outcome State Fault Refusal := s.nextChip Chip.kennelLost

/-! ### The KENNEL page (R389) -/

/-- A write to a register of the KENNEL page, but for PWR_OFF. -/
def Kennel.onWrite (w : Acc) (c : Chip) : Chip :=
  if w.off = 0x44 then
    ((c.wr R.KENNEL.CAL_SEC w.val).raise F.KENNEL.KSTAT.CAL_VALID).updKen fun k => { k with secAt := c.kenNow, subAt := 0 }
  else if w.off = 0x64 then (c.storeAt w.addr (clampField w.val 8 8 10 100)).chargeCheck
  else if w.off = 0x74 then
    let v := bits w.val 0 16
    if v = 0x53A5 then c.raise F.KENNEL.KSTAT.SHIP_ARMED else if v = 0 then c.clr F.KENNEL.KSTAT.SHIP_ARMED else c
  else if w.off = 0x7C then (if bits w.val 0 1 = 1 then c.tokenClear else c)
  else if w.off = 0x84 then c.retWrite w.val
  else if w.off = 0x94 then c.clearFields w.val [whole R.KENNEL.HO_CNT]
  else c.store w

/-- A write to a register of the KENNEL page, as a state. -/
def State.kenWrite (s : State) (src : Source) (addr : Nat) (v : Word) : State :=
  s.gated { src := src, addr := addr, val := v } (Kennel.onWrite { src := src, addr := addr, val := v })

def execCalSecWrite (src : Source) (v : Word) (s : State) : Host.Outcome State Fault Refusal := .next (s.kenWrite src R.KENNEL.CAL_SEC v)

def execShipArm (src : Source) (s : State) : Host.Outcome State Fault Refusal := .next (s.kenWrite src R.KENNEL.SHIP_CMD 0x53A5)

def execShipDisarm (src : Source) (s : State) : Host.Outcome State Fault Refusal := .next (s.kenWrite src R.KENNEL.SHIP_CMD 0)

def execTokenClear (src : Source) (s : State) : Host.Outcome State Fault Refusal := .next (s.kenWrite src R.KENNEL.TOKEN_CTRL 1)

def execRetDataAccess (src : Source) (write : Option Word) (bad : Bool) (s : State) : Host.Outcome State Fault Refusal :=
  match write with
  | some v => .next (s.kenWrite src R.KENNEL.RET_DATA v)
  | none => s.nextRead src fun c => c.retRead bad

end Sys2Proof.Machine
end

