-- ==== Sys2Proof/Machine/Sec.lean ====
section
/-! DEFINITION. The security engine: key slots, provisioning, attestation and random words (R438, R439, R447). -/

namespace Sys2Proof.Machine

/-- Words of a key slot: 16 of a public key, 8 of a secret (R439). -/
def keyWords (slot : Nat) : Nat := if slot < 8 then 16 else 8

/-- STATUS STATE of the SEC page: 0 PROV_OPEN, 1 PROV_CLOSED, 2 FENCED. -/
abbrev secState : Fld := ⟨R.SEC.STATUS, 5, 3⟩

/-- Why a key write is refused: a fenced store, a locked slot or closed provisioning (STATE), a slot that does not exist
(PARAM) (R438, R439). -/
def Chip.keyRefusal (c : Chip) (slot : Nat) : Option Nat :=
  if c.get secState = 2 then some rState
  else if 12 ≤ slot then some rParam
  else if c.sec.locked.contains slot || c.get secState != 0 then some rState
  else none

/-- The selected slot. -/
def Chip.keySel (c : Chip) : Nat := bits (c.rd R.SEC.KEY_SEL) 0 4

/-- A write of KEY_DATA: the word is stored, and KEY_ADDR increments (R439). -/
def Chip.keyData (c : Chip) (w : Acc) : Chip :=
  let slot := c.keySel
  let k := bits (c.rd R.SEC.KEY_ADDR) 0 4
  match c.keyRefusal slot with
  | some r => c.reject w r false
  | none =>
    if keyWords slot ≤ k then c.reject w rParam false
    else { c with sec := { c.sec with buf := Tab.put c.sec.buf (slot * 16 + k) w.val } }.wr R.SEC.KEY_ADDR (wd ((k + 1) % 16))

/-- The words written for a slot since its last LOAD. -/
def Chip.keyWritten (c : Chip) (slot : Nat) : Tab Word := c.sec.buf.filter fun e => e.1 / 16 == slot

/-- KEY_CMD LOAD: the written key comes into force; too few words are refused with PARAM and set KEY_ERR (R447). -/
def Chip.keyLoad (c : Chip) (w : Acc) : Chip :=
  let slot := c.keySel
  match c.keyRefusal slot with
  | some r => c.reject w r false
  | none =>
    let ws := c.keyWritten slot
    if ws.length < keyWords slot then (c.reject w rParam false).raise (hSticky R.SEC.ID 2)
    else
      { c with sec := { c.sec with
          keys := ws.foldl (fun (t : Tab Word) (e : Nat × Word) => Tab.put t e.1 e.2) c.sec.keys
          buf := Tab.drop (fun k => k / 16 == slot) c.sec.buf
          loaded := if c.sec.loaded.contains slot then c.sec.loaded else slot :: c.sec.loaded } }.tokenWrite

/-- KEY_CMD LOCK makes a slot permanent (R439). -/
def Chip.keyLock (c : Chip) (w : Acc) : Chip :=
  let slot := c.keySel
  if c.get secState = 2 then c.reject w rState false
  else if 12 ≤ slot then c.reject w rParam false
  else if c.sec.locked.contains slot then c
  else { c with sec := { c.sec with locked := slot :: c.sec.locked } }.tokenWrite

/-- KEY_CMD PROV_CLOSE ends provisioning (R439, R447). -/
def Chip.provClose (c : Chip) (w : Acc) : Chip :=
  if c.get secState = 2 then c.reject w rState false else { c with sec := { c.sec with closed := true } }.set secState 1

/-- A write of KEY_CMD: LOAD or LOCK, then PROV_CLOSE. -/
def Chip.keyCmd (c : Chip) (w : Acc) : Chip :=
  let c1 := match bits w.val 0 2 with
    | 0 => c
    | 1 => c.keyLoad w
    | 2 => c.keyLock w
    | _ => c.reject w rParam false
  if bits w.val 8 1 = 1 then c1.provClose w else c1

/-- KEY_INFO of the selected slot: LOADED, LOCKED and byte 0 of the SHA-256 of the key (R447); a fenced key store has no read
path, so it then reads 0 (R181, log 76). -/
def Chip.keyInfo (c : Chip) : Word :=
  if c.get secState = 2 then 0
  else
  let slot := c.keySel
  let key := (List.range (keyWords slot)).flatMap fun k => beBytes (Tab.at c.sec.keys 0 (slot * 16 + k))
  if c.sec.loaded.contains slot then
    wd (1 + (c.sec.locked.contains slot).toNat * 2 + (sha256 key).headD 0 * 256)
  else wd ((c.sec.locked.contains slot).toNat * 2)

/-- ATT_CMD: the signature starts; while the key store is fenced ATT_STAT answers STATE (R438). -/
def Chip.attCmd (c : Chip) (w : Acc) : Chip :=
  if bits w.val 0 1 = 0 then c
  else if bits (c.rd R.SEC.ATT_STAT) 0 1 = 1 then c.reject w rState false
  else if c.get secState = 2 then c.wr R.SEC.ATT_STAT (wd (rState * 256))
  else c.wr R.SEC.ATT_STAT 1

/-- A write to the SEC page. -/
def Sec.onWrite (w : Acc) (c : Chip) : Chip :=
  match w.off with
  | 0x4C => c.keyData w
  | 0x50 => c.keyCmd w
  | 0x58 => c.attCmd w
  | _ => c.store w

def execAttCmd (src : Source) (s : State) : Host.Outcome State Fault Refusal :=
  let w : Acc := { src := src, addr := R.SEC.ATT_CMD, val := 1 }
  s.nextGated w (Sec.onWrite w)

/-- The signature is ready: r and s, which the spec does not state, are free values (R438, log 17). -/
def execAttDone (s : State) : Host.Outcome State Fault Refusal :=
  s.nextChip fun c =>
    if bits (c.rd R.SEC.ATT_STAT) 0 1 = 0 then c
    else
      let c1 := upto 16 (fun (c : Chip) k => let d := c.draw; d.2.wr (R.SEC.ATT_SIG k) (Config.freeWord d.1)) c
      (c1.wr R.SEC.ATT_STAT 2).raise (hSticky R.SEC.ID 1)

def execKeyDataWrite (src : Source) (v : Word) (s : State) : Host.Outcome State Fault Refusal :=
  let w : Acc := { src := src, addr := R.SEC.KEY_DATA, val := v }
  s.nextGated w fun c => c.keyData w

def execKeyLoad (src : Source) (s : State) : Host.Outcome State Fault Refusal :=
  let w : Acc := { src := src, addr := R.SEC.KEY_CMD, val := 1 }
  s.nextGated w fun c => c.keyLoad w

def execKeyLock (src : Source) (s : State) : Host.Outcome State Fault Refusal :=
  let w : Acc := { src := src, addr := R.SEC.KEY_CMD, val := 2 }
  s.nextGated w fun c => c.keyLock w

def execProvClose (src : Source) (s : State) : Host.Outcome State Fault Refusal :=
  let w : Acc := { src := src, addr := R.SEC.KEY_CMD, val := 0x100 }
  s.nextGated w fun c => c.provClose w

/-- A read of RNG_DATA: 32 random bits, or 0 and DRBG_FAIL while reseeding fails (R447). -/
def Chip.rngRead (c : Chip) (reseedFails : Bool) : Chip :=
  if reseedFails then (c.raise (hSticky R.SEC.ID 3)).answer 0
  else { c with sec := { c.sec with drawn := c.sec.drawn + 1 } }.answer (Config.randomWord c.sec.drawn)

def execRngRead (src : Source) (reseedFails : Bool) (s : State) : Host.Outcome State Fault Refusal :=
  s.nextRead src fun c => c.rngRead reseedFails

end Sys2Proof.Machine
end

