-- ==== Sys2Proof/Machine/Recorder.lean ====
section
/-! DEFINITION. The event recorder: writing, in-place updates, host records, the start check and clears (R448–R461, R468). -/

namespace Sys2Proof.Machine

/-- A record whose listed contents have no stated places: the payload is a free value of the contents (log 10). -/
def Chip.recordListed (c : Chip) (src code a b k : Nat) : Chip :=
  let q := (Config.listedPayload code a b k).toNat
  c.record src code (q % 2 ^ 32) (q / 2 ^ 32)

/-! ### Record words (R450) -/

/-- Bytes 0–29 of a record as the words 0–6 and the SPAN. -/
def recHead (r : Rec) : List Word :=
  [wd r.seq, wd r.optime, wd (r.pcycle % 2 ^ 24 + r.src % 256 * 2 ^ 24), wd (r.code % 65536 + r.rep % 65536 * 65536), wd r.ms,
   wd r.lo, wd r.hi]

/-- CRC over bytes 0–29. -/
def recCrc (ws : List Word) (span : Nat) : Nat := crc16 (ws.flatMap leBytes ++ [span % 256, span / 256 % 256])

/-- The eight words of a record. -/
def recWords (r : Rec) : List Word :=
  let h := recHead r
  h ++ [wd (r.span % 65536 + recCrc h r.span * 65536)]

/-- Word `w` of a slot; a blank slot reads FFFF_FFFFh (R458). -/
def PartSt.word (x : PartSt) (slot w : Nat) : Word := Tab.at x.slots 0xFFFFFFFF (slot * 8 + w)

/-- A word of a slot is written. -/
def PartSt.putWord (x : PartSt) (slot w : Nat) (v : Word) : PartSt := { x with slots := Tab.set x.slots 0xFFFFFFFF (slot * 8 + w) v }

/-- Words of a slot are written from a list, from word `w`. -/
def PartSt.putWords (x : PartSt) (slot : Nat) : Nat → List Word → PartSt
  | _, [] => x
  | w, v :: t => (x.putWord slot w v).putWords slot (w + 1) t

/-- The slot after a slot: the safety ring keeps slots 0–4,095 out of its wrapping (Table 14.1). -/
def nextSlot (p slot : Nat) : Nat × Bool := if slot + 1 < slotCount p then (slot + 1, false) else (ringStart p, true)

/-- HEAD advances past a slot. -/
def PartSt.advance (x : PartSt) (p : Nat) : PartSt :=
  let n := nextSlot p x.head
  { x with head := n.1, wrapped := x.wrapped || n.2 }

/-- The oldest staged record is written at HEAD: words 1–7, word 0, then HEAD (R452). -/
def PartSt.writeOldest (x : PartSt) (p : Nat) : PartSt :=
  match x.queue with
  | [] => x
  | r :: rest =>
    let y := x.putWords x.head 0 (recWords r)
    let newest := x.newest.map fun n => if n.data.seq = r.seq then { n with slot := some x.head } else n
    { y with queue := rest, newest := newest, owed := x.owed.filter fun n => n.slot != some x.head }.advance p

/-- When the queue falls below half full, the refusals are recorded (R453). -/
def Chip.reportRefusals (c : Chip) (p : Nat) : Chip :=
  let x := c.part p
  if x.lost = 0 ∨ queueLen p ≤ 2 * x.queue.length then c
  else (c.setPart p { x with lost := 0 }).recordListed 0x18 0x5201 x.lost p 0

def execRecordWriteDone (p : Fin 3) (s : State) : Host.Outcome State Fault Refusal :=
  s.nextChip fun c => (c.setPart p ((c.part p).writeOldest p)).reportRefusals p

/-- Words 3 and 7 of a record's slot are rewritten (R455). -/
def PartSt.rewrite (x : PartSt) (n : Newest) : PartSt :=
  match n.slot with
  | some k =>
    let ws := recWords n.data
    (x.putWord k 3 (ws.getD 3 0)).putWord k 7 (ws.getD 7 0)
  | none => x

/-- Repeats that have come since the last update of their record are written in place, at most once per 100 µs: word 3, then
word 7 (R455). -/
def Chip.recordUpdate (c : Chip) (p : Nat) : Chip :=
  let x := c.part p
  match x.owed, x.newest with
  | n :: rest, _ => (c.goto (n.updated + 100 * Config.us)).setPart p { x.rewrite n with owed := rest }
  | [], some n =>
    if !n.dirty then c
    else
      let c1 := c.goto (n.updated + 100 * Config.us)
      c1.setPart p { x.rewrite n with newest := some { n with dirty := false, updated := c1.st } }
  | [], none => c

def execRecordRepeatUpdate (p : Fin 3) (s : State) : Host.Outcome State Fault Refusal := s.nextChip fun c => c.recordUpdate p

/-! ### A power loss and the start check (R457, R458) -/

/-- What a power loss leaves of a write in progress; records not yet written are lost (R458). -/
def Chip.tear (c : Chip) (t : Option Torn) : Chip :=
  let c1 := match t with
    | none => c
    | some (.words p k) =>
      let x := c.part p
      (match x.queue with
        | r :: _ => c.setPart p (x.putWords x.head 1 (((recWords r).drop 1).take k.val))
        | [] => c)
    | some (.noHead p) =>
      let x := c.part p
      (match x.queue with
        | r :: _ => c.setPart p (x.putWords x.head 0 (recWords r))
        | [] => c)
    | some (.update p) =>
      let x := c.part p
      (match x.newest with
        | some n => (match n.slot with
          | some k => c.setPart p (x.putWord k 3 ((recWords n.data).getD 3 0))
          | none => c)
        | none => c)
  upto 3 (fun (c : Chip) p => let x := c.part p; c.setPart p { x with queue := [], newest := none, owed := [], lost := 0 }) c1

/-- A slot's eight words. -/
def PartSt.slotWords (x : PartSt) (slot : Nat) : List Word := (List.range 8).map fun w => x.word slot w

/-- The CRC of a slot is right. -/
def PartSt.sound (x : PartSt) (slot : Nat) : Bool :=
  let ws := x.slotWords slot
  let w7 := ws.getD 7 0
  recCrc (ws.take 7) (bits w7 0 16) == bits w7 16 16

/-- A slot has never held a record. -/
def PartSt.blank (x : PartSt) (slot : Nat) : Bool := (x.slotWords slot).all fun w => w == 0xFFFFFFFF

/-- The slot before HEAD; none before the first record. -/
def PartSt.prev (x : PartSt) (p : Nat) : Option Nat :=
  if x.head = ringStart p ∧ x.wrapped then some (slotCount p - 1) else if x.head = 0 then none else some (x.head - 1)

/-- SEQ `a` comes after `b` (R451). -/
def seqAfter (a b : Word) : Bool := decide (0 < (a - b).toInt)

/-- A torn record: TORN_CNT, and record 5203h once the check is over (R458). -/
def Chip.torn (c : Chip) (p slot : Nat) : Chip :=
  ((c.inc (whole (win p R.EVREC.TORN_CNT))).raise F.EVREC.STICKY.TORN).recordListed 0x18 0x5203 p slot 0

/-- SEQ of the newest record that is written: the one in the slot before HEAD (R457). -/
def PartSt.writtenSeq (x : PartSt) (p : Nat) : Nat :=
  match x.prev p with | some q => if x.blank q then x.newestSeq else (x.word q 0).toNat | none => x.newestSeq

/-- The check of one partition at a start (R458): the next SEQ is the reservation mark, and records that were not yet written are
lost. -/
def Chip.checkPart (c : Chip) (p : Nat) : Chip :=
  let y := c.part p
  let x := { y with next := y.mark, newest := none, newestSeq := if y.queue.isEmpty then y.writtenSeq p else y.newestSeq }
  let h := x.head
  let after : Bool := match x.prev p with | some q => seqAfter (x.word h 0) (x.word q 0) | none => true
  if x.sound h && !x.blank h && after then
    (c.setPart p ({ x with newestSeq := (x.word h 0).toNat }.advance p)).torn p h
  else
    let cut : Option Nat := match x.prev p with | some q => if x.sound q || x.blank q then none else some q | none => none
    let c1 := match cut with
      | some q =>
        let ws := x.slotWords q
        let span := bits (ws.getD 7 0) 0 16
        (c.setPart p (x.putWord q 7 (wd (span + recCrc (ws.take 7) span * 65536)))).torn p q
      | none => c.setPart p x
    if x.blank h || x.sound h then c1 else c1.torn p h

/-- The recorder check of a start. -/
def Chip.checkRecorder (c : Chip) : Chip := upto 3 (fun (c : Chip) p => c.checkPart p) c

/-! ### Host records and selection (R468) -/

/-- HREC_CMD: a host record goes to the operational partition with SRC 01h; a CODE below 8000h is refused with PARAM. -/
def Chip.hrec (c : Chip) (w : Acc) : Chip :=
  let code := bits w.val 0 16
  if bits w.val 16 1 = 0 then c
  else if code < 0x8000 then c.reject w rParam false
  else c.recordIn 1 0x01 code (c.rd R.EVREC.HREC_PAY_LO).toNat (c.rd R.EVREC.HREC_PAY_HI).toNat

/-- A write of REC_SEL. -/
def Chip.recSel (c : Chip) (w : Acc) : Chip :=
  let p := bits w.val 16 2
  if p = 3 ∨ slotCount p ≤ bits w.val 0 15 then c.reject w rParam true else c.store w

/-- Word `k` of the selected record, read live. -/
def Chip.recData (c : Chip) (k : Nat) : Word := (c.part (c.get F.EVREC.REC_SEL.PART)).word (c.get F.EVREC.REC_SEL.INDEX) k

/-- The partition shown at 068h–078h. -/
def Chip.partSel (c : Chip) : Nat := bits (c.rd R.EVREC.PART_SEL) 0 2

/-- HEAD of the selected partition. -/
def Chip.headView (c : Chip) : Word := let x := c.part c.partSel; wd (x.head + x.wrapped.toNat * 65536)

/-! ### Clears (R459–R461) -/

/-- HMAC-SHA-256 (RFC 2104). -/
def hmac (key msg : List Nat) : List Nat :=
  let k := (if 64 < key.length then sha256 key else key)
  let pad := k ++ List.replicate (64 - k.length) 0
  sha256 ((pad.map fun b => b ^^^ 0x5C) ++ sha256 ((pad.map fun b => b ^^^ 0x36) ++ msg))

/-- CLR_STAT answers a command. -/
def Chip.clrAnswer (c : Chip) (st reason : Nat) : Chip := (c.set F.EVREC.CLR_STAT.STATE st).set F.EVREC.CLR_STAT.REASON reason

/-- CLR_CMD NONCE: refused with STATE while locked out or while the key store is fenced (R459). -/
def Chip.clrNonce (c : Chip) : Chip :=
  if c.get secState = 2 || (match c.wipe.lockAt with | some t => decide (c.st < t + 60 * Config.sec) | none => false) then c.clrAnswer 3 rState
  else { c with wipe := { c.wipe with asked := true, nonceAt := none } }.clrAnswer 0 0

/-- The nonce is ready: 32 bytes from the random generator. -/
def Chip.clrReady (c : Chip) : Chip :=
  if !c.wipe.asked then c
  else
    let c1 := upto 8 (fun (c : Chip) k => { c with sec := { c.sec with drawn := c.sec.drawn + 1 } }.wr (R.EVREC.CLR_NONCE k)
      (Config.randomWord c.sec.drawn)) c
    { c1 with wipe := { c1.wipe with asked := false, nonceAt := some c1.st, stale := false } }.clrAnswer 1 0

def execClearNonceReady (s : State) : Host.Outcome State Fault Refusal := s.nextChip Chip.clrReady

/-- The MAC that a GO must carry: keyed by S(KEY), over nonce, PART and UID. -/
def Chip.clrMac (c : Chip) : List Nat :=
  let slot := 8 + c.get F.EVREC.CLR_CFG.KEY
  let key := (List.range 8).flatMap fun k => beBytes (Tab.at c.sec.keys 0 (slot * 16 + k))
  let nonce := (List.range 8).flatMap fun k => beBytes (c.rd (R.EVREC.CLR_NONCE k))
  hmac key (nonce ++ [c.get F.EVREC.CLR_CFG.PART] ++ beBytes (c.rd R.SYS.UID_HI) ++ beBytes (c.rd R.SYS.UID_LO))

/-- A GO is authorised: nonce in force, CLR_CFG unchanged since, key slot loaded, partition named, MAC right. -/
def Chip.clrAuth (c : Chip) : Bool :=
  c.get secState != 2 && (match c.wipe.nonceAt with | some t => decide (c.st < t + 10 * Config.sec) | none => false) && !c.wipe.stale && c.sec.loaded.contains (8 + c.get F.EVREC.CLR_CFG.KEY) &&
    c.get F.EVREC.CLR_CFG.PART != 3 && ((List.range 8).flatMap fun k => beBytes (c.rd (R.EVREC.CLR_MAC k))) == c.clrMac

/-- Isaenaim's consent to a clear of the safety partition (R460). -/
def Chip.clrConsent (c : Chip) : Bool := c.safeSto && c.on F.SAFE.PARK_STAT.ENGAGE_OK

/-- A refused GO: CLR_FAIL, FAILS, record 5207h; from the third in a row NONCE is refused for 60 s. The REASON is
SAFETY where the consent of R460 is missing, and else a free value, since the spec states none (log 35). -/
def Chip.clrFail (c : Chip) : Chip :=
  let n := min 15 (c.get F.EVREC.CLR_STAT.FAILS + 1)
  let d := c.draw
  let reason := if c.get F.EVREC.CLR_CFG.PART = 0 ∧ c.clrConsent = false then rSafety else (Config.freeWord d.1).toNat % 256
  let c1 := ((d.2.raise F.EVREC.STICKY.CLR_FAIL).clrAnswer 3 reason).set F.EVREC.CLR_STAT.FAILS n
  let c2 := { c1 with wipe := { c1.wipe with nonceAt := none, lockAt := if 3 ≤ n then some c1.st else c1.wipe.lockAt } }
  c2.recordListed 0x18 0x5207 (c.get F.EVREC.CLR_CFG.PART) n 0

/-- Every staged record of a partition is written. -/
def Chip.drainPart (c : Chip) (p : Nat) : Chip := upto (c.part p).queue.length (fun (c : Chip) _ => c.setPart p ((c.part p).writeOldest p)) c

/-- An accepted GO at its instant (R461): the CLEAR record takes the next SEQ and goes to slot 0. -/
def Chip.clearPart (c : Chip) (p : Nat) : Chip :=
  let c0 := c.drainPart p
  let x := c0.part p
  let q := (Config.listedPayload 0x5200 x.newestSeq p (c.get F.EVREC.CLR_CFG.KEY)).toNat
  let r : Rec := { seq := x.next, optime := (c.rd R.KENNEL.OPTIME).toNat, pcycle := (c.rd R.KENNEL.PCYCLE).toNat % 2 ^ 24, src := 0x18,
                   code := 0x5200, rep := 0, ms := msOf c.st, lo := q % 2 ^ 32, hi := q / 2 ^ 32, span := 0 }
  let y := x.putWords 0 0 (recWords r)
  let z := { y with next := (x.next + 1) % 2 ^ 32, mark := if x.mark = x.next then (x.next + 256) % 2 ^ 32 else x.mark
                    head := 1, wrapped := false, newestSeq := x.next, firstSeq := x.next, owed := []
                    newest := some { data := r, first := c.st, last := c.st, slot := some 0 } }
  let c1 := ((c0.setPart p z).raise F.EVREC.STICKY.CLEARED).clrAnswer 2 0
  { c1.set F.EVREC.CLR_STAT.FAILS 0 with wipe := { c1.wipe with nonceAt := none } }

/-- CLR_CMD GO. -/
def Chip.clrGo (c : Chip) : Chip :=
  if !c.clrAuth then c.clrFail
  else if c.get F.EVREC.CLR_CFG.PART = 0 ∧ c.clrConsent = false then
    { c with wipe := { c.wipe with nonceAt := none } }.clrAnswer 3 rSafety
  else c.clearPart (c.get F.EVREC.CLR_CFG.PART)

/-- The nonce expires 10 s after its issue. -/
def execClearNonceExpire (s : State) : Host.Outcome State Fault Refusal :=
  s.nextChip fun c =>
    match c.wipe.nonceAt with
    | none => c
    | some t => { c.goto (t + 10 * Config.sec) with wipe := { c.wipe with nonceAt := none } }.clrAnswer 0 0

/-- 60 s after the refusals NONCE is accepted again. -/
def execClearLockoutExpire (s : State) : Host.Outcome State Fault Refusal :=
  s.nextChip fun c =>
    match c.wipe.lockAt with
    | none => c
    | some t => { c.goto (t + 60 * Config.sec) with wipe := { c.wipe with lockAt := none } }

/-- A write to the EVREC page. -/
def Evrec.onWrite (w : Acc) (c : Chip) : Chip :=
  match w.off with
  | 0x40 => c.recSel w
  | 0x64 => if bits w.val 0 2 = 3 then c.reject w rParam true else c.store w
  | 0x84 => c.hrec w
  | 0x88 => { c.store w with wipe := { c.wipe with stale := true } }
  | 0xCC =>
    let c1 := if bits w.val 0 1 = 1 then c.clrNonce else c
    if bits w.val 1 1 = 1 then c1.clrGo else c1
  | _ => c.store w

/-- A write to a register of the EVREC page, as a state. -/
def State.evrecWrite (s : State) (src : Source) (addr : Nat) (v : Word) : State :=
  s.gated { src := src, addr := addr, val := v } (Evrec.onWrite { src := src, addr := addr, val := v })

def execHrecCmd (src : Source) (v : Word) (s : State) : Host.Outcome State Fault Refusal := .next (s.evrecWrite src R.EVREC.HREC_CMD v)

def execRecSelWrite (src : Source) (index : BitVec 15) (part : BitVec 2) (s : State) : Host.Outcome State Fault Refusal :=
  .next (s.evrecWrite src R.EVREC.REC_SEL (wd (index.toNat + part.toNat * 65536)))

def execClearNonce (src : Source) (s : State) : Host.Outcome State Fault Refusal := .next (s.evrecWrite src R.EVREC.CLR_CMD 1)

def execClearGo (src : Source) (s : State) : Host.Outcome State Fault Refusal := .next (s.evrecWrite src R.EVREC.CLR_CMD 2)

end Sys2Proof.Machine
end

