-- ==== Sys2Proof/Machine/Discovery.lean ====
section
/-! DEFINITION. Erelo links, discovery, election, addressing, routing and fabric time (R414–R428, R436, R442, R443). -/

namespace Sys2Proof.Machine

/-! ### Loss of a link -/

/-- The link key of a port is no longer in force, and what it held of packets is lost (R424). -/
def Chip.elDropLink (c : Chip) (p : Nat) : Chip :=
  ((c.clr (F.EPORT.PORT_STAT.AUTH_OK p)).wr (R.EPORT.BE_STAT p) 0).updEport p fun x => { x with waiting := [], rxHeld := false }

/-- A port leaves UP, if it was UP. -/
def Chip.elLeaveUp (c : Chip) (p : Nat) : Chip :=
  if c.elUp p then
    (((c.raise (F.EPORT.STICKY.LINK_DOWN p)).inc ⟨R.EPORT.DOWN_CNT p, 0, 16⟩).elDropLink p).updEport p fun x =>
      { x with downAt := some c.st, declared := false }
  else c

/-- EN of a port: 1 starts the probe, 0 takes the port DOWN (R422). -/
def Chip.elEnable (c : Chip) (p : Nat) (en : Bool) : Chip :=
  let c1 := c.setb (F.EPORT.CTRL.EN p) en
  if en then (if c.elState p = epDown then c1.elSetState p epProbe else c1)
  else ((c1.elLeaveUp p).clr (F.EPORT.PORT_STAT.LOCK p)).elSetState p epDown

def execElPortEnable (src : Source) (port : Fin 4) (en : Bool) (s : State) : Host.Outcome State Fault Refusal :=
  let old := s.chip.rd (R.EPORT.CTRL port)
  let w : Acc := { src := src, addr := R.EPORT.CTRL port, val := putBits old 0 1 en.toNat }
  s.nextGated w fun c => c.elEnable port en

/-! ### Probe and block lock (R415, R422) -/

/-- The result of a probe edge: cable length, OPEN or SHORT. The length is (t_refl − t_int) ÷ (2 × VP). -/
def Chip.elProbe (c : Chip) (p : Nat) (r : Reflection) : Chip :=
  if c.elState p ≠ epProbe then c
  else match r with
    | .positive ps =>
      if 200000 < ps then ((c.wr (R.EPORT.CABLE p) 0).raise (F.EPORT.CABLE.OPEN p)).raise (F.EPORT.STICKY.CABLE_FAULT p)
      else
      let vp := max 1 (c.get (F.EPORT.CABLE_VP.VP p))
      let cm := min 65535 ((ps - Config.probeDelay p) * 100 / (2 * vp))
      (c.wr (R.EPORT.CABLE p) (wd (cm + 2 ^ 16))).elSetState p epTrain
    | .negative => ((c.wr (R.EPORT.CABLE p) 0).raise (F.EPORT.CABLE.SHORT p)).raise (F.EPORT.STICKY.CABLE_FAULT p)
    | .nothing => ((c.wr (R.EPORT.CABLE p) 0).raise (F.EPORT.CABLE.OPEN p)).raise (F.EPORT.STICKY.CABLE_FAULT p)

def execElProbe (port : Fin 4) (refl : Reflection) (s : State) : Host.Outcome State Fault Refusal :=
  s.nextChip fun c => c.elProbe port refl

/-- The capability descriptor of this device (Table 13.5). -/
def Chip.elDesc (c : Chip) (p : Nat) : List Nat :=
  let flags := c.get F.EMGR.MGR_CFG.ROOT_ELIG + 2 * c.get (F.EPORT.PORT_CFG.AUTH_REQ p) + 4 * c.get F.EMGR.DISC_STAT.WARM
  let held := match c.elAddr with | some a => a + 2 ^ 15 | none => 0
  beOf 8 c.uid ++ [0x96, 0x00, flags, p + 15 * 16] ++ beOf 2 (c.get F.EMGR.MGR_CFG.DOMAIN_ID) ++ beOf 2 held ++
    beOf 16 (Config.certDigest.toNat)

/-- Block lock: the port leaves TRAIN and the descriptors are exchanged (R415, R422). -/
def execElBlockLock (port : Fin 4) (s : State) : Host.Outcome State Fault Refusal :=
  s.nextChip fun c =>
    if c.elState port ≠ epTrain then c
    else ((c.raise (F.EPORT.PORT_STAT.LOCK port)).elSetState port epAuth).elLocal port 7 (c.elDesc port)

/-- Block lock is lost: the port returns to TRAIN (R415). -/
def execElBlockLockLoss (port : Fin 4) (s : State) : Host.Outcome State Fault Refusal :=
  s.nextChip fun c =>
    if c.on (F.EPORT.PORT_STAT.LOCK port) then
      ((c.elLeaveUp port).clr (F.EPORT.PORT_STAT.LOCK port)).elSetState port epTrain
    else c

/-! ### Blocks (R416–R418) -/

def execElRxSuspend (port : Fin 4) (s : State) : Host.Outcome State Fault Refusal :=
  s.nextChip fun c => if c.on (F.EPORT.PORT_STAT.LOCK port) then c.updEport port fun x => { x with rxHeld := true } else c

def execElRxResume (port : Fin 4) (s : State) : Host.Outcome State Fault Refusal :=
  s.nextChip fun c => if c.on (F.EPORT.PORT_STAT.LOCK port) then c.updEport port fun x => { x with rxHeld := false } else c

/-- ABORT: the packet in progress is discarded and counted in SYNC_ERR (R417). -/
def execElRxAbort (port : Fin 4) (s : State) : Host.Outcome State Fault Refusal :=
  s.nextChip fun c => if c.on (F.EPORT.PORT_STAT.LOCK port) then c.elSyncErr port else c

/-- CREDIT: best-effort credits return, and waiting packets leave (R416). -/
def execElRxCredit (port : Fin 4) (units : BitVec 16) (s : State) : Host.Outcome State Fault Refusal :=
  s.nextChip fun c =>
    if c.on (F.EPORT.PORT_STAT.LOCK port) then
      let c1 := c.addSat (elCredits port) units.toNat
      c1.elDrain port (c1.eport port).waiting
    else c

/-- A data block outside a packet, an SOP inside one or a reserved type is counted in SYNC_ERR (R416, R417). -/
def execElRxBlockError (port : Fin 4) (s : State) : Host.Outcome State Fault Refusal :=
  s.nextChip fun c => if c.on (F.EPORT.PORT_STAT.LOCK port) then c.elSyncErr port else c

/-! ### Topology changes (R424) -/

/-- OPEN flows that a test picks enter LOST. -/
def Chip.elLoseFlows (c : Chip) (p : ElFlow → Bool) : Chip :=
  upto 64 (fun c n =>
    if c.get (F.EMGR.FLOW_STAT.FSTATE.win n) == 2 && p (c.eflow n) then
      ((c.set (F.EMGR.FLOW_STAT.FSTATE.win n) 3).raise F.EMGR.STICKY.FLOW_LOST).elRecord 0x4503 (some n) c.elOwn
    else c) c

/-- The change is reported to the root through the parent; the root itself repeats the addressing and routing (R424). -/
def Chip.elReport (c : Chip) : Chip :=
  if c.on F.EMGR.DISC_STAT.IS_ROOT then c.elLocalAll 9
  else match (List.range 4).find? fun p => c.on (F.EPORT.PORT_STAT.PARENT p) with
    | some p => if c.elUp p then c.elLocal p 10 [] else c
    | none => c

/-- A topology change is detected at a port: TOPO_CHG, record 4501h. -/
def Chip.elTopoChange (c : Chip) (p : Nat) : Chip := ((c.raise F.EMGR.STICKY.TOPO_CHG).elRecord 0x4501 (some p) c.elOwn).elReport

/-- A port has been DOWN for 100 ms while the domain runs (R424). -/
def execPortDownTimeout (port : Fin 4) (s : State) : Host.Outcome State Fault Refusal :=
  s.nextChip fun c =>
    let x := c.eport port
    match x.downAt with
    | none => c
    | some t =>
      if c.elUp port || x.declared || !c.elReadyD then c
      else
        let c1 := c.goto (t + 100 * Config.ms)
        let c2 := (c1.updEport port fun x => { x with declared := true }).elTopoChange port
        c2.elLoseFlows fun f => f.port == port.val

/-! ### READY -/

/-- A MSG is sent along its route, or refused with NO_PATH (R422, R430). -/
def Chip.elSendMsg (c : Chip) (pk : Pkt) : Chip :=
  match c.elRoute (pk.dst.toNat / 64 % 2 ^ 14) with
  | none => ((c.clr F.EMGR.MSG_STAT.BUSY).raise F.EMGR.MSG_STAT.REFUSED).set F.EMGR.MSG_STAT.REASON rNoPath
  | some r => c.elOfferBe r.1 4 1 pk false

/-- What NV memory keeps for WARM_REUSE (R425). -/
def Chip.elStore (c : Chip) : Chip :=
  if c.on F.EMGR.MGR_CFG.WARM_REUSE then
    let peers := (List.range 4).filterMap fun p =>
      if c.elUp p then some (p, c.get64 (R.EPORT.PEER_UID_LO p) (R.EPORT.PEER_UID_HI p), bits (c.rd (R.EPORT.PEER_INFO p)) 0 14) else none
    let nv : ElNv := { addr := c.elOwn, level := c.get F.EMGR.DISC_STAT.LEVEL, root := c.get64 R.EMGR.ROOT_UID_LO R.EMGR.ROOT_UID_HI,
                       domain := c.get F.EMGR.MGR_CFG.DOMAIN_ID, peers := peers, topo := c.el.topo, table := c.el.table }
    (c.updEl fun e => { e with nv := some nv }).tokenWrite
  else c

/-- DSTATE becomes READY: DISC_DONE, DISC_TIME, record 4500h, and a held MSG leaves (R422). -/
def Chip.elReady (c : Chip) : Chip :=
  if c.elReadyD then c
  else
    let c1 := ((c.elSetD dsReady).raise F.EMGR.STICKY.DISC_DONE).wr R.EMGR.DISC_TIME (wd (min 65535 ((c.st - c.el.discAt) / Config.ms)))
    let c2 := (c1.elRecord 0x4500 none c.elOwn).elStore
    match c2.el.msg with
    | some pk => (c2.updEl fun e => { e with msg := none }).elSendMsg pk
    | none => c2

/-! ### Start of discovery (R422) -/

/-- A discovery begins. -/
def Chip.elDiscover (c : Chip) : Chip :=
  let any := (List.range 4).any fun p => c.elUp p
  let c1 := (c.elSetD (if any then dsElecting else dsProbing)).clr F.EMGR.DISC_STAT.WARM
  let c2 := c1.updEl fun e => { e with
    best := if c.on F.EMGR.MGR_CFG.ROOT_ELIG then some (c.uid, 0) else none, bestAt := c.st, discAt := c.st, parent := none }
  let c3 := upto 4 (fun (c : Chip) p => if c.on (F.EPORT.CTRL.EN p) && c.elState p == epDown then c.elSetState p epProbe else c) c2
  c3.elLocalAll 8

/-- DISC_CMD: the root, or a device that knows none, begins a discovery; another asks the root through the port that leads
up (R422). -/
def Chip.elDiscCmd (c : Chip) : Chip :=
  if c.on F.EMGR.DISC_STAT.IS_ROOT || c.get64 R.EMGR.ROOT_UID_LO R.EMGR.ROOT_UID_HI == 0 then c.elDiscover
  else match (List.range 4).find? fun p => c.on (F.EPORT.PORT_STAT.PARENT p) with
    | some p => if c.elUp p then c.elLocal p 10 [] else c
    | none => c

/-! ### Warm re-use (R425) -/

/-- Every port that was UP is UP with the stored peer: the stored address and table are taken. -/
def Chip.elTryWarm (c : Chip) : Chip :=
  match c.el.warmAt, c.el.nv with
  | some t, some nv =>
    let all := nv.peers.all fun e => c.elUp e.1 && c.get64 (R.EPORT.PEER_UID_LO e.1) (R.EPORT.PEER_UID_HI e.1) == e.2.1 &&
      bits (c.rd (R.EPORT.PEER_INFO e.1)) 0 14 == e.2.2
    if all && decide (c.st ≤ t + 20 * Config.ms) then
      let c1 := (c.wr R.EMGR.DEV_ADDR (wd (nv.addr + 2 ^ 31))).set64 R.EMGR.ROOT_UID_LO R.EMGR.ROOT_UID_HI nv.root
      let c2 := (((c1.set F.EMGR.DISC_STAT.LEVEL nv.level).raise F.EMGR.DISC_STAT.WARM).setb F.EMGR.DISC_STAT.IS_ROOT (nv.root == c.uid)).updEl
        fun e => { e with topo := nv.topo, table := nv.table, warmAt := none }
      c2.elReady
    else c
  | _, _ => c

/-- The stored peers have not all returned in 20 ms: TOPO_CHG, and discovery (R425, R424). -/
def execWarmReuseTimeout (s : State) : Host.Outcome State Fault Refusal :=
  s.nextChip fun c =>
    match c.el.warmAt with
    | none => c
    | some t =>
      let c1 := ((c.goto (t + 20 * Config.ms)).updEl fun e => { e with warmAt := none }).raise F.EMGR.STICKY.TOPO_CHG
      (c1.elRecord 0x4501 none c1.elOwn).elDiscover

/-! ### A port comes UP (R422, R424) -/

/-- The port is UP: the election starts with the first port, and a running domain sees a topology change unless the same peer
has returned within 100 ms. -/
def Chip.elPortUp (c : Chip) (p : Nat) : Chip :=
  let x := c.eport p
  let back := x.same && !x.declared && (match x.downAt with | some t => decide (c.st ≤ t + 100 * Config.ms) | none => false)
  let c1 := (c.elSetState p epUp).raise (F.EPORT.STICKY.LINK_UP p)
  let c2 := c1.updEport p fun x => { x with downAt := none, declared := false }
  let c3 := if c2.elReadyD then (if back then c2 else c2.elTopoChange p)
    else if c2.elD = dsProbing then c2.elSetD dsElecting else c2
  (if c3.el.best.isSome && c3.elD != dsReady then c3.elLocal p 8 [] else c3).elTryWarm

/-- A port is ISOLATED. -/
def Chip.elIsolate (c : Chip) (p : Nat) : Chip := (c.elLeaveUp p).elSetState p epIsolated

/-- DESC: the descriptor is taken; a peer of another domain is isolated; authentication runs when either end asks for it, and
leaves the port ISOLATED while the key store is fenced (R421, R422, R438). -/
def Chip.elTakeDesc (c : Chip) (p : Nat) (d : Desc) : Chip :=
  if c.elState p ≠ epAuth then c
  else
    let addr := match d.addr with | some a => a.toNat | none => 0
    let same := c.on (F.EPORT.PEER_INFO.VALID p) && c.get64 (R.EPORT.PEER_UID_LO p) (R.EPORT.PEER_UID_HI p) == d.uid.toNat &&
      bits (c.rd (R.EPORT.PEER_INFO p)) 0 14 == addr
    let c1 := (c.set64 (R.EPORT.PEER_UID_LO p) (R.EPORT.PEER_UID_HI p) d.uid.toNat).wr (R.EPORT.PEER_INFO p)
      (wd (addr + d.port.val * 2 ^ 16 + 2 ^ 31))
    let c2 := (c1.elGot p).updEport p fun x =>
      { x with same := same, peerAuth := d.authReq, peerDomain := d.domain.toNat, peerCert := d.cert.toNat }
    if d.domain.toNat ≠ c.get F.EMGR.MGR_CFG.DOMAIN_ID then c2.elIsolate p
    else if c.on (F.EPORT.PORT_CFG.AUTH_REQ p) || d.authReq then (if c.fenced then c2.elIsolate p else c2.elLocal p 11 [])
    else c2.elPortUp p

def execElRxDesc (port : Fin 4) (d : Desc) (s : State) : Host.Outcome State Fault Refusal :=
  s.nextChip fun c => c.elTakeDesc port d

/-! ### Link authentication (R436) -/

/-- The certificate of a peer stands: its signature over the UID, which the descriptor gave, and the device key verifies under
public-key slot FAB_CA_SLOT, which must be loaded. -/
def Chip.elCertOk (c : Chip) (p : Nat) (x : LinkCert) : Bool :=
  let slot := c.get F.SEC.FAB_CA.FAB_CA_SLOT
  let uid := c.get64 (R.EPORT.PEER_UID_LO p) (R.EPORT.PEER_UID_HI p)
  c.sec.loaded.contains slot && ecdsaOk (c.keyNumber slot 0 8) (c.keyNumber slot 8 8)
    (beNat (sha256 (beOf 8 uid ++ beOf 32 x.x.toNat ++ beOf 32 x.y.toNat))) x.r.toNat x.s.toNat

/-- The peer verifies: its certificate, and its signature over both ephemeral keys and both UIDs. How these are put together is
not stated, so `sigOk` says whether that signature verifies (log 8). -/
def Chip.elVerify (c : Chip) (p : Nat) (cert : LinkCert) (sigOk : Bool) : Bool := c.elCertOk p cert && sigOk

/-- A link key is agreed. -/
def Chip.elKeyed (c : Chip) (p : Nat) : Chip :=
  (c.raise (F.EPORT.PORT_STAT.AUTH_OK p)).updEport p fun x => { x with keys := x.keys + 1, keyAt := c.st }

/-- A failed verification: ISOLATED, AUTH_FAIL, record 4502h. -/
def Chip.elAuthFail (c : Chip) (p : Nat) : Chip :=
  ((c.elIsolate p).raise (F.EPORT.STICKY.AUTH_FAIL p)).elRecord 0x4502 (some p) (bits (c.rd (R.EPORT.PEER_INFO p)) 0 14)

/-- AUTH completes at a port that has taken its peer's descriptor. -/
def execElRxAuth (port : Fin 4) (cert : LinkCert) (sigOk : Bool) (s : State) : Host.Outcome State Fault Refusal :=
  s.nextChip fun c =>
    if c.elState port ≠ epAuth || !c.on (F.EPORT.PEER_INFO.VALID port) then c
    else if c.elVerify port cert sigOk then ((c.elGot port).elKeyed port).elPortUp port
    else (c.elGot port).elAuthFail port

/-- The link key is renewed 24 h after its agreement by the same exchange, without interrupting traffic. -/
def execLinkKeyRenew (port : Fin 4) (cert : LinkCert) (sigOk : Bool) (s : State) : Host.Outcome State Fault Refusal :=
  s.nextChip fun c =>
    if !c.elUp port || !c.on (F.EPORT.PORT_STAT.AUTH_OK port) || c.fenced then c
    else
      let c1 := (c.goto ((c.eport port).keyAt + 86400 * Config.sec)).elLocal port 11 []
      if c1.elVerify port cert sigOk then c1.elKeyed port else c1.elAuthFail port

/-! ### Election, addressing, routing (R422–R424) -/

/-- ELECT: a lower UID is adopted and sent on; an equal one at a shorter distance shortens the distance. -/
def execElRxElect (port : Fin 4) (uid : BitVec 64) (dist : BitVec 8) (s : State) : Host.Outcome State Fault Refusal :=
  s.nextChip fun c =>
    if !c.elUp port || !(c.elD == dsProbing || c.elD == dsElecting) then c
    else
      let c1 := c.elGot port
      let u := uid.toNat
      let d := dist.toNat + 1
      let lower : Bool := match c.el.best with | some b => decide (u < b.1) | none => true
      let nearer : Bool := match c.el.best with | some b => b.1 == u && decide (d < b.2) | none => false
      if lower then (c1.updEl fun e => { e with best := some (u, d), bestAt := c.st }).elLocalAll 8
      else if nearer then (c1.updEl fun e => { e with best := some (u, d) }).elLocalAll 8
      else c1

/-- The best UID has not changed for 50 ms: its owner becomes root and takes address 0; with no device root-eligible, NO_ROOT
is set (R422). -/
def execElectionTimeout (s : State) : Host.Outcome State Fault Refusal :=
  s.nextChip fun c =>
    if !(c.elD == dsProbing || c.elD == dsElecting) then c
    else
      let c1 := c.goto (c.el.bestAt + 50 * Config.ms)
      match c.el.best with
      | none => (c1.elSetD dsElecting).raise F.EMGR.STICKY.NO_ROOT
      | some b =>
        let old := c.get64 R.EMGR.ROOT_UID_LO R.EMGR.ROOT_UID_HI
        let mine := b.1 == c.uid && b.2 == 0
        let c2 := ((c1.set64 R.EMGR.ROOT_UID_LO R.EMGR.ROOT_UID_HI b.1).setb F.EMGR.DISC_STAT.IS_ROOT mine).set
          F.EMGR.DISC_STAT.LEVEL (min b.2 255)
        let c3 := c2.elSetD dsAddressing
        let c4 := if mine then ((c3.wr R.EMGR.DEV_ADDR (wd (2 ^ 31))).raise F.EMGR.TIME_STAT.LOCKED).elLocalAll 9 else c3
        if old ≠ 0 ∧ old ≠ b.1 then c4.elRecord 0x4504 none c4.elOwn else c4

/-- ADDR: an address from the root, through the parent with the lowest (address, port); none means NO_ADDR (R422). -/
def execElRxAddr (port : Fin 4) (addr : Option (BitVec 14)) (level : BitVec 8) (parent : BitVec 14) (s : State) :
    Host.Outcome State Fault Refusal :=
  s.nextChip fun c =>
    let open_ := c.elD == dsAddressing || c.elD == dsRouting || c.elD == dsNoAddr
    if !c.elUp port || !open_ || c.on F.EMGR.DISC_STAT.IS_ROOT then c
    else
      let c1 := c.elGot port
      match addr with
      | none => (((c1.elSetD dsNoAddr).wr R.EMGR.DEV_ADDR 0).raise F.EMGR.STICKY.NO_ADDR).elRecord 0x4506 (some port) 0
      | some a =>
        let better : Bool := match c.el.parent with
          | some q => decide (parent.toNat < q.1) || (parent.toNat == q.1 && decide (port.val ≤ q.2))
          | none => true
        if better then
          (((c1.wr R.EMGR.DEV_ADDR (wd (a.toNat + 2 ^ 31))).set F.EMGR.DISC_STAT.LEVEL level.toNat).elSetD dsRouting).updEl fun e =>
            { e with parent := some (parent.toNat, port.val) }
        else c1

/-- The direction of each port, the time parent (the lowest-numbered port that leads up), and the peers' addresses. -/
def Chip.elDirections (c : Chip) (t : List TopoRec) : Chip :=
  let lv := elLevels t
  let mine := linksOf t c.elOwn
  let up (p : Nat) : Bool := mine.any fun l => l.1 == p && upLink lv c.elOwn l.2
  let first := (List.range 4).find? up
  upto 4 (fun (c : Chip) p =>
    let c1 := (c.setb (F.EPORT.PORT_STAT.UP_DIR p) (up p)).setb (F.EPORT.PORT_STAT.PARENT p) (first == some p)
    match mine.find? fun l => l.1 == p with
    | some l => c1.set ⟨R.EPORT.PEER_INFO p, 0, 14⟩ l.2
    | none => c1) c

/-- TOPO: the route table is built and installed at one instant; flows whose path lost a link are LOST; READY follows when
every device has reported (R422–R424). -/
def execElRxTopo (port : Fin 4) (adj : List TopoRec) (allReported : Bool) (s : State) : Host.Outcome State Fault Refusal :=
  s.nextChip fun c =>
    match c.elAddr with
    | none => c
    | some a =>
      if !(c.elUp port || c.on F.EMGR.DISC_STAT.IS_ROOT) || c.elD < dsAddressing then c
      else
        let c1 := c.elGot port
        let depth := (elLevels adj).foldl (fun m e => max m e.2) 0
        let c2 := (c1.updEl fun e => { e with topo := adj, table := elTable adj a }).elDirections adj
        let c3 := c2.wr R.EMGR.DOMAIN_SIZE (wd (adj.length % 2 ^ 15 + min depth 255 * 2 ^ 16))
        let c4 := c3.elLoseFlows fun f => !pathStands adj f.path
        let c5 := if c4.elReadyD then c4.elStore else c4.elSetD dsRouting
        let c6 := c5.elLocalAll 10
        if allReported then c6.elReady else c6

def execDiscCmd (src : Source) (s : State) : Host.Outcome State Fault Refusal :=
  s.nextGated { src := src, addr := R.EMGR.DISC_CMD, val := 1 } Chip.elDiscCmd

/-! ### Fabric time (R426–R428, R442) -/

/-- ST is stepped forward (R427): only while STEP_EN = 1, by at least STEP_TH, with every PG leg disabled. -/
def Chip.elMayStep (c : Chip) (ticks : Nat) : Bool :=
  c.on F.EMGR.TIME_CFG.STEP_EN && decide (c.get F.EMGR.TIME_CFG.STEP_TH * Config.us ≤ ticks) &&
    (List.range 40).all fun n => !c.on (hEn (pageOf 10 n))

/-- The device is behind by `ticks`: it steps where permitted and slews otherwise. -/
def Chip.elBehind (c : Chip) (ticks : Nat) : Chip :=
  if c.elMayStep ticks then { c with st := c.st + ticks } else c.updEl fun e => { e with slew := (ticks : Int) }

/-- LOCKED after an offset has been measured (R426). -/
def Chip.elLock (c : Chip) (off : Int) : Chip :=
  let m := off.natAbs
  if m ≤ 256 then
    let since := (c.el.inBand).getD c.st
    let c1 := c.updEl fun e => { e with inBand := some since }
    if since + Config.sec ≤ c.st then c1.raise F.EMGR.TIME_STAT.LOCKED else c1
  else
    let c1 := c.updEl fun e => { e with inBand := none }
    if decide (1280 < m) && c.on F.EMGR.TIME_STAT.LOCKED then
      ((c1.clr F.EMGR.TIME_STAT.LOCKED).raise F.EMGR.STICKY.TIME_UNLOCK).elRecord 0x4505 none c.elOwn
    else c1

/-- TIME from the parent: the offset is measured, LOCKED follows it, and ST steps or slews. The offset to the root that the
packet carries is the parent's own and changes nothing here. -/
def execElRxTime (port : Fin 4) (sent _rootOfs : Nat) (at_ : Nat) (s : State) : Host.Outcome State Fault Refusal :=
  s.nextChip fun c =>
    if !c.elUp port then c
    else
      let c1 := (c.goto at_).elGot port
      if !c.on (F.EPORT.PORT_STAT.PARENT port) || c.get F.EMGR.TIME_CFG.TSRC != 0 || c.on F.EMGR.DISC_STAT.IS_ROOT then c1
      else
        let off : Int := (at_ : Int) - (sent : Int) - (c.eport port).delay
        let nsOff := max (-32768) (min 32767 (Int.tdiv (off * 5) 128))
        let c2 := (c1.set ⟨R.EMGR.TIME_STAT, 0, 16⟩ ((nsOff + 65536) % 65536).toNat).elLock off
        if off < 0 then c2.elBehind (-off).toNat else c2.updEl fun e => { e with slew := -off }

/-- The parent sends TIME on a port that leads down (R426). -/
def execTimeSend (port : Fin 4) (s : State) : Host.Outcome State Fault Refusal :=
  s.nextChip fun c =>
    if c.elUp port && c.elAddr.isSome && !c.on (F.EPORT.PORT_STAT.UP_DIR port) then c.elLocal port 6 [] else c

/-- The link delay from a TIME exchange in both directions (R426): departure and arrival at the peer, departure and arrival
here. -/
def execTimeDelayExchange (port : Fin 4) (t1 t2 t3 t4 : Nat) (s : State) : Host.Outcome State Fault Refusal :=
  s.nextChip fun c =>
    if c.elUp port then
      ((c.goto t4).elGot port).updEport port fun x => { x with delay := (((t4 : Int) - t1) - ((t3 : Int) - t2)) / 2 }
    else c

/-- TIME_OFS: on the root with TSRC = 01b, a positive offset steps ST where permitted and slews otherwise; a negative one slews
(R442). Elsewhere it is refused (log 32). -/
def Chip.elTimeOfs (c : Chip) (w : Acc) : Chip :=
  if !c.on F.EMGR.DISC_STAT.IS_ROOT || c.get F.EMGR.TIME_CFG.TSRC != 1 then c.reject w rState false
  else
    let ticks : Int := w.val.toInt * 128 / 5
    if 0 < ticks then c.elBehind ticks.toNat else c.updEl fun e => { e with slew := ticks }

def execTimeOffsetWrite (src : Source) (v : Word) (s : State) : Host.Outcome State Fault Refusal :=
  let w : Acc := { src := src, addr := R.EMGR.TIME_OFS, val := v }
  s.nextGated w fun c => c.elTimeOfs w

end Sys2Proof.Machine
end

