-- ==== Sys2Proof/Machine/Fabric.lean ====
section
/-! DEFINITION. Erelo traffic: forwarding, flows and their admission, endpoints, messages and the writes of the Erelo pages
(R419, R420, R429–R434, R437, R444). -/

namespace Sys2Proof.Machine

/-! ### Forwarding (R420) -/

/-- A packet for another device is forwarded by cut-through: TTL one lower and HCRC recomputed; a failed HCRC ends the
outgoing packet with ABORT. -/
def Chip.elForward (c : Chip) (p ptype : Nat) (pk : Pkt) : Chip :=
  let cls := elClass ptype
  let d := pk.dst.toNat / 64 % 2 ^ 14
  if !c.elUp p then c.elDrop p
  else
    let c1 := c.elGot p
    let okH := pk.hcrc == pktHcrc pk ptype
    let c2 := if okH then c1 else c1.elCrcErr p
    let c3 := if okH && !pk.enc && pk.crc != pktCrc pk ptype then c2.elCrcErr p else c2
    if 2 ≤ cls ∨ c.elAddr = some d then c3
    else if pk.ttl = 0 then (c3.inc (F.EPORT.DROP_CNT.TTL_DROP p)).raise (F.EPORT.STICKY.TTL_DROP p)
    else match c.elRoute d with
      | none => c3.elDrop p
      | some r =>
        let out : Pkt := { pk with ttl := pk.ttl - 1 }
        if !c.elUp r.1 then c3.elDrop p
        else if cls = 1 then c3.elSendSched r.1 ptype out (!okH)
        else if okH then c3.elOfferBe r.1 p ptype out false
        else if (c3.eport r.1).waiting.isEmpty && creditsOf out ≤ c3.get (elCredits r.1) then c3.elSendBe r.1 p ptype out true
        else c3

def execElForward (port : Fin 4) (ptype : BitVec 4) (pk : Pkt) (at_ : Nat) (s : State) : Host.Outcome State Fault Refusal :=
  s.nextChip fun c => (c.goto at_).elForward port ptype.toNat pk

/-- A packet for this device has arrived on an UP port with a sound header; else CRC_ERR counts. -/
def Chip.elArrives (c : Chip) (p ptype : Nat) (pk : Pkt) : Bool × Chip :=
  if !c.elUp p then (false, c)
  else
    let c1 := c.elGot p
    if pk.hcrc != pktHcrc pk ptype then (false, c1.elCrcErr p)
    else (c.elAddr == some (pk.dst.toNat / 64 % 2 ^ 14), c1)

/-! ### Words and bytes -/

/-- A word from four bytes, most significant first. -/
def wordOf (l : List Nat) : Word := wd (l.getD 0 0 * 2 ^ 24 + l.getD 1 0 * 2 ^ 16 + l.getD 2 0 * 2 ^ 8 + l.getD 3 0)

/-- A payload as words, the last one filled with zeros. -/
def payloadWords (pk : Pkt) : List Word :=
  let b := pk.payload.map fun x => x.toNat
  (List.range ((b.length + 3) / 4)).map fun k => wordOf (b.drop (4 * k))

/-! ### Sinks (R430, R432, R433) -/

/-- Field of an endpoint's counters: received, missed, late. -/
abbrev epReceived (e : Nat) : Fld := ⟨R.EMGR.EP_CNT e, 0, 16⟩
abbrev epMissed (e : Nat) : Fld := ⟨R.EMGR.EP_CNT e, 16, 8⟩
abbrev epLate (e : Nat) : Fld := ⟨R.EMGR.EP_CNT e, 24, 8⟩

/-- Missed packets of a sink (R432, R433). -/
def Chip.elMissed (c : Chip) (e n : Nat) : Chip := if n = 0 then c else (c.addSat (epMissed e) n).raise F.EMGR.STICKY.FLOW_MISS

/-- SEQ_GAP_MISS: a gap of k packets counts as k missed (R433). -/
def Chip.elGap (c : Chip) (e : Nat) (seq : Nat) : Chip :=
  let x := c.eep e
  let gap := match x.seq with | some n => (seq + 65536 - n) % 65536 | none => 0
  (c.elMissed e gap).setEep e { x with seq := some ((seq + 1) % 65536) }

/-- The words of a packet are written to the sink at one instant, and their tags increment together (R430). -/
def Chip.elDeliver (c : Chip) (e : Nat) (ws : List Word) : Chip :=
  let base := c.get (F.EMGR.EP_CFG.MBX_BASE e)
  let n := c.get (F.EMGR.EP_CFG.NWM1 e) + 1
  (upto n (fun c k => c.mailboxWrite ((base + k) % 256) (ws.getD k 0)) c).inc (epReceived e)

/-- A FLOW packet that is in time at its sink: its checks, and the words (R432, R433, R437). -/
def Chip.elSinkNow (c : Chip) (p : Nat) (pk : Pkt) : Chip :=
  let e := pk.dst.toNat % 64
  let x := c.eep e
  if x.enc && !(pk.enc && pk.tagOk && pk.epoch.toNat == x.epoch && decide (x.pn < pk.pn.toNat)) then
    (c.raise F.EMGR.STICKY.AUTH_DROP).elGap e pk.seq.toNat |>.elMissed e 1
  else if !x.enc && (pk.enc || !pktBodyOk pk 0) then ((c.elCrcErr p).elGap e pk.seq.toNat).elMissed e 1
  else
    let c1 := (c.elGap e pk.seq.toNat).elDeliver e (payloadWords pk)
    if x.enc then c1.setEep e { c1.eep e with pn := pk.pn.toNat } else c1

/-- A FLOW packet at its sink (R432). -/
def Chip.elSink (c : Chip) (p : Nat) (pk : Pkt) : Chip :=
  let e := pk.dst.toNat % 64
  let x := c.eep e
  let bound := x.bound == some (pk.src.toNat / 64 % 2 ^ 14, pk.flow.toNat)
  if c.get (F.EMGR.EP_CFG.MODE e) ≠ 1 ∨ bound = false then c.raise F.EMGR.STICKY.EP_DROP
  else if x.late && (match x.seq with | some n => pk.seq.toNat == n | none => true) then
    ((c.late 0x15 4 e).inc (epLate e)).setEep e { x with late := false, seq := some ((pk.seq.toNat + 1) % 65536) }
  else if x.late then (c.setEep e { x with late := false, seq := x.seq.map fun n => (n + 1) % 65536 }).elSinkNow p pk
  else c.elSinkNow p pk

def execElRxFlow (port : Fin 4) (pk : Pkt) (at_ : Nat) (s : State) : Host.Outcome State Fault Refusal :=
  s.nextChip fun c =>
    let a := (c.goto at_).elArrives port 0 pk
    if a.1 then a.2.elSink port pk else a.2

/-- The sink's limit wins (R432): the packet due in this period counts as missed, and is discarded if it still comes; one that has
not come by the next limit comes no more. -/
def Chip.sinkLimit (c : Chip) (e : Nat) : Chip :=
  let x := c.eep e
  if x.bound.isNone then c
  else (c.elMissed e 1).setEep e { x with late := true, seq := if x.late then x.seq.map fun n => (n + 1) % 65536 else x.seq }

def execFlowSinkLimit (ep : Fin 64) (at_ : Nat) (s : State) : Host.Outcome State Fault Refusal :=
  s.nextChip fun c => if (c.eep ep).bound.isNone then c else (c.goto at_).sinkLimit ep

/-- A MSG packet is placed in the ring of a queue endpoint: 16 KB of shared SRAM from RING (R430). -/
def execElRxMsg (port : Fin 4) (pk : Pkt) (s : State) : Host.Outcome State Fault Refusal :=
  s.nextChip fun c =>
    let a := c.elArrives port 1 pk
    if !a.1 then a.2
    else if !pktBodyOk pk 1 then a.2.elCrcErr port
    else
      let e := pk.dst.toNat % 64
      let x := a.2.eep e
      if a.2.get (F.EMGR.EP_CFG.MODE e) ≠ 2 then a.2.raise F.EMGR.STICKY.EP_DROP
      else
        let ws := payloadWords pk
        let base := a.2.get (F.EMGR.EP_CFG.RING e) * 256
        let c1 := upto ws.length (fun (c : Chip) k => c.shmWr ((base + (x.ring + k) % 4096) % 2 ^ 20) (ws.getD k 0)) a.2
        (c1.setEep e { x with ring := (x.ring + ws.length) % 4096 }).inc (epReceived e)

/-! ### Fields of a source flow (R429) -/

def Chip.flK (c : Chip) (n : Nat) : Nat := bits (c.rd (win n R.EMGR.FLOW_PER)) 0 4
def Chip.flPhase (c : Chip) (n : Nat) : Nat := (c.rd (win n R.EMGR.FLOW_PHASE)).toNat
def Chip.flDst (c : Chip) (n : Nat) : Nat := bits (c.rd (win n R.EMGR.FLOW_DST)) 0 24
def Chip.flNw (c : Chip) (n : Nat) : Nat := c.get (F.EMGR.FLOW_SRC.NW.win n) + 1
def Chip.flBase (c : Chip) (n : Nat) : Nat := c.get (F.EMGR.FLOW_SRC.MBX_BASE.win n)
def Chip.flEnc (c : Chip) (n : Nat) : Bool := c.on (F.EMGR.FLOW_SRC.ENC.win n)
def Chip.flState (c : Chip) (n : Nat) : Nat := c.get (F.EMGR.FLOW_STAT.FSTATE.win n)

/-- N: blocks of a FLOW packet. -/
def flowBlocks (nw : Nat) (enc : Bool) : Nat := elBlocks ((if enc then 40 else 20) + 4 * nw)

/-- B of a flow over H links, in ns, rounded up: H × 120 ns + S. -/
def flowBound (h nw : Nat) (enc : Bool) : Nat := (h * 1200 + flowBlocks nw enc * 264 + 9) / 10

/-- The flow's fields are in range. -/
def Chip.flOk (c : Chip) (n : Nat) : Bool :=
  let d := c.flDst n
  decide (c.flK n ≤ 13) && decide (c.flPhase n < flowPeriod (c.flK n)) && decide (c.flBase n + c.flNw n ≤ 256) &&
    d / 2 ^ 20 == 0 && d % 64 != 0 && d % 64 != 63

/-- FLOW_RESULT and the flow's REASON (R431). -/
def Chip.flResult (c : Chip) (n reason : Nat) (accept : Bool) : Chip :=
  (c.wr R.EMGR.FLOW_RESULT (wd (1 + accept.toNat * 2 + reason % 256 * 256 + n * 65536))).set (F.EMGR.FLOW_STAT.REASON.win n) reason

/-! ### Admission at the source (R431) -/

/-- The reason of step 1, and of the test of the source's own link: none when the request goes on along the route. -/
def Chip.flCheck (c : Chip) (n : Nat) : Option Nat :=
  if !c.elReadyD then some rState
  else if c.flState n = 1 ∨ c.flState n = 2 then some rState
  else if !c.flOk n then some rParam
  else match c.elRoute (c.flDst n / 64) with
    | none => some rNoPath
    | some r =>
      if c.get F.EMGR.MGR_CFG.HOP_MAX < r.2 then some rNoPath
      else if !c.on F.EMGR.TIME_STAT.LOCKED then some 0x82
      else if c.flEnc n && c.fenced then some rState
      else none

/-- The window of a flow of this device on its first link. -/
def Chip.flWin (c : Chip) (n : Nat) (test : Bool) : ElWin :=
  let w := flowWindow (c.flK n) (c.flPhase n) 1 (flowBlocks (c.flNw n) (c.flEnc n))
  { dev := c.elOwn, flow := n, start := w.1, len := w.2, k := c.flK n, held := some c.st, back := 4, test := test }

/-- FLOW_CMD open and test only: the source checks, the test of the first link, and RESV along the route. -/
def Chip.flAdmit (c0 : Chip) (n : Nat) (test : Bool) : Chip :=
  match c0.flCheck n with
  | some r => c0.flResult n r false
  | none =>
    let c := if c0.flState n = 3 then c0.elRelease c0.elOwn n else c0
    match c.elRoute (c.flDst n / 64) with
    | none => c.flResult n rNoPath false
    | some r =>
      let w := c.flWin n test
      let res := c.elTestLink r.1 w
      if res ≠ 0 then c.flResult n res false
      else
        let c1 := c.elWins r.1 fun ws => ws ++ [w]
        let c2 := c1.setEflow n { (c1.eflow n) with hops := r.2, port := r.1, path := elPath c.el.topo c.elOwn (c.flDst n / 64) }
        let c3 := (c2.wr R.EMGR.FLOW_RESULT (wd (n * 65536))).elLocal r.1 4 []
        if test then c3 else (c3.set (F.EMGR.FLOW_STAT.FSTATE.win n) 1).set (F.EMGR.FLOW_STAT.FLOW_ID.win n) n

/-- FLOW_CMD close: every window of the flow is released, and the flow is CLOSED (R433). -/
def Chip.flClose (c : Chip) (n : Nat) : Chip :=
  if !c.elReadyD then c.flResult n rState false
  else
    let c1 := (c.elRelease c.elOwn n).set (F.EMGR.FLOW_STAT.FSTATE.win n) 0
    let c2 := c1.setEflow n {}
    let c3 := match c.elRoute (c.flDst n / 64) with | some r => c2.elLocal r.1 4 [] | none => c2
    c3.flResult n 0 true

/-- A write of FLOW_CMD. -/
def Chip.flCmd (c : Chip) (v : Word) : Chip :=
  let n := bits v 0 6
  match bits v 8 2 with
  | 1 => c.flAdmit n false
  | 2 => c.flClose n
  | 3 => c.flAdmit n true
  | _ => c.flResult n rParam false

/-- A write to FLOW_CMD through the gate. -/
def State.flowCmd (s : State) (src : Source) (n op : Nat) : Host.Outcome State Fault Refusal :=
  let w : Acc := { src := src, addr := R.EMGR.FLOW_CMD, val := wd (n + op * 256) }
  s.nextGated w fun c => c.flCmd w.val

def execFlowOpen (src : Source) (flow : Fin 64) (s : State) : Host.Outcome State Fault Refusal := s.flowCmd src flow 1

def execFlowClose (src : Source) (flow : Fin 64) (s : State) : Host.Outcome State Fault Refusal := s.flowCmd src flow 2

def execFlowTestOnly (src : Source) (flow : Fin 64) (s : State) : Host.Outcome State Fault Refusal := s.flowCmd src flow 3

/-! ### Reservations at the other devices (R431, R433, R434) -/

/-- A reservation answer leaves on a port. -/
def Chip.elAnswer (c : Chip) (p reason : Nat) : Chip := c.elLocal p 5 [reason % 256]

/-- The sink's checks: NO_ENDPOINT, AUTH_FAIL, or 0. -/
def Chip.elSinkCheck (c : Chip) (rq : Resv) (keyOk : Bool) : Nat :=
  let e := rq.sink.toNat % 64
  let x := c.eep e
  let free := x.bound.isNone || x.bound == some (rq.dev.toNat, rq.flow.val)
  if e = 0 ∨ e = 63 ∨ c.get (F.EMGR.EP_CFG.MODE e) ≠ 1 ∨ c.get (F.EMGR.EP_CFG.NWM1 e) ≠ rq.nw.val ∨ free = false then 0x80
  else if c.on (F.EMGR.EP_CFG.ENC_REQ e) && !rq.enc then 0x80
  else if rq.enc && (!keyOk || c.fenced) then 0x81
  else 0

/-- A request at its sink. -/
def Chip.elResvSink (c : Chip) (p : Nat) (rq : Resv) (keyOk : Bool) : Chip :=
  let e := rq.sink.toNat % 64
  match rq.kind with
  | .close => if (c.eep e).bound = some (rq.dev.toNat, rq.flow.val) then c.setEep e { ring := (c.eep e).ring } else c
  | .mgmt =>
    let known : Bool := c.el.pairs.any fun y => y.dest == rq.dev.toNat
    -- the reverse flow of the pair takes this device's link towards the source
    if known then c.elAnswer p 0
    else if 8 ≤ (c.eport p).mgmt.length then c.elAnswer p rOverUtil
    else (((c.elAddPair { dest := rq.dev.toNat, isOpen := true, used := c.st, hops := rq.hop.toNat }).updEport p fun x =>
      { x with mgmt := x.mgmt ++ [(c.elOwn, rq.dev.toNat)] }).elOcc p).elAnswer p 0
  | .test => c.elAnswer p (c.elSinkCheck rq keyOk)
  | .open_ =>
    let r := c.elSinkCheck rq keyOk
    let c1 := if r = 0 then c.setEep e { (c.eep e) with bound := some (rq.dev.toNat, rq.flow.val), enc := rq.enc, seq := none, pn := 0,
                                                         epoch := 0, late := false } else c
    c1.elAnswer p r

/-- A request at a device on its way: the output link is tested, and its window held tentatively (R431). -/
def Chip.elResvHop (c : Chip) (p : Nat) (rq : Resv) : Chip :=
  let dev := rq.dev.toNat
  match c.elRoute (rq.sink.toNat / 64 % 2 ^ 14) with
  | none => c.elAnswer p rNoPath
  | some r =>
    match rq.kind with
    | .close => (c.elRelease dev rq.flow).elLocal r.1 4 []
    | .mgmt =>
      let sink := rq.sink.toNat / 64 % 2 ^ 14
      if 8 ≤ (c.eport r.1).mgmt.length ∨ 8 ≤ (c.eport p).mgmt.length then c.elAnswer p rOverUtil
      else
        (((c.updEport r.1 fun x => { x with mgmt := x.mgmt ++ [(dev, sink)] }).elOcc r.1).updEport p fun x =>
          { x with mgmt := x.mgmt ++ [(sink, dev)] }).elOcc p |>.elLocal r.1 4 []
    | _ =>
      let w := flowWindow rq.k rq.phase.toNat rq.hop.toNat (flowBlocks (rq.nw.val + 1) rq.enc)
      let x : ElWin := { dev := dev, flow := rq.flow, start := w.1, len := w.2, k := rq.k, held := some c.st, back := p,
                         test := decide (rq.kind = .test) }
      let res := c.elTestLink r.1 x
      if res ≠ 0 then c.elAnswer p res else (c.elWins r.1 fun ws => ws ++ [x]).elLocal r.1 4 []

def execElRxResv (port : Fin 4) (rq : Resv) (keyOk : Bool) (s : State) : Host.Outcome State Fault Refusal :=
  s.nextChip fun c =>
    if !c.elUp port then c
    else if c.elAddr = some (rq.sink.toNat / 64 % 2 ^ 14) then (c.elGot port).elResvSink port rq keyOk
    else (c.elGot port).elResvHop port rq

/-- The answer at the source of a flow: step 4 (R431). -/
def Chip.flSettle (c : Chip) (n : Nat) (test : Bool) (reason : Nat) : Chip :=
  let x := c.eflow n
  if test then (c.elRelease c.elOwn n).flResult n reason (reason == 0)
  else if c.flState n ≠ 1 then c
  else if reason = 0 then
    let c1 := (c.elCommit c.elOwn n).setEflow n { x with seq := 0, pn := 1, epoch := 0, words := none }
    let c2 := (c1.set (F.EMGR.FLOW_STAT.FSTATE.win n) 2).wr (win n R.EMGR.FLOW_BOUND) (wd (flowBound x.hops (c.flNw n) (c.flEnc n)))
    c2.flResult n 0 true
  else ((c.elRelease c.elOwn n).set (F.EMGR.FLOW_STAT.FSTATE.win n) 0).flResult n reason false

/-- The answer for a pair of management flows (R434). -/
def Chip.elPairDone (c : Chip) (reason sm : Nat) : Chip :=
  if !c.on F.EMGR.MGMT_PEND.BUSY then c
  else
    let d := bits (c.rd R.EMGR.MGMT_PEND) 0 14
    let c1 := c.wr R.EMGR.MGMT_PEND 0
    if reason = 0 then c1.updEl fun e => { e with pairs := e.pairs.map fun x => if x.dest == d then { x with isOpen := true, rest := sm } else x }
    else
      let c2 := c1.updEl fun e => { e with pairs := e.pairs.filter fun x => x.dest != d }
      upto 4 (fun (c : Chip) p => (c.updEport p fun x => { x with mgmt := x.mgmt.filter fun m => !(m == (c.elOwn, d)) }).elOcc p) c2

/-- An answer at a device on its way: the windows are committed or released, and it goes on towards the source. -/
def Chip.elAckHop (c : Chip) (dev flow : Nat) (kind : ResvKind) (reason : Nat) : Chip :=
  let back := (List.range 4).findSome? fun p =>
    ((c.eport p).wins.find? fun w => w.dev == dev && w.flow == flow).map fun w => w.back
  let c1 := if reason = 0 ∧ kind = .open_ then c.elCommit dev flow
    else if kind = .open_ ∨ kind = .test then c.elRelease dev flow else c
  match back with
  | some b => if b < 4 then c1.elAnswer b reason else c1
  | none => c1

def execElRxResvAck (port : Fin 4) (kind : ResvKind) (dev : BitVec 14) (flow : Fin 64) (reason : BitVec 8) (sm : Nat) (s : State) :
    Host.Outcome State Fault Refusal :=
  s.nextChip fun c =>
    if !c.elUp port then c
    else
      let c1 := c.elGot port
      if c.elAddr = some dev.toNat then
        match kind with
        | .open_ => c1.flSettle flow false reason.toNat
        | .test => c1.flSettle flow true reason.toNat
        | .mgmt => c1.elPairDone reason.toNat sm
        | .close => c1
      else c1.elAckHop dev.toNat flow kind reason.toNat

/-- A tentative window that no answer settles is released 10 ms after it was held (R431). -/
def execResvTentativeExpire (port : Fin 4) (dev : BitVec 14) (flow : Fin 64) (s : State) : Host.Outcome State Fault Refusal :=
  s.nextChip fun c =>
    match (c.eport port).wins.find? fun w => w.dev == dev.toNat && w.flow == flow.val && w.held.isSome with
    | none => c
    | some w =>
      (c.goto ((w.held).getD 0 + 10 * Config.ms)).elWins port fun ws =>
        ws.filter fun v => !(v.dev == dev.toNat && v.flow == flow.val && v.held.isSome)

/-! ### Sending (R429, R432, R437) -/

/-- The next instant n × P + x at or after ST. -/
def Chip.flNext (c : Chip) (p x : Nat) : Nat := c.st + (x % p + (p - c.st % p)) % p

/-- At φ − 200 ns the words are captured whole (R429). -/
def execFlowCapture (flow : Fin 64) (s : State) : Host.Outcome State Fault Refusal :=
  s.nextChip fun c =>
    if c.flState flow ≠ 2 then c
    else
      let p := flowPeriod (c.flK flow)
      let c1 := c.goto (c.flNext p (c.flPhase flow + p - 5120))
      let ws := (List.range (c.flNw flow)).map fun k => Tab.at c1.mailbox 0 (c.flBase flow + k)
      c1.setEflow flow { c1.eflow flow with words := some ws }

/-- The FLOW packet of a flow. -/
def Chip.flPacket (c : Chip) (n : Nat) (ws : List Word) : Pkt :=
  let x := c.eflow n
  { enc := c.flEnc n, dst := BitVec.ofNat 24 (c.flDst n), ttl := BitVec.ofNat 8 (c.get F.EMGR.MGR_CFG.HOP_MAX)
    flow := BitVec.ofNat 16 (c.get (F.EMGR.FLOW_STAT.FLOW_ID.win n)), src := BitVec.ofNat 24 (c.elOwn * 64)
    seq := BitVec.ofNat 16 x.seq, payload := (ws.flatMap beBytes).map fun b => BitVec.ofNat 8 b, hcrc := 0, crc := 0
    epoch := BitVec.ofNat 8 x.epoch, pn := BitVec.ofNat 48 x.pn, tagOk := true }

/-- At n × P + φ the packet leaves the source port (R432); at PN = 2^47 the flow is re-keyed (R437). -/
def execFlowSend (flow : Fin 64) (s : State) : Host.Outcome State Fault Refusal :=
  s.nextChip fun c =>
    let x := c.eflow flow
    match x.words with
    | none => c
    | some ws =>
      if c.flState flow ≠ 2 then c
      else
        let c1 := c.goto (c.flNext (flowPeriod (c.flK flow)) (c.flPhase flow))
        let c2 := if c.elUp x.port then (c1.elSendSched x.port 0 (c.flPacket flow ws) false).inc (whole (win flow.val R.EMGR.FLOW_SENT)) else c1
        let rekey := c.flEnc flow && x.pn == 2 ^ 47
        c2.setEflow flow { x with seq := (x.seq + 1) % 65536, words := none
                                  pn := if rekey then 1 else if c.flEnc flow then x.pn + 1 else x.pn
                                  epoch := if rekey then (x.epoch + 1) % 256 else x.epoch }

/-- KEYX agrees a flow key (R437): at the source of a flow, or at the sink endpoint, whose last PN restarts; a key store that is
fenced refuses it (R438). -/
def execElRxKeyx (source : Bool) (n : Fin 64) (ok : Bool) (s : State) : Host.Outcome State Fault Refusal :=
  s.nextChip fun c =>
    if c.fenced then c
    else if !ok then (if source && c.flState n == 1 then c.flSettle n false 0x81 else c)
    else if source then c.setEflow n { c.eflow n with pn := 1 }
    else
      let x := c.eep n
      if x.bound.isSome && x.enc then c.setEep n { x with pn := 0, epoch := if x.pn = 0 then x.epoch else (x.epoch + 1) % 256 } else c

/-! ### Messages (R422, R430) -/

/-- The bytes of MSG_BUF, most significant first. -/
def Chip.msgBytes (c : Chip) (n : Nat) : List Nat := ((List.range ((n + 3) / 4)).flatMap fun k => beBytes (c.rd (R.EMGR.MSG_BUF k))).take n

/-- A MSG is refused in MSG_STAT. -/
def Chip.msgRefuse (c : Chip) (r : Nat) : Chip := c.wr R.EMGR.MSG_STAT (wd (4 + r * 256))

/-- MSG_CMD SEND: refused in MSG_STAT, held until READY, or sent. -/
def Chip.msgCmd (c : Chip) (w : Acc) : Chip :=
  let n := bits w.val 0 11
  let d := bits (c.rd R.EMGR.MSG_DST) 0 24
  if bits w.val 31 1 = 0 then c
  else if c.on F.EMGR.MSG_STAT.BUSY then c.reject w rState false
  else if n < 4 ∨ 1024 < n ∨ d / 2 ^ 20 ≠ 0 then c.msgRefuse rParam
  else
    let pk : Pkt := { enc := false, dst := BitVec.ofNat 24 d, ttl := BitVec.ofNat 8 (c.get F.EMGR.MGR_CFG.HOP_MAX), flow := 0
                      src := BitVec.ofNat 24 (c.elOwn * 64), seq := 0, payload := (c.msgBytes n).map fun b => BitVec.ofNat 8 b
                      hcrc := 0, crc := 0, epoch := 0, pn := 0, tagOk := true }
    let c1 := c.wr R.EMGR.MSG_STAT 1
    if c.elReadyD then c1.elSendMsg pk else c1.updEl fun e => { e with msg := some pk }

def execMsgSend (src : Source) (len : BitVec 11) (s : State) : Host.Outcome State Fault Refusal :=
  let w : Acc := { src := src, addr := R.EMGR.MSG_CMD, val := wd (2 ^ 31 + len.toNat) }
  s.nextGated w fun c => c.msgCmd w

/-! ### Writes of the Erelo pages (R444) -/

/-- An endpoint register accepts a write while the endpoint is unbound; endpoints 0 and 63 read 0. -/
def Chip.epWrite (c : Chip) (w : Acc) (e : Nat) : Chip :=
  if e = 0 ∨ e = 63 then c
  else if (c.eep e).bound.isSome then c.reject w rState true
  else (c.store w).setEep e {}

/-- A write to the manager page. -/
def Emgr.onWrite (w : Acc) (c : Chip) : Chip :=
  let n := bits (c.rd R.EMGR.FLOW_SEL) 0 6
  match w.off with
  | 0x44 => if bits w.val 0 1 = 1 then c.elDiscCmd else c
  | 0x70 =>
    if c.get F.EMGR.TIME_CFG.TSRC ≠ 1 then c.reject w rState true
    else c.wr R.EMGR.TIME_RATE (iw (max (-19500) (min 19500 w.val.toInt)))
  | 0x74 => c.elTimeOfs w
  | 0x78 => c.flCmd w.val
  | 0xA8 => c.msgCmd w
  | o =>
    if 0x84 ≤ o ∧ o ≤ 0x90 then
      if c.flState n ≠ 0 then c.reject w rState true else c.storeAt (win n w.addr) w.val
    else if 0x200 ≤ o ∧ o ≤ 0x2FC then c.epWrite w ((o - 0x200) / 4)
    else c.store w

/-- CNT_CLR of the manager: EP_CNT and FLOW_SENT. -/
def Chip.emgrClear (c : Chip) : Chip :=
  upto 64 (fun (c : Chip) k => (c.wr (R.EMGR.EP_CNT k) 0).wr (win k R.EMGR.FLOW_SENT) 0) c

/-- A write to a port page: PORT_CFG while EN = 0, and the counter clears. -/
def Eport.onWrite (w : Acc) (c : Chip) : Chip :=
  let p := w.inst
  match w.off with
  | 0x40 => if c.on (F.EPORT.CTRL.EN p) then c.reject w rState true else c.store w
  | 0x7C =>
    let clear (c : Chip) (i : Nat) (l : List Nat) : Chip := if bits w.val i 1 = 1 then l.foldl (fun (c : Chip) a => c.wr a 0) c else c
    clear (clear (clear (clear (clear c 0 [R.EPORT.ERR_CNT p]) 1 [R.EPORT.DROP_CNT p]) 2 [R.EPORT.DOWN_CNT p])
      3 [R.EPORT.TX_PKTS p, R.EPORT.RX_PKTS p]) 4 [R.EPORT.SUSP_CNT p]
  | _ => c.store w

end Sys2Proof.Machine
end

