-- ==== Sys2Proof/Machine/Dac.lean ====
section
/-! DEFINITION. The general DACs (R215, R216, R220). -/

namespace Sys2Proof.Machine

/-- A DAC takes a code, which the comparators that select it see (R202, R215). -/
def Chip.dacSet (c : Chip) (d code : Nat) : Chip := (c.wr (R.DAC.DCODE d) (wd code)).withSc fun c => c.dacSeen d

/-- A code takes effect; with EN = 0 the codes are held at 0 (Table 6.12). -/
def Chip.dacCode (c : Chip) (d code : Nat) : Chip := if c.on (hEn R.DAC.ID) then c.dacSet d code else c

/-- What pin DOUT_d is driven to: the code, or nothing while its buffer is at high impedance (R215, Table 6.12). -/
def Chip.dacPin (c : Chip) (d : Nat) : Option Nat :=
  if c.on (hEn R.DAC.ID) ∧ c.get (F.DAC.DCFG.SRC d) ≠ 0 ∧ c.on (F.DAC.DCFG.PIN_EN d) then some (c.get ⟨R.DAC.DCODE d, 0, 12⟩)
  else none

/-- A CLE value delivered to a DAC port, already clamped to 12 bits (R215). -/
def Chip.dacPort (c : Chip) (d : Nat) (v : Word) : Chip :=
  if c.get (F.DAC.DCFG.SRC d) = 2 then c.dacCode d (bits v 0 12) else c.raise (hSticky R.DAC.ID 1)

/-- The sine update of a DAC (R216). -/
def Chip.sineUpdate (c : Chip) (d : Nat) : Chip :=
  let th := c.dacPhase d c.st
  let amp : Int := c.get (F.DAC.DSINE.AMP d)
  let x := (c.get (F.DAC.DSINE.OFFSET d) : Int) + (amp * sinTurns th.1 th.2 + 2 ^ 63) / 2 ^ 64
  let k := clampInt 0 0xFFF x
  ((c.dacCode d k.1.toNat).raiseIf k.2 (hSticky R.DAC.ID 2)).wr (R.DAC.DPHASE d) (wd (th.1 * 2 ^ 32 / th.2))

def execDacSineUpdate (d : Fin 8) (at_ : Nat) (s : State) : Host.Outcome State Fault Refusal :=
  s.nextChip fun c =>
    if c.get (F.DAC.DCFG.SRC d) = 3 ∧ c.on (hEn R.DAC.ID) ∧ at_ % 5120 = 0 then (c.goto at_).sineUpdate d else c

/-- EN of the DAC page changes (Table 6.12). -/
def Dac.setEn (on : Bool) (c : Chip) : Chip :=
  let c1 := c.setb (hEn R.DAC.ID) on
  if on then c1 else upto 8 (fun c d => c.dacSet d 0) c1

/-- A write to a register of the DAC page (R215, R220). -/
def Dac.onWrite (w : Acc) (c : Chip) : Chip :=
  let d := (w.off - 0x40) / 16
  if 0x40 ≤ w.off ∧ w.off < 0xC0 ∧ w.off % 16 = 4 then
    (if c.get (F.DAC.DCFG.SRC d) = 1 then c.dacCode d (bits w.val 0 12) else c.reject w rState true)
  else if 0x40 ≤ w.off ∧ w.off < 0xC0 ∧ w.off % 16 = 8 then c.storeAt w.addr (clampField w.val 0 16 100 20000)
  else c.store w

def execDacCodeWrite (src : Source) (d : Fin 8) (v : Word) (s : State) : Host.Outcome State Fault Refusal :=
  let w : Acc := { src := src, addr := R.DAC.DCODE d, val := v }
  s.nextGated w (Dac.onWrite w)

end Sys2Proof.Machine
end

