-- ==== Sys2Proof/Machine/Glink.lean ====
section
/-! DEFINITION. Gate Link: link states, telemetry, the gate check, desaturation, host commands and the GLNK page
(R266–R277, R287). -/

namespace Sys2Proof.Machine

/-! ### Link states (R273, R274) -/

/-- A link takes a state, which LSTAT shows too. -/
def Chip.setLink (c : Chip) (l v : Nat) : Chip :=
  (c.set ⟨R.GLNK.LINK_STATE (l / 8), 4 * (l % 8), 4⟩ v).set (F.GLNK.LSTAT.STATE (l / 8) (l % 8)) v

/-- A link leaves READY, or stops: the device commands OFF, and its leg is resolved. -/
def Chip.linkOff (c : Chip) (l v : Nat) : Chip :=
  let c1 := ((c.setLink l v).clr (F.GLNK.LSTAT.CMD_ON (l / 8) (l % 8))).clr (F.GLNK.LSTAT.SOFT_LAST (l / 8) (l % 8))
  (c1.updLink l fun x => { x with step := 0, gate := none, gateLate := false, loopAt := none, loopFails := 0 }).resolveLeg (l / 2) false

/-- INIT starts (R273); while STO is applied the transmitter stays disabled (R275). -/
def Chip.linkStart (c : Chip) (l : Nat) : Chip :=
  if c.on F.SAFE.STO_STAT.CUT_A ∨ c.on F.SAFE.STO_STAT.CUT_B then c
  else (c.setLink l lkInit).updLink l fun x => { x with step := 1, since := c.st }

/-- LEN = 0, or EN = 0 of the page: an OFF mark leaves and the transmitter stops. -/
def Chip.linkStop (c : Chip) (l : Nat) : Chip :=
  if c.linkState l = lkOff then c
  else
    let c1 := (c.linkOff l lkOff).updLink l fun x => { x with cmd := none, cmdLate := none }
    c1.clr (F.GLNK.CMD_STAT.BUSY (l / 8) (l % 8))

/-- A failure puts a link in FAULT with LOOP_FAIL (R273, R274). -/
def Chip.linkFault (c : Chip) (l : Nat) : Chip := (c.raise (F.GLNK.STICKY.LOOP_FAIL (l / 8))).linkOff l lkFault

/-- A READY link is lost (R274). -/
def Chip.linkLost (c : Chip) (l : Nat) : Chip :=
  if c.linkState l ≠ lkReady then c
  else
    let i := l / 8
    let j := l % 8
    let c1 := ((c.raise (F.GLNK.STICKY.LINK_LOST i)).raise (bitOf (R.GLNK.LOST_MAP i) j)).inc (F.GLNK.EVT_CNT.LOST i j)
    (c1.linkOff l lkLost).report 23 (l / 2)

/-- A frame with a good CRC arrives on a link whose transmitter runs: the link has been heard. -/
def Chip.frameIn (c : Chip) (l at_ : Nat) (f : Chip → Chip) : Chip :=
  if c.linkState l = lkOff then c else f ((c.goto at_).updLink l fun x => { x with lastFrame := at_ })

def execGlInitTimeout (l : Fin 48) (at_ : Nat) (s : State) : Host.Outcome State Fault Refusal :=
  s.nextChip fun c => if c.linkState l = lkInit then (c.goto at_).linkFault l else c

def execGlReverseSilence (l : Fin 48) (at_ : Nat) (s : State) : Host.Outcome State Fault Refusal :=
  s.nextChip fun c => if c.linkState l = lkReady then (c.goto at_).linkLost l else c

def execGlTeleTimeout (l : Fin 48) (s : State) : Host.Outcome State Fault Refusal :=
  s.nextChip fun c =>
    if c.linkState l = lkReady then
      (c.goto ((c.link l).lastFrame + c.get (F.GLNK.TMO.TELE_TMO (l / 8) (l % 8)) * Config.us)).linkLost l
    else c

/-! ### INIT after the LOOP echo (R273) -/

/-- Content of the WRITE of driver register `r`, 1 to 6. -/
def Chip.initData (c : Chip) (l r : Nat) : Nat :=
  let i := l / 8
  let j := l % 8
  match r with
  | 1 => c.get (F.GLNK.DRV_CFG.ISRC i j)
  | 2 => c.get (F.GLNK.DRV_CFG.ISINK i j)
  | 3 => c.get (F.GLNK.DRV_CFG.ISINK_SOFT i j)
  | 4 => c.get (F.GLNK.DRV_CFG.DESAT_TH i j)
  | 5 => c.get (F.GLNK.DRV_CFG.DESAT_BLANK i j)
  | _ => c.get (F.GLNK.TMO.TELE_PER i j)

/-- The next step of INIT. -/
def Chip.initNext (c : Chip) (l : Nat) : Chip := c.updLink l fun x => { x with step := x.step + 1, since := c.st }

/-- The link is READY; a driver that hears it takes commands from here. -/
def Chip.linkReady (c : Chip) (l : Nat) : Chip :=
  ((c.setLink l lkReady).updLink l fun x =>
    { x with step := 0, since := c.st, lastMark := c.st, lastFrame := c.st, loopAt := none, loopFails := 0 }).resolveLeg (l / 2) false

/-! ### Host commands (R277) -/

/-- The reply to a host command completes it. -/
def Chip.cmdReply (c : Chip) (l type reg data : Nat) : Chip :=
  let i := l / 8
  let j := l % 8
  let c1 := (c.updLink l fun x => { x with cmd := none }).wr (R.GLNK.RX_DATA i j) (wd (data + reg * 2 ^ 16 + type * 2 ^ 24))
  ((c1.clr (F.GLNK.CMD_STAT.BUSY i j)).raise (F.GLNK.CMD_STAT.DONE i j)).raise (F.GLNK.STICKY.CMD_DONE i)

/-- A frame that may answer a host command: a reply in time completes it, a late one is counted (R277, R47). -/
def Chip.answers (c : Chip) (l type reg data : Nat) (fits : Nat × Nat × Nat → Bool) : Chip :=
  let x := c.link l
  match x.cmd with
  | some (ty, r, d, _) => if fits (ty, r, d) then c.cmdReply l type reg data else c
  | none => c

/-- A frame discarded as late (R47): class 0Bh, instance and link. -/
def Chip.lateFrame (c : Chip) (l : Nat) : Chip := c.late 0x0B (l / 8) (l % 8)

/-- A frame that would have answered a command whose limit has won is discarded and counted; any other goes its way (R277). -/
def Chip.lateOr (c : Chip) (l : Nat) (fits : Nat × Nat × Nat → Bool) (f : Chip → Chip) : Chip :=
  match (c.link l).cmdLate with
  | some q => if fits q then (c.lateFrame l).updLink l fun x => { x with cmdLate := none } else f c
  | none => f c

/-- Codes of the forward frame types (Table 8.2). -/
abbrev tyWrite : Nat := 1
abbrev tyRead : Nat := 2
abbrev tyClear : Nat := 3
abbrev tyPoll : Nat := 4
abbrev tyLoop : Nat := 7

/-- A write to CMD_TX: the frame starts in the next gap (R268, R277). -/
def Chip.cmdTx (c : Chip) (w : Acc) (l : Nat) : Chip :=
  let i := l / 8
  let j := l % 8
  let ty := bits w.val 24 4
  let stat := R.GLNK.CMD_STAT i j
  if c.on (F.GLNK.CMD_STAT.BUSY i j) then c.reject w rState false
  else if ty = tyWrite ∧ c.linkState l = lkReady then c.wr stat (wd (8 + rState * 2 ^ 8))
  else if ¬(ty = tyWrite ∨ ty = tyRead ∨ ty = tyClear ∨ ty = tyPoll ∨ ty = tyLoop) then c.wr stat (wd (8 + rParam * 2 ^ 8))
  else (c.wr stat 1).updLink l fun x => { x with cmd := some (ty, bits w.val 16 8, bits w.val 0 16, c.frameGap l c.st), cmdLate := none }

/-- The 2 µs reply limit of a host command wins (R277): counted from the end of its frame. -/
def Chip.cmdTimeout (c : Chip) (l : Nat) : Chip :=
  match (c.link l).cmd with
  | none => c
  | some (ty, r, d, t0) =>
    let c1 := c.goto (t0 + Config.ns 740 + 2 * Config.us)
    (c1.updLink l fun x => { x with cmd := none, cmdLate := some (ty, r, d) }).wr (R.GLNK.CMD_STAT (l / 8) (l % 8)) 4

def execGlCmdTimeout (l : Fin 48) (s : State) : Host.Outcome State Fault Refusal := s.nextChip fun c => c.cmdTimeout l

/-! ### Frames from the driver (R269–R273, R276) -/

/-- An ACK. -/
def Chip.rxAck (c : Chip) (l reg data : Nat) : Chip :=
  let x := c.link l
  if c.linkState l = lkInit then
    if x.step < 4 then c
    else if reg = x.step - 3 ∧ data = c.initData l (x.step - 3) then (if x.step = 9 then c.linkReady l else c.initNext l)
    else c.linkFault l
  else
    let fits (q : Nat × Nat × Nat) : Bool := (q.1 == tyWrite || q.1 == tyClear) && q.2.1 == reg && q.2.2 == data
    c.lateOr l fits fun c =>
      let cleared := match x.cmd with | some (ty, r, d, _) => ty == tyClear && r == reg && d == data | none => false
      let c1 := if cleared then c.clr (F.GLNK.LSTAT.DRV_FAULT (l / 8) (l % 8)) else c
      c1.answers l 5 reg data fits

/-- An RDATA. -/
def Chip.rxRdata (c : Chip) (l reg data : Nat) : Chip :=
  let x := c.link l
  if c.linkState l = lkInit then
    if x.step ≠ 3 then c else if reg = 0 ∧ data ≠ 0 then c.initNext l else c.linkFault l
  else
    let fits (q : Nat × Nat × Nat) : Bool := q.1 == tyRead && q.2.1 == reg
    c.lateOr l fits fun c =>
      let c1 := if reg = 7 then c.setb (F.GLNK.LSTAT.DRV_FAULT (l / 8) (l % 8)) (data % 2 == 1) else c
      c1.answers l 6 reg data fits

/-- The echo of an idle LOOP fails, which is a failed loopback of Table 5.2: the second in a row puts the link in FAULT (R173,
R274). -/
def Chip.loopFail (c : Chip) (l : Nat) : Chip :=
  let c1 := (c.updLink l fun x => { x with loopAt := none, loopFails := x.loopFails + 1 }).analogSeen 3 l
  if 2 ≤ (c1.link l).loopFails then c1.linkFault l else c1

/-- A LOOP echo: of INIT, of an idle LOOP, or of a host command. -/
def Chip.rxLoop (c : Chip) (l data rtt : Nat) : Chip :=
  let x := c.link l
  let timed := c.wr (R.GLNK.LOOP_RTT (l / 8) (l % 8)) (wd rtt)
  if c.linkState l = lkInit then
    if x.step ≠ 1 then c
    else if data = 0x5AC3 then timed.updLink l fun x => { x with step := 3, since := c.st }
    else c.linkFault l
  else if x.loopAt.isSome then
    if data = 0x5AC3 then timed.updLink l fun x => { x with loopAt := none, loopFails := 0 } else c.loopFail l
  else
    c.lateOr l (fun q => q.1 == tyLoop && q.2.2 == data) fun c =>
      match x.cmd with
      | some (ty, r, d, _) => if ty = tyLoop ∧ d = data then timed.cmdReply l 7 r data else c
      | none => c

/-- A telemetry frame does what its content does, and may answer a POLL for its TYPE; the first after the limit of such a POLL
is its late reply (R277). -/
def Chip.telemetry (c : Chip) (l type reg data : Nat) (f : Chip → Chip) : Chip :=
  let fits (q : Nat × Nat × Nat) : Bool := q.1 == tyPoll && q.2.1 == type
  c.lateOr l fits fun c => (f c).answers l type reg data fits

/-- A failed gate check (R272): its line is driven until GATE_FAULT is cleared. -/
def Chip.gateFault (c : Chip) (l : Nat) : Chip :=
  let i := l / 8
  let c1 := if c.on (F.GLNK.STICKY.GATE_FAULT i) then c
    else upto 8 (fun c j => c.updLink (8 * i + j) fun x => { x with gateFault := false }) c
  let c2 := ((c1.updLink l fun x => { x with gateFault := true }).raise (F.GLNK.STICKY.GATE_FAULT i)).inc
    (F.GLNK.EVT_CNT.GATE_FAULT i (l % 8))
  (c2.raise (F.PG.STICKY.GATE_FAULT (l / 2))).report 23 (l / 2)

/-- A GATE frame (R271, R272). -/
def Chip.rxGate (c : Chip) (l reg data : Nat) : Chip :=
  let i := l / 8
  let j := l % 8
  let x := c.link l
  if x.gateLate then (c.lateFrame l).updLink l fun x => { x with gateLate := false }
  else
    let seen (c : Chip) : Chip := (c.set ⟨R.GLNK.VGS i j, 0, 16⟩ data).bump (F.GLNK.VGS.TAG i j)
    match x.gate with
    | none => c.telemetry l 1 reg data seen
    | some (on, _) =>
      let c1 := seen c
      let v := signed 16 data
      let ok := if on then decide (c.geti (F.GLNK.VGS_LIM.VGS_ON_MIN i j) ≤ v)
        else decide (v ≤ c.geti (F.GLNK.VGS_LIM.VGS_OFF_MAX i j))
      let c2 := (c1.updLink l fun x => { x with gate := none }).setb (F.GLNK.VGS.CHECK_OK i j) ok
      if ok then c2 else c2.gateFault l

/-- No GATE frame within 2 µs of an executed mark: the check is skipped (R272). -/
def Chip.gateTimeout (c : Chip) (l : Nat) : Chip :=
  match (c.link l).gate with
  | none => c
  | some (_, t) => (c.goto t).updLink l fun x => { x with gate := none, gateLate := true }

def execGlRxGate (l : Fin 48) (reg : BitVec 8) (data : BitVec 16) (at_ : Nat) (s : State) : Host.Outcome State Fault Refusal :=
  s.nextChip fun c => c.frameIn l at_ fun c => c.rxGate l reg.toNat data.toNat

def execGlGateCheckTimeout (l : Fin 48) (s : State) : Host.Outcome State Fault Refusal := s.nextChip fun c => c.gateTimeout l

def execGlRxTemp (l : Fin 48) (reg : BitVec 8) (data : BitVec 16) (at_ : Nat) (s : State) : Host.Outcome State Fault Refusal :=
  s.nextChip fun c => c.frameIn l at_ fun c => c.telemetry l 2 reg.toNat data.toNat fun c =>
    c.wr (R.GLNK.DTEMP (l / 8) (l % 8)) (data.setWidth 32)

def execGlRxSupply (l : Fin 48) (reg : BitVec 8) (data : BitVec 16) (at_ : Nat) (s : State) : Host.Outcome State Fault Refusal :=
  s.nextChip fun c => c.frameIn l at_ fun c => c.telemetry l 3 reg.toNat data.toNat fun c =>
    c.wr (R.GLNK.DSUPPLY (l / 8) (l % 8)) (wd (data.toNat + reg.toNat * 2 ^ 16))

def execGlRxDesatInfo (l : Fin 48) (reg : BitVec 8) (data : BitVec 16) (at_ : Nat) (s : State) : Host.Outcome State Fault Refusal :=
  s.nextChip fun c => c.frameIn l at_ fun c => c.telemetry l 4 reg.toNat data.toNat fun c =>
    c.wr (R.GLNK.DESAT_INFO (l / 8) (l % 8)) (wd (data.toNat + reg.toNat * 2 ^ 16))

def execGlRxAck (l : Fin 48) (reg : BitVec 8) (data : BitVec 16) (at_ : Nat) (s : State) : Host.Outcome State Fault Refusal :=
  s.nextChip fun c => c.frameIn l at_ fun c => c.rxAck l reg.toNat data.toNat

def execGlRxRdata (l : Fin 48) (reg : BitVec 8) (data : BitVec 16) (at_ : Nat) (s : State) : Host.Outcome State Fault Refusal :=
  s.nextChip fun c => c.frameIn l at_ fun c => c.rxRdata l reg.toNat data.toNat

def execGlRxLoop (l : Fin 48) (data rtt : BitVec 16) (at_ : Nat) (s : State) : Host.Outcome State Fault Refusal :=
  s.nextChip fun c => c.frameIn l at_ fun c => c.rxLoop l data.toNat rtt.toNat

/-- A FAULT frame: the driver's STATUS comes with it (R276). -/
def execGlRxFault (l : Fin 48) (reg : BitVec 8) (data : BitVec 16) (at_ : Nat) (s : State) : Host.Outcome State Fault Refusal :=
  s.nextChip fun c => c.frameIn l at_ fun c => c.telemetry l 8 reg.toNat data.toNat fun c =>
    (c.raise (F.GLNK.STICKY.DRV_FAULT (l / 8))).setb (F.GLNK.LSTAT.DRV_FAULT (l / 8) (l % 8)) (data.getLsbD 0)

/-- A frame with a CRC failure or a reserved TYPE (R269). -/
def execGlRxBadFrame (l : Fin 48) (at_ : Nat) (s : State) : Host.Outcome State Fault Refusal :=
  s.nextChip fun c =>
    if c.linkState l = lkOff then c
    else ((c.goto at_).raise (F.GLNK.STICKY.CRC_ERR (l / 8))).inc (F.GLNK.ERR_CNT.CRC (l / 8) (l % 8))

/-- An idle READY link sends a LOOP: 1 ms after the last mark, then every 10 ms (R274). -/
def Chip.idleLoop (c : Chip) (l at_ : Nat) : Chip :=
  let x := c.link l
  if c.linkState l ≠ lkReady ∨ at_ < x.lastMark + Config.ms ∨ x.loopAt.isSome
      ∨ (x.lastMark + Config.ms ≤ x.since ∧ at_ < x.since + 10 * Config.ms) then c
  else (c.goto at_).updLink l fun x => { x with loopAt := some (c.frameGap l at_), since := at_ }

def execGlIdleLoop (l : Fin 48) (at_ : Nat) (s : State) : Host.Outcome State Fault Refusal := s.nextChip fun c => c.idleLoop l at_

/-- No echo within 2 µs of the end of an idle LOOP. -/
def execGlLoopEchoTimeout (l : Fin 48) (s : State) : Host.Outcome State Fault Refusal :=
  s.nextChip fun c => match (c.link l).loopAt with
    | none => c
    | some t => (c.goto (t + Config.ns 740 + 2 * Config.us)).loopFail l

/-- The desaturation pattern is recognised: a short-circuit event 40 ns earlier (R262, R264, R276). -/
def execGlDesatRecognise (l : Fin 48) (at_ : Nat) (s : State) : Host.Outcome State Fault Refusal :=
  s.nextChip fun c =>
    if c.linkState l = lkOff then c
    else
      let i := l.val / 8
      let j := l.val % 8
      let c1 := (((c.goto at_).raise (F.GLNK.STICKY.DESAT i)).raise (bitOf (R.GLNK.DESAT_MAP i) j)).inc (F.GLNK.EVT_CNT.DESAT i j)
      (c1.scEvent (l.val / 2) (at_ - 1024) (some (l.val % 2 == 0))).report 23 (l.val / 2)

/-! ### The GLNK page (R273, R277, R287) -/

/-- A write to LCFG: a change of LEN starts INIT or stops the link. -/
def Chip.lcfg (c : Chip) (w : Acc) (l : Nat) : Chip :=
  let i := l / 8
  let old := c.on (F.GLNK.LCFG.LEN i (l % 8))
  let c1 := c.store w
  let new := c1.on (F.GLNK.LCFG.LEN i (l % 8))
  if new && !old then (if c.on (F.GLNK.CTRL.EN i) then c1.linkStart l else c1)
  else if old && !new then c1.linkStop l
  else c1

/-- EN of a GLNK page changes: 0 stops every link as for LEN = 0, 1 starts those with LEN = 1. -/
def Glnk.setEn (w : Acc) (on : Bool) (c : Chip) : Chip :=
  let i := w.inst
  if c.on (F.GLNK.CTRL.EN i) = on then c
  else if on then
    c.unlessStarting w fun c =>
      upto 8 (fun c j => if c.on (F.GLNK.LCFG.LEN i j) then c.linkStart (8 * i + j) else c) (c.raise (F.GLNK.CTRL.EN i))
  else upto 8 (fun c j => c.linkStop (8 * i + j)) (c.clr (F.GLNK.CTRL.EN i))

/-- A write to a register of a GLNK page. -/
def Glnk.onWrite (w : Acc) (c : Chip) : Chip :=
  let i := w.inst
  if w.off = 0x4C then
    upto 8 (fun c j => if w.val.getLsbD j then (c.wr (R.GLNK.ERR_CNT i j) 0).wr (R.GLNK.EVT_CNT i j) 0 else c) c
  else if w.off < 0x100 ∨ 0x300 ≤ w.off then c.store w
  else
    let j := (w.off - 0x100) / 0x40
    let r := (w.off - 0x100) % 0x40
    let fixed := c.on (F.GLNK.LCFG.LEN i j)
    if r = 0 then c.lcfg w (8 * i + j)
    else if r = 0x24 then c.cmdTx w (8 * i + j)
    else if (r = 4 ∨ r = 8 ∨ r = 0xC) ∧ fixed then c.reject w rState true
    else if r = 8 then c.storeAt w.addr (clampField w.val 0 16 1280 5120)
    else if r = 0xC ∧ (bits w.val 0 16 = 0 ∨ 10000 < bits w.val 0 16 ∨ bits w.val 16 10 = 0 ∨ 1000 < bits w.val 16 10) then
      c.reject w rParam true
    else c.store w

def execGlLinkEnable (src : Source) (l : Fin 48) (s : State) : Host.Outcome State Fault Refusal :=
  let a := R.GLNK.LCFG (l / 8) (l % 8)
  let w : Acc := { src := src, addr := a, val := s.chip.rd a ||| 1#32 }
  s.nextGated w (Glnk.onWrite w)

def execGlLinkDisable (src : Source) (l : Fin 48) (s : State) : Host.Outcome State Fault Refusal :=
  let a := R.GLNK.LCFG (l / 8) (l % 8)
  let w : Acc := { src := src, addr := a, val := s.chip.rd a &&& ~~~1#32 }
  s.nextGated w (Glnk.onWrite w)

/-- A write of a frame to CMD_TX. -/
def cmdAcc (src : Source) (l type : Nat) (reg : BitVec 8) (data : BitVec 16) : Acc :=
  { src := src, addr := R.GLNK.CMD_TX (l / 8) (l % 8), val := wd (data.toNat + reg.toNat * 2 ^ 16 + type * 2 ^ 24) }

def execGlCmdWrite (src : Source) (l : Fin 48) (reg : BitVec 8) (data : BitVec 16) (s : State) :
    Host.Outcome State Fault Refusal :=
  let w := cmdAcc src l tyWrite reg data
  s.nextGated w (Glnk.onWrite w)

def execGlCmdRead (src : Source) (l : Fin 48) (reg : BitVec 8) (data : BitVec 16) (s : State) :
    Host.Outcome State Fault Refusal :=
  let w := cmdAcc src l tyRead reg data
  s.nextGated w (Glnk.onWrite w)

def execGlCmdClearFault (src : Source) (l : Fin 48) (reg : BitVec 8) (data : BitVec 16) (s : State) :
    Host.Outcome State Fault Refusal :=
  let w := cmdAcc src l tyClear reg data
  s.nextGated w (Glnk.onWrite w)

def execGlCmdPoll (src : Source) (l : Fin 48) (reg : BitVec 8) (data : BitVec 16) (s : State) :
    Host.Outcome State Fault Refusal :=
  let w := cmdAcc src l tyPoll reg data
  s.nextGated w (Glnk.onWrite w)

def execGlCmdLoop (src : Source) (l : Fin 48) (reg : BitVec 8) (data : BitVec 16) (s : State) :
    Host.Outcome State Fault Refusal :=
  let w := cmdAcc src l tyLoop reg data
  s.nextGated w (Glnk.onWrite w)

end Sys2Proof.Machine
end

