-- ==== Sys2Proof/Machine/LvDrv.lean ====
section
/-! DEFINITION. The LV leg drivers: under-voltage lock-outs, gate sensing, gate charge and the LVDRV page (R279–R285, R288). -/

namespace Sys2Proof.Machine

/-- Falling and rising thresholds of a driver's lock-outs, mV (Table 8.8). -/
def Chip.uvLimits (c : Chip) (n : Nat) : Nat × Nat :=
  match c.get (F.LVDRV.DCFG.UVTH n) with
  | 0 => (4000, 4500)
  | 1 => (7000, 7500)
  | _ => (9500, 10000)

/-- The leg of an LV driver. -/
abbrev lvLeg (n : Nat) : Nat := 24 + n

/-- A bootstrap under-voltage holds the high side off (R281, R282). -/
def Chip.bstHold (c : Chip) (n : Nat) : Chip :=
  (((c.bstDown n).raise (F.PG.STICKY.UV_HOLD (lvLeg n))).updPg (lvLeg n) fun x => { x with uvBst := 1 }).resolveLeg (lvLeg n) false

/-- A gate supply under-voltage holds both outputs of a leg off (R282). -/
def Chip.vgHold (c : Chip) (n : Nat) : Chip :=
  let c1 := if c.on (F.LVDRV.DSTAT.VG_UV n) then c
    else ((c.raise (F.LVDRV.DSTAT.VG_UV n)).raise (F.LVDRV.STICKY.VG_UV n)).inc (F.LVDRV.UV_CNT.VG n)
  ((c1.raise (F.PG.STICKY.UV_HOLD (lvLeg n))).updPg (lvLeg n) fun x => { x with uvVg := 1 }).resolveLeg (lvLeg n) false

/-- A bootstrap measured at `mv` is below its falling threshold. -/
def execLvBootstrapUv (n : Fin 16) (mv : BitVec 16) (s : State) : Host.Outcome State Fault Refusal :=
  s.nextChip fun c =>
    let c1 := c.set (F.LVDRV.SUPPLY.VBST n) mv.toNat
    if mv.toNat < (c.uvLimits n).1 then c1.bstHold n else c1

/-- VGk is measured at `mv`: each of its four drivers compares it with its own threshold. -/
def execLvVgUv (k : Fin 4) (mv : BitVec 16) (s : State) : Host.Outcome State Fault Refusal :=
  s.nextChip fun c =>
    upto 4 (fun c i =>
      let n := 4 * k.val + i
      let c1 := c.set (F.LVDRV.SUPPLY.VG n) mv.toNat
      if mv.toNat < (c.uvLimits n).1 then c1.vgHold n else c1) c

/-- A held output waits for its leg's next period point; on a disabled leg the hold ends. -/
def Chip.uvAfter (c : Chip) (n x : Nat) : Nat := if x = 0 then 0 else if c.legOn (lvLeg n) then 2 else 0

/-- The bootstrap of a driver has passed its rising threshold (R282). -/
def Chip.bstRecover (c : Chip) (n mv : Nat) : Chip :=
  let c1 := c.set (F.LVDRV.SUPPLY.VBST n) mv
  if mv < (c.uvLimits n).2 then c1
  else ((c1.clr (F.LVDRV.DSTAT.BST_UV n)).updPg (lvLeg n) fun x => { x with uvBst := c.uvAfter n x.uvBst }).resolveLeg (lvLeg n) false

/-- The gate supply of a driver has passed its rising threshold (R282). -/
def Chip.vgRecover (c : Chip) (n mv : Nat) : Chip :=
  let c1 := c.set (F.LVDRV.SUPPLY.VG n) mv
  if mv < (c.uvLimits n).2 then c1
  else ((c1.clr (F.LVDRV.DSTAT.VG_UV n)).updPg (lvLeg n) fun x => { x with uvVg := c.uvAfter n x.uvVg }).resolveLeg (lvLeg n) false

def execLvUvRecover (n : Fin 16) (vg : Bool) (mv : BitVec 16) (s : State) : Host.Outcome State Fault Refusal :=
  s.nextChip fun c =>
    if vg then upto 4 (fun c i => c.vgRecover (4 * (n.val / 4) + i) mv.toNat) c else c.bstRecover n mv.toNat

/-- The command of an output at its driver: low while the driver is disabled (R279, Table 8.14). -/
def Chip.gateCommand (c : Chip) (n : Nat) (high : Bool) : Bool :=
  c.on (F.LVDRV.CTRL.EN n) && c.on (if high then F.PG.STATUS.HS (lvLeg n) else F.PG.STATUS.LS (lvLeg n))

/-- The gate of an output is sensed GSENSE_T after a switching; this is the sensing of Table 5.2 (R173, R283). -/
def execLvGateSense (n : Fin 16) (high on : Bool) (s : State) : Host.Outcome State Fault Refusal :=
  s.nextChip fun c =>
    if !c.on (F.LVDRV.GSENSE.GCHK_EN n) then c
    else
      let c1 := c.setb (if high then F.LVDRV.DSTAT.HG_SENSED n else F.LVDRV.DSTAT.LG_SENSED n) on
      if on = c.gateCommand n high then c1
      else (((c1.raise (F.LVDRV.STICKY.GATE_FAULT n)).raise (F.PG.STICKY.GATE_FAULT (lvLeg n))).inc (F.LVDRV.FLT_CNT.GATE_FAULT n)).analogSeen 2 n

/-- The gate-charge measurement of a turn-on that was due for one (R284). -/
def execLvQgMeasure (n : Fin 16) (high : Bool) (qg : BitVec 16) (s : State) : Host.Outcome State Fault Refusal :=
  s.nextChip fun c =>
    let side := 2 * n.val + (!high).toNat
    let x := Tab.at c.charges (0, false) side
    if !c.on (F.LVDRV.DCFG.QG_EN n) || !x.2 then c
    else
      let c1 := { c with charges := Tab.set c.charges (0, false) side (x.1, false) }.set (if high then F.LVDRV.QG.QG_HS n else F.LVDRV.QG.QG_LS n) qg.toNat
      if qg.toNat < c.get (F.LVDRV.QG_LIM.QG_MIN n) ∨ c.get (F.LVDRV.QG_LIM.QG_MAX n) < qg.toNat then
        (c1.raise (F.LVDRV.STICKY.QG_RANGE n)).inc (F.LVDRV.FLT_CNT.QG_RANGE n)
      else c1

/-- EN of an LV driver is written. -/
def Lvdrv.setEn (w : Acc) (on : Bool) (c : Chip) : Chip :=
  if c.on (F.LVDRV.CTRL.EN w.inst) = on then c
  else if on then c.unlessStarting w fun c => c.raise (F.LVDRV.CTRL.EN w.inst)
  else c.clr (F.LVDRV.CTRL.EN w.inst)

/-- A write to a register of an LVDRV page. -/
def Lvdrv.onWrite (w : Acc) (c : Chip) : Chip :=
  let n := w.inst
  if w.off = 0x40 then
    if c.on (F.LVDRV.CTRL.EN n) then c.reject w rState true
    else if bits w.val 20 2 = 3 then c.reject w rParam true
    else c.store w
  else if w.off = 0x58 ∧ bits w.val 0 8 < 5 then c.reject w rParam true
  else if w.off = 0x64 then
    let c1 := if w.val.getLsbD 0 then c.wr (R.LVDRV.UV_CNT n) 0 else c
    if w.val.getLsbD 1 then c1.wr (R.LVDRV.FLT_CNT n) 0 else c1
  else c.store w

end Sys2Proof.Machine
end

