-- ==== Sys2Proof/Machine/Drive.lean ====
section
/-! DEFINITION. The motor library: MC_FOC drives, MC_SUP and MC_ACT actuators (R290–R320). A command of a drive is the
iteration that acts on it; what an iteration measures comes with it. -/

namespace Sys2Proof.Machine

def Chip.drive_ (c : Chip) (l : Nat) : DriveSt := Tab.at c.drives {} l
def Chip.updDrive (c : Chip) (l : Nat) (f : DriveSt → DriveSt) : Chip := { c with drives := Tab.upd c.drives {} l f }

/-- Magnitude of a signed word. -/
def mag (v : Word) : Nat := v.toInt.natAbs

/-- DSTATE codes (Table 9.6). -/
abbrev dsStopped : Nat := 0
abbrev dsSense : Nat := 1
abbrev dsCatch : Nat := 2
abbrev dsAlign : Nat := 3
abbrev dsLow : Nat := 4
abbrev dsRun : Nat := 5
abbrev dsReacq : Nat := 6
abbrev dsAsc : Nat := 7
abbrev dsBrake : Nat := 8
abbrev dsIdent : Nat := 9
abbrev dsFault : Nat := 10
abbrev dsCfgErr : Nat := 11

/-! ### Outputs of a library loop -/

/-- A byte of word 38 or 39 of the parameter block names a mailbox word. -/
def Chip.parByte (c : Chip) (l w b : Nat) : Nat := bits (c.seg l w) (8 * b) 8

/-- The loop writes a mailbox word. -/
def Chip.libMbx (c : Chip) (l w : Nat) (v : Word) : Chip := c.issue l (0x1000 + w) false v

/-- The loop stores a word of its shared-SRAM window. -/
def Chip.libShm (c : Chip) (l w : Nat) (v : Word) : Chip :=
  if w < (c.loop l).shmLen then c.issue l ((c.loop l).shmBase + w) true v else c

/-- The off gate is asserted or released (R296). -/
def Chip.gate_ (c : Chip) (l : Nat) (on : Bool) : Chip :=
  c.issue l (0xA10 + bits (c.seg l 36) 0 3) false (if on then 0xFFF else 0)

/-- DUTY ports of the drive's legs, from its port list. -/
def Chip.dutyPorts (c : Chip) (l : Nat) : List Nat :=
  ((c.loop l).ports.filter fun p => p.2.2 && 0x800 ≤ p.1 && p.1 < 0x8A0 && p.1 % 4 == 0).map fun p => p.1

/-- Every DUTY of the drive is written 0: the low bank conducts. -/
def Chip.zeroDuty (c : Chip) (l : Nat) : Chip := (c.dutyPorts l).foldl (fun (c : Chip) p => c.issue l p false 0) c

/-- A word of the loop's data segment is written. -/
def Chip.setSeg (c : Chip) (l i : Nat) (v : Word) : Chip :=
  (c.updPair (c.get (fPair l)) fun x => x.store (c.dbase l + i) v).updLoop l fun x => x.dirty [i]

/-- A record of the motor library (R320), with the layer, REASON or direction of Table 9.11. -/
def Chip.driveRec (c : Chip) (l code extra : Nat) : Chip :=
  let x := c.drive_ l
  c.record 3 code (Config.drivePayload l x.dstate extra).toNat x.speed.toNat

/-- Layers that supply the rotor angle of a start: the back-EMF, the sensor, the low-speed injection (R299). -/
abbrev byEmf : Nat := 0
abbrev bySensor : Nat := 1
abbrev byInjection : Nat := 2

/-! ### The parameter block (R294, Table 9.5) -/

/-- Induction machine, sensor, PFU. -/
def Chip.induction (c : Chip) (l : Nat) : Bool := bits (c.seg l 0) 0 2 == 2
def Chip.sensored (c : Chip) (l : Nat) : Bool := bits (c.seg l 0) 2 1 == 1
def Chip.drivePfu (c : Chip) (l : Nat) : Nat := bits (c.seg l 0) 3 3

/-- Electrical speed: of an induction machine from the PFU (R304), else the drive's estimate. -/
def Chip.driveSpeed (c : Chip) (l : Nat) (v : Word) : Word := if c.induction l then c.pfuSpeed (c.drivePfu l) else v

/-- The checks of the parameter block. -/
def Chip.driveParOk (c : Chip) (l : Nat) : Bool :=
  let w (k : Nat) : Word := c.seg l k
  let p (k : Nat) : Int := (w k).toInt
  let pp := p 1
  bits (w 0) 0 2 != 3 && bits (w 0) 9 23 == 0 && c.drivePfu l < 6
    && decide (1 ≤ pp) && decide (pp ≤ 64)
    && (!c.sensored l || pp == (c.get (F.PFU.PFCFG.PP (c.drivePfu l)) : Int))
    && decide (0 < p 2) && decide (0 < p 3) && decide (0 < p 4) && (bits (w 0) 0 2 != 0 || p 3 == p 4)
    && (!c.induction l || (p 5 == 0 && c.sensored l)) && decide (0 < p 11)
    && mag (w 13) ≤ 196608000 && decide (0 < mag (w 14)) && decide (mag (w 14) < mag (w 16)) && decide (mag (w 17) < mag (w 16))
    && decide (mag (w 18) < mag (w 14))
    && decide (2 ^ 30 ≤ p 21) && decide (20 * p 21 ≤ 19 * 2 ^ 31) && decide (-(p 11) ≤ p 23) && decide (p 23 ≤ 0)
    && decide (mag (w 25) < mag (w 24)) && decide (mag (w 24) < 4 * mag (w 14))
    && decide (p 27 ≤ p 11) && decide (p 28 ≤ p 11) && decide (p 34 ≤ p 11) && mag (w 14) ≤ mag (w 35)
    && bits (w 30) 0 8 != 0 && bits (w 30) 8 8 != 0 && bits (w 39) 24 8 == 0
    && ((List.range 8).all fun k => w (40 + k) == 0)

/-- The first iteration after the loop enters CLOSED checks the parameter block: STOPPED, or CFG_ERR. -/
def Chip.driveInit (c : Chip) (l : Nat) : Chip :=
  if c.get (fState l) ≠ lsClosed ∨ (c.drive_ l).init then c
  else
    let ok := c.driveParOk l
    let c1 := (c.updDrive l fun x => { x with
      init := true, dstate := if ok then dsStopped else dsCfgErr, reason := if ok then x.reason else 1,
      flux := false, brakeFirst := false, runPend := false, ident := none, ramp := none, obs := 0, emf := 0, near := 0, idFw := 0, cut := 0,
      starting := false, goodAt := none, lowIq := none, noLoad := false, inject := 0, pulses := [], sensOfs := none }).gate_ l true
    if ok then c1 else c1.driveRec l 0x4D09 1

/-! ### States -/

def Chip.toState (c : Chip) (l s : Nat) : Chip := c.updDrive l fun x => { x with dstate := s }

/-- The drive enters a timed state at an instant. -/
def Chip.toStateAt (c : Chip) (l s at_ : Nat) : Chip := c.updDrive l fun x => { x with dstate := s, since := at_, near := 0 }

/-- A failure: the gate is asserted and the drive is in FAULT. -/
def Chip.driveFault (c : Chip) (l reason code : Nat) : Chip :=
  ((c.updDrive l fun x => { x with dstate := dsFault, reason := reason, ident := none, flux := false, runPend := false, starting := false }).gate_
    l true).driveRec l code reason

/-- The drive enters ASC: the low bank conducts, with the gate released (R309, R310); a drive already in ASC writes no record. -/
def Chip.driveAsc (c : Chip) (l : Nat) : Chip :=
  let c1 := ((c.zeroDuty l).gate_ l false).toState l dsAsc
  if (c.drive_ l).dstate = dsAsc then c1 else c1.driveRec l 0x4D04 0

/-- A start that is under way is complete: it counts once (R300, R303, Table 9.4). -/
def Chip.startDone (c : Chip) (l layer : Nat) : Chip :=
  if (c.drive_ l).starting then
    (c.updDrive l fun x => { x with starts := min (x.starts + 1) 0xFFFF, starting := false }).driveRec l 0x4D00 layer
  else c

/-- The rotor flux of an induction machine builds up at zero torque for 3 × LM ÷ RR (R304); the spec states no magnetising
current, so the d-axis reference is free (log 67). -/
def Chip.driveFlux (c : Chip) (l at_ : Nat) : Chip :=
  let d := c.draw
  (d.2.updDrive l fun x => { x with
    dstate := dsSense, flux := true, since := at_, idRef := (Config.freeWord d.1).toInt, iqRef := 0 }).gate_ l false

/-- Ticks of the flux build-up: nH ÷ µΩ is in ms. -/
def Chip.fluxTicks (c : Chip) (l : Nat) : Nat := 3 * (c.seg l 6).toNat * Config.ms / (c.seg l 7).toNat

/-- The trigger of the loop's present iteration. -/
def Chip.trigOf (c : Chip) (l : Nat) : Nat := ((c.loop l).lastTrig).getD c.st

/-! ### Commands (R292, R298) -/

/-- The command word that MC_SUP has handed over. -/
def Chip.driveWord (c : Chip) (l : Nat) : Word := Tab.at c.mailbox 0 (c.parByte l 38 0)

/-- A command whose SEQ differs from SEQ_ACK is acknowledged in the iteration that reads it; one that is not accepted sets
CMD_REJ. -/
def Chip.driveCmd (c : Chip) (l cmd : Nat) (f : Chip → Word → Option Chip) : Chip :=
  let c0 := c.driveInit l
  let m := c0.driveWord l
  if c0.get (fState l) ≠ lsClosed ∨ bits m 0 3 ≠ cmd ∨ bits m 8 8 = (c0.drive_ l).seqAck then c0
  else
    let c1 := c0.updDrive l fun x => { x with seqAck := bits m 8 8, cmdRej := false }
    match f c1 m with
    | some c2 => c2
    | none => c1.updDrive l fun x => { x with cmdRej := true }

/-- STOP (R298): ASC above F_UCG, else STOPPED with the gate asserted. -/
def Chip.driveStop (c : Chip) (l : Nat) (speed : Word) : Chip :=
  c.driveCmd l 0 fun c _ =>
    if (c.drive_ l).dstate = dsCfgErr then none
    else
      let v := c.driveSpeed l speed
      let c1 := c.updDrive l fun x => { x with speed := v, ident := none, runPend := false, flux := false, brakeFirst := false,
                                                starting := false, idDone := x.idDone && x.ident.isNone }
      some (if mag (c.seg l 16) < mag v then c1.driveAsc l else (c1.gate_ l true).toState l dsStopped)

def execDriveStop (loop : Fin 512) (speed : Word) (s : State) : Host.Outcome State Fault Refusal :=
  s.nextChip fun c => c.driveStop loop speed

def Chip.driveRun (c : Chip) (l : Nat) : Chip :=
  c.driveCmd l 1 fun c m =>
    let st := (c.drive_ l).dstate
    if st = dsStopped then
      some (c.updDrive l fun x => { x with dstate := dsSense, since := c.trigOf l, goodAt := some (c.trigOf l), starting := true,
                                           ident := none, flux := false, brakeFirst := m.getLsbD 3 })
    else if st = dsAsc then some (c.updDrive l fun x => { x with runPend := true, brakeFirst := m.getLsbD 3 })
    else none

def execDriveRun (loop : Fin 512) (s : State) : Host.Outcome State Fault Refusal := s.nextChip fun c => c.driveRun loop

/-- IDENT (R312): FLUX is refused for an induction machine. -/
def Chip.driveIdent (c : Chip) (l : Nat) : Chip :=
  c.driveCmd l 2 fun c m =>
    let mask := bits m 4 4
    if (c.drive_ l).dstate ≠ dsStopped ∨ (c.induction l ∧ 8 ≤ mask) then none
    else some ((c.updDrive l fun x => { x with dstate := dsSense, since := c.trigOf l, goodAt := some (c.trigOf l), starting := false,
                                               ident := some mask, idDone := false, flux := false }).setSeg l 70 0)

def execDriveIdent (loop : Fin 512) (s : State) : Host.Outcome State Fault Refusal := s.nextChip fun c => c.driveIdent loop

def Chip.driveClear (c : Chip) (l : Nat) : Chip :=
  c.driveCmd l 3 fun c _ => if (c.drive_ l).dstate = dsFault then some (c.toState l dsStopped) else none

def execDriveClear (loop : Fin 512) (s : State) : Host.Outcome State Fault Refusal := s.nextChip fun c => c.driveClear loop

/-- A reserved command is acknowledged and rejected (R292). -/
def Chip.driveReserved (c : Chip) (l : Nat) : Chip :=
  let m := c.driveWord l
  if 4 ≤ bits m 0 3 ∧ bits m 8 8 ≠ (c.drive_ l).seqAck then
    c.updDrive l fun x => { x with seqAck := bits m 8 8, cmdRej := true }
  else c

/-- The command that waits in the hand-over word takes effect in the iteration that reads it (R292, R298). -/
def Chip.driveAct (c : Chip) (l : Nat) (speed : Word) : Chip :=
  match bits (c.driveWord l) 0 3 with
  | 0 => c.driveStop l speed
  | 1 => c.driveRun l
  | 2 => c.driveIdent l
  | 3 => c.driveClear l
  | _ => c.driveReserved l

/-! ### Starting (R299–R305) -/

/-- Two electrical periods at a speed in the PFU format, in ticks. -/
def twoPeriods (v : Nat) : Nat := 131072 * Config.sec / v

/-- The catch condition of one iteration: amplitude and frequency of the back-EMF (R299 step 2). -/
def Chip.emfGood (c : Chip) (l : Nat) (amp : BitVec 31) (speed : Word) : Bool :=
  decide ((c.seg l 15).toNat ≤ amp.toNat) && decide (mag (c.seg l 14) ≤ mag speed)

/-- The catch (R300): observer and integrators are seeded, no ramp is left, the gate is released. -/
def Chip.driveCatch (c : Chip) (l : Nat) (amp : BitVec 31) (angle : Word) : Chip :=
  let c1 := (c.updDrive l fun x => { x with
    dstate := dsCatch, dir := x.speed.msb, obsAngle := angle + 0x40000000#32, obsSpeed := x.speed,
    vSeed := amp.toNat, vAngle := angle, ramp := none }).gate_ l false
  (c1.startDone l byEmf).driveRec l 0x4D02 (c1.drive_ l).dir.toNat

/-- The sensor of a drive: absolute (SSI, BiSS-C, resolver), or counting. -/
def Chip.absolute (c : Chip) (l : Nat) : Bool := c.sensored l && 1 < c.get (F.PFU.PFCFG.INTYPE (c.drivePfu l))

/-- The test pulses of ALIGN begin, with the gate released (R302). -/
def Chip.driveAlign (c : Chip) (l at_ : Nat) : Chip := (c.gate_ l false).toStateAt l dsAlign at_

/-- The motor is too slow to measure: ALIGN, the flux build-up, or RUN on an absolute sensor. -/
def Chip.driveSlow (c : Chip) (l : Nat) : Chip :=
  if c.induction l then c.driveFlux l c.st
  else if c.absolute l then ((c.gate_ l false).toState l dsRun).startDone l bySensor
  else c.driveAlign l c.st

/-- Two angles in turns × 2^32 are more than 30° apart (R301). -/
def anglesApart (a b : Word) : Bool := 2 ^ 32 < 12 * (a - b).toInt.natAbs

/-- The next step of an identification begins at an instant, or the identification ends (R312, R313). -/
def Chip.identNext (c : Chip) (l at_ : Nat) : Chip :=
  match (c.drive_ l).ident with
  | some 0 => ((c.updDrive l fun x => { x with ident := none, idDone := true, dstate := dsStopped }).gate_ l true).driveRec l 0x4D06 0
  | _ => c.updDrive l fun x => { x with since := at_ }

/-- The steps of an identification begin, with the gate released where there are any (Table 9.6, Table 9.8). -/
def Chip.identBegin (c : Chip) (l : Nat) : Chip :=
  ((if (c.drive_ l).ident = some 0 then c else c.gate_ l false).toState l dsIdent).identNext l c.st

/-- An identification has found the rotor still enough: every step but FLUX needs the rotor angle, of the sensor, or for a
sensorless machine of ALIGN (R312). -/
def Chip.identSlow (c : Chip) (l mask : Nat) : Chip :=
  if !c.sensored l && mask % 8 != 0 then c.driveAlign l c.st else c.identBegin l

/-- The window ends (R299 steps 2–4): `amp`, `speed` and `angle` are the amplitude, the frequency and the angle of the back-EMF. -/
def Chip.senseEnd (c : Chip) (l : Nat) (amp : BitVec 31) (speed angle : Word) (at_ : Nat) : Chip :=
  let x := c.drive_ l
  let caught := c.emfGood l amp speed && (match x.goodAt with
    | some g => decide (g + twoPeriods (mag speed) ≤ at_)
    | none => false)
  let due := x.since + max Config.ms (twoPeriods (if caught then mag speed else mag (c.seg l 14)))
  if !x.init || x.dstate != dsSense || x.flux || at_ < due then c
  else
    let c1 := (c.goto at_).updDrive l fun x => { x with speed := speed }
    match x.ident with
    | some mask => if mag (c.seg l 18) ≤ mag speed then c1.driveFault l 5 0x4D06 else c1.identSlow l mask
    | none =>
      if caught then
        if c.sensored l && anglesApart angle (c1.pfuAngle (c.drivePfu l)) then c1.driveFault l 3 0x4D01
        else if c.induction l then c1.driveFlux l c1.st
        else c1.driveCatch l amp angle
      else c1.driveSlow l

def execDriveSenseWindowEnd (loop : Fin 512) (amp : BitVec 31) (speed angle : Word) (at_ : Nat) (s : State) :
    Host.Outcome State Fault Refusal :=
  s.nextChip fun c => c.senseEnd loop amp speed angle at_

/-- Summed time of the two directions of axis k (R302 step 2). -/
def axisTime (ts : List Nat) (k : Nat) : Nat := ts.getD (k % 6) 0 + ts.getD (k % 6 + 6) 0

/-- The axis of six with the shortest summed time, the lowest of equals. -/
def shortAxis (ts : List Nat) : Nat :=
  (List.range 6).foldl (fun b k => if axisTime ts k < axisTime ts b then k else b) 0

/-- The rotor angle of ALIGN: the direction of the shortest axis, interpolated between its neighbours, towards magnet north (R302). -/
def alignAngle (ts : List Nat) (north south : Nat) : Word :=
  let k := shortAxis ts
  let axis : Word := BitVec.ofNat 32 (k * 2 ^ 32 / 12) + Config.alignBetween (axisTime ts (k + 5)) (axisTime ts k) (axisTime ts (k + 1))
  if north ≤ south then axis else axis + 0x80000000#32

/-- The 14 tests of ALIGN have taken 56 PWM periods (R302): the twelve times of step 1, of the directions from 0° to 150° and of
those opposite, and the two of step 3 along the found axis and against it. -/
def Chip.alignDone (c : Chip) (l : Nat) (fwd back : List Nat) (north south at_ : Nat) : Chip :=
  let x := c.drive_ l
  let ts := fwd ++ back
  if !x.init || x.dstate != dsAlign || fwd.length != 6 || back.length != 6 || at_ < x.since + 56 * Config.ns (c.period l) then c
  else
    let a := alignAngle ts north south
    let c1 := (c.goto at_).updDrive l fun x => { x with pulses := ts ++ [north, south] }
    let tmax := ts.foldl max 0
    let tmin := ts.foldl min tmax
    let hi := max north south
    if (tmax - tmin) * 100 < 5 * tmax ∨ (hi - min north south) * 100 < 2 * hi then
      c1.driveFault l 2 (if x.ident.isSome then 0x4D06 else 0x4D01)
    else
      let c2 := c1.updDrive l fun x => { x with obsAngle := a }
      if x.ident.isSome then c2.identBegin l
      else if c.sensored l then
        ((c2.updDrive l fun x => { x with dstate := dsRun, sensOfs := some (a - c1.pfuAngle (c.drivePfu l)) })).startDone l bySensor
      else c2.toState l dsLow

def execDriveAlignDone (loop : Fin 512) (fwd back : List (BitVec 32)) (north south : BitVec 32) (at_ : Nat) (s : State) :
    Host.Outcome State Fault Refusal :=
  s.nextChip fun c => c.alignDone loop (fwd.map fun t => t.toNat) (back.map fun t => t.toNat) north.toNat south.toNat at_

/-- Re-acquisition has not come by t_d + 5 ms (R309 step 6). -/
def Chip.reacqTimeout (c : Chip) (l : Nat) : Chip :=
  let x := c.drive_ l
  if !x.init || x.dstate != dsReacq then c else (c.goto (x.since + 5 * Config.ms)).driveFault l 4 0x4D05

def execReacqTimeout (loop : Fin 512) (s : State) : Host.Outcome State Fault Refusal := s.nextChip fun c => c.reacqTimeout loop

/-! ### Identification (R312, R313) -/

/-- 2π × 10^9, to the nearest integer (log 67). -/
abbrev twoPi9 : Nat := 6283185307

/-- Lowest bit of a mask of four. -/
def lowestBit (m : Nat) : Nat := if m % 2 = 1 then 0 else if m / 2 % 2 = 1 then 1 else if m / 4 % 2 = 1 then 2 else 3

/-- Longest time of a step, in ticks; of FLUX, that of its ramp (Table 9.8). -/
def Chip.identTime (c : Chip) (l b : Nat) : Nat :=
  match b with
  | 0 => 400 * Config.ms
  | 1 => 512 * Config.ns (c.period l)
  | 2 => 320 * Config.ms
  | _ => 10 * Config.sec

/-- A quotient rounded as R89 does; free where the divisor is 0. -/
def Chip.quotient (c : Chip) (n : Int) (d : Int) : Word × Chip :=
  if d = 0 then (Config.freeWord c.draw.1, c.draw.2)
  else (iw (rnd (if d < 0 then -n else n) d.natAbs), c)

/-- The results of a step (Table 9.8, Table 9.9), and its bit; none for another step's measurement. -/
def Chip.identResult (c : Chip) (b : Nat) (m : IdentMeas) : Option (List (Nat × Word) × Chip) :=
  match b, m with
  | 0, .rs v1 i1 v2 i2 => let q := c.quotient ((v2.toInt - v1.toInt) * 1000000) (i2.toInt - i1.toInt); some ([(64, q.1)], q.2)
  | 1, .ldq ld lq => some ([(65, ld), (66, lq)], c)
  | 2, .dt v i => some ([(68, v), (69, i)], c)
  | 3, .flux amp speed =>
    let q := c.quotient (amp.toNat * 65536 * 1000000000000 : Nat) (twoPi9 * mag speed : Nat); some ([(67, q.1)], q.2)
  | _, _ => none

/-- An identification step ends: its results go to the data segment, or the drive faults and ID_STAT names the step. FLUX
fails where F_FLUX has not been reached in time, at `ramp`, and ends with its window after it. -/
def Chip.identStep (c : Chip) (l : Nat) (ok : Bool) (meas : IdentMeas) (ramp at_ : Nat) : Chip :=
  let x := c.drive_ l
  match x.ident with
  | none => c
  | some m =>
    let b := lowestBit m
    match c.identResult b meas with
    | none => c
    | some (ws, cr) =>
      if !x.init || x.dstate != dsIdent || m == 0 then c
      else
        let limit := x.since + c.identTime l b
        let st := c.seg l 70
        let late := b == 3 && decide (limit < ramp)
        let done := if b = 3 then (if limit < ramp then limit else ramp + max Config.ms (twoPeriods (mag (c.seg l 35)))) else min at_ limit
        if !ok || late then ((c.goto done).setSeg l 70 (st ||| wd (2 ^ (4 + b)))).driveFault l 5 0x4D06
        else
          let c0 := cr.goto done
          let c1 := ws.foldl (fun (c : Chip) w => c.setSeg l w.1 w.2) c0
          let c2 := c1.setSeg l 70 (st ||| wd (2 ^ b))
          let c3 := if b = 3 then c2 else c2.setSeg l 71 (if c.sensored l then c0.pfuAngle (c.drivePfu l) else x.obsAngle)
          (c3.updDrive l fun x => { x with ident := some (m - 2 ^ b) }).identNext l c3.st

def execIdentStepDone (loop : Fin 512) (ok : Bool) (meas : IdentMeas) (ramp at_ : Nat) (s : State) : Host.Outcome State Fault Refusal :=
  s.nextChip fun c => c.identStep loop ok meas ramp at_

/-- A pump: a sensorless drive without injection (R319). -/
def Chip.pump (c : Chip) (l : Nat) : Bool := !c.sensored l && !(c.seg l 0).getLsbD 6

/-- Its torque current is below 2 % of IMAX at a speed of the observer. -/
def Chip.noLoad (c : Chip) (l : Nat) (it : FocIter) : Bool :=
  c.pump l && decide (50 * mag it.iq < (c.seg l 11).toNat) && decide (mag (c.seg l 24) ≤ mag it.speed)

/-- A pump has turned without load for 1 s: the record is written once (R319). -/
def execPumpNoLoad (loop : Fin 512) (s : State) : Host.Outcome State Fault Refusal :=
  s.nextChip fun c =>
    let x := c.drive_ loop
    if c.get (fState loop) = lsClosed ∧ c.pump loop = true ∧ x.noLoad = false ∧ (x.lowIq.any fun t => decide (t + Config.sec ≤ c.st)) = true then
      (c.updDrive loop fun x => { x with noLoad := true }).driveRec loop 0x4D08 0
    else c

/-! ### An iteration of MC_FOC (R293, R303–R310, R314) -/

/-- A loss of the rotor (R308, R309): the detecting iteration commits zero current references, or the low bank above F_UCG. -/
def Chip.driveLoss (c : Chip) (l : Nat) (sdec : Nat) : Chip :=
  let c1 := (c.updDrive l fun x => { x with
    lost := min (x.lost + 1) 0xFFFF, obs := 0, emf := 0, near := 0, since := c.trigOf l, idRef := 0, iqRef := 0 }).driveRec l 0x4D03 0
  if sdec ≤ mag (c.seg l 16) then c1.toState l dsReacq else c1.driveAsc l

/-- 2π × PSI × f of the magnet, in units of 2^-16 × 10^-9 µV. -/
def Chip.emfExpected (c : Chip) (l : Nat) (v : Nat) : Nat := mag (c.seg l 5) * twoPi9 * v

/-- The back-EMF differs from PSI × ω by more than EMF_TOL × PSI × ω (R308). -/
def Chip.emfOff (c : Chip) (l : Nat) (it : FocIter) : Bool :=
  let e := c.emfExpected l (mag it.speed)
  let a := it.emfAmp.toNat * 65536 * 1000000000000
  decide (bits (c.seg l 30) 16 16 * e < 65536 * ((a : Int) - (e : Int)).natAbs)

/-- The speed that the back-EMF magnitude implies; free without a magnet flux. -/
def Chip.emfImplied (c : Chip) (l : Nat) (it : FocIter) : Nat × Chip :=
  let p := c.emfExpected l 1
  if p = 0 then ((Config.freeWord c.draw.1).toNat, c.draw.2) else (it.emfAmp.toNat * 65536 * 1000000000000 / p, c)

/-- Detection of a loss in RUN or BRAKE (R308): counts of iterations in a row, and the decision. -/
def Chip.driveWatch (c : Chip) (l : Nat) (it : FocIter) : Chip :=
  let k := c.drivePfu l
  let x := c.drive_ l
  let obs := if (c.seg l 29).toNat < mag it.innov then x.obs + 1 else 0
  let check := !c.induction l && mag (c.seg l 31) ≤ mag it.speed
  let emf := if check && c.emfOff l it then x.emf + 1 else 0
  let c1 := c.updDrive l fun x => { x with obs := obs, emf := emf }
  let lostByEmf := emf != 0 && bits (c.seg l 30) 8 8 ≤ emf
  let lostBySensor := c.sensored l && (c.on (F.PFU.PFU_STAT.INNOV_HI k) || c.on (F.PFU.PFU_STAT.FAULT k))
  let lostByObs := !c.sensored l && obs != 0 && bits (c.seg l 30) 0 8 ≤ obs
  if lostByEmf then
    let q := c1.emfImplied l it
    q.2.driveLoss l (max (mag it.speed) q.1)
  else if lostBySensor || lostByObs then c1.driveLoss l (mag it.speed)
  else c1

/-- The angle error of a re-acquisition is below 5° electrical. -/
def nearAngle (e : Word) : Bool := decide (72 * mag e < 2 ^ 32)

/-- An iteration of REACQ (R309 steps 3–6). -/
def Chip.driveReacq (c : Chip) (l : Nat) (it : FocIter) : Chip :=
  let x := c.drive_ l
  let t := c.trigOf l
  let n := if nearAngle it.angErr then x.near + 1 else 0
  if x.since + 5 * Config.ms < t then c.driveFault l 4 0x4D05
  else if it.emfAmp.toNat < (c.seg l 15).toNat then
    let c1 := c.updDrive l fun x => { x with reason := 6, starting := true }
    if c.induction l then c1.driveFlux l t else c1.driveAlign l t
  else if 32 ≤ n ∧ x.since + 500 * Config.us ≤ t then
    c.updDrive l fun x => { x with dstate := dsRun, near := 0, ramp := some t, runPend := false, obsAngle := it.emfAngle + 0x40000000#32,
                                   obsSpeed := it.speed }
  else c.updDrive l fun x => { x with near := n }

/-- An iteration of LOWSPEED (R303): with HFI_EN the voltage on the d-axis reverses, without it a current vector of I_IF rotates; the
observer takes the angle over at F_OBS_ON. -/
def Chip.driveLow (c : Chip) (l : Nat) (it : FocIter) : Chip :=
  let hfi := (c.seg l 0).getLsbD 6
  let vh : Int := (c.seg l 26).toInt
  let c1 := c.updDrive l fun x => { x with
    obsAngle := it.angle, obsSpeed := it.speed, inject := if hfi then (if 0 < x.inject then -vh else vh) else 0,
    idRef := if hfi then x.idRef else (c.seg l 28).toInt, iqRef := if hfi then x.iqRef else 0 }
  if mag (c.seg l 24) ≤ mag it.speed then ((c1.updDrive l fun x => { x with dstate := dsRun, inject := 0 })).startDone l byInjection else c1

/-- The short-circuit current lags the back-EMF by atan(ωL ÷ Rs), and the d-axis is a quarter turn on (R300, R310). -/
def Chip.ascAngle (c : Chip) (l : Nat) (it : FocIter) : Word :=
  it.iAngle + atan2Code ((twoPi9 : Int) * it.speed.toInt * (c.seg l 3).toInt) (65536 * 1000000000000 * (c.seg l 2).toInt) + 0x40000000#32

/-- Changes of state by what an iteration has measured. -/
def Chip.driveStep (c : Chip) (l : Nat) (it : FocIter) : Chip :=
  let x := c.drive_ l
  let v := mag it.speed
  let still := mag (c.seg l 18)
  match x.dstate with
  | 0 => if (c.seg l 0).getLsbD 7 && decide (mag (c.seg l 16) < v) then c.driveAsc l else c
  | 1 => if x.flux then
           if x.since + c.fluxTicks l ≤ c.trigOf l then
             (c.updDrive l fun x => { x with flux := false, dstate := dsRun }).startDone l bySensor
           else c
         else c.updDrive l fun x => { x with goodAt := if c.emfGood l it.emfAmp it.emfSpeed then some (x.goodAt.getD (c.trigOf l)) else none }
  | 2 => c.toState l (if x.brakeFirst && decide (still ≤ mag x.obsSpeed) then dsBrake else dsRun)
  | 4 => c.driveLow l it
  | 5 => if !c.sensored l && decide (v < mag (c.seg l 25)) then
           c.updDrive l fun x => { x with dstate := dsLow, obsAngle := it.angle, obsSpeed := it.speed }
         else c.driveWatch l it
  | 6 => c.driveReacq l it
  | 7 => let c1 := c.updDrive l fun x => { x with obsAngle := c.ascAngle l it, obsSpeed := it.speed }
         if v < mag (c.seg l 16) - mag (c.seg l 17) then c1.toStateAt l dsReacq (c.trigOf l) else c1
  | 8 => if v < still then c.toState l dsRun else c.driveWatch l it
  | _ => c

/-- The counts of iterations in a row stand in RUN and BRAKE only (R308). -/
def Chip.driveCounts (c : Chip) (l : Nat) : Chip :=
  let st := (c.drive_ l).dstate
  if st = dsRun ∨ st = dsBrake then c else c.updDrive l fun x => { x with obs := 0, emf := 0 }

/-- How long a pump has turned without load (R319). -/
def Chip.drivePump (c : Chip) (l : Nat) (it : FocIter) : Chip :=
  c.updDrive l fun x =>
    if c.noLoad l it then { x with lowIq := some (x.lowIq.getD (c.trigOf l)) } else { x with lowIq := none, noLoad := false }

/-- Current references in RUN and BRAKE (R305–R307). -/
def Chip.driveLimits (c : Chip) (l : Nat) (it : FocIter) : Chip :=
  let x := c.drive_ l
  if x.dstate ≠ dsRun ∧ x.dstate ≠ dsBrake then c
  else
    let w (k : Nat) : Int := (c.seg l k).toInt
    let sp := it.speed.toInt
    let brake : Int := (mag (c.seg l 19) : Nat)
    let cmd : Int := if x.dstate = dsBrake then (if sp < 0 then brake else -brake) else (c.loop l).setpt.toInt
    let lim : Int := (Tab.at c.mailbox 0 (c.parByte l 38 1)).toInt.natAbs
    let ramped : Int := match x.ramp with
      | some t => let m : Int := (w 20) * ((c.trigOf l - t : Nat) : Int) / (Config.ms : Int); max (-m) (min m cmd)
      | none => cmd
    let t1 := max (-lim) (min lim ramped)
    let fmax := match x.limSpeed with | some v => min (mag (c.seg l 13)) (mag v) | none => mag (c.seg l 13)
    let tooFast := decide (fmax < mag it.speed)
    let t2 := if tooFast && decide (0 < t1 * sp) then 0 else t1
    -- VLIM in mV × 2^31, and the integrator's step in mA
    let vl : Int := isqrt ((((w 21) * it.vdc.toInt) ^ 2).toNat / 3)
    let dv : Int := (it.vmag.toNat : Int) * 2 ^ 31 - vl
    let step : Int := rnd ((w 22) * dv * (w 11)) (vl.toNat * 2 ^ 31)
    let d := c.draw
    let fwRaw : Int := if vl = 0 then (Config.freeWord d.1).toInt else x.idFw - step
    let c0 := if vl = 0 then d.2 else c
    let fw := max (w 23) (min 0 fwRaw)
    let atEnd := decide (fw = w 23) && decide (0 < dv)
    let cut : Int := if atEnd || decide (0 < x.cut) then max 0 (x.cut + step) else 0
    let k := min (2 * t2.natAbs) (2 ^ 32 - 1)
    let mtpa : Int := if bits (c.seg l 0) 0 2 ≠ 1 ∨ w 33 = 0 then 0
      else
        let sg := interpSplit (wd k) true
        interpValue (c.seg l ((c.seg l 33).toNat + sg.1)) (c.seg l ((c.seg l 33).toNat + min (sg.1 + 1) 255)) sg.2
    let idr := mtpa + fw
    -- torque in mN·m × 2^31, flux in µWb × 10^6
    let flux : Int := (w 5) * 1000000 + (w 3 - w 4) * idr
    let den : Int := 3 * (w 1) * flux * 2 ^ 31
    let iq0 : Int := if den = 0 then 0 else
      (if den < 0 then -1 else 1) * rnd (2 * t2 * (w 12) * 1000000000000) den.natAbs
    let imax : Int := isqrt (((w 11) ^ 2 - idr ^ 2).toNat)
    let iq1 := max (-imax) (min imax iq0)
    let iq2 : Int := if iq1 < 0 then min 0 (iq1 + cut) else max 0 (iq1 - cut)
    c0.updDrive l fun x => { x with
      idFw := fw, cut := cut, idRef := idr, iqRef := iq2, fw := decide (fw < 0), vlim := atEnd, overspeed := tooFast,
      tlim := decide (t1 ≠ ramped) || decide (iq1 ≠ iq0),
      ramp := if ramped = cmd then none else x.ramp }

/-- The other set of a six-phase machine shows ASC, FAULT or REACQ: this set follows (R314). -/
def Chip.drivePeer (c : Chip) (l : Nat) : Chip :=
  if c.seg l 39 = 0 then c
  else
    let p := bits (Tab.at c.mailbox 0 (c.parByte l 39 1)) 0 4
    let st := (c.drive_ l).dstate
    if st = p then c
    else if p = dsAsc then c.driveAsc l
    else if p = dsFault then (c.toState l dsFault).gate_ l true
    else if p = dsReacq then c.toStateAt l dsReacq (c.trigOf l)
    else c

/-- Word `k` of the status block (Table 9.4). -/
def DriveSt.word (x : DriveSt) (it : FocIter) (k : Nat) : Word :=
  match k with
  | 0 => wd (x.dstate + x.reason * 2 ^ 4 + x.seqAck * 2 ^ 8 + x.dir.toNat * 2 ^ 16 + x.fw.toNat * 2 ^ 17 + x.vlim.toNat * 2 ^ 18
      + x.tlim.toNat * 2 ^ 19 + x.overspeed.toNat * 2 ^ 20 + x.cmdRej.toNat * 2 ^ 21 + x.idDone.toNat * 2 ^ 22
      + (x.dstate == dsBrake).toNat * 2 ^ 23 + (x.stcnt % 256) * 2 ^ 24)
  | 1 => it.speed
  | 2 => it.angle
  | 3 => it.torque
  | 4 => it.id
  | 5 => it.iq
  | 6 => it.vdc
  | _ => wd (x.lost + x.starts * 2 ^ 16)

/-- The status word, the mailbox words and the six-phase words of an iteration (R291, R293, R314). -/
def Chip.driveOut (c : Chip) (l : Nat) (it : FocIter) : Chip :=
  let x := c.drive_ l
  let k := if x.phase % 2 = 0 then 0 else (x.phase + 1) / 2
  let c1 := c.updDrive l fun x => { x with phase := (x.phase + 1) % 14, stcnt := if k = 0 then (x.stcnt + 1) % 256 else x.stcnt }
  let c2 := c1.libShm l ((c.seg l 37).toNat + k) ((c1.drive_ l).word it k)
  let c3 := (c2.libMbx l (c.parByte l 38 2) it.speed).libMbx l (c.parByte l 38 3) it.torque
  if c.seg l 39 = 0 then c3
  else
    let c4 := c3.libMbx l (c.parByte l 39 0) (wd x.dstate)
    if (c.seg l 0).getLsbD 8 then c4 else c4.libMbx l (c.parByte l 39 2) (c.loop l).setpt

/-- An iteration of MC_FOC has committed: the command it reads is judged against the state at its start (R298); a state that the
command changes is not judged again. -/
def Chip.focIter (c : Chip) (l : Nat) (it0 : FocIter) : Chip :=
  let c0 := c.driveInit l
  let it := { it0 with speed := c0.driveSpeed l it0.speed }
  let c1 := (c0.updDrive l fun x => { x with speed := it.speed }).drivePeer l
  let c2 := c1.driveAct l it.speed
  let c3 := if (c2.drive_ l).dstate = (c1.drive_ l).dstate then c2.driveStep l it else c2
  (((c3.driveCounts l).drivePump l it).driveLimits l it).driveOut l it

/-- An iteration of MC_SUP hands the command over (R292) and writes the torque limit, within the limit of DEGRADED; it applies the
speed limit of DEGRADED (R291, R307, R397). -/
def Chip.supIter (c : Chip) (l drive : Nat) (limit : Word) : Chip :=
  let bound (i : Nat) : Option Word :=
    if c.on F.ISN.LIM_MBX.EN then some (Tab.at c.mailbox 0 (bits (c.rd R.ISN.LIM_MBX) (8 * i) 8)) else none
  let lim := match bound 0 with | some b => if mag b < mag limit then b else limit | none => limit
  ((c.libMbx l (c.parByte drive 38 0) (c.loop l).setpt).libMbx l (c.parByte drive 38 1) lim).updDrive drive fun x =>
    { x with limSpeed := bound 1 }

/-- An iteration of MC_SPD: its speed command and the estimate in SPD_MBX give the torque command, which goes to the inner loop's
set-point word (R137, R291). -/
def Chip.spdIter (c : Chip) (l drive : Nat) : Chip :=
  let d := c.draw
  let tq := Config.speedLaw (c.loop l).setpt (Tab.at c.mailbox 0 (c.parByte drive 38 2)) d.1
  let c1 := d.2.libMbx l (c.get (lf F.LPD.LPD_CASC.MBX l)) tq
  if c.on (lf F.LPD.LPD_CASC.EN l) then c1.updLoop l fun x => { x with spOk := true, spVal := some tq } else c1

/-! ### MC_ACT (R315–R318) -/

def Chip.act (c : Chip) (l : Nat) : ActSt := Tab.at c.acts {} l
def Chip.updAct (c : Chip) (l : Nat) (f : ActSt → ActSt) : Chip := { c with acts := Tab.upd c.acts {} l f }

/-- The off gate of an actuator: its DAC is in word 0. -/
def Chip.actGate (c : Chip) (l : Nat) (on : Bool) : Chip :=
  c.issue l (0xA10 + bits (c.seg l 0) 13 3) false (if on then 0xFFF else 0)

/-- IMOVE, IFORCE and IHOLD of the parameter block, and the PFU. -/
def Chip.iMove (c : Chip) (l : Nat) : Nat := bits (c.seg l 10) 0 16
def Chip.iForce (c : Chip) (l : Nat) : Nat := bits (c.seg l 10) 16 16
def Chip.iHold (c : Chip) (l : Nat) : Nat := (c.seg l 14).toNat
def Chip.actPfu (c : Chip) (l : Nat) : Nat := bits (c.seg l 0) 1 3

/-- A command of MC_ACT: its set-point word with a new SEQ. -/
def Chip.actCmd (c : Chip) (l cmd : Nat) (f : Chip → Nat → Chip) : Chip :=
  let m := (c.loop l).setpt
  if c.get (fState l) ≠ lsClosed ∨ bits m 0 3 ≠ cmd ∨ bits m 8 8 = (c.act l).seqAck then c
  else f (c.updAct l fun x => { x with seqAck := bits m 8 8 }) (bits m 16 3)

/-- The actuator starts a phase towards a target, with its gate released. -/
def Chip.actStart (c : Chip) (l target : Nat) (st : ActStep) (ctl : ActCtl) : Chip :=
  (c.updAct l fun x => { x with step := st, ctl := ctl, target := target, since := c.trigOf l, reason := 0 }).actGate l false

/-- ASTATE is a code of what the actuator does. -/
def ActStep.code : ActStep → Nat
  | .stopped => 0
  | .moving => 1
  | .shift n => 1 + n
  | .engaging => 8
  | .releasing => 9
  | .holding => 10

/-- An operation fails: the actuator stands under `ctl`, and record 4D07h carries its state, the REASON and the speed of its PFU. -/
def Chip.actFail (c : Chip) (l reason step : Nat) (ctl : ActCtl) : Chip :=
  let c1 := c.updAct l fun x => { x with step := .holding, ctl := ctl, reason := reason, failStep := if step = 0 then x.failStep else step }
  c1.record 3 0x4D07 (Config.drivePayload l (Config.actCode (c1.act l).step.code).toNat reason).toNat (c1.pfuSpeed (c.actPfu l)).toNat

def Chip.actStop (c : Chip) (l : Nat) : Chip :=
  c.actCmd l 0 fun c _ => (c.updAct l fun x => { x with step := .stopped, ctl := .off }).actGate l true

def execActStop (loop : Fin 512) (s : State) : Host.Outcome State Fault Refusal := s.nextChip fun c => c.actStop loop

def Chip.actMove (c : Chip) (l : Nat) : Chip := c.actCmd l 1 fun c t => c.actStart l t .moving (.position (some t) (c.iMove l))

def execActMove (loop : Fin 512) (s : State) : Host.Outcome State Fault Refusal := s.nextChip fun c => c.actMove loop

/-- SHIFT (R317): the fork holds its gear until the torque has fallen. -/
def Chip.actShift (c : Chip) (l : Nat) : Chip := c.actCmd l 2 fun c t => c.actStart l t (.shift 1) (.hold (c.iHold l))

def execActShift (loop : Fin 512) (s : State) : Host.Outcome State Fault Refusal := s.nextChip fun c => c.actShift loop

/-- The park permission word (R318, R407): bit 0 ENGAGE_OK, bit 1 RELEASE_OK; it counts when PARK = 1. -/
def Chip.actPermit (c : Chip) (l bit : Nat) : Bool :=
  !(c.seg l 0).getLsbD 4 || (Tab.at c.mailbox 0 (c.parByte l 15 2)).getLsbD bit

/-- ENGAGE and RELEASE drive the pawl towards its position at IMOVE, or are refused with REASON 3h (R318). -/
def Chip.actPark (c : Chip) (l cmd : Nat) (st : ActStep) : Chip :=
  c.actCmd l cmd fun c t =>
    if c.actPermit l (cmd - 3) then c.actStart l t st (.position (some t) (c.iMove l)) else c.actFail l 3 0 (.hold (c.iHold l))

def execActEngage (loop : Fin 512) (s : State) : Host.Outcome State Fault Refusal := s.nextChip fun c => c.actPark loop 3 .engaging

def execActRelease (loop : Fin 512) (s : State) : Host.Outcome State Fault Refusal := s.nextChip fun c => c.actPark loop 4 .releasing

/-- T_PHASE has passed in the present phase: in step 1 the fork holds its gear, in steps 2–6 it stands at neutral under position
control (R317); the pawl stays held (R318). -/
def Chip.actTimeout (c : Chip) (l : Nat) : Chip :=
  let x := c.act l
  let c1 := c.goto (x.since + bits (c.seg l 13) 0 16 * Config.ms)
  match x.step with
  | .shift 1 => c1.actFail l 1 1 (.hold (c.iHold l))
  | .shift n => c1.actFail l 2 n (.position none (c.iMove l))
  | .engaging => c1.actFail l 2 0 (.hold (c.iHold l))
  | .releasing => c1.actFail l 2 0 (.hold (c.iHold l))
  | _ => c

def execActPhaseTimeout (loop : Fin 512) (s : State) : Host.Outcome State Fault Refusal := s.nextChip fun c => c.actTimeout loop

/-- A phase of a shift is complete, and the next begins. -/
def Chip.actPhase (c : Chip) (l n : Nat) (ctl : ActCtl) : Chip :=
  c.updAct l fun x => { x with step := .shift n, ctl := ctl, since := c.trigOf l }

/-- An operation is complete: the current drops to IHOLD and its count on the LIFE page increments. -/
def Chip.actDone (c : Chip) (l : Nat) (cnt : Option Nat) : Chip :=
  let c1 := c.updAct l fun x => { x with
    step := .holding, ctl := .hold (c.iHold l), index := x.target, failStep := if cnt = some R.LIFE.SHIFT_CNT then 0 else x.failStep }
  match cnt with
  | some a => c1.inc (whole a)
  | none => c1

/-- The port of the ADC entry that compare entry `e` of the actuator's PFU triggers (TSRC 2h), of the ports the loop reads (R316). -/
def Chip.crossPort (c : Chip) (l e : Nat) : Option Nat :=
  ((c.loop l).ports.filter fun p => p.2.1).findSome? fun p =>
    let a := p.1 / 32
    let k := p.1 % 32
    if p.1 < 0x300 ∧ c.get (F.ADC.ETRIG.TSRC a k) = 2 ∧ c.get (F.ADC.ETRIG.TINST a k) = c.actPfu l ∧ c.get (F.ADC.ETRIG.TEVT a k) = e
    then some p.1 else none

/-- First compare entry of the direction of the shift in progress (word 9). -/
def Chip.crossBase (c : Chip) (l : Nat) : Nat :=
  if (c.act l).index < (c.act l).target then bits (c.seg l 9) 0 6 else bits (c.seg l 9) 8 6

/-- The fork has crossed position `k` (P_LEAVE, P_SYNC, P_INDEX, P_ENGAGE): the ADC entry of the compare entry is fresh (R316). -/
def Chip.crossed (c : Chip) (l k : Nat) : Bool := (c.crossPort l (c.crossBase l + k)).any fun p => c.isFresh l p 0

/-- The iteration has read the fresh mark of a crossing. -/
def Chip.readCross (c : Chip) (l k : Nat) : Chip :=
  match c.crossPort l (c.crossBase l + k) with
  | some p => c.clearFresh l p
  | none => c

/-- The crossing that a step of a shift waits for: its entry, and what follows. -/
def Chip.actCross (c : Chip) (l k : Nat) (f : Chip → Chip) : Chip := if c.crossed l k then f (c.readCross l k) else c

/-- A pawl that stops short, against a tooth, is held at IHOLD until the wheel rolls (R318). -/
def Chip.actPawl (c : Chip) (l : Nat) (it : ActIter) : Chip :=
  if it.arrived then c.actDone l (some R.LIFE.PARK_CNT)
  else c.updAct l fun x => { x with ctl := if it.stalled then .hold (c.iHold l) else .position (some x.target) (c.iMove l) }

/-- What an iteration does in the step the actuator is in (R317, R318). -/
def Chip.actStep (c : Chip) (l : Nat) (it : ActIter) : Chip :=
  let torque := mag (Tab.at c.mailbox 0 (c.parByte l 15 0))
  let slip := (Tab.at c.mailbox 0 (c.parByte l 15 1)).toInt - it.synchronous.toInt
  let move : ActCtl := .position none (c.iMove l)
  match (c.act l).step with
  | .moving => if it.arrived then c.actDone l none else c
  | .shift 1 => if torque ≤ (c.seg l 11).toNat then c.actPhase l 2 move else c
  | .shift 2 => c.actCross l 0 fun c => c.actPhase l 3 move
  | .shift 3 =>
    if slip.natAbs ≤ mag (c.seg l 12) then c.actPhase l 4 (.position (some (c.act l).target) (c.iMove l)) else c
  | .shift 4 => c.actCross l 1 fun c => c.actPhase l 5 (.force (c.iForce l))
  | .shift 5 => c.actCross l 2 fun c => c.actPhase l 6 (.position (some (c.act l).target) (c.iMove l))
  | .shift _ => c.actCross l 3 fun c => c.actDone l (some R.LIFE.SHIFT_CNT)
  | .engaging => c.actPawl l it
  | .releasing => c.actPawl l it
  | _ => c

/-- The set-point's command takes effect in the iteration that reads a new SEQ; a reserved one is acknowledged (R292, R315). -/
def Chip.actAct (c : Chip) (l : Nat) : Chip :=
  match bits (c.loop l).setpt 0 3 with
  | 0 => c.actStop l
  | 1 => c.actMove l
  | 2 => c.actShift l
  | 3 => c.actPark l 3 .engaging
  | 4 => c.actPark l 4 .releasing
  | n => c.actCmd l n fun c _ => c

/-- One status word per iteration, alternating (R315). -/
def Chip.actOut (c : Chip) (l : Nat) : Chip :=
  let n := c.rd (R.PFU.COUNT (c.actPfu l))
  let y := c.act l
  let c2 := c.updAct l fun z => { z with second := !z.second, count := n }
  c2.libShm l (Config.actIndex l + y.second.toNat)
    (if y.second then n
     else wd ((Config.actCode y.step.code).toNat + y.reason * 2 ^ 4 + y.seqAck * 2 ^ 8 + y.index * 2 ^ 16 + y.failStep * 2 ^ 24))

/-- An iteration of MC_ACT has committed: a command is judged against the state at its start. -/
def Chip.actIter (c : Chip) (l : Nat) (it : ActIter) : Chip :=
  let c1 := c.actAct l
  (if (c1.act l).step = (c.act l).step then c1.actStep l it else c1).actOut l

/-! ### Library loops (R290, Table 9.1) -/

/-- A row of Table 9.1: trigger source, declared cost in WU, and the condition on the period. -/
structure LibRow where
  tsrc : Nat
  cost : Nat
  periodOk : Bool
  ahead : Bool

/-- MC_FOC's period is the PWM period of its legs, to the ns of LPD_PERIOD. -/
def Chip.pwmPeriod (c : Chip) (l : Nat) : Bool :=
  match c.dutyPorts l with
  | [] => false
  | p :: _ => decide ((5 * ((c.rd (R.PG.PERIOD_ACT ((p - 0x800) / 4))).toNat : Int) - 128 * (c.period l : Int)).natAbs < 128)

/-- Table 9.1; none for a loop that is no library loop. -/
def Chip.libRow (c : Chip) (l : Nat) : LibIter → Option LibRow
  | .none => none
  | .foc _ => some ⟨3, 450, c.pwmPeriod l, true⟩
  | .spd _ => some ⟨4, 1200, true, false⟩
  | .sup _ _ => some ⟨0, 3600, c.period l == 1000000, false⟩
  | .act _ => some ⟨1, 520, decide (10000 ≤ c.period l) && decide (c.period l ≤ 1000000), false⟩

/-- The loop is configured as its row of Table 9.1 says; a run-ahead MC_FOC has three inputs and three outputs. -/
def Chip.libFits (c : Chip) (l : Nat) (lib : LibIter) : Bool :=
  match c.libRow l lib with
  | none => false
  | some r =>
    let ra := c.on (lf F.LPD.LPD_RA.EN l)
    c.get (lf F.LPD.LPD_TRIG.TSRC l) == r.tsrc && r.periodOk
      && (if ra then r.ahead && c.nin l == 3 && c.nout l == 3 && decide (r.cost ≤ (c.loop l).cost) else (c.loop l).cost == r.cost)

/-- What a library loop does in an iteration that has committed. -/
def Chip.libIter (c : Chip) (l : Nat) (lib : LibIter) : Chip :=
  if c.libFits l lib then
    match lib with
    | .none => c
    | .foc it => c.focIter l it
    | .spd d => c.spdIter l d
    | .act it => c.actIter l it
    | .sup d v => c.supIter l d v
  else c

end Sys2Proof.Machine
end

