-- ==== Sys2Proof/Machine/Supervisor.lean ====
section
/-! DEFINITION. The Isaenaim supervisor and the safety functions (R390–R413). -/

namespace Sys2Proof.Machine

def Chip.updIsn (c : Chip) (f : IsnSt → IsnSt) : Chip := { c with isn := f c.isn }

/-- STATE codes of Isaenaim (Table 12.5). -/
abbrev isSafe : Nat := 0
abbrev isRun : Nat := 1
abbrev isDegraded : Nat := 2
abbrev isSs1 : Nat := 3

def Chip.isnState (c : Chip) : Nat := c.get (hState R.ISN.ID)

/-- RUN or DEGRADED. -/
def Chip.isnRuns (c : Chip) : Bool := c.isnState == isRun || c.isnState == isDegraded

/-- A record of R411: the source in byte 20 where there is a numbered one; the other bytes are not stated: free (log 10). -/
def Chip.recordIsn (c : Chip) (code : Nat) (src : Option Nat) : Chip :=
  let d := c.draw
  let q := (Config.eventPayload code d.1).toNat
  let lo := match src with | some n => q % 2 ^ 32 / 256 * 256 + n % 256 | none => q % 2 ^ 32
  d.2.record 0x05 code lo (q / 2 ^ 32)

/-- A word of LIM_MBX: 0 torque, 1 speed, 2 PL (R397). -/
def Chip.limWrite (c : Chip) (i : Nat) (v : Word) : Chip :=
  if c.on F.ISN.LIM_MBX.EN then c.mailboxWrite (bits (c.rd R.ISN.LIM_MBX) (8 * i) 8) v else c

/-! ### The configuration check (R395) -/

/-- Offsets of the registers marked safe of a page, in ascending order. -/
def safeOffsets (cls : Nat) : List Nat :=
  (regRows cls).flatMap fun r => if r.safe then (List.range r.count).map fun i => r.first + i * r.stride else []

/-- CFG_CRC_ACT. -/
def Chip.cfgCrc (c : Chip) : Nat :=
  crc32 ([5, 19].flatMap fun cls => (safeOffsets cls).flatMap fun o => leBytes (c.rd (pageOf cls 0 + o)))

/-! ### Classes (R396) -/

/-- The minimum class of a source (Table 12.2). -/
def minClass (n : Nat) : Nat := [1, 2, 1, 0, 1, 1, 0, 0, 1, 2, 1, 0, 0, 1, 0, 2, 1, 1, 2, 2, 1, 0, 0, 1, 0].getD n 0

/-- The class of a source: code 11b is treated as 10b. -/
def Chip.classOf (c : Chip) (n : Nat) : Nat := min 2 (bits (c.rd (if n < 16 then R.ISN.CLASS0 else R.ISN.CLASS1)) (2 * (n % 16)) 2)

/-- A value of CLASS0 or CLASS1 with every class at its minimum or above. -/
def classFloor (first : Nat) (v : Word) : Word :=
  upto 16 (fun v i => if bits v (2 * i) 2 < minClass (first + i) then putBits v (2 * i) 2 (minClass (first + i)) else v) v

/-- A fault of a class is active. -/
def Chip.classActive (c : Chip) (k : Nat) : Bool := (List.range 25).any fun n => c.on (bitOf R.ISN.FAULT_ACT n) && c.classOf n == k

/-! ### Safe inputs (R409, R410) -/

def Chip.sin (c : Chip) (n : Nat) : SinSt := Tab.at c.isn.sins {} n
def Chip.updSin (c : Chip) (n : Nat) (f : SinSt → SinSt) : Chip := c.updIsn fun x => { x with sins := Tab.upd x.sins {} n f }

/-- A channel is ACTIVE; its fault. -/
def Chip.sinActive (c : Chip) (n : Nat) : Bool := c.on (bitOf R.SAFE.SIN_STAT n)
def Chip.sinFault (c : Chip) (n : Nat) : Bool := c.on (bitOf R.SAFE.SIN_STAT (8 + n))

/-- Inputs 2m and 2m + 1 form a pair. -/
def Chip.paired (c : Chip) (n : Nat) : Bool := c.on (F.SAFE.SIN_CFG.PAIR (n / 2 * 2))

/-- The inputs, or pairs by their even input, with their states: ACTIVE or in demand. -/
def Chip.inputs (c : Chip) : List (Nat × Bool) :=
  (List.range 8).filterMap fun n =>
    if c.paired n then (if n % 2 = 0 then some (n, (c.sin n).pair) else none) else some (n, c.sinActive n)

/-- Every input or pair with one of some functions is ACTIVE. -/
def Chip.funcsActive (c : Chip) (fs : List Nat) : Bool := c.inputs.all fun e => !fs.contains (c.get (F.SAFE.SIN_CFG.FUNC e.1)) || e.2

/-- A degradable fault is active: of Table 12.2, or an input with FUNC degradable fault in demand. -/
def Chip.degradable (c : Chip) : Bool := c.classActive 1 || !c.funcsActive [4]

/-! ### Park lock (R407) -/

/-- RELEASE_OK follows the state; a change of ENGAGE_OK or RELEASE_OK goes to the PL word. -/
def Chip.parkUpdate (c : Chip) (engage : Bool) : Chip :=
  let rel := c.isnRuns
  let c1 := (c.setb F.SAFE.PARK_STAT.ENGAGE_OK engage).setb F.SAFE.PARK_STAT.RELEASE_OK rel
  if c1.rd R.SAFE.PARK_STAT = c.rd R.SAFE.PARK_STAT then c1 else c1.limWrite 2 (wd (engage.toNat + 2 * rel.toNat))

/-- The speeds are judged at an instant: ENGAGE_OK once they have been at or below their limits for 200 ms. -/
def Chip.parkSpeed (c : Chip) (at_ : Nat) : Chip :=
  let c1 := c.goto at_
  c1.parkUpdate (c1.isn.parkAt.any fun t => decide (t + 200 * Config.ms ≤ c1.st))

def execParkSpeedUpdate (at_ : Nat) (s : State) : Host.Outcome State Fault Refusal :=
  s.nextChip fun c => if c.isn.dead then c else c.parkSpeed at_

/-! ### States (R393) -/

/-- STATE of the SAFE page (Table 12.7). -/
def Chip.safeShow (c : Chip) : Chip :=
  let asc := (List.range 8).any fun g => bits (c.rd R.ISN.SS_STAT) (2 * g) 2 == 2
  c.set F.SAFE.STATUS.STATE (if c.on F.SAFE.STO_STAT.CUT_A || c.on F.SAFE.STO_STAT.CUT_B then 0
    else if c.isnState = isSs1 then 2 else if c.isnState = isSafe ∧ asc then 3 else 1)

/-- Isaenaim takes a state. -/
def Chip.setIsn (c : Chip) (st : Nat) : Chip :=
  let c1 := c.set (hState R.ISN.ID) st
  (c1.parkUpdate (c1.on F.SAFE.PARK_STAT.ENGAGE_OK)).safeShow

/-- SS_EN of a group. -/
def Chip.ssEn (c : Chip) (g : Nat) : Bool := (c.get F.ISN.SS_CHOICE.SS_EN).testBit g
def Chip.setSs (c : Chip) (g v : Nat) : Chip := c.set ⟨R.ISN.SS_STAT, 2 * g, 2⟩ v

/-! ### The brake (R404, R405) -/

/-- Both switches open. -/
def Chip.brakeOn (c : Chip) : Chip :=
  (c.wr R.SAFE.SBC_STAT (c.rd R.SAFE.SBC_STAT &&& 0xFFFF0000#32)).updIsn fun x => { x with brakeDue := none }

def Chip.brakeFree (c : Chip) : Bool := c.on F.SAFE.SBC_STAT.RELEASED

/-- The brake is released while its conditions hold; its readbacks show it. -/
def Chip.brakeOff (c : Chip) : Chip :=
  if c.on F.SAFE.SBC_CFG.SBC_EN && c.isnRuns && !c.on F.SAFE.STO_STAT.CUT_A && !c.on F.SAFE.STO_STAT.CUT_B && c.funcsActive [3]
      && c.isn.holdAt.isNone then
    (c.wr R.SAFE.SBC_STAT (c.rd R.SAFE.SBC_STAT ||| 0x1F#32)).updIsn fun x => { x with sbcAt := if c.brakeFree then x.sbcAt else c.st }
  else c

/-- A failed check of the brake. -/
def Chip.brakeFault (c : Chip) : Chip := (((c.brakeOn).raise F.SAFE.STICKY.SBC_FAULT).report 19 0).recordIsn 0x4907 (some 19)

/-! ### Safe torque off (R401) -/

/-- Every protected loop in CLOSED goes to HOLD and is held: at its next period boundary, or at once with TSRC = 6 (R132, R400). -/
def Chip.holdLoops (c : Chip) : Chip :=
  (c.admitted.filter fun l => c.protectedLoop l && c.get (fState l) == lsClosed).foldl
    (fun (c : Chip) l =>
      let c1 := c.updLoop l fun x => { x with held := true, cmd := some (3, none) }
      if c.get (lf F.LPD.LPD_TRIG.TSRC l) = 6 then c1.applyCmd l else c1) c

/-- STO applied ends SS1: Isaenaim enters SAFE (R403, Table 12.1). -/
def Chip.ss1Safe (c : Chip) : Chip :=
  if c.isnState ≠ isSs1 ∨ c.isn.dead then c
  else
    let c1 := (((c.setIsn isSafe).raise ⟨R.ISN.STICKY, 2, 1⟩).inc F.ISN.ENTRY_CNT.SAFE).recordIsn 0x4902 none
    (upto 8 (fun c g => if c.ssEn g then (c.isnForce (c.groupLegs g) (some .off)).setSs g 3 else c) c1.holdLoops).safeShow

/-- The cuts are applied: DEMAND bit `bit`, and what the readbacks show. -/
def Chip.cutNow (c : Chip) (bit : Nat) (fbA fbB : Bool) : Chip :=
  let c0 := (c.raise ⟨R.SAFE.STO_STAT, 8 + bit, 1⟩).updIsn fun x => { x with stoDue := none }
  if c0.on F.SAFE.STO_STAT.CUT_A && c0.on F.SAFE.STO_STAT.CUT_B then c0
  else
    let c1 := (((c0.raise F.SAFE.STO_STAT.CUT_A).raise F.SAFE.STO_STAT.CUT_B).setb F.SAFE.STO_STAT.FB_A fbA).setb F.SAFE.STO_STAT.FB_B fbB
    let c2 := upto 40 (fun c n => c.pgDisable n) (c1.resolveAll (List.range 40))
    let c3 := upto 48 (fun c l => (c.linkStop l).clr (F.GLNK.LCFG.LEN (l / 8) (l % 8))) c2
    let c4 := upto 8 (fun c g => if c.ssEn g then c.setSs g 3 else c) c3
    let c5 := if fbA && fbB then c4 else (c4.raise F.SAFE.STICKY.STO_FB_FAULT).report 19 0
    let c6 := (((c5.raise F.SAFE.STICKY.STO_APPLIED).inc F.SAFE.SAFE_CNT.STO).recordIsn 0x4903 none).updIsn fun x => { x with ascAt := [], slowAt := [], cutAt := c0.st }
    let dly := c6.get F.SAFE.SBC_CFG.SBC_DLY
    let c7 := if c6.on F.SAFE.SBC_CFG.WITH_STO && !c6.on F.SAFE.SBC_CFG.ORDER && c6.brakeFree then
        (if dly = 0 then c6.brakeOn else c6.updIsn fun x => { x with brakeDue := some (c6.st + dly * Config.ms) })
      else if c6.on F.SAFE.SBC_CFG.WITH_STO && c6.on F.SAFE.SBC_CFG.ORDER then c6.brakeOn
      else c6
    c7.safeShow

/-- The cuts are applied, and a safe stop 1 that runs is over. -/
def Chip.cut (c : Chip) (bit : Nat) (fbA fbB : Bool) : Chip := (c.cutNow bit fbA fbB).ss1Safe

/-- An STO demand: with ORDER = 1 the brake engages first, except for the watchdog and a safe input (R404). -/
def Chip.stoDemand (c : Chip) (bit : Nat) (fbA fbB : Bool) : Chip :=
  let dly := c.get F.SAFE.SBC_CFG.SBC_DLY
  if c.on F.SAFE.SBC_CFG.SBC_EN && c.on F.SAFE.SBC_CFG.WITH_STO && c.on F.SAFE.SBC_CFG.ORDER && (bit == 1 || bit == 2 || bit == 4) && dly != 0
      && !c.on F.SAFE.STO_STAT.CUT_A then
    (if c.isn.stoDue.isSome then c else (c.brakeOn).updIsn fun x => { x with stoDue := some (c.st + dly * Config.ms, bit) })
  else c.cut bit fbA fbB

/-- SBC_DLY has passed (R404). -/
def Chip.delayDone (c : Chip) (fbA fbB : Bool) : Chip :=
  match c.isn.brakeDue, c.isn.stoDue with
  | some t, _ => (c.goto t).brakeOn
  | none, some (t, bit) => (c.goto t).cut bit fbA fbB
  | none, none => c

def execSbcDelayExpire (fbA fbB : Bool) (s : State) : Host.Outcome State Fault Refusal := s.nextChip fun c => c.delayDone fbA fbB

/-! ### Safe states (R398–R400) -/

/-- The STO cut of a safe state, when no group remains in ASC (R399). -/
def Chip.cutIfClear (c : Chip) (fbA fbB : Bool) : Chip := if c.isn.ascAt.isEmpty then c.stoDemand 2 fbA fbB else c.safeShow

/-- The choice of a group takes effect; after a double short circuit the rule of R263 stands. -/
def Chip.ssApply (c : Chip) (g : Nat) : Chip :=
  let legs := c.groupLegs g
  match Tab.find c.scResp g with
  | some r =>
    let asc := r.done && legs.any fun n => match (c.pg n).isn with | some (.asc _) => true | _ => false
    if asc then (c.setSs g 2).updIsn fun x => { x with ascAt := Tab.put x.ascAt g c.st } else c.setSs g 1
  | none =>
    let choice := bits (c.rd R.ISN.SS_CHOICE) (2 * g) 2
    let asc := choice == 1 || (choice == 3 && c.speedAbove g (c.get (F.TRIP.GRP_SC.UCG_SPEED g)))
    if asc then
      ((c.isnForce legs (some (.asc ((c.get F.ISN.SS_CHOICE.ASC_BANK).testBit g)))).setSs g 2).updIsn fun x =>
        { x with ascAt := Tab.put x.ascAt g c.st }
    else (c.isnForce legs (some .off)).setSs g 1

/-- SAFE is entered from RUN, DEGRADED or SS1. -/
def Chip.safeEntry (c : Chip) (src : Option Nat) (fbA fbB : Bool) : Chip :=
  if c.isnState = isSafe then c
  else
    let c1 := ((((c.setIsn isSafe).raise ⟨R.ISN.STICKY, 2, 1⟩).inc F.ISN.ENTRY_CNT.SAFE).updIsn fun x => { x with degAt := none }).recordIsn 0x4902 src
    let c2 := upto 8 (fun c g => if c.ssEn g then c.ssApply g else c) c1.holdLoops
    c2.watchSpeed.cutIfClear fbA fbB

/-- DEGRADED is entered (R397). -/
def Chip.degradedEntry (c : Chip) (src : Option Nat) : Chip :=
  let c1 := (((c.setIsn isDegraded).raise ⟨R.ISN.STICKY, 1, 1⟩).inc F.ISN.ENTRY_CNT.DEGRADED).updIsn fun x => { x with degAt := some c.st }
  let c2 := (c1.limWrite 0 (wd (c1.get F.ISN.DEG_LIM.DEG_TQ * 2 ^ 15))).limWrite 1 (c1.rd R.ISN.DEG_SPD)
  c2.sqSafety.recordIsn 0x4900 src

/-- A degradable fault has come: RUN gives way to DEGRADED; in DEGRADED the timer runs on, or starts when it had stopped. -/
def Chip.degrade (c : Chip) (src : Option Nat) : Chip :=
  if c.isnState = isRun then c.degradedEntry src
  else if c.isnState = isDegraded ∧ c.isn.degAt.isNone then c.updIsn fun x => { x with degAt := some c.st }
  else c

/-! ### Fault reports (R396) -/

/-- The groups a report concerns; none for a source that acts on every group. -/
def Chip.faultGroups (c : Chip) (src inst : Nat) : Option (List Nat) :=
  let ofLeg (n : Nat) : List Nat := if c.on (F.PG.PGCFG.GRP_EN n) then [c.get (F.PG.PGCFG.GROUP n)] else []
  match src with
  | 15 => some (ofLeg inst)
  | 23 => some (ofLeg inst)
  | 16 => some (((c.loop inst).ports.filter fun p => p.2.2 && 0x800 ≤ p.1 && p.1 ≤ 0x89F).flatMap fun p => ofLeg ((p.1 - 0x800) / 4))
  | 24 => some ((c.lineLegs inst).flatMap ofLeg)
  | _ => none

/-- The oldest report reaches Isaenaim. -/
def Chip.faultReport (c : Chip) (fbA fbB : Bool) : Chip :=
  match c.reports with
  | [] => c
  | (src, inst) :: rest =>
    let c0 := { c with reports := rest }
    if c0.isn.dead then c0
    else
      let k := c0.classOf src
      let gs := c0.faultGroups src inst
      let d := c0.draw
      -- the group is not stated for a source that concerns every group: free (log 9)
      let g : Nat := match gs with | some (g :: _) => g | _ => (Config.freeWord d.1).toNat % 8
      let c1 := ((d.2.raise (bitOf R.ISN.FAULT_SEEN src)).wr R.ISN.LAST_FAULT (wd (src + k * 2 ^ 8 + g * 2 ^ 16))).set64
        R.ISN.LAST_ST_LO R.ISN.LAST_ST_HI c.st
      let acts := match gs with | some l => l.any c1.ssEn | none => true
      if k = 0 || !acts then c1
      else
        let c2 := c1.raise (bitOf R.ISN.FAULT_ACT src)
        if k = 1 then c2.degrade (some src) else c2.safeEntry (some src) fbA fbB

def execFaultReport (fbA fbB : Bool) (s : State) : Host.Outcome State Fault Refusal := s.nextChip fun c => c.faultReport fbA fbB

/-- The instances of a source that have been reported, but for those whose clearing means has come. -/
def Chip.faultyOf (c : Chip) (src : Nat) : List Nat := (c.isn.faulty.filter fun e => e.1 == src).map fun e => e.2

/-- The ST from which a source counts as absent by the means of Table 12.2; none while it is present, and for a source that stays
until the next start. -/
def Chip.absentAt (c : Chip) (src : Nat) : Option Nat :=
  let now (b : Bool) : Option Nat := if b then some c.st else none
  match src with
  | 4 => now (decide (100 ≤ c.refGood))
  | 24 => now ((List.range 32).all fun l => !(c.on (bitOf R.TRIP.LINE_ACTIVE l) && c.on (F.TRIP.LCFG.ISN_REPORT l)))
  | 0 => now (c.faultyOf 0).isEmpty | 2 => now (c.faultyOf 2).isEmpty | 3 => now (c.faultyOf 3).isEmpty | 6 => now (c.faultyOf 6).isEmpty
  | 8 => now (c.faultyOf 8).isEmpty | 17 => now (c.faultyOf 17).isEmpty | 20 => now (c.faultyOf 20).isEmpty | 21 => now (c.faultyOf 21).isEmpty
  | 11 => (c.faultyOf 11).foldl (fun m k => m.bind fun t => (Tab.find c.isn.okSince (11 * 64 + k)).map fun u => max t (u + Config.sec)) (some c.st)
  | 12 => (c.faultyOf 12).foldl (fun m k => m.bind fun t => (Tab.find c.isn.okSince (12 * 64 + k)).map fun u => max t (u + Config.sec)) (some c.st)
  | _ => none

/-- A fault is reported absent by the means of Table 12.2; without a degradable fault the timer stops (R396, R397). -/
def Chip.faultCleared (c : Chip) (src : Nat) : Chip :=
  match if c.isn.dead then none else c.absentAt src with
  | none => c
  | some t =>
    let c1 := ((c.goto t).clr (bitOf R.ISN.FAULT_ACT src)).updIsn fun x => { x with faulty := x.faulty.filter fun e => e.1 != src }
    if c1.degradable then c1 else c1.updIsn fun x => { x with degAt := none }

def execFaultCleared (src : Fin 25) (s : State) : Host.Outcome State Fault Refusal := s.nextChip fun c => c.faultCleared src

/-- DEG_TMAX expires with a degradable fault active (R397). -/
def Chip.degExpire (c : Chip) (fbA fbB : Bool) : Chip :=
  match c.isn.degAt with
  | none => c
  | some t =>
    if c.isnState ≠ isDegraded ∨ !c.degradable ∨ c.isn.dead then c
    else
      let c1 := ((c.goto (t + max 1 (min 3600 (c.get F.ISN.ISN_CFG.DEG_TMAX)) * Config.sec)).raise ⟨R.ISN.STICKY, 3, 1⟩).recordIsn 0x4901 none
      c1.safeEntry none fbA fbB

def execDegradedExpire (fbA fbB : Bool) (s : State) : Host.Outcome State Fault Refusal := s.nextChip fun c => c.degExpire fbA fbB

/-- The instant at which a group in ASC leaves it: 100 ms of low speed or ASC_TMAX, whichever comes first (R399). -/
def Chip.ascLeaves (c : Chip) (g t : Nat) : Option Nat :=
  let tmax := bits (c.rd R.ISN.ASC_CFG) 0 16
  let due := if tmax = 0 then none else some (t + tmax * Config.ms)
  match Tab.find c.isn.slowAt g, due with
  | some u, some v => some (min (u + 100 * Config.ms) v)
  | some u, none => some (u + 100 * Config.ms)
  | none, v => v

/-- A group in ASC leaves it for its STO choice (R399). -/
def Chip.ascExit (c : Chip) (g : Nat) (fbA fbB : Bool) : Chip :=
  match Tab.find c.isn.ascAt g with
  | none => c
  | some t =>
    match if c.isn.dead then none else c.ascLeaves g t with
    | none => c
    | some u =>
      ((((c.goto u).isnForce (c.groupLegs g) (some .off)).setSs g 1).updIsn fun x =>
        { x with ascAt := Tab.del x.ascAt g, slowAt := Tab.del x.slowAt g }).cutIfClear fbA fbB

def execAscExit (g : Fin 8) (fbA fbB : Bool) (s : State) : Host.Outcome State Fault Refusal := s.nextChip fun c => c.ascExit g fbA fbB

/-! ### RUN_REQ, RESUME, SAFE_REQ (R393, R394, R397) -/

/-- The conditions of R394. -/
def Chip.runAllowed (c : Chip) : Bool :=
  c.isnState == isSafe && (c.rd R.ISN.CFG_CRC).toNat == c.cfgCrc && !c.classActive 2 && c.funcsActive [1, 2]
    && !c.on F.SAFE.STICKY.SBC_FAULT && !c.on F.SAFE.STICKY.STO_FB_FAULT

/-- RUN_REQ is written. -/
def Chip.runReq (c : Chip) (w : Acc) : Chip :=
  if c.isn.dead then c
  else if !c.runAllowed then (c.reject w rSafety false).raise ⟨R.ISN.STICKY, 6, 1⟩
  else
    let c1 := (c.setIsn isRun).updIsn fun x => { x with ascAt := [], slowAt := [] }
    let c2 := c1.admitted.foldl (fun (c : Chip) l => c.updLoop l fun x => { x with held := false }) c1
    let cut := c2.on F.SAFE.STO_STAT.CUT_A || c2.on F.SAFE.STO_STAT.CUT_B
    let c3 := upto 8 (fun c g => if c.ssEn g then c.setSs g (if cut then 3 else 0) else c) c2
    let legs := (List.range 40).filter fun n => (c3.pg n).isn.isSome && (Tab.find c3.scResp (c3.groupOf n)).isNone
    let c4 := (c3.isnForce legs none).safeShow
    if c4.degradable then c4.degrade none else c4

/-- RESUME is written. -/
def Chip.resume (c : Chip) (w : Acc) : Chip :=
  if c.isn.dead then c
  else if c.isnState ≠ isDegraded ∨ c.degradable then c.reject w rSafety false
  else (((c.setIsn isRun).updIsn fun x => { x with degAt := none }).limWrite 0 0x7FFFFFFF).limWrite 1 0x7FFFFFFF

/-- SAFE_REQ is written. -/
def Chip.safeReq (c : Chip) (fbA fbB : Bool) : Chip := if c.isn.dead then c else c.safeEntry none fbA fbB

/-- The command bits of a write to CTRL of the ISN page. -/
def Isn.ctrl (w : Acc) (fbA fbB : Bool) (c : Chip) : Chip :=
  let c1 := if w.val.getLsbD 10 then c.safeReq fbA fbB else c
  let c2 := if w.val.getLsbD 8 then c1.runReq w else c1
  if w.val.getLsbD 9 then c2.resume w else c2

/-- A write to CTRL of the ISN page with one command bit. -/
def State.isnCtrl (s : State) (src : Source) (bit : Nat) (fbA fbB : Bool) : State :=
  let w : Acc := { src := src, addr := R.ISN.CTRL, val := s.chip.ctrlWith R.ISN.ID bit }
  s.gated w (Isn.ctrl w fbA fbB)

def execRunReq (src : Source) (s : State) : Host.Outcome State Fault Refusal := .next (s.isnCtrl src 8 true true)

def execResume (src : Source) (s : State) : Host.Outcome State Fault Refusal := .next (s.isnCtrl src 9 true true)

def execSafeReq (src : Source) (fbA fbB : Bool) (s : State) : Host.Outcome State Fault Refusal := .next (s.isnCtrl src 10 fbA fbB)

/-! ### Integrity (R390–R392) -/

/-- The watchdog fires; once it has, it holds the cut until the next PORST_N. -/
def Chip.watchdog (c : Chip) (fbA fbB : Bool) : Chip :=
  if c.isn.wdFired then c else
  let c1 := (((c.raise ⟨R.ISN.STICKY, 5, 1⟩).raise F.ISN.WD_STAT.FIRED).updIsn fun x => { x with wdFired := true }).recordIsn 0x490A none
  c1.cut 3 fbA fbB

/-- No refresh has come 150 µs after the last one (R391). -/
def Chip.watchdogLate (c : Chip) (fbA fbB : Bool) : Chip :=
  (match c.isn.refresh with | some t => c.goto (t + 150 * Config.us) | none => c).watchdog fbA fbB

def execWatchdogFire (fbA fbB : Bool) (s : State) : Host.Outcome State Fault Refusal := s.nextChip fun c => c.watchdogLate fbA fbB

/-- A refresh of the watchdog: one that comes early or late fires it (R391). -/
def Chip.refresh (c : Chip) (at_ : Nat) : Chip :=
  let c0 := c.goto at_
  if c0.isn.dead then c0
  else
    let c1 := c0.updIsn fun x => { x with refresh := some c0.st }
    match c0.isn.refresh with
    | none => c1
    | some t =>
      let dt := c0.st - t
      let c2 := c1.set ⟨R.ISN.WD_STAT, 0, 8⟩ (min 255 (dt / Config.us))
      if dt < 50 * Config.us ∨ 150 * Config.us < dt then c2.watchdog true true else c2

def execWatchdogRefresh (at_ : Nat) (s : State) : Host.Outcome State Fault Refusal := s.nextChip fun c => c.refresh at_

/-- The cores differ: both stop (R390). -/
def execIsnCoreMismatch (s : State) : Host.Outcome State Fault Refusal := s.nextChip fun c => c.updIsn fun x => { x with dead := true }

/-- The reference is out of range: Isaenaim reports it, and REF_LOST is set in the LEASH STICKY (R24, R392, Table 1.8). -/
def Chip.refOut (c : Chip) : Chip :=
  let c1 := c.updIsn fun x => { x with windows := 0 }
  if c1.refLost then c1 else (({ c1 with refLost := true }.raise ⟨R.ISN.STICKY, 4, 1⟩).raise F.LEASH.STICKY.REF_LOST).report 9 0

/-- A window of 100 µs ends with a count of crystal periods. -/
def Chip.refWindow (c : Chip) (count : Nat) : Chip :=
  if c.isn.dead then c
  else
    let c1 := c.set ⟨R.ISN.OSC_STAT, 0, 16⟩ count
    if count < 4500 ∨ 5500 < count then c1.refOut
    else
      let n := c1.isn.windows + 1
      let c2 := c1.updIsn fun x => { x with windows := min 10 n }
      if 10 ≤ n then { c2 with refLost := false } else c2

def execRefWindowCheck (count : BitVec 16) (s : State) : Host.Outcome State Fault Refusal := s.nextChip fun c => c.refWindow count.toNat

def execRefEdgeLoss (s : State) : Host.Outcome State Fault Refusal := s.nextChip fun c => if c.isn.dead then c else c.refOut

/-! ### STO_REQ, STO_REL (R401, R402) -/

/-- STO_REQ takes a value. -/
def Chip.stoReq (c : Chip) (on : Bool) (fbA fbB : Bool) : Chip :=
  let c1 := c.setb F.SAFE.CTRL.STO_REQ on
  if on && !c.isn.dead then c1.stoDemand 1 fbA fbB else c1

/-- STO_REL is written: each cut is pulsed and both readbacks are checked before the release. -/
def Chip.stoRel (c : Chip) (w : Acc) (fbA fbB : Bool) : Chip :=
  if c.isn.dead then c
  else if !c.isnRuns || c.on F.SAFE.CTRL.STO_REQ || !c.funcsActive [1] || c.on F.SAFE.STICKY.STO_FB_FAULT || c.isn.wdFired then
    c.reject w rSafety false
  else if !c.on F.SAFE.STO_STAT.CUT_A && !c.on F.SAFE.STO_STAT.CUT_B then c
  else if !(fbA && fbB) then (c.raise F.SAFE.STICKY.STO_FB_FAULT).report 19 0
  else
    let c1 := upto 8 (fun c g => if c.ssEn g then c.setSs g 0 else c) (c.wr R.SAFE.STO_STAT 0)
    (((c1.updIsn fun x => { x with stoDue := none }).resolveAll (List.range 40)).safeShow).recordIsn 0x4904 none

def execStoRel (src : Source) (fbA fbB : Bool) (s : State) : Host.Outcome State Fault Refusal :=
  let w : Acc := { src := src, addr := R.SAFE.CTRL, val := s.chip.ctrlWith R.SAFE.ID 10 }
  s.nextGated w fun c => c.stoRel w fbA fbB

/-- A demand of the host: STO_REQ = 1. -/
def execStoRequest (src : Source) (fbA fbB : Bool) (s : State) : Host.Outcome State Fault Refusal :=
  let w : Acc := { src := src, addr := R.SAFE.CTRL, val := s.chip.ctrlWith R.SAFE.ID 8 }
  s.nextGated w fun c => c.stoReq true fbA fbB

/-- After 8 h of continuous STO each cut is pulsed off in turn with the other holding, and the readbacks are checked. -/
def Chip.stoPulse (c : Chip) (fbA fbB : Bool) : Chip :=
  if c.isn.dead || !(c.on F.SAFE.STO_STAT.CUT_A && c.on F.SAFE.STO_STAT.CUT_B) then c
  else
    let c1 := (c.goto (c.isn.cutAt + 28800 * Config.sec)).updIsn fun x => { x with cutAt := max c.st (x.cutAt + 28800 * Config.sec) }
    if fbA && fbB then c1 else (c1.raise F.SAFE.STICKY.STO_FB_FAULT).report 19 0

def execStoPulseTest (fbA fbB : Bool) (s : State) : Host.Outcome State Fault Refusal := s.nextChip fun c => c.stoPulse fbA fbB

/-! ### Safe stop 1 (R403) -/

/-- An SS1 demand in RUN or DEGRADED. -/
def Chip.ss1Enter (c : Chip) : Chip :=
  let k := c.get F.SAFE.SS1_CFG.SS1_PFU
  let v := if k < 6 then (c.pfuSpeed k).toInt.natAbs else 0
  let c1 := ((c.setIsn isSs1).limWrite 1 0).inc F.SAFE.SAFE_CNT.SS1
  (c1.wr R.SAFE.SS1_STAT 0).updIsn fun x => { x with ss1V := v, ss1At := c.st, ss1N := 0, stillAt := none, degAt := none }

def Chip.ss1Req (c : Chip) (w : Acc) : Chip :=
  if c.isn.dead then c else if c.isnRuns then c.ss1Enter else c.reject w rSafety false

def execSs1Req (src : Source) (s : State) : Host.Outcome State Fault Refusal :=
  let w : Acc := { src := src, addr := R.SAFE.CTRL, val := s.chip.ctrlWith R.SAFE.ID 9 }
  s.nextGated w fun c => c.ss1Req w

/-- SS1 ends: STO is applied, and with it Isaenaim enters SAFE. -/
def Chip.ss1End (c : Chip) (fail fbA fbB : Bool) : Chip :=
  let c1 := if fail then (c.raise F.SAFE.STICKY.SS1_FAIL).recordIsn 0x4905 none else c
  c1.stoDemand 4 fbA fbB

/-- The envelope, 2^-16 Hz, `n` ms after t0. -/
def Chip.envelope (c : Chip) (n : Nat) : Nat :=
  let vofs : Int := (c.get F.SAFE.SS1_RAMP.VOFS * 65536 : Nat)
  (max vofs ((c.isn.ss1V : Int) - rnd (c.get F.SAFE.SS1_RAMP.RAMP * n * 65536 : Nat) 1000 + vofs)).toNat

/-- The check of each millisecond of SS1-r. -/
def Chip.ss1Check (c : Chip) (fbA fbB : Bool) : Chip :=
  if c.isnState ≠ isSs1 ∨ !c.on F.SAFE.SS1_CFG.MODE ∨ c.isn.dead ∨ c.isn.stoDue.isSome then c
  else
    let n := c.isn.ss1N + 1
    let k := c.get F.SAFE.SS1_CFG.SS1_PFU
    let c1 := (c.goto (c.isn.ss1At + n * Config.ms)).updIsn fun x => { x with ss1N := n }
    let v := if k < 6 then (c1.pfuSpeed k).toInt.natAbs else 0
    let env := c1.envelope n
    let c2 := c1.wr R.SAFE.SS1_STAT (wd (n % 2 ^ 16 + (rnd env 65536).toNat % 2 ^ 16 * 2 ^ 16))
    if env < v then c2.ss1End true fbA fbB
    else if c.get F.SAFE.SS1_CFG.STILL * 65536 < v then c2.updIsn fun x => { x with stillAt := none }
    else match c2.isn.stillAt with
      | none => c2.updIsn fun x => { x with stillAt := some c2.st }
      | some t => if t + 10 * Config.ms ≤ c2.st then c2.ss1End false fbA fbB else c2

def execSs1EnvelopeCheck (fbA fbB : Bool) (s : State) : Host.Outcome State Fault Refusal := s.nextChip fun c => c.ss1Check fbA fbB

/-- SS1_T has passed. -/
def Chip.ss1Timeout (c : Chip) (fbA fbB : Bool) : Chip :=
  if c.isnState ≠ isSs1 ∨ c.isn.dead ∨ c.isn.stoDue.isSome then c
  else (c.goto (c.isn.ss1At + max 1 (c.get F.SAFE.SS1_CFG.SS1_T) * Config.ms)).ss1End (c.on F.SAFE.SS1_CFG.MODE) fbA fbB

def execSs1Timeout (fbA fbB : Bool) (s : State) : Host.Outcome State Fault Refusal := s.nextChip fun c => c.ss1Timeout fbA fbB

/-! ### Brake commands and the holding test (R404–R406) -/

/-- SBC_REL takes a value. -/
def Chip.sbcRel (c : Chip) (on : Bool) : Chip :=
  let c1 := c.setb F.SAFE.CTRL.SBC_REL on
  if c.isn.dead then c1 else if on then c1.brakeOff else c1.brakeOn

def execSbcRel (src : Source) (on : Bool) (s : State) : Host.Outcome State Fault Refusal :=
  let old := s.chip.rd R.SAFE.CTRL
  let w : Acc := { src := src, addr := R.SAFE.CTRL, val := if on then old ||| 0x800#32 else old &&& ~~~0x800#32 }
  s.nextGated w fun c => c.sbcRel on

/-- SBC_TPER after the last test each switch has been turned off for SBC_TP: `off` says that both readbacks showed it. -/
def Chip.sbcTest (c : Chip) (off : Bool) : Chip :=
  if !c.brakeFree || c.isn.dead then c
  else
    let c1 := c.goto (c.isn.sbcAt + max 1 (min 60 (c.get F.SAFE.SBC_CFG.SBC_TPER)) * Config.sec)
    let c2 := c1.updIsn fun x => { x with sbcAt := c1.st }
    if off then c2.inc F.SAFE.SBC_STAT.PASSES else c2.brakeFault

def execSbcTestPulse (off : Bool) (s : State) : Host.Outcome State Fault Refusal := s.nextChip fun c => c.sbcTest off

/-- A switch that is on reads back off. -/
def execSbcReadbackFault (low : Bool) (s : State) : Host.Outcome State Fault Refusal :=
  s.nextChip fun c => if !c.brakeFree || c.isn.dead then c else (c.brakeFault).set (if low then F.SAFE.SBC_STAT.LS_FB else F.SAFE.SBC_STAT.HS_FB) 0

/-- HOLD_START is written. -/
def Chip.holdStart (c : Chip) (w : Acc) : Chip :=
  if c.isn.dead then c
  else if !c.isnRuns || c.on F.SAFE.STO_STAT.CUT_A || c.on F.SAFE.STO_STAT.CUT_B || !c.brakeFree || c.isn.holdAt.isSome then c.reject w rSafety false
  else ((c.brakeOn).wr R.SAFE.HOLD_STAT 2).updIsn fun x => { x with holdAt := some c.st, holdRef := none }

def execHoldStart (src : Source) (s : State) : Host.Outcome State Fault Refusal :=
  let w : Acc := { src := src, addr := R.SAFE.CTRL, val := s.chip.ctrlWith R.SAFE.ID 12 }
  s.nextGated w fun c => c.holdStart w

/-- HOLD_SET has passed: READY, and the movement is tracked from here. -/
def Chip.holdReady (c : Chip) : Chip :=
  match c.isn.holdAt, c.isn.holdRef with
  | some t, none =>
    let c1 := (c.goto (t + c.get F.SAFE.HOLD_CFG.HOLD_SET * 10 * Config.ms)).raise F.SAFE.HOLD_STAT.READY
    c1.updIsn fun x => { x with holdRef := some (c1.rd (R.PFU.COUNT (c1.get F.SAFE.HOLD_CFG.HOLD_PFU % 6)), c1.st) }
  | _, _ => c

def execHoldReady (s : State) : Host.Outcome State Fault Refusal := s.nextChip fun c => if c.isn.dead then c else c.holdReady

/-- The movement since READY. -/
def Chip.holdMoved (c : Chip) (ref : Word) : Nat := (c.rd (R.PFU.COUNT (c.get F.SAFE.HOLD_CFG.HOLD_PFU % 6)) - ref).toInt.natAbs

/-- HOLD_FAIL is set when the movement exceeds HOLD_CNT. -/
def Chip.holdTrack (c : Chip) : Chip :=
  match if c.isn.dead then none else c.isn.holdRef with
  | none => c
  | some (ref, _) =>
    let m := c.holdMoved ref
    let f : Fld := ⟨R.SAFE.HOLD_STAT, 16, 16⟩
    let limit := c.get F.SAFE.HOLD_CFG.HOLD_CNT
    let c1 := c.set f (max (c.get f) (min m 0xFFFF))
    if limit < m ∧ c.get f ≤ limit then (c1.raise F.SAFE.STICKY.HOLD_FAIL).report 20 0 else c1

/-- HOLD_T from READY has passed; a test that stayed at or below HOLD_CNT clears fault 20 (Table 12.2). -/
def Chip.holdEnd (c : Chip) : Chip :=
  match c.isn.holdRef with
  | none => c
  | some (ref, t) =>
    let c1 := (c.goto (t + bits (c.rd R.SAFE.HOLD_T) 0 16 * Config.ms)).holdTrack
    let limit := c.get F.SAFE.HOLD_CFG.HOLD_CNT
    let failed := decide (limit < c.holdMoved ref) || decide (limit < c.get ⟨R.SAFE.HOLD_STAT, 16, 16⟩)
    (((c1.raise F.SAFE.STICKY.HOLD_DONE).recordIsn 0x4908 none).wr R.SAFE.HOLD_STAT (c1.rd R.SAFE.HOLD_STAT &&& 0xFFFF0000#32)).updIsn fun x =>
      { x with holdAt := none, holdRef := none, faulty := if failed then x.faulty else x.faulty.filter fun e => e.1 != 20 }

def execHoldTestEnd (s : State) : Host.Outcome State Fault Refusal := s.nextChip fun c => if c.isn.dead then c else c.holdEnd

/-! ### Park confirmation (R407) -/

def execPlCmd (src : Source) (s : State) : Host.Outcome State Fault Refusal :=
  let w : Acc := { src := src, addr := R.SAFE.PL_CMD, val := 1 }
  s.nextGated w fun c => if c.on F.SAFE.PARK_CFG.POS_SIN_EN && !c.isn.dead then c.updIsn fun x => { x with plAt := some c.st } else c

/-- PL_T has passed without a confirmation. -/
def Chip.parkTimeout (c : Chip) : Chip :=
  match c.isn.plAt with
  | none => c
  | some t =>
    ((c.goto (t + c.get F.SAFE.PARK_CFG.PL_T * 10 * Config.ms)).raise F.SAFE.STICKY.PARK_FAIL |>.report 21 0).updIsn fun x => { x with plAt := none }

def execParkConfirmTimeout (s : State) : Host.Outcome State Fault Refusal :=
  s.nextChip fun c => if c.isn.dead then c else c.parkTimeout

/-- The position input follows its channel or pair. -/
def Chip.parkInput (c : Chip) : Chip :=
  let n := c.get F.SAFE.PARK_CFG.POS_SIN
  let on := c.on F.SAFE.PARK_CFG.POS_SIN_EN && (if c.paired n then (c.sin (n / 2 * 2)).pair else c.sinActive n)
  let was := c.on F.SAFE.PARK_STAT.POS_ACTIVE
  let c1 := c.setb F.SAFE.PARK_STAT.POS_ACTIVE on
  if !on || was then c1
  else
    let c2 := if !c1.on F.SAFE.PARK_STAT.ENGAGE_OK || c1.isn.plAt.isNone then c1.recordIsn 0x4909 none else c1
    (if c1.isn.plAt.isSome then c2.mended 21 0 else c2).updIsn fun x => { x with plAt := none }

/-! ### Safe inputs (R408–R410) -/

/-- An input or pair has entered demand: its function acts. -/
def Chip.sinDemand (c : Chip) (n : Nat) (fbA fbB : Bool) : Chip :=
  let c1 := c.raise F.SAFE.STICKY.SIN_DEMAND
  match c1.get (F.SAFE.SIN_CFG.FUNC n) with
  | 1 => c1.stoDemand 0 fbA fbB
  | 2 => if c1.isnRuns then c1.ss1Enter else c1
  | 3 => c1.brakeOn
  | 4 => c1.degrade none
  | _ => c1

/-- The pairs follow their channels (R410). -/
def Chip.pairUpdate (c : Chip) (n : Nat) : Chip :=
  let a := n / 2 * 2
  if !c.paired n then c
  else
    let aa := c.sinActive a
    let bb := c.sinActive (a + 1)
    let c1 := (c.updSin a fun x => { x with seen := x.seen || !aa, diff := if aa == bb then none else (match x.diff with | some t => some t | none => some c.st) }).updSin
      (a + 1) fun x => { x with seen := x.seen || !bb }
    let was := (c1.sin a).pair
    if was then (if aa && bb then c1 else c1.updSin a fun x => { x with pair := false })
    else if aa && bb && (c1.sin a).seen && (c1.sin (a + 1)).seen then
      (c1.updSin a fun x => { x with pair := true, seen := false }).updSin (a + 1) fun x => { x with seen := false }
    else c1

/-- A change of a channel, with the pair and the functions that follow from it. -/
def Chip.withInputs (c : Chip) (n : Nat) (fbA fbB : Bool) (f : Chip → Chip) : Chip :=
  let before := c.inputs
  let c1 := (f c).pairUpdate n
  let fell := c1.inputs.filter fun e => !e.2 && before.contains (e.1, true)
  let c2 := fell.foldl (fun (c : Chip) e => c.sinDemand e.1 fbA fbB) c1.parkInput
  if c2.degradable then c2 else c2.updIsn fun x => { x with degAt := none }

/-- A fault of an input: it is in demand (R409, R410). -/
def Chip.sinFaulted (c : Chip) (n kind seen : Nat) : Chip :=
  let c1 := ((c.raise (bitOf R.SAFE.SIN_STAT (8 + n))).clr (bitOf R.SAFE.SIN_STAT n)).updSin n fun x => { x with actRun := 0, demRun := 0 }
  if c.sinFault n then c1
  else ((c1.wr R.SAFE.SIN_FAULT_INFO (wd (n + kind * 2 ^ 4 + seen * 2 ^ 8))).report 18 n).recordIsn 0x4906 (some 18)

/-- A sample of a channel: ACTIVE, or DEMAND. -/
def Chip.sinSample (c : Chip) (n : Nat) (active : Bool) : Chip :=
  if active then
    let c1 := c.updSin n fun x => { x with actRun := min 2 (x.actRun + 1), demRun := 0 }
    if 2 ≤ (c1.sin n).actRun ∧ !c1.sinFault n then c1.raise (bitOf R.SAFE.SIN_STAT n) else c1
  else
    let c1 := (c.clr (bitOf R.SAFE.SIN_STAT n)).updSin n fun x => { x with actRun := 0, demRun := min 2 (x.demRun + 1) }
    if 2 ≤ (c1.sin n).demRun ∧ c1.isnState = isSafe then c1.clr (bitOf R.SAFE.SIN_STAT (8 + n)) else c1

/-- Input 2m + 1 of a pair with ANTI = 1 is inverted. -/
def Chip.inverted (c : Chip) (n : Nat) : Bool := n % 2 == 1 && c.paired n && c.on (F.SAFE.SIN_CFG.ANTI (n - 1))

/-- The end of a period of an input's source. -/
def Chip.sinPeriod (c : Chip) (n : Nat) (look : SinLook) (fbA fbB : Bool) : Chip :=
  if c.isn.dead then c
  else c.withInputs n fbA fbB fun c =>
    match look with
    | .high => (c.raise (bitOf R.SAFE.SIN_STAT (16 + n))).sinSample n (!c.inverted n)
    | .low => (c.clr (bitOf R.SAFE.SIN_STAT (16 + n))).sinSample n (c.inverted n)
    | .cross k => if c.on (F.SAFE.SIN_CFG.PULSED n) then (c.raise F.SAFE.STICKY.SIN_CROSS).sinFaulted n 1 k else c
    | .stuck => if c.on (F.SAFE.SIN_CFG.PULSED n) then (c.raise F.SAFE.STICKY.SIN_STUCK).sinFaulted n 2 (c.get (F.SAFE.SIN_CFG.TPS n)) else c
    | .other => c

def execSafeInputPeriod (n : Fin 8) (look : SinLook) (fbA fbB : Bool) (s : State) : Host.Outcome State Fault Refusal :=
  s.nextChip fun c => c.sinPeriod n look fbA fbB

/-- A low level outside the slots has lasted TP_W + SIN_FILT. -/
def Chip.sinLow (c : Chip) (n : Nat) (fbA fbB : Bool) : Chip :=
  if c.isn.dead || c.inverted n then c
  else c.withInputs n fbA fbB fun c =>
    ((c.clr (bitOf R.SAFE.SIN_STAT n)).clr (bitOf R.SAFE.SIN_STAT (16 + n))).updSin n fun x => { x with actRun := 0 }

def execSafeInputDemand (n : Fin 8) (fbA fbB : Bool) (s : State) : Host.Outcome State Fault Refusal := s.nextChip fun c => c.sinLow n fbA fbB

/-- The channels of a pair have differed for DISC_T. -/
def Chip.discrepancy (c : Chip) (m : Nat) (fbA fbB : Bool) : Chip :=
  let a := 2 * m
  match (c.sin a).diff with
  | none => c
  | some t =>
    if !c.paired a || c.isn.dead then c
    else
      let c1 := c.goto (t + c.get (F.SAFE.SIN_CFG.DISC_T a) * Config.ms)
      c1.withInputs a fbA fbB fun c => ((c.raise F.SAFE.STICKY.SIN_DISC).sinFaulted a 3 0).sinFaulted (a + 1) 3 0

def execSafePairDiscrepancy (m : Fin 4) (fbA fbB : Bool) (s : State) : Host.Outcome State Fault Refusal :=
  s.nextChip fun c => c.discrepancy m fbA fbB

/-- The next pulse of an enabled source: 2k × TP_W after a multiple of TP_PER of ST. -/
def Chip.tpsPulse (c : Chip) (k : Nat) : Chip :=
  if !(c.get F.SAFE.TPS_CFG.TPS_EN).testBit k || c.isn.dead then c
  else
    let unit := 10 * Config.us
    let per := c.get F.SAFE.TPS_CFG.TP_PER * unit
    let off := 2 * k * c.get F.SAFE.TPS_CFG.TP_W * unit
    let t := if per = 0 then c.st else (if c.st % per < off then c.st / per else c.st / per + 1) * per + off
    let c1 := c.goto t
    c1.updIsn fun x => { x with tps := Tab.put x.tps k c1.st }

def execTpsPulse (k : Fin 4) (s : State) : Host.Outcome State Fault Refusal := s.nextChip fun c => c.tpsPulse k

/-! ### The ISN and SAFE pages (R395, R412, R413) -/

/-- A write to a register of the ISN page, but for its CTRL. -/
def Isn.onWrite (w : Acc) (c : Chip) : Chip :=
  if w.off = 0x40 then c.storeAt w.addr (clampField w.val 0 12 1 3600)
  else if w.off = 0x70 then c.storeAt w.addr (classFloor 0 w.val)
  else if w.off = 0x74 then c.storeAt w.addr (classFloor 16 w.val)
  else if w.off = 0x54 then
    if bits w.val 31 1 = 1 && (List.range 3).any (fun i => (c.portOwner (0x1000 + bits w.val (8 * i) 8)).isSome) then c.reject w rState true
    else c.store w
  else if w.off = 0x90 then c.clearFields w.val [whole R.ISN.ENTRY_CNT]
  else c.store w

/-- A write to a register of the SAFE page, but for its CTRL. -/
def Safe.onWrite (w : Acc) (c : Chip) : Chip :=
  if w.off = 0x50 then c.storeAt w.addr (clampField w.val 24 8 1 60)
  else if w.off = 0x54 then c.storeAt w.addr (clampField w.val 0 10 100 500)
  else if w.off = 0x74 then (if bits w.val 16 16 < 8 * bits w.val 4 8 then c.reject w rParam true else c.store w)
  else if 0x80 ≤ w.off ∧ w.off < 0xA0 then
    let n := (w.off - 0x80) / 4
    c.withInputs n true true fun c => ((c.store w).clr (bitOf R.SAFE.SIN_STAT n)).updSin n fun _ => {}
  else if w.off = 0x68 then (c.store w).parkInput.watchSpeed
  else if w.off = 0x6C then (c.store w).watchSpeed
  else if w.off = 0xA0 then
    if bits w.val 0 1 = 1 && c.on F.SAFE.PARK_CFG.POS_SIN_EN && !c.isn.dead then c.updIsn fun x => { x with plAt := some c.st } else c
  else if w.off = 0xA8 then c.clearFields w.val [whole R.SAFE.SAFE_CNT]
  else c.store w

/-- A write to CTRL of the SAFE page (Table 12.7). -/
def Safe.ctrl (w : Acc) (fbA fbB : Bool) (c : Chip) : Chip :=
  let c1 := c.stoReq (w.val.getLsbD 8) fbA fbB
  let c2 := if w.val.getLsbD 11 != c1.on F.SAFE.CTRL.SBC_REL || w.val.getLsbD 11 then c1.sbcRel (w.val.getLsbD 11) else c1
  let c3 := if w.val.getLsbD 9 then c2.ss1Req w else c2
  let c4 := if w.val.getLsbD 10 then c3.stoRel w fbA fbB else c3
  if w.val.getLsbD 12 then c4.holdStart w else c4

end Sys2Proof.Machine
end

