-- ==== Sys2Proof/Machine/Late.lean ====
section
/-! DEFINITION. Events that reach into several blocks: the end of an iteration, the delivery of an effect, an ADC result and
the edges and frames of a position feedback unit (R127, R139, R167, R188, R224, R225, R230). -/

namespace Sys2Proof.Machine

/-! ### END (R98, R109, R127, R139, R495) -/

/-- The iteration of a plain pass ends: a range error traps; else the lists meet, and a library loop does its own work when
they agree (R98, R127, R148). -/
def Chip.endPlain (c : Chip) (p : Nat) (r : RunSt) (lib : LibIter) : Chip :=
  let x := c.pair p
  match (match x.a.memRej with | some o => some o | none => x.b.memRej) with
  | some o => c.trapRun p r trRange o
  | none =>
    let agreed := (r.firstDiff (comparedList r.adiv x.a.list) (comparedList r.adiv x.b.list)).isNone
    let c1 := c.finish p r
    if agreed then c1.libIter r.loop lib else c1

/-- The speculative pass commits, corrected, at an instant that its deadline has not reached (R127, R139 step 5). COMMITS counts,
and a library loop does its own work, when the cores' lists agree (R148). -/
def Chip.raCommit (c : Chip) (p : Nat) (r : RunSt) (la lb : List Word) (at_ : Nat) (lib : LibIter) : Chip :=
  let n := 2 * c.nin r.loop * c.nout r.loop + 4
  if c.raOver p r n then c.costOverrun p r (c.pair p).a.pc
  else if c.deadlineAt r.loop r.trig < max c.st at_ then c.missDeadline r.loop
  else
    let c1 := (c.goto at_).updPair p fun x => { (x.addWu n) with a := c.raCorrect r la (x.addWu n).a, b := c.raCorrect r lb (x.addWu n).b }
    let c2 := c1.updRun p fun r => { r with phase := .plain }
    let x := c2.pair p
    let agreed := (r.firstDiff (comparedList r.adiv x.a.list) (comparedList r.adiv x.b.list)).isNone
    let c3 := if agreed then c2.inc (lf F.LPD.LPD_RA_CNT.COMMITS r.loop) else c2
    let c4 := c3.finish p { r with phase := .plain }
    if agreed then c4.libIter r.loop lib else c4

/-- The run-ahead inputs are latched, and checked by an instant `checked`; a commit takes effect at `done` (R139 step 4, R143, R151,
log 60). -/
def Chip.raCheck (c : Chip) (p : Nat) (r : RunSt) (capA capB : List (Option PortSample)) (checked done : Nat) (lib : LibIter) :
    Chip :=
  let ports := c.raPorts r.loop
  let n := 2 * c.nin r.loop
  if c.raOver p r n then c.costOverrun p r (c.pair p).a.pc
  else
    let items := (List.range ports.length).map fun i =>
      let port := ports.getD i 0
      (port, ((capA.getD i none).getD (c.sample port)), ((capB.getD i none).getD (c.sample port)))
    match (c.updPair p fun x => x.addWu n).raLatch p r items with
    | (none, c1) => c1
    | (some (la, lb), c0) =>
      let c1 := c0.goto checked
      let okA := c1.raWithin r la
      let okB := c1.raWithin r lb
      let r1 := ((c1.pair p).run).getD r
      if okA && okB then c1.raCommit p r1 la lb done lib
      else
        let c2 := c1.raSquash p r1 la lb
        if okA != okB then c2.mismatch p kSplit (some (r.loop, r.slot)) (ports.headD 0) 0 else c2

/-- The last input of a speculative pass arrives before the limit of its wait and before the deadline of its iteration (R127, R139). -/
def execRaInputArrival (p : Fin 36) (capA capB : List (Option PortSample)) (arrival : RaArrival) (s : State) :
    Host.Outcome State Fault Refusal :=
  s.nextChip fun c =>
    match (c.pair p).run with
    | none => c
    | some r =>
      if r.phase = .inputWait ∧ (c.raPorts r.loop).all (fun port => c.isFresh r.loop port 0) ∧ arrival.at_ ≤ c.raLimit r then
        if c.deadlineAt r.loop r.trig < max c.st arrival.at_ then c.missDeadline r.loop
        else (c.goto arrival.at_).raCheck p r capA capB arrival.checked arrival.done arrival.lib
      else c

/-- The speculative pass has reached END: it waits for its inputs, or goes on at once when all are fresh (R139 steps 3, 4). A
range error traps (R98). -/
def Chip.endSpeculative (c : Chip) (p : Nat) (r : RunSt) (lib : LibIter) : Chip :=
  let x := c.pair p
  match (match x.a.memRej with | some o => some o | none => x.b.memRej) with
  | some o => c.trapRun p r trRange o
  | none =>
    let r1 : RunSt := { r with phase := .inputWait, specEnd := c.st }
    let c1 := c.updPair p fun x => { x with run := some r1 }
    if (c1.raPorts r.loop).all fun port => c1.isFresh r.loop port 0 then c1.raCheck p r1 [] [] c1.st c1.st lib else c1

/-- END at an instant: it wins against the deadline when it is not later (R127). -/
def Chip.cleEndAt (c : Chip) (p at_ : Nat) (lib : LibIter) : Chip :=
  match c.executing p with
  | none => c
  | some r =>
    if c.deadlineAt r.loop r.trig < max c.st at_ then c.missDeadline r.loop
    else
      let c0 := c.goto at_
      let x := c0.pair p
      if x.a.pc ≠ x.b.pc then c0.flowMismatch p r
      else c0.charged p .both (fun _ => 4) fun r c =>
        if r.phase = .speculative then c.endSpeculative p r lib else c.endPlain p r lib

def execCleEnd (p : Fin 36) (at_ : Nat) (lib : LibIter) (s : State) : Host.Outcome State Fault Refusal :=
  s.nextChip fun c => c.cleEndAt p at_ lib

/-! ### Effects (R102, R167, Table 3.7) -/

/-- The value of an effect takes effect in its block. -/
def Chip.deliver (c : Chip) (e : Effect) : Chip :=
  let t := e.target
  if e.shared then c.shmWr t e.val
  else if 0x800 ≤ t ∧ t ≤ 0x89F then c.pgPort ((t - 0x800) / 4) (t % 4) e.val
  else if 0xA10 ≤ t ∧ t ≤ 0xA17 then c.dacPort (t - 0xA10) e.val
  else if 0xB00 ≤ t ∧ t ≤ 0xB7F then c.convPort ((t - 0xB00) / 16) (t % 16) e.val
  else if 0x1000 ≤ t ∧ t ≤ 0x10FF then c.mailboxWrite (t - 0x1000) e.val
  else c

/-- The oldest effect reaches its block, which compares its epoch with the loop's (R167). -/
def Chip.deliverNext (c : Chip) : Chip :=
  match c.effects with
  | [] => c
  | e :: rest =>
    let c1 := { c with effects := rest }
    if e.epoch = c.get (fEpoch e.loop) then c1.deliver e
    else (c1.inc (whole (R.PAIRCMP.MIG_STALE_CNT e.pair))).raise (F.PAIRCMP.STICKY.MIG_STALE e.pair)

def execEffectDelivery (s : State) : Host.Outcome State Fault Refusal := s.nextChip fun c => c.deliverNext

/-! ### Results of the ADCs (R188, R231, R343, R363) -/

/-- A result is written, and goes to the resolvers, the temperature channels and the charge sequencers that use its entry. -/
def Chip.adcResultAt (c : Chip) (a : Nat) (samples : List Int) (at_ : Nat) : Chip :=
  match (c.adc a).run with
  | none => c
  | some r => match c.adcWrite a samples at_ with
    | none => c
    | some (e, c1) =>
      let s := c1.resolverResult a e r.hold
      let c2 := (s.1.thermResult a e).seqResult a e r.event r.hold
      (c2.pgSyncs s.2 r.hold).holdTrack

def execAdcResultWrite (adc : Fin 24) (samples : List Int) (at_ : Nat) (s : State) : Host.Outcome State Fault Refusal :=
  s.nextChip fun c => c.adcResultAt adc samples at_

/-! ### Edges and frames (R224, R225, R230, R238, R251, R406) -/

/-- The syncs a position brings, and the movement of a holding test. -/
def Chip.afterPosition (c : Chip × List Nat) (te : Nat) : Chip := (c.1.pgSyncs c.2 te).holdTrack

def execPfuEdge (k : Fin 6) (a b : Bool) (at_ : Nat) (s : State) : Host.Outcome State Fault Refusal :=
  s.nextChip fun c => Chip.afterPosition ((c.goto at_).edge k a b at_) at_

def execHallTransition (k : Fin 6) (code : BitVec 3) (at_ : Nat) (s : State) : Host.Outcome State Fault Refusal :=
  s.nextChip fun c => Chip.afterPosition ((c.goto at_).hall k code.toNat at_) at_

def execEncFrameReceive (k : Fin 6) (data : BitVec 48) (crc : BitVec 6) (trip : BitVec 16) (at_ : Nat) (s : State) :
    Host.Outcome State Fault Refusal :=
  s.nextChip fun c => Chip.afterPosition ((c.goto at_).frameReceive k data.toNat crc.toNat trip.toNat)
    (match (c.pfu k).frame with | some t0 => c.frameTs k t0 | none => at_)

end Sys2Proof.Machine
end

