-- ==== Sys2Proof/Machine/Pilot.lean ====
section
/-! DEFINITION. The control pilot and the proximity contact (R334–R338, R360). -/

namespace Sys2Proof.Machine

def Chip.pilotOn (c : Chip) (p : Nat) : Bool := c.on ⟨R.PILOT.CTRL p, 0, 1⟩

/-- The band of a pilot level in mV; each band includes its lower bound, and the outermost include both (R336, log 29). -/
def pilotBand (mv : Int) : Nat :=
  if 10500 ≤ mv ∧ mv ≤ 13500 then 0
  else if 7500 ≤ mv ∧ mv < 10500 then 1
  else if 4500 ≤ mv ∧ mv < 7500 then 2
  else if 1500 ≤ mv ∧ mv < 4500 then 3
  else if -1500 ≤ mv ∧ mv < 1500 then 4
  else if -13500 ≤ mv ∧ mv ≤ -10500 then 5
  else 6

/-- Allowed current in 0.1 A, DIGITAL and NOT_ALLOWED of a duty in 0.01 % (R337). -/
def dutyCurrent (d : Nat) : Nat × Bool × Bool :=
  if d < 300 then (0, false, true)
  else if d < 700 then (0, true, false)
  else if d < 800 then (0, false, true)
  else if d < 1000 then (60, false, false)
  else if d < 8500 then ((rnd (d * 6 : Nat) 100).toNat, false, false)
  else if d < 9600 then ((rnd (d - 6400 : Nat) 4).toNat, false, false)
  else if d < 9700 then (800, false, false)
  else (0, false, true)

/-- Duty in 0.01 % for an offered current in 0.1 A; 51 A belongs to the lower band (R337, log 29). -/
def offerDuty (i : Nat) : Nat :=
  if i < 60 then 0
  else if i ≤ 510 then (rnd (i * 100 : Nat) 6).toNat
  else (rnd (min i 800 * 100 : Nat) 25).toNat + 6400

/-- CP_OUT of an instance: 0 while it generates no PWM. -/
def Chip.cpOut (c : Chip) (p : Nat) : Nat :=
  if c.pilotOn p && c.on (F.PILOT.PCFG.ROLE p) && c.on (F.PILOT.CP_OFFER.PWM_ON p) then offerDuty (bits (c.rd (R.PILOT.CP_OFFER p)) 0 16) else 0

/-- What CPp_DRV gives the external driver (R335, R337): −12 V, +12 V, or the PWM of a duty in 0.01 %. -/
inductive CpDrive where
  | low
  | high
  | pwm (duty : Nat)
deriving DecidableEq, Repr

/-- CPp_DRV: low while EN = 0 and in the vehicle role; +12 V DC without PWM, which R340 states from START on (log 29). -/
def Chip.cpDrive (c : Chip) (p : Nat) : CpDrive :=
  if !c.pilotOn p || !c.on (F.PILOT.PCFG.ROLE p) then .low
  else if c.cpOut p = 0 then .high
  else .pwm (c.cpOut p)

/-- S2p_CTL is high while S2 is closed, in the vehicle role only (R335). -/
def Chip.s2Pin (c : Chip) (p : Nat) : Bool := !c.on (F.PILOT.PCFG.ROLE p) && c.on ⟨R.PILOT.CTRL p, 8, 1⟩

/-- A pilot voltage from its code, mV: (code − CP_ZERO) × CP_LSB, rounded (R335). -/
def Chip.pilotVolts (c : Chip) (p : Nat) (code : BitVec 12) : Int :=
  rnd (((code.toNat : Int) - (c.get (F.PILOT.CP_SCALE.CP_ZERO p) : Int)) * (c.get (F.PILOT.CP_SCALE.CP_LSB p) : Int)) 1000

/-- A voltage as a register holds it, mV, 16 bits signed. -/
def half16 (v : Int) : Nat := (BitVec.ofInt 16 v).toNat

/-- The diode check of a period with PWM (R336). -/
def Chip.diodeCheck (c : Chip) (p : Nat) (low : Int) (pwm : Bool) : Chip :=
  let bad := pwm && decide (-10500 < low)
  let f := F.PILOT.CP_STAT.DIODE_FAULT p
  let c1 := c.setb f bad
  if bad && !c.on f then
    ((c1.raise ⟨R.PILOT.STICKY p, 2, 1⟩).inc ⟨R.PILOT.CHG_CNT p, 16, 16⟩).recordPower 0x1C p 0x4305 ((BitVec.ofInt 48 low).toNat)
  else c1

/-- A pilot period is measured: codes of the plateaux, duty, frequency and the allowed current (R335–R337). -/
def Chip.pilotPeriod (c : Chip) (p : Nat) (high low : BitVec 12) (duty freq : Nat) (pwm : Bool) (at_ : Nat) : Chip :=
  if !c.pilotOn p then c
  else
    let c0 := c.goto at_
    let was := c0.on (F.PILOT.CP_STAT.PWM p)
    let c1 := ((c0.wr (R.PILOT.CP_LEVEL p) (wd (half16 (c0.pilotVolts p high) + half16 (c0.pilotVolts p low) * 2 ^ 16))).wr (R.PILOT.CP_DUTY p) (wd (duty + freq * 2 ^ 16))).setb
      (F.PILOT.CP_STAT.PWM p) pwm
    let ev := c1.on (F.PILOT.PCFG.ROLE p) == false
    let good := decide (9700 ≤ freq ∧ freq ≤ 10300)
    let m := if pwm && good then dutyCurrent duty else (0, false, false)
    let c2 := if ev then
        (c1.wr (R.PILOT.CP_IMAX p) (wd (m.1 + m.2.1.toNat * 2 ^ 16 + m.2.2.toNat * 2 ^ 17))).raiseIf ((pwm && !good) || (was && !pwm))
          ⟨R.PILOT.STICKY p, 3, 1⟩
      else c1
    let b := pilotBand (c0.pilotVolts p high)
    let c3 := c2.updPilot p fun x => { x with
      band := b, bandN := if b = x.band then x.bandN + 1 else 1, pwmSince := if pwm then some (x.pwmSince.getD c0.st) else none }
    (c3.diodeCheck p (c0.pilotVolts p low) pwm).pilotEval p

def execPilotPeriod (p : Fin 2) (high low : BitVec 12) (duty : BitVec 14) (freq : BitVec 16) (pwm : Bool) (at_ : Nat) (s : State) :
    Host.Outcome State Fault Refusal :=
  s.nextChip fun c => c.pilotPeriod p high low duty.toNat freq.toNat pwm at_

/-- A new band has held, with PWM for the last 3 periods, or for 3 ms without it: the code of the high plateau, or of the level (R336). -/
def Chip.pilotState (c : Chip) (p : Nat) (level : BitVec 12) : Chip :=
  let st := pilotBand (c.pilotVolts p level)
  let x := c.pilot p
  if !c.pilotOn p || c.get (F.PILOT.CP_STAT.STATE p) == st || (c.on (F.PILOT.CP_STAT.PWM p) && !(x.band == st && decide (3 ≤ x.bandN))) then c
  else
    ((((((c.updPilot p fun x => { x with stateAt := c.st }).set (F.PILOT.CP_STAT.STATE p) st).inc ⟨R.PILOT.CHG_CNT p, 0, 16⟩).raise ⟨R.PILOT.STICKY p, 1, 1⟩).raiseIf (st == 6)
      ⟨R.PILOT.STICKY p, 5, 1⟩)).pilotEval p

def execPilotStateChange (p : Fin 2) (level : BitVec 12) (s : State) : Host.Outcome State Fault Refusal :=
  s.nextChip fun c => c.pilotState p level

/-- Cable rating in A and CONNECTED of a proximity resistance (R338). -/
def ppDecode (r : Nat) : Nat × Bool :=
  if 1350 ≤ r ∧ r ≤ 1650 then (13, true)
  else if 612 ≤ r ∧ r ≤ 748 then (20, true)
  else if 198 ≤ r ∧ r ≤ 242 then (32, true)
  else if 90 ≤ r ∧ r ≤ 110 then (63, true)
  else if 4500 < r then (0, false)
  else (0, true)

/-- The proximity contact is measured (R338). -/
def Chip.ppMeasure (c : Chip) (p mv : Nat) : Chip :=
  if !c.pilotOn p || !c.on (F.PILOT.PCFG.PP_EN p) then c
  else
    let r := if 1600 ≤ mv then 0xFFFF else min (rnd (1000 * mv : Nat) (1600 - mv)).toNat 0xFFFF
    let d := ppDecode r
    let v := wd (r + d.1 * 2 ^ 16 + d.2.toNat * 2 ^ 24)
    let changed := bits v 16 9 != bits (c.rd (R.PILOT.PP_STAT p)) 16 9
    ((c.wr (R.PILOT.PP_STAT p) v).raiseIf changed ⟨R.PILOT.STICKY p, 4, 1⟩).pilotEval p

def execPpMeasure (p : Fin 2) (mv : BitVec 16) (s : State) : Host.Outcome State Fault Refusal :=
  s.nextChip fun c => c.ppMeasure p mv.toNat

/-- A session uses an instance (R360). -/
def Chip.pilotHeld (c : Chip) (p : Nat) : Bool :=
  (List.range 16).any fun s => c.inSession s && c.usesPilot s && c.get (F.CHGSEQ.SQCFG.PILOT s) == p

/-- EN of a PILOT page is written (Table 10.13). -/
def Pilot.setEn (w : Acc) (on : Bool) (c : Chip) : Chip :=
  let p := w.inst
  (c.setb ⟨R.PILOT.CTRL p, 0, 1⟩ on).set (hState (R.PILOT.ID p)) (if !on then 0 else if c.on (F.PILOT.PCFG.ROLE p) then 2 else 1)

/-- S2 of a PILOT page is written (R360). -/
def Pilot.setS2 (w : Acc) (on : Bool) (c : Chip) : Chip :=
  let f : Fld := ⟨R.PILOT.CTRL w.inst, 8, 1⟩
  if c.on f = on then c else if c.pilotHeld w.inst then c.reject w rState true else c.setb f on

/-- A write to a register of a PILOT page (R360). -/
def Pilot.onWrite (w : Acc) (c : Chip) : Chip :=
  let p := w.inst
  if w.off = 0x40 ∨ w.off = 0x44 then (if c.pilotOn p then c.reject w rState true else c.store w)
  else if w.off = 0x5C then (if c.pilotHeld p then c.reject w rState true else c.store w)
  else if w.off = 0x68 then c.clearFields w.val [whole (R.PILOT.CHG_CNT p)]
  else c.store w

end Sys2Proof.Machine
end

