-- ==== Sys2Proof/Machine/Life.lean ====
section
/-! DEFINITION. Lifetime counters, flushes, module junction temperatures, rainflow counts and damage (R462–R467, R469). -/

namespace Sys2Proof.Machine

def Chip.mod_ (c : Chip) (m : Nat) : ModSt := Tab.at c.mods {} m
def Chip.setMod (c : Chip) (m : Nat) (x : ModSt) : Chip := { c with mods := Tab.set c.mods {} m x }

/-- Registers of the LIFE page that show the module selected by MOD_SEL: 08Ch–0CCh. -/
def modReg (off : Nat) : Bool := decide (0x8C ≤ off) && decide (off ≤ 0xCC)

/-! ### Flushes (R462, R464) -/

/-- A flush starts. -/
def Chip.flushStart (c : Chip) : Chip := c.raise F.LIFE.FLUSH_STAT.BUSY

def execLifeFlushTimer (s : State) : Host.Outcome State Fault Refusal :=
  s.nextChip fun c => if c.on F.LIFE.FLUSH_STAT.BUSY then c else (c.goto (c.flushAt + 60 * Config.sec)).flushStart

/-- What a flush writes to the NV copy. -/
def Chip.lifeData (c : Chip) : LifeNv :=
  { gen := (c.lifeNv.gen + 1) % 256, sw := c.switched, shifts := c.rd R.LIFE.SHIFT_CNT, parks := c.rd R.LIFE.PARK_CNT
    contacts := c.rd R.LIFE.CTR_CNT, eIn := c.get64 R.LIFE.EIN_LO R.LIFE.EIN_HI, eOut := c.get64 R.LIFE.EOUT_LO R.LIFE.EOUT_HI
    optime := c.rd R.KENNEL.OPTIME, pcycle := c.rd R.KENNEL.PCYCLE, mods := c.mods }

/-- A flush ends: the NV copy, or FAIL and record 5204h. -/
def Chip.flushDone (c : Chip) (ok : Bool) : Chip :=
  let c1 := { c with flushAt := c.st }.clr F.LIFE.FLUSH_STAT.BUSY
  if ok then
    let nv := c.lifeData
    ((({ c1 with lifeNv := nv }.clr F.LIFE.FLUSH_STAT.FAIL).set ⟨R.LIFE.FLUSH_STAT, 24, 8⟩ nv.gen).wr R.LIFE.OPTIME_NV nv.optime).wr
      R.LIFE.PCYCLE_NV nv.pcycle
  else ((c1.raise F.LIFE.FLUSH_STAT.FAIL).raise F.LIFE.STICKY.FLUSH_FAIL).recordListed 0x19 0x5204 ((c.lifeNv.gen + 1) % 256) 0 0

def execLifeFlushDone (ok : Bool) (s : State) : Host.Outcome State Fault Refusal :=
  s.nextChip fun c => if c.on F.LIFE.FLUSH_STAT.BUSY then c.flushDone ok else c

/-- FLUSH_STAT: seconds since the last flush beside the flags. -/
def Chip.flushView (c : Chip) : Word := putBits (c.rd R.LIFE.FLUSH_STAT) 0 16 (min 65535 ((c.st - c.flushAt) / Config.sec))

/-- WAKE_CFG PWR_OFF: the lifetime data is flushed, then KEN_PWREN falls (R385, R464). -/
def Chip.powerOff (c : Chip) : Chip := (c.flushDone true).updKen fun k => { k with pwren := false }

/-- A write of WAKE_CFG. -/
def Chip.wakeCfg (c : Chip) (w : Acc) : Chip :=
  let c1 := Kennel.onWrite w c
  if bits w.val 8 1 = 1 then c1.powerOff else c1

def execPowerOff (src : Source) (s : State) : Host.Outcome State Fault Refusal :=
  let w : Acc := { src := src, addr := R.KENNEL.WAKE_CFG, val := putBits (s.chip.rd R.KENNEL.WAKE_CFG) 8 1 1 }
  s.nextGated w fun c => c.wakeCfg w

/-! ### Damage (R466, R467) -/

/-- Damage of a bin per full cycle, from the module's table. -/
def Chip.damageOf (c : Chip) (m bin : Nat) : Nat := (c.rd (win (bin + 128 * c.get (F.LIFE.MOD_CFG.DMG_TAB.win m)) R.LIFE.TAB_DATA)).toNat

/-- DMG of a module in units of 2^-48, cut to 64 bits. -/
def ModSt.damage (x : ModSt) : Nat := min (2 ^ 64 - 1) (x.dmg / 2)

/-- Half cycles are added to a bin, with their damage; the first pass of DMG_WARN writes record 5205h. -/
def Chip.addHalves (c : Chip) (m bin n : Nat) : Chip :=
  let x := c.mod_ m
  let dmg := x.dmg + n * c.damageOf m bin
  let y := { x with hist := Tab.set x.hist 0 bin (min 0xFFFFFFFF (Tab.at x.hist 0 bin + n)), dmg := dmg }
  let c1 := (c.setMod m y).set64 (win m R.LIFE.DMG_LO) (win m R.LIFE.DMG_HI) y.damage
  if !x.warned && decide (bits (c.rd (win m R.LIFE.DMG_WARN)) 0 16 * 2 ^ 32 < y.damage) then
    ((c1.setMod m { y with warned := true }).raise F.LIFE.STICKY.DMG_WARN).recordListed 0x19 0x5205 m (y.damage / 2 ^ 32) 0
  else c1

/-- The bin of a range between two turning points, 1/16 °C; a bin width of 0, for which no bin is stated, gives a free one
(log 34). -/
def Chip.cycleBin (c : Chip) (m : Nat) (a b : Int) : Nat × Chip :=
  let dt := c.get (F.LIFE.RF_CFG.DT_BIN.win m)
  let mb := c.get (F.LIFE.RF_CFG.MEAN_BIN.win m)
  let base := c.geti (F.LIFE.RF_CFG.MEAN_BASE.win m)
  if dt = 0 ∨ mb = 0 then let d := c.draw; ((Config.freeWord d.1).toNat % 128, d.2)
  else
    let bd := min 15 ((a - b).natAbs / (16 * dt))
    let bm := (max 0 (min 7 ((a + b - 32 * base) / (32 * mb : Nat)))).toNat
    (bd + 16 * bm, c)

/-- A range between two turning points is counted: 2 for a closed cycle, 1 for a half cycle. -/
def Chip.countRange (c : Chip) (m : Nat) (a b : Int) (n : Nat) : Chip :=
  let d := c.cycleBin m a b
  d.2.addHalves m d.1 n

/-- The three-point method of ASTM E1049 on a residue, newest point first: a range that contains the starting point counts as a
half cycle, another as a closed cycle. -/
def Chip.rainflow (c : Chip) (m : Nat) : Nat → List Int → List Int × Chip
  | 0, l => (l, c)
  | fuel + 1, l =>
    match l with
    | p3 :: p2 :: p1 :: rest =>
      if (p3 - p2).natAbs < (p2 - p1).natAbs then (l, c)
      else if rest.isEmpty then (c.countRange m p1 p2 1).rainflow m fuel [p3, p2]
      else (c.countRange m p1 p2 2).rainflow m fuel (p3 :: rest)
    | _ => (l, c)

/-- A turning point joins the residue, which holds up to 64 (R466). -/
def Chip.turningPoint (c : Chip) (m : Nat) (t : Int) : Chip :=
  let r := c.rainflow m 70 (t :: (c.mod_ m).points)
  let l := r.1
  if l.length ≤ 64 then r.2.setMod m { r.2.mod_ m with points := l }
  else
    let c1 := r.2.countRange m (l.getD (l.length - 1) 0) (l.getD (l.length - 2) 0) 1
    c1.setMod m { c1.mod_ m with points := l.take (l.length - 1) }

/-- A new TJ: reversals smaller than GATE are ignored. -/
def Chip.rainTrack (c : Chip) (m : Nat) (t : Int) : Chip :=
  let x := c.mod_ m
  let gate : Int := (c.get (F.LIFE.RF_CFG.GATE.win m) : Nat)
  match x.ext with
  | none => c.setMod m { x with ext := some t }
  | some e =>
    match x.dir with
    | 0 =>
      if gate ≤ t - e ∧ t ≠ e then (c.setMod m { x with dir := 1, ext := some t }).turningPoint m e
      else if gate ≤ e - t ∧ t ≠ e then (c.setMod m { x with dir := 2, ext := some t }).turningPoint m e
      else c
    | 1 =>
      if e ≤ t then c.setMod m { x with ext := some t }
      else if gate ≤ e - t then (c.setMod m { x with dir := 2, ext := some t }).turningPoint m e
      else c
    | _ =>
      if t ≤ e then c.setMod m { x with ext := some t }
      else if gate ≤ t - e then (c.setMod m { x with dir := 1, ext := some t }).turningPoint m e
      else c

/-! ### Junction temperature (R465) -/

/-- The estimate of a module after 1 ms: TJ, TJ_MAX and the rainflow count. A channel in FAULT holds TJ. -/
def Chip.tjUpdate (c : Chip) (m : Nat) : Chip :=
  let ch := c.get (F.LIFE.MOD_CFG.TREF.win m)
  if !c.on (F.LIFE.MOD_CFG.EN.win m) || c.on (F.THERM.CH_FLAGS.FAULT.win ch) then c
  else
    let p : Int := ((Tab.at c.mailbox 0 (c.get (F.LIFE.MOD_CFG.PLOSS.win m))).toNat : Nat)
    let n := c.get (F.LIFE.MOD_CFG.NSTAGE.win m)
    let x := c.mod_ m
    let theta := (List.range n).foldl (fun (t : Tab Int) i =>
      let d : Int := (Config.decay (c.rd (win m (R.LIFE.STAGE_TAU i))).toNat : Nat)
      let r : Int := ((c.rd (win m (R.LIFE.STAGE_R i))).toNat : Nat)
      Tab.set t 0 i ((Tab.at t 0 i * d + r * p * (2 ^ 32 - d)) / 2 ^ 32)) x.theta
    let sum := (List.range n).foldl (fun (a : Int) i => a + Tab.at theta 0 i) 0
    let tj := max (-32768) (min 32767 (c.tempOf ch + sum * 16 / 1000000000))
    let c1 := (c.setMod m { x with theta := theta }).wr (win m R.LIFE.TJ) (wd ((tj + 65536) % 65536).toNat)
    let top := signed 16 (c1.rd (win m R.LIFE.TJ_MAX)).toNat
    let c2 := if top < tj then c1.wr (win m R.LIFE.TJ_MAX) (wd ((tj + 65536) % 65536).toNat) else c1
    c2.rainTrack m tj

def execModuleTjUpdate (m : Fin 8) (s : State) : Host.Outcome State Fault Refusal := s.nextChip fun c => c.tjUpdate m

/-- MOD_RESET: accepted only while Isaenaim is in SAFE (R467). -/
def Chip.modReset (c : Chip) (w : Acc) : Chip :=
  let m := bits (c.rd R.LIFE.MOD_SEL) 0 3
  if bits w.val 0 1 = 0 then c
  else if c.on (hState R.ISN.ID) then c.reject w rSafety false
  else
    let x := c.mod_ m
    let c1 := c.setMod m { theta := x.theta }
    let c2 := (c1.set64 (win m R.LIFE.DMG_LO) (win m R.LIFE.DMG_HI) 0).wr (win m R.LIFE.TJ_MAX) 0x8000
    c2.recordListed 0x19 0x5206 m (x.damage / 2 ^ 32) 0

def execModReset (src : Source) (s : State) : Host.Outcome State Fault Refusal :=
  let w : Acc := { src := src, addr := R.LIFE.MOD_RESET, val := 1 }
  s.nextGated w fun c => c.modReset w

/-! ### Writes of the LIFE page (R469) -/

/-- A write of MOD_CFG: NSTAGE 1–4 and TREF 0–55; with EN = 1 only a write that clears EN and changes nothing else is accepted
(log 34). -/
def Chip.modCfg (c : Chip) (w : Acc) (m : Nat) : Chip :=
  let a := win m R.LIFE.MOD_CFG
  let v := w.val &&& 0xFF07C03F#32
  if c.on (F.LIFE.MOD_CFG.EN.win m) then
    if v = c.rd a then c else if v = c.rd a &&& ~~~0x8000#32 then c.wr a v else c.reject w rState true
  else if bits v 16 3 = 0 ∨ 4 < bits v 16 3 ∨ 55 < bits v 0 6 then c.reject w rParam true
  else c.wr a v

/-- A module that names a damage table is enabled. -/
def Chip.tableBusy (c : Chip) (t : Nat) : Bool :=
  (List.range 8).any fun m => c.on (F.LIFE.MOD_CFG.EN.win m) && c.get (F.LIFE.MOD_CFG.DMG_TAB.win m) == t

/-- A write to the LIFE page. -/
def Life.onWrite (w : Acc) (c : Chip) : Chip :=
  let m := bits (c.rd R.LIFE.MOD_SEL) 0 3
  let o := w.off
  if o = 0x40 then (if bits w.val 0 1 = 1 then c.flushStart else c)
  else if o = 0x8C then c.modCfg w m
  else if (0x90 ≤ o ∧ o ≤ 0xAC) ∨ o = 0xB8 then
    if c.on (F.LIFE.MOD_CFG.EN.win m) then c.reject w rState true
    else if o ≠ 0xB8 ∧ o % 8 = 4 ∧ (w.val.toNat < 1000 ∨ 100000000 < w.val.toNat) then c.reject w rParam true
    else c.storeAt (win m w.addr) w.val
  else if o = 0xC4 ∨ o = 0xC8 then c.storeAt (win m w.addr) w.val
  else if o = 0xD4 then
    let k := bits (c.rd R.LIFE.TAB_SEL) 0 8
    if c.tableBusy (k / 128) then c.reject w rState true else c.storeAt (win k w.addr) w.val
  else if o = 0xD8 then c.modReset w
  else c.store w

def execFlushCmd (src : Source) (s : State) : Host.Outcome State Fault Refusal :=
  let w : Acc := { src := src, addr := R.LIFE.FLUSH_CMD, val := 1 }
  s.nextGated w (Life.onWrite w)

/-- HIST_DATA: half cycles of the selected bin. -/
def Chip.histView (c : Chip) : Word :=
  let m := bits (c.rd R.LIFE.MOD_SEL) 0 3
  wd (Tab.at (c.mod_ m).hist 0 (bits (c.rd (win m R.LIFE.HIST_SEL)) 0 7))

/-- The count of turn-ons of the selected leg, 48 bits; 0 for a leg that does not exist. -/
def Chip.switchCount (c : Chip) : Nat := Tab.at c.switched 0 (bits (c.rd R.LIFE.SW_SEL) 0 6)

end Sys2Proof.Machine
end

