-- ==== Sys2Proof/Machine/Memory.lean ====
section
/-! DEFINITION. Program-image banks (R110–R115, R470, R477) and the memories a host reaches through the CLE page (R119–R121). -/

namespace Sys2Proof.Machine

/-! ### Banks -/

/-- The inactive bank: the other one than the active bank; with none active, the one ACTIVE_BANK does not name (log 37). -/
def Chip.inactive (c : Chip) : Nat := 1 - (match c.active with | some b => b | none => bits (c.rd R.NVM.ACTIVE_BANK) 0 1)

def Chip.bankOf (c : Chip) (b : Nat) : Bank := if b = 0 then c.bankA else c.bankB
def Chip.genOf (c : Chip) (b : Nat) : Nat := if b = 0 then c.genA else c.genB
def Chip.sealOf (c : Chip) (b : Nat) : Option Seal := if b = 0 then c.sealA else c.sealB

/-- A_VALID or B_VALID. -/
abbrev bankValid (b : Nat) : Fld := ⟨R.NVM.BANK_STAT, b, 1⟩

/-- A write of PROG_DATA: the word goes to the inactive bank, which becomes invalid; PROG_ADDR moves on (R114, R477). -/
def Chip.progData (c : Chip) (v : Word) : Chip :=
  let k := bits (c.rd R.NVM.PROG_ADDR) 2 20
  let b := c.inactive
  let c1 := if b = 0 then { c with bankA := Tab.set c.bankA 0 k v, genA := c.genA + 1 }
    else { c with bankB := Tab.set c.bankB 0 k v, genB := c.genB + 1 }
  (c1.clr (bankValid b)).wr R.NVM.PROG_ADDR (wd ((k + 1) % 2 ^ 20 * 4))

/-- DIGEST of a bundle. -/
def bundleDigest (m : Bank) : List Nat := (List.range 32).map fun k => bankByte m (bundleLen m - 96 + k)

/-- DIGEST equals the SHA-256 of bytes 0 to TOTAL_LEN − 97; no bundle is longer than 2,621,440 bytes (R110, R111). -/
def digestOk (m : Bank) : Bool :=
  decide (96 ≤ bundleLen m) && decide (bundleLen m ≤ 2621440) &&
    bundleDigest m == sha256 ((List.range (bundleLen m - 96)).map fun k => bankByte m k)

/-- (SIG_R, SIG_S) of a bank verify under the public key in slot KEY_ID of the key store: the slot is loaded and the store not
fenced (R111, R181). The hash of the signed bytes is DIGEST, which step 1 has compared with it. -/
def Chip.signatureOk (c : Chip) (m : Bank) : Bool :=
  let slot := bundleKey m
  let part (o : Nat) : Nat := beNat ((List.range 32).map fun k => bankByte m (bundleLen m - o + k))
  decide (slot < 8) && c.sec.loaded.contains slot && c.get secState != 2 &&
    ecdsaOk (c.keyNumber slot 0 8) (c.keyNumber slot 8 8) (beNat (bundleDigest m)) (part 64) (part 32)

/-- The failing check of a bank (Table 14.8), or 0: digest, signature, loader check, MIN_DIE_REV. -/
def Chip.bankCheck (c : Chip) (b : Nat) : Nat :=
  let m := c.bankOf b
  let rev := bits (c.rd R.SYS.DEV_REV) 0 8
  if !digestOk m then 1
  else if !c.signatureOk m then 2
  else if !bundleOk m 255 then 3
  else if rev < bundleDieRev m then 4
  else 0

/-- A successful authentication: the bank is valid, and its seal is stored (R477). -/
def Chip.bankPass (c : Chip) (b : Nat) : Chip :=
  let x : Seal := { digest := bundleDigest (c.bankOf b), gen := c.genOf b }
  let c1 := c.raise (bankValid b)
  if b = 0 then { c1 with sealA := some x } else { c1 with sealB := some x }

/-- AUTH_CMD starts the authentication of the inactive bank; one in progress refuses it with STATE (R12, R470). -/
def Chip.authCmd (c : Chip) (w : Acc) : Chip :=
  if bits w.val 0 1 = 0 then c
  else if c.on F.NVM.AUTH_STAT.BUSY then c.reject w rState false
  else (c.wr R.NVM.AUTH_STAT 1).raise F.NVM.BANK_STAT.AUTH_BUSY

/-- The authentication ends with PASS or its failing check (R470). -/
def Chip.authDone (c : Chip) (at_ : Nat) : Chip :=
  if !c.on F.NVM.AUTH_STAT.BUSY then c
  else
    let b := c.inactive
    let r := c.bankCheck b
    let c1 := (c.goto at_).clr F.NVM.BANK_STAT.AUTH_BUSY
    if r = 0 then ((c1.wr R.NVM.AUTH_STAT 6).raise (hSticky R.NVM.ID 1)).bankPass b |>.tokenWrite
    else ((c1.wr R.NVM.AUTH_STAT (wd (2 + r * 256))).raise (hSticky R.NVM.ID 2)).clr (bankValid b)

def execAuthDone (at_ : Nat) (s : State) : Host.Outcome State Fault Refusal := s.nextChip fun c => c.authDone at_

/-- COMMIT_VERSION: MIN_VERSION takes the active bundle's VERSION; refused with STATE when no bank is active (R115). -/
def Chip.commitVersion (c : Chip) (w : Acc) : Chip :=
  if bits w.val 0 1 = 0 then c
  else match c.bank with
    | none => c.reject w rState false
    | some m =>
      let v := max (c.rd R.NVM.MIN_VERSION).toNat (bundleVersion m)
      if v = (c.rd R.NVM.MIN_VERSION).toNat then c else (c.wr R.NVM.MIN_VERSION (wd v)).tokenWrite

/-- A write to the NVM page. -/
def Nvm.onWrite (w : Acc) (c : Chip) : Chip :=
  match w.off with
  | 0x44 => let c1 := c.store w; if c1.rd R.NVM.ACTIVE_BANK = c.rd R.NVM.ACTIVE_BANK then c1 else c1.tokenWrite
  | 0x4C => c.commitVersion w
  | 0x54 => c.progData w.val
  | 0x58 => c.authCmd w
  | _ => c.store w

/-- A write to a register of the NVM page, as a state. -/
def State.nvmWrite (s : State) (src : Source) (addr : Nat) (v : Word) : State :=
  s.gated { src := src, addr := addr, val := v } (Nvm.onWrite { src := src, addr := addr, val := v })

def execProgDataWrite (src : Source) (v : Word) (s : State) : Host.Outcome State Fault Refusal := .next (s.nvmWrite src R.NVM.PROG_DATA v)

def execAuthCmd (src : Source) (s : State) : Host.Outcome State Fault Refusal := .next (s.nvmWrite src R.NVM.AUTH_CMD 1)

def execCommitVersion (src : Source) (s : State) : Host.Outcome State Fault Refusal := .next (s.nvmWrite src R.NVM.VER_CMD 1)

/-! ### Memories of a pair (R119–R121) -/

/-- The loop to which a word of a pair's data memory belongs. -/
def Chip.dmemOwner (c : Chip) (p a : Nat) : Option Nat :=
  (c.loopsOn p).find? fun l => decide (c.dbase l ≤ a) && decide (a < c.dbase l + c.dlen l)

/-- A host write to DMEM_DATA: refused with STATE at a word of a loop that is not OPEN, which leaves DMEM_ADDR as it is (R120,
log 84). -/
def Chip.dmemWrite (c : Chip) (w : Acc) : Chip :=
  let p := w.inst
  let a := bits (c.rd (R.CLE.DMEM_ADDR p)) 0 13
  let closed : Bool := match c.dmemOwner p a with | some l => c.get (fState l) != lsOpen | none => false
  if closed then c.reject w rState true
  else (c.updPair p fun x => x.store a w.val).wr (R.CLE.DMEM_ADDR p) (wd ((a + 1) % 8192))

/-- A read of DMEM_DATA. -/
def Chip.dmemRead (c : Chip) (p : Nat) : Chip :=
  let a := bits (c.rd (R.CLE.DMEM_ADDR p)) 0 13
  (c.wr (R.CLE.DMEM_ADDR p) (wd ((a + 1) % 8192))).answer (Tab.at (c.pair p).dmemA 0 a)

/-- A read of PMEM_DATA. -/
def Chip.pmemRead (c : Chip) (p : Nat) : Chip :=
  let a := bits (c.rd (R.CLE.PMEM_ADDR p)) 0 14
  (c.wr (R.CLE.PMEM_ADDR p) (wd ((a + 1) % 16384))).answer (Tab.at (c.pair p).pmemA 0 a)

/-- The next word of SHM_ADDR. -/
def Chip.shmNext (c : Chip) (p a : Nat) : Chip := c.wr (R.CLE.SHM_ADDR p) (wd ((a + 1) % 2 ^ 20))

/-- A host write to SHM_DATA, whatever the loops' states (R121). -/
def Chip.shmWrite (c : Chip) (p : Nat) (v : Word) : Chip :=
  let a := bits (c.rd (R.CLE.SHM_ADDR p)) 0 20
  (c.shmWr a v).shmNext p a

/-- A read of SHM_DATA: a single-bit error is corrected and recorded; a double-bit error returns 0 and sets ECC_DED (R121). -/
def Chip.shmRead (c : Chip) (p : Nat) (mf : MemFault) : Chip :=
  let a := bits (c.rd (R.CLE.SHM_ADDR p)) 0 20
  let c1 := c.shmNext p a
  match mf with
  | .single => ((c1.wr (R.CLE.ECC_INFO p) (wd a)).raise (F.CLE.STICKY.ECC_CE p)).answer (c.shmRd a)
  | .double => ((c1.wr (R.CLE.ECC_INFO p) (wd (a + 2 ^ 20))).raise (F.CLE.STICKY.ECC_DED p)).answer 0
  | _ => c1.answer (c.shmRd a)

/-- A write to the CLE page. -/
def Cle.onWrite (w : Acc) (c : Chip) : Chip :=
  match w.off with
  | 0x68 =>
    if bits w.val 0 1 = 1 then c.wr (win (bits (c.rd (R.CLE.SLOT_SEL w.inst)) 0 4) (R.CLE.SLOT_WU_MAX w.inst)) 0 else c
  | 0x80 => c.dmemWrite w
  | 0x90 => c.shmWrite w.inst w.val
  | _ => c.store w

/-- A write to a register of the CLE page, as a state. -/
def State.cleWrite (s : State) (src : Source) (addr : Nat) (v : Word) : State :=
  s.gated { src := src, addr := addr, val := v } (Cle.onWrite { src := src, addr := addr, val := v })

def execDmemWrite (src : Source) (p : Fin 36) (v : Word) (s : State) : Host.Outcome State Fault Refusal :=
  .next (s.cleWrite src (R.CLE.DMEM_DATA p) v)

def execDmemRead (src : Source) (p : Fin 36) (s : State) : Host.Outcome State Fault Refusal := s.nextRead src fun c => c.dmemRead p

def execPmemRead (src : Source) (p : Fin 36) (s : State) : Host.Outcome State Fault Refusal := s.nextRead src fun c => c.pmemRead p

def execShmWrite (src : Source) (p : Fin 36) (v : Word) (s : State) : Host.Outcome State Fault Refusal :=
  .next (s.cleWrite src (R.CLE.SHM_DATA p) v)

def execShmRead (src : Source) (p : Fin 36) (mf : MemFault) (s : State) : Host.Outcome State Fault Refusal :=
  s.nextRead src fun c => c.shmRead p mf

def execSlotClear (src : Source) (p : Fin 36) (s : State) : Host.Outcome State Fault Refusal := .next (s.cleWrite src (R.CLE.SLOT_CLR p) 1)

end Sys2Proof.Machine
end

