-- ==== Sys2Proof/Machine/Start.lean ====
section
/-! DEFINITION. Resets, cold and warm starts, failed starts, escalation and SAFE-HOLD (R471–R484, Chapter 15). -/

namespace Sys2Proof.Machine

def Chip.updStart (c : Chip) (f : StartSt → StartSt) : Chip := { c with start := f c.start }

/-! ### Resets (R378, R472, R473) -/

/-- A register that a reset leaves as it is: the Kennel, the identity of the device, and values held in NV memory. -/
def keptReg (a : Nat) : Bool :=
  isKennelReg a || a == R.SYS.UID_LO || a == R.SYS.UID_HI || a == R.SYS.DEV_REV || a == R.SYS.CAPS || a == R.SYS.RESET_CAUSE ||
    (decide (R.SEC.DEV_PUB 0 ≤ a) && decide (a ≤ R.SEC.DEV_PUB 15)) || a == R.NVM.ACTIVE_BANK || a == R.NVM.MIN_VERSION

/-- A calibration that a warm start keeps when its CRC-32 is valid (Table 15.2). -/
def calReg (a : Nat) : Bool := a == R.THERM.XT_TRIM || a == R.THERM.REF_STAT || a == R.THERM.DL_STAT

/-- A lifetime value in the power-interface die (Table 15.2). -/
def lifeReg (a : Nat) : Bool :=
  let b := a % 0x1000000
  aCls b == 0x19 && (decide (0x5C ≤ aOff b) && decide (aOff b ≤ 0x74) || aOff b == 0xB4 || aOff b == 0xBC || aOff b == 0xC0)

/-- The validity of the banks and their versions, which a warm start keeps (Table 15.4, W10). -/
def bankReg (a : Nat) : Bool := a == R.NVM.BANK_STAT || a == R.NVM.VER_A || a == R.NVM.VER_B

/-- The lifetime counters as the newer valid NV copy holds them (R464). -/
def Chip.lifeLoad (c : Chip) : Chip :=
  let nv := c.lifeNv
  let c1 := (((({ c with switched := nv.sw, mods := nv.mods }.wr R.LIFE.SHIFT_CNT nv.shifts).wr R.LIFE.PARK_CNT nv.parks).wr R.LIFE.CTR_CNT
    nv.contacts).set64 R.LIFE.EIN_LO R.LIFE.EIN_HI nv.eIn).set64 R.LIFE.EOUT_LO R.LIFE.EOUT_HI nv.eOut
  upto 8 (fun c m => c.set64 (win m R.LIFE.DMG_LO) (win m R.LIFE.DMG_HI) (c.mod_ m).damage) c1

/-- What a reset keeps beside the NV memory and the Kennel. -/
structure Kept where
  /-- The reset came through PORST_N or a brown-out: the fence, the scan access and the watchdog latch are cleared. -/
  porst : Bool
  /-- Lifetime values, calibrations, and the validity of the banks are kept. -/
  life : Bool
  cal : Bool
  warm : Bool

/-- A register survives the reset. -/
def Kept.reg (k : Kept) (a : Nat) : Bool :=
  keptReg a || (k.life && lifeReg a) || (k.cal && calReg a) || (k.warm && bankReg a) || (!k.porst && a == R.BIST.SCAN_STATUS)

/-- The device after a reset (Table 15.2): pages at their reset values, ST 0, NV memory and Kennel kept; a watchdog latch that
stands shows in WD_STAT and as a demand (R391). -/
def Chip.afterReset (c : Chip) (k : Kept) : Chip :=
  let fenced := c.fenced && !k.porst
  let ages : Tab PairSt := c.pairs.foldl (fun (t : Tab PairSt) (e : Nat × PairSt) =>
    Tab.set t {} e.1 { lastPass := (e.2.lastPass).map fun x => x - c.st }) []
  let c0 : Chip :=
    { phase := c.phase
      regs := c.regs.filter fun e => k.reg e.1
      fresh := c.fresh, tapIr := c.tapIr, tapDr := c.tapDr, tapScan := c.tapScan, tapHold := c.tapHold, parts := c.parts, bankA := c.bankA, bankB := c.bankB
      active := if k.warm then c.active else none
      retiredNv := c.retiredNv
      released := if k.warm then c.released else []
      pairs := if k.warm then ages else []
      ken := { c.ken with base := c.kenNow }
      isn := { wdFired := c.isn.wdFired && !k.porst }
      el := { nv := c.el.nv }
      sec := { c.sec with buf := [] }
      lifeNv := c.lifeNv, genA := c.genA, genB := c.genB, sealA := c.sealA, sealB := c.sealB, start := c.start
      switched := c.switched, mods := c.mods, refCorr := if k.cal then c.refCorr else [] }
  let c1 := if k.life then c0 else c0.lifeLoad
  let c2 := upto 36 (fun c p =>
    if c.retiredNv.contains p || c.released.contains p then ((c.raise (F.CLE.PAIR_INFO.RETIRED p)).set (F.PAIRCMP.STATUS.STATE p) psRetired).showPair p else c) c1
  let c3 := if c2.on F.SYS.CAPS.GRADE_IND then upto 56 (fun c ch => c.wr (win ch R.THERM.CH_LIM) 0x07D00730) c2 else c2
  let c4 := if c3.isn.wdFired then (c3.raise F.ISN.WD_STAT.FIRED).raise ⟨R.SAFE.STO_STAT, 11, 1⟩ else c3
  c4.set secState (if fenced then 2 else if c.sec.closed then 1 else 0)

/-- A reset through PORST_N, and one for a cold start that did not come through it. -/
def keptPorst : Kept := { porst := true, life := false, cal := false, warm := false }
def keptCold : Kept := { porst := false, life := false, cal := false, warm := false }

/-- The reset state between WRST_N and the start it leads to: what a warm start may keep is still there. -/
def keptWrst : Kept := { porst := false, life := true, cal := true, warm := true }

/-! ### PORST_N, brown-outs, WRST_N (R471, R472, R480) -/

/-- PORST_N low for 100 ms or more clears the escalation state (R480). -/
def Chip.clearEscalation (c : Chip) : Chip :=
  c.updStart fun x => { x with warmFails := [], coldFails := [], steps := [], esc := false, hold := false }

/-- PORST_N low; in SAFE-HOLD a pulse shorter than 100 ms is ignored (R483). `torn` is what the power loss leaves of a record write
in progress (R458). -/
def Chip.porst (c : Chip) (long : Bool) (torn : Option Torn) : Chip :=
  if c.phase = .safeHold ∧ long = false then c
  else
    let c1 := ((c.tear torn).afterReset keptPorst).updStart fun x => { x with cause := 1 }
    { (if long then c1.clearEscalation else c1) with phase := .held }

/-- A start fails (R479–R482): its 5602h record waits for the next start, and the times of the last three decide what comes next. -/
def Chip.startFail (c : Chip) (warm : Bool) (step : Nat) : Chip :=
  let now := c.kenNow
  let newest (l : List Nat) : List Nat := (now :: l).take 3
  let third (l : List Nat) (t : Nat) : Bool := match l with | [_, _, a] => decide (now ≤ a + t) | _ => false
  { c with
    phase := .failed
    start := { c.start with
      failAt := c.st
      lastWarm := warm
      pend := c.start.pend ++ [(0x5602, warm.toNat, step, 0)]
      warmFails := if warm then newest c.start.warmFails else c.start.warmFails
      coldFails := if warm then c.start.coldFails else newest c.start.coldFails
      steps := if warm then c.start.steps else (step :: c.start.steps).take 3
      esc := warm && third (newest c.start.warmFails) (10 * Config.sec)
      hold := !warm && third (newest c.start.coldFails) (60 * Config.sec) } }

/-- A brown-out: as PORST_N, but a start in progress has failed, in a step that the spec does not tell (log 43). -/
def Chip.brownOut (c : Chip) (long : Bool) (torn : Option Torn) : Chip :=
  let c0 := c.updStart fun x => { x with supplies := false }
  if c.phase = .cold ∨ c.phase = .warm then
    let d := c0.draw
    (d.2.startFail (c.phase == .warm) ((Config.freeWord d.1).toNat % 16)).porst long torn
  else c0.porst long torn

/-- WRST_N rises after a low of 1 µs or more; it is ignored but in service with SCAN_OPEN = 0 (R472, R476). -/
def Chip.wrst (c : Chip) : Chip :=
  if c.phase ≠ .ready ∨ c.on F.BIST.SCAN_STATUS.SCAN_OPEN then c
  else
    let warm := c.start.kcOk && c.on F.KENNEL.KSTAT.TOKEN_VALID
    let c1 := ((c.tear none).afterReset keptWrst).updStart fun x =>
      { x with cause := if warm then 6 else 2, reserves := c.reserves }
    { c1 with phase := if warm then .warmHeld else .held }

/-! ### SAFE-HOLD (R483) -/

/-- System Time is set to 0 (R21). -/
def Chip.zeroTime (c : Chip) : Chip := { c with st := 0, ken := { c.ken with base := c.kenNow } }

/-- The device enters SAFE-HOLD: no start, so System Time goes on (R21, R482). -/
def Chip.safeHoldEntry (c : Chip) : Chip :=
  let c1 := { ({ c.afterReset keptCold with st := c.st, ken := c.ken }).checkRecorder with phase := .safeHold }
  let c2 := (c1.set (hState R.SYS.ID) 3).wr R.SYS.RESET_CAUSE 16
  let l := c2.start.steps
  c2.recordListed 0x00 0x490B (l.getD 2 0) (l.getD 1 0) (l.getD 0 0)

/-! ### Shared steps -/

/-- The records that waited for the recorder check are written (R479). -/
def Chip.pendRecords (c : Chip) : Chip :=
  c.start.pend.foldl (fun (c : Chip) (e : Nat × Nat × Nat × Nat) => c.recordListed 0x00 e.1 e.2.1 e.2.2.1 e.2.2.2) (c.updStart fun x => { x with pend := [] })

/-- A record that waits for the recorder check. -/
def Chip.later (c : Chip) (code a b k : Nat) : Chip := c.updStart fun x => { x with pend := x.pend ++ [(code, a, b, k)] }

/-- A rejected patch of the HKE: record 5605h, and the start goes on from ROM alone (R484). -/
def Chip.patchCheck (c : Chip) (bad : Option (Fin 3)) : Chip :=
  match bad with | some k => c.later 0x5605 (k + 1) 0 0 | none => c

/-- The host ports open (C4, W5). -/
def Chip.openPorts (c : Chip) (warm : Bool) : Chip :=
  let c1 := ({ c with phase := if warm then .warm else .cold }.set (hState R.SYS.ID) warm.toNat).wr R.SYS.RESET_CAUSE (wd c.start.cause)
  (c1.wr R.SEC.RNG_STAT 1).checkRecorder.pendRecords

/-- The logic self-test of a pair at a start, with what cores A and B show (R161, R170). -/
def Chip.startTest (c : Chip) (bad : List (Fin 36 × Bool × Bool)) (cause p : Nat) : Chip :=
  let r := match bad.find? fun e => e.1.val == p with | some e => e.2 | none => (false, false)
  ((c.updPair p fun x => { x with cause := cause }).set (F.PAIRCMP.STATUS.STATE p) psTest).verdict p r.1 r.2 none

/-- A tested pair takes its place: it is no reserve until one is designated. -/
def Chip.takePlace (c : Chip) (p : Nat) : Chip :=
  if c.on (F.CLE.PAIR_INFO.RESERVE p) then ((c.clr (F.CLE.PAIR_INFO.RESERVE p)).set (F.PAIRCMP.STATUS.STATE p) psIdle).showPair p else c

/-- The highest-numbered non-retired pair of a region. -/
def Chip.topPair (c : Chip) (g : Nat) : Option Nat :=
  ((List.range 36).filter fun p => regionOf p == g && !c.on (F.CLE.PAIR_INFO.RETIRED p)).getLast?

/-- The reserves of a cold start: the top pairs of RG2, RG4, RG6 and RG8, until 32 pairs remain assignable (R163). -/
def Chip.designate (c : Chip) : Chip :=
  [2, 4, 6, 8].foldl (fun (c : Chip) (g : Nat) =>
    let left := c.livePairs.filter fun p => !c.on (F.CLE.PAIR_INFO.RESERVE p)
    match c.topPair g with
    | some p => if 32 < left.length then c.toReserve p else c
    | none => c) c

/-- The CLE memories and the shared SRAM are zeroed (C6, W7). -/
def Chip.zeroMemories (c : Chip) : Chip :=
  let pairs : Tab PairSt := c.pairs.foldl (fun (t : Tab PairSt) (e : Nat × PairSt) =>
    Tab.set t {} e.1 { e.2 with pmemA := [], pmemB := [], dmemA := [], dmemB := [], poison := [] }) []
  { c with shm := [], pairs := pairs }

/-- Calibrations measured anew: first crystal trim, reference corrections, delay lines of every placer (C8, R374–R376). -/
def Chip.calibrate (c : Chip) (badLines : List (Fin 41)) (corr : List (BitVec 16)) : Chip :=
  let c1 := upto 8 (fun (c : Chip) k => c.refCorrect k (corr.getD k 0)) c.xtUpdate
  upto 41 (fun (c : Chip) p => (c.dlCalibrate p (!badLines.any fun b => b.val == p)).dlSwap p) c1

/-- A bank qualifies: valid, and its VERSION is at least MIN_VERSION (R113). -/
def Chip.qualifies (c : Chip) (b : Nat) : Bool :=
  c.on (bankValid b) && decide ((c.rd R.NVM.MIN_VERSION).toNat ≤ bundleVersion (c.bankOf b))

/-- The bank named in ACTIVE_BANK is activated, else the other one, else none (R113). -/
def Chip.activate (c : Chip) : Chip :=
  let b := bits (c.rd R.NVM.ACTIVE_BANK) 0 1
  let c1 := (c.wr R.NVM.VER_A (wd (bundleVersion c.bankA))).wr R.NVM.VER_B (wd (bundleVersion c.bankB))
  if c1.qualifies b then { c1 with active := some b }.set F.NVM.BANK_STAT.ACTIVE b
  else if c1.qualifies (1 - b) then
    ({ c1 with active := some (1 - b) }.set F.NVM.BANK_STAT.ACTIVE (1 - b)).recordListed 0x00 0x5606 (1 - b) (bundleVersion (c1.bankOf (1 - b))) 0
  else { c1 with active := none }.recordListed 0x00 0x5607 (bundleVersion c1.bankA) (bundleVersion c1.bankB) 0

/-- A bank is authenticated at a cold start (R111, R477). -/
def Chip.authStart (c : Chip) (b : Nat) : Chip :=
  if c.bankCheck b = 0 then c.bankPass b else c.clr (bankValid b)

/-- Every start leaves STO applied, and every leg in STATE STO (R393, R401, log 56). -/
def Chip.legsSto (c : Chip) : Chip :=
  upto 40 (fun c n => ((c.set (F.PG.STATUS.STATE n) lgSto).set (F.PG.PG_STAT.STATE n) lgSto).tagPg n (c.rd (R.PG.PG_STAT n))) c

/-- READY (C10, W11): SYS STATE, the record with the ms from t0, and the warm token (R474, R476, R478). -/
def Chip.reachReady (c : Chip) (code at_ : Nat) : Chip :=
  let c1 := { c.goto at_ with phase := .ready }.set (hState R.SYS.ID) 2 |>.legsSto
  let c2 := (c1.recordListed 0x00 code (c1.st / Config.ms) 0 0).tokenWrite
  c2.updStart fun x => { x with kcOk := !c2.on F.KENNEL.STICKY.KCOLD }

/-! ### Cold start (R474) -/

/-- PCYCLE counts a start with POR = 1 and goes to NV memory (R462). -/
def Chip.countCycle (c : Chip) : Chip :=
  if c.start.cause = 1 then
    let n := min (c.rd R.KENNEL.PCYCLE + 1).toNat 0xFFFFFF
    let c1 := (c.wr R.KENNEL.PCYCLE (wd n)).wr R.LIFE.PCYCLE_NV (wd n)
    { c1 with lifeNv := { c1.lifeNv with pcycle := wd n } }
  else c

/-- Number of a failing step in its record. -/
def coldStepNo : ColdStep → Nat
  | .c1 => 1 | .c2 => 2 | .c3 => 3 | .c10 => 10
def warmStepNo : WarmStep → Nat
  | .w1 => 1 | .w3 => 3 | .w4 => 4 | .w11 => 11

/-- Steps C5–C10. -/
def Chip.coldRest (c : Chip) (run : ColdRun) : Chip :=
  let live := c.livePairs
  let c1 := live.foldl (fun (c : Chip) (p : Nat) => c.startTest run.badPairs cauCold p) c
  let c2 := (live.foldl (fun (c : Chip) (p : Nat) => c.takePlace p) c1).designate
  let c3 := match run.badWord with
    | some a => (({ c2 with marchStand := some (a.toNat / 1024) }.raise (hSticky R.BIST.ID 4)).wr R.BIST.MARCH_FAIL_INFO (wd a.toNat)).report 5 0
    | none => c2
  let c4 := (run.analog.foldl (fun (c : Chip) (x : AnalogRun) => c.analogTest x) c3.zeroMemories).bandgap run.bandgap
  let c5 := ((c4.calibrate run.badLines run.corr).authStart 0).authStart 1
  let c6 := c5.activate
  match run.fail with
  | some .c10 => c6.startFail false 10
  | _ => (c6.reachReady 0x5600 run.readyAt)

/-- C11: discovery when AUTO_DISC = 1 (R422). -/
def Chip.autoDiscover (c : Chip) : Chip := if c.phase = .ready ∧ c.on F.EMGR.MGR_CFG.AUTO_DISC then c.elDiscover else c

/-- Steps C1–C4 from reset. -/
def Chip.coldFirst (c : Chip) (run : ColdRun) : Chip :=
  let c1 := (c.afterReset (if c.start.cause = 1 then keptPorst else keptCold)).patchCheck run.patchBad
  match run.fail with
  | some .c1 => c1.startFail false 1
  | some .c2 => c1.startFail false 2
  | some .c3 => c1.startFail false 3
  | _ => (c1.openPorts false).countCycle

/-- A cold start: from reset, or from step C4 where an earlier command stopped. -/
def Chip.coldStart (c : Chip) (run : ColdRun) : Chip :=
  match c.phase with
  | .held =>
    if !c.start.supplies then c
    else if c.start.hold then c.zeroTime.safeHoldEntry
    else
      let c1 := c.coldFirst run
      if c1.phase != .cold || run.atPorts then c1 else (c1.coldRest run).autoDiscover
  | .cold => (c.coldRest run).autoDiscover
  | _ => c

/-! ### Warm start (R476–R478) -/

/-- A mismatch of the token or the seal turns the start into a cold start, which is no failed start. -/
def Chip.turnCold (c : Chip) (why : Nat) : Chip :=
  { (c.updStart fun x => { x with cause := if x.cause = 6 then 2 else 0 }).later 0x5603 why 0 0 with phase := .held }

/-- The nine sample tests of step W6: in each of RG0–RG8 the non-retired pair whose last pass is oldest. -/
def Chip.samplePairs (c : Chip) : List Nat :=
  (List.range 9).filterMap fun g => c.oldest (c.livePairs.filter fun p => regionOf p == g)

/-- The seal of a bank holds (R477): its HMAC verifies, and it names the bank's digest and write generation. -/
def Chip.sealHolds (c : Chip) (b : Nat) (hmacOk : Bool) : Bool :=
  match c.sealOf b with
  | some x => hmacOk && x.digest == bundleDigest (c.bankOf b) && x.gen == c.genOf b
  | none => false

/-- Steps W6–W11. -/
def Chip.warmRest (c : Chip) (run : WarmRun) : Chip :=
  let sample := c.samplePairs
  let c1 := sample.foldl (fun (c : Chip) (p : Nat) => c.startTest run.badPairs cauCold p) c
  let c2 := sample.foldl (fun (c : Chip) (p : Nat) => c.takePlace p) c1
  let c3 := c2.start.reserves.foldl (fun (c : Chip) (p : Nat) => if c.on (F.CLE.PAIR_INFO.RETIRED p) then c else c.toReserve p) c2
  let c4 := c3.zeroMemories.bandgap run.bandgap
  let c5 := if run.calOk then c4 else c4.calibrate run.badLines run.corr
  let c6 := c5.activate
  let sound := match c6.active with | some b => c6.sealHolds b run.sealOk | none => true
  if !sound then c6.turnCold 2
  else match run.fail with
    | some .w11 => c6.startFail true 11
    | _ => c6.reachReady 0x5601 run.readyAt

/-- W12: the address is reused when NV memory holds one (R425). -/
def Chip.elReuse (c : Chip) : Chip :=
  if c.phase = .ready ∧ c.el.nv.isSome then (c.updEl fun e => { e with warmAt := some c.st }).elSetD dsProbing else c

/-- Steps W1–W5 from reset; the lifetime values and the calibrations are kept as their CRC-32 allows. -/
def Chip.warmFirst (c : Chip) (run : WarmRun) : Chip :=
  let c1 := (c.afterReset { porst := false, life := run.lifeOk, cal := run.calOk, warm := true }).patchCheck run.patchBad
  match run.fail with
  | some .w1 => c1.startFail true 1
  | f =>
    if !run.tokenOk then c1.turnCold 1
    else match f with
      | some .w3 => c1.startFail true 3
      | some .w4 => c1.startFail true 4
      | _ => c1.openPorts true

/-- A warm start: from reset, or from step W5 where an earlier command stopped. -/
def Chip.warmStart (c : Chip) (run : WarmRun) : Chip :=
  match c.phase with
  | .warmHeld =>
    let c1 := c.warmFirst run
    if c1.phase != .warm || run.atPorts then c1 else (c1.warmRest run).elReuse
  | .warm => (c.warmRest run).elReuse
  | _ => c

/-! ### Retries (R481, R482) -/

/-- After the retry delay the next start begins: SAFE-HOLD, an escalated cold start, a warm start while R476 holds, or a cold one. -/
def Chip.startRetry (c : Chip) : Chip :=
  if c.phase ≠ .failed then c
  else
    let c1 := c.goto (c.start.failAt + (if c.start.lastWarm then Config.ms else Config.sec))
    let c2 := c1.updStart fun x => { x with esc := false }
    if c.start.hold then c1.safeHoldEntry
    else if c.start.esc then
      let l := c.start.warmFails
      let t (k : Nat) : Nat := l.getD k 0 / Config.sec
      { (c2.updStart fun x => { x with cause := 8 }).later 0x5604 (t 2) (t 1) (t 0) with phase := .held }
    else if c.start.lastWarm && c.start.kcOk && c.on F.KENNEL.KSTAT.TOKEN_VALID then
      { c2.updStart fun x => { x with cause := 4 } with phase := .warmHeld }
    else { c2.updStart fun x => { x with cause := 0 } with phase := .held }

/-! ### The commands -/

/-- The host ports can be open in a phase. -/
def inService : Phase → Bool
  | .cold | .warm | .ready | .safeHold => true
  | _ => false

/-- A reset locks every page (R65, R473): the windows stand only while the ports have stayed open. -/
def State.resetBy (s : State) (f : Chip → Chip) : Host.Outcome State Fault Refusal :=
  let c := f s.chip
  .next { s with chip := c, locks := if inService s.chip.phase && inService c.phase then s.locks else [] }

def execPowerUp (s : State) : Host.Outcome State Fault Refusal :=
  s.nextChip fun c => c.updStart fun x => { x with supplies := true }

def execPorstAssert (long : Bool) (torn : Option Torn) (s : State) : Host.Outcome State Fault Refusal := s.resetBy fun c => c.porst long torn

def execBrownOut (long : Bool) (torn : Option Torn) (s : State) : Host.Outcome State Fault Refusal := s.resetBy fun c => c.brownOut long torn

def execColdStart (run : ColdRun) (s : State) : Host.Outcome State Fault Refusal := s.resetBy fun c => c.coldStart run

def execWrstRelease (s : State) : Host.Outcome State Fault Refusal := s.resetBy Chip.wrst

def execWarmStart (run : WarmRun) (s : State) : Host.Outcome State Fault Refusal := s.resetBy fun c => c.warmStart run

def execStartRetry (s : State) : Host.Outcome State Fault Refusal := s.resetBy Chip.startRetry

end Sys2Proof.Machine
end

