-- ==== Sys2Proof/Machine/Tap.lean ====
section
/-! DEFINITION. The test access port and scan access (R179–R182). -/

namespace Sys2Proof.Machine

/-- The identification register: x960_018Bh, x being DEV_REV[3:0] (R179). -/
def Chip.idCode (c : Chip) : Word := wd (bits (c.rd R.SYS.DEV_REV) 0 4 * 2 ^ 28 + 0x0960018B)

/-- An instruction is in the instruction register, and its data register captures a value. -/
def Chip.tap (c : Chip) (code : Nat) (dr : Word) : Chip := { c with tapIr := code, tapDr := dr }

/-- An instruction that connects the boundary-scan register of the digital pins: it captures the levels at them, and what is
shifted in is preloaded; while EXTEST is in the instruction register the cells drive the pins. The levels are outside of the model:
free values (R179, log 77). -/
def Chip.tapBoundary (c : Chip) (code : Nat) : Chip :=
  let d := c.draw
  let e := d.2.draw
  { e.2 with tapIr := code, tapScan := Config.pinLevels d.1, tapHold := Config.pinLevels e.1 }

/-- An instruction that is not accepted behaves as BYPASS, and an event record is written (R180, R181). -/
def Chip.tapRefuse (c : Chip) (code : Nat) : Chip := (c.tap code 0).recordOpen 20 3

def execTapTestLogicReset (s : State) : Host.Outcome State Fault Refusal := s.nextChip fun c => c.tap 0x01 c.idCode

def execTapIdcode (s : State) : Host.Outcome State Fault Refusal :=
  s.nextChip fun c => c.tap 0x01 c.idCode

def execTapSamplePreload (s : State) : Host.Outcome State Fault Refusal :=
  s.nextChip fun c => c.tapBoundary 0x02

/-- A code of Table 5.3 other than BYPASS is no BYPASS. -/
def tapListed (code : Nat) : Bool := [0x00, 0x01, 0x02, 0x08, 0x40].contains code

def execTapBypass (code : BitVec 8) (s : State) : Host.Outcome State Fault Refusal :=
  s.nextChip fun c => if tapListed code.toNat then c else c.tap code.toNat 0

/-- EXTEST is accepted only in the safe state with STO applied (R180). -/
def execTapExtest (s : State) : Host.Outcome State Fault Refusal :=
  s.nextChip fun c => if c.safeSto then c.tapBoundary 0x00 else c.tapRefuse 0x00

/-- HIGHZ, under the same condition, selects the bypass register. -/
def execTapHighz (s : State) : Host.Outcome State Fault Refusal :=
  s.nextChip fun c => if c.safeSto then c.tap 0x08 0 else c.tapRefuse 0x08

/-- The volatile keys, with key words not yet loaded, are overwritten, and the warm token is invalidated (R181 step 3); `keysZero` tells that they read back
as 0. -/
def Chip.zeroKeys (c : Chip) (keysZero : Bool) : Chip :=
  let c1 := upto 4 (fun (c : Chip) p => (c.clr (F.EPORT.PORT_STAT.AUTH_OK p)).updEport p fun x => { x with keys := 0 }) c
  let c2 := ({ c1 with sec := { c1.sec with buf := [] } }.tokenClear).clr F.SEC.RNG_STAT.SEEDED
  c2.setb F.BIST.SCAN_STATUS.KEYS_ZERO keysZero

/-- The NV key store is fenced (R181 step 4). -/
def Chip.fence (c : Chip) : Chip := (c.set secState 2).raise F.BIST.SCAN_STATUS.NV_FENCED

/-- The SCAN_ENTRY record is staged (R181 step 5); with a full staging queue it is refused, and the step fails. -/
def Chip.scanEntry (c : Chip) : Chip :=
  let full := decide (queueLen 0 ≤ (c.part 0).queue.length)
  { c.recordCode 20 0x5202 with scanStep := if full then 0 else 1 }

/-- SCANACC: steps 1–5 (R181). -/
def Chip.scanAcc (c : Chip) (standstill keysZero : Bool) : Chip :=
  if !(c.safeSto && standstill) then c.tapRefuse 0x40
  else
    let c1 := (c.tap 0x40 0).zeroKeys keysZero
    if keysZero then c1.fence.scanEntry else c1

def execTapScanacc (standstill keysZero : Bool) (s : State) : Host.Outcome State Fault Refusal :=
  s.nextChip fun c => c.scanAcc standstill keysZero

/-- The record has been written: the chains are connected (R181 step 6). -/
def Chip.scanConnect (c : Chip) : Chip :=
  if c.scanStep = 1 ∧ (c.part 0).queue = [] then
    (({ c with scanStep := 0 }.raise F.BIST.SCAN_STATUS.RECORDED).raise F.BIST.SCAN_STATUS.SCAN_OPEN).set (hState R.BIST.ID) 4
  else c

def execScanConnect (s : State) : Host.Outcome State Fault Refusal := s.nextChip Chip.scanConnect

end Sys2Proof.Machine
end

