-- ==== Sys2Proof/Machine/Vehicle.lean ====
section
/-! DEFINITION. The CAN controllers and the Ethernet MACs (R440–R442, R445, R446). What message storage and descriptor rings
hold, and where, is not given: those words are free values (log 33). -/

namespace Sys2Proof.Machine

def Chip.can (c : Chip) (n : Nat) : CanSt := Tab.at c.cans {} n
def Chip.setCan (c : Chip) (n : Nat) (x : CanSt) : Chip := { c with cans := Tab.set c.cans {} n x }

/-! ### CAN -/

/-- STATE of a CAN page: ACTIVE with EN = 1 and INIT = 0, else OFF (R445). -/
def Chip.canCtrl (c : Chip) (n : Nat) : Chip :=
  let v := c.rd (R.CANX.CTRL n)
  c.set (hState (R.CANX.ID n)) (if bits v 0 1 = 1 ∧ bits v 8 1 = 0 then 1 else 0)

/-- The controller takes part in the bus. -/
def Chip.canOn (c : Chip) (n : Nat) : Bool := c.get (hState (R.CANX.ID n)) == 1

/-- RXF_STAT follows the FIFO indexes, which count modulo 128 (log 33). -/
def Chip.canFill (c : Chip) (n : Nat) : Chip :=
  let x := c.can n
  c.wr (R.CANX.RXF_STAT n) (wd ((x.put0 + 128 - x.get0) % 128 + (x.put1 + 128 - x.get1) % 128 * 65536))

/-- A read or write of MSG_DATA: the word of message storage, and MSG_ADDR moves on by one word (R445). -/
def Chip.canAccess (c : Chip) (n : Nat) (write : Option Word) : Chip :=
  let a := bits (c.rd (R.CANX.MSG_ADDR n)) 2 12
  let x := c.can n
  let c1 := match write with
    | some v => c.setCan n { x with mem := Tab.set x.mem 0 a v }
    | none => c.answer (Tab.at x.mem 0 a)
  c1.wr (R.CANX.MSG_ADDR n) (wd ((a + 1) % 4096 * 4))

/-- The read indexes of both FIFOs; an index outside the filled part is refused with PARAM. -/
def Chip.canAck (c : Chip) (w : Acc) : Chip :=
  let n := w.inst
  let x := c.can n
  let g0 := bits w.val 0 7
  let g1 := bits w.val 16 7
  if (x.put0 + 128 - x.get0) % 128 < (g0 + 128 - x.get0) % 128 ∨ (x.put1 + 128 - x.get1) % 128 < (g1 + 128 - x.get1) % 128 then
    c.reject w rParam false
  else (c.setCan n { x with get0 := g0, get1 := g1 }).canFill n

/-- A write to a CANX page: CAN_MODE is writable only while INIT = 1. -/
def Canx.onWrite (w : Acc) (c : Chip) : Chip :=
  match w.off with
  | 0x40 => if bits (c.rd (R.CANX.CTRL w.inst)) 8 1 = 1 then c.store w else c.reject w rState true
  | 0x64 => c.canAck w
  | 0x70 => c.canAccess w.inst (some w.val)
  | _ => c.store w

def execCanTxRequest (src : Source) (n : Fin 3) (mask : Word) (s : State) : Host.Outcome State Fault Refusal :=
  let w : Acc := { src := src, addr := R.CANX.TX_REQ n, val := s.chip.rd (R.CANX.TX_REQ n) ||| mask }
  s.nextGated w (Canx.onWrite w)

/-- A requested buffer has been sent (R440): its request clears, TX_DONE is set. A controller that listens only, or is
restricted, sends nothing. -/
def execCanTxDone (n : Fin 3) (b : Fin 32) (at_ : Nat) (s : State) : Host.Outcome State Fault Refusal :=
  s.nextChip fun c =>
    let mode := c.rd (R.CANX.CAN_MODE n)
    if !c.canOn n || !c.on (bitOf (R.CANX.TX_REQ n) b) || bits mode 3 1 == 1 || bits mode 5 1 == 1 then c
    else (((c.goto at_).clr (bitOf (R.CANX.TX_REQ n) b)).raise (bitOf (R.CANX.TX_DONE n) b)).raise (hSticky (R.CANX.ID n) 2)

/-- Words of a received element: an unstated header with the timestamp, and the payload; all are free values. -/
def Chip.canFillWords (c : Chip) (n a k : Nat) : Chip :=
  upto k (fun (c : Chip) j =>
    let d := c.draw
    d.2.setCan n { d.2.can n with mem := Tab.set (d.2.can n).mem 0 ((a + j) % 4096) (Config.freeWord d.1) }) c

/-- The longest payload a controller takes: 8, 64 with FD_EN, 2,048 with XL_EN (R440). -/
def Chip.canMax (c : Chip) (n : Nat) : Nat :=
  let mode := c.rd (R.CANX.CAN_MODE n)
  if bits mode 1 1 = 1 then 2048 else if bits mode 0 1 = 1 then 64 else 8

/-- A frame is received (R440): the filters place it in FIFO 0 (`some false`), in FIFO 1 or nowhere; a FIFO of 64 elements that
is full loses it. -/
def execCanRxFrame (n : Fin 3) (fifo : Option Bool) (len : Fin 2049) (at_ : Nat) (s : State) : Host.Outcome State Fault Refusal :=
  s.nextChip fun c =>
    if !c.canOn n || c.canMax n < len.val then c
    else
      let c1 := c.goto at_
      match fifo with
      | none => c1
      | some one =>
        let x := c1.can n
        let fill := if one then (x.put1 + 128 - x.get1) % 128 else (x.put0 + 128 - x.get0) % 128
        if 64 ≤ fill then c1.raise (hSticky (R.CANX.ID n) 5)
        else
          let put := if one then x.put1 else x.put0
          let c2 := c1.canFillWords n (Config.canElement one.toNat (put % 64)) (Config.canHeader + (len.val + 3) / 4)
          let y := c2.can n
          let z : CanSt := if one then { y with put1 := (put + 1) % 128 } else { y with put0 := (put + 1) % 128 }
          ((c2.setCan n z).canFill n).raise (hSticky (R.CANX.ID n) 1)

/-- MSG_DATA: a host's write passes the gate; its read answers the word (R445). -/
def execCanMsgAccess (src : Source) (n : Fin 3) (write : Option Word) (s : State) : Host.Outcome State Fault Refusal :=
  match write with
  | some v => s.nextGated { src := src, addr := R.CANX.MSG_DATA n, val := v } fun c => c.canAccess n (some v)
  | none => s.nextRead src fun c => c.canAccess n none

/-! ### Ethernet -/

/-- STATE of an ETH page when EN changes: LINK_DOWN, or OFF (R446). -/
def Chip.ethCtrl (c : Chip) (n : Nat) : Chip := c.set (hState (R.ETH.ID n)) (if c.on (hEn (R.ETH.ID n)) then 1 else 0)

/-- A frame with this destination passes the address filters (R441): promiscuous mode, the MAC's own address, an exact filter
or the hash filter; the place of an address in the hash filter, and whether broadcasts pass, are free values. -/
def Chip.ethPasses (c : Chip) (n : Nat) (dst : BitVec 48) : Bool :=
  let lo := wd (dst.toNat / 2 ^ 40 + dst.toNat / 2 ^ 32 % 256 * 2 ^ 8 + dst.toNat / 2 ^ 24 % 256 * 2 ^ 16 + dst.toNat / 2 ^ 16 % 256 * 2 ^ 24)
  let hi := dst.toNat / 2 ^ 8 % 256 + dst.toNat % 256 * 2 ^ 8
  let exact := (List.range 16).any fun f =>
    let h := c.rd (R.ETH.EXACT_HI n f)
    bits h 31 1 == 1 && bits h 0 16 == hi && c.rd (R.ETH.EXACT_LO n f) == lo
  let hash := c.on (bitOf (if Config.ethHash dst % 64 < 32 then R.ETH.HASH_LO n else R.ETH.HASH_HI n) (Config.ethHash dst % 32))
  bits (c.rd (R.ETH.MAC_CFG n)) 2 1 == 1 || (c.rd (R.ETH.MAC_ADDR_LO n) == lo && bits (c.rd (R.ETH.MAC_ADDR_HI n)) 0 16 == hi) ||
    exact || hash || (dst == 0xFFFFFFFFFFFF && Config.ethBroadcast)

/-- A frame matches TS_FILT (R442). -/
def Chip.tsMatch (c : Chip) (n : Nat) (k : TsKind) : Bool :=
  let v := c.rd (R.ETH.TS_FILT n)
  match k with
  | .layer2 => bits v 0 1 == 1
  | .udp4 => bits v 1 1 == 1
  | .udp6 => bits v 2 1 == 1
  | .other => false

/-- A frame is received (R441, R442): filtered, written to the buffer of the descriptor at the RX head, and timestamped at its
start-frame delimiter if it matches. Without a free descriptor it is lost. -/
def execEthRxFrame (n : Fin 2) (dst : BitVec 48) (len : Fin 1523) (kind : TsKind) (descOk : Bool) (at_ : Nat) (s : State) :
    Host.Outcome State Fault Refusal :=
  s.nextChip fun c =>
    if !c.on (hEn (R.ETH.ID n)) then c
    else
      let c1 := (c.goto at_).set (hState (R.ETH.ID n)) 2
      if !c1.ethPasses n dst then c1
      else
        let c2 := if c1.tsMatch n kind then (c1.set64 (R.ETH.TS_RX_LO n) (R.ETH.TS_RX_HI n) at_).raise (hSticky (R.ETH.ID n) 3) else c1
        let size := bits (c2.rd (R.ETH.RX_RING n)) 24 8
        if size = 0 ∨ !descOk then c2.raise (hSticky (R.ETH.ID n) 5)
        else
          let head := bits (c2.rd (R.ETH.RING_IDX n)) 16 8
          let c3 := upto ((len.val + 3) / 4) (fun (c : Chip) j =>
            let d := c.draw
            d.2.shmWr ((Config.ethBuffer n.val head + j) % 2 ^ 20) (Config.freeWord d.1)) c2
          (((c3.set ⟨R.ETH.RING_IDX n, 16, 8⟩ ((head + 1) % size)).inc ⟨R.ETH.FRM_CNT n, 16, 16⟩)).raise (hSticky (R.ETH.ID n) 1)

/-- A frame of the TX ring is sent (R441, R442). -/
def execEthTxFrame (n : Fin 2) (_len : Fin 1523) (kind : TsKind) (at_ : Nat) (s : State) : Host.Outcome State Fault Refusal :=
  s.nextChip fun c =>
    let size := bits (c.rd (R.ETH.TX_RING n)) 24 8
    if !c.on (hEn (R.ETH.ID n)) || size == 0 then c
    else
      let c1 := (c.goto at_).set (hState (R.ETH.ID n)) 2
      let c2 := if c1.tsMatch n kind then (c1.set64 (R.ETH.TS_TX_LO n) (R.ETH.TS_TX_HI n) at_).raise (hSticky (R.ETH.ID n) 4) else c1
      let tail := bits (c2.rd (R.ETH.RING_IDX n)) 8 8
      ((c2.set ⟨R.ETH.RING_IDX n, 8, 8⟩ ((tail + 1) % size)).inc ⟨R.ETH.FRM_CNT n, 0, 16⟩).raise (hSticky (R.ETH.ID n) 2)

/-- MDIO_CMD starts a Clause 22 transaction; while one runs it is refused with STATE (R12, R441). -/
def Chip.mdioCmd (c : Chip) (w : Acc) : Chip :=
  if bits (c.rd (R.ETH.MDIO_STAT w.inst)) 0 1 = 1 then c.reject w rState false
  else { c with mdio := Tab.put c.mdio w.inst w.val }.set ⟨R.ETH.MDIO_STAT w.inst, 0, 1⟩ 1

/-- A write to an ETH page. -/
def Eth.onWrite (w : Acc) (c : Chip) : Chip := if w.off = 0x54 then c.mdioCmd w else c.store w

def execMdioCmd (src : Source) (n : Fin 2) (v : Word) (s : State) : Host.Outcome State Fault Refusal :=
  let w : Acc := { src := src, addr := R.ETH.MDIO_CMD n, val := v }
  s.nextGated w fun c => c.mdioCmd w

/-- The transaction completes: BUSY clears, and a read shows its data (R441). -/
def execMdioDone (n : Fin 2) (data : BitVec 16) (s : State) : Host.Outcome State Fault Refusal :=
  s.nextChip fun c =>
    match Tab.find c.mdio n with
    | none => c
    | some v =>
      let c1 := { c with mdio := Tab.del c.mdio n }.clr ⟨R.ETH.MDIO_STAT n, 0, 1⟩
      if bits v 10 1 = 1 then c1 else c1.set ⟨R.ETH.MDIO_STAT n, 16, 16⟩ data.toNat

end Sys2Proof.Machine
end

