-- ==== Sys2Proof/Machine/Views.lean ====
section
/-! DEFINITION. What a read of a register returns: selected windows, values the device computes as they are read, holding
latches, and reads that act (R22, R23, R56, R77, R78 and the register maps). -/

namespace Sys2Proof.Machine

/-- The key of a register as its page's selectors stand: windows of a slot, a loop, a channel, a partition, a module, a
table bin or a flow; every other register is its own key. -/
def Chip.selected (c : Chip) (a : Nat) : Nat :=
  let off := aOff a
  let n := aInst a
  match mapClass (aCls a) n with
  | 3 => if 0x50 ≤ off ∧ off ≤ 0x64 then win (bits (c.rd (R.CLE.SLOT_SEL n)) 0 4) a else a
  | 4 => if off = 0x40 then R.PAIRCMP.CMP_CFG 0
    else if 0x804 ≤ off ∧ off ≤ 0x854 then lpd (c.lpdSel n) (off - 0x800 + R.LPD.LPD_SEL) else a
  | 16 => if 0x48 ≤ off ∧ off ≤ 0x58 then win (bits (c.rd R.THERM.CH_SEL) 0 6) a else a
  | 24 => if off = 0x74 ∨ off = 0x78 then win c.partSel a else a
  | 25 => if modReg off then win (bits (c.rd R.LIFE.MOD_SEL) 0 3) a
    else if off = 0xD4 then win (bits (c.rd R.LIFE.TAB_SEL) 0 8) a else a
  | 29 => if 0x84 ≤ off ∧ off ≤ 0x9C then win (bits (c.rd R.EMGR.FLOW_SEL) 0 6) a else a
  | _ => a

/-- A list of bits as a word, bit `i` being the test of `i`. -/
def bitMap (f : Nat → Bool) : Word := wd ((List.range 32).foldl (fun n i => if f i then n + 2 ^ i else n) 0)

/-! ### Interrupts (R77, R78) -/

/-- IRQ_PEND of a page: STICKY AND IRQ_EN. -/
def Chip.irqPend (c : Chip) (page : Nat) : Word := c.rd (page + 0x10) &&& c.rd (page + 0x14)

/-- An instance has a non-zero IRQ_PEND. -/
def Chip.instPend (c : Chip) (cls inst : Nat) : Bool := decide (inst < instances cls) && c.irqPend (pageOf cls inst) != 0

/-- A class is routed to a line (IRQ_MAP). -/
def Chip.routed (c : Chip) (cls line : Nat) : Bool :=
  let b := bits (c.rd (R.HOST.IRQ_MAP (cls / 4))) (8 * (cls % 4)) 8
  b / 128 == 1 && b % 8 == line

/-- LINE_PENDn: the classes with a pending instance that are routed to the line. -/
def Chip.linePend (c : Chip) (line : Nat) : Word :=
  bitMap fun cls => c.routed cls line && (List.range (instances cls)).any fun i => c.instPend cls i

/-- The level of HIRQn. -/
def Chip.hirq (c : Chip) (line : Nat) : Bool := c.linePend line != 0

/-! ### STATUS (Tables 2.8 and those of the pages) -/

/-- STATE of a page whose state follows from others. -/
def Chip.stateView (c : Chip) (cls n : Nat) : Nat :=
  let any (k : Nat) (f : Nat → Bool) : Bool := (List.range k).any f
  let stored := c.get (hState (pageOf cls n))
  match cls with
  | 6 => match (c.adc n).run with
    | some r => if r.startup && decide (c.st < r.start + 7680) then 2 else 3
    | none => if c.on (F.ADC.CTRL.EN n) then 1 else 0
  | 7 => if !c.on (F.CMPG.CTRL.EN n) then 0 else if any 8 fun i => c.on (fSettling n i) then 1 else 2
  | 11 => if any 8 fun j => c.linkState (8 * n + j) == lkReady then 1 else 0
  | 12 => if !c.on (F.LVDRV.CTRL.EN n) then 0
    else if c.on (F.LVDRV.DSTAT.BST_UV n) || c.on (F.LVDRV.DSTAT.VG_UV n) then 2 else 1
  | 13 => if !c.scResp.isEmpty then 2 else if c.rd R.TRIP.LINE_ACTIVE != 0 then 1 else 0
  | 20 => if stored = 4 then 4 else if c.phase = .cold then 3
    else if any 36 fun p => c.get (F.PAIRCMP.STATUS.STATE p) == psTest && !c.regionInRange (regionOf p) then 2
    else if c.rolling.isSome then 1 else 0
  | _ => stored

/-- Bits [31:8] of STATUS that follow from others. -/
def Chip.statusHigh (c : Chip) (cls n : Nat) : Nat :=
  match cls with
  | 6 => match (c.adc n).run with
    | some r => r.entry * 2 ^ 8 + (c.urgent n r.entry).toNat * 2 ^ 13
    | none => 0
  | k => bits (c.rd (pageOf k n + 0xC)) 8 24 * 2 ^ 8

/-- A value waits in a shadow of the page (R69). -/
def Chip.shadowPending (c : Chip) (page : Nat) : Bool := !(c.shadowsOf page).isEmpty || c.inGroup page && c.staged.any fun e => aPage e.1 == page

/-- Every register of a page holds its reset value. -/
def Chip.pageFresh (c : Chip) (page : Nat) : Bool := !c.regs.any fun e => aPage e.1 == page

/-- STATUS of a page. What BUSY and FAULT report is left to each block, and no block says: they read 0 on a page that stands as
reset left it, and free values otherwise (Table 2.8, log 44). -/
def Chip.statusView (c : Chip) (page : Nat) (locked : Bool) : Word × Chip :=
  let cls := aCls page
  let n := aInst page
  let d := c.draw
  let free := if c.pageFresh page then 0 else (Config.freeWord d.1).toNat
  (wd (c.get (hEn page) + free % 2 * 2 + (c.shadowPending page).toNat * 4 + locked.toNat * 8 + free / 2 % 2 * 16
    + c.stateView cls n * 32 + c.statusHigh cls n), d.2)

/-! ### Registers the device computes -/

/-- A region as LEASH shows it at 058h–068h (Table 1.12). DESIGN CHOICE (log 12): AT_RISK and AT_RISK_N count the loops whose
span set holds the region, as the loops that step 3 marks. -/
def Chip.regionView (c : Chip) (off : Nat) : Word :=
  let g := c.get F.LEASH.REGION_SEL.REGION
  let x := c.region g
  let risky := (c.admitted.filter fun l => (c.loop l).span.contains g && c.on (fAtRisk l)).length
  let raised := match x.preTarget with | some t => decide (t < x.target) | none => false
  match off with
  | 0x58 => wd (min x.pMeas 0xFFFF + min (c.pBasis g) 0xFFFF * 65536)
  | 0x5C => wd ((c.pC g).to16 + (c.pAdm [g]).to16 * 65536)
  | 0x60 => wd (x.vmeas % 1024 + x.target % 1024 * 65536)
  | 0x64 => wd ((iw x.temp).toNat % 65536)
  | _ => wd (x.watch.toNat + raised.toNat * 2 + x.capped.toNat * 4 + x.migrating.toNat * 8 + x.refusing.toNat * 16
      + (!x.skew.isEmpty).toNat * 32 + (decide (0 < risky)).toNat * 64 + min risky 255 * 256)

/-- A register of the BIST page (R185). Before READY, RANGE_STATUS and ROLL_OLDEST hold their reset value 0, and REF_OK shows that
the last check of the references was in limit (log 61). -/
def Chip.bistView (c : Chip) (a : Nat) : Word :=
  let looked : Bool := c.phase == .ready || c.phase == .safeHold
  let retired (p : Nat) : Bool := c.retiredNv.contains p
  let reserve (p : Nat) : Bool := decide (p < 36) && c.on (F.CLE.PAIR_INFO.RESERVE p)
  match aOff a with
  | 0x44 =>
    wd ((c.nextRolling.getD 0) % 64 + bits (c.rd a) 6 6 * 64 + c.rolling.isSome.toNat * 2 ^ 12
      + ((List.range 36).filter reserve).length % 8 * 2 ^ 16)
  | 0x48 => match if looked then c.oldest c.livePairs else none with
    | none => 0
    | some p =>
      let age := match (c.pair p).lastPass with | none => 0xFFFF | some t => min 0xFFFF (((c.st : Int) - t) / (Config.ms : Int)).toNat
      wd (age + p * 65536)
  | 0x4C => bitMap retired
  | 0x50 => bitMap fun i => retired (32 + i)
  | 0x54 => bitMap reserve
  | 0x58 => bitMap fun i => reserve (32 + i)
  | 0x78 =>
    if !looked then 0 else bitMap fun i => if i < 12 then c.regionInRange i else if i = 12 then bits (c.rd R.BIST.REF_CHK) 16 1 == 1
      else i == 13 && c.stateView 20 0 == 2
  | _ => c.rd a

/-- CSTAT of a comparator (Table 6.11). -/
def Chip.cstat (c : Chip) (g i : Nat) : Word :=
  wd (c.get (fLive g i) + c.get (fLatched g i) * 2 + c.get (fBlanked g i) * 4 + c.get (fSettling g i) * 8
    + (c.cmp g i).hysOn.toNat * 16 + c.get (bitOf (R.CMPG.IN_BAND g) i) * 32)

/-- DEG_TIME: seconds left, rounded up, and RUNNING (R397). -/
def Chip.degTime (c : Chip) : Word :=
  match c.isn.degAt with
  | none => 0
  | some t =>
    let total := t + max 1 (min 3600 (c.get F.ISN.ISN_CFG.DEG_TMAX)) * Config.sec
    wd (min 0xFFF ((total - c.st + Config.sec - 1) / Config.sec) + 0x1000)

/-- ROUTE to the device ROUTE_SEL names (R423). -/
def Chip.routeView (c : Chip) : Word :=
  match c.elRoute (bits (c.rd R.EMGR.ROUTE_SEL) 0 14) with
  | none => 0
  | some r => wd (r.1 % 4 + 4 + r.2 % 256 * 256)

/-- What a register shows: computed where the device computes it, the most recently written value of an RWS field (Table 0.6),
else what is stored. -/
def Chip.view (c : Chip) (a : Nat) : Word :=
  let off := aOff a
  let n := aInst a
  if off = 0x18 then c.irqPend (aPage a)
  else if rwsMask a ≠ 0 then merge (c.rd a) (c.shadowOf a) (rwsMask a)
  else match mapClass (aCls a) n with
    | 0 => if off = 0x40 then wd c.st else c.rd a
    | 1 =>
      if 0x70 ≤ off ∧ off ≤ 0x8C then c.linePend ((off - 0x70) / 4)
      else if off = 0x94 then bitMap fun i => c.instPend (bits (c.rd R.HOST.INST_SEL) 0 5) i
      else if off = 0x98 then bitMap fun i => c.instPend (bits (c.rd R.HOST.INST_SEL) 0 5) (32 + i)
      else c.rd a
    | 2 =>
      if 0x58 ≤ off ∧ off ≤ 0x68 then c.regionView off
      else if 0xC0 ≤ off ∧ off ≤ 0xEC then wd (min (c.region ((off - 0xC0) / 4)).pMeas 0xFFFF)
      else if 0x100 ≤ off ∧ off ≤ 0x13C then bitMap fun i => c.on (fAtRisk ((off - 0x100) * 8 + i))
      else c.rd a
    | 4 =>
      if off = 0x74 then (match (c.pair n).lastPass with
        | none => 0xFFFF
        | some t => wd (min 0xFFFF (((c.st : Int) - t) / (Config.ms : Int)).toNat))
      else if off = 0x82C then wd (c.passCost (c.lpdSel n))
      else c.rd (c.selected a)
    | 5 => if off = 0x48 then wd c.cfgCrc else if off = 0x64 then c.degTime else c.rd a
    | 7 => if 0x110 ≤ off ∧ off < 0x200 ∧ off % 0x20 = 0x10 then c.cstat n ((off - 0x110) / 0x20) else c.rd a
    | 9 =>
      if a = R.PFU.ANGLE n then c.pfuAngle n else if a = R.PFU.SPEED n then c.pfuSpeed n
      else if a = R.PFU.ACCEL n then c.pfuAccel n else if a = R.PFU.INNOV n then c.pfuInnov n else c.rd a
    | 10 => if off = 0x70 then wd (match c.masterOf n with | some m => (c.pg m).next | none => 0) else c.rd a
    | 12 =>
      if a = R.LVDRV.DSTAT n then
        putBits (c.rd a) 4 1 (c.on (F.LVDRV.DCFG.TRICKLE_EN n) && c.gateCommand n true).toNat
      else c.rd a
    | 20 => c.bistView a
    | 24 =>
      if 0x44 ≤ off ∧ off ≤ 0x60 then c.recData ((off - 0x44) / 4)
      else if off = 0x68 then c.headView
      else if off = 0x6C then wd (c.part c.partSel).newestSeq
      else if off = 0x70 then wd (c.part c.partSel).firstSeq
      else c.rd (c.selected a)
    | 25 =>
      if off = 0x44 then c.flushView else if off = 0x54 then wd c.switchCount else if off = 0xCC then c.histView
      else c.rd (c.selected a)
    | 27 => if off = 0x44 then c.keyInfo else c.rd a
    | 28 =>
      if off = 0x48 then
        putBits (putBits (c.rd a) 5 1 (bits (c.rd (R.PILOT.CTRL n)) 8 1)) 6 1 (c.pilotOn n && c.on (F.PILOT.PCFG.ROLE n)).toNat
      else if off = 0x60 then wd (c.cpOut n)
      else c.rd a
    | 29 => if off = 0x64 then c.routeView else c.rd (c.selected a)
    | _ => c.rd (c.selected a)

/-! ### Holding latches (R22, R23) -/

/-- SOURCE code of a reader, or 8 + n for core `n` of the engines. -/
def readerCode : Reader → Nat
  | .port s => srcCode s
  | .core n => 8 + n.val

/-- The upper half a read of a `_LO` register copies into its reader's latch. -/
def Chip.upperHalf (c : Chip) (a : Nat) : Option Word :=
  let n := aInst a
  if a = R.SYS.ST_LO then some (wd (c.st / 2 ^ 32))
  else if a = R.PAIRCMP.MISMATCH_ST_LO n then some (c.rd (R.PAIRCMP.MISMATCH_ST_HI n))
  else if aCls a = 4 ∧ aOff a = 0x850 then some (c.rd (lpd (c.lpdSel n) R.LPD.LPD_LAST_HI))
  else if a = R.TRIP.SC_ST_LO then some (c.rd R.TRIP.SC_ST_HI)
  else if a = R.ISN.LAST_ST_LO then some (c.rd R.ISN.LAST_ST_HI)
  else if a = R.ETH.TS_TX_LO n then some (c.rd (R.ETH.TS_TX_HI n))
  else if a = R.ETH.TS_RX_LO n then some (c.rd (R.ETH.TS_RX_HI n))
  else if a = R.LIFE.SW_LO then some (wd (c.switchCount / 2 ^ 32 % 2 ^ 16))
  else none

/-- The `_LO` register whose latch a `_HI` register returns. -/
def latchedHigh (a : Nat) : Bool :=
  let n := aInst a
  a == R.SYS.ST_HI || (aCls a == 4 && (aOff a == 0x50 || aOff a == 0x854)) || a == R.TRIP.SC_ST_HI || a == R.ISN.LAST_ST_HI
    || (aCls a == 0x17 && (a == R.ETH.TS_TX_HI n || a == R.ETH.TS_RX_HI n)) || a == R.LIFE.SW_HI

/-! ### Reads -/

/-- A register read by a reader: the value, and what the read changes. -/
def Chip.readReg (c : Chip) (reader a : Nat) : Word × Chip :=
  let out (c : Chip) : Word × Chip := (c.out.headD 0, c)
  let n := aInst a
  if latchedHigh a then (c.latch reader (a - 4), c)
  else match c.upperHalf a with
    | some hi => (c.view a, c.setLatch reader a hi)
    | none =>
      if a = R.CLE.DMEM_DATA n then out (c.dmemRead n)
      else if a = R.CLE.PMEM_DATA n then out (c.pmemRead n)
      else if a = R.CLE.SHM_DATA n then out (c.shmRead n .clean)
      else if a = R.KENNEL.CAL_SUB then out c.calSubRead
      else if a = R.KENNEL.RET_DATA then out (c.retRead false)
      else if a = R.CANX.MSG_DATA n then out (c.canAccess n none)
      else if a = R.SEC.RNG_DATA then out (c.rngRead false)
      else if a = R.CANX.ERR_STAT n ∧ c.on (hEn (R.CANX.ID n)) then  -- errors on the wire have no command (log 82)
        let d := c.draw; (wd ((Config.freeWord d.1).toNat % 2 ^ 19), d.2)
      else if aCls a = 15 ∧ aOff a = 0x74 then
        let x := c.seq n
        if c.inSession n then (wd ((x.paused.getD c.st - x.stepAt) / (100 * Config.ms) % 2 ^ 24), c)
        else let d := c.draw; (wd ((Config.freeWord d.1).toNat % 2 ^ 24), d.2)
      else (c.view a, c)

/-- LOCK as it reads: REMAIN and ARMED (Table 2.9). -/
def lockView (l : LockSt) (st : Nat) : Word := wd ((if l.isOpen st then l.remain else 0) * 2 ^ 16 + l.armed.toNat * 2 ^ 23)

/-- A read access to a byte address by a reader (R55, R56): the value, and the device after it. -/
def State.readAt (s : State) (reader a : Nat) : Word × State :=
  if !pageImplemented a then (0, { s with chip := s.chip.unmapped })
  else
    let l := s.lock (pageNo a)
    if aOff a = 0x1C then (lockView l s.chip.st, s)
    else if aOff a = 0x0C then
      let v := s.chip.statusView (aPage a) !(l.isOpen s.chip.st)
      (v.1, { s with chip := v.2 })
    else
      let v := s.chip.readReg reader a
      (v.1, { s with chip := v.2 })

end Sys2Proof.Machine
end

