-- ==== Sys2Proof/Machine/Bus.lean ====
section
/-! DEFINITION. Register writes of every page, CTRL and its commands, commits and the global commit group (R12, R63–R76,
R493, Tables 2.6–2.13). -/

namespace Sys2Proof.Machine

/-! ### Soft reset (R73) -/

/-- A register that shows a placement or the service of a pair: its entries of the LDT and PAIR_INFO (Tables 3.11 and 3.13). -/
def placeReg (a : Nat) : Bool := aCls a == 3 && (aOff a == 0x40 || (decide (0x50 ≤ aOff a) && decide (aOff a ≤ 0x5C)))

/-- A register that a soft reset of its page returns to its reset value: not the header, not an identity, a calibration or a
value held in NV memory; of a CLE page not what shows the placements of Leash (log 48). -/
def softReg (a : Nat) : Bool :=
  decide (0x28 ≤ aOff a) && !(keptReg a || bankReg a || lifeReg a || calReg a || a == R.BIST.SCAN_STATUS || placeReg a)

/-- LOAD_STATUS shows a copy while it is in progress. -/
def Chip.copying (c : Chip) (a : Nat) : Bool := aCls a == 3 && aOff a == 0x6C && c.on (F.CLE.LOAD_STATUS.BUSY (aInst a))

/-- What a block holds beside its registers, after a soft reset of its page. -/
def Chip.softHidden (c : Chip) (cls n : Nat) : Chip :=
  match cls with
  | 2 => { c with adm := none }
  | 6 => { c with adcs := Tab.del c.adcs n }
  | 7 => { c with cmps := Tab.drop (fun k => k / 8 == n) c.cmps }.scpCheck
  | 8 => c.withSc fun c => upto 8 (fun c d => c.dacSeen d) c
  | 9 => { c with pfus := Tab.del c.pfus n }
  | 10 => { c with pgs := Tab.del c.pgs n }.resolveLeg n false
  | 11 => { c with links := Tab.drop (fun k => k / 8 == n) c.links }
  | 14 => { c with convs := Tab.del c.convs n }
  | 15 => { c with seqs := Tab.del c.seqs n }
  | 21 => { c with ports := Tab.del c.ports n }
  | 22 => c.setCan n { mem := (c.can n).mem }
  | 23 => { c with mdio := Tab.del c.mdio n }
  | 28 => { c with pilots := Tab.del c.pilots n }
  | _ => c

/-- SOFT_RESET of a page whose EN is 0 (R73): registers, shadows and the block-specific bits of CTRL return to their reset
values, STICKY keeps WR_REJ, and the rest of the header stays. -/
def Chip.softReset (c : Chip) (page : Nat) : Chip :=
  let here (k : Nat) : Bool := aPage k == page
  let c1 := { c with
    regs := c.regs.filter fun e => !(here e.1 && softReg e.1 && !c.copying e.1)
    shadow := Tab.drop here c.shadow
    staged := Tab.drop here c.staged }
  let c2 := c1.wr (page + 8) (merge (resetWord (page + 8)) (c.rd (page + 8)) 0x5)
  (c2.wr (page + 0x10) (c.rd (page + 0x10) &&& 1)).softHidden (mapClass (aCls page) (aInst page)) (aInst page)

/-! ### CTRL (Table 2.7) -/

/-- A change of a page that is refused as a whole: when `f` records a refusal nothing of it stays, else `g` goes on. -/
def Chip.orRefused (c : Chip) (w : Acc) (f g : Chip → Chip) : Chip :=
  let e := w.page + 0x24
  let c1 := f (c.wr e 0)
  let r := c1.rd e
  if r = 0 then g (c1.wr e (c.rd e)) else c.reject w (bits r 0 8) (bits r 18 1 == 1)

/-- The bits of CTRL in a mask take the written value. -/
def Chip.ctrlMerge (c : Chip) (w : Acc) (mask : Nat) : Chip := c.wr (w.page + 8) (merge (c.rd (w.page + 8)) w.val mask)

/-- EN and the block-specific bits of CTRL that hold a value, by class. -/
def Chip.ctrlFields (w : Acc) (c : Chip) : Chip :=
  let n := w.inst
  let en := w.val.getLsbD 0
  match mapClass w.cls n with
  | 2 => c.ctrlMerge w 0x101
  | 3 => (c.ctrlMerge w 1).showPair n
  | 6 => if Adc.ctrlRefused n w.val c then c.reject w rState (!carriesCommand w.addr w.val) else c.ctrlMerge w 1
  | 7 => (c.withSc (Cmpg.setEn n en)).scpCheck
  | 8 => if c.on (hEn w.page) = en then c else Dac.setEn en c
  | 9 => Pfu.setEn w en (c.ctrlMerge w 0x200)
  | 10 => Pg.setEn w en c
  | 11 => Glnk.setEn w en c
  | 12 => Lvdrv.setEn w en c
  | 14 => Conv.setRun w (w.val.getLsbD 8) (Conv.setEn w en c)
  | 15 => Chgseq.setEn w en c
  | 20 => c.ctrlMerge w 0x701
  | 21 => if c.on (hEn w.page) = en then c else c.elEnable n en
  | 22 => (c.ctrlMerge w 0x101).canCtrl n
  | 23 => if c.on (hEn w.page) = en then c else (c.ctrlMerge w 1).ethCtrl n
  | 26 => c.ctrlMerge w 1
  | 28 => Pilot.setS2 w (w.val.getLsbD 8) (Pilot.setEn w en c)
  | _ => c

/-- The action bits of CTRL, by class. What the feedbacks of the switch-off paths report after a command that no row of its own
brings is a free value (log 47). -/
def Chip.ctrlCommands (w : Acc) (c : Chip) : Chip :=
  let bit8 := w.val.getLsbD 8
  let d := c.draw
  let e := d.2.draw
  let fbA := (Config.freeWord d.1).getLsbD 0
  let fbB := (Config.freeWord e.1).getLsbD 0
  match mapClass w.cls w.inst with
  | 4 => if bit8 then c.testReq w else c
  | 5 => Isn.ctrl w fbA fbB e.2
  | 9 => Pfu.ctrlCmd w c
  | 10 => if bit8 then c.tripClr w else c
  | 19 => Safe.ctrl w fbA fbB e.2
  | 29 => if bit8 then c.emgrClear else c
  | _ => c

/-- A write to CTRL. SOFT_RESET with EN = 1 is refused by itself; with EN = 0 it comes first, and the block-specific bits of
the write then stand at their reset values (log 48). -/
def Chip.ctrlWrite (w : Acc) (c : Chip) : Chip :=
  let page := w.page
  let soft := w.val.getLsbD 1
  let open_ := c.on (hEn page)
  let c1 := if !soft then c else if open_ then c.reject w rState false else c.softReset page
  let v : Acc := if soft && !open_ then { w with val := merge (resetWord (page + 8)) w.val 0xFF } else w
  -- AWAKE of an ADC is written at all times (R199)
  let c2 := if w.cls = 6 then c1.ctrlMerge v 0x100 else c1
  c2.orRefused v (Chip.ctrlFields v) fun c =>
    let c3 := (c.setb (hFreeze page) (v.val.getLsbD 2)).ctrlCommands v
    if v.val.getLsbD 3 then c3.requestCommit v else c3

/-! ### STICKY and IRQ_EN (R63–R64) -/

/-- A write to STICKY: bits written 1 clear, and with them the counts that the maps tie to them. -/
def Chip.stickyWrite (w : Acc) (c : Chip) : Chip :=
  let page := w.page
  let mask := (pageHdr (mapClass w.cls w.inst)).sticky
  let one (i : Nat) : Bool := w.val.getLsbD i
  let c1 := c.wr (page + 0x10) (c.rd (page + 0x10) &&& ~~~(w.val &&& wd mask))
  let c2 := if one 0 then c1.clr (hRejCnt page) else c1
  if page = R.HOST.ID then
    let c3 := if one 1 then c2.wr R.HOST.UNMAPPED_CNT 0 else c2
    if one 12 then c3.wr R.HOST.MBX_LATE_CNT 0 else c3
  else if page = R.KENNEL.ID then (if one 4 then c2.chargeCheck else c2)
  else c2

/-! ### The global commit group (R74–R76) -/

/-- The page that a member names. -/
def Chip.memberPage (c : Chip) (k : Nat) : Nat := pageOf (c.get (F.SYS.GRP_MEMBER.CLASS k)) (c.get (F.SYS.GRP_MEMBER.INSTANCE k))

/-- The valid members. -/
def Chip.members (c : Chip) : List Nat := (List.range 32).filter fun k => c.on (F.SYS.GRP_MEMBER.VALID k)

/-- Values of a page have come into force: ranges of a leg, thresholds of comparators and the enabled short-circuit pairs
(R206, R248, R260). -/
def Chip.pageCommitted (c : Chip) (page : Nat) : Chip :=
  if aCls page = 10 then c.pgCommitted (aInst page)
  else if aCls page = 7 then (c.withSc fun c => c.thresholds (aInst page)).scpCheck
  else c

/-- A page whose commits wait for a point of its own: an enabled leg or converter. -/
def Chip.ownPoint (c : Chip) (page : Nat) : Bool := (aCls page == 10 || aCls page == 14) && c.on (hEn page)

/-- A member applies its staged set; the last one makes the group DONE (R75). -/
def Chip.memberDone (c : Chip) (k : Nat) : Chip :=
  let page := c.memberPage k
  let here (a : Nat) : Bool := aPage a == page
  let vs := c.staged.filter fun e => here e.1
  let c1 := { c with staged := Tab.drop here c.staged, grpLeft := c.grpLeft.filter fun j => j != k }.applyShadows vs
  let n := aInst page
  -- the set of a leg that holds PERIOD comes into force whole at the period point (R248)
  let c1 := if aCls page = 10 ∧ vs.any (fun e => e.1 == R.PG.PERIOD n) then c1.updPg n fun x => { x with whole := c.legOn n } else c1
  let c2 := if vs.isEmpty then c1 else (c1.bump (hCfgEpoch page)).pageCommitted page
  let c3 := if (c2.shadowsOf page).isEmpty then c2.clr (hCommitReq page) else c2
  let c4 := c3.set F.SYS.GRP_STATUS.PEND_N c3.grpLeft.length
  if c4.grpLeft.isEmpty then
    ((c4.set F.SYS.GRP_STATUS.STATE 3).set64 R.SYS.GRP_DONE_LO R.SYS.GRP_DONE_HI c4.st).raise (hSticky R.SYS.ID 1)
  else c4

/-- The members' shadows are captured together at T_G; members without a commit point of their own apply at once (R75). -/
def Chip.groupCapture (c : Chip) (t : Nat) : Chip :=
  let member (a : Nat) : Bool := c.grpLeft.any fun k => c.memberPage k == aPage a
  let c1 := { c.goto t with
    staged := c.shadow.filter fun e => member e.1
    shadow := Tab.drop member c.shadow }.set F.SYS.GRP_STATUS.STATE 2
  c.grpLeft.foldl (fun (d : Chip) k =>
    let page := d.memberPage k
    if d.ownPoint page || d.on (hFreeze page) then d else d.memberDone k) c1

/-- FIRE (R74, R75): refused with PARAM in GRP_STATUS, or the group waits for T_G. -/
def Chip.groupFire (c : Chip) : Chip :=
  let imm := c.on F.SYS.GRP_CTRL.IMMEDIATE
  let t := c.get64 R.SYS.GRP_TIME_LO R.SYS.GRP_TIME_HI
  let ks := c.members
  let pages := ks.map c.memberPage
  let bad := pages.isEmpty || pages.any (fun p => !pageImplemented p) || pages.eraseDups.length != pages.length
    || (!imm && decide (t < c.st + Config.us))
  if bad then (c.wr R.SYS.GRP_STATUS (wd (4 + rParam * 256))).raise (hSticky R.SYS.ID 2)
  else
    let c1 := { c with grpLeft := ks, staged := [] }.wr R.SYS.GRP_STATUS (wd (1 + ks.length * 65536))
    if imm then c1.groupCapture c1.st else c1

/-- A write to a register of the SYS page: the group registers take none from FIRE until DONE (R76). -/
def Sys.onWrite (w : Acc) (c : Chip) : Chip :=
  let group := w.off = 0x60 ∨ w.off = 0x68 ∨ w.off = 0x6C ∨ (0x80 ≤ w.off ∧ w.off ≤ 0xFC)
  let st := c.get F.SYS.GRP_STATUS.STATE
  if group ∧ (st = 1 ∨ st = 2) then c.reject w rState (!carriesCommand w.addr w.val)
  else if w.off = 0x60 then
    let c1 := c.setb F.SYS.GRP_CTRL.IMMEDIATE (w.val.getLsbD 1)
    if w.val.getLsbD 0 then c1.groupFire else c1
  else c.store w

/-- The earlier of two instants that may not come. -/
def earlier : Option Nat → Option Nat → Option Nat
  | some a, some b => some (min a b)
  | some a, none => some a
  | none, b => b

/-- The instant of a leg's first capture at which its whole staged set may take effect: none while it is held, or while no
capture is to come (R75, R248, R256). -/
def Chip.legPoint (c : Chip) (n : Nat) (vs : Tab Word) : Option Nat :=
  match c.masterOf n with
  | none => none
  | some m =>
    if c.heldLeg n then none
    else
      let period := vs.any fun e => e.1 == R.PG.PERIOD n
      let shape := vs.any fun e => e.1 != R.PG.PERIOD n
      let full := if shape && !period && !c.updSelects n false then none else c.captureAt m false
      let half := if period || !c.updSelects n true || !(c.pg n).joined then none else c.captureAt m true
      earlier full half

/-- The instant of a converter's next control point: its master's period point. -/
def Chip.convNext (c : Chip) (k : Nat) : Option Nat :=
  match c.phLeg k 0 with
  | some n => (c.masterOf n).map fun m => (c.pg m).next
  | none => none

/-- The instant at which a member's staged set may take effect. -/
def Chip.memberPoint (c : Chip) (page : Nat) (vs : Tab Word) : Option Nat :=
  if !c.ownPoint page then some c.st
  else if aCls page = 10 then c.legPoint (aInst page) vs
  else c.convNext (aInst page)

/-- A member of a staged group comes to its commit point (R75). -/
def Chip.memberApply (c : Chip) (k : Nat) : Chip :=
  let page := c.memberPage k
  let vs := c.staged.filter fun e => aPage e.1 == page
  if c.get F.SYS.GRP_STATUS.STATE ≠ 2 ∨ c.grpLeft.contains k = false ∨ c.on (hFreeze page) then c
  else match c.memberPoint page vs with
    | none => c
    | some t => (c.goto t).memberDone k

/-! ### Commits (R69–R72) -/

/-- The next capture of an enabled leg: at the half-period point when that comes first and its UPD selects it, else at the
period point (R248). -/
def Chip.legCommit (c : Chip) (n : Nat) : Chip :=
  match c.masterOf n with
  | none => c
  | some m =>
    let full := c.captureAt m false
    let half := if c.updSelects n true && (c.pg n).joined then c.captureAt m true else none
    match half, full with
    | some h, some f => if h < f then (c.goto h).pgCapture n true else (c.goto f).pgCapture n false
    | some h, none => (c.goto h).pgCapture n true
    | none, some f => (c.goto f).pgCapture n false
    | none, none => c

/-- A requested commit applies at the page's next commit point. -/
def Chip.shadowCommit (c : Chip) (page : Nat) : Chip :=
  if !c.on (hCommitReq page) || c.on (hFreeze page) || c.inGroup page then c
  else if c.ownPoint page then
    if aCls page = 10 then c.legCommit (aInst page)
    else match c.convNext (aInst page) with
      | none => c
      | some t => (c.goto t).commitPoint page
  else if (c.shadowsOf page).isEmpty then c.commitPage page
  else (c.commitPage page).pageCommitted page

/-! ### The host page but for its mailbox (R84) -/

/-- A mailbox channel answers at once: refused with a reason (R79). -/
def Chip.mbxRefuse (c : Chip) (ch reason : Nat) : Chip :=
  (c.wr (R.HOST.MBX_STATUS ch) (wd (8 + reason * 256))).raise (hSticky R.HOST.ID (8 + ch))

/-- A write of OP to MBX_CMD (R79, R82, R434): refused as an access while the channel is busy; an unknown OP is refused with
PARAM; else the request is latched, and the first one for a destination makes the HKE open a management pair. -/
def Chip.mbxCmd (c : Chip) (w : Acc) (ch : Nat) : Chip :=
  let op := bits w.val 0 2
  if c.on (F.HOST.MBX_STATUS.BUSY ch) then c.reject w rState false
  else if op = 0 ∨ op = 3 then c.mbxRefuse ch rParam
  else
    let d := bits (c.rd (R.HOST.MBX_DEST ch)) 0 14
    let x : MbxSt := { op := op, dest := d, addr := bits (c.rd (R.HOST.MBX_ADDR ch)) 2 22 * 4, data := c.rd (R.HOST.MBX_WDATA ch), start := c.st }
    let c1 := { c with mbx := Tab.set c.mbx {} ch x }.wr (R.HOST.MBX_STATUS ch) 1
    if (c1.elPairTo d).isSome then c1 else c1.elOpenPair d

/-- A write to a register of the HOST page. -/
def HostPage.onWrite (w : Acc) (c : Chip) : Chip :=
  if 0xA0 ≤ w.off ∧ w.off < 0x120 ∧ (w.off - 0xA0) % 32 = 12 then c.mbxCmd w ((w.off - 0xA0) / 32) else c.store w

/-! ### Every page -/

/-- A write that has passed the gate, by the page it reaches. -/
def Chip.pageWrite (w : Acc) (c : Chip) : Chip :=
  if w.off = 0x08 then c.ctrlWrite w
  else if w.off = 0x10 then c.stickyWrite w
  else if w.off = 0x14 then c.wr (w.page + 0x14) (w.val &&& wd (pageHdr (mapClass w.cls w.inst)).sticky)
  else match mapClass w.cls w.inst with
    | 0 => Sys.onWrite w c
    | 1 => HostPage.onWrite w c
    | 2 => Leash.onWrite w c
    | 3 => Cle.onWrite w c
    | 4 => PairCmp.onWrite w c
    | 5 => Isn.onWrite w c
    | 6 => Adc.onWrite w c
    | 7 => (c.withSc (Cmpg.onWrite w)).scpCheck
    | 8 => Dac.onWrite w c
    | 9 => Pfu.onWrite w c
    | 10 => Pg.onWrite w c
    | 11 => Glnk.onWrite w c
    | 12 => Lvdrv.onWrite w c
    | 13 => Trip.onWrite w c
    | 14 => Conv.onWrite w c
    | 15 => Chgseq.onWrite w c
    | 16 => Therm.onWrite w c
    | 17 => Tcompat.onWrite w c
    | 18 => if w.off = 0x5C then c.wakeCfg w else Kennel.onWrite w c
    | 19 => Safe.onWrite w c
    | 20 => Bist.onWrite w c
    | 21 => Eport.onWrite w c
    | 22 => Canx.onWrite w c
    | 23 => Eth.onWrite w c
    | 24 => Evrec.onWrite w c
    | 25 => Life.onWrite w c
    | 26 => Nvm.onWrite w c
    | 27 => Sec.onWrite w c
    | 28 => Pilot.onWrite w c
    | 29 => Emgr.onWrite w c
    | _ => c

/-- A write of a source to a byte address. -/
def State.busWrite (s : State) (src : Source) (addr : Nat) (v : Word) : State :=
  let w : Acc := { src := src, addr := addr, val := v }
  s.gated w (Chip.pageWrite w)

/-- The byte address of a register operand. -/
def byteOf (a : RegAddr) : Nat := a.toNat * 4

/-- The first byte address of a page operand. -/
def firstOf (p : Page) : Nat := p.toNat * 0x1000

/-! ### Writes of a source -/

def execRegisterWrite (src : Source) (a : RegAddr) (v : Word) (s : State) : Host.Outcome State Fault Refusal :=
  .next (s.busWrite src (byteOf a) v)

def execStickyClear (src : Source) (a : RegAddr) (bits : Word) (s : State) : Host.Outcome State Fault Refusal :=
  .next (s.busWrite src (byteOf a) bits)

def execCounterClear (src : Source) (a : RegAddr) (bits : Word) (s : State) : Host.Outcome State Fault Refusal :=
  .next (s.busWrite src (byteOf a) bits)

def execShadowWrite (src : Source) (a : RegAddr) (v : Word) (s : State) : Host.Outcome State Fault Refusal :=
  .next (s.busWrite src (byteOf a) v)

/-- An access to an address with no implemented page (R55): a read returns 0. An address that has one is not this row's. -/
def execUnmappedAccess (src : Source) (a : RegAddr) (write : Bool) (s : State) : Host.Outcome State Fault Refusal :=
  s.nextRead src fun c =>
    if pageImplemented (byteOf a) then c else if write then c.unmapped else c.unmapped.answer 0

def execPortCfgWrite (src : Source) (php shp : Bool) (s : State) : Host.Outcome State Fault Refusal :=
  .next (s.busWrite src R.HOST.PORT_CFG (wd (php.toNat + 2 * shp.toNat)))

/-! ### LOCK (R65) -/

def execLockArm (src : Source) (p : Page) (s : State) : Host.Outcome State Fault Refusal :=
  .next (s.busWrite src (firstOf p + 0x1C) 0x5A5A)

def execLockOpen (src : Source) (p : Page) (s : State) : Host.Outcome State Fault Refusal :=
  .next (s.busWrite src (firstOf p + 0x1C) 0xA5A5)

def execLockClose (src : Source) (p : Page) (key : BitVec 16) (s : State) : Host.Outcome State Fault Refusal :=
  .next (s.busWrite src (firstOf p + 0x1C) (key.setWidth 32))

/-- 1 ms after a window opened it closes. -/
def execUnlockWindowExpire (p : Page) (s : State) : Host.Outcome State Fault Refusal :=
  let l := s.lock p.toNat
  .next (if l.remain = 0 then s else (s.onChip fun c => c.goto (l.openedAt + Config.ms)).setLock p.toNat {})

/-! ### Commands of CTRL and of the group -/

def execCommitRequest (src : Source) (p : Page) (s : State) : Host.Outcome State Fault Refusal :=
  .next (s.busWrite src (firstOf p + 8) (s.chip.ctrlWith (firstOf p) 3))

def execFreezeRelease (src : Source) (p : Page) (s : State) : Host.Outcome State Fault Refusal :=
  .next (s.busWrite src (firstOf p + 8) (s.chip.rd (firstOf p + 8) &&& ~~~0xC#32))

def execSoftReset (src : Source) (p : Page) (s : State) : Host.Outcome State Fault Refusal :=
  .next (s.busWrite src (firstOf p + 8) (s.chip.rd (firstOf p + 8) &&& ~~~0x8#32 ||| 2#32))

def execShadowCommit (p : Page) (s : State) : Host.Outcome State Fault Refusal := s.nextChip fun c => c.shadowCommit (firstOf p)

def execGroupFire (src : Source) (immediate : Bool) (s : State) : Host.Outcome State Fault Refusal :=
  .next (s.busWrite src R.SYS.GRP_CTRL (wd (1 + 2 * immediate.toNat)))

/-- System Time reaches T_G (R75 step 3). -/
def execGroupCapture (s : State) : Host.Outcome State Fault Refusal :=
  s.nextChip fun c =>
    if c.get F.SYS.GRP_STATUS.STATE = 1 then c.groupCapture (c.get64 R.SYS.GRP_TIME_LO R.SYS.GRP_TIME_HI) else c

def execGroupMemberApply (k : Fin 32) (s : State) : Host.Outcome State Fault Refusal := s.nextChip fun c => c.memberApply k

/-! ### Reads of a source (R22, R55) -/

/-- A read access of a reader; what it drives is left in `out`. -/
def State.readBy (s : State) (r : Reader) (a : Nat) : State :=
  let isOpen := match r with
    | .port src => s.chip.portOpen src
    | .core _ => true
  if isOpen then
    let v := s.readAt (readerCode r) a
    v.2.onChip fun c => c.answer v.1
  else s

def execStLoRead (r : Reader) (s : State) : Host.Outcome State Fault Refusal := .next (s.readBy r R.SYS.ST_LO)

def execLatchedLoRead (r : Reader) (a : RegAddr) (s : State) : Host.Outcome State Fault Refusal := .next (s.readBy r (byteOf a))

/-! ### Serial frames (R60–R62, Tables 2.4, 2.5) -/

abbrev cmdRead : Nat := 0x1E
abbrev cmdWrite : Nat := 0x2D
abbrev cmdStatus : Nat := 0x3C

/-- How a frame ended: in order, with a wrong CRC, or malformed. -/
inductive FrameEnd where
  | good
  | crcErr
  | frameErr
deriving DecidableEq, Repr

/-- A frame has ended: SHP_STATUS shows how, with its CMD and LEN, and an error sets its STICKY bit. -/
def Chip.frameDone (c : Chip) (cmd len : Nat) (how : FrameEnd) : Chip :=
  let flag := match how with | .good => 1 | .crcErr => 2 | .frameErr => 4
  let c1 := c.wr R.HOST.SHP_STATUS (wd (flag + cmd % 256 * 2 ^ 8 + len % 64 * 2 ^ 16))
  match how with
  | .good => c1
  | .crcErr => c1.raise (hSticky R.HOST.ID 2)
  | .frameErr => c1.raise (hSticky R.HOST.ID 3)

/-- The bytes of a frame that its CRC covers: CMD, LEN, the four address bytes and the data words (R61). -/
def frameBytes (cmd len a : Nat) (ws : List Word) : List Nat :=
  [cmd, len, a / 2 ^ 24 % 256, a / 2 ^ 16 % 256, a / 2 ^ 8 % 256, a % 256] ++ ws.flatMap fun v => (leBytes v).reverse

/-- A frame of `n` words from an address would cross a page boundary (R62). -/
def frameCrosses (a n : Nat) : Bool := decide (0x1000 < aOff a + 4 * n)

/-- The words of a READ frame, sampled one by one. -/
def State.sample (s : State) : List Nat → List Word × State
  | [] => ([], s)
  | a :: l =>
    let v := s.readAt (srcCode .serial) a
    let t := v.2.sample l
    (v.1 :: t.1, t.2)

/-- A READ frame: `len` + 1 words and the CRC; `cut` tells after how many words chip select rose early. -/
def State.shpRead (s : State) (a len : Nat) (cut : Option Nat) : State :=
  if !s.chip.portOpen .serial then s
  else if frameCrosses a (len + 1) then s.onChip fun c => c.frameDone cmdRead len .frameErr
  else
    let n := match cut with | some k => min k (len + 1) | none => len + 1
    let r := s.sample ((List.range n).map fun i => a + 4 * i)
    let crc := wd (crc16 (frameBytes cmdRead len a r.1))
    r.2.onChip fun c => match cut with
      | some _ => { c with out := r.1 }.frameDone cmdRead len .frameErr
      | none => { c with out := r.1 ++ [crc] }.frameDone cmdRead len .good

def execShpReadFrame (a : RegAddr) (len : Fin 64) (cut : Option (Fin 64)) (s : State) : Host.Outcome State Fault Refusal :=
  .next (s.shpRead (byteOf a) len (cut.map fun k => k.val))

/-- A WRITE frame: its words are applied one by one when the CRC is correct (R61). -/
def State.shpWrite (s : State) (a : Nat) (ws : List Word) (crc : Nat) (cut : Bool) : State :=
  let len := ws.length - 1
  let done (s : State) (how : FrameEnd) : State := s.onChip fun c => c.frameDone cmdWrite len how
  if !s.chip.portOpen .serial then s
  else if ws.isEmpty || 64 < ws.length || frameCrosses a ws.length || cut then done s .frameErr
  else if crc16 (frameBytes cmdWrite len a ws) ≠ crc then done s .crcErr
  else
    let t := (List.range ws.length).foldl (fun (t : State) (i : Nat) => t.busWrite .serial (a + 4 * i) (ws.getD i 0)) s
    done t .good

def execShpWriteFrame (a : RegAddr) (words : List Word) (crc : BitVec 16) (cut : Bool) (s : State) : Host.Outcome State Fault Refusal :=
  .next (s.shpWrite (byteOf a) words crc.toNat cut)

/-- A STATUS frame returns SHP_STATUS as the frame before it left it. -/
def State.shpStatus (s : State) (a len : Nat) (cut : Bool) : State :=
  if !s.chip.portOpen .serial then s
  else s.onChip fun c =>
    let v := c.rd R.HOST.SHP_STATUS
    if cut then { c with out := [] }.frameDone cmdStatus len .frameErr
    else { c with out := [v, wd (crc16 (frameBytes cmdStatus len a [v]))] }.frameDone cmdStatus len .good

def execShpStatusFrame (a : Word) (len : Fin 64) (cut : Bool) (s : State) : Host.Outcome State Fault Refusal :=
  .next (s.shpStatus a.toNat len cut)

/-- A frame with an unknown CMD, or a READ or WRITE that would cross a page boundary, is discarded (R62). -/
def execShpFrameInvalid (cmd : BitVec 8) (a : RegAddr) (len : Fin 64) (s : State) : Host.Outcome State Fault Refusal :=
  s.nextChip fun c =>
    let k := cmd.toNat
    let bad := (k ≠ cmdRead ∧ k ≠ cmdWrite ∧ k ≠ cmdStatus) ∨ (k ≠ cmdStatus ∧ frameCrosses (byteOf a) (len + 1) = true)
    if c.portOpen .serial && decide bad then c.frameDone k len .frameErr else c

end Sys2Proof.Machine
end

