-- ==== Sys2Proof/Machine/Mailbox.lean ====
section
/-! DEFINITION. The mailbox to remote pages, management packets and expired limits (R47, R79–R82, R419, R434, Table 13.4). -/

namespace Sys2Proof.Machine

/-! ### Requests (R79, R82) -/

/-- A write of OP to MBX_CMD of a channel. -/
def State.mbxWrite (s : State) (src : Source) (ch op : Nat) : State := s.busWrite src (R.HOST.MBX_CMD ch) (wd op)

def execMbxRead (src : Source) (ch : Fin 4) (s : State) : Host.Outcome State Fault Refusal := .next (s.mbxWrite src ch 1)

def execMbxWrite (src : Source) (ch : Fin 4) (s : State) : Host.Outcome State Fault Refusal := .next (s.mbxWrite src ch 2)

def execMbxInvalidOp (src : Source) (ch : Fin 4) (op : BitVec 2) (s : State) : Host.Outcome State Fault Refusal :=
  .next (s.mbxWrite src ch op.toNat)

def Chip.mbxCh (c : Chip) (ch : Nat) : MbxSt := Tab.at c.mbx {} ch

/-- A channel waits for its reply. -/
def Chip.mbxWaits (c : Chip) (ch : Nat) : Bool := c.on (F.HOST.MBX_STATUS.BUSY ch) && (c.mbxCh ch).accepted

/-- A management packet to a device: 12 bytes of payload, flow 0 (log 31). -/
def Chip.mgmtPacket (c : Chip) (dev : Nat) (payload : List Nat) : Pkt :=
  { enc := false, dst := BitVec.ofNat 24 (dev * 64), ttl := BitVec.ofNat 8 (c.get F.EMGR.MGR_CFG.HOP_MAX), flow := 0
    src := BitVec.ofNat 24 (c.elOwn * 64), seq := 0, payload := payload.map fun b => BitVec.ofNat 8 b
    hcrc := 0, crc := 0, epoch := 0, pn := 0, tagOk := true }

/-- A management packet leaves through a port, at once (R434). -/
def Chip.mgmtSend (c : Chip) (p ptype dev : Nat) (payload : List Nat) : Chip := c.elSendSched p ptype (c.mgmtPacket dev payload) false

/-- The payload of MREQ. -/
def mreqBytes (x : MbxSt) (ch : Nat) : List Nat := [x.op, ch, x.addr / 2 ^ 16 % 256, x.addr / 2 ^ 8 % 256, x.addr % 256, 0, 0, 0] ++ (leBytes x.data).reverse

/-- The channel accepts or refuses a request (R79 steps 1, 2; R434). -/
def Chip.mbxAdmit (c : Chip) (ch : Nat) : Chip :=
  let x := c.mbxCh ch
  if !c.on (F.HOST.MBX_STATUS.BUSY ch) || x.accepted then c
  else match c.elPairTo x.dest, c.elRoute x.dest with
    | some pr, some r =>
      if pr.isOpen && c.elUp r.1 then
        let c1 := { c with mbx := Tab.set c.mbx {} ch { x with accepted := true } }.updEl fun e =>
          { e with pairs := e.pairs.map fun (y : ElPair) => if y.dest == x.dest then { y with used := c.st } else y }
        (c1.wr (R.HOST.MBX_BOUND ch) (wd ((2 * c.elBound pr + 9) / 10 + 1000))).mgmtSend r.1 2 x.dest (mreqBytes x ch)
      else c.mbxRefuse ch rNoPath
    | _, _ => c.mbxRefuse ch rNoPath

def execMbxAdmissionDone (ch : Fin 4) (s : State) : Host.Outcome State Fault Refusal := s.nextChip fun c => c.mbxAdmit ch

/-! ### Replies and the bound (R80) -/

/-- A reply wins against the bound: DONE, the data of a read, REMOTE_REJ with its reason. -/
def Chip.mbxReply (c : Chip) (ch : Nat) (data : Word) (rej : Option Nat) : Chip :=
  if !c.mbxWaits ch then c
  else
    let c1 := { c with mbx := Tab.set c.mbx {} ch {} }.raise (hSticky R.HOST.ID (4 + ch))
    match rej with
    | some r => (c1.wr (R.HOST.MBX_STATUS ch) (wd (2 + 16 + r * 256))).raise (hSticky R.HOST.ID (8 + ch))
    | none =>
      let c2 := c1.wr (R.HOST.MBX_STATUS ch) 2
      if (c.mbxCh ch).op = 1 then c2.wr (R.HOST.MBX_RDATA ch) data else c2

def execMbxReply (ch : Fin 4) (data : Word) (rej : Option (BitVec 8)) (s : State) : Host.Outcome State Fault Refusal :=
  s.nextChip fun c => c.mbxReply ch data (rej.map fun r => r.toNat)

/-- The bound wins: TIMEOUT, and the reply counts as late. -/
def Chip.mbxTimeout (c : Chip) (ch : Nat) : Chip :=
  if !c.mbxWaits ch then c
  else
    let c1 := c.goto ((c.mbxCh ch).start + Config.ns (c.rd (R.HOST.MBX_BOUND ch)).toNat)
    let c2 := { c1 with mbx := Tab.set c1.mbx {} ch {} }.wr (R.HOST.MBX_STATUS ch) 4
    (((c2.raise (hSticky R.HOST.ID (8 + ch))).raise (hSticky R.HOST.ID 12)).inc (whole R.HOST.MBX_LATE_CNT)).late 1 0 ch

def execMbxTimeout (ch : Fin 4) (s : State) : Host.Outcome State Fault Refusal := s.nextChip fun c => c.mbxTimeout ch

/-- A management packet has arrived whole for this device's endpoint 0. -/
def Chip.mgmtArrives (c : Chip) (p ptype : Nat) (pk : Pkt) : Bool × Chip :=
  let a := c.elArrives p ptype pk
  if !a.1 then a
  else if !pktBodyOk pk ptype then (false, a.2.elCrcErr p)
  else if pk.dst.toNat % 64 ≠ 0 then (false, a.2.raise F.EMGR.STICKY.EP_DROP)
  else (pk.payload.length == 12, a.2)

/-- Byte `i` of a payload. -/
def payloadByte (pk : Pkt) (i : Nat) : Nat := (pk.payload.getD i 0).toNat

/-- MRSP answers the channel its TAG names, when it comes from the channel's destination. -/
def Chip.rxMrsp (c : Chip) (p : Nat) (pk : Pkt) : Chip :=
  let a := c.mgmtArrives p 3 pk
  let ch := payloadByte pk 1
  if a.1 && decide (ch < 4) && (c.mbxCh ch).dest == pk.src.toNat / 64 % 2 ^ 14 then
    a.2.mbxReply ch (wordOf ((List.range 4).map fun i => payloadByte pk (8 + i)))
      (if payloadByte pk 0 = 0 then none else some (payloadByte pk 2))
  else a.2

def execElRxMrsp (port : Fin 4) (pk : Pkt) (at_ : Nat) (s : State) : Host.Outcome State Fault Refusal :=
  s.nextChip fun c => (c.goto at_).rxMrsp port pk

/-! ### Accesses of remote devices (R419) -/

/-- The reason a write of the fabric is rejected with, if it is. -/
def State.fabricReason (s : State) (a : Nat) (v : Word) : Nat :=
  let e := aPage a + 0x24
  if pageImplemented a then bits (((s.onChip fun c => c.wr e 0).busWrite .fabric a v).chip.rd e) 0 8 else 0

/-- MRSP: STATUS, TAG, REASON and the data. -/
def mrspBytes (reason tag : Nat) (data : Word) : List Nat := [if reason = 0 then 0 else 1, tag, reason, 0, 0, 0, 0, 0] ++ (leBytes data).reverse

/-- A reply goes back to the device that asked, while there is a way. -/
def Chip.mgmtReply (c : Chip) (pk : Pkt) (reason : Nat) (data : Word) : Chip :=
  let d := pk.src.toNat / 64 % 2 ^ 14
  match c.elRoute d with
  | some r => if c.elUp r.1 then c.mgmtSend r.1 3 d (mrspBytes reason (payloadByte pk 1) data) else c
  | none => c

/-- MREQ performs a register access with SOURCE fabric mailbox; an OP it does not know is rejected with PARAM (log 49). -/
def State.rxMreq (s : State) (p : Nat) (pk : Pkt) : State :=
  let g := s.chip.mgmtArrives p 2 pk
  let t : State := { s with chip := g.2 }
  if !g.1 || !t.chip.portOpen .fabric then t
  else
    let a := (payloadByte pk 2 * 2 ^ 16 + payloadByte pk 3 * 2 ^ 8 + payloadByte pk 4) / 4 * 4
    let op := payloadByte pk 0
    if op = 1 then
      let r := t.readAt (srcCode .fabric) a
      r.2.onChip fun c => c.mgmtReply pk 0 r.1
    else if op = 2 then
      let v := wordOf ((List.range 4).map fun i => payloadByte pk (8 + i))
      (t.busWrite .fabric a v).onChip fun c => c.mgmtReply pk (t.fabricReason a v) 0
    else t.onChip fun c => c.mgmtReply pk rParam 0

def execElRxMreq (port : Fin 4) (pk : Pkt) (s : State) : Host.Outcome State Fault Refusal := .next (s.rxMreq port pk)

/-! ### Expired limits (R47) -/

/-- The limit of a gate link's wait wins against a frame that comes with it: of its GATE check, else of its command. -/
def Chip.linkExpiry (c : Chip) (l : Nat) : Chip :=
  if (c.link l).gate.isSome then ((c.gateTimeout l).updLink l fun x => { x with gateLate := false }).lateFrame l
  else if (c.link l).cmd.isSome then ((c.cmdTimeout l).updLink l fun x => { x with cmdLate := none }).lateFrame l
  else c

/-- The port a pair's iteration waits for is late after its limit (R106). -/
def Chip.waitExpiry (c : Chip) (p : Nat) : Chip :=
  match (c.pair p).run with
  | none => c
  | some r => match r.wait with
    | none => c
    | some (_, port, _) => (c.waitLimit p).lateValue p port

/-- The limit of a waiting operation wins against the arrival, whose data is discarded: by class, instance and channel of the
interface. -/
def Chip.expiry (c : Chip) (cls inst chan : Nat) : Chip :=
  match cls with
  | 0x01 => if chan < 4 then c.mbxTimeout chan else c
  | 0x03 => c.waitExpiry inst
  | 0x04 => c.raTimeout inst
  | 0x0B => if chan < 8 then c.linkExpiry (8 * inst + chan) else c
  | 0x15 =>
    let x := c.eep chan
    if inst ≠ 4 ∨ 64 ≤ chan ∨ x.bound.isNone ∨ x.late then c
    else (((c.elMissed chan 1).inc (epLate chan)).setEep chan { x with seq := x.seq.map fun n => (n + 1) % 65536 }).late 0x15 4 chan
  | k => c.late k inst chan

def execTimeoutExpiry (cls inst chan : BitVec 8) (s : State) : Host.Outcome State Fault Refusal :=
  s.nextChip fun c => c.expiry cls.toNat inst.toNat chan.toNat

end Sys2Proof.Machine
end

