-- ==== Sys2Proof/Machine/Dispatch.lean ====
section
/-! DEFINITION. The one place where a command meets its meaning: one arm for each constructor. -/

namespace Sys2Proof.Machine

def exec (i : Instr) (s : State) : Host.Outcome State Fault Refusal :=
  match i with
  | .registerWrite src a v => Sys2Proof.Machine.execRegisterWrite src a v s
  | .stickyClear src a bits => Sys2Proof.Machine.execStickyClear src a bits s
  | .counterClear src a bits => Sys2Proof.Machine.execCounterClear src a bits s
  | .unmappedAccess src a write => Sys2Proof.Machine.execUnmappedAccess src a write s
  | .stLoRead r => Sys2Proof.Machine.execStLoRead r s
  | .latchedLoRead r a => Sys2Proof.Machine.execLatchedLoRead r a s
  | .shpReadFrame a len cut => Sys2Proof.Machine.execShpReadFrame a len cut s
  | .shpWriteFrame a words crc cut => Sys2Proof.Machine.execShpWriteFrame a words crc cut s
  | .shpStatusFrame a len cut => Sys2Proof.Machine.execShpStatusFrame a len cut s
  | .shpFrameInvalid cmd a len => Sys2Proof.Machine.execShpFrameInvalid cmd a len s
  | .lockArm src p => Sys2Proof.Machine.execLockArm src p s
  | .lockOpen src p => Sys2Proof.Machine.execLockOpen src p s
  | .lockClose src p key => Sys2Proof.Machine.execLockClose src p key s
  | .unlockWindowExpire p => Sys2Proof.Machine.execUnlockWindowExpire p s
  | .shadowWrite src a v => Sys2Proof.Machine.execShadowWrite src a v s
  | .commitRequest src p => Sys2Proof.Machine.execCommitRequest src p s
  | .shadowCommit p => Sys2Proof.Machine.execShadowCommit p s
  | .freezeRelease src p => Sys2Proof.Machine.execFreezeRelease src p s
  | .softReset src p => Sys2Proof.Machine.execSoftReset src p s
  | .groupFire src immediate => Sys2Proof.Machine.execGroupFire src immediate s
  | .groupCapture => Sys2Proof.Machine.execGroupCapture s
  | .groupMemberApply k => Sys2Proof.Machine.execGroupMemberApply k s
  | .portCfgWrite src php shp => Sys2Proof.Machine.execPortCfgWrite src php shp s
  | .mbxRead src ch => Sys2Proof.Machine.execMbxRead src ch s
  | .mbxWrite src ch => Sys2Proof.Machine.execMbxWrite src ch s
  | .mbxInvalidOp src ch op => Sys2Proof.Machine.execMbxInvalidOp src ch op s
  | .mbxAdmissionDone ch => Sys2Proof.Machine.execMbxAdmissionDone ch s
  | .mbxReply ch data rej => Sys2Proof.Machine.execMbxReply ch data rej s
  | .mbxTimeout ch => Sys2Proof.Machine.execMbxTimeout ch s
  | .paceSensorUpdate rg sensor pace at_ => Sys2Proof.Machine.execPaceSensorUpdate rg sensor pace at_ s
  | .paceFaultDetect rg => Sys2Proof.Machine.execPaceFaultDetect rg s
  | .admAdmit src loop pair anyPair => Sys2Proof.Machine.execAdmAdmit src loop pair anyPair s
  | .admWithdraw src loop => Sys2Proof.Machine.execAdmWithdraw src loop s
  | .admTestOnly src loop pair anyPair => Sys2Proof.Machine.execAdmTestOnly src loop pair anyPair s
  | .admReevaluate src => Sys2Proof.Machine.execAdmReevaluate src s
  | .admInvalidOp src loop pair op => Sys2Proof.Machine.execAdmInvalidOp src loop pair op s
  | .admDecisionDone => Sys2Proof.Machine.execAdmDecisionDone s
  | .loadCopyDone pair readError => Sys2Proof.Machine.execLoadCopyDone pair readError s
  | .regionPaceCheck rg => Sys2Proof.Machine.execRegionPaceCheck rg s
  | .voltStepUp rg => Sys2Proof.Machine.execVoltStepUp rg s
  | .voltStepDown rg => Sys2Proof.Machine.execVoltStepDown rg s
  | .regionRecover rg => Sys2Proof.Machine.execRegionRecover rg s
  | .skewDetect a b => Sys2Proof.Machine.execSkewDetect a b s
  | .skewClear a b => Sys2Proof.Machine.execSkewClear a b s
  | .voltLimitWrite src vmin vmax => Sys2Proof.Machine.execVoltLimitWrite src vmin vmax s
  | .timeoutExpiry cls inst chan => Sys2Proof.Machine.execTimeoutExpiry cls inst chan s
  | .cleNop p cs g => Sys2Proof.Machine.execCleNop p cs g s
  | .cleAdd p cs g rd ra rb qs => Sys2Proof.Machine.execCleAdd p cs g rd ra rb qs s
  | .cleSub p cs g rd ra rb qs => Sys2Proof.Machine.execCleSub p cs g rd ra rb qs s
  | .cleMul p cs g rd ra rb qs => Sys2Proof.Machine.execCleMul p cs g rd ra rb qs s
  | .cleMac p cs g acc ra rb qs => Sys2Proof.Machine.execCleMac p cs g acc ra rb qs s
  | .cleMsu p cs g acc ra rb qs => Sys2Proof.Machine.execCleMsu p cs g acc ra rb qs s
  | .cleAccr p cs g acc rd clear qs => Sys2Proof.Machine.execCleAccr p cs g acc rd clear qs s
  | .cleAccw p cs g acc ra qs => Sys2Proof.Machine.execCleAccw p cs g acc ra qs s
  | .cleMin p cs g rd ra rb => Sys2Proof.Machine.execCleMin p cs g rd ra rb s
  | .cleMax p cs g rd ra rb => Sys2Proof.Machine.execCleMax p cs g rd ra rb s
  | .cleAbs p cs g rd ra qs => Sys2Proof.Machine.execCleAbs p cs g rd ra qs s
  | .cleNeg p cs g rd ra qs => Sys2Proof.Machine.execCleNeg p cs g rd ra qs s
  | .cleShv p cs g rd ra rb => Sys2Proof.Machine.execCleShv p cs g rd ra rb s
  | .cleAnd p cs g rd ra rb => Sys2Proof.Machine.execCleAnd p cs g rd ra rb s
  | .cleOr p cs g rd ra rb => Sys2Proof.Machine.execCleOr p cs g rd ra rb s
  | .cleXor p cs g rd ra rb => Sys2Proof.Machine.execCleXor p cs g rd ra rb s
  | .cleCmp p cs g pd ra rb cond => Sys2Proof.Machine.execCleCmp p cs g pd ra rb cond s
  | .cleSel p cs g rd ra rb ps => Sys2Proof.Machine.execCleSel p cs g rd ra rb ps s
  | .cleClamp p cs g rd ra rb flag => Sys2Proof.Machine.execCleClamp p cs g rd ra rb flag s
  | .cleRate p cs g rd ra rb flag => Sys2Proof.Machine.execCleRate p cs g rd ra rb flag s
  | .cleDiv p cs g rd ra rb qs => Sys2Proof.Machine.execCleDiv p cs g rd ra rb qs s
  | .cleCordicSin p cs g rd ra => Sys2Proof.Machine.execCleCordicSin p cs g rd ra s
  | .cleCordicCos p cs g rd ra => Sys2Proof.Machine.execCleCordicCos p cs g rd ra s
  | .cleCordicSincos p cs g rd ra => Sys2Proof.Machine.execCleCordicSincos p cs g rd ra s
  | .cleCordicAtan2 p cs g rd ra rb => Sys2Proof.Machine.execCleCordicAtan2 p cs g rd ra rb s
  | .cleCordicMag p cs g rd ra rb qs => Sys2Proof.Machine.execCleCordicMag p cs g rd ra rb qs s
  | .cleCordicPolar p cs g rd ra rb qs => Sys2Proof.Machine.execCleCordicPolar p cs g rd ra rb qs s
  | .cleInterp p cs g rd ra rb table => Sys2Proof.Machine.execCleInterp p cs g rd ra rb table s
  | .cleMov p cs g rd ra qs => Sys2Proof.Machine.execCleMov p cs g rd ra qs s
  | .cleLdiSigned p cs g rd imm => Sys2Proof.Machine.execCleLdiSigned p cs g rd imm s
  | .cleLdiHigh p cs g rd imm => Sys2Proof.Machine.execCleLdiHigh p cs g rd imm s
  | .cleLdiLow p cs g rd imm => Sys2Proof.Machine.execCleLdiLow p cs g rd imm s
  | .cleAddi p cs g rd imm => Sys2Proof.Machine.execCleAddi p cs g rd imm s
  | .cleCmpi p cs g pd rd imm => Sys2Proof.Machine.execCleCmpi p cs g pd rd imm s
  | .cleLd p cs g rd rb shared ofs flt => Sys2Proof.Machine.execCleLd p cs g rd rb shared ofs flt s
  | .cleSt p cs g rd rb shared ofs => Sys2Proof.Machine.execCleSt p cs g rd rb shared ofs s
  | .cleIn p g rd ports capA capB => Sys2Proof.Machine.execCleIn p g rd ports capA capB s
  | .cleOutStaged p cs g rd port => Sys2Proof.Machine.execCleOutStaged p cs g rd port s
  | .cleOutImmediate p g rd word => Sys2Proof.Machine.execCleOutImmediate p g rd word s
  | .cleLoop p cs g count len => Sys2Proof.Machine.execCleLoop p cs g count len s
  | .cleSkip p cs g dist => Sys2Proof.Machine.execCleSkip p cs g dist s
  | .clePlog p cs g pd pa pb tt => Sys2Proof.Machine.execClePlog p cs g pd pa pb tt s
  | .cleWaitp p g pd port limit => Sys2Proof.Machine.execCleWaitp p g pd port limit s
  | .cleWaitpArrival p at_ => Sys2Proof.Machine.execCleWaitpArrival p at_ s
  | .cleWaitpLimit p => Sys2Proof.Machine.execCleWaitpLimit p s
  | .cleEnd p at_ lib => Sys2Proof.Machine.execCleEnd p at_ lib s
  | .cleTrap p g code => Sys2Proof.Machine.execCleTrap p g code s
  | .loopTrigger loop at_ => Sys2Proof.Machine.execLoopTrigger loop at_ s
  | .loopDeadline loop => Sys2Proof.Machine.execLoopDeadline loop s
  | .lpdOpenCmd src inst => Sys2Proof.Machine.execLpdOpenCmd src inst s
  | .lpdClosedCmd src inst => Sys2Proof.Machine.execLpdClosedCmd src inst s
  | .lpdHoldCmd src inst => Sys2Proof.Machine.execLpdHoldCmd src inst s
  | .lpdTriggerCmd src inst => Sys2Proof.Machine.execLpdTriggerCmd src inst s
  | .lpdInvalidCmd src inst op => Sys2Proof.Machine.execLpdInvalidCmd src inst op s
  | .setptWrite src inst v => Sys2Proof.Machine.execSetptWrite src inst v s
  | .raInputArrival p capA capB arrival => Sys2Proof.Machine.execRaInputArrival p capA capB arrival s
  | .raInputTimeout p => Sys2Proof.Machine.execRaInputTimeout p s
  | .effectDelivery => Sys2Proof.Machine.execEffectDelivery s
  | .migrationPrecopyDone loop => Sys2Proof.Machine.execMigrationPrecopyDone loop s
  | .migrationFinalCopyDone loop => Sys2Proof.Machine.execMigrationFinalCopyDone loop s
  | .signaturePassEnd p => Sys2Proof.Machine.execSignaturePassEnd p s
  | .selfTestDone p fails march => Sys2Proof.Machine.execSelfTestDone p fails march s
  | .testRequest src p => Sys2Proof.Machine.execTestRequest src p s
  | .rollingTestStart => Sys2Proof.Machine.execRollingTestStart s
  | .rollLateDetect => Sys2Proof.Machine.execRollLateDetect s
  | .testSlice p => Sys2Proof.Machine.execTestSlice p s
  | .analogTest run => Sys2Proof.Machine.execAnalogTest run s
  | .bandgapCheck diff => Sys2Proof.Machine.execBandgapCheck diff s
  | .marchSliceStart => Sys2Proof.Machine.execMarchSliceStart s
  | .marchSliceDone bad => Sys2Proof.Machine.execMarchSliceDone bad s
  | .cmpCfgWrite src inst v => Sys2Proof.Machine.execCmpCfgWrite src inst v s
  | .retireClear src pair => Sys2Proof.Machine.execRetireClear src pair s
  | .tapExtest => Sys2Proof.Machine.execTapExtest s
  | .tapIdcode => Sys2Proof.Machine.execTapIdcode s
  | .tapSamplePreload => Sys2Proof.Machine.execTapSamplePreload s
  | .tapHighz => Sys2Proof.Machine.execTapHighz s
  | .tapBypass code => Sys2Proof.Machine.execTapBypass code s
  | .tapScanacc standstill keysZero => Sys2Proof.Machine.execTapScanacc standstill keysZero s
  | .scanConnect => Sys2Proof.Machine.execScanConnect s
  | .adcAdmit src adc e => Sys2Proof.Machine.execAdcAdmit src adc e s
  | .adcWithdraw src adc e => Sys2Proof.Machine.execAdcWithdraw src adc e s
  | .adcTestOnly src adc e => Sys2Proof.Machine.execAdcTestOnly src adc e s
  | .adcInvalidOp src adc e => Sys2Proof.Machine.execAdcInvalidOp src adc e s
  | .adcDecisionDone adc => Sys2Proof.Machine.execAdcDecisionDone adc s
  | .adcWithdrawEffect adc e => Sys2Proof.Machine.execAdcWithdrawEffect adc e s
  | .adcHostTrigger src adc v => Sys2Proof.Machine.execAdcHostTrigger src adc v s
  | .adcTrigger adc e at_ => Sys2Proof.Machine.execAdcTrigger adc e at_ s
  | .adcConversionStart adc => Sys2Proof.Machine.execAdcConversionStart adc s
  | .adcResultWrite adc samples at_ => Sys2Proof.Machine.execAdcResultWrite adc samples at_ s
  | .adcIdlePowerdown adc => Sys2Proof.Machine.execAdcIdlePowerdown adc s
  | .comparatorEnable src g => Sys2Proof.Machine.execComparatorEnable src g s
  | .comparatorFirstDecision g n level at_ => Sys2Proof.Machine.execComparatorFirstDecision g n level at_ s
  | .comparatorInputCrossing g n level at_ => Sys2Proof.Machine.execComparatorInputCrossing g n level at_ s
  | .blankingClose g n => Sys2Proof.Machine.execBlankingClose g n s
  | .latchClear src g bits => Sys2Proof.Machine.execLatchClear src g bits s
  | .ccfgWrite src g n v => Sys2Proof.Machine.execCcfgWrite src g n v s
  | .dacCodeWrite src d v => Sys2Proof.Machine.execDacCodeWrite src d v s
  | .dacSineUpdate d at_ => Sys2Proof.Machine.execDacSineUpdate d at_ s
  | .pfuEnable src k => Sys2Proof.Machine.execPfuEnable src k s
  | .pfuDisable src k => Sys2Proof.Machine.execPfuDisable src k s
  | .pfuEdge k a b at_ => Sys2Proof.Machine.execPfuEdge k a b at_ s
  | .hallTransition k code at_ => Sys2Proof.Machine.execHallTransition k code at_ s
  | .zIndex k at_ => Sys2Proof.Machine.execZIndex k at_ s
  | .pfuZero src k => Sys2Proof.Machine.execPfuZero src k s
  | .pfuCaptureCmd src k => Sys2Proof.Machine.execPfuCaptureCmd src k s
  | .comparePulseEnd k => Sys2Proof.Machine.execComparePulseEnd k s
  | .cmplCfgWrite src k v => Sys2Proof.Machine.execCmplCfgWrite src k v s
  | .encFrameStart k at_ => Sys2Proof.Machine.execEncFrameStart k at_ s
  | .encFrameReceive k data crc trip at_ => Sys2Proof.Machine.execEncFrameReceive k data crc trip at_ s
  | .encFrameTimeout k => Sys2Proof.Machine.execEncFrameTimeout k s
  | .resolverPairTimeout k => Sys2Proof.Machine.execResolverPairTimeout k s
  | .observerUpdate k => Sys2Proof.Machine.execObserverUpdate k s
  | .pgEnable src leg => Sys2Proof.Machine.execPgEnable src leg s
  | .pgDisable src leg => Sys2Proof.Machine.execPgDisable src leg s
  | .pgPeriodPoint leg => Sys2Proof.Machine.execPgPeriodPoint leg s
  | .pgHalfPeriodPoint leg => Sys2Proof.Machine.execPgHalfPeriodPoint leg s
  | .pgCaptureInstant leg half => Sys2Proof.Machine.execPgCaptureInstant leg half s
  | .pgEdge leg => Sys2Proof.Machine.execPgEdge leg s
  | .tripLineActive line => Sys2Proof.Machine.execTripLineActive line s
  | .tripLineInactive line => Sys2Proof.Machine.execTripLineInactive line s
  | .tripClr src leg => Sys2Proof.Machine.execTripClr src leg s
  | .hforceWrite src leg action => Sys2Proof.Machine.execHforceWrite src leg action s
  | .swForceWrite src v => Sys2Proof.Machine.execSwForceWrite src v s
  | .scpWrite src k v => Sys2Proof.Machine.execScpWrite src k v s
  | .scSingleTimeout leg => Sys2Proof.Machine.execScSingleTimeout leg s
  | .scSoftHoldExpire leg => Sys2Proof.Machine.execScSoftHoldExpire leg s
  | .scGroupRelease leg => Sys2Proof.Machine.execScGroupRelease leg s
  | .glLinkEnable src l => Sys2Proof.Machine.execGlLinkEnable src l s
  | .glInitTimeout l at_ => Sys2Proof.Machine.execGlInitTimeout l at_ s
  | .glLinkDisable src l => Sys2Proof.Machine.execGlLinkDisable src l s
  | .glRxGate l reg data at_ => Sys2Proof.Machine.execGlRxGate l reg data at_ s
  | .glGateCheckTimeout l => Sys2Proof.Machine.execGlGateCheckTimeout l s
  | .glRxTemp l reg data at_ => Sys2Proof.Machine.execGlRxTemp l reg data at_ s
  | .glRxSupply l reg data at_ => Sys2Proof.Machine.execGlRxSupply l reg data at_ s
  | .glRxDesatInfo l reg data at_ => Sys2Proof.Machine.execGlRxDesatInfo l reg data at_ s
  | .glRxAck l reg data at_ => Sys2Proof.Machine.execGlRxAck l reg data at_ s
  | .glRxRdata l reg data at_ => Sys2Proof.Machine.execGlRxRdata l reg data at_ s
  | .glRxLoop l data rtt at_ => Sys2Proof.Machine.execGlRxLoop l data rtt at_ s
  | .glRxFault l reg data at_ => Sys2Proof.Machine.execGlRxFault l reg data at_ s
  | .glRxBadFrame l at_ => Sys2Proof.Machine.execGlRxBadFrame l at_ s
  | .glIdleLoop l at_ => Sys2Proof.Machine.execGlIdleLoop l at_ s
  | .glReverseSilence l at_ => Sys2Proof.Machine.execGlReverseSilence l at_ s
  | .glTeleTimeout l => Sys2Proof.Machine.execGlTeleTimeout l s
  | .glDesatRecognise l at_ => Sys2Proof.Machine.execGlDesatRecognise l at_ s
  | .glCmdWrite src l reg data => Sys2Proof.Machine.execGlCmdWrite src l reg data s
  | .glCmdRead src l reg data => Sys2Proof.Machine.execGlCmdRead src l reg data s
  | .glCmdClearFault src l reg data => Sys2Proof.Machine.execGlCmdClearFault src l reg data s
  | .glCmdPoll src l reg data => Sys2Proof.Machine.execGlCmdPoll src l reg data s
  | .glCmdLoop src l reg data => Sys2Proof.Machine.execGlCmdLoop src l reg data s
  | .glCmdTimeout l => Sys2Proof.Machine.execGlCmdTimeout l s
  | .lvBootstrapUv n mv => Sys2Proof.Machine.execLvBootstrapUv n mv s
  | .lvVgUv k mv => Sys2Proof.Machine.execLvVgUv k mv s
  | .lvUvRecover n vg mv => Sys2Proof.Machine.execLvUvRecover n vg mv s
  | .lvGateSense n high on => Sys2Proof.Machine.execLvGateSense n high on s
  | .lvQgMeasure n high qg => Sys2Proof.Machine.execLvQgMeasure n high qg s
  | .driveStop loop speed => Sys2Proof.Machine.execDriveStop loop speed s
  | .driveRun loop => Sys2Proof.Machine.execDriveRun loop s
  | .driveIdent loop => Sys2Proof.Machine.execDriveIdent loop s
  | .driveClear loop => Sys2Proof.Machine.execDriveClear loop s
  | .driveSenseWindowEnd loop amp speed angle at_ => Sys2Proof.Machine.execDriveSenseWindowEnd loop amp speed angle at_ s
  | .driveAlignDone loop fwd back north south at_ => Sys2Proof.Machine.execDriveAlignDone loop fwd back north south at_ s
  | .reacqTimeout loop => Sys2Proof.Machine.execReacqTimeout loop s
  | .identStepDone loop ok meas ramp at_ => Sys2Proof.Machine.execIdentStepDone loop ok meas ramp at_ s
  | .actStop loop => Sys2Proof.Machine.execActStop loop s
  | .actMove loop => Sys2Proof.Machine.execActMove loop s
  | .actShift loop => Sys2Proof.Machine.execActShift loop s
  | .actEngage loop => Sys2Proof.Machine.execActEngage loop s
  | .actRelease loop => Sys2Proof.Machine.execActRelease loop s
  | .actPhaseTimeout loop => Sys2Proof.Machine.execActPhaseTimeout loop s
  | .pumpNoLoad loop => Sys2Proof.Machine.execPumpNoLoad loop s
  | .convEnable src k => Sys2Proof.Machine.execConvEnable src k s
  | .convRunRequest src k run => Sys2Proof.Machine.execConvRunRequest src k run s
  | .convHiccupOffExpire k => Sys2Proof.Machine.execConvHiccupOffExpire k s
  | .convRetryReset k => Sys2Proof.Machine.execConvRetryReset k s
  | .convShedTimer k => Sys2Proof.Machine.execConvShedTimer k s
  | .convHoldoffExpire k => Sys2Proof.Machine.execConvHoldoffExpire k s
  | .convInputLoss k largest => Sys2Proof.Machine.execConvInputLoss k largest s
  | .convInputRecover k least => Sys2Proof.Machine.execConvInputRecover k least s
  | .pilotPeriod p high low duty freq pwm at_ => Sys2Proof.Machine.execPilotPeriod p high low duty freq pwm at_ s
  | .pilotStateChange p level => Sys2Proof.Machine.execPilotStateChange p level s
  | .ppMeasure p mv => Sys2Proof.Machine.execPpMeasure p mv s
  | .sqStart src q => Sys2Proof.Machine.execSqStart src q s
  | .sqStop src q => Sys2Proof.Machine.execSqStop src q s
  | .sqInvalidOp src q high => Sys2Proof.Machine.execSqInvalidOp src q high s
  | .sessionPilotTimeout q => Sys2Proof.Machine.execSessionPilotTimeout q s
  | .sessionRunReady q least => Sys2Proof.Machine.execSessionRunReady q least s
  | .supplyStateHold q => Sys2Proof.Machine.execSupplyStateHold q s
  | .supplyRunDelay q => Sys2Proof.Machine.execSupplyRunDelay q s
  | .sessionEndComplete q => Sys2Proof.Machine.execSessionEndComplete q s
  | .sessionRedetect q => Sys2Proof.Machine.execSessionRedetect q s
  | .batDetect q => Sys2Proof.Machine.execBatDetect q s
  | .restOcvPoint q => Sys2Proof.Machine.execRestOcvPoint q s
  | .pulseEdge q => Sys2Proof.Machine.execPulseEdge q s
  | .zsweepUpdate q => Sys2Proof.Machine.execZsweepUpdate q s
  | .zsweepPointDone q => Sys2Proof.Machine.execZsweepPointDone q s
  | .cellAssign src q v => Sys2Proof.Machine.execCellAssign src q v s
  | .thermSample ch temp valid at_ => Sys2Proof.Machine.execThermSample ch temp valid at_ s
  | .thermRateDown ch => Sys2Proof.Machine.execThermRateDown ch s
  | .domainStepUp d => Sys2Proof.Machine.execDomainStepUp d s
  | .domainRestoreStep d => Sys2Proof.Machine.execDomainRestoreStep d s
  | .domainEnable src d => Sys2Proof.Machine.execDomainEnable src d s
  | .xtTrimUpdate => Sys2Proof.Machine.execXtTrimUpdate s
  | .refCorrectionUpdate cluster corr => Sys2Proof.Machine.execRefCorrectionUpdate cluster corr s
  | .dlCalibration p ok => Sys2Proof.Machine.execDlCalibration p ok s
  | .dlSwap p => Sys2Proof.Machine.execDlSwap p s
  | .dlDefer p => Sys2Proof.Machine.execDlDefer p s
  | .supplySample k mv vkeep => Sys2Proof.Machine.execSupplySample k mv vkeep s
  | .calSecWrite src v => Sys2Proof.Machine.execCalSecWrite src v s
  | .calSubRead src => Sys2Proof.Machine.execCalSubRead src s
  | .calSecTick at_ => Sys2Proof.Machine.execCalSecTick at_ s
  | .vsysFall vbkp => Sys2Proof.Machine.execVsysFall vbkp s
  | .handoverDone => Sys2Proof.Machine.execHandoverDone s
  | .vsysRise => Sys2Proof.Machine.execVsysRise s
  | .returnWaitExpire => Sys2Proof.Machine.execReturnWaitExpire s
  | .bkpCutoff vbkp => Sys2Proof.Machine.execBkpCutoff vbkp s
  | .bkpChargePhaseEnd ocv => Sys2Proof.Machine.execBkpChargePhaseEnd ocv s
  | .bkpChargeTimeout => Sys2Proof.Machine.execBkpChargeTimeout s
  | .shipArm src => Sys2Proof.Machine.execShipArm src s
  | .shipDisarm src => Sys2Proof.Machine.execShipDisarm src s
  | .shipWakeEvent => Sys2Proof.Machine.execShipWakeEvent s
  | .wakeInEvent => Sys2Proof.Machine.execWakeInEvent s
  | .powerOff src => Sys2Proof.Machine.execPowerOff src s
  | .tokenClear src => Sys2Proof.Machine.execTokenClear src s
  | .retDataAccess src write bad => Sys2Proof.Machine.execRetDataAccess src write bad s
  | .kennelColdStart vsys => Sys2Proof.Machine.execKennelColdStart vsys s
  | .watchdogFire fbA fbB => Sys2Proof.Machine.execWatchdogFire fbA fbB s
  | .isnCoreMismatch => Sys2Proof.Machine.execIsnCoreMismatch s
  | .refWindowCheck count => Sys2Proof.Machine.execRefWindowCheck count s
  | .refEdgeLoss => Sys2Proof.Machine.execRefEdgeLoss s
  | .runReq src => Sys2Proof.Machine.execRunReq src s
  | .resume src => Sys2Proof.Machine.execResume src s
  | .safeReq src fbA fbB => Sys2Proof.Machine.execSafeReq src fbA fbB s
  | .faultReport fbA fbB => Sys2Proof.Machine.execFaultReport fbA fbB s
  | .faultCleared src => Sys2Proof.Machine.execFaultCleared src s
  | .degradedExpire fbA fbB => Sys2Proof.Machine.execDegradedExpire fbA fbB s
  | .ascExit g fbA fbB => Sys2Proof.Machine.execAscExit g fbA fbB s
  | .stoRequest src fbA fbB => Sys2Proof.Machine.execStoRequest src fbA fbB s
  | .stoRel src fbA fbB => Sys2Proof.Machine.execStoRel src fbA fbB s
  | .stoPulseTest fbA fbB => Sys2Proof.Machine.execStoPulseTest fbA fbB s
  | .ss1Req src => Sys2Proof.Machine.execSs1Req src s
  | .ss1EnvelopeCheck fbA fbB => Sys2Proof.Machine.execSs1EnvelopeCheck fbA fbB s
  | .ss1Timeout fbA fbB => Sys2Proof.Machine.execSs1Timeout fbA fbB s
  | .sbcRel src on => Sys2Proof.Machine.execSbcRel src on s
  | .sbcDelayExpire fbA fbB => Sys2Proof.Machine.execSbcDelayExpire fbA fbB s
  | .sbcTestPulse off => Sys2Proof.Machine.execSbcTestPulse off s
  | .holdStart src => Sys2Proof.Machine.execHoldStart src s
  | .holdReady => Sys2Proof.Machine.execHoldReady s
  | .holdTestEnd => Sys2Proof.Machine.execHoldTestEnd s
  | .parkSpeedUpdate at_ => Sys2Proof.Machine.execParkSpeedUpdate at_ s
  | .plCmd src => Sys2Proof.Machine.execPlCmd src s
  | .parkConfirmTimeout => Sys2Proof.Machine.execParkConfirmTimeout s
  | .tpsPulse k => Sys2Proof.Machine.execTpsPulse k s
  | .safeInputPeriod n look fbA fbB => Sys2Proof.Machine.execSafeInputPeriod n look fbA fbB s
  | .safeInputDemand n fbA fbB => Sys2Proof.Machine.execSafeInputDemand n fbA fbB s
  | .safePairDiscrepancy m fbA fbB => Sys2Proof.Machine.execSafePairDiscrepancy m fbA fbB s
  | .elPortEnable src port en => Sys2Proof.Machine.execElPortEnable src port en s
  | .elProbe port refl => Sys2Proof.Machine.execElProbe port refl s
  | .elBlockLock port => Sys2Proof.Machine.execElBlockLock port s
  | .elBlockLockLoss port => Sys2Proof.Machine.execElBlockLockLoss port s
  | .elRxSuspend port => Sys2Proof.Machine.execElRxSuspend port s
  | .elRxResume port => Sys2Proof.Machine.execElRxResume port s
  | .elRxAbort port => Sys2Proof.Machine.execElRxAbort port s
  | .elRxCredit port units => Sys2Proof.Machine.execElRxCredit port units s
  | .elRxBlockError port => Sys2Proof.Machine.execElRxBlockError port s
  | .elForward port ptype pk at_ => Sys2Proof.Machine.execElForward port ptype pk at_ s
  | .elRxFlow port pk at_ => Sys2Proof.Machine.execElRxFlow port pk at_ s
  | .elRxMsg port pk => Sys2Proof.Machine.execElRxMsg port pk s
  | .elRxMreq port pk => Sys2Proof.Machine.execElRxMreq port pk s
  | .elRxMrsp port pk at_ => Sys2Proof.Machine.execElRxMrsp port pk at_ s
  | .elRxResv port rq keyOk => Sys2Proof.Machine.execElRxResv port rq keyOk s
  | .elRxResvAck port kind dev flow reason sm => Sys2Proof.Machine.execElRxResvAck port kind dev flow reason sm s
  | .elRxTime port sent rootOfs at_ => Sys2Proof.Machine.execElRxTime port sent rootOfs at_ s
  | .elRxDesc port d => Sys2Proof.Machine.execElRxDesc port d s
  | .elRxElect port uid dist => Sys2Proof.Machine.execElRxElect port uid dist s
  | .elRxAddr port addr level parent => Sys2Proof.Machine.execElRxAddr port addr level parent s
  | .elRxTopo port adj allReported => Sys2Proof.Machine.execElRxTopo port adj allReported s
  | .elRxAuth port cert sigOk => Sys2Proof.Machine.execElRxAuth port cert sigOk s
  | .elRxKeyx source n ok => Sys2Proof.Machine.execElRxKeyx source n ok s
  | .discCmd src => Sys2Proof.Machine.execDiscCmd src s
  | .electionTimeout => Sys2Proof.Machine.execElectionTimeout s
  | .portDownTimeout port => Sys2Proof.Machine.execPortDownTimeout port s
  | .timeSend port => Sys2Proof.Machine.execTimeSend port s
  | .timeDelayExchange port t1 t2 t3 t4 => Sys2Proof.Machine.execTimeDelayExchange port t1 t2 t3 t4 s
  | .flowOpen src flow => Sys2Proof.Machine.execFlowOpen src flow s
  | .flowClose src flow => Sys2Proof.Machine.execFlowClose src flow s
  | .flowTestOnly src flow => Sys2Proof.Machine.execFlowTestOnly src flow s
  | .resvTentativeExpire port dev flow => Sys2Proof.Machine.execResvTentativeExpire port dev flow s
  | .flowCapture flow => Sys2Proof.Machine.execFlowCapture flow s
  | .flowSend flow => Sys2Proof.Machine.execFlowSend flow s
  | .flowSinkLimit ep at_ => Sys2Proof.Machine.execFlowSinkLimit ep at_ s
  | .msgSend src len => Sys2Proof.Machine.execMsgSend src len s
  | .linkKeyRenew port cert sigOk => Sys2Proof.Machine.execLinkKeyRenew port cert sigOk s
  | .timeOffsetWrite src v => Sys2Proof.Machine.execTimeOffsetWrite src v s
  | .attCmd src => Sys2Proof.Machine.execAttCmd src s
  | .attDone => Sys2Proof.Machine.execAttDone s
  | .keyDataWrite src v => Sys2Proof.Machine.execKeyDataWrite src v s
  | .keyLoad src => Sys2Proof.Machine.execKeyLoad src s
  | .keyLock src => Sys2Proof.Machine.execKeyLock src s
  | .provClose src => Sys2Proof.Machine.execProvClose src s
  | .rngRead src reseedFails => Sys2Proof.Machine.execRngRead src reseedFails s
  | .canTxRequest src n mask => Sys2Proof.Machine.execCanTxRequest src n mask s
  | .canTxDone n b at_ => Sys2Proof.Machine.execCanTxDone n b at_ s
  | .canRxFrame n fifo len at_ => Sys2Proof.Machine.execCanRxFrame n fifo len at_ s
  | .canMsgAccess src n write => Sys2Proof.Machine.execCanMsgAccess src n write s
  | .ethRxFrame n dst len kind descOk at_ => Sys2Proof.Machine.execEthRxFrame n dst len kind descOk at_ s
  | .ethTxFrame n len kind at_ => Sys2Proof.Machine.execEthTxFrame n len kind at_ s
  | .mdioCmd src n v => Sys2Proof.Machine.execMdioCmd src n v s
  | .mdioDone n data => Sys2Proof.Machine.execMdioDone n data s
  | .recordWriteDone p => Sys2Proof.Machine.execRecordWriteDone p s
  | .recordRepeatUpdate p => Sys2Proof.Machine.execRecordRepeatUpdate p s
  | .hrecCmd src v => Sys2Proof.Machine.execHrecCmd src v s
  | .recSelWrite src index part => Sys2Proof.Machine.execRecSelWrite src index part s
  | .clearNonce src => Sys2Proof.Machine.execClearNonce src s
  | .clearNonceReady => Sys2Proof.Machine.execClearNonceReady s
  | .clearGo src => Sys2Proof.Machine.execClearGo src s
  | .clearNonceExpire => Sys2Proof.Machine.execClearNonceExpire s
  | .clearLockoutExpire => Sys2Proof.Machine.execClearLockoutExpire s
  | .lifeFlushTimer => Sys2Proof.Machine.execLifeFlushTimer s
  | .flushCmd src => Sys2Proof.Machine.execFlushCmd src s
  | .lifeFlushDone ok => Sys2Proof.Machine.execLifeFlushDone ok s
  | .moduleTjUpdate m => Sys2Proof.Machine.execModuleTjUpdate m s
  | .modReset src => Sys2Proof.Machine.execModReset src s
  | .progDataWrite src v => Sys2Proof.Machine.execProgDataWrite src v s
  | .authCmd src => Sys2Proof.Machine.execAuthCmd src s
  | .authDone at_ => Sys2Proof.Machine.execAuthDone at_ s
  | .commitVersion src => Sys2Proof.Machine.execCommitVersion src s
  | .dmemWrite src p v => Sys2Proof.Machine.execDmemWrite src p v s
  | .dmemRead src p => Sys2Proof.Machine.execDmemRead src p s
  | .pmemRead src p => Sys2Proof.Machine.execPmemRead src p s
  | .shmWrite src p v => Sys2Proof.Machine.execShmWrite src p v s
  | .shmRead src p mf => Sys2Proof.Machine.execShmRead src p mf s
  | .slotClear src p => Sys2Proof.Machine.execSlotClear src p s
  | .powerUp => Sys2Proof.Machine.execPowerUp s
  | .porstAssert long torn => Sys2Proof.Machine.execPorstAssert long torn s
  | .brownOut long torn => Sys2Proof.Machine.execBrownOut long torn s
  | .coldStart run => Sys2Proof.Machine.execColdStart run s
  | .wrstRelease => Sys2Proof.Machine.execWrstRelease s
  | .warmStart run => Sys2Proof.Machine.execWarmStart run s
  | .startRetry => Sys2Proof.Machine.execStartRetry s
  | .watchdogRefresh at_ => Sys2Proof.Machine.execWatchdogRefresh at_ s
  | .glLoopEchoTimeout l => Sys2Proof.Machine.execGlLoopEchoTimeout l s
  | .sbcReadbackFault low => Sys2Proof.Machine.execSbcReadbackFault low s
  | .vkeepLoss => Sys2Proof.Machine.execVkeepLoss s
  | .tapTestLogicReset => Sys2Proof.Machine.execTapTestLogicReset s
  | .warmReuseTimeout => Sys2Proof.Machine.execWarmReuseTimeout s

end Sys2Proof.Machine
end

