-- ==== Sys2Proof/Safety.lean ====
section
/-! DEFINITION. The terms in which statements about the device are made: what a command answers, what it leaves as it was,
and what holds of the unlock windows and the memories in every state. -/

namespace Sys2Proof.Machine

/-! ### What a command answers -/

/-- Bit `i` of the register at `a` belongs to a field. -/
def Fld.covers (f : Fld) (a i : Nat) : Bool := f.reg == a && decide (f.lo ≤ i) && decide (i < f.lo + f.len)

/-- Every bit of every register outside the listed fields reads after as before. -/
def Chip.Keeps (c d : Chip) (l : List Fld) : Prop :=
  ∀ a i, (∀ f ∈ l, f.covers a i = false) → (d.rd a).getLsbD i = (c.rd a).getLsbD i

/-- The listed fields hold the listed values, and every other bit of every register is as before. -/
def Chip.Shows (c d : Chip) (l : List (Fld × Nat)) : Prop :=
  (∀ p ∈ l, d.get p.1 = p.2) ∧ c.Keeps d (l.map Prod.fst)

/-- The command answers a next state for which `post` holds. -/
def Completes (i : Instr) (s : State) (post : State → Prop) : Prop := ∃ t, exec i s = .next t ∧ post t

/-- The command answers a next state that differs from `base` as follows and in nothing else: what the device holds beside its
registers is as in `hidden`, and the listed register fields hold the listed values. The base is the state before the command,
or that state after the part of the command that another statement is about (one write of an unlock window used, a packet taken
in). -/
def Answers (i : Instr) (s base : State) (hidden : Chip) (l : List (Fld × Nat)) : Prop :=
  Completes i s fun t => t = { base with chip := { hidden with regs := t.chip.regs } } ∧ base.chip.Shows t.chip l

/-- The command changes register fields and nothing else. -/
def OnlyShows (i : Instr) (s : State) (l : List (Fld × Nat)) : Prop := Answers i s s s.chip l

/-- The command changes nothing. -/
def Ignores (i : Instr) (s : State) : Prop := exec i s = .next s

/-! ### Register writes of a source -/

/-- A write of a source reaches its page and is let through: the port is open, the page exists and its unlock window is open,
the device is not in SAFE-HOLD, and the register is no part of the safety configuration or Isaenaim is in SAFE with STO
applied (R55, R65, R395, R483). -/
def State.Lets (s : State) (src : Source) (a : Nat) : Prop :=
  s.chip.portOpen src = true ∧ pageImplemented a = true ∧ (s.lock (pageNo a)).isOpen s.chip.st = true ∧
  s.chip.phase ≠ .safeHold ∧ (safeRow a = true → s.chip.safeSto = true)

/-- The state with one write of a page's unlock window used (R65). -/
def State.spent (s : State) (a : Nat) : State := s.setLock (pageNo a) ((s.lock (pageNo a)).use s.chip.st)

/-- A command that a source gives through the register at `a` is refused by its page: WR_REJ is set, ERRINFO takes the reason, the
register, WR, the source and a count one higher up to 255, the window loses the write, and nothing else changes (R68, R493). -/
def RefusesWrite (i : Instr) (s : State) (src : Source) (a reason : Nat) (wr : Bool) : Prop :=
  Answers i s (s.spent a) s.chip
    [(hSticky (aPage a) 0, 1),
     (whole (aPage a + 0x24), reason + aOff a / 4 * 2 ^ 8 + wr.toNat * 2 ^ 18 + srcCode src * 2 ^ 19
        + min (s.chip.get (hRejCnt (aPage a)) + 1) 255 * 2 ^ 24)]

/-! ### Instructions of the engines -/

/-- What holds of every core that executes. -/
def PairSt.Each (x : PairSt) (cs : Cores) (P : CoreSt → Prop) : Prop := (cs.hasA = true → P x.a) ∧ (cs.hasB = true → P x.b)

/-- The pair executes an iteration whose fetched words show no parity error and no reserved opcode (R87, R108), and an instruction
of `wu` work units fits SLOT_COST on the cores that execute it (R109). -/
def Chip.CanRun (c : Chip) (p : Nat) (cs : Cores) (wu : Nat) : Prop :=
  ∃ r, c.executing p = some r ∧ c.badFetch p r cs = none ∧ (c.pair p).Each cs fun x => x.wu + wu ≤ c.slotCost p r

/-- What an instruction changes in a core: words, accumulators, predicates, flags raised, and entries of the commit list. -/
structure CoreEff where
  w : List (Nat × Word) := []
  acc : List (Nat × Int) := []
  p : List (Nat × Bool) := []
  fl : List Nat := []
  list : List Entry := []
deriving DecidableEq, Repr

/-- A 32-bit result saturated to the range of R90, with a flag when it was outside. -/
def satEff (rd flag : Nat) (v : Int) : CoreEff :=
  { w := [(rd, BitVec.ofInt 32 (max (-2 ^ 31) (min (2 ^ 31 - 1) v)))], fl := if v < -2 ^ 31 ∨ 2 ^ 31 - 1 < v then [flag] else [] }

/-- An accumulator result saturated to the range of R90, with OVF and SAT_ACC when it was outside. -/
def accEff (a : Nat) (v : Int) : CoreEff :=
  { acc := [(a, max (-2 ^ 71) (min (2 ^ 71 - 1) v))], fl := if v < -2 ^ 71 ∨ 2 ^ 71 - 1 < v then [flOvf, flSatAcc] else [] }

/-- `y` is the core `x` after an instruction of `wu` work units: the words, accumulators and predicates named hold their
values and every other one is as before, the flags named are raised, their updates and the entries named stand at the end of the
commit list, and execution stands at `next`. -/
def CoreSt.Does (x y next : CoreSt) (wu : Nat) (e : CoreEff) : Prop :=
  (∀ q ∈ e.w, y.getW q.1 = q.2) ∧ (∀ r, (∀ q ∈ e.w, q.1 ≠ r) → y.getW r = x.getW r) ∧
  (∀ q ∈ e.acc, y.getA q.1 = q.2) ∧ (∀ r, (∀ q ∈ e.acc, q.1 ≠ r) → y.getA r = x.getA r) ∧
  (∀ q ∈ e.p, y.getP q.1 = q.2) ∧ (∀ r, (∀ q ∈ e.p, q.1 ≠ r) → y.getP r = x.getP r) ∧
  y = { next with
    w := y.w, acc := y.acc, p := y.p, wu := x.wu + wu, flags := x.flags ||| BitVec.ofNat 5 (e.fl.map fun b => 2 ^ b).sum,
    list := x.list ++ e.list ++ e.fl.map Entry.flag }

/-- The command changes the cores of a pair that execute, each as `R` says of it before and after, the listed register fields, and
nothing else. -/
def OnCores (i : Instr) (p : Nat) (cs : Cores) (s : State) (l : List (Fld × Nat)) (R : Bool → CoreSt → CoreSt → Prop) : Prop :=
  Completes i s fun t => ∃ a b : CoreSt,
    (if cs.hasA then R false (s.chip.pair p).a a else a = (s.chip.pair p).a) ∧
    (if cs.hasB then R true (s.chip.pair p).b b else b = (s.chip.pair p).b) ∧
    t = { s with chip := { s.chip.setPair p { s.chip.pair p with a := a, b := b } with regs := t.chip.regs } } ∧
    s.chip.Shows t.chip l

/-- An instruction that acts within each core alone: under a true guard it has its effect and goes on, under a false guard it
only goes on; its work units are charged in either case (R94). -/
def RunsAs (i : Instr) (p : Nat) (cs : Cores) (g wu : Nat) (s : State) (eff : CoreSt → CoreEff) : Prop :=
  s.chip.CanRun p cs wu → OnCores i p cs s [] fun _ x y => x.Does y x.next wu (if x.getP g then eff x else {})

/-- The running iteration ends as a TRAP (R92, R108): the code, the slot and the offset are recorded, the loop is in FAULT, and
nothing of the iteration commits. -/
def Traps (i : Instr) (p : Nat) (s : State) (r : RunSt) (code addr : Nat) : Prop :=
  Completes i s fun t =>
    t.chip.rd (R.CLE.TRAP_INFO p) = wd (code + r.slot * 2 ^ 16) ∧ t.chip.rd (R.CLE.TRAP_ADDR p) = wd (addr % 2 ^ 14) ∧
    t.chip.on (F.CLE.STICKY.TRAP p) = true ∧ t.chip.get (fState r.loop) = lsFault ∧
    (t.chip.pair p).a.list = [] ∧ (t.chip.pair p).b.list = [] ∧ (t.chip.pair p).dmemA = (s.chip.pair p).dmemA ∧
    (t.chip.pair p).dmemB = (s.chip.pair p).dmemB ∧ t.chip.shm = s.chip.shm ∧
    (s.chip.on (lf F.LPD.LPD_OPEN.FAULT_MODE r.loop) = false → t.chip.effects = s.chip.effects) ∧
    ∀ k, 1 ≤ k → k ≤ 3 → t.chip.get (hSticky (R.CLE.ID p) k) = s.chip.get (hSticky (R.CLE.ID p) k)

/-- The pair has a mismatch while it runs an iteration (R149, R160): kind, place and time are recorded and counted, Isaenaim is
informed, and nothing of the iteration commits. -/
def Mismatches (i : Instr) (p : Nat) (s : State) (r : RunSt) (kind addr space : Nat) : Prop :=
  Completes i s fun t =>
    t.chip.rd (R.PAIRCMP.MISMATCH_INFO p) = wd (kind + r.slot * 2 ^ 4 + r.loop * 2 ^ 8 + 2 ^ 17) ∧
    t.chip.rd (R.PAIRCMP.MISMATCH_ADDR p) = wd (addr % 2 ^ 20 + space * 2 ^ 20) ∧
    t.chip.get64 (R.PAIRCMP.MISMATCH_ST_LO p) (R.PAIRCMP.MISMATCH_ST_HI p) = s.chip.st % 2 ^ 64 ∧
    t.chip.on (hSticky (R.PAIRCMP.ID p) (kindSticky kind)) = true ∧ (22, p) ∈ t.chip.reports ∧
    (t.chip.pair p).a.list = [] ∧ (t.chip.pair p).b.list = [] ∧ t.chip.effects = s.chip.effects ∧ t.chip.shm = s.chip.shm

/-! ### Legs -/

/-- A leg that its own page, STO, the supplies, its links and the interlock leave free to switch (Table 8.10). -/
def Chip.LegUp (c : Chip) (n : Nat) : Prop :=
  c.on (F.PG.CTRL.EN n) = true ∧ c.on F.SAFE.STO_STAT.CUT_B = false ∧ (c.pg n).uvBst = 0 ∧ (c.pg n).uvVg = 0 ∧
  (n < 24 → c.linkState (2 * n) = lkReady ∧ c.linkState (2 * n + 1) = lkReady) ∧ (c.pg n).interlocked = false

/-- STATE and the outputs of a leg. -/
def Chip.LegIs (c : Chip) (n state : Nat) (hs ls : Bool) : Prop :=
  c.get (F.PG.STATUS.STATE n) = state ∧ c.get (F.PG.PG_STAT.STATE n) = state ∧ c.on (F.PG.STATUS.HS n) = hs ∧ c.on (F.PG.STATUS.LS n) = ls

/-! ### Resets and starts -/

/-- `d` is the device `c` after a reset (Table 15.2): ST is 0, the registers of the classes without kept items hold their reset
values, with what a watchdog latch that stands shows (R391), the Kennel and what stands in NV memory are as before, and nothing is admitted, staged or on its way. -/
def Chip.ResetOf (c d : Chip) : Prop :=
  d.st = 0 ∧ (∀ a, aCls a ∉ [0, 3, 4, 16, 18, 20, 25, 26, 27] → a ≠ R.ISN.WD_STAT → a ≠ R.SAFE.STO_STAT → d.rd a = resetWord a) ∧
  d.on F.ISN.WD_STAT.FIRED = d.isn.wdFired ∧ d.rd R.SAFE.STO_STAT = resetWord R.SAFE.STO_STAT ||| (if d.isn.wdFired then 0x800 else 0) ∧ (∀ a, aCls a = 18 → d.rd a = c.rd a) ∧
  d.shadow = [] ∧ d.staged = [] ∧ d.admitted = [] ∧ d.loops = [] ∧ d.effects = [] ∧ d.pgs = [] ∧ d.links = [] ∧ d.shm = [] ∧
  d.bankA = c.bankA ∧ d.bankB = c.bankB ∧ d.genA = c.genA ∧ d.genB = c.genB ∧ d.sealA = c.sealA ∧ d.sealB = c.sealB ∧
  d.retiredNv = c.retiredNv ∧ d.lifeNv = c.lifeNv ∧ d.ken.ret = c.ken.ret

/-- What a failed start leaves for the next one (R479–R482): its record waits, its Kennel time and its step are kept among the last
three, and a third failure within 10 s (warm) or 60 s (cold) of the first escalates. -/
def StartSt.FailedAs (x y : StartSt) (now : Nat) (warm : Bool) (step : Nat) : Prop :=
  let fails := (now :: if warm then x.warmFails else x.coldFails).take 3
  let third (t : Nat) : Bool := decide (fails.length = 3) && decide (now ≤ fails.getD 2 0 + t)
  y.lastWarm = warm ∧ y.pend = x.pend ++ [(0x5602, warm.toNat, step, 0)] ∧
  y.warmFails = (if warm then fails else x.warmFails) ∧ y.coldFails = (if warm then x.coldFails else fails) ∧
  y.steps = (if warm then x.steps else (step :: x.steps).take 3) ∧
  y.esc = (warm && third (10 * Config.sec)) ∧ y.hold = (!warm && third (60 * Config.sec))

/-! ### Invariants -/

/-- The unlock state of a page is sound: at most 64 writes are left, and none while a first key waits for the second (R65). -/
def LockSt.ok (l : LockSt) : Bool := decide (l.remain ≤ 64) && (!l.armed || l.remain == 0)

/-- The table of unlock windows: pages in rising order, each listed page other than simply locked, and each sound. -/
def State.locksOk (s : State) : Bool := Tab.rising none s.locks && s.locks.all fun e => e.2 != {} && e.2.ok

/-- A table in canonical form: keys rise strictly, and no entry holds what an unlisted key reads as. -/
def Tab.canon {α : Type} [DecidableEq α] (d : α) (t : Tab α) : Bool := Tab.rising none t && t.all fun e => e.2 != d

/-- The canonical form of a memory of words. -/
def Memory.wf (m : Tab Word) : Bool := Tab.canon 0 m

/-- The memories of a core pair are in canonical form. -/
def PairSt.memOk (x : PairSt) : Bool := Memory.wf x.dmemA && Memory.wf x.dmemB

/-- Shared SRAM, the buffer of the march test, the mailbox, the port blocks and both banks are in canonical form. -/
def Chip.memOk (c : Chip) : Bool :=
  Memory.wf c.shm && Memory.wf c.marchBuf && Memory.wf c.mailbox && Memory.wf c.portWords && Memory.wf c.bankA && Memory.wf c.bankB

end Sys2Proof.Machine
end

