-- ==== Sys2Proof/Certificates/Slice0/Obligations.lean ====
section
/-! DEFINITION. What is claimed of the device, for the provers. -/

open Sys2Proof Sys2Proof.Machine

/-- A step runs the command at the front of the queue with the queue's rest (log 3); on an empty queue one tick of System Time
passes, the model's own choice (log 2). -/
def Obligations.StepRunsFrontCommand : Prop :=
  (∀ (c : Instr) (rest : List Instr) (s : State),
    step (s.withPending (c :: rest)) = exec c (s.withPending rest)) ∧
  ∀ s : State, s.pending = [] → step s = .next { s with chip := { s.chip with st := s.chip.st + 1 } }

/-- No command stops the device, and none touches the queue of waiting commands (the model's own field, log 3). -/
def Obligations.ExecKeepsQueue : Prop :=
  ∀ (c : Instr) (s : State), Completes c s fun t => t.pending = s.pending

/-- The unlock windows of the pages stay sound under every step (R65). -/
def Obligations.UnlockWindowsStaySound : Prop :=
  ∀ s t : State, s.locksOk = true → step s = .next t → t.locksOk = true

/-- The device after reset (Tables of the register maps; logs 5 and 7 for what the model chose). -/
def Obligations.ResetIsSound : Prop :=
  State.reset.pending = [] ∧ State.reset.locksOk = true ∧ State.reset.chip.memOk = true ∧
  (∀ p, State.reset.lock p = {}) ∧ (∀ a, State.reset.chip.rd a = resetWord a) ∧
  State.reset.chip.rd R.SAFE.STO_STAT = 0xF#32 ∧
  (∀ leg : Fin 40, State.reset.chip.rd (R.PG.PERIOD leg) = 0x138800#32 ∧ State.reset.chip.rd (R.PG.DT_HL leg) = 0x3200#32) ∧
  (∀ (g : Fin 12) (i : Fin 8), State.reset.chip.rd (R.CMPG.CTH g i) = 0x200#32) ∧
  State.reset.chip.st = 0

/-- The gate that every register write passes (R12, R55, R65, R66, R68, R395, R483, R493). ERRINFO is REASON, OFFSET from bit 8,
WR at bit 18, SOURCE from bit 19 and REJ_CNT from bit 24. -/
def Obligations.RegisterWriteMeetsTheGate : Prop :=
  ∀ (src : Source) (r : RegAddr) (v : Word) (s : State),
    let a := byteOf r
    let refusal (reason : Nat) : List (Fld × Nat) :=
      [(hSticky (aPage a) 0, 1),
       (whole (aPage a + 0x24), reason + aOff a / 4 * 2 ^ 8 + (!carriesCommand a v).toNat * 2 ^ 18 + srcCode src * 2 ^ 19
          + min (s.chip.get (hRejCnt (aPage a)) + 1) 255 * 2 ^ 24)]
    let opened := (s.lock (pageNo a)).isOpen s.chip.st
    (s.chip.portOpen src = false → Ignores (.registerWrite src r v) s) ∧
    (s.chip.portOpen src = true → pageImplemented a = false → OnlyShows (.registerWrite src r v) s
      [(hSticky R.HOST.ID 1, 1), (whole R.HOST.UNMAPPED_CNT, min (s.chip.get (whole R.HOST.UNMAPPED_CNT) + 1) (2 ^ 32 - 1))]) ∧
    (s.chip.portOpen src = true → pageImplemented a = true → aOff a ≠ 0x1C → readOnly a = true →
      Answers (.registerWrite src r v) s (s.spent a) s.chip []) ∧
    (s.chip.portOpen src = true → pageImplemented a = true → aOff a ≠ 0x1C → readOnly a = false →
      s.chip.phase = .safeHold → holdWritable (aCls a) = false →
      Answers (.registerWrite src r v) s (s.spent a) s.chip (refusal rState)) ∧
    (s.chip.portOpen src = true → pageImplemented a = true → aOff a ≠ 0x1C → readOnly a = false →
      s.chip.phase ≠ .safeHold → opened = false → lockExempt a = false →
      Answers (.registerWrite src r v) s (s.spent a) s.chip (refusal rLocked)) ∧
    (s.chip.portOpen src = true → pageImplemented a = true → aOff a ≠ 0x1C → readOnly a = false →
      s.chip.phase ≠ .safeHold → opened = true → safeRow a = true → s.chip.safeSto = false →
      Answers (.registerWrite src r v) s (s.spent a) s.chip (refusal rSafety))

/-- LOCK and its keys; writes to the header and to registers with no further meaning (R55, R63–R65, R67, R84). -/
def Obligations.KeysFlagsAndCountersAreWritten : Prop :=
  (∀ (src : Source) (p : Page) (s : State), s.chip.portOpen src = true → pageImplemented (firstOf p) = true →
    (s.chip.phase ≠ .safeHold ∨ holdWritable (aCls (firstOf p)) = true) →
      exec (.lockArm src p) s = .next (s.setLock p.toNat { armed := true }) ∧
      exec (.lockOpen src p) s = .next (s.setLock p.toNat
        (if (s.lock p.toNat).armed then { remain := 64, openedAt := s.chip.st } else {})) ∧
      ∀ key : BitVec 16, key ≠ 0x5A5A#16 → key ≠ 0xA5A5#16 → exec (.lockClose src p key) s = .next (s.setLock p.toNat {})) ∧
  (∀ (p : Page) (s : State), (s.lock p.toNat).remain ≠ 0 →
    exec (.unlockWindowExpire p) s = .next
      ({ s with chip := { s.chip with st := max s.chip.st ((s.lock p.toNat).openedAt + Config.ms) } }.setLock p.toNat {})) ∧
  (∀ (src : Source) (r : RegAddr) (v : Word) (s : State), s.chip.portOpen src = true → pageImplemented (byteOf r) = true →
    s.chip.phase ≠ .safeHold →
    (aOff (byteOf r) = 0x14 →
      Answers (.registerWrite src r v) s (s.spent (byteOf r)) s.chip
        [(whole (byteOf r), (v &&& wd (pageHdr (mapClass (aCls (byteOf r)) (aInst (byteOf r)))).sticky).toNat)]) ∧
    (aOff (byteOf r) = 0x10 → aCls (byteOf r) ≠ 1 → aCls (byteOf r) ≠ 18 →
      let keep := s.chip.rd (byteOf r) &&& ~~~(v &&& wd (pageHdr (mapClass (aCls (byteOf r)) (aInst (byteOf r)))).sticky)
      Answers (.stickyClear src r v) s (s.spent (byteOf r)) s.chip
        [(whole (byteOf r), keep.toNat),
         (hRejCnt (aPage (byteOf r)), if v.getLsbD 0 then 0 else s.chip.get (hRejCnt (aPage (byteOf r))))])) ∧
  (∀ (src : Source) (r : RegAddr) (s : State), s.chip.portOpen src = true → pageImplemented (byteOf r) = false →
    let counted := [(hSticky R.HOST.ID 1, 1),
      (whole R.HOST.UNMAPPED_CNT, min (s.chip.get (whole R.HOST.UNMAPPED_CNT) + 1) (2 ^ 32 - 1))]
    OnlyShows (.unmappedAccess src r true) s counted ∧
    Answers (.unmappedAccess src r false) s s { s.chip with out := [0] } counted) ∧
  (∀ (src : Source) (php shp : Bool) (s : State), s.Lets src R.HOST.PORT_CFG →
    Answers (.portCfgWrite src php shp) s (s.spent R.HOST.PORT_CFG) s.chip
      [(F.HOST.PORT_CFG.PHP_EN, php.toNat), (F.HOST.PORT_CFG.SHP_EN, shp.toNat)]) ∧
  ∀ (src : Source) (r : RegAddr) (v : Word) (s : State), byteOf r = R.LEASH.CNT_CLR → s.Lets src R.LEASH.CNT_CLR →
    let after (i a : Nat) : Fld × Nat := (whole a, if v.getLsbD i then 0 else (s.chip.rd a).toNat)
    Answers (.counterClear src r v) s (s.spent R.LEASH.CNT_CLR) s.chip
      [after 0 R.LEASH.REFUSE_CNT, after 1 R.LEASH.LATE_CNT, after 2 R.LEASH.ATRISK_CNT, after 3 R.LEASH.MIGR_CNT,
       after 4 R.LEASH.DLMISS_CNT]

/-- Shadows and commits (R69–R73). Registers that a soft reset does not return, such as calibrations, are `softReg`'s
(log 48). -/
def Obligations.ShadowValuesWaitForTheCommit : Prop :=
  (∀ (src : Source) (leg : Fin 40) (r : RegAddr) (v : Word) (s : State), byteOf r = R.PG.DUTY leg → s.Lets src (R.PG.DUTY leg) →
    s.chip.on (F.PG.SRC.DSRC leg) = false → s.chip.convDrives leg = false →
    exec (.shadowWrite src r v) s =
      .next { s.spent (R.PG.DUTY leg) with chip := { s.chip with shadow := Tab.put s.chip.shadow (R.PG.DUTY leg) v } }) ∧
  (∀ (src : Source) (leg : Fin 40) (p : Page) (s : State), firstOf p = R.PG.ID leg → s.Lets src (R.PG.CTRL leg) →
    (s.chip.rd (R.PG.CTRL leg) = 1#32 → s.chip.inGroup (R.PG.ID leg) = false →
      Answers (.commitRequest src p) s (s.spent (R.PG.CTRL leg)) s.chip [(whole (R.PG.CTRL leg), 9)]) ∧
    (s.chip.rd (R.PG.CTRL leg) = 5#32 →
      Answers (.freezeRelease src p) s (s.spent (R.PG.CTRL leg)) s.chip [(whole (R.PG.CTRL leg), 1)])) ∧
  (∀ (k : Fin 8) (p : Page) (v : Word) (s : State), firstOf p = R.CONV.ID k → s.chip.on (hEn (R.CONV.ID k)) = false →
    s.chip.on (hCommitReq (R.CONV.ID k)) = true → s.chip.on (hFreeze (R.CONV.ID k)) = false →
    s.chip.inGroup (R.CONV.ID k) = false → s.chip.shadowsOf (R.CONV.ID k) = [(R.CONV.VTARGET k, v)] →
    Answers (.shadowCommit p) s s
      { s.chip with shadow := Tab.drop (fun a => aPage a == R.CONV.ID k) s.chip.shadow }
      [(whole (R.CONV.VTARGET k), (merge (s.chip.rd (R.CONV.VTARGET k)) v 0xFFFFFF).toNat),
       (hCfgEpoch (R.CONV.ID k), (s.chip.get (hCfgEpoch (R.CONV.ID k)) + 1) % 2 ^ 16), (hCommitReq (R.CONV.ID k), 0)]) ∧
  ∀ (src : Source) (n : Fin 24) (p : Page) (s : State), firstOf p = R.ADC.ID n → s.Lets src (R.ADC.CTRL n) →
    s.chip.rd (R.ADC.CTRL n) = 0#32 →
    Completes (.softReset src p) s fun t =>
      (∀ a, aPage a = R.ADC.ID n → softReg a = true → t.chip.rd a = resetWord a) ∧
      t.chip.rd (R.ADC.CTRL n) = 0#32 ∧ t.chip.rd (R.ADC.STICKY n) = s.chip.rd (R.ADC.STICKY n) &&& 1#32 ∧
      Tab.find t.chip.adcs n = none ∧ (∀ a, aPage a ≠ R.ADC.ID n → t.chip.rd a = s.chip.rd a)

/-- The global commit group (R74, R75). -/
def Obligations.GroupFireCaptureAndApply : Prop :=
  (∀ (src : Source) (imm : Bool) (s : State), s.Lets src R.SYS.GRP_CTRL → s.chip.get F.SYS.GRP_STATUS.STATE = 0 →
    (s.chip.members = [] →
      Answers (.groupFire src imm) s (s.spent R.SYS.GRP_CTRL) s.chip
        [(F.SYS.GRP_CTRL.IMMEDIATE, imm.toNat), (whole R.SYS.GRP_STATUS, 4 + rParam * 256), (hSticky R.SYS.ID 2, 1)]) ∧
    (∀ k, s.chip.members = [k] → pageImplemented (s.chip.memberPage k) = true →
      s.chip.st + Config.us ≤ s.chip.get64 R.SYS.GRP_TIME_LO R.SYS.GRP_TIME_HI →
      Answers (.groupFire src false) s (s.spent R.SYS.GRP_CTRL) { s.chip with grpLeft := [k], staged := [] }
        [(F.SYS.GRP_CTRL.IMMEDIATE, 0), (whole R.SYS.GRP_STATUS, 1 + 65536)])) ∧
  (∀ (k : Nat) (s : State), s.chip.get F.SYS.GRP_STATUS.STATE = 1 → s.chip.grpLeft = [k] →
    s.chip.on (hFreeze (s.chip.memberPage k)) = true → s.chip.memberPage k ≠ R.SYS.ID →
    Answers .groupCapture s s
      { s.chip with
        st := max s.chip.st (s.chip.get64 R.SYS.GRP_TIME_LO R.SYS.GRP_TIME_HI)
        staged := s.chip.shadow.filter fun e => s.chip.memberPage k == aPage e.1
        shadow := Tab.drop (fun a => s.chip.memberPage k == aPage a) s.chip.shadow }
      [(F.SYS.GRP_STATUS.STATE, 2)]) ∧
  ∀ (j : Fin 32) (k : Fin 8) (v : Word) (s : State), s.chip.get F.SYS.GRP_STATUS.STATE = 2 → s.chip.grpLeft = [j.val] →
    s.chip.memberPage j = R.CONV.ID k → s.chip.on (hFreeze (R.CONV.ID k)) = false → s.chip.on (hEn (R.CONV.ID k)) = false →
    s.chip.staged = [(R.CONV.VTARGET k, v)] → s.chip.shadow = [] →
    Answers (.groupMemberApply j) s s { s.chip with staged := [], grpLeft := [] }
      [(whole (R.CONV.VTARGET k), (merge (s.chip.rd (R.CONV.VTARGET k)) v 0xFFFFFF).toNat),
       (hCfgEpoch (R.CONV.ID k), (s.chip.get (hCfgEpoch (R.CONV.ID k)) + 1) % 2 ^ 16), (hCommitReq (R.CONV.ID k), 0),
       (F.SYS.GRP_STATUS.STATE, 3), (F.SYS.GRP_STATUS.PEND_N, 0), (hSticky R.SYS.ID 1, 1),
       (whole R.SYS.GRP_DONE_LO, s.chip.st % 2 ^ 32), (whole R.SYS.GRP_DONE_HI, s.chip.st / 2 ^ 32 % 2 ^ 32)]

/-- Reads and serial frames (R22, R60–R62). -/
def Obligations.ReadsLatchAndFramesAnswer : Prop :=
  let ends (s : State) (flag cmd len : Nat) : List (Fld × Nat) := [(whole R.HOST.SHP_STATUS, flag + cmd * 2 ^ 8 + len * 2 ^ 16)]
  (∀ (r : Reader) (s : State), (∀ src, r = .port src → s.chip.portOpen src = true) →
    exec (.stLoRead r) s = .next { s with chip := { s.chip with
      out := [wd s.chip.st], latches := Tab.set s.chip.latches 0 (latchKey (readerCode r) R.SYS.ST_LO) (wd (s.chip.st / 2 ^ 32)) } } ∧
    ∀ (a : RegAddr) (n : Fin 36) (m : Fin 2) (lo hi : Nat), byteOf a = lo →
      (lo, hi) ∈ [(R.PAIRCMP.MISMATCH_ST_LO n, R.PAIRCMP.MISMATCH_ST_HI n), (R.TRIP.SC_ST_LO, R.TRIP.SC_ST_HI),
        (R.ISN.LAST_ST_LO, R.ISN.LAST_ST_HI), (R.ETH.TS_TX_LO m, R.ETH.TS_TX_HI m), (R.ETH.TS_RX_LO m, R.ETH.TS_RX_HI m)] →
      exec (.latchedLoRead r a) s = .next { s with chip := { s.chip with
        out := [s.chip.rd lo], latches := Tab.set s.chip.latches 0 (latchKey (readerCode r) lo) (s.chip.rd hi) } }) ∧
  ∀ s : State, s.chip.portOpen .serial = true →
    (∀ (a : Word) (len : Fin 64), Answers (.shpStatusFrame a len false) s s
      { s.chip with out := [s.chip.rd R.HOST.SHP_STATUS,
        wd (crc16 (frameBytes cmdStatus len a.toNat [s.chip.rd R.HOST.SHP_STATUS]))] } (ends s 1 cmdStatus len)) ∧
    (∀ (a : RegAddr) (len : Fin 64), frameCrosses (byteOf a) (len + 1) = false →
      let r := s.sample ((List.range (len + 1)).map fun i => byteOf a + 4 * i)
      Completes (.shpReadFrame a len none) s fun t =>
        t = { r.2 with chip := { r.2.chip with
          out := r.1 ++ [wd (crc16 (frameBytes cmdRead len (byteOf a) r.1))], regs := t.chip.regs } } ∧
        r.2.chip.Shows t.chip (ends s 1 cmdRead len)) ∧
    (∀ (a : RegAddr) (ws : List Word) (crc : BitVec 16), ws ≠ [] → ws.length ≤ 64 → frameCrosses (byteOf a) ws.length = false →
      let good := crc16 (frameBytes cmdWrite (ws.length - 1) (byteOf a) ws) = crc.toNat
      let u := (List.range ws.length).foldl (fun (t : State) (i : Nat) => t.busWrite .serial (byteOf a + 4 * i) (ws.getD i 0)) s
      (good → Completes (.shpWriteFrame a ws crc false) s fun t =>
        t = { u with chip := { u.chip with regs := t.chip.regs } } ∧ u.chip.Shows t.chip (ends s 1 cmdWrite (ws.length - 1))) ∧
      (¬good → OnlyShows (.shpWriteFrame a ws crc false) s (ends s 2 cmdWrite (ws.length - 1) ++ [(hSticky R.HOST.ID 2, 1)]))) ∧
    ∀ (cmd : BitVec 8) (a : RegAddr) (len : Fin 64), cmd ≠ 0x1E#8 → cmd ≠ 0x2D#8 → cmd ≠ 0x3C#8 →
      OnlyShows (.shpFrameInvalid cmd a len) s (ends s 4 cmd.toNat len ++ [(hSticky R.HOST.ID 3, 1)])

/-- The mailbox (R79–R82) and late arrivals (R47). -/
def Obligations.MailboxChannelsAskAndAnswer : Prop :=
  (∀ (src : Source) (ch : Fin 4) (s : State), s.chip.portOpen src = true →
    let request (op : Nat) : MbxSt :=
      { op := op, dest := bits (s.chip.rd (R.HOST.MBX_DEST ch)) 0 14, addr := bits (s.chip.rd (R.HOST.MBX_ADDR ch)) 2 22 * 4,
        data := s.chip.rd (R.HOST.MBX_WDATA ch), start := s.chip.st }
    let asks (op : Nat) : Chip := { s.chip with mbx := Tab.set s.chip.mbx {} ch (request op) }
    (s.chip.on (F.HOST.MBX_STATUS.BUSY ch) = false → (s.chip.elPairTo (bits (s.chip.rd (R.HOST.MBX_DEST ch)) 0 14)).isSome = true →
      Answers (.mbxRead src ch) s (s.spent (R.HOST.MBX_CMD ch)) (asks 1) [(whole (R.HOST.MBX_STATUS ch), 1)] ∧
      Answers (.mbxWrite src ch) s (s.spent (R.HOST.MBX_CMD ch)) (asks 2) [(whole (R.HOST.MBX_STATUS ch), 1)]) ∧
    (∀ op : BitVec 2, s.chip.on (F.HOST.MBX_STATUS.BUSY ch) = false → op = 0#2 ∨ op = 3#2 →
      Answers (.mbxInvalidOp src ch op) s (s.spent (R.HOST.MBX_CMD ch)) s.chip
        [(whole (R.HOST.MBX_STATUS ch), 8 + rParam * 256), (hSticky R.HOST.ID (8 + ch), 1)]) ∧
    (∀ op : BitVec 2, s.chip.on (F.HOST.MBX_STATUS.BUSY ch) = true →
      Completes (.mbxInvalidOp src ch op) s fun t => t.chip.mbx = s.chip.mbx ∧
        t.chip.rd (R.HOST.MBX_STATUS ch) = s.chip.rd (R.HOST.MBX_STATUS ch) ∧ t.chip.get (hReason R.HOST.ID) = rState ∧
        t.chip.get (hSticky R.HOST.ID 0) = 1)) ∧
  (∀ (ch : Fin 4) (s : State), s.chip.on (F.HOST.MBX_STATUS.BUSY ch) = true →
    ((s.chip.mbxCh ch).accepted = false →
      (∀ (pr : ElPair) (r : Nat × Nat), s.chip.elPairTo (s.chip.mbxCh ch).dest = some pr → pr.isOpen = true →
        s.chip.elRoute (s.chip.mbxCh ch).dest = some r → s.chip.elUp r.1 = true → r.1 < 4 →
        Completes (.mbxAdmissionDone ch) s fun t => t.chip.mbxCh ch = { s.chip.mbxCh ch with accepted := true } ∧
          t.chip.on (F.HOST.MBX_STATUS.BUSY ch) = true ∧ t.chip.st = s.chip.st ∧
          t.chip.rd (R.HOST.MBX_BOUND ch) = wd ((2 * s.chip.elBound pr + 9) / 10 + 1000)) ∧
      (s.chip.elPairTo (s.chip.mbxCh ch).dest = none →
        OnlyShows (.mbxAdmissionDone ch) s
          [(whole (R.HOST.MBX_STATUS ch), 8 + rNoPath * 256), (hSticky R.HOST.ID (8 + ch), 1)])) ∧
    ((s.chip.mbxCh ch).accepted = true →
      let done : Chip := { s.chip with mbx := Tab.set s.chip.mbx {} ch {} }
      (∀ data : Word, Answers (.mbxReply ch data none) s s done
        [(hSticky R.HOST.ID (4 + ch), 1), (whole (R.HOST.MBX_STATUS ch), 2),
         (whole (R.HOST.MBX_RDATA ch), (if (s.chip.mbxCh ch).op = 1 then data else s.chip.rd (R.HOST.MBX_RDATA ch)).toNat)]) ∧
      (∀ (data : Word) (why : BitVec 8), Answers (.mbxReply ch data (some why)) s s done
        [(hSticky R.HOST.ID (4 + ch), 1), (whole (R.HOST.MBX_STATUS ch), 2 + 16 + why.toNat * 256), (hSticky R.HOST.ID (8 + ch), 1)]) ∧
      let timedOut (i : Instr) : Prop := Answers i s s
        { done with st := max s.chip.st ((s.chip.mbxCh ch).start + Config.ns (s.chip.rd (R.HOST.MBX_BOUND ch)).toNat) }
        [(whole (R.HOST.MBX_STATUS ch), 4), (hSticky R.HOST.ID (8 + ch), 1), (hSticky R.HOST.ID 12, 1),
         (whole R.HOST.MBX_LATE_CNT, min ((s.chip.rd R.HOST.MBX_LATE_CNT).toNat + 1) (2 ^ 32 - 1)),
         (whole R.LEASH.LATE_CNT, min ((s.chip.rd R.LEASH.LATE_CNT).toNat + 1) (2 ^ 32 - 1)),
         (F.LEASH.STICKY.LATE_ARRIVAL, 1), (whole R.LEASH.LATE_LAST, 1 + ch.val * 2 ^ 16)]
      timedOut (.mbxTimeout ch) ∧ ∀ inst chan : BitVec 8, chan.toNat = ch.val → timedOut (.timeoutExpiry 1#8 inst chan))) ∧
  ∀ (cls inst chan : BitVec 8) (s : State), cls ≠ 0x01#8 → cls ≠ 0x03#8 → cls ≠ 0x04#8 → cls ≠ 0x0B#8 → cls ≠ 0x15#8 →
    OnlyShows (.timeoutExpiry cls inst chan) s
      [(whole R.LEASH.LATE_CNT, min ((s.chip.rd R.LEASH.LATE_CNT).toNat + 1) (2 ^ 32 - 1)), (F.LEASH.STICKY.LATE_ARRIVAL, 1),
       (whole R.LEASH.LATE_LAST, cls.toNat + inst.toNat * 2 ^ 8 + chan.toNat * 2 ^ 16)]

/-- Admission (R33–R37, R51, R116, R117, R494; order of the checks: log 14). -/
def Obligations.AdmissionCommandsAreLatchedAndDecided : Prop :=
  (∀ (src : Source) (s : State), s.Lets src R.LEASH.ADM_CMD → s.chip.adm = none →
    let latches (i : Instr) (a : AdmCmd) : Prop :=
      Answers i s (s.spent R.LEASH.ADM_CMD) { s.chip with adm := some a } [(F.LEASH.ADM_RESULT.DONE, 0)]
    (∀ (loop : Fin 512) (pair : BitVec 6) (any : Bool),
      latches (.admAdmit src loop pair any) { op := 1, loop := loop, pair := pair.toNat, anyPair := any } ∧
      latches (.admTestOnly src loop pair any) { op := 3, loop := loop, pair := pair.toNat, anyPair := any }) ∧
    (∀ loop : Fin 512, latches (.admWithdraw src loop) { op := 2, loop := loop, pair := 0, anyPair := false }) ∧
    latches (.admReevaluate src) { op := 4, loop := 0, pair := 0, anyPair := false } ∧
    ∀ (loop : Fin 512) (pair : BitVec 6) (op : BitVec 3),
      latches (.admInvalidOp src loop pair op) { op := op.toNat, loop := loop, pair := pair.toNat, anyPair := false }) ∧
  (∀ (a : AdmCmd) (s : State), s.chip.adm = some a → a.loop < 512 →
    let answer (pair reason : Nat) : Nat := 1 + (if reason = 0 then 2 else 0) + pair % 64 * 2 ^ 2 + reason * 2 ^ 8 + a.loop * 2 ^ 16
    (a.op = 0 ∨ 4 < a.op → Answers .admDecisionDone s s { s.chip with adm := none }
      [(whole R.LEASH.ADM_RESULT, answer a.pair rParam),
       (whole R.LEASH.REFUSE_CNT, min ((s.chip.rd R.LEASH.REFUSE_CNT).toNat + 1) (2 ^ 32 - 1)), (F.LEASH.STICKY.REFUSED, 1),
       (whole R.LEASH.LAST_REFUSE, 2 + rParam * 2 ^ 16)]) ∧
    (a.op = 1 → s.chip.phase = .ready → s.chip.on (fAdmitted a.loop) = true → Completes .admDecisionDone s fun t =>
      t.chip.adm = none ∧ t.chip.rd R.LEASH.ADM_RESULT = wd (answer (if a.anyPair then 0 else a.pair) rState) ∧
      t.chip.loops = s.chip.loops ∧ t.chip.admitted = s.chip.admitted ∧ t.chip.on F.LEASH.STICKY.REFUSED = true) ∧
    (∀ r : Req, a.op = 1 → a.anyPair = false → s.chip.phase = .ready → s.chip.on F.LEASH.CTRL.HOLD_ADM = false →
      s.chip.refLost = false → s.chip.on (fAdmitted a.loop) = false → a.pair < 36 → s.chip.reqOf a.loop = some r →
      s.chip.paramsOk r = true → s.chip.cellPortsOk r = true → r.entry.spanValid = false → s.chip.on (F.CLE.CTRL.EN a.pair) = true → s.chip.on (F.CLE.PAIR_INFO.RETIRED a.pair) = false →
      (s.chip.pairTest r a.pair).1 = 0 → s.chip.portsTaken r = false → (s.chip.reserveOn r a.pair).isSome = true →
      Completes .admDecisionDone s fun t =>
        t.chip.adm = none ∧ t.chip.rd R.LEASH.ADM_RESULT = wd (answer a.pair 0) ∧ t.chip.on (fAdmitted a.loop) = true ∧
        t.chip.get (fPair a.loop) = a.pair ∧ t.chip.admitted = s.chip.admitted ++ [a.loop]) ∧
    (a.op = 2 → s.chip.on (fAdmitted a.loop) = true → s.chip.isInner a.loop = false → s.chip.get (lf F.LPD.LPD_TRIG.TSRC a.loop) ≠ 6 →
      Completes .admDecisionDone s fun t =>
        t = { s with chip := { s.chip with adm := none, loops := t.chip.loops, regs := t.chip.regs } } ∧
        s.chip.Shows t.chip [(whole R.LEASH.ADM_RESULT, answer (s.chip.get (fPair a.loop)) 0)] ∧
        t.chip.loop a.loop = { s.chip.loop a.loop with withdraw := true } ∧ ∀ l, l ≠ a.loop → t.chip.loop l = s.chip.loop l)) ∧
  ∀ (p : Fin 36) (s : State), let l := s.chip.get (F.CLE.LOAD_STATUS.LOOP p)
    s.chip.on (F.CLE.LOAD_STATUS.BUSY p) = true → s.chip.on (fAdmitted l) = true → s.chip.on (fLoaded l) = false →
    s.chip.get (fPair l) = p → s.chip.loopsOn p = [l] →
    Completes (.loadCopyDone p false) s fun t =>
      t.chip.on (fLoaded l) = true ∧ t.chip.on (F.CLE.LOAD_STATUS.DONE p) = true ∧ t.chip.on (F.CLE.LOAD_STATUS.BUSY p) = false

/-- Regions: pace, voltage and skew (R15–R18, R38–R45; VMEAS follows the target, log 59). -/
def Obligations.RegionsAnswerPaceVoltageAndSkew : Prop :=
  let regionsOnly (s t : State) : Prop := t = { s with chip := { s.chip with regions := t.chip.regions, regs := t.chip.regs } }
  (∀ (g : Fin 12) (sensor : Fin 4) (pace : BitVec 16) (at_ : Nat) (s : State), sensor.val < sensorCount g →
    Completes (.paceSensorUpdate g sensor pace at_) s fun t =>
      t = { s with chip := { s.chip with st := max s.chip.st at_, regions := t.chip.regions } } ∧
      (t.chip.region g).sensors = Tab.put (s.chip.region g).sensors sensor pace.toNat ∧
      ∀ h, h ≠ g.val → t.chip.region h = s.chip.region h) ∧
  (∀ (g : Fin 12) (s : State), (s.chip.region g).sensorsDiffer = true →
    Answers (.paceFaultDetect g) s s (s.chip.report 8 g) [(F.LEASH.STICKY.PACE_FAULT, 1)]) ∧
  (∀ (g : Fin 12) (s : State), s.chip.paceAtLeast g 102 = true → s.chip.paceAtLeast g 105 = false → s.chip.paceAtLeast g 108 = false →
    s.chip.on F.LEASH.ADM_CFG.AUTO_VOLT = true → (s.chip.region g).migrating = false → (∀ h, h < 12 → (s.chip.region h).step ≤ 1) →
    let x := s.chip.region g
    Completes (.regionPaceCheck g) s fun t => regionsOnly s t ∧ s.chip.Shows t.chip [(F.LEASH.STATUS.STATE, 1)] ∧
      t.chip.region g = { x with
        watch := true, okSince := none, step := 1, rising := !x.capped, preTarget := some (min (x.preTarget.getD x.target) x.target)
        voltOut := if x.vmeas ≤ x.target + 20 ∧ x.target ≤ x.vmeas + 20 then x.voltOut else some s.chip.st } ∧
      ∀ h, h ≠ g.val → t.chip.region h = s.chip.region h) ∧
  (∀ (g : Fin 12) (s : State), let x := s.chip.region g
    x.rising = true → s.chip.on F.LEASH.ADM_CFG.AUTO_VOLT = true →
    s.chip.paceAtLeast g 108 = false → s.chip.get F.LEASH.VOLT_LIMIT.VMIN ≤ x.target →
    x.target + 20 ≤ s.chip.get F.LEASH.VOLT_LIMIT.VMAX →
    (∀ h ∈ crossRegions g, x.target ≤ (s.chip.region h).target + 100) →
    Completes (.voltStepUp g) s fun t => regionsOnly s t ∧ s.chip.Keeps t.chip [F.LEASH.STATUS.STATE] ∧
      t.chip.region g = { x with
        target := x.target + 10, vmeas := x.target + 10, capped := false, preTarget := some (min (x.preTarget.getD x.target) x.target) } ∧
      ∀ h, h ≠ g.val → t.chip.region h = { s.chip.region h with capped := (t.chip.region h).capped }) ∧
  (∀ (g : Fin 12) (q : Nat) (s : State), let x := s.chip.region g
    s.chip.voltFits g (x.target - 10) = true → x.target ≤ s.chip.get F.LEASH.VOLT_LIMIT.VMAX → x.preTarget = some q →
    x.step = 0 → s.chip.paceAtLeast g 108 = true → q ≤ x.target - 10 → s.chip.get F.LEASH.VOLT_LIMIT.VMIN ≤ x.target - 10 →
    Completes (.voltStepDown g) s fun t => t = { s with chip := { s.chip with regions := t.chip.regions } } ∧
      t.chip.region g = { x with
        target := x.target - 10, vmeas := x.target - 10, preTarget := if x.target - 10 = q then none else some q, capped := false } ∧
      ∀ h, h ≠ g.val → t.chip.region h = { s.chip.region h with capped := (t.chip.region h).capped }) ∧
  (∀ (g : Fin 12) (t0 : Nat) (s : State), (s.chip.region g).okSince = some t0 → s.chip.paceAtLeast g 108 = true → s.chip.admitted = [] →
    Completes (.regionRecover g) s fun t =>
      t = { s with chip := { s.chip with
        st := max s.chip.st (t0 + 10 * Config.ms), regions := t.chip.regions, regs := t.chip.regs } } ∧
      s.chip.Keeps t.chip [F.LEASH.STATUS.STATE] ∧
      t.chip.region g = { s.chip.region g with watch := false, migrating := false, refusing := false, capped := false, rising := false, step := 0 } ∧
      ∀ h, h ≠ g.val → t.chip.region h = s.chip.region h) ∧
  (∀ (a b : Fin 12) (s : State), b.val ∈ crossRegions a → s.chip.overLimit a b = true →
    (∀ l ∈ s.chip.admitted, ¬(a.val ∈ (s.chip.loop l).span ∧ b.val ∈ (s.chip.loop l).span)) →
    Completes (.skewDetect a b) s fun t => regionsOnly s t ∧ s.chip.Shows t.chip [(F.LEASH.STICKY.SKEW, 1)] ∧
      t.chip.region a = { s.chip.region a with skew := (b.val :: (s.chip.region a).skew).eraseDups } ∧
      t.chip.region b = { s.chip.region b with skew := (a.val :: (s.chip.region b).skew).eraseDups } ∧
      ∀ h, h ≠ a.val → h ≠ b.val → t.chip.region h = s.chip.region h) ∧
  (∀ (a b : Fin 12) (s : State), a ≠ b → s.chip.inside90 a b = true → s.chip.admitted = [] →
    Completes (.skewClear a b) s fun t => regionsOnly s t ∧ t.chip.regs = s.chip.regs ∧
      t.chip.region a = { s.chip.region a with skew := (s.chip.region a).skew.filter fun y => y != b.val } ∧
      t.chip.region b = { s.chip.region b with skew := (s.chip.region b).skew.filter fun y => y != a.val } ∧
      ∀ h, h ≠ a.val → h ≠ b.val → t.chip.region h = s.chip.region h) ∧
  ∀ (src : Source) (vmin vmax : BitVec 10) (s : State), s.Lets src R.LEASH.VOLT_LIMIT →
    let hi := max 720 (min 880 vmax.toNat)
    Completes (.voltLimitWrite src vmin vmax) s fun t =>
      t = { s.spent R.LEASH.VOLT_LIMIT with chip := { s.chip with regions := t.chip.regions, regs := t.chip.regs } } ∧
      s.chip.Shows t.chip [(whole R.LEASH.VOLT_LIMIT, hi + min hi (max 720 (min 880 vmin.toNat)) * 2 ^ 16)] ∧
      ∀ g : Fin 12, let x := s.chip.region g
        let room := x.target + 10 ≤ hi ∧ ∀ h ∈ crossRegions g, x.target ≤ (s.chip.region h).target + 110
        t.chip.region g = { x with capped := (t.chip.region g).capped } ∧
        (x.capped = false ∨ room → (t.chip.region g).capped = false) ∧ (x.capped = true → hi < x.target + 10 → (t.chip.region g).capped = true)

/-- Rounding (R89). -/
def Obligations.RoundingIsFloorOfHalfMore : Prop :=
  (∀ v s : Int, scale v s = ((v : Rat) * (2 : Rat) ^ s + 1 / 2).floor) ∧
  (∀ v s : Int, 0 ≤ s → ((scale v s : Int) : Rat) = (v : Rat) * (2 : Rat) ^ s) ∧
  ∀ (p : Fin 36) (cs : Cores) (g : Fin 8) (rd ra : Fin 32) (qs : BitVec 5) (s : State),
    RunsAs (.cleMov p cs g rd ra qs) p cs g 1 s fun x => satEff rd flSat ((x.val ra : Rat) * (2 : Rat) ^ qs.toInt + 1 / 2).floor

/-- Arithmetic of the engines (R89–R97, Table 3.4). -/
def Obligations.ArithmeticSaturatesWithItsFlags : Prop :=
  ∀ (p : Fin 36) (cs : Cores) (g : Fin 8) (rd ra rb : Fin 32) (acc : Fin 4) (qs : BitVec 5) (s : State),
    RunsAs (.cleAdd p cs g rd ra rb qs) p cs g 1 s (fun x => satEff rd flSat (scale (x.val ra + x.val rb) qs.toInt)) ∧
    RunsAs (.cleSub p cs g rd ra rb qs) p cs g 1 s (fun x => satEff rd flSat (scale (x.val ra - x.val rb) qs.toInt)) ∧
    RunsAs (.cleMul p cs g rd ra rb qs) p cs g 3 s (fun x => satEff rd flSat (scale (x.val ra * x.val rb) (qs.toInt - 31))) ∧
    RunsAs (.cleAbs p cs g rd ra qs) p cs g 1 s (fun x => satEff rd flSat (scale ((x.val ra).natAbs : Int) qs.toInt)) ∧
    RunsAs (.cleNeg p cs g rd ra qs) p cs g 1 s (fun x => satEff rd flSat (scale (-x.val ra) qs.toInt)) ∧
    RunsAs (.cleShv p cs g rd ra rb) p cs g 1 s (fun x => satEff rd flSat (scale (x.val ra) (max (-31) (min 31 (x.val rb))))) ∧
    RunsAs (.cleDiv p cs g rd ra rb qs) p cs g 12 s (fun x =>
      if x.val rb = 0 then
        { w := [(rd, if 0 < x.val ra then 0x7FFFFFFF#32 else if x.val ra < 0 then 0x80000000#32 else 0)], fl := [flDiv0] }
      else satEff rd flSat ((x.val ra : Rat) * (2 : Rat) ^ (31 + qs.toInt) / (x.val rb : Rat) + 1 / 2).floor) ∧
    (∀ imm : BitVec 16, RunsAs (.cleAddi p cs g rd imm) p cs g 1 s fun x => satEff rd flSat (x.val rd + imm.toInt)) ∧
    RunsAs (.cleMac p cs g acc ra rb qs) p cs g 2 s (fun x => accEff acc (x.getA acc + scale (x.val ra * x.val rb) qs.toInt)) ∧
    RunsAs (.cleMsu p cs g acc ra rb qs) p cs g 2 s (fun x => accEff acc (x.getA acc - scale (x.val ra * x.val rb) qs.toInt)) ∧
    RunsAs (.cleAccw p cs g acc ra qs) p cs g 1 s (fun x => accEff acc (scale (x.val ra) (31 + qs.toInt))) ∧
    ∀ clear : Bool, RunsAs (.cleAccr p cs g acc rd clear qs) p cs g 1 s fun x =>
      let v := scale (x.getA acc) (qs.toInt - 31)
      { satEff rd flSat v with
        acc := if clear then [(acc, 0)] else []
        fl := if v < -2 ^ 31 ∨ 2 ^ 31 - 1 < v then [flSat, flSatAcc] else [] }

/-- Logic, selection, comparison and immediates of the engines (R90, R94, R96, Tables 3.4 and 3.5). -/
def Obligations.LogicSelectionAndComparisonWriteTheirResults : Prop :=
  ∀ (p : Fin 36) (cs : Cores) (g : Fin 8) (rd ra rb : Fin 32) (s : State),
    RunsAs (.cleNop p cs g) p cs g 1 s (fun _ => {}) ∧
    RunsAs (.cleAnd p cs g rd ra rb) p cs g 1 s (fun x => { w := [(rd, x.getW ra &&& x.getW rb)] }) ∧
    RunsAs (.cleOr p cs g rd ra rb) p cs g 1 s (fun x => { w := [(rd, x.getW ra ||| x.getW rb)] }) ∧
    RunsAs (.cleXor p cs g rd ra rb) p cs g 1 s (fun x => { w := [(rd, x.getW ra ^^^ x.getW rb)] }) ∧
    RunsAs (.cleMin p cs g rd ra rb) p cs g 1 s (fun x => { w := [(rd, BitVec.ofInt 32 (min (x.val ra) (x.val rb)))] }) ∧
    RunsAs (.cleMax p cs g rd ra rb) p cs g 1 s (fun x => { w := [(rd, BitVec.ofInt 32 (max (x.val ra) (x.val rb)))] }) ∧
    (∀ ps : Fin 8, RunsAs (.cleSel p cs g rd ra rb ps) p cs g 1 s fun x =>
      { w := [(rd, if x.getP ps then x.getW ra else x.getW rb)] }) ∧
    (∀ imm : BitVec 16, RunsAs (.cleLdiSigned p cs g rd imm) p cs g 1 s fun _ => { w := [(rd, imm.signExtend 32)] }) ∧
    (∀ imm : BitVec 16, RunsAs (.cleLdiHigh p cs g rd imm) p cs g 1 s fun _ => { w := [(rd, imm ++ 0#16)] }) ∧
    (∀ imm : BitVec 16, RunsAs (.cleLdiLow p cs g rd imm) p cs g 1 s fun x =>
      { w := [(rd, (x.getW rd).extractLsb' 16 16 ++ imm)] }) ∧
    (∀ (lo : Fin 31) (flag : Bool), RunsAs (.cleClamp p cs g rd ra lo flag) p cs g 2 s fun x =>
      let above := x.val (lo.val + 1) < x.val ra
      let under := x.val ra < x.val lo
      { w := [(rd, if above then x.getW (lo.val + 1) else if under then x.getW lo else x.getW ra)]
        fl := if (above ∨ under) ∧ flag = true then [flSat] else [] }) ∧
    (∀ flag : Bool, RunsAs (.cleRate p cs g rd ra rb flag) p cs g 2 s fun x =>
      let d := x.val ra - x.val rd
      let most := max (x.val rb) 0
      { w := [(rd, BitVec.ofInt 32 (x.val rd + max (-most) (min most d)))], fl := if most < (d.natAbs : Int) ∧ flag = true then [flSat] else [] }) ∧
    (∀ (pd : Fin 8) (cond : CmpCond), RunsAs (.cleCmp p cs g pd ra rb cond) p cs g 1 s fun x =>
      { p := if pd = 0 then [] else [(pd, match cond with
          | .eq => decide (x.getW ra = x.getW rb)
          | .ne => decide (x.getW ra ≠ x.getW rb)
          | .lt => decide (x.val ra < x.val rb)
          | .le => decide (x.val ra ≤ x.val rb)
          | .gt => decide (x.val rb < x.val ra)
          | .ge => decide (x.val rb ≤ x.val ra)
          | .ltu => decide ((x.getW ra).toNat < (x.getW rb).toNat)
          | .geu => decide ((x.getW rb).toNat ≤ (x.getW ra).toNat))] }) ∧
    (∀ (pd : Fin 4) (imm : BitVec 16), RunsAs (.cleCmpi p cs g pd rd imm) p cs g 1 s fun x =>
      { p := [(pd.val + 4, decide (x.val rd < imm.toInt))] }) ∧
    ∀ (pd pa pb : Fin 8) (tt : BitVec 4), RunsAs (.clePlog p cs g pd pa pb tt) p cs g 1 s fun x =>
      { p := if pd = 0 then [] else [(pd, tt.getLsbD (2 * (x.getP pa).toNat + (x.getP pb).toNat))] }

/-- CORDIC (R97, Table 3.4). -/
def Obligations.CordicResultsAreRoundedValues : Prop :=
  (∀ (p : Fin 36) (cs : Cores) (g : Fin 8) (rd ra rb : Fin 32) (hi : Fin 31) (qs : BitVec 5) (s : State),
    RunsAs (.cleCordicSin p cs g rd ra) p cs g 10 s (fun x => { w := [(rd, sinCode (x.getW ra))] }) ∧
    RunsAs (.cleCordicCos p cs g rd ra) p cs g 10 s (fun x => { w := [(rd, cosCode (x.getW ra))] }) ∧
    RunsAs (.cleCordicSincos p cs g hi ra) p cs g 12 s (fun x =>
      { w := [(hi, sinCode (x.getW ra)), (hi.val + 1, cosCode (x.getW ra))] }) ∧
    RunsAs (.cleCordicAtan2 p cs g rd ra rb) p cs g 12 s (fun x => { w := [(rd, atan2Code (x.val ra) (x.val rb))] }) ∧
    RunsAs (.cleCordicMag p cs g rd ra rb qs) p cs g 10 s (fun x => satEff rd flSat (magValue (x.val ra) (x.val rb) qs.toInt)) ∧
    RunsAs (.cleCordicPolar p cs g hi ra rb qs) p cs g 14 s fun x =>
      let m := satEff hi flSat (magValue (x.val ra) (x.val rb) qs.toInt)
      { m with w := m.w ++ [(hi.val + 1, atan2Code (x.val ra) (x.val rb))] }) ∧
  (sinCode 0x00000000 = 0 ∧ sinCode 0x40000000 = 0x7FFFFFFF ∧ sinCode 0x80000000 = 0 ∧ sinCode 0xC0000000 = 0x80000000) ∧
  (cosCode 0x00000000 = 0x7FFFFFFF ∧ cosCode 0x40000000 = 0 ∧ cosCode 0x80000000 = 0x80000000 ∧ cosCode 0xC0000000 = 0) ∧
  atan2Code 1000 1000 = 0x20000000 ∧
  ∀ a b : Word, let m : Int := magValue a.toInt b.toInt 0
    let n := a.toInt * a.toInt + b.toInt * b.toInt
    (m = 0 ∨ (2 * m - 1) * (2 * m - 1) ≤ 4 * n) ∧ 4 * n < (2 * m + 1) * (2 * m + 1)

/-- Memory of the engines (R98–R100, R128). -/
def Obligations.LoadsAndStoresKeepToTheLoopsMemory : Prop :=
  ∀ (p : Fin 36) (cs : Cores) (g : Fin 8) (rd ra rb : Fin 32) (ofs : BitVec 12) (r : RunSt) (s : State),
    s.chip.executing p = some r → (s.chip.pair p).Each cs (fun x => x.getP g = true) →
    let x := s.chip.pair p
    let own (isB : Bool) : Tab Word := if isB then x.dmemB else x.dmemA
    let n (y : CoreSt) : Int := y.val rb + ofs.toInt
    let latest (y : CoreSt) (e : Word → Entry) (mem v : Word) : Prop :=
      ((∀ u, e u ∉ y.list) → v = mem) ∧ ∀ l m u, y.list = l ++ e u :: m → (∀ w, e w ∉ m) → v = u
    let inData (k : Int) : Prop := 0 ≤ k ∧ k < s.chip.dlen r.loop
    let inShared (k : Int) : Prop := 0 ≤ k ∧ k < (s.chip.loop r.loop).shmLen
    let shared (y : CoreSt) : Nat := (s.chip.loop r.loop).shmBase + (n y).toNat
    let rejected (y : CoreSt) : CoreSt := { y with memRej := some (y.memRej.getD y.pc) }
    (s.chip.CanRun p cs 2 →
      (x.Each cs (fun y => inData (n y)) →
        (x.Each cs (fun y => s.chip.dbase r.loop + (n y).toNat ∉ x.poison) →
          OnCores (.cleLd p cs g rd rb false ofs .clean) p cs s [] fun isB y z =>
            ∃ v, y.Does z y.next 2 { w := [(rd, v)] } ∧
              latest y (Entry.store (n y).toNat) (Tab.at (own isB) 0 (s.chip.dbase r.loop + (n y).toNat)) v) ∧
        (s.chip.dbase r.loop + (n (x.lead cs)).toNat ∈ x.poison → (∀ u, Entry.store (n (x.lead cs)).toNat u ∉ (x.lead cs).list) →
          Traps (.cleLd p cs g rd rb false ofs .clean) p s r 0xFFFB (x.lead cs).pc) ∧
        (cs.hasA = true → Mismatches (.cleLd p cs g rd rb false ofs .parityA) p s r 4 (s.chip.dbase r.loop + (n x.a).toNat) 1) ∧
        (cs.hasB = true → Mismatches (.cleLd p cs g rd rb false ofs .parityB) p s r 5 (s.chip.dbase r.loop + (n x.b).toNat) 1) ∧
        OnCores (.cleSt p cs g rd rb false ofs) p cs s [] fun _ y z =>
          y.Does z y.next 2 { list := [.store (n y).toNat (y.getW rd)] }) ∧
      (x.Each cs (fun y => ¬inData (n y)) → cs.hasA = true ∨ cs.hasB = true →
        OnCores (.cleLd p cs g rd rb false ofs .clean) p cs s [(F.CLE.STICKY.MEM_REJ p, 1)] (fun _ y z =>
          (rejected y).Does z (rejected y).next 2 { w := [(rd, 0)] }) ∧
        OnCores (.cleSt p cs g rd rb false ofs) p cs s [(F.CLE.STICKY.MEM_REJ p, 1)] fun _ y z =>
          (rejected y).Does z (rejected y).next 2 {})) ∧
    (s.chip.CanRun p cs 24 →
      (x.Each cs (fun y => inShared (n y)) →
        OnCores (.cleLd p cs g rd rb true ofs .clean) p cs s [] (fun _ y z =>
          ∃ v, y.Does z y.next 24 { w := [(rd, v)] } ∧ latest y (Entry.share (shared y)) (s.chip.shmRd (shared y)) v) ∧
        ((∀ u, Entry.share (shared (x.lead cs)) u ∉ (x.lead cs).list) →
          OnCores (.cleLd p cs g rd rb true ofs .single) p cs s
            [(whole (R.CLE.ECC_INFO p), shared (x.lead cs) % 2 ^ 20), (F.CLE.STICKY.ECC_CE p, 1)] (fun _ y z =>
            ∃ v, y.Does z y.next 24 { w := [(rd, v)] } ∧ latest y (Entry.share (shared y)) (s.chip.shmRd (shared y)) v) ∧
          Traps (.cleLd p cs g rd rb true ofs .double) p s r 0xFFFC (x.lead cs).pc ∧
          Completes (.cleLd p cs g rd rb true ofs .double) s fun t => t.chip.on (F.CLE.STICKY.ECC_DED p) = true ∧
            t.chip.rd (R.CLE.ECC_INFO p) = wd (shared (x.lead cs) % 2 ^ 20 + 2 ^ 20) ∧ (2, shared (x.lead cs) % 2 ^ 20 / 1024) ∈ t.chip.reports) ∧
        OnCores (.cleSt p cs g rd rb true ofs) p cs s [] fun _ y z =>
          y.Does z y.next 24 { list := [.share (shared y) (y.getW rd)] }) ∧
      (x.Each cs (fun y => ¬inShared (n y)) → cs.hasA = true ∨ cs.hasB = true →
        OnCores (.cleLd p cs g rd rb true ofs .clean) p cs s [(F.CLE.STICKY.MEM_REJ p, 1)] fun _ y z =>
          (rejected y).Does z (rejected y).next 24 { w := [(rd, 0)] })) ∧
    ∀ raw : Bool, s.chip.CanRun p cs 6 →
      let u (y : CoreSt) : Nat := if raw then (y.getW ra).toNat else ((y.val ra) + 2 ^ 31).toNat
      let i (y : CoreSt) : Nat := u y / 2 ^ 24
      let j (y : CoreSt) : Nat := min (i y + 1) 255
      let at_ (y : CoreSt) (k : Nat) : Nat := (y.val rb + k).toNat
      (x.Each cs (fun y => inData (y.val rb + i y) ∧ inData (y.val rb + j y) ∧ (∀ k u, Entry.store k u ∉ y.list) ∧
          s.chip.dbase r.loop + at_ y (i y) ∉ x.poison ∧ s.chip.dbase r.loop + at_ y (j y) ∉ x.poison) →
        OnCores (.cleInterp p cs g rd ra rb (raw, .clean)) p cs s [] (fun isB y z =>
          let word (k : Nat) : Int := (Tab.at (own isB) 0 (s.chip.dbase r.loop + at_ y k)).toInt
          y.Does z y.next 6 (satEff rd flSat
            (word (i y) + scale ((word (j y) - word (i y)) * ((u y % 2 ^ 24 : Nat) : Int)) (-24)))) ∧
        ∀ b second : Bool, cs.has b = true → Mismatches (.cleInterp p cs g rd ra rb (raw, .parity b second)) p s r (4 + b.toNat)
          (s.chip.dbase r.loop + at_ (x.core b) (if second then j (x.core b) else i (x.core b))) 1) ∧
      (x.Each cs (fun y => ¬inData (y.val rb + i y) ∧ ¬inData (y.val rb + j y)) → cs.hasA = true ∨ cs.hasB = true →
        Completes (.cleInterp p cs g rd ra rb (raw, .clean)) s fun t =>
          t.chip.on (F.CLE.STICKY.MEM_REJ p) = true ∧
          (t.chip.pair p).Each cs (fun z => z.memRej.isSome = true) ∧ ∀ k, k ≠ rd.val →
            (t.chip.pair p).a.getW k = x.a.getW k ∧ (t.chip.pair p).b.getW k = x.b.getW k)

/-- Control flow and the budget of an iteration (R104, R105, R107–R109). -/
def Obligations.LoopsSkipsAndBudgetsOrderExecution : Prop :=
  (∀ (p : Fin 36) (cs : Cores) (g : Fin 8) (count : BitVec 12) (len : BitVec 11) (r : RunSt) (s : State),
    s.chip.executing p = some r →
    (s.chip.CanRun p cs 2 → (s.chip.pair p).Each cs (fun x => x.getP g = true) →
      OnCores (.cleLoop p cs g count len) p cs s [] fun _ x y =>
        x.Does y { x with
          pc := x.pc + 1
          frames := { first := x.pc + 1, last := x.pc + len.toNat, left := count.toNat } :: x.frames } 2 {}) ∧
    ∀ w, s.chip.CanRun p cs w →
      (s.chip.pair p).Each cs (fun x => x.getP g = false ∧ w = 2 + count.toNat * s.chip.bodyCost p r x.pc len.toNat) →
      OnCores (.cleLoop p cs g count len) p cs s [] fun _ x y => x.Does y (x.jump (x.pc + 1 + len.toNat)) w {}) ∧
  (∀ (p : Fin 36) (cs : Cores) (g : Fin 8) (dist : BitVec 11) (s : State), s.chip.CanRun p cs 1 →
    OnCores (.cleSkip p cs g dist) p cs s [] fun _ x y =>
      x.Does y (if x.getP g then x.jump (x.pc + 1 + dist.toNat) else x.next) 1 {}) ∧
  (∀ (x : CoreSt) (f : Frame) (fs : List Frame), x.frames = f :: fs →
    (x.pc = f.last → 1 < f.left → x.next = { x with pc := f.first, frames := { f with left := f.left - 1 } :: fs }) ∧
    (x.pc = f.last → f.left ≤ 1 → x.next = { x with frames := fs }.next) ∧
    (x.pc ≠ f.last → x.next = { x with pc := x.pc + 1 })) ∧
  (∀ x : CoreSt, x.frames = [] → x.next = { x with pc := x.pc + 1 }) ∧
  (∀ (p : Fin 36) (cs : Cores) (g : Fin 8) (rd rb : Fin 32) (ofs : BitVec 12) (qs : BitVec 5) (flt : MemFault) (r : RunSt) (s : State),
    s.chip.executing p = some r → s.chip.badFetch p r cs = none →
    let exceeds (i : Instr) (wu : Nat) : Prop :=
      (cs.hasA = true → s.chip.slotCost p r < (s.chip.pair p).a.wu + wu) → (cs.hasA = false → s.chip.slotCost p r < (s.chip.pair p).b.wu + wu) →
        Traps i p s r 0xFFFE ((s.chip.pair p).lead cs).pc ∧
        Completes i s fun t => t.chip.on (F.CLE.STICKY.COST_OVR p) = true ∧ (1, p.val) ∈ t.chip.reports
    exceeds (.cleNop p cs g) 1 ∧ exceeds (.cleLd p cs g rd rb false ofs flt) 2 ∧ exceeds (.cleMul p cs g rd rd rb qs) 3) ∧
  (∀ (p : Fin 36) (g : Fin 8) (r : RunSt) (s : State), s.chip.executing p = some r →
    let base := s.chip.get ((F.CLE.SLOT_PMEM.PBASE p).win r.slot)
    let x := s.chip.pair p
    Mismatches (.cleNop p .parityA g) p s r 4 (base + x.a.pc) 3 ∧ Mismatches (.cleNop p .parityB g) p s r 5 (base + x.b.pc) 3 ∧
    (opReserved (Tab.at x.pmemA 0 (base + x.a.pc)) = true → Traps (.cleNop p .both g) p s r 0xFFFF x.a.pc)) ∧
  ∀ (p : Fin 36) (g : Fin 8) (code : BitVec 16) (r : RunSt) (s : State), s.chip.executing p = some r → s.chip.CanRun p .both 2 →
    ((s.chip.pair p).a.getP g = true → Traps (.cleTrap p g code) p s r code.toNat (s.chip.pair p).a.pc) ∧
    ((s.chip.pair p).a.getP g = false → (s.chip.pair p).b.getP g = true →
      Traps (.cleTrap p g code) p s r code.toNat (s.chip.pair p).b.pc) ∧
    ((s.chip.pair p).a.getP g = false → (s.chip.pair p).b.getP g = false → OnCores (.cleTrap p g code) p .both s [] fun _ x y => x.Does y x.next 2 {})

/-- Ports of the engines (R101, R102, R106, R152, R153). -/
def Obligations.PortsAreReadWrittenAndAwaited : Prop :=
  (∀ (p : Fin 36) (g : Fin 8) (rd : Fin 32) (port : BitVec 14) (r : RunSt) (s : State),
    s.chip.executing p = some r → r.phase = .plain → r.recompute = false →
    (s.chip.pair p).a.pc = (s.chip.pair p).b.pc → s.chip.CanRun p .both 3 →
    let c := s.chip
    let q := port.toNat
    ((c.pair p).a.getP g = false → (c.pair p).b.getP g = false →
      OnCores (.cleIn p g rd { port := port } none none) p .both s [] fun _ x y => x.Does y x.next 3 {}) ∧
    ((c.pair p).a.getP g = true → (c.pair p).b.getP g = true →
      (q = 0x1100 → OnCores (.cleIn p g rd { port := port } none none) p .both s [] fun _ x y =>
        x.Does y x.next 3 { w := [(rd, (c.loop r.loop).setpt)] }) ∧
      (portShared q = false → (∀ f ∈ r.frozen, f.port ≠ q) →
        ((portFresh q && c.isFresh r.loop q 0) = false → OnCores (.cleIn p g rd { port := port } none none) p .both s [] fun _ x y =>
          x.Does y x.next 3 { w := [(rd, c.portVal q)] }) ∧
        ((portFresh q && c.isFresh r.loop q 0) = true → Completes (.cleIn p g rd { port := port } none none) s fun t => ∃ a b,
          (c.pair p).a.Does a (c.pair p).a.next 3 { w := [(rd, c.portVal q)] } ∧
          (c.pair p).b.Does b (c.pair p).b.next 3 { w := [(rd, c.portVal q)] } ∧
          t = { s with chip := { c.setPair p { c.pair p with a := a, b := b } with freshMark := t.chip.freshMark } } ∧
          (t.chip.isFresh r.loop q 0 = false ∧ t.chip.isFresh r.loop q 1 = false) ∧
          ∀ l k core, (l, k) ≠ (r.loop, q) → l < 512 → k < 2 ^ 14 → core < 2 → r.loop < 512 →
            t.chip.isFresh l k core = c.isFresh l k core) ∧
        ∀ va vb : PortSample,
          (portContinuous q = true → va.val ≠ vb.val → sampleDiff q va.val vb.val ≤ 2 ^ r.tol (F.PAIRCMP.CMP_CFG.IN_TOL_K 0) →
            (portFresh q && c.isFresh r.loop q 0) = false →
            Completes (.cleIn p g rd { port := port } (some va) (some vb)) s fun t => ∃ a b,
              (c.pair p).a.Does a (c.pair p).a.next 3 { w := [(rd, va.val)] } ∧
              (c.pair p).b.Does b (c.pair p).b.next 3 { w := [(rd, vb.val)] } ∧
              t = { s with chip := { c with pairs := t.chip.pairs } } ∧
              t.chip.pair p = { c.pair p with a := a, b := b, run := some { r with adiv := true } } ∧
              ∀ k, k ≠ p.val → t.chip.pair k = c.pair k) ∧
          (portContinuous q = false → va.tag = vb.tag → va.val ≠ vb.val →
            Mismatches (.cleIn p g rd { port := port } (some va) (some vb)) p s r kTagged q 0)))) ∧
  (∀ (p : Fin 36) (g : Fin 8) (rd : Fin 32) (port : BitVec 14) (ca cb : Option PortSample) (other : Option (BitVec 14)) (r : RunSt)
      (s : State),
    s.chip.executing p = some r →
    (s.chip.pair p).a.pc ≠ (s.chip.pair p).b.pc ∨ (s.chip.pair p).a.getP g ≠ (s.chip.pair p).b.getP g ∨
      (∃ q, other = some q ∧ q ≠ port) →
    Mismatches (.cleIn p g rd { port := port, other := other } ca cb) p s r kFlow (s.chip.pair p).a.pc 3) ∧
  (∀ (p : Fin 36) (cs : Cores) (g : Fin 8) (rd : Fin 32) (port : BitVec 14) (s : State),
    RunsAs (.cleOutStaged p cs g rd port) p cs g 3 s fun x =>
      let v := portClamp port.toNat (x.getW rd)
      { list := [.out port.toNat v.1], fl := if v.2 then [flSatOut] else [] }) ∧
  (∀ (p : Fin 36) (g : Fin 8) (rd : Fin 32) (word : Fin 256) (r : RunSt) (s : State),
    s.chip.executing p = some r → s.chip.CanRun p .both 3 →
    (s.chip.pair p).a.getP g = true → (s.chip.pair p).b.getP g = true →
    ((s.chip.pair p).a.getW rd = (s.chip.pair p).b.getW rd →
      Completes (.cleOutImmediate p g rd word) s fun t => ∃ a b,
        (s.chip.pair p).a.Does a (s.chip.pair p).a.next 3 {} ∧ (s.chip.pair p).b.Does b (s.chip.pair p).b.next 3 {} ∧
        t = s.onChip fun c => { c.setPair p { c.pair p with a := a, b := b } with
          effects := c.effects ++ [{ loop := r.loop, pair := c.get (fPair r.loop), epoch := c.get (fEpoch r.loop),
                                     target := 0x1000 + word.val, shared := false, val := (c.pair p).a.getW rd }] }) ∧
    ((s.chip.pair p).a.getW rd ≠ (s.chip.pair p).b.getW rd → r.adiv = false →
      Mismatches (.cleOutImmediate p g rd word) p s r kImmOut (0x1000 + word.val) 0)) ∧
  (∀ (p : Fin 36) (g pd : Fin 8) (port : BitVec 14) (limit : BitVec 6) (r : RunSt) (s : State),
    s.chip.executing p = some r → r.phase = .plain → pd ≠ 0 → s.chip.CanRun p .both (4 + 35 * limit.toNat) →
    ((s.chip.pair p).acting .both g = none → OnCores (.cleWaitp p g pd port limit) p .both s [] fun _ x y =>
      x.Does y x.next (4 + 35 * limit.toNat) {}) ∧
    (∀ act, (s.chip.pair p).acting .both g = some act →
      (s.chip.isFresh r.loop port.toNat 0 = true → OnCores (.cleWaitp p g pd port limit) p .both s [] fun _ x y =>
        x.Does y x.next (4 + 35 * limit.toNat) (if x.getP g then { p := [(pd, true)] } else {})) ∧
      (s.chip.isFresh r.loop port.toNat 0 = false → Completes (.cleWaitp p g pd port limit) s fun t =>
        t = { s with chip := { s.chip with pairs := t.chip.pairs } } ∧
        (∃ a b, let stays (x : CoreSt) : CoreSt := if x.getP g then x else x.next
          (s.chip.pair p).a.Does a (stays (s.chip.pair p).a) (4 + 35 * limit.toNat) {} ∧
          (s.chip.pair p).b.Does b (stays (s.chip.pair p).b) (4 + 35 * limit.toNat) {} ∧
          t.chip.pair p = { s.chip.pair p with
            a := a, b := b,
            run := some { r with wait := some (pd, port.toNat, s.chip.st + Config.ns (100 * limit.toNat)), waitOn := act } }) ∧
        ∀ k, k ≠ p.val → t.chip.pair k = s.chip.pair k))) ∧
  ∀ (p : Fin 36) (r : RunSt) (pd port lim : Nat) (s : State), (s.chip.pair p).run = some r → r.wait = some (pd, port, lim) → pd ≠ 0 →
    let went (at_ : Nat) (v : Bool) (r' : RunSt) (t : State) : Prop :=
      t = { s with chip := { s.chip with st := max s.chip.st at_, pairs := t.chip.pairs } } ∧
      (∃ a b, (if r.waitOn.hasA then (s.chip.pair p).a.Does a (s.chip.pair p).a.next 0 { p := [(pd, v)] } else a = (s.chip.pair p).a) ∧
        (if r.waitOn.hasB then (s.chip.pair p).b.Does b (s.chip.pair p).b.next 0 { p := [(pd, v)] } else b = (s.chip.pair p).b) ∧
        t.chip.pair p = { s.chip.pair p with a := a, b := b, run := some r' }) ∧
      ∀ k, k ≠ p.val → t.chip.pair k = s.chip.pair k
    (∀ at_, s.chip.isFresh r.loop port 0 = true →
      Completes (.cleWaitpArrival p at_) s (went at_ true { r with wait := none })) ∧
    Completes (.cleWaitpLimit p) s
      (went lim false { r with
        wait := none
        frozen := { port := port, val := s.chip.portVal port, tag := s.chip.tagOf port, cores := r.waitOn } :: r.frozen })

/-- The end of an iteration and the delivery of its effects (R127, R128, R147–R149, R167). -/
def Obligations.EndCommitsTheIterationAsOne : Prop :=
  (∀ (p : Fin 36) (at_ : Nat) (r : RunSt) (s : State), s.chip.executing p = some r → r.phase = .plain →
    max s.chip.st at_ ≤ s.chip.deadlineAt r.loop r.trig → (s.chip.pair p).a.pc = (s.chip.pair p).b.pc → s.chip.CanRun p .both 4 →
    let a := (s.chip.pair p).a
    let b := (s.chip.pair p).b
    let effect (target : Nat) (shared : Bool) (v : Word) : Effect :=
      { loop := r.loop, pair := s.chip.get (fPair r.loop), epoch := s.chip.get (fEpoch r.loop), target := target, shared := shared, val := v }
    (a.memRej = none → b.memRej = none → a.list = b.list → r.loop < 512 → r.slot < 16 →
      s.chip.loopsOn p = [r.loop] → (s.chip.loop r.loop).ready = none → (s.chip.loop r.loop).mig = none →
      s.chip.on (lf F.LPD.LPD_SDOG.EN r.loop) = false → s.chip.on (lf F.LPD.LPD_CASC.EN r.loop) = false →
      (∀ k, Entry.flag k ∈ a.list → k < 5) → (s.chip.pair p).sigCommits < 255 → r.adiv = false →
      Completes (.cleEnd p at_ .none) s fun t =>
        t.chip.effects = s.chip.effects ++ a.list.filterMap (fun e => match e with
          | .out port v => some (effect port false v) | .share w v => some (effect w true v) | _ => none) ∧
        (∀ k v l m, a.list = l ++ Entry.store k v :: m → (∀ u, Entry.store k u ∉ m) →
          Tab.at (t.chip.pair p).dmemA 0 (s.chip.dbase r.loop + k) = v ∧ Tab.at (t.chip.pair p).dmemB 0 (s.chip.dbase r.loop + k) = v) ∧
        (∀ x, (∀ k v, Entry.store k v ∈ a.list → x ≠ s.chip.dbase r.loop + k) →
          Tab.at (t.chip.pair p).dmemA 0 x = Tab.at (s.chip.pair p).dmemA 0 x ∧ Tab.at (t.chip.pair p).dmemB 0 x = Tab.at (s.chip.pair p).dmemB 0 x) ∧
        (∀ k, k < 3 → Entry.flag k ∈ a.list → t.chip.on (hSticky (R.CLE.ID p) (k + 1)) = true) ∧
        t.chip.get64 (lpd r.loop R.LPD.LPD_LAST_LO) (lpd r.loop R.LPD.LPD_LAST_HI) = max s.chip.st at_ % 2 ^ 64 ∧
        t.chip.get (lf F.LPD.LPD_MISS_CNT.CONSEC r.loop) = 0 ∧
        t.chip.rd (win r.slot (R.CLE.SLOT_WU_LAST p)) = wd (max (a.wu + 4) (b.wu + 4)) ∧
        (t.chip.pair p).run = none ∧ (t.chip.pair p).sigCommits = (s.chip.pair p).sigCommits + 1 ∧
        t.chip.st = max s.chip.st at_) ∧
    (∀ o, a.memRej = some o → Traps (.cleEnd p at_ .none) p s r 0xFFFD o) ∧
    (a.memRej = none → b.memRej = none → r.adiv = false → s.chip.st = max s.chip.st at_ →
      (∀ k v w l m, a.list = .store k v :: l → b.list = .store k w :: m → v ≠ w →
        Mismatches (.cleEnd p at_ .none) p s r kCommit (s.chip.dbase r.loop + k) 1) ∧
      ∀ port v, a.list = [.out port v] → b.list = [] → Mismatches (.cleEnd p at_ .none) p s r kCommit port 0)) ∧
  (∀ (p : Fin 36) (at_ : Nat) (lib : LibIter) (r : RunSt) (s : State), s.chip.executing p = some r →
    s.chip.deadlineAt r.loop r.trig < max s.chip.st at_ → s.chip.get (fPair r.loop) = p →
    Completes (.cleEnd p at_ lib) s fun t =>
      t.chip.on (lf F.LPD.LPD_FLAGS.DEADLINE_MISS r.loop) = true ∧ (t.chip.pair p).a.list = [] ∧ (t.chip.pair p).b.list = [] ∧
      t.chip.st = max s.chip.st (s.chip.deadlineAt r.loop r.trig)) ∧
  ∀ (e : Effect) (rest : List Effect) (s : State), s.chip.effects = e :: rest →
    (e.epoch = s.chip.get (fEpoch e.loop) →
      (e.shared = true → e.target < 2 ^ 20 → s.chip.marchSlice = none → s.chip.marchStand = none →
        Completes .effectDelivery s fun t =>
          t = { s with chip := { s.chip with effects := rest, shm := t.chip.shm } } ∧
          ∀ w, t.chip.shmRd w = if w = e.target then e.val else s.chip.shmRd w) ∧
      (e.shared = false → ∀ k, k < 256 → e.target = 0x1000 + k → Completes .effectDelivery s fun t =>
        t.chip.effects = rest ∧ t.chip.portVal e.target = e.val ∧
        (∀ j, j < 256 → j ≠ k → t.chip.portVal (0x1000 + j) = s.chip.portVal (0x1000 + j)) ∧
        t.chip.tagOf e.target = (s.chip.tagOf e.target + 1) % 256)) ∧
    (e.epoch ≠ s.chip.get (fEpoch e.loop) → e.pair < 36 →
      Answers .effectDelivery s s { s.chip with effects := rest }
        [(whole (R.PAIRCMP.MIG_STALE_CNT e.pair), min ((s.chip.rd (R.PAIRCMP.MIG_STALE_CNT e.pair)).toNat + 1) (2 ^ 32 - 1)),
         (F.PAIRCMP.STICKY.MIG_STALE e.pair, 1)])

/-- Commands of the loop window and of the comparison page (R123, R130, R132, R133, R184). -/
def Obligations.LoopCommandsWaitForTheBoundary : Prop :=
  (∀ (src : Source) (inst : Fin 36) (s : State),
    let a := R.LPD.LPD_CMD + inst * 0x1000
    let l := s.chip.lpdSel inst
    let state := s.chip.get (fState l)
    let waits (i : Instr) (op : Nat) : Prop :=
      Answers i s (s.spent a) (s.chip.updLoop l fun x => { x with cmd := some (op, some (inst.val, src)) }) [(fCmdPend l, 1)]
    let no (i : Instr) (reason : Nat) : Prop := RefusesWrite i s src a reason false
    s.Lets src a →
    (s.chip.get (lf F.LPD.LPD_TRIG.TSRC l) ≠ 6 → no (.lpdTriggerCmd src inst) rParam) ∧
    (∀ op : BitVec 3, op = 0#3 ∨ 4 < op.toNat → no (.lpdInvalidCmd src inst op) rParam) ∧
    ((s.chip.loop l).held = true →
      no (.lpdOpenCmd src inst) rSafety ∧ no (.lpdClosedCmd src inst) rSafety ∧ no (.lpdHoldCmd src inst) rSafety) ∧
    ((s.chip.loop l).held = false →
      ((state = lsOpen ∧ s.chip.on (fAdmitted l) = false ∨ state = lsClosed ∨ state = lsFault → no (.lpdClosedCmd src inst) rState) ∧
       (state = lsOpen → no (.lpdOpenCmd src inst) rState) ∧ (state ≠ lsClosed → no (.lpdHoldCmd src inst) rState)) ∧
      (s.chip.get (lf F.LPD.LPD_TRIG.TSRC l) ≠ 6 →
        (state = lsOpen ∧ s.chip.on (fAdmitted l) = true ∧ s.chip.on (fLoaded l) = true ∧ s.chip.blocksOk l = true ∨ state = lsHold →
          waits (.lpdClosedCmd src inst) 2) ∧
        (state = lsClosed ∨ state = lsFault ∨ state = lsHold → waits (.lpdOpenCmd src inst) 1) ∧
        (state = lsClosed → waits (.lpdHoldCmd src inst) 3))) ∧
    (s.chip.get (lf F.LPD.LPD_TRIG.TSRC l) = 6 → s.chip.on (fAdmitted l) = true → state = lsClosed → s.chip.busyLoop l = false →
      (s.chip.loop l).lastTrig = none → (s.chip.loop l).cmd = none → (s.chip.loop l).withdraw = false → (s.chip.loop l).mig = none →
      (s.chip.loop l).sdOpen = false → s.chip.get (lf F.LPD.LPD_SPSRC.SRC l) = 0 → s.chip.outerOf l = none →
      s.chip.loopsOn (s.chip.get (fPair l)) = [l] → (s.chip.pair (s.chip.get (fPair l))).run = none →
      s.chip.get (F.PAIRCMP.STATUS.STATE (s.chip.get (fPair l))) ≠ psSuspect →
      Completes (.lpdTriggerCmd src inst) s fun t =>
        (∃ r, (t.chip.pair (s.chip.get (fPair l))).run = some r ∧ r.loop = l ∧ r.trig = s.chip.st) ∧
        (t.chip.loop l).lastTrig = some s.chip.st)) ∧
  (∀ (src : Source) (inst : Fin 36) (v : Word) (s : State),
    let a := R.LPD.LPD_SETPT + inst * 0x1000
    let l := s.chip.lpdSel inst
    s.Lets src a →
    (s.chip.get (lf F.LPD.LPD_SPSRC.SRC l) = 0 →
      Answers (.setptWrite src inst v) s (s.spent a) s.chip [(whole (lpd l R.LPD.LPD_SETPT), v.toNat)]) ∧
    (s.chip.get (lf F.LPD.LPD_SPSRC.SRC l) ≠ 0 → RefusesWrite (.setptWrite src inst v) s src a rParam true)) ∧
  ∀ (src : Source) (inst : Fin 36) (v : Word) (s : State), s.Lets src (R.PAIRCMP.CMP_CFG inst) →
    Answers (.cmpCfgWrite src inst v) s (s.spent (R.PAIRCMP.CMP_CFG inst)) s.chip
      [(whole (R.PAIRCMP.CMP_CFG 0), min (bits v 0 5) 24 + min (bits v 8 5) 24 * 2 ^ 8 + bits v 16 8 * 2 ^ 16)]

/-- Triggers, deadlines and signature passes (R125–R130, R132, R157–R159). -/
def Obligations.TriggersDeadlinesAndSignaturesRun : Prop :=
  (∀ (loop : Fin 512) (at_ : Nat) (s : State), let c := s.chip; let src := c.get (lf F.LPD.LPD_TRIG.TSRC loop)
    let tinst := c.get (lf F.LPD.LPD_TRIG.TINST loop)
    let tevt := c.get (lf F.LPD.LPD_TRIG.TEVT loop)
    let fires : Prop := (src = 0 ∧ onGrid (c.period loop) (c.rd (lpd loop R.LPD.LPD_PHASE)).toNat at_ = true) ∨
      (src = 1 ∧ c.eventAt evPg tinst tevt at_ = true) ∨ (src = 2 ∧ c.eventAt evPfu tinst tevt at_ = true) ∨
      (src = 3 ∧ c.eventAt evAdc tinst tevt at_ = true) ∨ (src = 5 ∧ c.eventAt evMbx tinst 0 at_ = true)
    (c.on (fAdmitted loop) = false ∨ ¬fires → Ignores (.loopTrigger loop at_) s) ∧
    (c.on (fAdmitted loop) = true → fires →
      (∀ t0, (c.loop loop).lastTrig = some t0 → at_ < t0 + c.period loop * 128 / 5 →
        Answers (.loopTrigger loop at_) s s { c with st := max c.st at_ }
          [(lf F.LPD.LPD_FLAGS.TRIG_EARLY loop, 1),
           (lf F.LPD.LPD_DROP_CNT.EARLY loop,
             min (c.get (lf F.LPD.LPD_DROP_CNT.EARLY loop) + 1) (2 ^ (lf F.LPD.LPD_DROP_CNT.EARLY loop).len - 1))]) ∧
      ((∀ t0, (c.loop loop).lastTrig = some t0 → t0 + c.period loop * 128 / 5 ≤ at_) → c.busyLoop loop = false →
        (c.loop loop).cmd = none → (c.loop loop).withdraw = false → (c.loop loop).mig = none → (c.loop loop).sdOpen = false →
        c.outerOf loop = none → c.loopsOn (c.get (fPair loop)) = [loop.val] → (c.pair (c.get (fPair loop))).run = none →
        c.get (F.PAIRCMP.STATUS.STATE (c.get (fPair loop))) ≠ psSuspect →
        Completes (.loopTrigger loop at_) s fun t =>
          let p := t.chip.pair (c.get (fPair loop))
          (t.chip.loop loop).lastTrig = some at_ ∧ t.chip.st = max c.st at_ ∧
          (c.get (lf F.LPD.LPD_SPSRC.SRC loop) = 0 → (t.chip.loop loop).setpt = c.rd (lpd loop R.LPD.LPD_SETPT)) ∧
          (c.get (lf F.LPD.LPD_SPSRC.SRC loop) = 2 →
            (t.chip.loop loop).setpt = Tab.at c.mailbox 0 (c.get (lf F.LPD.LPD_SPSRC.MBX loop))) ∧
          (c.get (fState loop) = lsClosed → p.a = {} ∧ p.b = {} ∧
            ∃ r, p.run = some r ∧ r.loop = loop ∧ r.slot = c.get (fSlot loop) ∧ r.trig = at_) ∧
          (c.get (fState loop) = lsOpen → p = c.pair (c.get (fPair loop)))))) ∧
  (∀ (loop : Fin 512) (r : RunSt) (s : State), let c := s.chip; let p := c.get (fPair loop)
    c.on (fAdmitted loop) = true → (c.pair p).run = some r → r.loop = loop → c.loopsOn p = [loop.val] → (c.loop loop).ready = none →
    let consec := min (c.get (lf F.LPD.LPD_MISS_CNT.CONSEC loop) + 1) (2 ^ (lf F.LPD.LPD_MISS_CNT.CONSEC loop).len - 1)
    let most := c.get (lf F.LPD.LPD_OPEN.MISS_MAX loop)
    Completes (.loopDeadline loop) s fun t =>
      t.chip.on (lf F.LPD.LPD_FLAGS.DEADLINE_MISS loop) = true ∧ t.chip.get (lf F.LPD.LPD_MISS_CNT.CONSEC loop) = consec ∧
      t.chip.get (lf F.LPD.LPD_MISS_CNT.TOTAL loop) =
        min (c.get (lf F.LPD.LPD_MISS_CNT.TOTAL loop) + 1) (2 ^ (lf F.LPD.LPD_MISS_CNT.TOTAL loop).len - 1) ∧
      t.chip.rd R.LEASH.DLMISS_CNT = wd (min ((c.rd R.LEASH.DLMISS_CNT).toNat + 1) (2 ^ 32 - 1)) ∧
      t.chip.on F.LEASH.STICKY.DLMISS = true ∧ t.chip.st = max c.st (c.deadlineAt loop r.trig) ∧
      (t.chip.pair p).run = none ∧ (t.chip.pair p).dmemA = (c.pair p).dmemA ∧ t.chip.shm = c.shm ∧
      (most = 0 ∨ consec < most → t.chip.get (fState loop) = c.get (fState loop) ∧ t.chip.effects = c.effects) ∧
      (most ≠ 0 → most ≤ consec → t.chip.get (fState loop) = lsFault ∧ t.chip.on (lf F.LPD.LPD_FLAGS.MISS_FAULT loop) = true)) ∧
  ∀ (p : Fin 36) (s : State), let c := s.chip; let x := c.pair p
    Completes (.signaturePassEnd p) s fun t =>
      t.chip.get (F.PAIRCMP.SIG_STATUS.PASSES p) =
        min (c.get (F.PAIRCMP.SIG_STATUS.PASSES p) + 1) (2 ^ (F.PAIRCMP.SIG_STATUS.PASSES p).len - 1) ∧
      t.chip.on (F.PAIRCMP.SIG_STATUS.PASS_ACTIVE p) = true ∧ t.chip.get (F.PAIRCMP.SIG_STATUS.COMMITS p) = 0 ∧
      (x.pmemA = x.pmemB → x.dmemA = x.dmemB → x.cfgA = x.cfgB →
        t.chip.rd (R.PAIRCMP.SIG_A p) = t.chip.rd (R.PAIRCMP.SIG_B p) ∧ t.chip.reports = c.reports ∧
        t.chip.pair p = { x with sigCommits := 0 }) ∧
      ∀ k sp, x.differs = some (k, sp) →
        t.chip.rd (R.PAIRCMP.MISMATCH_INFO p) = wd kSignature ∧
        t.chip.rd (R.PAIRCMP.MISMATCH_ADDR p) = wd (k % 2 ^ 20 + sp * 2 ^ 20) ∧
        t.chip.on (hSticky (R.PAIRCMP.ID p) 2) = true ∧ (22, p.val) ∈ t.chip.reports ∧
        t.chip.get (F.PAIRCMP.MISMATCH_CNT.LATENT p) =
          min (c.get (F.PAIRCMP.MISMATCH_CNT.LATENT p) + 1) (2 ^ (F.PAIRCMP.MISMATCH_CNT.LATENT p).len - 1)

/-- Run-ahead inputs and the copies of a migration (R139, R140, R142, R165, R166). -/
def Obligations.RunAheadAndMigrationAnswer : Prop :=
  (∀ (p : Fin 36) (at_ checked done : Nat) (r : RunSt) (s : State), let c := s.chip; let l := r.loop; let x := c.pair p
    x.run = some r → r.phase = .inputWait → r.recompute = false → l < 512 → r.slot < 16 → c.nin l = 1 → c.nout l = 1 →
    let q := (c.raWord l 0).toNat % 2 ^ 14
    let v := c.portVal q
    c.isFresh l q 0 = true → at_ ≤ c.raLimit r → max c.st at_ ≤ c.deadlineAt l r.trig → (x.a.wu + 2 + 6 ≤ c.slotCost p r ∧ x.b.wu + 2 + 6 ≤ c.slotCost p r) →
    c.loopsOn p = [l] → (c.loop l).ready = none →
    let within : Prop := (v.toInt - (r.pred.getD 0 0).toInt).natAbs ≤ (c.raWord l 4).toNat % 2 ^ 31
    (∀ u port, within → x.a.list = [.out port u] → x.b.list = [.out port u] → (c.raWord l 12).toNat % 2 ^ 14 = port →
      c.on (lf F.LPD.LPD_SDOG.EN l) = false → c.on (lf F.LPD.LPD_CASC.EN l) = false → x.sigCommits < 255 → r.adiv = false →
      max c.st (max at_ (max checked done)) ≤ c.deadlineAt l r.trig →
      Completes (.raInputArrival p [] [] { at_ := at_, checked := checked, done := done, lib := .none }) s fun t =>
        let delta := scale ((r.gain.getD 0 0).toInt * (v.toInt - (r.pred.getD 0 0).toInt)) (signed 5 (c.get (lf F.LPD.LPD_RA.GQS l)) - 31)
        t.chip.effects = c.effects ++ [Effect.mk l (c.get (fPair l)) (c.get (fEpoch l)) port false
          (portClamp port (BitVec.ofInt 32 (max (-2 ^ 31) (min (2 ^ 31 - 1) (u.toInt + delta))))).1] ∧
        t.chip.get (lf F.LPD.LPD_RA_CNT.COMMITS l) =
          min (c.get (lf F.LPD.LPD_RA_CNT.COMMITS l) + 1) (2 ^ (lf F.LPD.LPD_RA_CNT.COMMITS l).len - 1) ∧
        (t.chip.pair p).run = none ∧ t.chip.st = max c.st (max at_ (max checked done))) ∧
    (¬within → ∀ lib, Completes (.raInputArrival p [] [] { at_ := at_, checked := checked, done := done, lib := lib }) s fun t =>
      t.chip.on (lf F.LPD.LPD_FLAGS.RA_SQUASH l) = true ∧
      t.chip.get (lf F.LPD.LPD_RA_CNT.SQUASHES l) =
        min (c.get (lf F.LPD.LPD_RA_CNT.SQUASHES l) + 1) (2 ^ (lf F.LPD.LPD_RA_CNT.SQUASHES l).len - 1) ∧
      (c.on (lf F.LPD.LPD_OPEN.FAULT_MODE l) = false → t.chip.effects = c.effects) ∧
      (Chip.raTime { c with st := max c.st (max at_ checked) } p r = true → ∃ r', (t.chip.pair p).run = some r' ∧
        r' = { r with phase := .plain, recompute := true, latchedA := [v], latchedB := [v], cleared := [] } ∧
        (t.chip.pair p).a = { wu := x.a.wu + 2 } ∧ (t.chip.pair p).b = { wu := x.b.wu + 2 }))) ∧
  (∀ (p : Fin 36) (r : RunSt) (s : State), let c := s.chip; let l := r.loop
    (c.pair p).run = some r → r.phase = .inputWait → l < 512 → r.slot < 16 → c.get (lf F.LPD.LPD_OPEN.MISS_MAX l) = 0 →
    Completes (.raInputTimeout p) s fun t =>
      t.chip.on (lf F.LPD.LPD_FLAGS.RA_NOINPUT l) = true ∧ t.chip.on (lf F.LPD.LPD_FLAGS.RA_SQUASH l) = true ∧
      t.chip.get (lf F.LPD.LPD_DROP_CNT.NOINPUT l) =
        min (c.get (lf F.LPD.LPD_DROP_CNT.NOINPUT l) + 1) (2 ^ (lf F.LPD.LPD_DROP_CNT.NOINPUT l).len - 1) ∧
      t.chip.get (lf F.LPD.LPD_MISS_CNT.CONSEC l) =
        min (c.get (lf F.LPD.LPD_MISS_CNT.CONSEC l) + 1) (2 ^ (lf F.LPD.LPD_MISS_CNT.CONSEC l).len - 1) ∧
      t.chip.rd R.LEASH.LATE_CNT = wd (min ((c.rd R.LEASH.LATE_CNT).toNat + 1) (2 ^ 32 - 1)) ∧
      t.chip.rd R.LEASH.LATE_LAST = wd (4 + p.val * 2 ^ 8 + r.slot * 2 ^ 16) ∧
      (t.chip.pair p).a.list = [] ∧ t.chip.effects = c.effects ∧ t.chip.st = max c.st (c.raLimit r)) ∧
  ∀ (loop : Fin 512) (d cause : Nat) (s : State), let c := s.chip; let x := c.loop loop; let p := c.get (fPair loop)
    x.mig = some (d, cause) → d ≠ p → d < 36 →
    (∀ q, x.migStep = 0 → c.on (fLoaded loop) = true → c.reqOf loop = some q → c.destOk q d = true →
      Completes (.migrationPrecopyDone loop) s fun t =>
        t.chip.loop loop = { x with migStep := 1 } ∧ t.chip.pair p = c.pair p ∧
        ∀ k, k < c.dlen loop →
          Tab.at (t.chip.pair d).dmemA 0 (x.migBlk.2.2 + k) = c.seg loop k ∧ Tab.at (t.chip.pair d).dmemB 0 (x.migBlk.2.2 + k) = c.seg loop k) ∧
    (x.migStep = 1 → c.busyLoop loop = false →
      Completes (.migrationFinalCopyDone loop) s fun t =>
        t.chip.loop loop = { x with migStep := 2, migDirty := [] } ∧ t.chip.pair p = c.pair p ∧
        ∀ k ∈ x.migDirty,
          Tab.at (t.chip.pair d).dmemA 0 (x.migBlk.2.2 + k) = c.seg loop k ∧ Tab.at (t.chip.pair d).dmemB 0 (x.migBlk.2.2 + k) = c.seg loop k)

/-- Self-test of pairs (R160–R164, R171, R172, R178, R186). -/
def Obligations.SelfTestsJudgeThePairs : Prop :=
  (∀ (p : Fin 36) (failA failB : Bool) (march : Option (Bool × BitVec 14)) (s : State), let c := s.chip; let x := c.pair p
    let result (a b cond : Bool) (n : Nat) : Word :=
      wd (a.toNat + b.toNat * 2 + cond.toNat * 4 + 8 + x.cause * 16 + min n 255 * 256)
    let old := x.transients.filter fun t => c.st < t + 600 * Config.sec
    c.get (F.PAIRCMP.STATUS.STATE p) = psTest →
    (c.regionInRange (regionOf p) = true →
      (failA = true ∨ failB = true → Completes (.selfTestDone p (failA, failB) march) s fun t =>
        t.chip.rd (R.PAIRCMP.TEST_RESULT p) = result failA failB false old.length ∧ t.chip.on (F.PAIRCMP.STICKY.TEST_DONE p) = true ∧
        t.chip.on (F.PAIRCMP.STICKY.TEST_FAIL p) = true ∧ t.chip.on (F.CLE.PAIR_INFO.RETIRED p) = true ∧
        t.chip.get (F.PAIRCMP.STATUS.STATE p) = psRetired ∧ p.val ∈ t.chip.retiredNv ∧
        ∀ prog w, march = some (prog, w) → t.chip.on (hSticky R.BIST.ID 4) = true ∧
          t.chip.rd R.BIST.MARCH_FAIL_INFO = wd (w.toNat + (if prog then 2 else 1) * 2 ^ 20 + p * 2 ^ 23)) ∧
      (failA = false → failB = false → x.cause = cauMismatch ∨ x.cause = cauLatent →
        Completes (.selfTestDone p (failA, failB) march) s fun t =>
          t.chip.rd (R.PAIRCMP.TEST_RESULT p) = result false false false (old.length + 1) ∧
          t.chip.on (F.PAIRCMP.STICKY.TRANSIENT p) = true ∧
          (old = [] → t.chip.on (F.CLE.PAIR_INFO.RESERVE p) = true ∧ t.chip.get (F.PAIRCMP.STATUS.STATE p) = psReserve ∧
            t.chip.pair p = { x with transients := [c.st], lastPass := some (c.st : Int) }) ∧
          (old ≠ [] → t.chip.on (F.CLE.PAIR_INFO.RETIRED p) = true ∧ p.val ∈ t.chip.retiredNv)) ∧
      (failA = false → failB = false → x.cause ≠ cauMismatch → x.cause ≠ cauLatent →
        Completes (.selfTestDone p (failA, failB) march) s fun t =>
          t.chip.rd (R.PAIRCMP.TEST_RESULT p) = result false false false old.length ∧
          t.chip.get (F.PAIRCMP.STATUS.STATE p) = psReserve ∧
          t.chip.pair p = { x with transients := old, lastPass := some (c.st : Int) } ∧ t.chip.retiredNv = c.retiredNv)) ∧
    (c.regionInRange (regionOf p) = false → failA = true ∨ failB = true →
      Completes (.selfTestDone p (failA, failB) march) s fun t =>
        t.chip.rd (R.PAIRCMP.TEST_RESULT p) = result failA failB true old.length ∧ t.chip.on (hSticky R.BIST.ID 7) = true ∧
        t.chip.get (F.PAIRCMP.STATUS.STATE p) = psTest ∧ t.chip.retiredNv = c.retiredNv)) ∧
  (∀ (src : Source) (p : Fin 36) (s : State), s.Lets src (R.PAIRCMP.CTRL p) → let st := s.chip.get (F.PAIRCMP.STATUS.STATE p)
    (st = psIdle ∨ st = psReserve → s.chip.loopsOn p = [] → Completes (.testRequest src p) s fun t =>
      t.chip.get (F.PAIRCMP.STATUS.STATE p) = psTest ∧ (t.chip.pair p).cause = cauHost) ∧
    (st = psTest ∨ st = psRetired ∨ st = psEvacuating ∨ st = psSuspect →
      RefusesWrite (.testRequest src p) s src (R.PAIRCMP.CTRL p) rState false)) ∧
  (∀ s : State, let c := s.chip
    (c.on (bitOf R.BIST.CTRL 8) = false ∨ c.rolling.isSome = true ∨ c.phase ≠ .ready → Ignores .rollingTestStart s) ∧
    (∀ p, c.on (bitOf R.BIST.CTRL 8) = true → c.rolling = none → c.phase = .ready → c.nextRolling = some p →
      c.regionInRange (regionOf p) = true → c.loopsOn p = [] → Completes .rollingTestStart s fun t =>
        t.chip.rolling = some p ∧ t.chip.get F.BIST.ROLL_STATUS.CUR_PAIR = p ∧
        t.chip.get (F.PAIRCMP.STATUS.STATE p) = psTest ∧ (t.chip.pair p).cause = cauRolling) ∧
    (c.rollLate = true → Answers .rollLateDetect s s (c.report 3 0) [(hSticky R.BIST.ID 1, 1)]) ∧
    (c.rollLate = false → Ignores .rollLateDetect s)) ∧
  (∀ (p : Fin 36) (s : State), s.chip.get (F.PAIRCMP.STATUS.STATE p) = psTest → s.chip.regionInRange (regionOf p) = false →
    ((∀ t0, (s.chip.pair p).lastSlice = some t0 → t0 + 200 * Config.us ≤ s.chip.st) →
      Answers (.testSlice p) s s (s.chip.updPair p fun x => { x with lastSlice := some s.chip.st }) [(hSticky R.BIST.ID 3, 1)]) ∧
    ((∃ t0, (s.chip.pair p).lastSlice = some t0 ∧ s.chip.st < t0 + 200 * Config.us) → Ignores (.testSlice p) s)) ∧
  ∀ (src : Source) (pair : BitVec 6) (s : State), s.Lets src R.BIST.RETIRE_CLR →
    (36 ≤ pair.toNat → RefusesWrite (.retireClear src pair) s src R.BIST.RETIRE_CLR rParam false) ∧
    (pair.toNat < 36 → s.chip.on (hState R.ISN.ID) = true →
      RefusesWrite (.retireClear src pair) s src R.BIST.RETIRE_CLR rSafety false) ∧
    (pair.toNat < 36 → s.chip.on (hState R.ISN.ID) = false → pair.toNat ∈ s.chip.retiredNv →
      Completes (.retireClear src pair) s fun t =>
        t.chip.retiredNv = s.chip.retiredNv.filter (fun q => q != pair.toNat) ∧
        t.chip.get (F.PAIRCMP.STATUS.STATE pair.toNat) = s.chip.get (F.PAIRCMP.STATUS.STATE pair.toNat) ∧
        t.chip.on (F.CLE.PAIR_INFO.RETIRED pair.toNat) = s.chip.on (F.CLE.PAIR_INFO.RETIRED pair.toNat))

/-- Device tests and the test access port (R173–R177, R179–R181). -/
def Obligations.ChecksMarchesAndScansLeaveDataWhole : Prop :=
  (∀ (k : Fin 96) (trip level : BitVec 12) (s : State), let c := s.chip; let i : Instr := .analogTest (.cmpSweep k trip level)
    let good := trip.toNat ≤ level.toNat + 4 ∧ level.toNat ≤ trip.toNat + 4
    let on := c.on (bitOf R.BIST.CTRL 10) = true ∧ c.on (bitOf R.BIST.ANA_CFG 1) = true ∧
      (c.on (hEn (R.CMPG.ID (k / 8))) = false ∨ c.on (F.CMPG.CCFG.CEN (k / 8) (k % 8)) = false)
    (¬on → Ignores i s) ∧
    (on → good → c.get ⟨R.BIST.ANA_STATUS, 8, 8⟩ = k → Answers i s s (c.mended 6 (256 + k)) [(bitOf R.BIST.ANA_STATUS 1, 0)]) ∧
    (on → good → c.get ⟨R.BIST.ANA_STATUS, 8, 8⟩ ≠ k → Answers i s s (c.mended 6 (256 + k)) []) ∧
    (on → ¬good → Answers i s s (c.report 6 (256 + k))
      [(bitOf R.BIST.ANA_STATUS 1, 1), (⟨R.BIST.ANA_STATUS, 8, 8⟩, k), (hSticky R.BIST.ID 5, 1)])) ∧
  (∀ (diff : BitVec 16) (s : State), let c := s.chip
    (diff.toInt ≤ 50 → -50 ≤ diff.toInt →
      Answers (.bandgapCheck diff) s s { c with refGood := c.refGood + 1 } [(whole R.BIST.REF_CHK, diff.toNat + 2 ^ 16)]) ∧
    (50 < diff.toInt ∨ diff.toInt < -50 →
      Answers (.bandgapCheck diff) s s { c.report 4 0 with refGood := 0 }
        [(whole R.BIST.REF_CHK, diff.toNat), (hSticky R.BIST.ID 6, 1)])) ∧
  (∀ s : State, let c := s.chip; let next := c.get F.BIST.MARCH_STATUS.NEXT_SLICE
    let dbl := Config.eccDouble c.draw.1
    (c.on (bitOf R.BIST.CTRL 9) = true → c.marchSlice = none → c.marchStand = none → Memory.wf c.shm = true →
      Completes .marchSliceStart s fun t =>
        let d : Chip := { c with fresh := c.fresh + 1 }
        t = { s with chip := { (if dbl = [] then d else d.report 2 next) with marchSlice := some next, marchBuf := t.chip.marchBuf } } ∧
        ∀ w, t.chip.shmRd w = if w / 1024 = next ∧ BitVec.ofNat 10 w ∈ dbl then 0 else c.shmRd w) ∧
    (c.on (bitOf R.BIST.CTRL 9) = false ∨ c.marchSlice.isSome = true ∨ c.marchStand.isSome = true →
      Ignores .marchSliceStart s) ∧
    ∀ k, c.marchSlice = some k → k < 1024 →
      (c.marchStand = none → Memory.wf c.shm = true → Memory.wf c.marchBuf = true → (∀ e ∈ c.marchBuf, e.1 < 1024) →
        Completes (.marchSliceDone none) s fun t =>
          t = { s with chip := { c.mended 2 k with marchSlice := none, marchBuf := [], shm := t.chip.shm, regs := t.chip.regs } } ∧
          s.chip.Shows t.chip
            [(F.BIST.MARCH_STATUS.NEXT_SLICE, (k + 1) % 1024),
             (F.BIST.MARCH_STATUS.PASSES, if k = 1023 then
               min (c.get F.BIST.MARCH_STATUS.PASSES + 1) (2 ^ F.BIST.MARCH_STATUS.PASSES.len - 1) else c.get F.BIST.MARCH_STATUS.PASSES)] ∧
          ∀ w, t.chip.shmRd w = c.shmRd w) ∧
      ∀ o : BitVec 10, Answers (.marchSliceDone (some o)) s s
        { c.report 5 0 with marchSlice := none, marchStand := some k }
        [(hSticky R.BIST.ID 4, 1), (whole R.BIST.MARCH_FAIL_INFO, 1024 * k + o.toNat)]) ∧
  ∀ s : State, let c := s.chip
    let id := wd (bits (c.rd R.SYS.DEV_REV) 0 4 * 2 ^ 28 + 0x0960018B)
    let captures (i : Instr) (ir : Nat) (v : Word) : Prop := exec i s = .next (s.onChip fun c => { c with tapIr := ir, tapDr := v })
    captures .tapTestLogicReset 1 id ∧ captures .tapIdcode 1 id ∧
    (∀ code : BitVec 8, (code.toNat ∉ [0x00, 0x01, 0x02, 0x08, 0x40] → captures (.tapBypass code) code.toNat 0) ∧
      (code.toNat ∈ [0x00, 0x01, 0x02, 0x08, 0x40] → Ignores (.tapBypass code) s)) ∧
    let scans (i : Instr) (code : Nat) : Prop :=
      let pins := Config.pinLevels c.draw.1
      let load := Config.pinLevels c.draw.2.draw.1
      exec i s = .next (s.onChip fun c => { c with tapIr := code, tapScan := pins, tapHold := load, fresh := c.fresh + 2 })
    scans .tapSamplePreload 2 ∧ (c.safeSto = true → scans .tapExtest 0) ∧
    (c.safeSto = false → Completes .tapExtest s fun t =>
      t.chip.tapIr = 0 ∧ t.chip.tapDr = 0 ∧ t.chip.tapScan = c.tapScan ∧ t.chip.tapHold = c.tapHold) ∧
    (c.safeSto = true → captures .tapHighz 8 0) ∧
    (c.safeSto = false → Completes .tapHighz s fun t => t.chip.tapIr = 8 ∧ t.chip.tapDr = 0) ∧
    (∀ standstill keysZero : Bool, c.safeSto = false ∨ standstill = false → Completes (.tapScanacc standstill keysZero) s fun t =>
      t.chip.tapIr = 0x40 ∧ t.chip.tapDr = 0 ∧ t.chip.scanStep = c.scanStep ∧ t.chip.ports = c.ports ∧
      t.chip.rd R.BIST.SCAN_STATUS = c.rd R.BIST.SCAN_STATUS) ∧
    (c.safeSto = true → ∀ keysZero : Bool, Completes (.tapScanacc true keysZero) s fun t =>
      t.chip.tapIr = 0x40 ∧ t.chip.on F.BIST.SCAN_STATUS.KEYS_ZERO = keysZero ∧ t.chip.on F.KENNEL.KSTAT.TOKEN_VALID = false ∧ t.chip.sec.buf = [] ∧
      (∀ p : Fin 4, t.chip.on (F.EPORT.PORT_STAT.AUTH_OK p) = false ∧ (t.chip.eport p).keys = 0) ∧
      (keysZero = true → t.chip.on F.BIST.SCAN_STATUS.NV_FENCED = true ∧
        ((c.part 0).queue.length < queueLen 0 → t.chip.scanStep = 1)) ∧
      (keysZero = false → t.chip.on F.BIST.SCAN_STATUS.NV_FENCED = c.on F.BIST.SCAN_STATUS.NV_FENCED ∧ t.chip.scanStep = c.scanStep)) ∧
    (c.scanStep = 1 → (c.part 0).queue = [] → Answers .scanConnect s s { c with scanStep := 0 }
      [(F.BIST.SCAN_STATUS.RECORDED, 1), (F.BIST.SCAN_STATUS.SCAN_OPEN, 1), (hState R.BIST.ID, 4)]) ∧
    (c.scanStep ≠ 1 ∨ (c.part 0).queue ≠ [] → Ignores .scanConnect s)

/-- Admission of ADC queue entries (R187, R194–R197). -/
def Obligations.ConverterAdmissionFollowsItsTest : Prop :=
  (∀ (src : Source) (a : Fin 24) (e : Fin 32) (s : State), s.Lets src (R.ADC.ADM_CMD a) →
    let latches (i : Instr) (op : Nat) : Prop :=
      Answers i s (s.spent (R.ADC.ADM_CMD a)) (s.chip.updAdc a fun x => { x with adm := some (op, e.val) }) [(whole (R.ADC.ADM_RESULT a), 0)]
    ((s.chip.adc a).adm = none →
      latches (.adcAdmit src a e) 1 ∧ latches (.adcWithdraw src a e) 2 ∧ latches (.adcTestOnly src a e) 3 ∧
      latches (.adcInvalidOp src a e) 0) ∧
    ((s.chip.adc a).adm.isSome = true →
      RefusesWrite (.adcAdmit src a e) s src (R.ADC.ADM_CMD a) rState false ∧
      RefusesWrite (.adcWithdraw src a e) s src (R.ADC.ADM_CMD a) rState false ∧
      RefusesWrite (.adcTestOnly src a e) s src (R.ADC.ADM_CMD a) rState false)) ∧
  ∀ (a : Fin 24) (e : Fin 32) (s : State), let c := s.chip
    (∀ n : Fin 16, c.on (F.THERM.NTC_SRC.VALID n) = false) →
    let done (x : AdcSt) : AdcSt := { x with adm := none }
    let answer (reason bound : Nat) : Nat :=
      1 + (if reason = 0 then 2 else 0) + e.val * 4 + reason * 2 ^ 8 + min ((bound + 9) / 10) 0xFFFF * 2 ^ 16
    let refused (reason : Nat) (bound : Nat) : List (Fld × Nat) :=
      [(whole (R.ADC.ADM_RESULT a), answer reason bound), (F.ADC.STICKY.REFUSED a, 1),
       (whole R.LEASH.LAST_REFUSE, 6 + a.val * 2 ^ 8 + reason * 2 ^ 16),
       (whole R.LEASH.REFUSE_CNT, min ((c.rd R.LEASH.REFUSE_CNT).toNat + 1) (2 ^ 32 - 1))]
    let bound := c.adcReported a e
    ((c.adc a).adm = some (0, e.val) → Answers (.adcDecisionDone a) s s (c.updAdc a done) (refused rParam bound)) ∧
    ((c.adc a).adm = some (1, e.val) ∨ (c.adc a).adm = some (3, e.val) →
      (c.adcTest a e = 0 → (c.adc a).adm = some (1, e.val) → Completes (.adcDecisionDone a) s fun t =>
        t = { s with chip := { c with adcs := t.chip.adcs, regs := t.chip.regs } } ∧
        c.Shows t.chip [(whole (R.ADC.ADM_RESULT a), answer 0 bound), (bitOf (R.ADC.ADMITTED a) e, 1)] ∧
        (t.chip.adc a).adm = none ∧ (t.chip.adc a).entry e = {} ∧ (t.chip.adc a).run = (c.adc a).run) ∧
      (c.adcTest a e = 0 → (c.adc a).adm = some (3, e.val) →
        Answers (.adcDecisionDone a) s s (c.updAdc a done) [(whole (R.ADC.ADM_RESULT a), answer 0 bound)]) ∧
      (c.phase ≠ .ready → Answers (.adcDecisionDone a) s s (c.updAdc a done) (refused rState bound)) ∧
      (c.phase = .ready → c.adcParamsOk a e = false → Answers (.adcDecisionDone a) s s (c.updAdc a done) (refused rParam bound)) ∧
      (c.phase = .ready → c.adcParamsOk a e = true → c.on (bitOf (R.ADC.ADMITTED a) e) = true →
        Answers (.adcDecisionDone a) s s (c.updAdc a done) (refused rNoSlot bound))) ∧
    ((c.adc a).adm = some (2, e.val) → c.on (bitOf (R.ADC.ADMITTED a) e) = true →
      ((c.adc a).busy e = false → Completes (.adcDecisionDone a) s fun t =>
        t = { s with chip := { c with adcs := t.chip.adcs, regs := t.chip.regs } } ∧
        c.Shows t.chip [(whole (R.ADC.ADM_RESULT a), answer 0 bound), (bitOf (R.ADC.ADMITTED a) e, 0)] ∧ (t.chip.adc a).entry e = {}) ∧
      ((c.adc a).busy e = true → Completes (.adcDecisionDone a) s fun t =>
        t = { s with chip := { c with adcs := t.chip.adcs, regs := t.chip.regs } } ∧
        c.Shows t.chip [(whole (R.ADC.ADM_RESULT a), answer 0 bound)] ∧
        (t.chip.adc a).entry e = { (c.adc a).entry e with withdraw := true })) ∧
    (((c.adc a).entry e).withdraw = true → (c.adc a).busy e = false →
      Answers (.adcWithdrawEffect a e) s s (c.updAdc a fun x => x.updEntry e fun _ => {}) [(bitOf (R.ADC.ADMITTED a) e, 0)]) ∧
    (((c.adc a).entry e).withdraw = false ∨ (c.adc a).busy e = true → Ignores (.adcWithdrawEffect a e) s)

/-- Conversions (R188–R194, R197, R198). -/
def Obligations.ConversionsRunFromTriggerToResult : Prop :=
  (∀ (a : Fin 24) (e : Fin 32) (at_ : Nat) (s : State), let c := s.chip; let x := c.adc a
    let t0 := at_ + c.get (F.ADC.ETRIG.TDLY a e) * 256
    let now : Chip := { c with st := max c.st t0 }
    let early := ∃ q, (x.entry e).last = some q ∧ (at_ < q ∨ 5 * (at_ - q) < 128 * (c.rd (R.ADC.EPER a e)).toNat)
    let src := c.get (F.ADC.ETRIG.TSRC a e)
    let tinst := c.get (F.ADC.ETRIG.TINST a e)
    let tevt := c.get (F.ADC.ETRIG.TEVT a e)
    let fires : Prop := (src = 1 ∧ c.eventAt evPg tinst tevt at_ = true) ∨ (src = 2 ∧ c.eventAt evPfu tinst tevt at_ = true) ∨
      (src = 3 ∧ onGrid (c.rd (R.ADC.EPER a e)).toNat 0 at_ = true) ∨ (src = 4 ∧ c.eventAt evMbx tinst 0 at_ = true) ∨
      (src = 6 ∧ c.eventAt evAdc a tinst at_ = true) ∨ (src = 7 ∧ c.eventAt evCmp tinst tevt at_ = true)
    (¬fires → Ignores (.adcTrigger a e at_) s) ∧
    (fires →
      (c.on (F.ADC.CTRL.EN a) = false ∨ c.on (bitOf (R.ADC.ADMITTED a) e) = false →
        Answers (.adcTrigger a e at_) s s now []) ∧
      (c.on (F.ADC.CTRL.EN a) = true → c.on (bitOf (R.ADC.ADMITTED a) e) = true →
        (early ∨ x.busy e = true → Answers (.adcTrigger a e at_) s s now
          [(F.ADC.STICKY.TRIG_EARLY a, 1), (whole (R.ADC.EARLY_CNT a), min ((c.rd (R.ADC.EARLY_CNT a)).toNat + 1) (2 ^ 32 - 1))]) ∧
        (¬early → x.busy e = false →
          (c.urgent a e = false → Completes (.adcTrigger a e at_) s fun t =>
            t = { s with chip := { now with adcs := t.chip.adcs, regs := t.chip.regs } } ∧
            c.Shows t.chip [(bitOf (R.ADC.PENDING a) e, 1)] ∧
            (t.chip.adc a).entry e = { (x.entry e) with last := some at_, pend := some (at_, t0) } ∧ (t.chip.adc a).run = x.run) ∧
          (c.urgent a e = true → x.run.isSome = true → Answers (.adcTrigger a e at_) s s now
            [(F.ADC.STICKY.URG_DROP a, 1), (whole (R.ADC.URG_DROP_CNT a), min ((c.rd (R.ADC.URG_DROP_CNT a)).toNat + 1) (2 ^ 32 - 1))]) ∧
          (c.urgent a e = true → x.run = none → Completes (.adcTrigger a e at_) s fun t =>
            t.chip.st = now.st ∧ ∃ r, (t.chip.adc a).run = some r ∧ r.entry = e ∧ r.event = at_ ∧ r.start = t0 + 640))))) ∧
  (∀ (src : Source) (a : Fin 24) (v : Word) (s : State), s.Lets src (R.ADC.HOST_TRIG a) → let c := s.chip
    ((∀ e : Fin 32, v.getLsbD e = true → c.get (F.ADC.ETRIG.TSRC a e) ≠ 5) →
      Answers (.adcHostTrigger src a v) s (s.spent (R.ADC.HOST_TRIG a)) c []) ∧
    Completes (.adcHostTrigger src a v) s fun t => ∀ e : Fin 32,
      (v.getLsbD e = false ∨ c.get (F.ADC.ETRIG.TSRC a e) ≠ 5 → (t.chip.adc a).entry e = (c.adc a).entry e) ∧
      (v.getLsbD e = true → c.get (F.ADC.ETRIG.TSRC a e) = 5 → c.on (F.ADC.CTRL.EN a) = true →
        c.on (bitOf (R.ADC.ADMITTED a) e) = true → (c.adc a).busy e = false →
        let early := ∃ q, ((c.adc a).entry e).last = some q ∧ (c.st < q ∨ 5 * (c.st - q) < 128 * (c.rd (R.ADC.EPER a e)).toNat)
        (early → t.chip.on (F.ADC.STICKY.TRIG_EARLY a) = true ∧ (t.chip.adc a).entry e = (c.adc a).entry e) ∧
        (¬early → c.urgent a e = false →
          ((t.chip.adc a).entry e).pend = some (c.st, c.st + c.get (F.ADC.ETRIG.TDLY a e) * 256) ∧
          t.chip.on (bitOf (R.ADC.PENDING a) e) = true))) ∧
  (∀ (a : Fin 24) (s : State), let c := s.chip; let x := c.adc a
    (x.run.isSome = true ∨ (∀ e : Fin 32, (x.entry e).pend = none) → Ignores (.adcConversionStart a) s) ∧
    (∀ (e h : Fin 32) (ev t0 u m : Nat), x.run = none → (x.entry e).pend = some (ev, t0) → (x.entry h).pend = some (u, m) →
      let start := max x.freeAt (m + 640)
      (∀ k : Fin 32, ∀ p, (x.entry k).pend = some p → m ≤ p.2 ∧ (p.2 + 640 ≤ start → e ≤ k)) → t0 + 640 ≤ start →
      let asleep := c.on (F.ADC.CTRL.AWAKE a) = false ∧ (x.cold = true ∨ x.freeAt + Config.us < start)
      Completes (.adcConversionStart a) s fun t =>
        t = { s with chip := { c with st := max c.st start, adcs := t.chip.adcs, regs := t.chip.regs } } ∧
        c.Shows t.chip [(bitOf (R.ADC.PENDING a) e, 0)] ∧ ((t.chip.adc a).entry e).pend = none ∧ (t.chip.adc a).cold = false ∧
        ∃ r, (t.chip.adc a).run = some r ∧ r.entry = e ∧ r.event = ev ∧ r.start = start ∧
          (asleep → r.hold = start + 300 * 128 / 5 + c.get (F.ADC.ECONV.SW a e) * 256) ∧
          (¬asleep → r.hold = start + c.get (F.ADC.ECONV.SW a e) * 256)) ∧
    (x.run.isSome = true ∨ c.on (F.ADC.CTRL.AWAKE a) = true → Ignores (.adcIdlePowerdown a) s) ∧
    (x.run = none → c.on (F.ADC.CTRL.AWAKE a) = false → exec (.adcIdlePowerdown a) s =
      .next (s.onChip fun c => ({ c with st := max c.st (x.freeAt + Config.us) } : Chip).updAdc a fun x => { x with cold := true }))) ∧
  ∀ (a : Fin 24) (samples : List Int) (at_ : Nat) (s : State), let c := s.chip
    ((c.adc a).run = none → Ignores (.adcResultWrite a samples at_) s) ∧
    ∀ r : AdcRun, (c.adc a).run = some r → r.entry < 32 →
    let e := r.entry
    let now := max c.st (max at_ r.hold)
    let diff := c.on (F.ADC.ECONV.DIFF a e)
    let clip (v : Int) : Int := if diff then max (-32768) (min 32767 v) else max 0 (min 65535 v)
    let xs := samples.take (2 ^ c.get (F.ADC.ECONV.AVG_K a e))
    let sh := c.get (F.ADC.ECONV.SHIFT a e)
    let v := if sh = 0 then (xs.map clip).sum else ((xs.map clip).sum + 2 ^ (sh - 1)) / 2 ^ sh
    let late := c.urgent a e = false ∧ 128 * c.edl a e < 5 * (now - r.event)
    Completes (.adcResultWrite a samples at_) s fun t =>
      (t.chip.adc a).run = none ∧ (t.chip.adc a).freeAt = now ∧
      ((∀ n : Fin 16, c.on (F.THERM.NTC_SRC.VALID n) = true →
          ¬(c.get (F.THERM.NTC_SRC.ADC n) = a ∧ c.get (F.THERM.NTC_SRC.ENTRY n) = e)) →
        (∀ k : Fin 6, c.osState k ≠ osOff → c.get (F.PFU.PFCFG.INTYPE k) = 4 →
          ¬(c.get (F.PFU.RSLV_CFG.ADC_S k) = a ∧ c.get (F.PFU.RSLV_CFG.ENT_S k) = e) ∧
          ¬(c.get (F.PFU.RSLV_CFG.ADC_C k) = a ∧ c.get (F.PFU.RSLV_CFG.ENT_C k) = e)) →
        (∀ q : Fin 16, c.on (F.CHGSEQ.CTRL.EN q) = true →
          ¬(c.get (F.CHGSEQ.MSENSE.V_ADC q) = a ∧ c.get (F.CHGSEQ.MSENSE.V_ENT q) = e) ∧
          ¬(c.get (F.CHGSEQ.MSENSE.I_ADC q) = a ∧ c.get (F.CHGSEQ.MSENSE.I_ENT q) = e)) → c.isn.holdRef = none →
        t.chip.rd (R.ADC.RES a e) = wd ((v % 2 ^ 24).toNat + (bits (c.rd (R.ADC.RES a e)) 24 8 + 1) % 256 * 2 ^ 24) ∧
        t.chip.rd (R.ADC.TS a e) = wd r.hold ∧
        t.chip.rd (R.ADC.CONV_CNT a) = wd (min ((c.rd (R.ADC.CONV_CNT a)).toNat + 1) (2 ^ 32 - 1)) ∧
        ((∃ y ∈ xs, clip y ≠ y) → t.chip.on (F.ADC.STICKY.CLIP a) = true ∧ t.chip.on (bitOf (R.ADC.CLIP_MAP a) e) = true) ∧
        (late → t.chip.on (F.ADC.STICKY.RES_LATE a) = true ∧
          t.chip.rd (R.ADC.LATE_CNT a) = wd (min ((c.rd (R.ADC.LATE_CNT a)).toNat + 1) (2 ^ 32 - 1))) ∧
        (¬late → t.chip.rd (R.ADC.LATE_CNT a) = c.rd (R.ADC.LATE_CNT a)) ∧
        t.chip.eventAt evAdc a e now = true ∧
        (∀ l ∈ c.admitted, (c.loop l).ports.any (fun p => p.1 == 32 * a.val + e && p.2.1) = true →
          t.chip.isFresh l (32 * a + e) 0 = true ∧ t.chip.isFresh l (32 * a + e) 1 = true) ∧
        t.chip.st = now)

/-- Comparators (R203, R205, R207, R209, R210, R212, R213). -/
def Obligations.ComparatorsDecideLatchAndClear : Prop :=
  ∀ (g : Fin 12) (s : State), let c := s.chip
  (∀ k : Fin 40, c.on (F.TRIP.SCP.EN k) = false) →
  let page : List Fld := [whole (R.CMPG.CMP_STAT g), whole (R.CMPG.ID g + 0x10), whole R.TRIP.SCP_BROKEN_LO, whole R.TRIP.SCP_BROKEN_HI]
    ++ (List.range 8).map fun i => whole (R.CMPG.LATCH_CNT g i)
  let tagged (t : State) : Prop :=
    Tab.at t.chip.portTag 0 (0xA00 + g) = if bits (t.chip.rd (R.CMPG.CMP_STAT g)) 0 16 = bits (c.rd (R.CMPG.CMP_STAT g)) 0 16
      then Tab.at c.portTag 0 (0xA00 + g) else (Tab.at c.portTag 0 (0xA00 + g) + 1) % 256
  let within (base t : State) (st : Nat) (l : List Fld) : Prop :=
    t = { base with chip := { c with
      st := st, cmps := t.chip.cmps, portTag := t.chip.portTag, events := t.chip.events, regs := t.chip.regs } } ∧
    (∀ k, k / 64 ≠ evCmp * 256 + g → Tab.find t.chip.events k = Tab.find c.events k) ∧ c.Keeps t.chip (page ++ l)
  let th (i : Nat) : Nat := bits (c.rd (R.CMPG.CTH g i)) 0 10 * 1562500
  let half (i : Nat) : Nat := [0, 2, 4, 8, 16, 32, 48, 64].getD (c.get (F.CMPG.CCFG.HYS g i)) 0 * 500000
  let sees (i : Nat) (level : BitVec 31) : Nat :=
    let n := c.get (F.CMPG.CCFG.INSEL g i)
    if 96 ≤ n ∧ n < 104 then c.get ⟨R.DAC.DCODE (n - 96), 0, 12⟩ * 390625 else level.toNat
  let decides (i v : Nat) : Bool := if th i + half i < v then true else if v + half i < th i then false else (c.cmp g i).high
  let live (t : State) (i : Nat) (now : Bool) : Prop :=
    let new := now && !c.on (fLive g i) && !c.on (fBlanked g i) && !c.on (fLatched g i)
    t.chip.on (fLive g i) = now ∧ t.chip.on (fLatched g i) = (c.on (fLatched g i) || new) ∧
    (new = true → t.chip.on (F.CMPG.STICKY.LATCHED g) = true ∧
      t.chip.get ⟨R.CMPG.LATCH_CNT g i, 0, 16⟩ = min (c.get ⟨R.CMPG.LATCH_CNT g i, 0, 16⟩ + 1) (2 ^ 16 - 1) ∧
      t.chip.eventAt evCmp g i t.chip.st = true)
  let reset (t : State) (i : Nat) (settles : Bool) : Prop :=
    t.chip.on (fLive g i) = false ∧ t.chip.on (fLatched g i) = false ∧ t.chip.on (fSettling g i) = settles ∧
    (t.chip.cmp g i).hysOn = false ∧ (t.chip.cmp g i).high = false
  (∀ src : Source, s.Lets src (R.CMPG.CTRL g) →
    (c.on (F.CMPG.CTRL.EN g) = true → Answers (.comparatorEnable src g) s (s.spent (R.CMPG.CTRL g)) c []) ∧
    (c.on (F.CMPG.CTRL.EN g) = false → Completes (.comparatorEnable src g) s fun t =>
      within (s.spent (R.CMPG.CTRL g)) t c.st [F.CMPG.CTRL.EN g] ∧ t.chip.on (F.CMPG.CTRL.EN g) = true ∧
      ∀ i : Fin 8, c.on (F.CMPG.CCFG.CEN g i) = true → reset t i true)) ∧
  (∀ (i : Fin 8) (level : BitVec 31) (at_ : Nat),
    (c.cmpOn g i = false ∨ c.on (fSettling g i) = false → Ignores (.comparatorFirstDecision g i level at_) s) ∧
    (c.cmpOn g i = true → c.on (fSettling g i) = true → c.winOn g i = false →
      Completes (.comparatorFirstDecision g i level at_) s fun t =>
        let v := sees i level
        let inBand := decide (th i < v + half i ∧ v < th i + half i)
        within s t (max c.st at_) [bitOf (R.CMPG.FIRST_MID g) i, bitOf (R.CMPG.IN_BAND g) i] ∧
        live t i (decide (th i < v) != c.on (F.CMPG.CCFG.POL g i)) ∧
        (t.chip.cmp g i).hysOn = true ∧ t.chip.on (fSettling g i) = false ∧ t.chip.on (bitOf (R.CMPG.FIRST_MID g) i) = true ∧
        t.chip.on (F.CMPG.STICKY.FIRST_MID g) = true ∧ t.chip.on (bitOf (R.CMPG.IN_BAND g) i) = inBand ∧ tagged t)) ∧
  (∀ (i : Fin 8) (level : BitVec 31) (at_ : Nat),
    (c.cmpReady g i = false → Answers (.comparatorInputCrossing g i level at_) s s
      (({ c with st := max c.st at_ } : Chip).updCmp g i fun x => { x with level := level.toNat }) []) ∧
    (c.cmpReady g i = true → c.winOn g i = false → Completes (.comparatorInputCrossing g i level at_) s fun t =>
      within s t (max c.st at_) [] ∧ live t i (decides i (sees i level) != c.on (F.CMPG.CCFG.POL g i)) ∧ tagged t) ∧
    (∀ w : Fin 4, c.winOn g (2 * w) = true → c.cmpReady g (2 * w) = true → c.cmpReady g (2 * w + 1) = true →
      c.on (fSettling g (2 * w + 1)) = false →
      (i.val = 2 * w.val → Completes (.comparatorInputCrossing g i level at_) s fun t =>
        within s t (max c.st at_) [] ∧
        live t i ((decides i (sees i level) || !(c.cmp g (2 * w + 1)).high) != c.on (bitOf (R.CMPG.WCFG g) (2 * w + 1))) ∧ tagged t) ∧
      (i.val = 2 * w.val + 1 → Completes (.comparatorInputCrossing g i level at_) s fun t =>
        let above := decides i (sees (2 * w) level)
        within s t (max c.st at_) [] ∧ live t i !above ∧
        live t (2 * w) (((c.cmp g (2 * w)).high || !above) != c.on (bitOf (R.CMPG.WCFG g) (2 * w + 1))) ∧ tagged t))) ∧
  ((∀ j : Fin 8, c.on (fLive g j) = c.liveOf g j) →
    (∀ i : Fin 8,
      ((c.cmp g i).blankEnd = none → Ignores (.blankingClose g i) s) ∧
      (∀ u, (c.cmp g i).blankEnd = some u → Completes (.blankingClose g i) s fun t =>
        within s t (max c.st u) [] ∧ (t.chip.cmp g i).blankEnd = none ∧ t.chip.on (fBlanked g i) = false ∧
        t.chip.on (fLive g i) = c.on (fLive g i) ∧ t.chip.on (fLatched g i) = (c.on (fLatched g i) || c.on (fLive g i)) ∧ tagged t)) ∧
    ∀ (src : Source) (v : BitVec 8), s.Lets src (R.CMPG.LATCH_CLR g) → Completes (.latchClear src g v) s fun t =>
      t = { s.spent (R.CMPG.LATCH_CLR g) with chip := { c with portTag := t.chip.portTag, regs := t.chip.regs } } ∧
      c.Shows t.chip ((F.CMPG.STICKY.CLR_HELD g,
          if c.on (F.CMPG.STICKY.CLR_HELD g) ∨ ∃ i : Fin 8, v.getLsbD i = true ∧ c.on (fLatched g i) = true ∧ c.on (fLive g i) = true
            then 1 else 0)
        :: (List.range 8).map fun i => (fLatched g i, (c.on (fLatched g i) && !(v.getLsbD i && !c.on (fLive g i))).toNat))) ∧
  ∀ (src : Source) (i : Fin 8) (v : Word), let a := R.CMPG.CCFG g i
    let cen := c.on (F.CMPG.CCFG.CEN g i)
    s.Lets src a →
    (104 ≤ bits v 4 7 → RefusesWrite (.ccfgWrite src g i v) s src a rParam true) ∧
    (bits v 4 7 < 104 →
      (cen = true ∨ v.getLsbD 0 = true → bits v 1 13 ≠ bits (c.rd a) 1 31 → RefusesWrite (.ccfgWrite src g i v) s src a rState true) ∧
      (c.rd a &&& 0xFFFFC000#32 = 0#32 →
        (cen = false → v.getLsbD 0 = false → c.winOn g i = false → Completes (.ccfgWrite src g i v) s fun t =>
          within (s.spent a) t c.st [whole a] ∧ t.chip.rd a = v &&& 0x3FFF#32) ∧
        (cen = false → v = (c.rd a ||| 1#32) → Completes (.ccfgWrite src g i v) s fun t =>
          within (s.spent a) t c.st [whole a] ∧ t.chip.rd a = v ∧ (c.on (F.CMPG.CTRL.EN g) = true → reset t i true)) ∧
        (cen = true → v = (c.rd a &&& ~~~1#32) → Completes (.ccfgWrite src g i v) s fun t =>
          within (s.spent a) t c.st [whole a] ∧ t.chip.rd a = v ∧ reset t i false)))

/-- General DACs (R215, R216). -/
def Obligations.DacCodesFollowTheirSource : Prop :=
  let listed (c : Chip) : Prop := ∀ e ∈ c.cmps, e.1 < 96
  let unseen (c : Chip) (d : Nat) : Prop :=
    listed c ∧ ∀ (g : Fin 12) (i : Fin 8), c.cmpReady g i = true → c.cmpInput g i ≠ 96 + d
  (∀ (src : Source) (d : Fin 8) (v : Word) (s : State), let a := R.DAC.DCODE d
    s.Lets src a →
    (s.chip.get (F.DAC.DCFG.SRC d) = 1 → s.chip.on (hEn R.DAC.ID) = true →
      (unseen s.chip d → Answers (.dacCodeWrite src d v) s (s.spent a) s.chip [(whole a, v.toNat % 2 ^ 12)]) ∧
      (listed s.chip → (∀ k : Fin 40, s.chip.on (F.TRIP.SCP.EN k) = false) → Completes (.dacCodeWrite src d v) s fun t =>
        t.chip.rd a = wd (v.toNat % 2 ^ 12) ∧
        ∀ (g : Fin 12) (i : Fin 8), s.chip.cmpReady g i = true → s.chip.winOn g i = false → s.chip.cmpInput g i = 96 + d →
          let u := v.toNat % 2 ^ 12 * 390625
          let th := s.chip.cmpTh g i
          let h := s.chip.cmpHalf g i
          let high := if th + h < u then true else if u + h < th then false else (s.chip.cmp g i).high
          (t.chip.cmp g i).high = high ∧ t.chip.on (fLive g i) = (high != s.chip.on (F.CMPG.CCFG.POL g i)))) ∧
    (s.chip.get (F.DAC.DCFG.SRC d) = 1 → s.chip.on (hEn R.DAC.ID) = false →
      Answers (.dacCodeWrite src d v) s (s.spent a) s.chip []) ∧
    (s.chip.get (F.DAC.DCFG.SRC d) ≠ 1 → RefusesWrite (.dacCodeWrite src d v) s src a rState true)) ∧
  (∀ (d : Fin 8) (at_ : Nat) (s : State), let c := s.chip
    (c.get (F.DAC.DCFG.SRC d) ≠ 3 ∨ c.on (hEn R.DAC.ID) = false ∨ at_ % 5120 ≠ 0 → Ignores (.dacSineUpdate d at_) s) ∧
    (c.get (F.DAC.DCFG.SRC d) = 3 → c.on (hEn R.DAC.ID) = true → at_ % 5120 = 0 → unseen c d →
      let t := max c.st at_
      let den := Config.sec * 2 ^ 16
      let num := (c.get (F.DAC.DFREQ.FREQ d) * t * 2 ^ 16 + c.get (F.DAC.DFREQ.PHASE d) * Config.sec) % den
      let x := (c.get (F.DAC.DSINE.OFFSET d) : Int) + ((c.get (F.DAC.DSINE.AMP d) : Int) * sinTurns num den + 2 ^ 63) / 2 ^ 64
      Answers (.dacSineUpdate d at_) s s { c with st := t }
        [(whole (R.DAC.DCODE d), (max 0 (min 0xFFF x)).toNat), (whole (R.DAC.DPHASE d), num * 2 ^ 32 / den),
         (hSticky R.DAC.ID 2, if x < 0 ∨ 0xFFF < x then 1 else c.get (hSticky R.DAC.ID 2))])) ∧
  sinTurns 0 4 = 0 ∧ (sinTurns 1 4 - 2 ^ 64).natAbs < 2 ^ 8 ∧ (sinTurns 3 4 + 2 ^ 64).natAbs < 2 ^ 8

/-- Trip lines, TRIP_CLR, HFORCE and SW_FORCE (R255, R256, R258, R259). -/
def Obligations.TripLinesForceTheirLegs : Prop :=
  (∀ (line : Fin 32) (s : State), let c := s.chip
    (c.on (bitOf R.TRIP.LINE_ACTIVE line) = true ∨ c.driven line = false → Ignores (.tripLineActive line) s) ∧
    (c.on (bitOf R.TRIP.LINE_ACTIVE line) = false → c.driven line = true → (∀ q : Fin 16, c.on (F.CHGSEQ.CTRL.EN q) = false) →
      Completes (.tripLineActive line) s fun t => let d := t.chip
        d.on (bitOf R.TRIP.LINE_ACTIVE line) = true ∧ d.on (bitOf R.TRIP.LINE_SEEN line) = true ∧ d.on F.TRIP.STICKY.LINE_ACT = true ∧
        d.reports = c.reports ++ (if c.on (F.TRIP.LCFG.ISN_REPORT line) then [(24, line.val)] else []) ∧
        (∀ k : Fin 32, k ≠ line → d.on (bitOf R.TRIP.LINE_ACTIVE k) = c.on (bitOf R.TRIP.LINE_ACTIVE k)) ∧
        ∀ n : Fin 40, let act := c.lineAction line n
          (act = 0 → d.rd (R.PG.STATUS n) = c.rd (R.PG.STATUS n) ∧ d.pg n = c.pg n) ∧
          (act ≠ 0 → d.on (F.PG.STICKY.TRIPPED n) = true) ∧
          (c.legState n = lgRun → (c.pg n).lowAt = none → (c.on (F.PG.STATUS.HS n) && c.on (F.PG.STATUS.LS n)) = false →
            (act = 1 → d.LegIs n lgForced false false ∧
              (n.val < 24 → c.on (F.PG.STATUS.HS n) = true → d.on (F.GLNK.LSTAT.CMD_ON (2 * n / 8) (2 * n % 8)) = false ∧
                d.on (F.GLNK.LSTAT.SOFT_LAST (2 * n / 8) (2 * n % 8)) = c.on (F.TRIP.LCFG.SOFT line))) ∧
            (act = 2 → (c.pg n).dtHl ≠ 0 → d.LegIs n lgForced false (c.on (F.PG.STATUS.LS n)) ∧
              (d.pg n).lowAt = some (c.st + (c.pg n).dtHl)) ∧
            (act = 3 → d.LegIs n lgForced (c.on (F.PG.STATUS.HS n)) (c.on (F.PG.STATUS.LS n))))) ∧
    (c.on (bitOf R.TRIP.LINE_ACTIVE line) = false ∨ c.driven line = true → Ignores (.tripLineInactive line) s) ∧
    (c.on (bitOf R.TRIP.LINE_ACTIVE line) = true → c.driven line = false → Completes (.tripLineInactive line) s fun t => let d := t.chip
      d.on (bitOf R.TRIP.LINE_ACTIVE line) = false ∧ d.rd R.TRIP.LINE_SEEN = c.rd R.TRIP.LINE_SEEN ∧ d.reports = c.reports ∧
      (∀ n : Fin 40, c.lineAction line n ≠ 0 → c.on (F.TRIP.LCFG.RESUME line) = false → (d.pg n).tripped = true) ∧
      ∀ n : Fin 40, c.lineAction line n ≠ 0 → c.legState n = lgForced → (c.pg n).isn = none → c.scForced n = false →
        (c.on (F.TRIP.LCFG.RESUME line) = true → (d.pg n).wait.isSome = true ∧ d.get (F.PG.STATUS.STATE n) = lgForced) ∧
        (c.on (F.TRIP.LCFG.RESUME line) = false → (d.pg n).tripped = true ∧ d.LegIs n lgTripped false false))) ∧
  (∀ (src : Source) (n : Fin 40) (s : State), let c := s.chip; let a := R.PG.CTRL n
    let acts := c.lineActions n ≠ [] ∨ (c.pg n).isn.isSome = true ∨ (Tab.find c.scResp (c.groupOf n)).isSome = true
    s.Lets src a →
    (acts → RefusesWrite (.tripClr src n) s src a rState false) ∧
    (¬acts → Completes (.tripClr src n) s fun t => (t.chip.pg n).tripped = false ∧ (t.chip.pg n).interlocked = false ∧
      (c.LegUp n ∨ c.legState n = lgTripped → t.chip.get (F.PG.STATUS.STATE n) = lgRun ∨ t.chip.get (F.PG.STATUS.STATE n) = lgForced ∨
        t.chip.get (F.PG.STATUS.STATE n) = lgTripped ∧ t.chip.on (F.PG.STICKY.INTERLOCK n) = true) ∧
      ∀ m : Fin 40, m ≠ n → t.chip.pg m = c.pg m ∧ t.chip.rd (R.PG.STATUS m) = c.rd (R.PG.STATUS m))) ∧
  (∀ (src : Source) (n : Fin 40) (v : BitVec 2) (s : State), let c := s.chip; let a := R.PG.HFORCE n
    s.Lets src a → Completes (.hforceWrite src n v) s fun t => let d := t.chip
      bits (d.rd a) 0 2 = v.toNat ∧ d.rd R.TRIP.LINE_ACTIVE = c.rd R.TRIP.LINE_ACTIVE ∧
      (v ≠ 0#2 → v.toNat ≠ bits (c.rd a) 0 2 → d.on (F.PG.STICKY.TRIPPED n) = true) ∧
      (c.legState n = lgRun → (c.pg n).lowAt = none → (c.on (F.PG.STATUS.HS n) && c.on (F.PG.STATUS.LS n)) = false →
        (v = 1#2 → d.LegIs n lgForced false false) ∧
        (v = 2#2 → (c.pg n).dtHl ≠ 0 → d.LegIs n lgForced false (c.on (F.PG.STATUS.LS n))) ∧
        (v = 3#2 → d.LegIs n lgForced (c.on (F.PG.STATUS.HS n)) (c.on (F.PG.STATUS.LS n)))) ∧
      (c.legState n = lgForced → (c.pg n).isn = none → c.scForced n = false → bits (c.rd a) 0 2 ≠ 0 → v = 0#2 →
        (d.pg n).wait.isSome = true ∧ d.get (F.PG.STATUS.STATE n) = lgForced)) ∧
  ∀ (src : Source) (v : Word) (s : State), s.Lets src R.TRIP.SW_FORCE →
    Answers (.swForceWrite src v) s (s.spent R.TRIP.SW_FORCE) s.chip [(whole R.TRIP.SW_FORCE, v.toNat)]

/-- Short-circuit pairs, single events, responses and releases (R260, R262–R264). -/
def Obligations.ShortCircuitPairsAndResponses : Prop :=
  (∀ (src : Source) (k : Fin 40) (v : Word) (s : State), let c := s.chip; let a := R.TRIP.SCP k
    let p := bits v 0 7
    let h := bits v 7 7
    let leg := bits v 14 6
    let at0 := bits v 20 10
    let th (j : Nat) : Nat := bits (c.rd (R.CMPG.CTH (j / 8) (j % 8))) 0 10
    let acts (j : Nat) : Prop := c.on (F.CMPG.CTRIP.LINE_EN (j / 8) (j % 8)) = true ∧
      c.lineAction (c.get (F.CMPG.CTRIP.LINE (j / 8) (j % 8))) leg ≠ 0
    let holds : Prop := p < 96 ∧ h < 96 ∧ leg < 40 ∧
      c.get (F.CMPG.CCFG.INSEL (p / 8) (p % 8)) = c.get (F.CMPG.CCFG.INSEL (h / 8) (h % 8)) ∧
      c.on (F.CMPG.CCFG.POL (p / 8) (p % 8)) = c.on (F.CMPG.CCFG.POL (h / 8) (h % 8)) ∧
      c.get (F.CMPG.CBLANK.BLANK_LEG (p / 8) (p % 8)) = leg ∧ c.get (F.CMPG.CBLANK.BLANK_T (p / 8) (p % 8)) ≠ 0 ∧
      (40 ≤ c.get (F.CMPG.CBLANK.BLANK_LEG (h / 8) (h % 8)) ∨ c.get (F.CMPG.CBLANK.BLANK_T (h / 8) (h % 8)) = 0) ∧
      c.get (F.CMPG.CCFG.MODE (h / 8) (h % 8)) = 0 ∧
      (if c.on (F.CMPG.CCFG.POL (p / 8) (p % 8)) then th p < at0 ∧ th h < at0 ∧ 3 * (at0 - th p) ≤ 2 * (at0 - th h)
       else at0 < th p ∧ at0 < th h ∧ 3 * (th p - at0) ≤ 2 * (th h - at0)) ∧ acts p ∧ acts h
    let en := v.getLsbD 31
    let other := bits (c.rd a) 0 31 ≠ bits (v &&& 0xBFFFFFFF#32) 0 31
    s.Lets src a →
    (v &&& 0xBFFFFFFF#32 = c.rd a → RefusesWrite (.scpWrite src k v) s src a rState true) ∧
    (other → en = true ∨ c.on (F.TRIP.SCP.EN k) = true → RefusesWrite (.scpWrite src k v) s src a rState true) ∧
    (¬other → en = true → c.on (F.TRIP.SCP.EN k) = false → ¬holds → RefusesWrite (.scpWrite src k v) s src a rParam true) ∧
    (v &&& 0xBFFFFFFF#32 ≠ c.rd a → (other → en = false ∧ c.on (F.TRIP.SCP.EN k) = false) → (en = true → c.on (F.TRIP.SCP.EN k) = true ∨ holds) →
      Completes (.scpWrite src k v) s fun t =>
        t = { s.spent a with chip := { c with reports := t.chip.reports, isn := t.chip.isn, regs := t.chip.regs } } ∧
        c.Keeps t.chip [whole a, whole R.TRIP.SCP_BROKEN_LO, whole R.TRIP.SCP_BROKEN_HI, F.TRIP.STICKY.SCP_BROKEN] ∧
        t.chip.rd a = v &&& 0xBFFFFFFF#32 ∧
        (en = false ∨ holds → t.chip.on (if k.val < 32 then bitOf R.TRIP.SCP_BROKEN_LO k else bitOf R.TRIP.SCP_BROKEN_HI (k - 32)) = false))) ∧
  ∀ (n : Fin 40) (s : State), let c := s.chip
    ((∀ e ∈ c.scEvents, e.leg = n → e.used = true) → Ignores (.scSingleTimeout n) s) ∧
    (∀ e, c.scEvents.find? (fun x => x.leg == n.val && !x.used) = some e →
      Answers (.scSingleTimeout n) s s
        (({ c with st := max c.st (e.ts + 1536), scEvents := c.scEvents.filter fun x => x != e } : Chip).report 14 n)
        [(whole R.TRIP.SC_EVENT, 1 + c.get (F.PG.PGCFG.GROUP n) * 2 ^ 4 + n * 2 ^ 8 + n * 2 ^ 16),
         (whole R.TRIP.SC_ST_LO, e.ts % 2 ^ 32), (whole R.TRIP.SC_ST_HI, e.ts / 2 ^ 32 % 2 ^ 32),
         (F.TRIP.SC_CNT.SINGLE, min (c.get F.TRIP.SC_CNT.SINGLE + 1) (2 ^ 16 - 1)), (F.TRIP.STICKY.SC_SINGLE, 1)]) ∧
    let g := c.groupOf n
    ((Tab.find c.scResp g = none ∨ ∃ r, Tab.find c.scResp g = some r ∧ r.done = true) → Ignores (.scSoftHoldExpire n) s) ∧
    ((Tab.find c.scResp g = none ∨ ∃ r, Tab.find c.scResp g = some r ∧ r.done = false) → Ignores (.scGroupRelease n) s) ∧
    (∀ r, Tab.find c.scResp g = some r → r.done = false → let k := c.get (F.PG.PGCFG.GROUP n)
      let bank : Option Bool := if r.high = true ∧ r.low = true then none else if r.high then some false else if r.low then some true
        else some (c.on (F.TRIP.GRP_SC.DEF_BANK k))
      let fast := c.speedAbove k (c.get (F.TRIP.GRP_SC.UCG_SPEED k)) = true
      let free (d : Chip) (hs ls : Bool) : Prop := ∀ m : Fin 40, c.groupOf m = g → c.LegUp m → d.LegIs m lgForced hs ls
      Completes (.scSoftHoldExpire n) s fun t => let d := t.chip
        d.st = max c.st (r.tb + max 1 (c.get (F.TRIP.GRP_SC.SOFT_HOLD k)) * Config.us) ∧
        Tab.find d.scResp g = some { r with done := true } ∧ d.on F.TRIP.SC_EVENT.RESP_DONE = true ∧
        (∀ b, fast → bank = some b → d.on F.TRIP.SC_EVENT.ASC = true ∧ d.on F.TRIP.SC_EVENT.BANK = b ∧
          d.on F.TRIP.STICKY.ASC_APPLIED = true ∧ free d b !b) ∧
        (¬fast ∨ bank = none → free d false false)) ∧
    (∀ r, Tab.find c.scResp g = some r → r.done = true → Completes (.scGroupRelease n) s fun t =>
      Tab.find t.chip.scResp g = none ∧ t.chip.st = c.st ∧
      ∀ m : Fin 40, c.groupOf m = g → (t.chip.pg m).isn = none ∧
        (c.LegUp m → (c.pg m).tripped = true → t.chip.LegIs m lgTripped false false))

/-- Enable, disable and edges of a leg (R244, R246, R247, R252–R254). -/
def Obligations.LegsEnableDisableAndSwitch : Prop :=
  (∀ (src : Source) (n : Fin 40) (s : State), let c := s.chip; let a := R.PG.CTRL n
    s.Lets src a →
    (c.on (F.PG.CTRL.EN n) = true → Answers (.pgEnable src n) s (s.spent a) c []) ∧
    (c.on (F.PG.CTRL.EN n) = false → c.phase = .cold ∨ c.phase = .warm →
      RefusesWrite (.pgEnable src n) s src a rState (!carriesCommand a (c.rd a ||| 1#32))) ∧
    (c.on (F.PG.CTRL.EN n) = false → c.phase ≠ .cold → c.phase ≠ .warm → Completes (.pgEnable src n) s fun t => let d := t.chip
      d.on (F.PG.CTRL.EN n) = true ∧ d.st = c.st ∧ (d.pg n).joined = false ∧ (d.pg n).plan = [] ∧
      (c.masterOf n = none → (d.pg n).master = true ∧ (d.pg n).next = c.st + Config.us) ∧
      (∀ k, c.masterOf n = some k → (c.pg k).enAt < c.st → (d.pg n).master = false ∧ d.pg k = c.pg k) ∧
      ∀ m : Fin 40, m ≠ n → d.on (F.PG.CTRL.EN m) = c.on (F.PG.CTRL.EN m) ∧ d.rd (R.PG.STATUS m) = c.rd (R.PG.STATUS m)) ∧
    (c.on (F.PG.CTRL.EN n) = false → Answers (.pgDisable src n) s (s.spent a) c []) ∧
    (c.on (F.PG.CTRL.EN n) = true → Completes (.pgDisable src n) s fun t => let d := t.chip
      d.on (F.PG.CTRL.EN n) = false ∧ d.on (F.PG.STATUS.HS n) = false ∧ d.on (F.PG.STATUS.LS n) = false ∧
      d.on (F.PG.PG_STAT.HS_CMD n) = false ∧ d.on (F.PG.PG_STAT.LS_CMD n) = false ∧ (d.pg n).master = false ∧ (d.pg n).plan = [] ∧
      d.rd (R.PG.PERIOD_ACT n) = c.rd (R.PG.PERIOD n) ∧ d.rd (R.PG.DUTY_ACT n) = c.rd (R.PG.DUTY n) ∧
      d.rd (R.PG.PHASE_ACT n) = c.rd (R.PG.PHASE n) ∧
      (c.on F.SAFE.STO_STAT.CUT_B = false → ((c.pg n).uvBst = 0 ∨ (c.pg n).uvBst = 2) → ((c.pg n).uvVg = 0 ∨ (c.pg n).uvVg = 2) →
        d.get (F.PG.STATUS.STATE n) = lgOff) ∧
      ∀ m, (c.pg n).master = true → ((c.groupOn n).filter fun k => k != n.val).head? = some m →
        (d.pg m).master = true ∧ (d.pg m).next = (c.pg n).next)) ∧
  ∀ (n : Fin 40) (s : State), let c := s.chip
    ((c.pg n).plan = [] → c.lowDue n = none → Ignores (.pgEdge n) s) ∧
    (∀ e r, (c.pg n).plan = e :: r → c.lowDue n = none → e.drop = true →
      Answers (.pgEdge n) s s (({ c with st := max c.st e.at_ } : Chip).updPg n fun x => { x with plan := r })
        [(whole (R.PG.MINPW_CNT n), min ((c.rd (R.PG.MINPW_CNT n)).toNat + 1) (2 ^ 32 - 1)), (F.PG.STICKY.MINPW_DROP n, 1)]) ∧
    (∀ e r, (c.pg n).plan = e :: r → c.lowDue n = none → e.drop = false → c.legState n = lgRun →
      (c.pg n).master = false ∨ c.groupOn n = [n.val] →
      c.on (F.PG.STATUS.HS n) = c.on (F.PG.PG_STAT.HS_CMD n) → c.on (F.PG.STATUS.LS n) = c.on (F.PG.PG_STAT.LS_CMD n) →
      let cmd := if e.high then F.PG.PG_STAT.HS_CMD n else F.PG.PG_STAT.LS_CMD n
      let hs := if e.high then e.on else c.on (F.PG.PG_STAT.HS_CMD n)
      let ls := if e.high then c.on (F.PG.PG_STAT.LS_CMD n) else e.on
      c.on cmd ≠ e.on →
      Completes (.pgEdge n) s fun t => let d := t.chip
        d.st = max c.st e.at_ ∧ d.on cmd = e.on ∧ (d.pg n).plan = r ∧
        ((hs && ls) = false → d.LegIs n lgRun hs ls ∧ (d.pg n).interlocked = false ∧
          (Tab.at c.switched 0 n < 2 ^ 48 - 1 → Tab.at d.switched 0 n = Tab.at c.switched 0 n + e.on.toNat) ∧
          d.eventAt evPg n ((if e.high then 2 else 4) + (!e.on).toNat) d.st = true ∧
          (n.val < 24 → d.on (F.GLNK.LSTAT.CMD_ON ((2 * n + (!e.high).toNat) / 8) ((2 * n + (!e.high).toNat) % 8)) = e.on)) ∧
        ((hs && ls) = true → d.LegIs n lgTripped false false ∧ (d.pg n).interlocked = true ∧ d.on (F.PG.STICKY.INTERLOCK n) = true ∧
          d.rd (R.PG.INTLK_CNT n) = wd (min ((c.rd (R.PG.INTLK_CNT n)).toNat + 1) (2 ^ 32 - 1))))

/-- Captures, period points and half-period points (R244, R245, R248, R258). -/
def Obligations.PeriodPointsPutValuesInForce : Prop :=
  ∀ (n : Fin 40) (s : State), let c := s.chip; let x := c.pg n
  (∀ k : Fin 8, c.on (F.CONV.CTRL.EN k) = false) →
  (c.on (F.PG.CTRL.EN n) = false ∨ x.master = false →
    Ignores (.pgPeriodPoint n) s ∧ Ignores (.pgHalfPeriodPoint n) s ∧ ∀ half : Bool, Ignores (.pgCaptureInstant n half) s) ∧
  (c.on (F.PG.CTRL.EN n) = true → x.master = true →
    let point (half : Bool) : Nat := if half then x.tk + x.len / 2 else x.next
    (∀ half : Bool, (half = true → x.joined = true) → c.st + 5120 ≤ point half → c.groupOn n = [n.val] →
      let now : Chip := { c with st := point half - 5120 }
      (c.on (hCommitReq (R.PG.ID n)) = false ∨ c.on (hFreeze (R.PG.ID n)) = true ∨ c.inGroup (R.PG.ID n) = true ∨ c.heldLeg n = true →
        Answers (.pgCaptureInstant n half) s s now []) ∧
      (half = false → c.on (hCommitReq (R.PG.ID n)) = true → c.on (hFreeze (R.PG.ID n)) = false → c.inGroup (R.PG.ID n) = false →
        c.heldLeg n = false → c.get (F.PG.PGCFG.UPD n) ≠ 1 → Tab.rising none c.shadow = true →
        Completes (.pgCaptureInstant n half) s fun t => let d := t.chip
          d.st = point half - 5120 ∧ d.on (hCommitReq (R.PG.ID n)) = false ∧ (∀ e ∈ d.shadow, aPage e.1 ≠ R.PG.ID n) ∧
          (∀ v, Tab.find c.shadow (R.PG.PERIOD n) = some v → let hi := if n.val < 24 then 128000 else 51200
            d.rd (R.PG.PERIOD n) = wd (max hi (min 25600000 v.toNat)) ∧ d.rd (R.PG.PERIOD_ACT n) = c.rd (R.PG.PERIOD_ACT n) ∧
            (v.toNat < hi ∨ 25600000 < v.toNat → d.on (F.PG.STICKY.CLAMP n) = true)) ∧
          (∀ v, Tab.find c.shadow (R.PG.DUTY n) = some v →
            d.rd (R.PG.DUTY n) = (if v.getLsbD 31 then 0#32 else v) ∧ d.rd (R.PG.DUTY_ACT n) = c.rd (R.PG.DUTY_ACT n)) ∧
          (∀ v, Tab.find c.shadow (R.PG.PHASE n) = some v → d.rd (R.PG.PHASE n) = (if v.getLsbD 31 then 0#32 else v)) ∧
          d.get (hCfgEpoch (R.PG.ID n)) = (c.get (hCfgEpoch (R.PG.ID n))
            + (if ∃ e ∈ c.shadow, aPage e.1 = R.PG.ID n then 1 else 0)) % 2 ^ 16)) ∧
    (∀ half : Bool, (half = true ∧ c.groupRuns n = false) ∨ point half < c.st + 5120 → Ignores (.pgCaptureInstant n half) s) ∧
    (Completes (.pgPeriodPoint n) s fun t => let d := t.chip
      let len := (c.rd (R.PG.PERIOD n)).toNat
      d.st = max c.st x.next ∧ (d.pg n).next = x.next + len ∧
      ∀ m ∈ c.groupOn n, (d.pg m).joined = true ∧ (d.pg m).tk = x.next ∧ (d.pg m).len = len ∧ (d.pg m).wait = none ∧
        d.eventAt evPg m 0 x.next = true ∧ d.on (F.PG.PG_STAT.HALF m) = false ∧ d.rd (R.PG.PERIOD_ACT m) = c.rd (R.PG.PERIOD m) ∧
        (c.ganged m = true → d.rd (R.PG.DUTY_ACT m) = d.rd (R.PG.DUTY_ACT n) ∧ d.rd (R.PG.PHASE_ACT m) = d.rd (R.PG.PHASE_ACT n) ∧
          (d.pg m).dtHl = (d.pg n).dtHl ∧ (d.pg m).dtLh = (d.pg n).dtLh) ∧
        (c.ganged m = false → c.get (F.PG.PGCFG.UPD m) ≠ 1 ∨ (c.pg m).whole = true →
          d.rd (R.PG.DUTY_ACT m) = c.rd (R.PG.DUTY m) ∧ d.rd (R.PG.PHASE_ACT m) = c.rd (R.PG.PHASE m) ∧
          (d.pg m).dtHl = bits (c.rd (R.PG.DT_HL m)) 0 16 ∧ (d.pg m).dtLh = bits (c.rd (R.PG.DT_LH m)) 0 16) ∧
        (c.ganged m = false → c.get (F.PG.PGCFG.UPD m) = 1 → (c.pg m).whole = false →
          d.rd (R.PG.DUTY_ACT m) = c.rd (R.PG.DUTY_ACT m) ∧ (d.pg m).dtHl = (c.pg m).dtHl) ∧
        let on := ((d.rd (R.PG.DUTY_ACT m)).toNat * len + 2 ^ 30) / 2 ^ 31
        let phi := ((d.rd (R.PG.PHASE_ACT m)).toNat * len + 2 ^ 30) / 2 ^ 31
        let rise := len / 2 + phi - on / 2
        (c.ganged m = false → c.get (F.PG.PGCFG.CNTMODE m) = 1 → 0 < on → on < len → on / 2 < len / 2 + phi → rise + on < len →
          (d.pg m).h0 = false ∧ (d.pg m).hs = [(x.next + rise, true), (x.next + rise + on, false)])) ∧
    (c.groupRuns n = false ∨ (∃ m ∈ c.groupOn n, (c.pg m).joined = true ∧ c.on (F.PG.PG_STAT.HALF m) = true) ∨
      x.next ≤ x.tk + x.len / 2 → Ignores (.pgHalfPeriodPoint n) s) ∧
    (c.groupRuns n = true → (∀ m ∈ c.groupOn n, (c.pg m).joined = true → c.on (F.PG.PG_STAT.HALF m) = false) → x.tk + x.len / 2 < x.next →
      Completes (.pgHalfPeriodPoint n) s fun t => let d := t.chip
        d.st = max c.st (x.tk + x.len / 2) ∧
        ∀ m ∈ c.groupOn n, (c.pg m).joined = true → d.on (F.PG.PG_STAT.HALF m) = true ∧ d.eventAt evPg m 1 (x.tk + x.len / 2) = true ∧ (d.pg m).tk = (c.pg m).tk ∧
          d.rd (R.PG.PERIOD_ACT m) = c.rd (R.PG.PERIOD_ACT m) ∧
          (c.ganged m = true → d.rd (R.PG.DUTY_ACT m) = d.rd (R.PG.DUTY_ACT n) ∧ (d.pg m).dtHl = (d.pg n).dtHl) ∧
          (c.ganged m = false → c.get (F.PG.PGCFG.UPD m) = 1 ∨ c.get (F.PG.PGCFG.UPD m) = 2 → d.rd (R.PG.DUTY_ACT m) = c.rd (R.PG.DUTY m) ∧
            (d.pg m).dtHl = bits (c.rd (R.PG.DT_HL m)) 0 16) ∧
          (c.ganged m = false → c.get (F.PG.PGCFG.UPD m) = 0 → d.rd (R.PG.DUTY_ACT m) = c.rd (R.PG.DUTY_ACT m) ∧ (d.pg m).plan = (c.pg m).plan)))

/-- Counting, captures and position compare (R224–R227, R237–R241). -/
def Obligations.PositionCountsCapturesAndCompares : Prop :=
  (∀ (k : Fin 6) (at_ : Nat) (s : State), let c := s.chip; let x := c.pfu k
    c.isn.holdRef = none →
    let now : Chip := { c with st := max c.st at_ }
    let ty := c.get (F.PFU.PFCFG.INTYPE k)
    let en := c.on (F.PFU.CTRL.EN k) = true
    let cpr := if ty = 1 then 6 else bits (c.rd (R.PFU.CPR k)) 0 24
    let count := (c.rd (R.PFU.COUNT k)).toNat
    let up (i : Instr) : Prop := Completes i s fun t => let d := t.chip
      d.st = now.st ∧ d.on (F.PFU.PFU_STAT.DIR k) = false ∧
      (c.on (F.PFU.PFCFG.CNTMODE k) = false → d.rd (R.PFU.COUNT k) = c.rd (R.PFU.COUNT k) + 1#32) ∧
      (c.on (F.PFU.PFCFG.CNTMODE k) = true → count < cpr → d.rd (R.PFU.COUNT k) = wd (if count + 1 = cpr then 0 else count + 1)) ∧
      (x.m < cpr → (d.pfu k).m = if x.m + 1 = cpr then 0 else x.m + 1) ∧
      d.tagOf (0x403 + 16 * k) = (c.tagOf (0x403 + 16 * k) + 1) % 256 ∧
      (∀ e : Fin 64, c.entryArmed k e = true → c.get (F.PFU.CMPE_CFG.DIR k e) ≠ 1 → c.on (F.PFU.PFCFG.CNTMODE k) = false →
        c.rd (R.PFU.CMPE_POS k e) = c.rd (R.PFU.COUNT k) + 1#32 →
        d.on (bitOf (if e.val < 32 then R.PFU.CMPL_FIRED_LO k else R.PFU.CMPL_FIRED_HI k) (e % 32)) = true ∧
        d.on (F.PFU.STICKY.CMP_FIRED k) = true ∧ d.eventAt evPfu k e at_ = true ∧
        (c.on (F.PFU.CMPL_CFG.SEQ k) = true → let ptr := c.get (F.PFU.CMPL_STAT.PTR k)
          d.rd (R.PFU.CMP_FIRE_CNT k) = wd (min ((c.rd (R.PFU.CMP_FIRE_CNT k)).toNat + 1) (2 ^ 32 - 1)) ∧
          (ptr ≠ c.get (F.PFU.CMPL_CFG.LENM1 k) → d.get (F.PFU.CMPL_STAT.PTR k) = (ptr + 1) % 64) ∧
          (ptr = c.get (F.PFU.CMPL_CFG.LENM1 k) → c.on (F.PFU.CMPL_CFG.STOP k) = false → d.get (F.PFU.CMPL_STAT.PTR k) = 0) ∧
          (ptr = c.get (F.PFU.CMPL_CFG.LENM1 k) → c.on (F.PFU.CMPL_CFG.STOP k) = true → d.on (F.PFU.CMPL_STAT.DONE k) = true))) ∧
      ((∀ e : Fin 64, c.entryArmed k e = false) → d.rd (R.PFU.CMP_FIRE_CNT k) = c.rd (R.PFU.CMP_FIRE_CNT k))
    let down (i : Instr) : Prop := Completes i s fun t => let d := t.chip
      d.st = now.st ∧ d.on (F.PFU.PFU_STAT.DIR k) = true ∧
      (c.on (F.PFU.PFCFG.CNTMODE k) = false → d.rd (R.PFU.COUNT k) = c.rd (R.PFU.COUNT k) - 1#32) ∧
      (c.on (F.PFU.PFCFG.CNTMODE k) = true → count < cpr → d.rd (R.PFU.COUNT k) = wd (if count = 0 then cpr - 1 else count - 1)) ∧
      (x.m < cpr → (d.pfu k).m = if x.m = 0 then cpr - 1 else x.m - 1) ∧
      d.tagOf (0x403 + 16 * k) = (c.tagOf (0x403 + 16 * k) + 1) % 256
    (∀ a b : Bool, let i : Instr := .pfuEdge k a b at_
      let place (p : Bool × Bool) : Nat := if p.1 then (if p.2 then 2 else 1) else if p.2 then 3 else 0
      let seen : Chip := now.updPfu k fun x => { x with
        levels := (a, b), step := 0, aAt := if a = x.levels.1 then x.aAt else some at_, bAt := if b = x.levels.2 then x.bAt else some at_ }
      let steps := (place (a, b) + 4 - place x.levels) % 4
      -- the last edge of the line that has not changed now
      let other := if a = x.levels.1 then x.aAt else x.bAt
      let near := ∃ u, other = some u ∧ 5 * (at_ - u) < 256 ∧ 5 * (u - at_) < 256
      let qerr : List (Fld × Nat) :=
        [(F.PFU.STICKY.QERR k, 1), (whole (R.PFU.QERR_CNT k), min ((c.rd (R.PFU.QERR_CNT k)).toNat + 1) (2 ^ 32 - 1))]
      (¬en ∨ ty ≠ 0 → Answers i s s seen []) ∧
      (en → ty = 0 →
        (steps = 0 → Answers i s s seen []) ∧ (steps = 2 → Answers i s s seen qerr) ∧
        (steps % 2 = 1 → near → x.step = 0 → Answers i s s seen qerr) ∧
        (steps % 2 = 1 → near → x.step ≠ 0 → c.on (F.PFU.PFCFG.CNTMODE k) = false → Completes i s fun t =>
          (∀ q ∈ qerr, t.chip.get q.1 = q.2) ∧ t.chip.rd (R.PFU.COUNT k) = c.rd (R.PFU.COUNT k) - BitVec.ofInt 32 x.step ∧
          ((t.chip.pfu k).m : Int) = (x.m - x.step) % cpr) ∧
        (¬near →
          (steps = 1 ∧ c.on (F.PFU.PFCFG.DIRINV k) = false ∨ steps = 3 ∧ c.on (F.PFU.PFCFG.DIRINV k) = true → up i) ∧
          (steps = 3 ∧ c.on (F.PFU.PFCFG.DIRINV k) = false ∨ steps = 1 ∧ c.on (F.PFU.PFCFG.DIRINV k) = true → down i)))) ∧
    (∀ code : BitVec 3, let i : Instr := .hallTransition k code at_
      -- the sector of a code, and its place in the unit's forward direction
      let sector (q : Nat) : Prop := [1, 3, 2, 6, 4, 5].getD q 0 = code.toNat ∧ q < 6
      let along (q : Nat) : Nat := if c.on (F.PFU.PFCFG.DIRINV k) then 5 - q else q
      let bad := code = 0#3 ∨ code = 7#3
      (bad → (¬en ∨ ty ≠ 1 → Answers i s s now []) ∧ (en → ty = 1 → Answers i s s now [(F.PFU.STICKY.HALL_ERR k, 1)])) ∧
      ∀ q, sector q → let seen : Chip := now.updPfu k fun x => { x with sector := some q }
        (¬en ∨ ty ≠ 1 ∨ x.sector = none → Answers i s s seen []) ∧
        ∀ old, en → ty = 1 → x.sector = some old → old < 6 → let steps := (along q + 6 - along old) % 6
          (steps = 0 → Answers i s s now []) ∧ (steps = 1 → up i) ∧ (steps = 5 → down i) ∧
          (2 ≤ steps ∧ steps ≤ 4 → Answers i s s seen [(F.PFU.STICKY.HALL_ERR k, 1)])) ∧
    (let i : Instr := .zIndex k at_
      let act := c.get (F.PFU.PFCFG.ZACT k)
      (¬en ∨ ty ≠ 0 ∨ act = 0 → Answers i s s now []) ∧
      (en → ty = 0 → act ≠ 0 → Completes i s fun t => let d := t.chip
        d.rd (R.PFU.CAPT k) = c.rd (R.PFU.COUNT k) ∧ d.rd (R.PFU.CAPT_TS k) = wd at_ ∧ d.on (F.PFU.STICKY.CAPTURED k) = true ∧
        d.rd (R.PFU.COUNT k) = c.rd (R.PFU.COUNT k) ∧ d.tagOf (0x406 + 16 * k) = (c.tagOf (0x406 + 16 * k) + 1) % 256 ∧
        (act = 3 ∨ act = 2 ∧ c.on (F.PFU.PFU_STAT.ZSEEN k) = false →
          (d.pfu k).m = bits (c.rd (R.PFU.ZPOS k)) 0 24 ∧ d.on (F.PFU.PFU_STAT.ZSEEN k) = true) ∧
        (act = 1 ∨ act = 2 ∧ c.on (F.PFU.PFU_STAT.ZSEEN k) = true → (d.pfu k).m = x.m))) ∧
    ((c.pfu k).pulse = none → Ignores (.comparePulseEnd k) s) ∧
    (∀ u, (c.pfu k).pulse = some u →
      Answers (.comparePulseEnd k) s s (({ c with st := max c.st u } : Chip).updPfu k fun x => { x with pulse := none }) [])) ∧
  ∀ (src : Source) (k : Fin 6) (s : State), let c := s.chip
    (s.Lets src (R.PFU.CTRL k) → bits (c.rd (R.PFU.CTRL k)) 8 1 = 0 → bits (c.rd (R.PFU.CTRL k)) 10 1 = 0 →
      (Completes (.pfuZero src k) s fun t =>
        t.chip.rd (R.PFU.COUNT k) = 0#32 ∧ t.chip.tagOf (0x403 + 16 * k) = (c.tagOf (0x403 + 16 * k) + 1) % 256 ∧ (t.chip.pfu k).m = bits (c.rd (R.PFU.ZPOS k)) 0 24 ∧
        t.chip.rd (R.PFU.CAPT k) = c.rd (R.PFU.CAPT k)) ∧
      Completes (.pfuCaptureCmd src k) s fun t =>
        t.chip.rd (R.PFU.CAPT k) = c.rd (R.PFU.COUNT k) ∧ t.chip.rd (R.PFU.CAPT_TS k) = wd c.st ∧
        t.chip.on (F.PFU.STICKY.CAPTURED k) = true ∧ t.chip.rd (R.PFU.COUNT k) = c.rd (R.PFU.COUNT k) ∧ (t.chip.pfu k).m = (c.pfu k).m) ∧
    ∀ v : Word, s.Lets src (R.PFU.CMPL_CFG k) →
      Answers (.cmplCfgWrite src k v) s (s.spent (R.PFU.CMPL_CFG k)) c
        [(⟨R.PFU.CMPL_CFG k, 0, 17⟩, v.toNat % 2 ^ 17), (whole (R.PFU.CMPL_STAT k), 0)]

/-- Enables, frames, resolver pairs and the observer (R223, R229–R233, R236). -/
def Obligations.FramesMissesAndTheObserver : Prop :=
  (∀ (src : Source) (k : Fin 6) (s : State), let c := s.chip; let a := R.PFU.CTRL k
    let ty := c.get (F.PFU.PFCFG.INTYPE k)
    -- the unit keeps its position and the levels of its pins; Isaenaim sees its new state
    let turns (i : Instr) (last : Nat) (l : List (Fld × Nat)) : Prop := Completes i s fun t =>
      let x (x : PfuSt) : PfuSt := { m := x.m, levels := x.levels, aAt := x.aAt, bAt := x.bAt, sector := x.sector, last := last }
      t = { s.spent a with chip := { c.updPfu k x with
        regs := t.chip.regs
        portTag := if t.chip.rd (R.PFU.PFU_STAT k) = c.rd (R.PFU.PFU_STAT k) then c.portTag else (c.bumpTag (0x405 + 16 * k)).portTag
        isn := { c.isn with
          okSince := Tab.del c.isn.okSince (12 * 64 + k), slowAt := t.chip.isn.slowAt, parkAt := t.chip.isn.parkAt } } } ∧
      (c.get F.SAFE.PARK_CFG.PFU_A = k → t.chip.isn.parkAt = none) ∧ c.Shows t.chip l
    s.Lets src a →
    (c.on (F.PFU.CTRL.EN k) = true → Answers (.pfuEnable src k) s (s.spent a) c []) ∧
    (c.on (F.PFU.CTRL.EN k) = false →
      (c.pfuOk k = false → RefusesWrite (.pfuEnable src k) s src a rParam true) ∧
      (4 < ty ∨ 39 < c.get (F.PFU.CAPT_CFG.CAP_LEG k) ∨ (∃ e : Fin 64, 39 < c.get (F.PFU.CMPE_CFG.PG_LEG k e)) ∨ (∃ i : Fin 3, c.rd (R.PFU.OBS_L k i) = 0#32) ∨
        (ty = 2 ∨ ty = 3) ∧ (c.rd (R.PFU.FRAME_PER k)).toNat <
          (c.get (F.PFU.ENC_CFG.FLEN k) + 10) * 2 * c.get (F.PFU.ENC_CFG.CLK_HP k) * 5 + c.get (F.PFU.ENC_TIME.TM k) * 1000 + 1000 →
        RefusesWrite (.pfuEnable src k) s src a rParam true) ∧
      (c.pfuOk k = true → turns (.pfuEnable src k) c.st
        [(F.PFU.CTRL.EN k, 1), (F.PFU.STATUS.STATE k, osAcquiring), (whole (R.PFU.PFU_STAT k), 0),
         (F.PFU.CABLE.NA k, if ty = 3 then 0 else 1), (F.PFU.CABLE.VALID k, 0)]) ∧
      Answers (.pfuDisable src k) s (s.spent a) c []) ∧
    (c.on (F.PFU.CTRL.EN k) = true → turns (.pfuDisable src k) 0
      [(F.PFU.CTRL.EN k, 0), (F.PFU.STATUS.STATE k, osOff), (F.PFU.PFU_STAT.TRACKING k, 0), (F.PFU.PFU_STAT.FAULT k, 0)])) ∧
  ∀ (k : Fin 6) (s : State), let c := s.chip; let x := c.pfu k
    let ty := c.get (F.PFU.PFCFG.INTYPE k)
    (∀ at_ : Nat,
      (c.framed k = false ∨ onGrid (c.rd (R.PFU.FRAME_PER k)).toNat 0 at_ = false → Ignores (.encFrameStart k at_) s) ∧
      (c.framed k = true → onGrid (c.rd (R.PFU.FRAME_PER k)).toNat 0 at_ = true → let now : Chip := { c with st := max c.st at_ }
        (x.frame.isSome = true → Answers (.encFrameStart k at_) s s now [(F.PFU.STICKY.FRAME_EARLY k, 1)]) ∧
        (x.frame = none → Answers (.encFrameStart k at_) s s (now.updPfu k fun x => { x with frame := some now.st, cdmIdle := ty == 3 }) []))) ∧
    (∀ (data : BitVec 48) (crc : BitVec 6) (trip : BitVec 16) (at_ : Nat), c.isn.holdRef = none →
      let i : Instr := .encFrameReceive k data crc trip at_
      (x.frame = none → Answers i s s { c with st := max c.st at_ } []) ∧
      (∀ t0, x.frame = some t0 → ty = 2 →
        let d := data.toNat % 2 ^ c.get (F.PFU.ENC_CFG.FLEN k)
        let stb := c.get (F.PFU.ENC_FIELD.STB k)
        let v := d / 2 ^ c.get (F.PFU.ENC_FIELD.POS_LSB k) % 2 ^ (stb + c.get (F.PFU.ENC_FIELD.MTB k))
        (c.on (F.PFU.ENC_FIELD.ERR_EN k) = true → d / 2 ^ c.get (F.PFU.ENC_FIELD.ERR_POS k) % 2 = 0 → Completes i s fun t =>
          t.chip.on (F.PFU.STICKY.ENC_ERRBIT k) = true ∧ t.chip.rd (R.PFU.COUNT k) = c.rd (R.PFU.COUNT k) ∧ (t.chip.pfu k).frame = none ∧
          (t.chip.pfu k).miss = x.miss + 1) ∧
        (c.on (F.PFU.ENC_FIELD.ERR_EN k) = false → c.on (F.PFU.ENC_CFG.GRAY k) = false → Completes i s fun t =>
          t.chip.rd (R.PFU.ENC_RAW_LO k) = wd d ∧ t.chip.rd (R.PFU.ENC_RAW_HI k) = wd (d / 2 ^ 32) ∧
          (t.chip.pfu k).frame = none ∧ (t.chip.pfu k).miss = 0 ∧
          (c.on (F.PFU.PFCFG.CNTMODE k) = true →
            t.chip.rd (R.PFU.COUNT k) = wd (v % 2 ^ stb)) ∧
          (c.on (F.PFU.PFCFG.CNTMODE k) = false → t.chip.rd (R.PFU.COUNT k) = wd v) ∧
          (x.seeded = false → c.osState k ≠ osOff → t.chip.osState k = osAcquiring ∧ (t.chip.pfu k).seeded = true ∧
            (t.chip.pfu k).th = v % 2 ^ stb * 2 ^ (32 - stb) * 2 ^ 32)))) ∧
    (x.frame = none → Ignores (.encFrameTimeout k) s) ∧
    (∀ t0, x.frame = some t0 → Completes (.encFrameTimeout k) s fun t => let d := t.chip
      d.st = max c.st (t0 + c.get (F.PFU.ENC_TIME.TM k) * Config.us) ∧ d.on (F.PFU.STICKY.ENC_NORESP k) = true ∧
      d.get (F.PFU.ENC_ERR_CNT.NORESP k) = min (c.get (F.PFU.ENC_ERR_CNT.NORESP k) + 1) (2 ^ 16 - 1) ∧
      (d.pfu k).frame = none ∧ (d.pfu k).miss = x.miss + 1 ∧ d.rd (R.PFU.COUNT k) = c.rd (R.PFU.COUNT k) ∧
      (x.miss + 1 = c.get (F.PFU.ENC_TIME.MISS_N k) → d.on (F.PFU.STICKY.ENC_FAULT k) = true ∧
        (c.osState k ≠ osOff → d.osState k = osFault ∧ (c.osState k ≠ osFault → (d.pfu k).a = 0)))) ∧
    (x.sines = [] → x.cosines = [] → Ignores (.resolverPairTimeout k) s) ∧
    (∀ m ∈ (x.sines ++ x.cosines).map Prod.snd, (∀ u ∈ (x.sines ++ x.cosines).map Prod.snd, m ≤ u) →
      Completes (.resolverPairTimeout k) s fun t => let d := t.chip
        d.st = max c.st (m + Config.us) ∧ d.on (F.PFU.STICKY.RSLV_TIMING k) = true ∧
        (d.pfu k).sines = x.sines.filter (fun y => y.2 != m) ∧ (d.pfu k).cosines = x.cosines.filter (fun y => y.2 != m)) ∧
    (c.osState k = osOff ∨ 1 < ty → Ignores (.observerUpdate k) s) ∧
    (ty = 0 → c.osState k ≠ osOff →
      let now := x.last + bits (c.rd (R.PFU.OBS_T k)) 0 10 * 2560
      let cpr := bits (c.rd (R.PFU.CPR k)) 0 24
      (cpr ≠ 0 → Completes (.observerUpdate k) s fun t => let d := t.chip
        d.st = max c.st now ∧ d.rd (R.PFU.COUNT k) = c.rd (R.PFU.COUNT k) ∧
        (x.seeded = false ∨ c.osState k = osFault → d.osState k = osAcquiring ∧ (d.pfu k).seeded = true ∧
          (d.pfu k).th = x.m * 2 ^ 32 / cpr * 2 ^ 32 ∧ (d.pfu k).w = x.w ∧ (d.pfu k).a = x.a ∧ (d.pfu k).last = now) ∧
        (x.seeded = true → c.osState k ≠ osFault → x.last < now →
          let dt := now - x.last
          let e := turnDiff (x.m * 2 ^ 32 / cpr * 2 ^ 32) (x.thAt dt)
          let gain (i : Nat) : Nat := (c.rd (R.PFU.OBS_L k i)).toNat
          (d.pfu k).last = now ∧ (d.pfu k).e = e ∧
          ((d.pfu k).th : Int) = (x.thAt dt + rnd (e * gain 0) (2 ^ 32)) % 2 ^ 64 ∧
          (d.pfu k).w = x.wAt dt + rnd (e * gain 1 * Config.sec) (2 ^ 48 * dt) ∧
          (d.pfu k).a = x.a + rnd (e * gain 2 * Config.sec * Config.sec) (2 ^ 56 * dt * dt) ∧
          (15 ≤ x.good → c.osState k = osAcquiring ∨ c.osState k = osTracking →
            ((d.pfuInnov k).toInt).natAbs ≤ (c.rd (R.PFU.INNOV_LIM k)).toNat → d.osState k = osTracking))))

/-- Gate Link states (R269, R273, R274). -/
def Obligations.GateLinksInitialiseAndFail : Prop :=
  (∀ (src : Source) (l : Fin 48) (s : State), let c := s.chip; let i := l.val / 8; let j := l.val % 8
    let a := R.GLNK.LCFG i j
    s.Lets src a →
    (c.on (F.GLNK.LCFG.LEN i j) = true → Answers (.glLinkEnable src l) s (s.spent a) c []) ∧
    (c.on (F.GLNK.LCFG.LEN i j) = false →
      (c.on (F.GLNK.CTRL.EN i) = false → Answers (.glLinkEnable src l) s (s.spent a) c [(F.GLNK.LCFG.LEN i j, 1)]) ∧
      (c.on F.SAFE.STO_STAT.CUT_A = true ∨ c.on F.SAFE.STO_STAT.CUT_B = true →
        Answers (.glLinkEnable src l) s (s.spent a) c [(F.GLNK.LCFG.LEN i j, 1)]) ∧
      (c.on (F.GLNK.CTRL.EN i) = true → c.on F.SAFE.STO_STAT.CUT_A = false → c.on F.SAFE.STO_STAT.CUT_B = false →
        Answers (.glLinkEnable src l) s (s.spent a)
        (c.updLink l fun x => { x with step := 1, since := c.st })
        [(F.GLNK.LCFG.LEN i j, 1), (⟨R.GLNK.LINK_STATE i, 4 * j, 4⟩, lkInit), (F.GLNK.LSTAT.STATE i j, lkInit)]) ∧
      Answers (.glLinkDisable src l) s (s.spent a) c []) ∧
    (c.on (F.GLNK.LCFG.LEN i j) = true →
      (c.linkState l = lkOff → Answers (.glLinkDisable src l) s (s.spent a) c [(F.GLNK.LCFG.LEN i j, 0)]) ∧
      (c.linkState l ≠ lkOff → Completes (.glLinkDisable src l) s fun t => let d := t.chip
        d.on (F.GLNK.LCFG.LEN i j) = false ∧ d.linkState l = lkOff ∧ d.get (F.GLNK.LSTAT.STATE i j) = lkOff ∧ (d.link l).cmd = none ∧
        d.on (F.GLNK.CMD_STAT.BUSY i j) = false ∧ d.on (F.GLNK.LSTAT.CMD_ON i j) = false))) ∧
  ∀ (l : Fin 48) (s : State), let c := s.chip; let i := l.val / 8; let j := l.val % 8; let x := c.link l; let leg := l.val / 2
    let drops (d : Chip) (state : Nat) : Prop :=
      d.linkState l = state ∧ d.get (F.GLNK.LSTAT.STATE i j) = state ∧ d.on (F.GLNK.LSTAT.CMD_ON i j) = false ∧
      ((c.pg leg).uvBst = 0 → (c.pg leg).uvVg = 0 → d.on (F.PG.STATUS.HS leg) = false ∧ d.on (F.PG.STATUS.LS leg) = false)
    let fails (d : Chip) : Prop := drops d lkFault ∧ d.on (F.GLNK.STICKY.LOOP_FAIL i) = true
    let lost (d : Chip) : Prop := drops d lkLost ∧ d.on (F.GLNK.STICKY.LINK_LOST i) = true ∧ d.on (bitOf (R.GLNK.LOST_MAP i) j) = true ∧
      d.get (F.GLNK.EVT_CNT.LOST i j) = min (c.get (F.GLNK.EVT_CNT.LOST i j) + 1) 255 ∧ d.reports = c.reports ++ [(23, leg)]
    (∀ at_ : Nat, let heard : Chip := ({ c with st := max c.st at_ } : Chip).updLink l fun x => { x with lastFrame := at_ }
      let goes (i : Instr) (step : Nat) (regs : List (Fld × Nat)) : Prop :=
        Answers i s s (heard.updLink l fun x => { x with step := step, since := heard.st }) regs
      (c.linkState l ≠ lkInit → Ignores (.glInitTimeout l at_) s) ∧
      (c.linkState l = lkInit → Completes (.glInitTimeout l at_) s fun t => fails t.chip ∧ t.chip.st = max c.st at_) ∧
      (c.linkState l ≠ lkReady → Ignores (.glReverseSilence l at_) s) ∧
      (c.linkState l = lkReady → Completes (.glReverseSilence l at_) s fun t => lost t.chip ∧ t.chip.st = max c.st at_) ∧
      (c.linkState l = lkOff → Ignores (.glRxBadFrame l at_) s ∧ ∀ (reg : BitVec 8) (data rtt : BitVec 16),
        Ignores (.glRxLoop l data rtt at_) s ∧ Ignores (.glRxRdata l reg data at_) s ∧ Ignores (.glRxAck l reg data at_) s) ∧
      (c.linkState l ≠ lkOff → Answers (.glRxBadFrame l at_) s s { c with st := max c.st at_ }
        [(F.GLNK.STICKY.CRC_ERR i, 1), (F.GLNK.ERR_CNT.CRC i j, min (c.get (F.GLNK.ERR_CNT.CRC i j) + 1) (2 ^ 16 - 1))]) ∧
      (∀ (reg : BitVec 8) (data rtt : BitVec 16), c.linkState l = lkInit →
        (x.step = 1 → data = 0x5AC3#16 → goes (.glRxLoop l data rtt at_) 3 [(whole (R.GLNK.LOOP_RTT i j), rtt.toNat)]) ∧
        (x.step = 1 → data ≠ 0x5AC3#16 → Completes (.glRxLoop l data rtt at_) s fun t => fails t.chip) ∧
        (x.step = 3 → reg = 0#8 → data ≠ 0#16 → goes (.glRxRdata l reg data at_) 4 []) ∧
        (x.step = 3 → reg ≠ 0#8 ∨ data = 0#16 → Completes (.glRxRdata l reg data at_) s fun t => fails t.chip) ∧
        (4 ≤ x.step → x.step ≤ 9 →
          let want := match x.step with
            | 4 => c.get (F.GLNK.DRV_CFG.ISRC i j) | 5 => c.get (F.GLNK.DRV_CFG.ISINK i j) | 6 => c.get (F.GLNK.DRV_CFG.ISINK_SOFT i j)
            | 7 => c.get (F.GLNK.DRV_CFG.DESAT_TH i j) | 8 => c.get (F.GLNK.DRV_CFG.DESAT_BLANK i j) | _ => c.get (F.GLNK.TMO.TELE_PER i j)
          (reg.toNat = x.step - 3 → data.toNat = want →
            (x.step < 9 → goes (.glRxAck l reg data at_) (x.step + 1) []) ∧
            (x.step = 9 → Completes (.glRxAck l reg data at_) s fun t =>
              t.chip.linkState l = lkReady ∧ t.chip.get (F.GLNK.LSTAT.STATE i j) = lkReady ∧ (t.chip.link l).loopFails = 0)) ∧
          (reg.toNat ≠ x.step - 3 ∨ data.toNat ≠ want → Completes (.glRxAck l reg data at_) s fun t => fails t.chip))) ∧
      (c.linkState l = lkReady →
        (x.lastMark + Config.ms ≤ at_ → x.loopAt = none → x.since < x.lastMark + Config.ms ∨ x.since + 10 * Config.ms ≤ at_ →
          Answers (.glIdleLoop l at_) s s
            (({ c with st := max c.st at_ } : Chip).updLink l fun x => { x with loopAt := some (c.frameGap l at_), since := at_ }) []) ∧
        (x.lastMark + Config.ms ≤ x.since → at_ < x.since + 10 * Config.ms → Ignores (.glIdleLoop l at_) s) ∧
        ∀ (rtt data : BitVec 16), x.loopAt.isSome = true →
          (data = 0x5AC3#16 → Answers (.glRxLoop l data rtt at_) s s
            (heard.updLink l fun x => { x with loopAt := none, loopFails := 0 }) [(whole (R.GLNK.LOOP_RTT i j), rtt.toNat)]) ∧
          (data ≠ 0x5AC3#16 → x.loopFails = 1 → Completes (.glRxLoop l data rtt at_) s fun t => fails t.chip)) ∧
      (c.linkState l ≠ lkReady ∨ at_ < x.lastMark + Config.ms ∨ x.loopAt.isSome = true → Ignores (.glIdleLoop l at_) s)) ∧
    (c.linkState l ≠ lkReady → Ignores (.glTeleTimeout l) s) ∧
    (c.linkState l = lkReady → Completes (.glTeleTimeout l) s fun t =>
      lost t.chip ∧ t.chip.st = max c.st (x.lastFrame + c.get (F.GLNK.TMO.TELE_TMO i j) * Config.us)) ∧
    (x.loopAt = none → Ignores (.glLoopEchoTimeout l) s) ∧
    (∀ u, x.loopAt = some u → let now : Chip := { c with st := max c.st (u + Config.ns 740 + 2 * Config.us) }
      let checked := c.on (bitOf R.BIST.CTRL 10) = true ∧ c.on (bitOf R.BIST.ANA_CFG 3) = true
      let failed : Chip := now.updLink l fun x => { x with loopAt := none, loopFails := 1 }
      (x.loopFails = 0 → ¬checked → Answers (.glLoopEchoTimeout l) s s failed []) ∧
      (x.loopFails = 0 → checked → Answers (.glLoopEchoTimeout l) s s (failed.report 6 (3 * 256 + l))
        [(bitOf R.BIST.ANA_STATUS 3, 1), (⟨R.BIST.ANA_STATUS, 8, 8⟩, l), (hSticky R.BIST.ID 5, 1)]) ∧
      (x.loopFails = 1 → Completes (.glLoopEchoTimeout l) s fun t => fails t.chip ∧ t.chip.st = now.st))

/-- Gate Link frames, host commands and desaturation (R262, R271, R272, R276, R277). -/
def Obligations.GateLinkFramesAndCommands : Prop :=
  (∀ (src : Source) (l : Fin 48) (reg : BitVec 8) (data : BitVec 16) (s : State), let c := s.chip
    let i := l.val / 8; let j := l.val % 8
    let a := R.GLNK.CMD_TX i j
    s.Lets src a →
    let all : List (Instr × Nat) := [(.glCmdWrite src l reg data, 1), (.glCmdRead src l reg data, 2), (.glCmdClearFault src l reg data, 3),
      (.glCmdPoll src l reg data, 4), (.glCmdLoop src l reg data, 7)]
    (c.on (F.GLNK.CMD_STAT.BUSY i j) = true → ∀ q ∈ all, RefusesWrite q.1 s src a rState false) ∧
    (c.on (F.GLNK.CMD_STAT.BUSY i j) = false →
      (c.linkState l = lkReady →
        Answers (.glCmdWrite src l reg data) s (s.spent a) c [(whole (R.GLNK.CMD_STAT i j), 8 + rState * 2 ^ 8)]) ∧
      ∀ q ∈ all, q.2 ≠ 1 ∨ c.linkState l ≠ lkReady →
        Answers q.1 s (s.spent a) (c.updLink l fun x => { x with cmd := some (q.2, reg.toNat, data.toNat, c.frameGap l c.st), cmdLate := none })
          [(whole (R.GLNK.CMD_STAT i j), 1)]) ∧
    ∀ t : Nat, (c.marksDue l).Pairwise (· ≤ ·) → t ≤ c.frameGap l t ∧ ∀ m ∈ c.marksDue l,
      c.frameGap l t + Config.ns 740 + Config.ns 60 ≤ m ∨ 5 * m + 112 * 128 ≤ 5 * c.frameGap l t) ∧
  ∀ (l : Fin 48) (s : State), let c := s.chip; let i := l.val / 8; let j := l.val % 8; let x := c.link l; let leg := l.val / 2
    (∀ (reg : BitVec 8) (data : BitVec 16) (at_ : Nat),
      let heard : Chip := ({ c with st := max c.st at_ } : Chip).updLink l fun x => { x with lastFrame := at_ }
      let tag := (F.GLNK.VGS.TAG i j, (c.get (F.GLNK.VGS.TAG i j) + 1) % 256)
      let replies (type : Nat) (more : List (Fld × Nat)) (i' : Instr) : Prop :=
        Answers i' s s (heard.updLink l fun x => { x with cmd := none })
          ([(whole (R.GLNK.RX_DATA i j), data.toNat + reg.toNat * 2 ^ 16 + type * 2 ^ 24), (F.GLNK.CMD_STAT.BUSY i j, 0),
            (F.GLNK.CMD_STAT.DONE i j, 1), (F.GLNK.STICKY.CMD_DONE i, 1)] ++ more)
      (c.linkState l = lkOff →
        Ignores (.glRxGate l reg data at_) s ∧ Ignores (.glRxTemp l reg data at_) s ∧ Ignores (.glRxSupply l reg data at_) s ∧
        Ignores (.glRxDesatInfo l reg data at_) s ∧ Ignores (.glRxFault l reg data at_) s ∧ Ignores (.glDesatRecognise l at_) s) ∧
      (c.linkState l ≠ lkOff →
        (x.cmd = none → x.cmdLate = none →
          Answers (.glRxTemp l reg data at_) s s heard [(whole (R.GLNK.DTEMP i j), data.toNat)] ∧
          Answers (.glRxSupply l reg data at_) s s heard [(whole (R.GLNK.DSUPPLY i j), data.toNat + reg.toNat * 2 ^ 16)] ∧
          Answers (.glRxDesatInfo l reg data at_) s s heard [(whole (R.GLNK.DESAT_INFO i j), data.toNat + reg.toNat * 2 ^ 16)] ∧
          Answers (.glRxFault l reg data at_) s s heard
            [(F.GLNK.STICKY.DRV_FAULT i, 1), (F.GLNK.LSTAT.DRV_FAULT i j, (data.getLsbD 0).toNat)] ∧
          (x.gateLate = false → x.gate = none →
            Answers (.glRxGate l reg data at_) s s heard [(⟨R.GLNK.VGS i j, 0, 16⟩, data.toNat), tag])) ∧
        (x.gateLate = true →
          Answers (.glRxGate l reg data at_) s s (heard.updLink l fun x => { x with gateLate := false })
            [(whole R.LEASH.LATE_CNT, min ((c.rd R.LEASH.LATE_CNT).toNat + 1) (2 ^ 32 - 1)), (F.LEASH.STICKY.LATE_ARRIVAL, 1),
             (whole R.LEASH.LATE_LAST, 0x0B + i * 2 ^ 8 + j * 2 ^ 16)]) ∧
        (∀ on lim, x.gateLate = false → x.gate = some (on, lim) →
          let ok : Prop := if on = true then c.geti (F.GLNK.VGS_LIM.VGS_ON_MIN i j) ≤ data.toInt
            else data.toInt ≤ c.geti (F.GLNK.VGS_LIM.VGS_OFF_MAX i j)
          (ok → Answers (.glRxGate l reg data at_) s s (heard.updLink l fun x => { x with gate := none })
            [(⟨R.GLNK.VGS i j, 0, 16⟩, data.toNat), tag, (F.GLNK.VGS.CHECK_OK i j, 1)]) ∧
          (¬ok → Completes (.glRxGate l reg data at_) s fun t => let d := t.chip
            d.on (F.GLNK.VGS.CHECK_OK i j) = false ∧ d.get ⟨R.GLNK.VGS i j, 0, 16⟩ = data.toNat ∧
            d.on (F.GLNK.STICKY.GATE_FAULT i) = true ∧ d.on (F.PG.STICKY.GATE_FAULT leg) = true ∧ (d.link l).gateFault = true ∧
            (d.link l).gate = none ∧ d.get (F.GLNK.EVT_CNT.GATE_FAULT i j) = min (c.get (F.GLNK.EVT_CNT.GATE_FAULT i j) + 1) 255 ∧
            d.reports = c.reports ++ [(23, leg)])) ∧
        (∀ r d0 t0, c.linkState l ≠ lkInit → x.cmdLate = none →
          (x.cmd = some (tyRead, reg.toNat, d0, t0) → reg ≠ 7#8 → replies 6 [] (.glRxRdata l reg data at_)) ∧
          (x.cmd = some (tyWrite, reg.toNat, data.toNat, t0) → replies 5 [] (.glRxAck l reg data at_)) ∧
          (x.cmd = some (tyClear, reg.toNat, data.toNat, t0) → replies 5 [(F.GLNK.LSTAT.DRV_FAULT i j, 0)] (.glRxAck l reg data at_)) ∧
          (x.cmd = some (tyPoll, 2, d0, t0) → replies 2 [(whole (R.GLNK.DTEMP i j), data.toNat)] (.glRxTemp l reg data at_)) ∧
          (x.cmd = some (tyLoop, r, data.toNat, t0) → r < 2 ^ 8 → x.loopAt = none → ∀ rtt : BitVec 16,
            Answers (.glRxLoop l data rtt at_) s s (heard.updLink l fun x => { x with cmd := none })
              [(whole (R.GLNK.RX_DATA i j), data.toNat + r * 2 ^ 16 + 7 * 2 ^ 24), (F.GLNK.CMD_STAT.BUSY i j, 0),
               (F.GLNK.CMD_STAT.DONE i j, 1), (F.GLNK.STICKY.CMD_DONE i, 1), (whole (R.GLNK.LOOP_RTT i j), rtt.toNat)])) ∧
        (c.linkState l ≠ lkInit →
          let late (i' : Instr) : Prop := Answers i' s s (heard.updLink l fun x => { x with cmdLate := none })
            [(whole R.LEASH.LATE_CNT, min ((c.rd R.LEASH.LATE_CNT).toNat + 1) (2 ^ 32 - 1)), (F.LEASH.STICKY.LATE_ARRIVAL, 1),
             (whole R.LEASH.LATE_LAST, 0x0B + i * 2 ^ 8 + j * 2 ^ 16)]
          (x.cmdLate = some (tyWrite, reg.toNat, data.toNat) ∨ x.cmdLate = some (tyClear, reg.toNat, data.toNat) →
            late (.glRxAck l reg data at_)) ∧
          ∀ r d, (x.cmdLate = some (tyRead, reg.toNat, d) → late (.glRxRdata l reg data at_)) ∧
            (x.cmdLate = some (tyPoll, 2, d) → late (.glRxTemp l reg data at_) ∧
              (x.cmd = none → Answers (.glRxSupply l reg data at_) s s heard
                [(whole (R.GLNK.DSUPPLY i j), data.toNat + reg.toNat * 2 ^ 16)])) ∧
            (x.cmdLate = some (tyLoop, r, data.toNat) → x.loopAt = none → ∀ rtt : BitVec 16, late (.glRxLoop l data rtt at_))) ∧
        (c.scEvents = [] → Tab.find c.scResp (c.groupOf leg) = none →
          let ev : ScEvent := { group := c.groupOf leg, leg := leg, ts := at_ - 1024, link := some (l.val % 2 == 0), used := false }
          Answers (.glDesatRecognise l at_) s s { ({ c with st := max c.st at_ } : Chip).report 23 leg with scEvents := [ev] }
            [(F.GLNK.STICKY.DESAT i, 1), (bitOf (R.GLNK.DESAT_MAP i) j, 1),
             (F.GLNK.EVT_CNT.DESAT i j, min (c.get (F.GLNK.EVT_CNT.DESAT i j) + 1) 255)]))) ∧
    (x.gate = none → Ignores (.glGateCheckTimeout l) s) ∧
    (∀ on lim, x.gate = some (on, lim) → Answers (.glGateCheckTimeout l) s s
      (({ c with st := max c.st lim } : Chip).updLink l fun x => { x with gate := none, gateLate := true }) []) ∧
    (x.cmd = none → Ignores (.glCmdTimeout l) s) ∧
    (∀ ty r d0 t0, x.cmd = some (ty, r, d0, t0) → Answers (.glCmdTimeout l) s s
      (({ c with st := max c.st (t0 + Config.ns 740 + 2 * Config.us) } : Chip).updLink l fun x => { x with cmd := none, cmdLate := some (ty, r, d0) })
      [(whole (R.GLNK.CMD_STAT i j), 4)])

/-- LV drivers (R282–R284). -/
def Obligations.LvDriversGuardTheirLegs : Prop :=
  (∀ (n : Fin 16) (mv : BitVec 16) (s : State), let c := s.chip; let leg := 24 + n.val
    let limits : Nat × Nat := if c.get (F.LVDRV.DCFG.UVTH n) = 0 then (4000, 4500) else if c.get (F.LVDRV.DCFG.UVTH n) = 1 then (7000, 7500)
      else (9500, 10000)
    (limits.1 ≤ mv.toNat → OnlyShows (.lvBootstrapUv n mv) s [(F.LVDRV.SUPPLY.VBST n, mv.toNat)]) ∧
    (mv.toNat < limits.1 → Completes (.lvBootstrapUv n mv) s fun t => let d := t.chip
      d.get (F.LVDRV.SUPPLY.VBST n) = mv.toNat ∧ d.on (F.LVDRV.DSTAT.BST_UV n) = true ∧ d.on (F.PG.STICKY.UV_HOLD leg) = true ∧
      d.get ⟨R.LVDRV.UV_CNT n, 0, 16⟩ = (if c.on (F.LVDRV.DSTAT.BST_UV n) then c.get ⟨R.LVDRV.UV_CNT n, 0, 16⟩
        else min (c.get ⟨R.LVDRV.UV_CNT n, 0, 16⟩ + 1) (2 ^ 16 - 1)) ∧
      (c.on (F.LVDRV.DSTAT.BST_UV n) = false → d.on (F.LVDRV.STICKY.BST_UV n) = true) ∧
      (d.pg leg).uvBst = 1 ∧ d.on (F.PG.STATUS.HS leg) = false ∧
      (c.legState leg = lgRun → d.LegIs leg lgUv false (c.on (F.PG.PG_STAT.LS_CMD leg))) ∧
      ∀ m : Fin 16, m ≠ n → d.rd (R.LVDRV.DSTAT m) = c.rd (R.LVDRV.DSTAT m) ∧ d.pg (24 + m) = c.pg (24 + m)) ∧
    (mv.toNat < limits.2 → OnlyShows (.lvUvRecover n false mv) s [(F.LVDRV.SUPPLY.VBST n, mv.toNat)]) ∧
    (limits.2 ≤ mv.toNat → Completes (.lvUvRecover n false mv) s fun t => let d := t.chip
      d.get (F.LVDRV.SUPPLY.VBST n) = mv.toNat ∧ d.on (F.LVDRV.DSTAT.BST_UV n) = false ∧
      (d.pg leg).uvBst = (if (c.pg leg).uvBst = 0 ∨ c.on (F.PG.CTRL.EN leg) = false then 0 else 2) ∧
      ((c.pg leg).uvBst ≠ 0 → c.on (F.PG.CTRL.EN leg) = true → d.on (F.PG.STATUS.HS leg) = false))) ∧
  (∀ (k : Fin 4) (mv : BitVec 16) (s : State), let c := s.chip
    (Completes (.lvVgUv k mv) s fun t => let d := t.chip
      ∀ i : Fin 4, let n := 4 * k.val + i.val
        d.get (F.LVDRV.SUPPLY.VG n) = mv.toNat ∧
        (mv.toNat < (c.uvLimits n).1 → d.on (F.LVDRV.DSTAT.VG_UV n) = true ∧ d.on (F.PG.STICKY.UV_HOLD (24 + n)) = true ∧
          d.get (F.LVDRV.UV_CNT.VG n) = (if c.on (F.LVDRV.DSTAT.VG_UV n) then c.get (F.LVDRV.UV_CNT.VG n)
            else min (c.get (F.LVDRV.UV_CNT.VG n) + 1) (2 ^ 16 - 1)) ∧
          (d.pg (24 + n)).uvVg = 1 ∧ d.on (F.PG.STATUS.HS (24 + n)) = false ∧ d.on (F.PG.STATUS.LS (24 + n)) = false) ∧
        ((c.uvLimits n).1 ≤ mv.toNat → d.rd (R.LVDRV.DSTAT n) = c.rd (R.LVDRV.DSTAT n) ∧ d.pg (24 + n) = c.pg (24 + n))) ∧
    ∀ n : Fin 16, n.val / 4 = k.val → Completes (.lvUvRecover n true mv) s fun t => let d := t.chip
      ∀ i : Fin 4, let m := 4 * k.val + i.val
        d.get (F.LVDRV.SUPPLY.VG m) = mv.toNat ∧
        ((c.uvLimits m).2 ≤ mv.toNat → d.on (F.LVDRV.DSTAT.VG_UV m) = false ∧
          (d.pg (24 + m)).uvVg = if (c.pg (24 + m)).uvVg = 0 ∨ c.on (F.PG.CTRL.EN (24 + m)) = false then 0 else 2) ∧
        (mv.toNat < (c.uvLimits m).2 → d.rd (R.LVDRV.DSTAT m) = c.rd (R.LVDRV.DSTAT m) ∧ d.pg (24 + m) = c.pg (24 + m))) ∧
  ∀ (n : Fin 16) (s : State), let c := s.chip
    (∀ high on : Bool, let f := if high then F.LVDRV.DSTAT.HG_SENSED n else F.LVDRV.DSTAT.LG_SENSED n
      let cmd := c.on (F.LVDRV.CTRL.EN n) && c.on (if high then F.PG.STATUS.HS (24 + n) else F.PG.STATUS.LS (24 + n))
      (c.on (F.LVDRV.GSENSE.GCHK_EN n) = false → Ignores (.lvGateSense n high on) s) ∧
      (c.on (F.LVDRV.GSENSE.GCHK_EN n) = true →
        (on = cmd → OnlyShows (.lvGateSense n high on) s [(f, on.toNat)]) ∧
        (on ≠ cmd →
          let fault : List (Fld × Nat) := [(f, on.toNat), (F.LVDRV.STICKY.GATE_FAULT n, 1), (F.PG.STICKY.GATE_FAULT (24 + n), 1),
            (F.LVDRV.FLT_CNT.GATE_FAULT n, min (c.get (F.LVDRV.FLT_CNT.GATE_FAULT n) + 1) (2 ^ 16 - 1))]
          let checked := c.on (bitOf R.BIST.CTRL 10) = true ∧ c.on (bitOf R.BIST.ANA_CFG 2) = true
          (¬checked → OnlyShows (.lvGateSense n high on) s fault) ∧
          (checked → Answers (.lvGateSense n high on) s s (c.report 6 (2 * 256 + n))
            (fault ++ [(bitOf R.BIST.ANA_STATUS 2, 1), (⟨R.BIST.ANA_STATUS, 8, 8⟩, n.val), (hSticky R.BIST.ID 5, 1)]))))) ∧
    ∀ (high : Bool) (qg : BitVec 16), let f := if high then F.LVDRV.QG.QG_HS n else F.LVDRV.QG.QG_LS n
      let ok := c.get (F.LVDRV.QG_LIM.QG_MIN n) ≤ qg.toNat ∧ qg.toNat ≤ c.get (F.LVDRV.QG_LIM.QG_MAX n)
      -- turn-ons counted since the last one due, and whether one is due
      let side := 2 * n.val + (!high).toNat
      let due := Tab.at c.charges (0, false) side
      let taken : Chip := { c with charges := Tab.set c.charges (0, false) side (due.1, false) }
      (c.on (F.LVDRV.DCFG.QG_EN n) = false ∨ due.2 = false → Ignores (.lvQgMeasure n high qg) s) ∧
      (c.on (F.LVDRV.DCFG.QG_EN n) = true → due.2 = true →
        (ok → Answers (.lvQgMeasure n high qg) s s taken [(f, qg.toNat)]) ∧
        (¬ok → Answers (.lvQgMeasure n high qg) s s taken [(f, qg.toNat), (F.LVDRV.STICKY.QG_RANGE n, 1),
          (F.LVDRV.FLT_CNT.QG_RANGE n, min (c.get (F.LVDRV.FLT_CNT.QG_RANGE n) + 1) (2 ^ 16 - 1))]))

/-- Converter supervisors (R322, R324, R326, R329–R332). -/
def Obligations.ConvertersStartStopAndRecover : Prop :=
  (∀ (src : Source) (k : Fin 8) (s : State), let c := s.chip; let a := R.CONV.CTRL k
    let st := c.cvState k
    let soft (d : Chip) : Prop := d.cvState k = cvSoft ∧ (d.conv k).softAt = c.st ∧ d.get (F.CONV.CV_STAT.HC_CONSEC k) = 0 ∧
      d.get (F.CONV.CV_STAT.NA k) = (c.phases k).length ∧ ∀ j : Fin 8, d.phaseOn k j = (c.phLeg k j).isSome
    let off (d : Chip) : Prop := d.cvState k = cvOff ∧ d.get (F.CONV.CV_STAT.NA k) = 0 ∧
      (c.on (F.CONV.CTRL.EN k) = true → ∀ (j : Fin 8) (n : Fin 40), c.phLeg k j = some n.val → (c.pg n).isn = none →
        d.on (F.PG.STATUS.HS n) = false ∧ d.on (F.PG.STATUS.LS n) = false)
    s.Lets src a →
    (c.on (F.CONV.CTRL.EN k) = true → Answers (.convEnable src k) s (s.spent a) c []) ∧
    (c.on (F.CONV.CTRL.EN k) = false → let wr := !carriesCommand a (c.rd a ||| 1#32)
      (c.phase = .cold ∨ c.phase = .warm → RefusesWrite (.convEnable src k) s src a rState wr) ∧
      (c.phase ≠ .cold → c.phase ≠ .warm → c.convAccepts k = false → RefusesWrite (.convEnable src k) s src a rParam wr) ∧
      (c.phase ≠ .cold → c.phase ≠ .warm → c.convAccepts k = true → Completes (.convEnable src k) s fun t =>
        t.chip.on (F.CONV.CTRL.EN k) = true ∧ t.chip.st = c.st ∧
        (∀ i : Fin 7, let r := R.CONV.SOFTSTART k + 4 * i; t.chip.rd r = c.rd r ∧ t.chip.cvGet k (whole r) = (c.rd r).toNat) ∧
        (c.on (F.CONV.CTRL.RUN_REQ k) = false → st = cvOff → t.chip.cvState k = cvOff) ∧
        (c.on (F.CONV.CTRL.RUN_REQ k) = true → st = cvOff → soft t.chip))) ∧
    ∀ run : Bool,
      (c.on (F.CONV.CTRL.RUN_REQ k) = run → st ≠ cvOutLost → Answers (.convRunRequest src k run) s (s.spent a) c []) ∧
      (c.on (F.CONV.CTRL.RUN_REQ k) ≠ run ∨ st = cvOutLost →
        (c.targeted k = true → RefusesWrite (.convRunRequest src k run) s src a rState false) ∧
        (c.targeted k = false → Completes (.convRunRequest src k run) s fun t => let d := t.chip
          d.on (F.CONV.CTRL.RUN_REQ k) = run ∧ d.on (F.CONV.CTRL.EN k) = c.on (F.CONV.CTRL.EN k) ∧ d.st = c.st ∧
          (c.on (F.CONV.CTRL.EN k) = true → run = true → st = cvOff → soft d) ∧
          (c.on (F.CONV.CTRL.EN k) = true → run = false → st ≠ cvOff → st ≠ cvInLost → off d) ∧
          (c.on (F.CONV.CTRL.EN k) = true → run = false → st = cvInLost → d.cvState k = cvInLost) ∧
          (c.on (F.CONV.CTRL.EN k) = false → st = cvOff → d.cvState k = cvOff)))) ∧
  ∀ (k : Fin 8) (s : State), let c := s.chip; let x := c.conv k; let st := c.cvState k
    (st ≠ cvHiccup → Ignores (.convHiccupOffExpire k) s) ∧
    (st = cvHiccup → Completes (.convHiccupOffExpire k) s fun t => let d := t.chip
      d.st = max c.st (x.hiccupAt + c.cvGet k (F.CONV.HICCUP.HC_OFF k) * Config.ms) ∧ d.cvState k = cvSoft ∧ (d.conv k).softAt = d.st ∧
      d.get (F.CONV.CV_STAT.HC_CONSEC k) = 0 ∧ (d.conv k).trims = [] ∧
      d.get (F.CONV.CV_STAT.RETRIES k) = min (c.get (F.CONV.CV_STAT.RETRIES k) + 1) 15) ∧
    (st ≠ cvRun → Ignores (.convRetryReset k) s) ∧
    (st = cvRun → Answers (.convRetryReset k) s s { c with st := max c.st (x.runAt + Config.sec) } [(F.CONV.CV_STAT.RETRIES k, 0)]) ∧
    (let may := c.cvOn k (F.CONV.SHED.SHED_EN k) = true ∧ (st = cvSoft ∨ st = cvRun) ∧
        c.cvGet k (F.CONV.SHED.MINPHM1 k) + 1 < (c.activePhases k).length ∧ x.shed = none;
      (x.lowSince = none ∨ ¬may → Ignores (.convShedTimer k) s) ∧
      ∀ u j, x.lowSince = some u → may → (c.activePhases k).getLast? = some j →
        Answers (.convShedTimer k) s s
          (({ c with st := max c.st (u + 10 * Config.ms) } : Chip).updConv k fun x => { x with shed := some (j, 0), lowSince := none })
          [(F.CONV.CV_STAT.SHEDDING k, 1)]) ∧
    (x.stepAt = none → Ignores (.convHoldoffExpire k) s) ∧
    (∀ u, x.stepAt = some u → let now := max c.st (u + c.cvGet k (F.CONV.SHED.HOLDOFF k) * Config.ms)
      let low := (st = cvSoft ∨ st = cvRun) ∧ c.on (F.CONV.CV_STAT.STEP k) = false ∧
        x.lastI < ((c.activePhases k).length - 1 : Int) * (c.cvGet k (F.CONV.SHED_I.I_SHED k) * 100 : Nat)
      (low → Answers (.convHoldoffExpire k) s s
        (({ c with st := now } : Chip).updConv k fun x => { x with stepAt := none, lowSince := some now }) [(F.CONV.CV_STAT.HOLDOFF k, 0)]) ∧
      (¬low → Answers (.convHoldoffExpire k) s s
        (({ c with st := now } : Chip).updConv k fun x => { x with stepAt := none, lowSince := none }) [(F.CONV.CV_STAT.HOLDOFF k, 0)])) ∧
    (∀ largest : BitVec 32,
      let lost := c.on (F.CONV.CTRL.EN k) = true ∧ c.cvOn k (F.CONV.INLOSS.INLOSS_EN k) = true ∧ st ≠ cvInLost ∧
        ¬(st = cvOutLost ∧ x.lostAt = some c.st) ∧ largest.toNat < c.cvGet k (F.CONV.INLOSS.VIN_MIN k) * 100
      (¬lost → Ignores (.convInputLoss k largest) s) ∧
      (lost → (∀ q : Fin 16, c.inSession q = false) → Completes (.convInputLoss k largest) s fun t => let d := t.chip
        d.cvState k = cvInLost ∧ d.on (F.CONV.STICKY.INPUT_LOST k) = true ∧ d.rd (R.CONV.HIC_CNT k) = c.rd (R.CONV.HIC_CNT k) ∧
        d.rd (R.CONV.CL_CNT k) = c.rd (R.CONV.CL_CNT k) ∧ d.get (F.CONV.CV_STAT.NA k) = 0 ∧
        ∀ (j : Fin 8) (n : Fin 40), c.phLeg k j = some n.val → (c.pg n).isn = none →
          d.on (F.PG.STATUS.HS n) = false ∧ d.on (F.PG.STATUS.LS n) = false)) ∧
    ∀ least : Word,
      let back := st = cvInLost ∧ c.on (F.CONV.CTRL.RUN_REQ k) = false ∧ ((c.cvGet k (F.CONV.INLOSS.VIN_MIN k) * 100 : Nat) : Int) ≤ least.toInt
      (¬back → Ignores (.convInputRecover k least) s) ∧
      (back → Completes (.convInputRecover k least) s fun t => t.chip.cvState k = cvOff ∧ t.chip.st = c.st)

/-- Commands of MC_FOC and MC_ACT (R292, R298, R310, R312, R315, R317, R318). The payload of a record is free (log 10). -/
def Obligations.DriveCommandsActOnce : Prop :=
  ∀ (l : Fin 512) (s : State), let c := s.chip
    let eff (target : Nat) (v : Word) : Effect := { loop := l, pair := c.get (fPair l), epoch := c.get (fEpoch l), target := target, shared := false, val := v }
    (let x := c.drive_ l
      let m := Tab.at c.mailbox 0 (bits (c.seg l 38) 0 8)
      let gate (on : Bool) : Effect := eff (0xA10 + bits (c.seg l 36) 0 3) (if on then 0xFFF else 0)
      let moves (i : Instr) (y : DriveSt) (es : List Effect) (codes : List (Nat × Nat)) : Prop := Completes i s fun t =>
        t.chip.drive_ l = y ∧ (∀ k, k ≠ l.val → t.chip.drive_ k = c.drive_ k) ∧
        let base : Chip := { c with drives := t.chip.drives, effects := c.effects ++ es }
        t = { s with chip := codes.foldl (fun d q => d.record 3 q.1 (Config.drivePayload l y.dstate q.2).toNat y.speed.toNat) base }
      let new (cmd : Nat) : Prop := c.get (fState l) = lsClosed ∧ x.init = true ∧ bits m 0 3 = cmd ∧ bits m 8 8 ≠ x.seqAck
      let ack := { x with seqAck := bits m 8 8, cmdRej := false }
      let reject (i : Instr) : Prop := moves i { ack with cmdRej := true } [] []
      let idle (i : Instr) (cmd : Nat) : Prop :=
        (c.get (fState l) ≠ lsClosed → Ignores i s) ∧
        (x.init = true → bits m 0 3 ≠ cmd ∨ bits m 8 8 = x.seqAck → Ignores i s) ∧
        (c.get (fState l) = lsClosed → x.init = false → c.driveParOk l = false → Completes i s fun t => let y := t.chip.drive_ l
          y.init = true ∧ y.dstate = dsCfgErr ∧ y.reason = 1 ∧ t.chip.effects = c.effects ++ [gate true] ∧ t.chip.pairs = c.pairs ∧
          (bits m 0 3 = cmd → bits m 8 8 ≠ x.seqAck → y.seqAck = bits m 8 8 ∧ y.cmdRej = true)) ∧
        (c.get (fState l) = lsClosed → x.init = false → c.driveParOk l = true → bits m 0 3 ≠ cmd ∨ bits m 8 8 = x.seqAck →
          Completes i s fun t => let y := t.chip.drive_ l
            y.init = true ∧ y.dstate = dsStopped ∧ y.reason = x.reason ∧ y.seqAck = x.seqAck ∧ t.chip.effects = c.effects ++ [gate true] ∧
            t = { s with chip := { c with drives := t.chip.drives, effects := t.chip.effects } })
      (∀ speed : Word, let i : Instr := .driveStop l speed
        let v := if bits (c.seg l 0) 0 2 = 2 then c.pfuSpeed (bits (c.seg l 0) 3 3) else speed
        let y := { ack with
          speed := v, ident := none, runPend := false, flux := false, brakeFirst := false, starting := false, idDone := x.idDone && x.ident.isNone };
        idle i 0 ∧
        (new 0 → x.dstate = dsCfgErr → reject i) ∧
        (new 0 → x.dstate ≠ dsCfgErr → mag v ≤ mag (c.seg l 16) → moves i { y with dstate := dsStopped } [gate true] []) ∧
        (new 0 → x.dstate ≠ dsCfgErr → mag (c.seg l 16) < mag v →
          moves i { y with dstate := dsAsc } ((c.dutyPorts l).map (eff · 0) ++ [gate false]) (if x.dstate = dsAsc then [] else [(0x4D04, 0)]))) ∧
      (let i : Instr := .driveRun l;
        idle i 1 ∧
        (new 1 → x.dstate = dsStopped →
          moves i { ack with dstate := dsSense, since := c.trigOf l, goodAt := some (c.trigOf l), starting := true, ident := none, flux := false, brakeFirst := m.getLsbD 3 } [] []) ∧
        (new 1 → x.dstate = dsAsc → moves i { ack with runPend := true, brakeFirst := m.getLsbD 3 } [] []) ∧
        (new 1 → x.dstate ≠ dsStopped → x.dstate ≠ dsAsc → reject i)) ∧
      (let i : Instr := .driveIdent l
        let no := x.dstate ≠ dsStopped ∨ bits (c.seg l 0) 0 2 = 2 ∧ m.getLsbD 7 = true;
        idle i 2 ∧ (new 2 → no → reject i) ∧
        (new 2 → ¬no → Completes i s fun t =>
          t.chip.drive_ l = { ack with dstate := dsSense, since := c.trigOf l, goodAt := some (c.trigOf l), starting := false, ident := some (bits m 4 4), idDone := false, flux := false } ∧
          t.chip.seg l 70 = 0#32 ∧ (∀ k, k ≠ 70 → t.chip.seg l k = c.seg l k) ∧
          t = { s with chip := { c with drives := t.chip.drives, pairs := t.chip.pairs, loops := t.chip.loops } })) ∧
      (let i : Instr := .driveClear l;
        idle i 3 ∧ (new 3 → x.dstate = dsFault → moves i { ack with dstate := dsStopped } [] []) ∧
        (new 3 → x.dstate ≠ dsFault → reject i))) ∧
    (let x := c.act l
      let m := (c.loop l).setpt
      let gate (on : Bool) : Effect := eff (0xA10 + bits (c.seg l 0) 13 3) (if on then 0xFFF else 0)
      let idle (i : Instr) (cmd : Nat) : Prop :=
        c.get (fState l) ≠ lsClosed ∨ bits m 0 3 ≠ cmd ∨ bits m 8 8 = x.seqAck → Ignores i s
      let new (cmd : Nat) : Prop := c.get (fState l) = lsClosed ∧ bits m 0 3 = cmd ∧ bits m 8 8 ≠ x.seqAck
      let ack := { x with seqAck := bits m 8 8 }
      let moves (i : Instr) (y : ActSt) (es : List Effect) : Prop := Completes i s fun t =>
        t.chip.act l = y ∧ (∀ k, k ≠ l.val → t.chip.act k = c.act k) ∧
        t = { s with chip := { c with acts := t.chip.acts, effects := c.effects ++ es } }
      let iMove := bits (c.seg l 10) 0 16
      let iHold := (c.seg l 14).toNat
      let starts (i : Instr) (st : ActStep) (ctl : ActCtl) : Prop :=
        moves i { ack with step := st, ctl := ctl, target := bits m 16 3, since := c.trigOf l, reason := 0 } [gate false]
      let refused (i : Instr) : Prop := Completes i s fun t =>
        t.chip.act l = { ack with step := .holding, ctl := .hold iHold, reason := 3 } ∧ (∀ k, k ≠ l.val → t.chip.act k = c.act k) ∧
        let payload := (Config.drivePayload l (Config.actCode 10).toNat 3).toNat
        t = { s with chip := ({ c with acts := t.chip.acts } : Chip).record 3 0x4D07 payload (c.pfuSpeed (bits (c.seg l 0) 1 3)).toNat }
      let permit (b : Nat) : Prop :=
        (c.seg l 0).getLsbD 4 = true → (Tab.at c.mailbox 0 (bits (c.seg l 15) 16 8)).getLsbD b = true
      (idle (.actStop l) 0 ∧ (new 0 → moves (.actStop l) { ack with step := .stopped, ctl := .off } [gate true])) ∧
      (idle (.actMove l) 1 ∧ (new 1 → starts (.actMove l) .moving (.position (some (bits m 16 3)) iMove))) ∧
      (idle (.actShift l) 2 ∧ (new 2 → starts (.actShift l) (.shift 1) (.hold iHold))) ∧
      (idle (.actEngage l) 3 ∧ (new 3 → permit 0 → starts (.actEngage l) .engaging (.position (some (bits m 16 3)) iMove)) ∧ (new 3 → ¬permit 0 → refused (.actEngage l))) ∧
      (idle (.actRelease l) 4 ∧ (new 4 → permit 1 → starts (.actRelease l) .releasing (.position (some (bits m 16 3)) iMove)) ∧ (new 4 → ¬permit 1 → refused (.actRelease l))))

/-- Ends of the phases of drives and actuators (R299–R304, R309, R312, R313, R317–R319). -/
def Obligations.DrivePhasesEnd : Prop :=
  ∀ (l : Fin 512) (s : State), let c := s.chip; let x := c.drive_ l
    let eff (target : Nat) (v : Word) : Effect := { loop := l, pair := c.get (fPair l), epoch := c.get (fEpoch l), target := target, shared := false, val := v }
    let gate (on : Bool) : Effect := eff (0xA10 + bits (c.seg l 36) 0 3) (if on then 0xFFF else 0)
    let recs (y : DriveSt) (codes : List (Nat × Nat)) (d : Chip) : Chip :=
      codes.foldl (fun d q => d.record 3 q.1 (Config.drivePayload l y.dstate q.2).toNat y.speed.toNat) d
    let moves (i : Instr) (now : Nat) (y : DriveSt) (es : List Effect) (codes : List (Nat × Nat)) : Prop := Completes i s fun t =>
      t.chip.drive_ l = y ∧ (∀ k, k ≠ l.val → t.chip.drive_ k = c.drive_ k) ∧
      t = { s with chip := recs y codes { c with st := now, drives := t.chip.drives, effects := c.effects ++ es } }
    let failed (z : DriveSt) (reason : Nat) : DriveSt :=
      { z with dstate := dsFault, reason := reason, ident := none, flux := false, runPend := false, starting := false }
    -- a start that has not been counted counts, with its record
    let counted (z : DriveSt) : DriveSt := if z.starting then { z with starts := min (z.starts + 1) 0xFFFF, starting := false } else z
    let startRec (layer : Nat) : List (Nat × Nat) := if x.starting then [(0x4D00, layer)] else []
    let finished (z : DriveSt) : DriveSt := { z with ident := none, idDone := true, dstate := dsStopped }
    let induction := bits (c.seg l 0) 0 2 = 2
    let sensor := bits (c.seg l 0) 2 1 = 1
    let k := bits (c.seg l 0) 3 3
    let periods (v : Nat) : Nat := 131072 * Config.sec / v
    -- the steps of an identification begin
    let begins (i : Instr) (now : Nat) (z : DriveSt) (mask : Nat) : Prop :=
      (mask ≠ 0 → moves i now { z with dstate := dsIdent, since := now } [gate false] []) ∧
      (mask = 0 → moves i now (finished z) [gate true] [(0x4D06, 0)])
    (∀ (amp : BitVec 31) (speed angle : Word) (at_ : Nat), let i : Instr := .driveSenseWindowEnd l amp speed angle at_
      let fc := mag (c.seg l 14)
      let caught := (c.seg l 15).toNat ≤ amp.toNat ∧ fc ≤ mag speed ∧ ∃ g, x.goodAt = some g ∧ g + periods (mag speed) ≤ at_
      let due := x.since + max Config.ms (periods (if caught then mag speed else fc))
      let now := max c.st at_
      let z := { x with speed := speed };
      (x.init = false ∨ x.dstate ≠ dsSense ∨ x.flux = true ∨ at_ < due → Ignores i s) ∧
      (x.init = true → x.dstate = dsSense → x.flux = false → due ≤ at_ →
        let aligns := moves i now { z with dstate := dsAlign, since := now, near := 0 } [gate false] []
        (∀ mask, x.ident = some mask →
          (mag (c.seg l 18) ≤ mag speed → moves i now (failed z 5) [gate true] [(0x4D06, 5)]) ∧
          (mag speed < mag (c.seg l 18) → (¬sensor → mask % 8 ≠ 0 → aligns) ∧ (sensor ∨ mask % 8 = 0 → begins i now z mask))) ∧
        (x.ident = none →
          let off := sensor ∧ 2 ^ 32 < 12 * (angle - ({ c with st := now } : Chip).pfuAngle k).toInt.natAbs
          let builds := Completes i s fun t =>
            t.chip.drive_ l = { z with flux := true, since := now, idRef := (t.chip.drive_ l).idRef, iqRef := 0 } ∧
            (∀ k, k ≠ l.val → t.chip.drive_ k = c.drive_ k) ∧
            t = { s with chip := { c with st := now, drives := t.chip.drives, effects := c.effects ++ [gate false], fresh := t.chip.fresh } };
          (caught → off → moves i now (failed z 3) [gate true] [(0x4D01, 3)]) ∧
          (caught → ¬off → induction → builds) ∧
          (caught → ¬off → ¬induction →
            moves i now (counted { z with
              dstate := dsCatch, dir := speed.msb, obsAngle := angle + 0x40000000#32, obsSpeed := speed, vSeed := amp.toNat, vAngle := angle,
              ramp := none }) [gate false] (startRec 0 ++ [(0x4D02, speed.msb.toNat)])) ∧
          (¬caught → induction → builds) ∧
          (¬caught → ¬induction → sensor → 1 < c.get (F.PFU.PFCFG.INTYPE k) →
            moves i now (counted { z with dstate := dsRun }) [gate false] (startRec 1)) ∧
          (¬caught → ¬induction → ¬(sensor ∧ 1 < c.get (F.PFU.PFCFG.INTYPE k)) → aligns)))) ∧
    (∀ (fwd back : List (BitVec 32)) (north south : BitVec 32) (at_ : Nat), let i : Instr := .driveAlignDone l fwd back north south at_
      let ts := (fwd ++ back).map fun t => t.toNat
      let now := max c.st at_
      (x.init = false ∨ x.dstate ≠ dsAlign ∨ fwd.length ≠ 6 ∨ back.length ≠ 6 ∨ at_ < x.since + 56 * Config.ns (c.period l) → Ignores i s) ∧
      ∀ lo ∈ ts, ∀ hi ∈ ts, (∀ u ∈ ts, lo ≤ u ∧ u ≤ hi) → fwd.length = 6 → back.length = 6 → x.init = true → x.dstate = dsAlign →
        x.since + 56 * Config.ns (c.period l) ≤ at_ →
        let close := (hi - lo) * 100 < 5 * hi ∨
          (max north.toNat south.toNat - min north.toNat south.toNat) * 100 < 2 * max north.toNat south.toNat
        let z := { x with pulses := ts ++ [north.toNat, south.toNat] }
        (close → moves i now (failed z 2) [gate true] [(if x.ident.isSome then 0x4D06 else 0x4D01, 2)]) ∧
        -- both directions of axis j together
        let both (j : Nat) : Nat := ts.getD (j % 6) 0 + ts.getD (j % 6 + 6) 0
        ∀ n < 6, (∀ j < 6, both n ≤ both j) → (∀ j < n, both n < both j) → ¬close →
          let axis : Word := BitVec.ofNat 32 (n * 2 ^ 32 / 12) + Config.alignBetween (both (n + 5)) (both n) (both (n + 1))
          let a := if north.toNat ≤ south.toNat then axis else axis + 0x80000000#32
          let z := { z with obsAngle := a };
          (∀ mask, x.ident = some mask → begins i now z mask) ∧
          (x.ident = none → sensor →
            moves i now (counted { z with dstate := dsRun, sensOfs := some (a - ({ c with st := now } : Chip).pfuAngle k) }) [] (startRec 1)) ∧
          (x.ident = none → ¬sensor → moves i now { z with dstate := dsLow } [] [])) ∧
    (x.init = false ∨ x.dstate ≠ dsReacq → Ignores (.reacqTimeout l) s) ∧
    (x.init = true → x.dstate = dsReacq →
      moves (.reacqTimeout l) (max c.st (x.since + 5 * Config.ms)) (failed x 4) [gate true] [(0x4D05, 4)]) ∧
    (∀ (ok : Bool) (meas : IdentMeas) (ramp at_ : Nat), let i : Instr := .identStepDone l ok meas ramp at_
      -- the step a measurement belongs to, the words it writes, and what it says of them
      let of : Nat := match meas with | .rs _ _ _ _ => 0 | .ldq _ _ => 1 | .dt _ _ => 2 | .flux _ _ => 3
      let ws : List Nat := match meas with | .rs _ _ _ _ => [64] | .ldq _ _ => [65, 66] | .dt _ _ => [68, 69] | .flux _ _ => [67]
      let wrote (w : Nat → Word) : Prop := match meas with
        | .rs v1 i1 v2 i2 => let d := i2.toInt - i1.toInt; let n := (v2.toInt - v1.toInt) * 1000000
          d ≠ 0 → w 64 = iw (rnd (if d < 0 then -n else n) d.natAbs)
        | .ldq ld lq => w 65 = ld ∧ w 66 = lq
        | .dt v cur => w 68 = v ∧ w 69 = cur
        | .flux amp speed => mag speed ≠ 0 → w 67 = iw (rnd ((amp.toNat * 65536 * 10 ^ 12 : Nat) : Int) (6283185307 * mag speed))
      (x.ident = none ∨ x.ident = some 0 ∨ x.init = false ∨ x.dstate ≠ dsIdent → Ignores i s) ∧
      ∀ (m : Nat) (b : Fin 4), x.init = true → x.dstate = dsIdent → x.ident = some m → m.testBit b = true → m < 16 →
        (∀ j, j < b.val → m.testBit j = false) →
        let limit := x.since + match b with
          | 0 => 400 * Config.ms | 1 => 512 * Config.ns (c.period l) | 2 => 320 * Config.ms
          | 3 => 10 * Config.sec
        let done := if b ≠ 3 then min at_ limit else if limit < ramp then limit else ramp + max Config.ms (periods (mag (c.seg l 35)))
        let now := max c.st done
        let fails := ok = false ∨ b = 3 ∧ limit < ramp
        let stat (n : Nat) : Word := c.seg l 70 ||| wd (2 ^ n)
        let angle := if sensor then ({ c with st := now } : Chip).pfuAngle k else x.obsAngle
        let words := ws ++ if b = 3 then [70] else [70, 71]
        let base (t : State) : Chip := { c with st := now, drives := t.chip.drives, pairs := t.chip.pairs, loops := t.chip.loops }
        (of ≠ b.val → Ignores i s) ∧
        (of = b.val → fails → Completes i s fun t =>
          t.chip.drive_ l = failed x 5 ∧ (∀ k, k ≠ l.val → t.chip.drive_ k = c.drive_ k) ∧
          t.chip.seg l 70 = stat (4 + b) ∧ (∀ n, n ≠ 70 → t.chip.seg l n = c.seg l n) ∧
          t = { s with chip := recs (failed x 5) [(0x4D06, 5)] { base t with effects := c.effects ++ [gate true] } }) ∧
        (of = b.val → ¬fails → Completes i s fun t =>
          let last := m = 2 ^ b.val
          let y := if last then finished x else { x with ident := some (m - 2 ^ b.val), since := now }
          t.chip.drive_ l = y ∧ (∀ k, k ≠ l.val → t.chip.drive_ k = c.drive_ k) ∧
          wrote (t.chip.seg l) ∧ t.chip.seg l 70 = stat b ∧ (b ≠ 3 → t.chip.seg l 71 = angle) ∧
          (∀ n, n ∉ words → t.chip.seg l n = c.seg l n) ∧
          let after : Chip := { base t with effects := c.effects ++ (if last then [gate true] else []), fresh := t.chip.fresh }
          t = { s with chip := recs y (if last then [(0x4D06, 0)] else []) after })) ∧
    (let i : Instr := .actPhaseTimeout l
      let y := c.act l
      let iMove := bits (c.seg l 10) 0 16
      let iHold := (c.seg l 14).toNat
      let ends (reason step : Nat) (ctl : ActCtl) : Prop := Completes i s fun t =>
        t.chip.act l = { y with step := .holding, ctl := ctl, reason := reason, failStep := step } ∧ (∀ k, k ≠ l.val → t.chip.act k = c.act k) ∧
        let base : Chip := { c with st := max c.st (y.since + bits (c.seg l 13) 0 16 * Config.ms), acts := t.chip.acts }
        let payload := (Config.drivePayload l (Config.actCode 10).toNat reason).toNat
        t = { s with chip := base.record 3 0x4D07 payload (base.pfuSpeed (bits (c.seg l 0) 1 3)).toNat };
      (y.step = .stopped ∨ y.step = .moving ∨ y.step = .holding → Ignores i s) ∧
      (y.step = .shift 1 → ends 1 1 (.hold iHold)) ∧ (∀ n, y.step = .shift n → 1 < n → ends 2 n (.position none iMove)) ∧
      (y.step = .engaging ∨ y.step = .releasing → ends 2 y.failStep (.hold iHold))) ∧
    let idles := c.get (fState l) = lsClosed ∧ ¬sensor ∧ (c.seg l 0).getLsbD 6 = false ∧ x.noLoad = false ∧
      ∃ u, x.lowIq = some u ∧ u + Config.sec ≤ c.st
    (¬idles → Ignores (.pumpNoLoad l) s) ∧ (idles → moves (.pumpNoLoad l) c.st { x with noLoad := true } [] [(0x4D08, 0)])

/-- Sessions of the sequencers (R339–R342, R345, R351, R353, R354). -/
def Obligations.SessionsStartRunAndEnd : Prop :=
  ∀ (q : Fin 16) (s : State), let c := s.chip; let x := c.seq q
    let p := c.get (F.CHGSEQ.SQCFG.PILOT q)
    let cp := c.get (F.PILOT.CP_STAT.STATE p)
    let st := c.sqState q
    let word (d : Chip) (i : Nat) : Word := Tab.at d.portWords 0 (0xC00 + 16 * q.val + i)
    let refs (d : Chip) (mode : Nat) (i v l : Word) : Prop := word d 0 = wd mode ∧ word d 1 = i ∧ word d 2 = v ∧ word d 3 = l
    let isRev := c.on (F.CHGSEQ.SQCFG.REVERSE q) = true ∧ c.on (F.CHGSEQ.SQCFG.CELL q) = false
    let first (d : Chip) : Prop := let a := c.rd (R.CHGSEQ.STEP q 1); let b := c.rd (R.CHGSEQ.STEP q 2)
      (c.stepType q 0 = 1 → refs d 1 a 0 0) ∧ (c.stepType q 0 = 2 → refs d 2 0 a (wd (bits b 0 16 * 10))) ∧
      (c.stepType q 0 = 4 → refs d 0 0 0 0)
    let begun (d : Chip) (now : Nat) : Prop :=
      d.st = now ∧ (∀ n, n < 18 → d.rd (R.CHGSEQ.CHG_LO q + 4 * n) = 0#32) ∧
      (c.usesPilot q = true → d.sqState q = sqWait) ∧
      (c.usesPilot q = false → d.sqState q = sqRunning ∧ (¬isRev → d.get (F.CHGSEQ.SQ_STAT.STEP q) = 0 ∧ first d)) ∧
      d.get (F.CHGSEQ.SQ_STAT.END_REASON q) = 0 ∧
      ∀ k, k < 64 → d.rd (R.CHGSEQ.ZF q k) = 0#32 ∧ d.rd (R.CHGSEQ.ZRE q k) = 0#32 ∧ d.rd (R.CHGSEQ.ZIM q k) = 0#32 ∧ d.rd (R.CHGSEQ.ZSTAT q k) = 0#32
    let ending (i : Instr) (base : State) (now reason : Nat) : Prop := Completes i s fun t => let d := t.chip
      refs d 1 0 0 0 ∧ d.seq q = { x with ending := some (reason, now, 0) } ∧ (∀ k, k ≠ q.val → d.seq k = c.seq k) ∧
      t = { base with chip := { c with st := now, portWords := d.portWords, portTag := d.portTag, seqs := d.seqs } }
    (∀ src : Source, let a := R.CHGSEQ.SQ_CMD q
      s.Lets src a →
      (¬isRev → c.on (F.CHGSEQ.SQ_STAT.BAT_PRESENT q) = false → RefusesWrite (.sqStart src q) s src a rState false) ∧
      (isRev ∨ c.on (F.CHGSEQ.SQ_STAT.BAT_PRESENT q) = true →
        (c.sqAccepts q = false → RefusesWrite (.sqStart src q) s src a rParam false) ∧
        (c.sqAccepts q = true → Completes (.sqStart src q) s fun t => begun t.chip c.st)) ∧
      (c.inSession q = false ∨ x.ending.isSome = true → Answers (.sqStop src q) s (s.spent a) c []) ∧
      (c.inSession q = true → x.ending = none → ending (.sqStop src q) (s.spent a) c.st 2) ∧
      ∀ high : Bool, RefusesWrite (.sqInvalidOp src q high) s src a rParam false) ∧
    (let i : Instr := .sessionPilotTimeout q;
      (x.s2At = none ∨ st ≠ sqWait ∨ cp = cpC → Ignores i s) ∧
      (∀ u, x.s2At = some u → st = sqWait → cp ≠ cpC → let now := max c.st (u + 3 * Config.sec);
        (x.ending.isSome = true → Answers i s s { c with st := now } []) ∧ (x.ending = none → ending i s now 9))) ∧
    (∀ least : Word, let i : Instr := .sessionRunReady q least
      let ready (k : Nat) : Prop := x.s2At.isSome = true ∧ c.dabOf q = some k ∧ st = sqWait ∧ x.ending = none ∧ cp = cpC ∧
        ((c.cvGet (k - 1) (F.CONV.INLOSS.VIN_MIN (k - 1)) * 100 : Nat) : Int) ≤ least.toInt;
      ((∀ k, ¬ready k) → Ignores i s) ∧
      ∀ k, ready k → Completes i s fun t => let d := t.chip
        d.sqState q = sqRunning ∧ d.st = c.st ∧
        (c.on (F.PILOT.CP_STAT.DIODE_FAULT p) = false →
          d.on (F.CONV.CTRL.RUN_REQ (k - 1)) = true ∧ d.on (F.CONV.CTRL.RUN_REQ k) = true ∧ (¬isRev → first d))) ∧
    (let i : Instr := .supplyStateHold q
      let waits := st = sqWait ∧ x.ending = none
      let shows := cp = cpC ∨ cp = cpD ∧ c.on (F.PILOT.PCFG.VENT_OK p) = true
      let now := max c.st ((c.pilot p).stateAt + 500 * Config.ms);
      (¬(waits ∧ (x.supply = 1 ∧ cp = cpB ∨ x.supply = 2 ∧ shows)) → Ignores i s) ∧
      (waits → x.supply = 1 → cp = cpB →
        Answers i s s (({ c with st := now } : Chip).updSeq q fun x => { x with supply := 2 }) [(F.PILOT.CP_OFFER.PWM_ON p, 1)]) ∧
      (waits → x.supply = 2 → shows → Completes i s fun t => let d := t.chip
        let n := c.get (F.CHGSEQ.SQCFG.CTR_LEG q)
        let has := c.on (F.CHGSEQ.SQCFG.CTR_EN q) = true ∧ 24 ≤ n ∧ n < 40 ∧ x.contactor = false
        d.seq q = { x with supply := 3, contAt := now, contactor := x.contactor || decide has } ∧ d.st = now ∧
        (has → Tab.at d.shadow 0 (R.PG.DUTY n) = 0x7FFFFFFF#32 ∧
          d.rd R.LIFE.CTR_CNT = wd (min ((c.rd R.LIFE.CTR_CNT).toNat + 1) (2 ^ 32 - 1))) ∧
        (¬has → d.regs = c.regs ∧ d.shadow = c.shadow))) ∧
    (let i : Instr := .supplyRunDelay q
      let due := st = sqWait ∧ x.ending = none ∧ x.supply = 3;
      (¬due → Ignores i s) ∧
      (due → Completes i s fun t => let d := t.chip
        d.sqState q = sqRunning ∧ d.st = max c.st (x.contAt + 100 * Config.ms) ∧
        ∀ k, c.dabOf q = some k → d.on (F.CONV.CTRL.RUN_REQ (k - 1)) = true ∧ d.on (F.CONV.CTRL.RUN_REQ k) = true)) ∧
    (let i : Instr := .sessionEndComplete q;
      (x.ending = none → Ignores i s) ∧
      ∀ r u n, x.ending = some (r, u, n) → r < 16 → Completes i s fun t => let d := t.chip
        d.st = max c.st (u + 10 * Config.ms) ∧ refs d 0 0 0 0 ∧ d.sqState q = (if r = 1 then sqDone else sqEnded) ∧
        d.get (F.CHGSEQ.SQ_STAT.END_REASON q) = r ∧ d.on (F.CHGSEQ.STICKY.SESSION_END q) = true ∧
        (r = 1 → d.on (F.CHGSEQ.GRADE.GRADED q) = true) ∧ (r ≠ 1 → d.on (F.CHGSEQ.GRADE.UNGRADED q) = true) ∧ (d.seq q).ending = none ∧
        (∀ k, c.dabOf q = some k → d.on (F.CONV.CTRL.RUN_REQ (k - 1)) = false ∧ d.on (F.CONV.CTRL.RUN_REQ k) = false) ∧
        (c.usesPilot q = true → d.on ⟨R.PILOT.CTRL p, 8, 1⟩ = false)) ∧
    (let i : Instr := .sessionRedetect q
      let seen := x.acLost = true ∧ x.shownA = true ∧ st = sqEnded ∧ cp = cpB ∧ c.on (F.PILOT.CP_STAT.PWM p) = true
      let goes := c.on (F.CHGSEQ.SQCFG.AUTO_SESSION q) = true ∧ c.on (F.CHGSEQ.SQ_STAT.BAT_PRESENT q) = true ∧ c.sqAccepts q = true
      let now := max c.st (max (c.pilot p).stateAt ((c.pilot p).pwmSince.getD 0) + 500 * Config.ms);
      (¬seen → Ignores i s) ∧
      (seen → ¬goes → Answers i s s (({ c with st := now } : Chip).updSeq q fun x => { x with acLost := false, shownA := false }) []) ∧
      (seen → goes → Completes i s fun t => begun t.chip now)) ∧
    (let i : Instr := .batDetect q
      let looks := c.on (F.CHGSEQ.CTRL.EN q) = true ∧ c.on (F.CHGSEQ.SQ_STAT.BAT_PRESENT q) = false ∧ c.stageIdle q = true;
      (¬looks ∨ x.inSince = none → Ignores i s) ∧
      ∀ u, looks → x.inSince = some u →
        Answers i s s { c with st := max c.st (u + 100 * Config.ms) } [(F.CHGSEQ.SQ_STAT.BAT_PRESENT q, 1), (F.CHGSEQ.STICKY.BAT_DET q, 1)]) ∧
    ∀ (src : Source) (v : Word), let i : Instr := .cellAssign src q v
      let a := R.CHGSEQ.SQCFG q
      let taken := v.getLsbD 0 = true ∧ c.on (F.CHGSEQ.SQCFG.CELL q) = false ∧ c.cellFree q = false
      s.Lets src a →
      (c.on (F.CHGSEQ.CTRL.EN q) = true ∨ taken → RefusesWrite i s src a rState true) ∧
      (c.on (F.CHGSEQ.CTRL.EN q) = false → ¬taken → Answers i s (s.spent a) c [(⟨a, 0, 15⟩, bits v 0 15), (⟨a, 16, 6⟩, bits v 16 6)])

/-- Measurements of the sequencers and of the pilot (R335–R338, R342, R346, R347, R350). -/
def Obligations.MeasurementsAndThePilot : Prop :=
  (∀ (q : Fin 16) (s : State), let c := s.chip; let x := c.seq q
    let k := c.get (F.CHGSEQ.SQ_STAT.STEP q)
    let word (d : Chip) (i : Nat) : Word := Tab.at d.portWords 0 (0xC00 + 16 * q.val + i)
    let refs (d : Chip) (mode : Nat) (i v l : Word) : Prop := word d 0 = wd mode ∧ word d 1 = i ∧ word d 2 = v ∧ word d 3 = l
    let ty := bits (c.stepWord q k 0) 0 4
    let going := c.sqState q = sqRunning ∧ x.ending = none
    let live := going ∧ x.paused = none
    let volts (now : Nat) : List Int := (x.hist.filter fun e => decide (now ≤ e.1 + 10 * Config.ms)).map fun e => e.2
    let mean (l : List Int) : Word := iw (rnd l.sum (l.length * 2 ^ 16))
    (let i : Instr := .restOcvPoint q
      let n := bits (c.rd (R.CHGSEQ.OCV_N q)) 0 4
      let dt := (c.stepWord q k 1).toNat * 2 ^ n * 100 * Config.ms
      let due := live ∧ ty = 4 ∧ n < bits (c.stepWord q k 0) 8 8 ∧ n < 8 ∧ dt ≤ bits (c.stepWord q k 3) 0 24 * 100 * Config.ms
      let now := max c.st (x.stepAt + dt);
      (¬due → Ignores i s) ∧
      (due → Completes i s fun t => let d := t.chip
        d.st = now ∧ d.rd (R.CHGSEQ.OCV_N q) = wd (n + 1) ∧ (volts now ≠ [] → d.rd (R.CHGSEQ.OCV q n) = mean (volts now)) ∧
        c.Keeps d [whole (R.CHGSEQ.OCV_N q), whole (R.CHGSEQ.OCV q n)] ∧ d.portWords = c.portWords)) ∧
    (let i : Instr := .pulseEdge q
      let b := c.stepWord q k 2;
      (¬(live ∧ ty = 3) → Ignores i s) ∧
      (live → ty = 3 → x.pulseOn = true → Completes i s fun t => let d := t.chip
        let now := max c.st (x.edgeAt + bits b 0 16 * Config.ms)
        let y := { x with pulseOn := false, edgeAt := now }
        d.st = now ∧ refs d 0 0 0 0 ∧ (x.vOff = none → d.seq q = y ∧ d.regs = c.regs) ∧
        ∀ v0, x.vOff = some v0 →
          let r : Int × Int := match x.nearest with | some n => n.2 | none => (x.v, x.i)
          d.seq q = { y with vOff := none, nearest := none } ∧ d.on (F.CHGSEQ.GRADE.DCIR_VALID q) = true ∧
          (r.2 ≠ 0 → d.rd (R.CHGSEQ.DCIR q) =
            wd ((iw ((if r.2 < 0 then -1 else 1) * rnd ((r.1 - v0 * 2 ^ 16) * 10 ^ 6) r.2.natAbs)).toNat % 2 ^ 24)) ∧
          c.Keeps d [whole (R.CHGSEQ.DCIR q), F.CHGSEQ.GRADE.DCIR_VALID q]) ∧
      (live → ty = 3 → x.pulseOn = false → Completes i s fun t => let d := t.chip
        let now := max c.st (x.edgeAt + bits b 16 16 * Config.ms)
        d.st = now ∧ refs d 1 (c.stepWord q k 1) 0 0 ∧ (d.seq q).pulseOn = true ∧ (d.seq q).edgeAt = now ∧
        d.rd (R.CHGSEQ.OCV_N q) = 1#32 ∧ (volts now ≠ [] → d.rd (R.CHGSEQ.OCV q 0) = mean (volts now)) ∧
        c.Keeps d [whole (R.CHGSEQ.OCV_N q), whole (R.CHGSEQ.OCV q 0)])) ∧
    (let sweeps := going ∧ ty = 5 ∧ x.zk < c.zPoints q k
      let f := c.zFreq q k x.zk
      let now := max c.st ((c.st / (2 * Config.us) + 1) * (2 * Config.us));
      (¬sweeps → Ignores (.zsweepUpdate q) s ∧ Ignores (.zsweepPointDone q) s) ∧
      (sweeps → (Completes (.zsweepUpdate q) s fun t => let d := t.chip
          word d 1 = iw (rnd ((c.stepWord q k 1).toInt * zSin f (now - x.zAt)) (2 ^ 64)) ∧
          (∀ n, n ≠ 0xC00 + 16 * q.val + 1 → Tab.at d.portWords 0 n = Tab.at c.portWords 0 n) ∧
          t = { s with chip := { c with st := now, portWords := d.portWords, portTag := d.portTag } }) ∧
        (x.zk < 64 → Completes (.zsweepPointDone q) s fun t => let d := t.chip
          let z := x.zSums
          let den := z.2.2.1 * z.2.2.1 + z.2.2.2 * z.2.2.2
          let amp : Int := (c.stepWord q k 1).toInt * (x.zCount * 2 ^ 16 * 1000 * 2 ^ 64 : Nat);
          d.st = max c.st (x.zAt + cycleTicks f 6) ∧ d.rd (R.CHGSEQ.ZF q x.zk) = wd ((f + 2 ^ 19) / 2 ^ 20) ∧
          (den ≠ 0 → d.rd (R.CHGSEQ.ZRE q x.zk) = iw (rnd ((z.1 * z.2.2.1 + z.2.1 * z.2.2.2) * 10 ^ 6) den.natAbs) ∧
            d.rd (R.CHGSEQ.ZIM q x.zk) = iw (rnd ((z.2.1 * z.2.2.1 - z.1 * z.2.2.2) * 10 ^ 6) den.natAbs)) ∧
          d.rd (R.CHGSEQ.ZSTAT q x.zk) = (if amp * amp ≤ 64 * den ∧ x.zCount ≠ 0 then 1#32 else 0#32) ∧
          d.seq q = { x with zk := x.zk + 1, zAt := d.st, zSums := (0, 0, 0, 0), zCount := 0 } ∧
          (x.zk + 1 = c.zPoints q k → d.on (F.CHGSEQ.GRADE.Z_VALID q) = true ∧ d.get (F.CHGSEQ.GRADE.Z_N q) = c.zPoints q k ∧ word d 1 = 0) ∧
          (x.zk + 1 < c.zPoints q k → d.portWords = c.portWords ∧ d.rd (R.CHGSEQ.GRADE q) = c.rd (R.CHGSEQ.GRADE q)))))) ∧
  ∀ (p : Fin 2) (s : State), let c := s.chip
    let on := c.on ⟨R.PILOT.CTRL p, 0, 1⟩ = true
    let free := ∀ q : Fin 16, c.get (F.CHGSEQ.SQCFG.PILOT q) ≠ p.val ∨ c.usesPilot q = false
    let sticky (b : Nat) : Fld := ⟨R.PILOT.STICKY p, b, 1⟩
    let x := c.pilot p
    -- a code in mV, and the band of a level
    let volts (code : BitVec 12) : Int := rnd ((code.toNat - c.get (F.PILOT.CP_SCALE.CP_ZERO p)) * c.get (F.PILOT.CP_SCALE.CP_LSB p)) 1000
    let band (mv : Int) (n : Nat) : Prop :=
      n = 0 ∧ 10500 ≤ mv ∧ mv ≤ 13500 ∨ n = 1 ∧ 7500 ≤ mv ∧ mv < 10500 ∨ n = 2 ∧ 4500 ≤ mv ∧ mv < 7500 ∨ n = 3 ∧ 1500 ≤ mv ∧ mv < 4500 ∨
      n = 4 ∧ -1500 ≤ mv ∧ mv < 1500 ∨ n = 5 ∧ -13500 ≤ mv ∧ mv ≤ -10500 ∨ n = 6 ∧ (13500 < mv ∨ -10500 < mv ∧ mv < -1500 ∨ mv < -13500)
    (∀ (high low : BitVec 12) (duty : BitVec 14) (freq : BitVec 16) (pwm : Bool) (at_ : Nat),
      let i : Instr := .pilotPeriod p high low duty freq pwm at_
      let d0 := duty.toNat
      let good := 9700 ≤ freq.toNat ∧ freq.toNat ≤ 10300
      let bad := pwm = true ∧ -10500 < volts low
      let was := c.on (F.PILOT.CP_STAT.PWM p)
      (¬on → Ignores i s) ∧
      (on → Completes i s fun t => let d := t.chip
        let imax (n : Nat) (digital no : Bool) : Prop :=
          d.rd (R.PILOT.CP_IMAX p) = wd (n + digital.toNat * 2 ^ 16 + no.toNat * 2 ^ 17);
        d.st = max c.st at_ ∧ d.get ⟨R.PILOT.CP_LEVEL p, 0, 16⟩ = (BitVec.ofInt 16 (volts high)).toNat ∧
        d.get ⟨R.PILOT.CP_LEVEL p, 16, 16⟩ = (BitVec.ofInt 16 (volts low)).toNat ∧
        (∀ n, band (volts high) n → d.pilot p = { x with
          band := n, bandN := if n = x.band then x.bandN + 1 else 1, pwmSince := if pwm then some (x.pwmSince.getD d.st) else none }) ∧
        d.rd (R.PILOT.CP_DUTY p) = wd (d0 + freq.toNat * 2 ^ 16) ∧ d.on (F.PILOT.CP_STAT.PWM p) = pwm ∧
        d.on (F.PILOT.CP_STAT.DIODE_FAULT p) = decide bad ∧ d.get (F.PILOT.CP_STAT.STATE p) = c.get (F.PILOT.CP_STAT.STATE p) ∧
        (bad → c.on (F.PILOT.CP_STAT.DIODE_FAULT p) = false → d.on (sticky 2) = true ∧
          d.get ⟨R.PILOT.CHG_CNT p, 16, 16⟩ = min (c.get ⟨R.PILOT.CHG_CNT p, 16, 16⟩ + 1) (2 ^ 16 - 1)) ∧
        (c.on (F.PILOT.PCFG.ROLE p) = true → d.rd (R.PILOT.CP_IMAX p) = c.rd (R.PILOT.CP_IMAX p)) ∧
        (c.on (F.PILOT.PCFG.ROLE p) = false →
          d.on (sticky 3) = (c.on (sticky 3) || (pwm && !decide good) || (was && !pwm)) ∧
          (pwm = false ∨ ¬good → imax 0 false false) ∧
          (pwm = true → good →
            (d0 < 300 ∨ 700 ≤ d0 ∧ d0 < 800 ∨ 9700 ≤ d0 → imax 0 false true) ∧ (300 ≤ d0 ∧ d0 < 700 → imax 0 true false) ∧
            (800 ≤ d0 ∧ d0 < 1000 → imax 60 false false) ∧
            (1000 ≤ d0 ∧ d0 < 8500 → imax ((d0 * 6 + 50) / 100) false false) ∧
            (8500 ≤ d0 ∧ d0 < 9600 → imax ((d0 - 6400 + 2) / 4) false false) ∧ (9600 ≤ d0 ∧ d0 < 9700 → imax 800 false false))) ∧
        (free → ¬bad → c.Keeps d [whole (R.PILOT.CP_LEVEL p), whole (R.PILOT.CP_DUTY p), whole (R.PILOT.CP_IMAX p), sticky 3,
          F.PILOT.CP_STAT.PWM p, F.PILOT.CP_STAT.DIODE_FAULT p]))) ∧
    (∀ level : BitVec 12, let i : Instr := .pilotStateChange p level
      (¬on → Ignores i s) ∧
      ∀ n, band (volts level) n → let held := c.on (F.PILOT.CP_STAT.PWM p) = true → x.band = n ∧ 3 ≤ x.bandN;
        (c.get (F.PILOT.CP_STAT.STATE p) = n ∨ ¬held → Ignores i s) ∧
        (on → c.get (F.PILOT.CP_STAT.STATE p) ≠ n → held →
          let l := [(F.PILOT.CP_STAT.STATE p, n), (⟨R.PILOT.CHG_CNT p, 0, 16⟩, min (c.get ⟨R.PILOT.CHG_CNT p, 0, 16⟩ + 1) (2 ^ 16 - 1)),
            (sticky 1, 1)] ++ (if n = 6 then [(sticky 5, 1)] else []);
          (Completes i s fun t => (∀ e ∈ l, t.chip.get e.1 = e.2) ∧ (t.chip.pilot p).stateAt = c.st) ∧
          (free → Answers i s s (c.updPilot p fun x => { x with stateAt := c.st }) l))) ∧
    ∀ mv : BitVec 16, let i : Instr := .ppMeasure p mv
      let r := if 1600 ≤ mv.toNat then 0xFFFF else min ((2000 * mv.toNat + (1600 - mv.toNat)) / (2 * (1600 - mv.toNat))) 0xFFFF
      let rating (amps : Nat) (connected : Bool) : Prop :=
        amps = 13 ∧ connected = true ∧ 1350 ≤ r ∧ r ≤ 1650 ∨ amps = 20 ∧ connected = true ∧ 612 ≤ r ∧ r ≤ 748 ∨
        amps = 32 ∧ connected = true ∧ 198 ≤ r ∧ r ≤ 242 ∨ amps = 63 ∧ connected = true ∧ 90 ≤ r ∧ r ≤ 110 ∨
        amps = 0 ∧ connected = false ∧ 4500 < r ∨
        amps = 0 ∧ connected = true ∧ (r < 90 ∨ 110 < r ∧ r < 198 ∨ 242 < r ∧ r < 612 ∨ 748 < r ∧ r < 1350 ∨ 1650 < r ∧ r ≤ 4500);
      (¬on ∨ c.on (F.PILOT.PCFG.PP_EN p) = false → Ignores i s) ∧
      (on → c.on (F.PILOT.PCFG.PP_EN p) = true → ∀ amps connected, rating amps connected →
        let v := r + amps * 2 ^ 16 + connected.toNat * 2 ^ 24
        let l := (whole (R.PILOT.PP_STAT p), v) ::
          (if v / 2 ^ 16 = bits (c.rd (R.PILOT.PP_STAT p)) 16 9 then [] else [(sticky 4, 1)]);
        (Completes i s fun t => ∀ e ∈ l, t.chip.get e.1 = e.2) ∧ (free → OnlyShows i s l))

/-- The thermal supervisor (R364–R371, R374–R377). -/
def Obligations.TemperaturesThrottleAndCompensate : Prop :=
  (∀ (ch : Fin 40) (temp : BitVec 16) (valid : Bool) (at_ : Nat) (s : State), let c := s.chip
    let i : Instr := .thermSample ch temp valid at_
    let now := max c.st at_
    let f (x : Fld) : Bool := c.on (x.win ch)
    let native := c.on F.THERM.TCFG.NATIVE_EN && f F.THERM.CH_CFG.EN
    let hys := (c.get (F.THERM.CH_CFG.THYS.win ch) : Int)
    let past (active : Bool) (lim : Fld) : Bool := decide ((if active then signed 16 (c.get (lim.win ch)) - hys else signed 16 (c.get (lim.win ch))) ≤ temp.toInt)
    let bit (lo hi : Nat) : Fld := if ch.val < 32 then bitOf lo ch else bitOf hi (ch - 32)
    (valid = true → Completes i s fun t => let d := t.chip
      let g (x : Fld) : Bool := d.on (x.win ch)
      d.st = now ∧ d.rd (R.THERM.TEMP ch) = wd temp.toNat ∧ g F.THERM.CH_FLAGS.FAULT = false ∧
      g F.THERM.CH_FLAGS.LIM = (native && past (f F.THERM.CH_FLAGS.LIM) F.THERM.CH_LIM.TLIM) ∧
      g F.THERM.CH_FLAGS.SHUT = (native && f F.THERM.CH_CFG.SHUT_EN && past (f F.THERM.CH_FLAGS.SHUT) F.THERM.CH_LIM.TSHUT) ∧
      (g F.THERM.CH_FLAGS.SHUT = true → f F.THERM.CH_FLAGS.SHUT = false →
        d.on F.THERM.STICKY.SHUT = true ∧ (c.on F.THERM.TCFG.ISN_EN = true → (10, ch.val) ∈ d.reports)) ∧
      d.on (bit R.THERM.COND_LO R.THERM.COND_HI) =
        (native && (g F.THERM.CH_FLAGS.LIM || g F.THERM.CH_FLAGS.RATE10 || g F.THERM.CH_FLAGS.RATE1S)) ∧
      (ch.val < 24 → (d.region (ch / 2)).temp = max (d.tempOf (ch / 2 * 2)) (d.tempOf (ch / 2 * 2 + 1))) ∧
      ∀ m : Fin 8, let l := c.get (F.THERM.DOM_STAT.LEVEL m)
        (c.on (F.THERM.DOM_CFG.EN m) = false → d.get (F.THERM.DOM_STAT.LEVEL m) = l) ∧
        (c.on (F.THERM.DOM_CFG.EN m) = true → c.on (bit (R.THERM.DOM_MASK_LO m) (R.THERM.DOM_MASK_HI m)) = true →
          d.on (bit R.THERM.COND_LO R.THERM.COND_HI) = true →
          d.on (F.THERM.DOM_STAT.COND m) = true ∧ d.on (F.THERM.DOM_STAT.RESTORE m) = false ∧
          ((∀ u, (c.dom m).lastUp = some u → u + 10 * Config.ms ≤ now) → l < c.get (F.THERM.DOM_CFG.LMAX m) →
            d.get (F.THERM.DOM_STAT.LEVEL m) = l + 1 ∧ (d.dom m).lastUp = some now) ∧
          (∀ u, (c.dom m).lastUp = some u → now < u + 10 * Config.ms → d.get (F.THERM.DOM_STAT.LEVEL m) = l))) ∧
    (valid = false → f F.THERM.CH_FLAGS.FAULT = true → Answers i s s { c with st := now } []) ∧
    (valid = false → f F.THERM.CH_FLAGS.FAULT = false → Completes i s fun t => let d := t.chip
      d.st = now ∧ d.on (F.THERM.CH_FLAGS.FAULT.win ch) = true ∧ d.on F.THERM.STICKY.NTC_FAULT = true ∧
      d.rd (R.THERM.TEMP ch) = c.rd (R.THERM.TEMP ch) ∧ d.on (bit R.THERM.COND_LO R.THERM.COND_HI) = native ∧
      (native = true → f F.THERM.CH_CFG.SHUT_EN = true → d.on (F.THERM.CH_FLAGS.SHUT.win ch) = true))) ∧
  (∀ (ch : Fin 56) (s : State), let c := s.chip; let x := c.chan ch
    let i : Instr := .thermRateDown ch
    let rate := F.THERM.CH_FLAGS.SRATE.win ch
    let falls (u r : Nat) : Prop := Answers i s s { c with st := max c.st (u + 100 * Config.ms) } [(rate, r)];
    (c.get rate ≠ 1 ∧ c.get rate ≠ 2 ∨ c.get rate = 2 ∧ x.no50 = none ∨ c.get rate = 1 ∧ x.no10 = none → Ignores i s) ∧
    (∀ u, c.get rate = 1 → x.no10 = some u → falls u 0) ∧
    (∀ u, c.get rate = 2 → x.no50 = some u →
      (x.no10 = none → falls u 1) ∧
      ∀ v, x.no10 = some v → falls u (if v + 100 * Config.ms ≤ max c.st (u + 100 * Config.ms) then 0 else 1))) ∧
  (∀ (m : Fin 8) (s : State), let c := s.chip
    let l := c.get (F.THERM.DOM_STAT.LEVEL m)
    let word (n : Nat) : Word := if n = 0 then 0x7FFFFFFF#32 else wd ((16 - n) * 2 ^ 27)
    let tells (d : Chip) (n : Nat) : Prop := c.on (F.THERM.DOM_CFG.MBX_EN m) = true →
      Tab.at d.mailbox 0 (c.get (F.THERM.DOM_CFG.MBX m)) = word n
    (let i : Instr := .domainStepUp m
      let on := c.on (F.THERM.DOM_CFG.EN m) = true ∧ c.on (F.THERM.DOM_STAT.COND m) = true
      let now := match (c.dom m).lastUp with | some u => max c.st (u + 10 * Config.ms) | none => c.st;
      (¬on → Ignores i s) ∧
      (on → c.get (F.THERM.DOM_CFG.LMAX m) ≤ l → Answers i s s { c with st := now } []) ∧
      (on → l < c.get (F.THERM.DOM_CFG.LMAX m) → Completes i s fun t => let d := t.chip
        d.st = now ∧ d.get (F.THERM.DOM_STAT.LEVEL m) = l + 1 ∧ d.on F.THERM.STICKY.THROTTLE = true ∧ tells d (l + 1) ∧
        (d.dom m).lastUp = some now ∧ 2 ≤ d.get F.THERM.STATUS.STATE ∧
        ∀ k : Fin 8, k ≠ m → d.get (F.THERM.DOM_STAT.LEVEL k) = c.get (F.THERM.DOM_STAT.LEVEL k))) ∧
    (let i : Instr := .domainRestoreStep m;
      ((c.dom m).clear = none ∨ c.on (F.THERM.DOM_CFG.EN m) = false ∨ l = 0 → Ignores i s) ∧
      ∀ u, (c.dom m).clear = some u → c.on (F.THERM.DOM_CFG.EN m) = true → l ≠ 0 → Completes i s fun t => let d := t.chip
        d.st = max c.st (u + 100 * Config.ms) ∧ d.get (F.THERM.DOM_STAT.LEVEL m) = l - 1 ∧ tells d (l - 1) ∧
        (l = 1 → (d.dom m).clear = none ∧ d.on (F.THERM.DOM_STAT.RESTORE m) = false) ∧
        (l ≠ 1 → (d.dom m).clear = some (u + 100 * Config.ms)) ∧
        ∀ k : Fin 8, k ≠ m → d.get (F.THERM.DOM_STAT.LEVEL k) = c.get (F.THERM.DOM_STAT.LEVEL k)) ∧
    ∀ src : Source, let i : Instr := .domainEnable src m
      let a := R.THERM.DOM_CFG m
      let lmax := min 16 (c.get (F.THERM.DOM_CFG.LMAX m))
      let v := wd (bits (c.rd a) 0 9 + lmax * 2 ^ 16 + 2 ^ 24)
      let owned := c.on (F.THERM.DOM_CFG.MBX_EN m) = true ∧ (c.portOwner (0x1000 + c.get (F.THERM.DOM_CFG.MBX m))).isSome = true
      s.Lets src a →
      (c.on (F.THERM.DOM_CFG.EN m) = true → c.rd a = v → Answers i s (s.spent a) c []) ∧
      (c.on (F.THERM.DOM_CFG.EN m) = true → c.rd a ≠ v → RefusesWrite i s src a rState true) ∧
      (c.on (F.THERM.DOM_CFG.EN m) = false → owned → RefusesWrite i s src a rState true) ∧
      (c.on (F.THERM.DOM_CFG.EN m) = false → ¬owned → Completes i s fun t => let d := t.chip
        d.rd a = v ∧ d.rd (R.THERM.DOM_STAT m) = 0#32 ∧ d.dom m = {} ∧ tells d 0 ∧ d.st = c.st)) ∧
  (∀ s : State, let c := s.chip; let src := c.get F.THERM.XT_CFG.XT_SRC
    let on := c.on F.THERM.XT_CFG.XT_COMP_EN = true ∧ src < 56
    let dt := c.tempOf src - 400
    let goal := -rnd ((c.rd R.THERM.XT_C1).toInt * dt * 256000 + (c.rd R.THERM.XT_C2).toInt * dt * dt * 160 + (c.rd R.THERM.XT_C3).toInt * dt * dt * dt)
      40960000
    let old := signed 16 (bits (c.rd R.THERM.XT_TRIM) 16 16)
    let new := max (-5000) (min 5000 (max (old - 10) (min (old + 10) goal)));
    (¬on → Ignores .xtTrimUpdate s) ∧
    (on → Completes .xtTrimUpdate s fun t => let d := t.chip
      signed 16 (bits (d.rd R.THERM.XT_TRIM) 16 16) = new ∧ (new.natAbs = 5000 → d.on F.THERM.STICKY.XT_TRIM_LIM = true) ∧
      c.Keeps d [whole R.THERM.XT_TRIM, F.THERM.STICKY.XT_TRIM_LIM] ∧ t = { s with chip := { c with regs := d.regs, fresh := c.fresh + 1 } }) ∧
    ∀ (k : Fin 8) (corr : BitVec 16), Answers (.refCorrectionUpdate k corr) s s { c with refCorr := Tab.set c.refCorr 0 k corr.toNat }
      [(whole R.THERM.REF_STAT, k + corr.toNat * 2 ^ 16)]) ∧
  (∀ (p : Fin 41) (s : State), let c := s.chip
    let count : List (Fld × Nat) := [(⟨R.THERM.DL_STAT, 0, 16⟩, min (c.get ⟨R.THERM.DL_STAT, 0, 16⟩ + 1) 65535), (⟨R.THERM.DL_STAT, 16, 6⟩, p.val)]
    let edge := p.val < 40 ∧ ((c.pg p).plan.any fun e => decide (c.st ≤ e.at_ + 2560 ∧ e.at_ ≤ c.st + 2560)) = true;
    Answers (.dlCalibration p true) s s (({ c with dlPend := Tab.put c.dlPend p c.st } : Chip).mended 17 p) count ∧
    Answers (.dlCalibration p false) s s (c.report 17 p) (count ++ [(F.THERM.STICKY.DL_FAIL, 1)]) ∧
    (Tab.find c.dlPend p = none ∨ edge → Ignores (.dlSwap p) s) ∧
    ((Tab.find c.dlPend p).isSome = true → ¬edge →
      Answers (.dlSwap p) s s { c with dlPend := Tab.del c.dlPend p } [(F.THERM.DL_STAT.DEFER, 0)]) ∧
    (Tab.find c.dlPend p = none → Ignores (.dlDefer p) s) ∧
    ∀ u, Tab.find c.dlPend p = some u → Answers (.dlDefer p) s s { c with st := max c.st (u + Config.ms), dlPend := Tab.del c.dlPend p }
      [(F.THERM.STICKY.DL_DEFER, 1), (F.THERM.DL_STAT.DEFER, 1)]) ∧
  ∀ (k : Fin 9) (mv vkeep : BitVec 16) (s : State), let c := s.chip
    let i : Instr := .supplySample k mv vkeep
    let r := Tab.at c.supRuns (0, 0) k
    let low := mv.toNat < bits (c.rd (R.THERM.SUP_LIM k)) 0 16
    let high := bits (c.rd (R.THERM.SUP_LIM k)) 16 16 < mv.toNat
    let u := min 3 (if mv.toNat < bits (c.rd (R.THERM.SUP_LIM k)) 0 16 then r.1 + 1 else 0)
    let o := min 3 (if bits (c.rd (R.THERM.SUP_LIM k)) 16 16 < mv.toNat then r.2 + 1 else 0)
    let fu := bitOf R.THERM.SUP_STAT k
    let fo := bitOf R.THERM.SUP_STAT (16 + k)
    let nu := (c.on fu = true ∧ low) ∨ u = 3
    let no := (c.on fo = true ∧ high) ∨ o = 3
    let l := [(fu, (decide nu).toNat), (fo, (decide no).toNat), (F.KENNEL.VKEEP_MON.VKEEP, vkeep.toNat)] ++
      (if k.val = 3 then [(F.KENNEL.VMON.VSYS, mv.toNat)] else []) ++ (if k.val = 4 then [(F.KENNEL.VMON.VBKP, mv.toNat)] else [])
    let new := (nu ∧ c.on fu = false) ∨ (no ∧ c.on fo = false);
    (¬new → Answers i s s (({ c with supRuns := Tab.set c.supRuns (0, 0) k (u, o) } : Chip).noteOk 11 k (decide (¬nu ∧ ¬no))) l) ∧
    (new → Completes i s fun t => let d := t.chip
      (∀ e ∈ l, d.get e.1 = e.2) ∧ d.on F.THERM.STICKY.SUP_FAULT = true ∧ Tab.at d.supRuns (0, 0) k = (u, o) ∧ Tab.find d.isn.okSince (11 * 64 + k) = none ∧
      d.reports = c.reports ++ (if c.on (bitOf R.THERM.SUP_CFG k) then [(11, k.val)] else []))

/-- The Kennel's contents (R378–R380, R384, R385, R389). -/
def Obligations.KennelKeepsTimeTokenAndMemory : Prop :=
  ∀ s : State, let c := s.chip; let k := c.ken
    let wake (i : Instr) (base : Chip) (n : Nat) (l : List (Fld × Nat)) : Prop :=
      Answers i s s { base with ken := { base.ken with pwren := base.ken.pwren || c.on (bitOf R.KENNEL.WAKE_CFG n) } }
        (l ++ [(bitOf R.KENNEL.WAKE_CAUSE n, 1)])
    (∀ src : Source,
      (∀ v : Word, s.Lets src R.KENNEL.CAL_SEC → Answers (.calSecWrite src v) s (s.spent R.KENNEL.CAL_SEC)
        { c with ken := { k with secAt := k.base + c.st, subAt := 0 } } [(whole R.KENNEL.CAL_SEC, v.toNat), (F.KENNEL.KSTAT.CAL_VALID, 1)]) ∧
      (c.portOpen src = false → Ignores (.calSubRead src) s ∧ ∀ bad, Ignores (.retDataAccess src none bad) s) ∧
      (c.portOpen src = true →
        Answers (.calSubRead src) s s { c with out := [wd (min 32767 (k.subAt + (k.base + c.st - k.secAt) * 32768 / Config.sec))] }
          [(whole R.KENNEL.CAL_SEC_LAT, (c.rd R.KENNEL.CAL_SEC).toNat)] ∧
        ∀ bad : Bool, let n := bits (c.rd R.KENNEL.RET_ADDR) 0 10
          Answers (.retDataAccess src none bad) s s { c with out := [(Tab.find k.ret n).getD (Config.freeWord (k.retBase + n))] }
            ((⟨R.KENNEL.RET_ADDR, 0, 10⟩, (n + 1) % 1024) :: if bad then [(F.KENNEL.STICKY.RET_PARITY, 1)] else [])) ∧
      (s.Lets src R.KENNEL.RET_DATA → ∀ (v : Word) (bad : Bool), let n := bits (c.rd R.KENNEL.RET_ADDR) 0 10
        Answers (.retDataAccess src (some v) bad) s (s.spent R.KENNEL.RET_DATA) { c with ken := { k with ret := Tab.put k.ret n v } }
          [(⟨R.KENNEL.RET_ADDR, 0, 10⟩, (n + 1) % 1024)]) ∧
      (s.Lets src R.KENNEL.SHIP_CMD →
        Answers (.shipArm src) s (s.spent R.KENNEL.SHIP_CMD) c [(F.KENNEL.KSTAT.SHIP_ARMED, 1)] ∧
        Answers (.shipDisarm src) s (s.spent R.KENNEL.SHIP_CMD) c [(F.KENNEL.KSTAT.SHIP_ARMED, 0)]) ∧
      (s.Lets src R.KENNEL.TOKEN_CTRL → Answers (.tokenClear src) s (s.spent R.KENNEL.TOKEN_CTRL) c [(F.KENNEL.KSTAT.TOKEN_VALID, 0)])) ∧
    (∀ at_ : Nat, let i : Instr := .calSecTick at_
      let now := max c.st at_
      let d : Chip := { c with st := now, ken := { k with secAt := k.base + now, subAt := 0 } }
      let l := (whole R.KENNEL.CAL_SEC, (c.rd R.KENNEL.CAL_SEC + 1#32).toNat) ::
        (if c.phase = .held then [] else [(whole R.KENNEL.OPTIME, (c.rd R.KENNEL.OPTIME + 1#32).toNat)]);
      (c.rd R.KENNEL.CAL_SEC + 1#32 ≠ c.rd R.KENNEL.ALARM → Answers i s s d l) ∧
      (c.rd R.KENNEL.CAL_SEC + 1#32 = c.rd R.KENNEL.ALARM → wake i d 1 l)) ∧
    wake .wakeInEvent c 2 [] ∧
    (k.ship = false → wake .shipWakeEvent c 0 []) ∧
    (k.ship = true → Answers .shipWakeEvent s s { c with ken := { k with ship := false, cellOpen := false } } []) ∧
    (let cold (vsys : Bool) (d : Chip) : Prop :=
        (∀ a, isKennelReg a = false → d.rd a = c.rd a) ∧
        (∀ a, isKennelReg a = true → a ≠ R.KENNEL.OPTIME → a ≠ R.KENNEL.PCYCLE → a ≠ R.KENNEL.KSTAT → d.rd a = Chip.rd {} a) ∧
        d.rd R.KENNEL.OPTIME = c.lifeNv.optime ∧ d.rd R.KENNEL.PCYCLE = c.lifeNv.pcycle ∧ d.rd R.KENNEL.KSTAT = wd (vsys.toNat * 4) ∧
        d.on F.KENNEL.STICKY.KCOLD = true ∧ d.on F.KENNEL.KSTAT.TOKEN_VALID = false ∧ d.on F.KENNEL.KSTAT.CAL_VALID = false ∧
        d.rd R.KENNEL.CAL_SEC = 0#32 ∧ d.ken.ret = [] ∧ d.ken.phase = 0 ∧ d.st = c.st;
      (Completes .vkeepLoss s fun t => cold false t.chip ∧ t.chip.phase = c.phase ∧ t.chip.ken.pwren = false) ∧
      ∀ vsys : Bool, Completes (.kennelColdStart vsys) s fun t => let d := t.chip
        cold vsys d ∧ d.phase = (if c.phase = .safeHold then .held else c.phase) ∧ d.ken.pwren = vsys ∧ d.ken.ship = false ∧ d.ken.cellOpen = false)

/-- The Kennel's power path and its charger (R381–R385). -/
def Obligations.PowerPathAndCellCharging : Prop :=
  ∀ s : State, let c := s.chip; let k := c.ken
    let st := c.get F.KENNEL.STATUS.STATE
    let ok := c.on F.KENNEL.KSTAT.VSYS_OK
    let now := k.base + c.st
    let cur : Fld := ⟨R.KENNEL.BKP_STAT, 16, 8⟩
    let lo : Fld := ⟨R.KENNEL.HO_CNT, 0, 16⟩
    let hi : Fld := ⟨R.KENNEL.HO_CNT, 16, 16⟩
    let stopped (x : KenSt) : KenSt := { x with phase := 0, phaseAt := now, paused := none }
    let charges (d : Chip) (ocv : Nat) : Prop := d.ken.phase = 1 ∧ d.on F.KENNEL.KSTAT.CHARGING = !c.on F.KENNEL.KSTAT.CHG_TEMP ∧
      d.get cur = if c.on F.KENNEL.KSTAT.CHG_TEMP then 0 else
        if ocv < c.get F.KENNEL.BKP_CUT.VPRE then c.get F.KENNEL.BKP_CFG.ICHG / 10 else c.get F.KENNEL.BKP_CFG.ICHG
    let rests (d : Chip) (n : Nat) : Prop := d.ken.phase = n ∧ d.on F.KENNEL.KSTAT.CHARGING = false ∧ d.get cur = 0
    (∀ vbkp : BitVec 16, let i : Instr := .vsysFall vbkp
      (ok = false → Ignores i s ∧ ∀ n, n ≠ knVbkp → st = n →
        Answers .vsysRise s s { c with ken := { k with ship := false, pwren := k.pwren || c.on (bitOf R.KENNEL.WAKE_CFG 3) } }
          [(F.KENNEL.KSTAT.VSYS_OK, 1), (bitOf R.KENNEL.WAKE_CAUSE 3, 1)]) ∧
      (ok = false → st = knVbkp →
        Answers .vsysRise s s { c with ken := { k with ship := false, pwren := k.pwren || c.on (bitOf R.KENNEL.WAKE_CFG 3), waitAt := now } }
          [(F.KENNEL.KSTAT.VSYS_OK, 1), (bitOf R.KENNEL.WAKE_CAUSE 3, 1), (F.KENNEL.STATUS.STATE, knWait)]) ∧
      (ok = true → Ignores .vsysRise s) ∧
      (ok = true → c.on F.KENNEL.KSTAT.SHIP_ARMED = true →
        Answers i s s { c with ken := stopped { k with ship := true, cellOpen := true } }
          [(F.KENNEL.KSTAT.VSYS_OK, 0), (F.KENNEL.KSTAT.TOKEN_VALID, 0), (F.KENNEL.KSTAT.SHIP_ARMED, 0), (F.KENNEL.KSTAT.CHARGING, 0), (cur, 0)]) ∧
      (ok = true → c.on F.KENNEL.KSTAT.SHIP_ARMED = false →
        (st = knVsys → Completes i s fun t => let d := t.chip
          d.on F.KENNEL.KSTAT.VSYS_OK = false ∧ d.get F.KENNEL.STATUS.STATE = knHandover ∧ d.on F.KENNEL.STICKY.HANDOVER = true ∧
          (vbkp.toNat < 2500 → d.on F.KENNEL.STICKY.BKP_ABSENT = true) ∧ d.get F.KENNEL.KSTAT.SRC = c.get F.KENNEL.KSTAT.SRC ∧
          d.rd R.KENNEL.HO_CNT = c.rd R.KENNEL.HO_CNT ∧ d.ken = k) ∧
        (st = knWait → OnlyShows i s [(F.KENNEL.KSTAT.VSYS_OK, 0), (F.KENNEL.STATUS.STATE, knVbkp)]) ∧
        (st ≠ knVsys → st ≠ knWait → OnlyShows i s [(F.KENNEL.KSTAT.VSYS_OK, 0)]))) ∧
    (st ≠ knHandover → Ignores .handoverDone s) ∧
    (st = knHandover →
      let l := [(F.KENNEL.KSTAT.SRC, 1), (lo, min (c.get lo + 1) 65535), (F.KENNEL.STATUS.STATE, if ok then knWait else knVbkp)]
      let x := if ok then { k with waitAt := now } else k;
      (k.phase = 0 → Answers .handoverDone s s { c with ken := x } l) ∧
      (k.phase ≠ 0 → Answers .handoverDone s s { c with ken := stopped x } (l ++ [(F.KENNEL.KSTAT.CHARGING, 0), (cur, 0)]))) ∧
    (st ≠ knWait → Ignores .returnWaitExpire s) ∧
    (st = knWait → Completes .returnWaitExpire s fun t => let d := t.chip
      d.st = max c.st (k.waitAt + 5 * Config.ms - k.base) ∧ d.get F.KENNEL.KSTAT.SRC = 0 ∧ d.get F.KENNEL.STATUS.STATE = knVsys ∧
      d.on F.KENNEL.STICKY.RETURN = true ∧ d.get hi = min (c.get hi + 1) 65535 ∧ d.get lo = c.get lo ∧
      (c.on F.KENNEL.BKP_CFG.CHG_EN = true → c.on F.KENNEL.STICKY.CHG_FAULT = false → k.phase = 0 → charges d (bits (c.rd R.KENNEL.BKP_STAT) 0 16)) ∧
      (c.on F.KENNEL.BKP_CFG.CHG_EN = false → d.ken.phase = 0)) ∧
    (∀ vbkp : BitVec 16, let i : Instr := .bkpCutoff vbkp
      let cut := c.on F.KENNEL.KSTAT.SRC = true ∧ vbkp.toNat < c.get F.KENNEL.BKP_CUT.CUTOFF;
      (¬cut → Ignores i s) ∧ (cut → Answers i s s { c with ken := { k with cellOpen := true } } [])) ∧
    (∀ ocv : BitVec 16, let i : Instr := .bkpChargePhaseEnd ocv
      let seen (d : Chip) : Prop := d.get ⟨R.KENNEL.BKP_STAT, 0, 16⟩ = ocv.toNat
      let until_ (d : Chip) (dt : Nat) : Prop := d.st = max c.st (k.phaseAt + dt - k.base);
      (k.phase = 0 ∨ k.paused.isSome = true → Ignores i s) ∧
      (k.phase = 1 → k.paused = none → Completes i s fun t => let d := t.chip
        until_ d (max 1 (c.get F.KENNEL.BKP_CFG.ON_T) * 100 * Config.ms) ∧ rests d 2 ∧
        d.get ⟨R.KENNEL.BKP_STAT, 0, 16⟩ = c.get ⟨R.KENNEL.BKP_STAT, 0, 16⟩) ∧
      (k.phase = 2 → k.paused = none → Completes i s fun t => let d := t.chip
        until_ d (max 1 (c.get F.KENNEL.BKP_CFG.REST_T) * 100 * Config.ms) ∧ seen d ∧
        (c.get F.KENNEL.BKP_VLIM.VFULL ≤ ocv.toNat → rests d 3) ∧ (ocv.toNat < c.get F.KENNEL.BKP_VLIM.VFULL → charges d ocv.toNat)) ∧
      (k.phase = 3 → k.paused = none → Completes i s fun t => let d := t.chip
        until_ d (600 * Config.sec) ∧ seen d ∧
        (ocv.toNat < c.get F.KENNEL.BKP_VLIM.VRECHG → charges d ocv.toNat) ∧ (c.get F.KENNEL.BKP_VLIM.VRECHG ≤ ocv.toNat → rests d 3))) ∧
    (k.phase ≠ 1 ∧ k.phase ≠ 2 ∨ k.paused.isSome = true → Ignores .bkpChargeTimeout s) ∧
    (k.phase = 1 ∨ k.phase = 2 → k.paused = none → Completes .bkpChargeTimeout s fun t => let d := t.chip
      d.st = max c.st (k.refAt + 3600 * Config.sec - k.base) ∧ d.on F.KENNEL.STICKY.CHG_FAULT = true ∧ rests d 0)

/-- Isaenaim's states, integrity and fault reactions (R24, R390–R401). -/
def Obligations.SupervisorStatesAndFaultReactions : Prop :=
  ∀ s : State, let c := s.chip; let x := c.isn
    let both := c.on F.SAFE.STO_STAT.CUT_A = true ∧ c.on F.SAFE.STO_STAT.CUT_B = true
    let sto (d : Chip) (bit : Nat) (fbA fbB : Bool) : Prop :=
      d.on ⟨R.SAFE.STO_STAT, 8 + bit, 1⟩ = true ∧ d.on F.SAFE.STO_STAT.CUT_A = true ∧ d.on F.SAFE.STO_STAT.CUT_B = true ∧
      d.on F.SAFE.STO_STAT.FB_A = fbA ∧ d.on F.SAFE.STO_STAT.FB_B = fbB ∧ d.on F.SAFE.STICKY.STO_APPLIED = true ∧
      d.get F.SAFE.SAFE_CNT.STO = min (c.get F.SAFE.SAFE_CNT.STO + 1) 65535 ∧ d.isn.ascAt = [] ∧ d.isn.slowAt = [] ∧ d.isn.cutAt = d.st ∧
      (fbA = false ∨ fbB = false → d.on F.SAFE.STICKY.STO_FB_FAULT = true ∧ (19, 0) ∈ d.reports) ∧
      (∀ n : Fin 40, d.on (F.PG.CTRL.EN n) = false ∧ d.on (F.PG.STATUS.HS n) = false ∧ d.on (F.PG.STATUS.LS n) = false) ∧
      (∀ n : Fin 48, d.on (F.GLNK.LCFG.LEN (n / 8) (n % 8)) = false) ∧ (c.isnState = isSs1 → x.dead = false → d.isnState = isSafe) ∧
      ∀ g : Fin 8, c.ssEn g = true → bits (d.rd R.ISN.SS_STAT) (2 * g) 2 = 3
    let late := c.on F.SAFE.SBC_CFG.SBC_EN = true ∧ c.on F.SAFE.SBC_CFG.WITH_STO = true ∧ c.on F.SAFE.SBC_CFG.ORDER = true ∧
      c.get F.SAFE.SBC_CFG.SBC_DLY ≠ 0 ∧ c.on F.SAFE.STO_STAT.CUT_A = false
    let noAsc := x.ascAt = [] ∧ ∀ g : Fin 8, c.ssEn g = true → Tab.find c.scResp g = none ∧ bits (c.rd R.ISN.SS_CHOICE) (2 * g) 2 % 2 = 0
    let safe (d : Chip) (fbA fbB : Bool) : Prop := d.isnState = isSafe ∧ (c.isnState ≠ isSafe →
      d.on ⟨R.ISN.STICKY, 2, 1⟩ = true ∧ d.get F.ISN.ENTRY_CNT.SAFE = min (c.get F.ISN.ENTRY_CNT.SAFE + 1) 65535 ∧ d.isn.degAt = none ∧
      (∀ l ∈ c.admitted, c.protectedLoop l = true → c.get (fState l) = lsClosed → (d.loop l).held = true ∧
        (c.get (lf F.LPD.LPD_TRIG.TSRC l) ≠ 6 → (d.loop l).cmd = some (3, none)) ∧ (c.get (lf F.LPD.LPD_TRIG.TSRC l) = 6 → d.get (fState l) = lsHold)) ∧
      (noAsc → ¬late → ¬both → sto d 2 fbA fbB))
    let a := R.ISN.CTRL
    let alone := bits (c.rd a) 8 3 = 0
    (∀ (fbA fbB : Bool), let i : Instr := .watchdogFire fbA fbB
      let now := match x.refresh with | some u => max c.st (u + 150 * Config.us) | none => c.st;
      (x.wdFired = true → Answers i s s { c with st := now } []) ∧
      (x.wdFired = false → Completes i s fun t => let d := t.chip
        d.isn.wdFired = true ∧ d.on F.ISN.WD_STAT.FIRED = true ∧ d.on ⟨R.ISN.STICKY, 5, 1⟩ = true ∧ d.st = now ∧ (¬both → sto d 3 fbA fbB))) ∧
    (∀ at_ : Nat, let i : Instr := .watchdogRefresh at_
      let now := max c.st at_;
      (x.dead = true → Answers i s s { c with st := now } []) ∧
      (x.dead = false → x.refresh = none → Answers i s s { c with st := now, isn := { x with refresh := some now } } []) ∧
      ∀ u, x.dead = false → x.refresh = some u →
        let fine := 50 * Config.us ≤ now - u ∧ now - u ≤ 150 * Config.us;
        (fine ∨ x.wdFired = true → Answers i s s { c with st := now, isn := { x with refresh := some now } }
          [(⟨R.ISN.WD_STAT, 0, 8⟩, min 255 ((now - u) / Config.us))]) ∧
        (¬fine → x.wdFired = false → Completes i s fun t => let d := t.chip
          d.isn.wdFired = true ∧ d.isn.refresh = some now ∧ d.on F.ISN.WD_STAT.FIRED = true ∧ (¬both → sto d 3 true true))) ∧
    Answers .isnCoreMismatch s s { c with isn := { x with dead := true } } [] ∧
    (let out (i : Instr) (l : List (Fld × Nat)) : Prop :=
        let r := if c.refLost then c else c.report 9 0
        Answers i s s { r with isn := { r.isn with windows := 0 }, refLost := true }
          (l ++ if c.refLost then [] else [(⟨R.ISN.STICKY, 4, 1⟩, 1), (F.LEASH.STICKY.REF_LOST, 1)]);
      (x.dead = true → Ignores .refEdgeLoss s ∧ ∀ count, Ignores (.refWindowCheck count) s) ∧
      (x.dead = false → out .refEdgeLoss [] ∧ ∀ count : BitVec 16, let i : Instr := .refWindowCheck count
        let l := [((⟨R.ISN.OSC_STAT, 0, 16⟩ : Fld), count.toNat)];
        (count.toNat < 4500 ∨ 5500 < count.toNat → out i l) ∧
        (4500 ≤ count.toNat → count.toNat ≤ 5500 →
          Answers i s s { c with isn := { x with windows := min 10 (x.windows + 1) }, refLost := c.refLost && decide (x.windows + 1 < 10) } l))) ∧
    (∀ src : Source, s.Lets src a → alone →
      (x.dead = true → Answers (.runReq src) s (s.spent a) c [] ∧ Answers (.resume src) s (s.spent a) c [] ∧
        ∀ fbA fbB, Answers (.safeReq src fbA fbB) s (s.spent a) c []) ∧
      (x.dead = false →
        (let ok := c.isnState = isSafe ∧ (c.rd R.ISN.CFG_CRC).toNat = c.cfgCrc ∧ c.classActive 2 = false ∧ c.funcsActive [1, 2] = true ∧
            c.on F.SAFE.STICKY.SBC_FAULT = false ∧ c.on F.SAFE.STICKY.STO_FB_FAULT = false;
          (¬ok → Answers (.runReq src) s (s.spent a) c
            [(hSticky (aPage a) 0, 1), (⟨R.ISN.STICKY, 6, 1⟩, 1),
             (whole R.ISN.ERRINFO, rSafety + 2 * 2 ^ 8 + srcCode src * 2 ^ 19 + min (c.get (hRejCnt (aPage a)) + 1) 255 * 2 ^ 24)]) ∧
          (ok → Completes (.runReq src) s fun t => let d := t.chip
            d.isnState = (if c.degradable then isDegraded else isRun) ∧ (∀ l ∈ c.admitted, (d.loop l).held = false) ∧
            d.rd R.SAFE.STO_STAT = c.rd R.SAFE.STO_STAT ∧ d.rd R.SAFE.SBC_STAT = c.rd R.SAFE.SBC_STAT ∧ d.st = c.st)) ∧
        (let ok := c.isnState = isDegraded ∧ c.degradable = false;
          (¬ok → RefusesWrite (.resume src) s src a rSafety false) ∧
          (ok → Completes (.resume src) s fun t => let d := t.chip
            d.isnState = isRun ∧ d.isn.degAt = none ∧ d.rd R.SAFE.STO_STAT = c.rd R.SAFE.STO_STAT ∧
            (c.on F.ISN.LIM_MBX.EN = true → ∀ i, i < 2 → Tab.at d.mailbox 0 (bits (c.rd R.ISN.LIM_MBX) (8 * i) 8) = 0x7FFFFFFF#32))) ∧
        ∀ fbA fbB : Bool,
          (c.isnState = isSafe → Answers (.safeReq src fbA fbB) s (s.spent a) c []) ∧
          (c.isnState ≠ isSafe → Completes (.safeReq src fbA fbB) s fun t => safe t.chip fbA fbB))) ∧
    (∀ (fbA fbB : Bool), let i : Instr := .faultReport fbA fbB
      (c.reports = [] → Ignores i s) ∧
      ∀ n m rest, c.reports = (n, m) :: rest → n < 25 →
        (x.dead = true → Answers i s s { c with reports := rest } []) ∧
        (x.dead = false →
          let acts := c.classOf n ≠ 0 ∧ ∀ l, c.faultGroups n m = some l → ∃ g ∈ l, c.ssEn g = true
          let seen (d : Chip) : Prop := d.on (bitOf R.ISN.FAULT_SEEN n) = true ∧ bits (d.rd R.ISN.LAST_FAULT) 0 16 = n + c.classOf n * 2 ^ 8 ∧
            d.get64 R.ISN.LAST_ST_LO R.ISN.LAST_ST_HI = c.st % 2 ^ 64;
          (¬acts → Completes i s fun t => let d := t.chip
            seen d ∧ d.rd R.ISN.FAULT_ACT = c.rd R.ISN.FAULT_ACT ∧ d.isnState = c.isnState ∧ d.reports = rest) ∧
          (acts → Completes i s fun t => let d := t.chip
            seen d ∧ d.on (bitOf R.ISN.FAULT_ACT n) = true ∧
            (c.classOf n = 1 → d.isnState = (if c.isnState = isRun then isDegraded else c.isnState)) ∧
            (c.classOf n = 1 → c.isnState = isRun → d.on ⟨R.ISN.STICKY, 1, 1⟩ = true ∧ d.isn.degAt = some c.st ∧
              (c.on F.ISN.LIM_MBX.EN = true → Tab.at d.mailbox 0 (bits (c.rd R.ISN.LIM_MBX) 8 8) = c.rd R.ISN.DEG_SPD)) ∧
            (c.classOf n = 2 → safe d fbA fbB)))) ∧
    (∀ n : Fin 25, let i : Instr := .faultCleared n
      -- what each reported instance of a supply or a position unit waits for
      let waits := (x.faulty.filter fun e => e.1 == n.val).map fun e => Tab.find x.okSince (n * 64 + e.2)
      let timed := n.val = 11 ∨ n.val = 12
      let absent : Prop := n.val = 4 ∧ 100 ≤ c.refGood ∨
        n.val = 24 ∧ (∀ l, l < 32 → c.on (bitOf R.TRIP.LINE_ACTIVE l) = true → c.on (F.TRIP.LCFG.ISN_REPORT l) = false) ∨
        n.val ∈ [0, 2, 3, 6, 8, 17, 20, 21] ∧ (∀ e ∈ x.faulty, e.1 ≠ n.val) ∨ timed ∧ ∀ w ∈ waits, w ≠ none
      let now := if n.val = 11 ∨ n.val = 12 then waits.foldl (fun m w => max m (w.getD 0 + Config.sec)) c.st else c.st;
      (x.dead = true ∨ ¬absent → Ignores i s) ∧
      (x.dead = false → absent → Completes i s fun t => let d := t.chip
        let y := { x with faulty := x.faulty.filter fun e => e.1 != n.val }
        d.on (bitOf R.ISN.FAULT_ACT n) = false ∧ c.Keeps d [bitOf R.ISN.FAULT_ACT n] ∧
        d = { c with st := now, regs := d.regs, isn := if d.degradable then y else { y with degAt := none } })) ∧
    (∀ (fbA fbB : Bool), let i : Instr := .degradedExpire fbA fbB
      let due := c.isnState = isDegraded ∧ c.degradable = true ∧ x.dead = false;
      (x.degAt = none ∨ ¬due → Ignores i s) ∧
      ∀ u, x.degAt = some u → due → Completes i s fun t => let d := t.chip
        d.on ⟨R.ISN.STICKY, 3, 1⟩ = true ∧ safe d fbA fbB ∧ d.st = max c.st (u + max 1 (min 3600 (c.get F.ISN.ISN_CFG.DEG_TMAX)) * Config.sec)) ∧
    ∀ (g : Fin 8) (fbA fbB : Bool), let i : Instr := .ascExit g fbA fbB
      let slow := Tab.find x.slowAt g
      let tmax := bits (c.rd R.ISN.ASC_CFG) 0 16;
      (Tab.find x.ascAt g = none ∨ x.dead = true ∨ slow = none ∧ tmax = 0 → Ignores i s) ∧
      ∀ u, Tab.find x.ascAt g = some u → x.dead = false → slow ≠ none ∨ tmax ≠ 0 → Completes i s fun t => let d := t.chip
        Tab.find d.isn.ascAt g = none ∧ Tab.find d.isn.slowAt g = none ∧
        (slow = none → d.st = max c.st (u + tmax * Config.ms)) ∧
        (∀ v, slow = some v → d.st = max c.st (if tmax = 0 then v + 100 * Config.ms else min (v + 100 * Config.ms) (u + tmax * Config.ms))) ∧
        (Tab.del x.ascAt g ≠ [] → bits (d.rd R.ISN.SS_STAT) (2 * g) 2 = 1 ∧ d.rd R.SAFE.STO_STAT = c.rd R.SAFE.STO_STAT) ∧
        (Tab.del x.ascAt g = [] → ¬late → ¬both → sto d 2 fbA fbB)

/-- STO, SS1, the brake and the holding test (R401–R406). -/
def Obligations.StoSs1AndTheBrake : Prop :=
  ∀ s : State, let c := s.chip; let x := c.isn
    let both := c.on F.SAFE.STO_STAT.CUT_A = true ∧ c.on F.SAFE.STO_STAT.CUT_B = true
    -- Isaenaim has entered SAFE out of SS1
    let ssOver (d : Chip) : Prop := d.isnState = isSafe ∧ d.on ⟨R.ISN.STICKY, 2, 1⟩ = true ∧
      d.get F.ISN.ENTRY_CNT.SAFE = min (c.get F.ISN.ENTRY_CNT.SAFE + 1) 65535 ∧ ∀ g : Fin 8, c.ssEn g = true → bits (d.rd R.ISN.SS_STAT) (2 * g) 2 = 3
    let sto (d : Chip) (bit : Nat) (fbA fbB : Bool) : Prop :=
      d.on ⟨R.SAFE.STO_STAT, 8 + bit, 1⟩ = true ∧ d.on F.SAFE.STO_STAT.CUT_A = true ∧ d.on F.SAFE.STO_STAT.CUT_B = true ∧
      d.on F.SAFE.STO_STAT.FB_A = fbA ∧ d.on F.SAFE.STO_STAT.FB_B = fbB ∧ d.on F.SAFE.STICKY.STO_APPLIED = true ∧
      d.get F.SAFE.SAFE_CNT.STO = min (c.get F.SAFE.SAFE_CNT.STO + 1) 65535 ∧ d.isn.ascAt = [] ∧ d.isn.stoDue = none ∧ d.isn.cutAt = d.st ∧
      (c.isnState = isSs1 → x.dead = false → ssOver d) ∧
      (fbA = false ∨ fbB = false → d.on F.SAFE.STICKY.STO_FB_FAULT = true ∧ (19, 0) ∈ d.reports) ∧
      (∀ n : Fin 40, d.on (F.PG.CTRL.EN n) = false ∧ d.on (F.PG.STATUS.HS n) = false ∧ d.on (F.PG.STATUS.LS n) = false) ∧
      ∀ n : Fin 48, d.on (F.GLNK.LCFG.LEN (n / 8) (n % 8)) = false
    let late := c.on F.SAFE.SBC_CFG.SBC_EN = true ∧ c.on F.SAFE.SBC_CFG.WITH_STO = true ∧ c.on F.SAFE.SBC_CFG.ORDER = true ∧
      c.get F.SAFE.SBC_CFG.SBC_DLY ≠ 0 ∧ c.on F.SAFE.STO_STAT.CUT_A = false
    let dly := c.get F.SAFE.SBC_CFG.SBC_DLY * Config.ms
    let a := R.SAFE.CTRL
    let req := F.SAFE.CTRL.STO_REQ
    let rel := F.SAFE.CTRL.SBC_REL
    let sw : Fld := ⟨R.SAFE.SBC_STAT, 0, 16⟩
    let runs := c.isnState = isRun ∨ c.isnState = isDegraded
    let cutNow := c.on F.SAFE.STO_STAT.CUT_A = true ∨ c.on F.SAFE.STO_STAT.CUT_B = true
    let ended (d : Chip) (fail fbA fbB : Bool) : Prop := d.on F.SAFE.STICKY.SS1_FAIL = (fail || c.on F.SAFE.STICKY.SS1_FAIL) ∧
      (late → d.isnState = isSs1 ∧ d.isn.stoDue = some (d.st + dly, 4) ∧ bits (d.rd R.SAFE.SBC_STAT) 0 16 = 0) ∧
      (¬late → ssOver d ∧ (¬both → sto d 4 fbA fbB))
    let k := c.get F.SAFE.SS1_CFG.SS1_PFU
    let speed (st : Nat) : Nat := if k < 6 then (({ c with st := st } : Chip).pfuSpeed k).toInt.natAbs else 0
    let broken (i : Instr) (now : Nat) (y : IsnSt) : Prop := Completes i s fun t => let d := t.chip
      bits (d.rd R.SAFE.SBC_STAT) 0 16 = 0 ∧ d.on F.SAFE.STICKY.SBC_FAULT = true ∧ (19, 0) ∈ d.reports ∧
      d.isn = (({ c with st := now, isn := { y with brakeDue := none } } : Chip).report 19 0).isn ∧ d.drives = c.drives ∧ d.st = now
    (∀ (src : Source) (fbA fbB : Bool), s.Lets src a → let i : Instr := .stoRequest src fbA fbB
      (x.dead = true → Answers i s (s.spent a) c [(req, 1)]) ∧
      (x.dead = false →
        (late → x.stoDue = none →
          Answers i s (s.spent a) { c with isn := { x with brakeDue := none, stoDue := some (c.st + dly, 1) } } [(req, 1), (sw, 0)]) ∧
        (late → x.stoDue ≠ none → Answers i s (s.spent a) c [(req, 1)]) ∧
        (both → c.isnState ≠ isSs1 → Answers i s (s.spent a) { c with isn := { x with stoDue := none } } [(req, 1), (⟨R.SAFE.STO_STAT, 9, 1⟩, 1)]) ∧
        (both → c.isnState = isSs1 → Completes i s fun t => t.chip.on req = true ∧ t.chip.isn.stoDue = none ∧ ssOver t.chip) ∧
        (¬late → ¬both → Completes i s fun t => t.chip.on req = true ∧ sto t.chip 1 fbA fbB))) ∧
    (∀ (src : Source) (fbA fbB : Bool), s.Lets src a → let i : Instr := .stoRel src fbA fbB
      let ok := runs ∧ c.on req = false ∧ c.funcsActive [1] = true ∧ c.on F.SAFE.STICKY.STO_FB_FAULT = false ∧ x.wdFired = false;
      (x.dead = true → Answers i s (s.spent a) c []) ∧
      (x.dead = false →
        (¬ok → RefusesWrite i s src a rSafety false) ∧
        (ok → ¬cutNow → Answers i s (s.spent a) c []) ∧
        (ok → cutNow → fbA = false ∨ fbB = false →
          Answers i s (s.spent a) (c.report 19 0) [(F.SAFE.STICKY.STO_FB_FAULT, 1)]) ∧
        (ok → cutNow → fbA = true → fbB = true → Completes i s fun t => let d := t.chip
          d.rd R.SAFE.STO_STAT = 0 ∧ d.isn.stoDue = none ∧ d.isnState = c.isnState ∧
          (∀ g : Fin 8, c.ssEn g = true → bits (d.rd R.ISN.SS_STAT) (2 * g) 2 = 0) ∧
          (∀ n : Fin 40, d.on (F.PG.CTRL.EN n) = c.on (F.PG.CTRL.EN n)) ∧
          ∀ n : Fin 48, d.on (F.GLNK.LCFG.LEN (n / 8) (n % 8)) = c.on (F.GLNK.LCFG.LEN (n / 8) (n % 8))))) ∧
    (∀ fbA fbB : Bool, let i : Instr := .stoPulseTest fbA fbB
      let now := max c.st (x.cutAt + 28800 * Config.sec)
      let tested : Chip := { c with st := now, isn := { x with cutAt := now } };
      (x.dead = true ∨ ¬both → Ignores i s) ∧
      (x.dead = false → both →
        (fbA = true → fbB = true → Answers i s s tested []) ∧
        (fbA = false ∨ fbB = false → Answers i s s (tested.report 19 0) [(F.SAFE.STICKY.STO_FB_FAULT, 1)]))) ∧
    (∀ src : Source, s.Lets src a → let i : Instr := .ss1Req src
      (x.dead = true → Answers i s (s.spent a) c []) ∧
      (x.dead = false → ¬runs → RefusesWrite i s src a rSafety false) ∧
      (x.dead = false → runs → Completes i s fun t => let d := t.chip
        d.isnState = isSs1 ∧ d.get F.SAFE.SAFE_CNT.SS1 = min (c.get F.SAFE.SAFE_CNT.SS1 + 1) 65535 ∧ d.rd R.SAFE.SS1_STAT = 0 ∧
        d.isn = { x with ss1V := speed c.st, ss1At := c.st, ss1N := 0, stillAt := none, degAt := none } ∧
        d.rd R.SAFE.STO_STAT = c.rd R.SAFE.STO_STAT ∧ d.st = c.st ∧
        (c.on F.ISN.LIM_MBX.EN = true → Tab.at d.mailbox 0 (bits (c.rd R.ISN.LIM_MBX) 8 8) = 0))) ∧
    (∀ fbA fbB : Bool, let i : Instr := .ss1EnvelopeCheck fbA fbB
      let idle := c.isnState ≠ isSs1 ∨ c.on F.SAFE.SS1_CFG.MODE = false ∨ x.dead = true ∨ x.stoDue ≠ none
      let n := x.ss1N + 1
      let now := max c.st (x.ss1At + n * Config.ms)
      let vofs : Int := (c.get F.SAFE.SS1_RAMP.VOFS * 65536 : Nat)
      let env := (max vofs ((x.ss1V : Int) - rnd (c.get F.SAFE.SS1_RAMP.RAMP * n * 65536 : Nat) 1000 + vofs)).toNat
      let still := speed now ≤ c.get F.SAFE.SS1_CFG.STILL * 65536
      let on (l : Option Nat) : Prop := Answers i s s { c with st := now, isn := { x with ss1N := n, stillAt := l } }
        [(whole R.SAFE.SS1_STAT, n % 2 ^ 16 + (rnd env 65536).toNat % 2 ^ 16 * 2 ^ 16)];
      (idle → Ignores i s) ∧
      (¬idle →
        (env < speed now → Completes i s fun t => ended t.chip true fbA fbB ∧ t.chip.st = now) ∧
        (speed now ≤ env →
          (¬still → on none) ∧ (still → x.stillAt = none → on (some now)) ∧
          ∀ u, still → x.stillAt = some u → (now < u + 10 * Config.ms → on (some u)) ∧
            (u + 10 * Config.ms ≤ now → Completes i s fun t => ended t.chip false fbA fbB ∧ t.chip.st = now)))) ∧
    (∀ fbA fbB : Bool, let i : Instr := .ss1Timeout fbA fbB
      let idle := c.isnState ≠ isSs1 ∨ x.dead = true ∨ x.stoDue ≠ none;
      (idle → Ignores i s) ∧
      (¬idle → Completes i s fun t => ended t.chip (c.on F.SAFE.SS1_CFG.MODE) fbA fbB ∧
        t.chip.st = max c.st (x.ss1At + max 1 (c.get F.SAFE.SS1_CFG.SS1_T) * Config.ms))) ∧
    (∀ src : Source, s.Lets src a →
      let free := c.on F.SAFE.SBC_CFG.SBC_EN = true ∧ runs ∧ ¬cutNow ∧ c.funcsActive [3] = true ∧ x.holdAt = none;
      (x.dead = true → ∀ on : Bool, Answers (.sbcRel src on) s (s.spent a) c [(rel, on.toNat)]) ∧
      (x.dead = false →
        (free → Answers (.sbcRel src true) s (s.spent a)
          { c with isn := { x with sbcAt := if c.on F.SAFE.SBC_STAT.RELEASED then x.sbcAt else c.st } } [(rel, 1), (⟨R.SAFE.SBC_STAT, 0, 5⟩, 31)]) ∧
        (¬free → Answers (.sbcRel src true) s (s.spent a) c [(rel, 1)]) ∧
        Answers (.sbcRel src false) s (s.spent a) { c with isn := { x with brakeDue := none } } [(rel, 0), (sw, 0)])) ∧
    (∀ fbA fbB : Bool, let i : Instr := .sbcDelayExpire fbA fbB
      (x.brakeDue = none → x.stoDue = none → Ignores i s) ∧
      (∀ u, x.brakeDue = some u → Answers i s s { c with st := max c.st u, isn := { x with brakeDue := none } } [(sw, 0)]) ∧
      ∀ u bit, x.brakeDue = none → x.stoDue = some (u, bit) → bit < 8 → ¬both →
        Completes i s fun t => t.chip.st = max c.st u ∧ sto t.chip bit fbA fbB) ∧
    (let idle := c.on F.SAFE.SBC_STAT.RELEASED = false ∨ x.dead = true
      let now := max c.st (x.sbcAt + max 1 (min 60 (c.get F.SAFE.SBC_CFG.SBC_TPER)) * Config.sec);
      (idle → (∀ b, Ignores (.sbcTestPulse b) s) ∧ ∀ b, Ignores (.sbcReadbackFault b) s) ∧
      (¬idle → Answers (.sbcTestPulse true) s s { c with st := now, isn := { x with sbcAt := now } } [(F.SAFE.SBC_STAT.PASSES, min (c.get F.SAFE.SBC_STAT.PASSES + 1) 65535)] ∧
        broken (.sbcTestPulse false) now { x with sbcAt := now } ∧ ∀ b, broken (.sbcReadbackFault b) c.st x)) ∧
    (∀ src : Source, s.Lets src a → let i : Instr := .holdStart src
      let ok := runs ∧ ¬cutNow ∧ c.on F.SAFE.SBC_STAT.RELEASED = true ∧ x.holdAt = none;
      (x.dead = true → Answers i s (s.spent a) c []) ∧
      (x.dead = false → ¬ok → RefusesWrite i s src a rSafety false) ∧
      (x.dead = false → ok → Answers i s (s.spent a) { c with isn := { x with brakeDue := none, holdAt := some c.st, holdRef := none } }
        [(sw, 0), (whole R.SAFE.HOLD_STAT, 2)])) ∧
    (x.dead = true ∨ x.holdAt = none ∨ x.holdRef ≠ none → Ignores .holdReady s) ∧
    (∀ u, x.dead = false → x.holdAt = some u → x.holdRef = none →
      let now := max c.st (u + c.get F.SAFE.HOLD_CFG.HOLD_SET * 10 * Config.ms);
      Answers .holdReady s s { c with st := now, isn := { x with holdRef := some (c.rd (R.PFU.COUNT (c.get F.SAFE.HOLD_CFG.HOLD_PFU % 6)), now) } }
        [(F.SAFE.HOLD_STAT.READY, 1)]) ∧
    (x.dead = true ∨ x.holdRef = none → Ignores .holdTestEnd s) ∧
    ∀ ref u, x.dead = false → x.holdRef = some (ref, u) →
      let moved := (c.rd (R.PFU.COUNT (c.get F.SAFE.HOLD_CFG.HOLD_PFU % 6)) - ref).toInt.natAbs
      let old := bits (c.rd R.SAFE.HOLD_STAT) 16 16
      let limit := c.get F.SAFE.HOLD_CFG.HOLD_CNT;
      Completes .holdTestEnd s fun t => let d := t.chip
        let now := max c.st (u + bits (c.rd R.SAFE.HOLD_T) 0 16 * Config.ms)
        d.st = now ∧
        (limit < moved → old ≤ limit →
          d.isn = { (({ c with st := now } : Chip).report 20 0).isn with holdAt := none, holdRef := none }) ∧
        (limit < old → d.isn = { x with holdAt := none, holdRef := none }) ∧
        (moved ≤ limit → old ≤ limit → d.isn = { x with holdAt := none, holdRef := none, faulty := x.faulty.filter fun e => e.1 != 20 }) ∧
        bits (d.rd R.SAFE.HOLD_STAT) 0 16 = 0 ∧ bits (d.rd R.SAFE.HOLD_STAT) 16 16 = max old (min moved 65535) ∧
        d.on F.SAFE.STICKY.HOLD_DONE = true ∧ d.rd R.SAFE.SBC_STAT = c.rd R.SAFE.SBC_STAT ∧
        (limit < moved → old ≤ limit → d.on F.SAFE.STICKY.HOLD_FAIL = true ∧ (20, 0) ∈ d.reports) ∧
        (moved ≤ limit ∨ limit < old → d.on F.SAFE.STICKY.HOLD_FAIL = c.on F.SAFE.STICKY.HOLD_FAIL)

/-- Park lock, test pulses and safe inputs (R407–R410). -/
def Obligations.ParkLockAndSafeInputs : Prop :=
  ∀ s : State, let c := s.chip; let x := c.isn
    let both := c.on F.SAFE.STO_STAT.CUT_A = true ∧ c.on F.SAFE.STO_STAT.CUT_B = true
    let act (n : Nat) : Fld := bitOf R.SAFE.SIN_STAT n
    let fault (n : Nat) : Fld := bitOf R.SAFE.SIN_STAT (8 + n)
    let level (n : Nat) : Fld := bitOf R.SAFE.SIN_STAT (16 + n)
    let even (n : Nat) : Nat := n / 2 * 2
    let pair (n : Nat) : Bool := c.on (F.SAFE.SIN_CFG.PAIR (even n))
    let acts (d : Chip) (n : Nat) (fbA fbB : Bool) : Prop := let f := c.get (F.SAFE.SIN_CFG.FUNC n)
      d.on F.SAFE.STICKY.SIN_DEMAND = true ∧
      (f = 1 → d.on F.SAFE.STO_STAT.CUT_A = true ∧ d.on F.SAFE.STO_STAT.CUT_B = true ∧ d.on ⟨R.SAFE.STO_STAT, 8, 1⟩ = true ∧
        (¬both → d.on F.SAFE.STO_STAT.FB_A = fbA ∧ d.on F.SAFE.STO_STAT.FB_B = fbB ∧ ∀ n : Fin 40, d.on (F.PG.CTRL.EN n) = false)) ∧
      (f = 2 → c.isnRuns = true → d.isnState = isSs1) ∧ (f = 3 → bits (d.rd R.SAFE.SBC_STAT) 0 16 = 0) ∧
      (f = 4 → c.isnState = isRun → d.isnState = isDegraded)
    let leaves (d : Chip) (n : Nat) (fbA fbB : Bool) : Prop := d.on (act n) = false ∧
      (pair n = false → c.on (act n) = true → acts d n fbA fbB) ∧
      (pair n = true → (d.sin (even n)).pair = false ∧ ((c.sin (even n)).pair = true → acts d (even n) fbA fbB))
    let faulted (d : Chip) (n kind seen : Nat) : Prop := d.on (fault n) = true ∧ (d.sin n).actRun = 0 ∧ (d.sin n).demRun = 0 ∧
      (c.on (fault n) = false → d.rd R.SAFE.SIN_FAULT_INFO = wd (n + kind * 2 ^ 4 + seen * 2 ^ 8) ∧ (18, n) ∈ d.reports)
    let turned (n : Nat) : Prop := n % 2 = 1 ∧ pair n = true ∧ c.on (F.SAFE.SIN_CFG.ANTI (n - 1)) = true
    let live := x.dead = false
    (x.dead = true → (∀ at_, Ignores (.parkSpeedUpdate at_) s) ∧ Ignores .parkConfirmTimeout s ∧ (∀ k, Ignores (.tpsPulse k) s) ∧
      (∀ n l fbA fbB, Ignores (.safeInputPeriod n l fbA fbB) s) ∧ (∀ n fbA fbB, Ignores (.safeInputDemand n fbA fbB) s) ∧
      ∀ m fbA fbB, Ignores (.safePairDiscrepancy m fbA fbB) s) ∧
    (∀ at_, live → let i : Instr := .parkSpeedUpdate at_
      let now := max c.st at_
      let slow := match x.parkAt with | some u => decide (u + 200 * Config.ms ≤ now) | none => false
      let same := c.on F.SAFE.PARK_STAT.ENGAGE_OK = slow ∧ c.on F.SAFE.PARK_STAT.RELEASE_OK = c.isnRuns;
      (same ∨ c.on F.ISN.LIM_MBX.EN = false →
        Answers i s s { c with st := now } [(F.SAFE.PARK_STAT.ENGAGE_OK, slow.toNat), (F.SAFE.PARK_STAT.RELEASE_OK, c.isnRuns.toNat)]) ∧
      (¬same → c.on F.ISN.LIM_MBX.EN = true → Completes i s fun t => let d := t.chip
        d.on F.SAFE.PARK_STAT.ENGAGE_OK = slow ∧ d.on F.SAFE.PARK_STAT.RELEASE_OK = c.isnRuns ∧ d.isn = x ∧ d.st = now ∧
        Tab.at d.mailbox 0 (bits (c.rd R.ISN.LIM_MBX) 16 8) = wd (slow.toNat + 2 * c.isnRuns.toNat))) ∧
    (∀ src : Source, s.Lets src R.SAFE.PL_CMD →
      let on := c.on F.SAFE.PARK_CFG.POS_SIN_EN = true ∧ live;
      (on → Answers (.plCmd src) s (s.spent R.SAFE.PL_CMD) { c with isn := { x with plAt := some c.st } } []) ∧
      (¬on → Answers (.plCmd src) s (s.spent R.SAFE.PL_CMD) c [])) ∧
    (live → x.plAt = none → Ignores .parkConfirmTimeout s) ∧
    (∀ u, live → x.plAt = some u → Answers .parkConfirmTimeout s s
      (({ c with st := max c.st (u + c.get F.SAFE.PARK_CFG.PL_T * 10 * Config.ms), isn := { x with plAt := none } } : Chip).report 21 0)
      [(F.SAFE.STICKY.PARK_FAIL, 1)]) ∧
    (∀ k : Fin 4, live → let i : Instr := .tpsPulse k
      let en := (c.get F.SAFE.TPS_CFG.TPS_EN).testBit k
      let per := c.get F.SAFE.TPS_CFG.TP_PER * (10 * Config.us)
      let width := c.get F.SAFE.TPS_CFG.TP_W * (10 * Config.us);
      (en = false → Ignores i s) ∧
      (en = true → per ≠ 0 → ∃ now, c.st < now ∧ (∃ j, now = j * per + 2 * k * width) ∧ (8 * width ≤ per → now ≤ c.st + per) ∧
        Answers i s s { c with st := now, isn := { x with tps := Tab.put x.tps k now } } [])) ∧
    (∀ (n : Fin 8) (fbA fbB up : Bool), live → let i : Instr := .safeInputPeriod n (if up then .high else .low) fbA fbB
      let active := up = true ∧ ¬turned n ∨ up = false ∧ turned n;
      (active → Completes i s fun t => let d := t.chip
        d.on (level n) = up ∧ (d.sin n).actRun = min 2 ((c.sin n).actRun + 1) ∧ (d.sin n).demRun = 0 ∧ d.on (fault n) = c.on (fault n) ∧
        (1 ≤ (c.sin n).actRun → c.on (fault n) = false → d.on (act n) = true) ∧
        ((c.sin n).actRun = 0 ∨ c.on (fault n) = true → d.on (act n) = c.on (act n)) ∧
        (pair n = true → (c.sin (even n)).pair = false → let o := even n + (n + 1) % 2
          (d.on (act n) = false ∨ c.on (act o) = false → (d.sin (even n)).pair = false) ∧
          (d.on (act n) = true → c.on (act o) = true → (c.sin (even n)).seen = true → (c.sin (even n + 1)).seen = true →
            (d.sin (even n)).pair = true ∧ (d.sin (even n)).seen = false ∧ (d.sin (even n + 1)).seen = false))) ∧
      (¬active → Completes i s fun t => let d := t.chip
        d.on (level n) = up ∧ (d.sin n).actRun = 0 ∧ (d.sin n).demRun = min 2 ((c.sin n).demRun + 1) ∧ leaves d n fbA fbB ∧
        d.on (fault n) = (c.on (fault n) && !decide (1 ≤ (c.sin n).demRun ∧ c.isnState = isSafe)))) ∧
    (∀ (n : Fin 8) (fbA fbB : Bool), live → let i (l : SinLook) : Instr := .safeInputPeriod n l fbA fbB
      (Completes (i .other) s fun t => t.chip.rd R.SAFE.SIN_STAT = c.rd R.SAFE.SIN_STAT) ∧
      (∀ k, c.on (F.SAFE.SIN_CFG.PULSED n) = false → (Completes (i (.cross k)) s fun t => t.chip.rd R.SAFE.SIN_STAT = c.rd R.SAFE.SIN_STAT) ∧
        Completes (i .stuck) s fun t => t.chip.rd R.SAFE.SIN_STAT = c.rd R.SAFE.SIN_STAT) ∧
      ∀ k, c.on (F.SAFE.SIN_CFG.PULSED n) = true →
        (Completes (i (.cross k)) s fun t => t.chip.on F.SAFE.STICKY.SIN_CROSS = true ∧ faulted t.chip n 1 k ∧ leaves t.chip n fbA fbB) ∧
        Completes (i .stuck) s fun t => t.chip.on F.SAFE.STICKY.SIN_STUCK = true ∧ faulted t.chip n 2 (c.get (F.SAFE.SIN_CFG.TPS n)) ∧
          leaves t.chip n fbA fbB) ∧
    (∀ (n : Fin 8) (fbA fbB : Bool), live → let i : Instr := .safeInputDemand n fbA fbB
      (turned n → Ignores i s) ∧
      (¬turned n → Completes i s fun t => t.chip.on (level n) = false ∧ (t.chip.sin n).actRun = 0 ∧ leaves t.chip n fbA fbB)) ∧
    ∀ (m : Fin 4) (fbA fbB : Bool), live → let i : Instr := .safePairDiscrepancy m fbA fbB
      let e := 2 * m.val;
      ((c.sin e).diff = none ∨ pair e = false → Ignores i s) ∧
      ∀ u, (c.sin e).diff = some u → pair e = true → Completes i s fun t => let d := t.chip
        d.st = max c.st (u + c.get (F.SAFE.SIN_CFG.DISC_T e) * Config.ms) ∧ d.on F.SAFE.STICKY.SIN_DISC = true ∧ leaves d e fbA fbB ∧
        d.on (act (e + 1)) = false ∧ d.on (fault e) = true ∧ d.on (fault (e + 1)) = true ∧
        (c.on (fault e) = false → (18, e) ∈ d.reports) ∧ (c.on (fault (e + 1)) = false → (18, e + 1) ∈ d.reports)

/-- Erelo ports (R415–R418, R421, R422, R424, R436). -/
def Obligations.EreloLinksComeUpAndGoDown : Prop :=
  ∀ (s : State) (p : Fin 4), let c := s.chip; let x := c.eport p
    let lock := F.EPORT.PORT_STAT.LOCK p
    let goes (v : Nat) : List (Fld × Nat) := [(F.EPORT.STATUS.STATE p, v), (F.EPORT.PORT_STAT.LSTATE p, v)]
    let is (d : Chip) (v : Nat) : Prop := d.get (F.EPORT.STATUS.STATE p) = v ∧ d.get (F.EPORT.PORT_STAT.LSTATE p) = v
    let got : Fld × Nat := (whole (R.EPORT.RX_PKTS p), min ((c.rd (R.EPORT.RX_PKTS p)).toNat + 1) (2 ^ 32 - 1))
    let sent (d : Chip) (ptype : Nat) (payload : List (BitVec 8)) : Prop :=
      (d.eport p).tx.map (fun y => (y.ptype, y.pkt.payload, y.at_, y.aborted)) = some (ptype, payload, d.st, false)
    let sentOn (d : Chip) (q : Fin 4) (ptype : Nat) : Prop := (d.eport q).tx.map (fun y => (y.ptype, y.at_, y.aborted)) = some (ptype, d.st, false)
    let left (d : Chip) : Prop := (d.eport p).waiting = [] ∧ (d.eport p).rxHeld = false ∧ (d.eport p).downAt = some d.st ∧
      (d.eport p).declared = false ∧ d.on (F.EPORT.STICKY.LINK_DOWN p) = true ∧ d.on (F.EPORT.PORT_STAT.AUTH_OK p) = false ∧
      d.rd (R.EPORT.BE_STAT p) = 0 ∧ d.get ⟨R.EPORT.DOWN_CNT p, 0, 16⟩ = min (c.get ⟨R.EPORT.DOWN_CNT p, 0, 16⟩ + 1) 65535
    let others (d : Chip) : Prop := ∀ q : Fin 4, q ≠ p → d.eport q = c.eport q ∧ d.elState q = c.elState q
    -- the certificate's signature over the UID and the device key, under the key of FAB_CA_SLOT; and the peer's own (log 8)
    let verify (cert : LinkCert) (sigOk : Bool) : Bool :=
      let slot := c.get F.SEC.FAB_CA.FAB_CA_SLOT
      let signed := beOf 8 (c.get64 (R.EPORT.PEER_UID_LO p) (R.EPORT.PEER_UID_HI p)) ++ beOf 32 cert.x.toNat ++ beOf 32 cert.y.toNat
      sigOk && c.sec.loaded.contains slot &&
        ecdsaOk (c.keyNumber slot 0 8) (c.keyNumber slot 8 8) (beNat (sha256 signed)) cert.r.toNat cert.s.toNat
    (∀ src : Source, s.Lets src (R.EPORT.CTRL p) → let a := R.EPORT.CTRL p; let en := F.EPORT.CTRL.EN p
      (c.elState p = epDown → Answers (.elPortEnable src p true) s (s.spent a) c ((en, 1) :: goes epProbe)) ∧
      (c.elState p ≠ epDown → Answers (.elPortEnable src p true) s (s.spent a) c [(en, 1)]) ∧
      (c.elState p ≠ epUp → Answers (.elPortEnable src p false) s (s.spent a) c ([(en, 0), (lock, 0)] ++ goes epDown)) ∧
      (c.elState p = epUp → Completes (.elPortEnable src p false) s fun t => let d := t.chip
        is d epDown ∧ left d ∧ d.on en = false ∧ d.on lock = false ∧ others d ∧ d.st = c.st)) ∧
    (c.elState p ≠ epProbe → ∀ r, Ignores (.elProbe p r) s) ∧
    (c.elState p = epProbe → let cable := R.EPORT.CABLE p; let flt := F.EPORT.STICKY.CABLE_FAULT p
      (∀ ps : Nat, 200000 < ps → OnlyShows (.elProbe p (.positive ps)) s [(whole cable, 2 ^ 17), (flt, 1)]) ∧
      (∀ ps : Nat, ps ≤ 200000 → OnlyShows (.elProbe p (.positive ps)) s
        ((whole cable, min 65535 ((ps - Config.probeDelay p) * 100 / (2 * max 1 (c.get (F.EPORT.CABLE_VP.VP p)))) + 2 ^ 16) :: goes epTrain)) ∧
      OnlyShows (.elProbe p .negative) s [(whole cable, 2 ^ 18), (flt, 1)] ∧ OnlyShows (.elProbe p .nothing) s [(whole cable, 2 ^ 17), (flt, 1)]) ∧
    (c.elState p ≠ epTrain → Ignores (.elBlockLock p) s) ∧
    (c.elState p = epTrain → Completes (.elBlockLock p) s fun t => let d := t.chip
      is d epAuth ∧ d.on lock = true ∧ sent d 7 ((c.elDesc p).map fun b => BitVec.ofNat 8 b) ∧ others d) ∧
    (c.on lock = false → Ignores (.elBlockLockLoss p) s ∧ Ignores (.elRxSuspend p) s ∧ Ignores (.elRxResume p) s ∧ Ignores (.elRxAbort p) s ∧
      Ignores (.elRxBlockError p) s ∧ ∀ n, Ignores (.elRxCredit p n) s) ∧
    (c.on lock = true → let err := F.EPORT.ERR_CNT.SYNC_ERR p
      let bad := [(err, min (c.get err + 1) 65535), (F.EPORT.STICKY.SYNC_ERR p, 1)]
      let held (h : Bool) : Chip := { c with ports := Tab.set c.ports {} p { x with rxHeld := h } };
      (c.elState p ≠ epUp → OnlyShows (.elBlockLockLoss p) s ((lock, 0) :: goes epTrain)) ∧
      (c.elState p = epUp → Completes (.elBlockLockLoss p) s fun t => is t.chip epTrain ∧ left t.chip ∧ t.chip.on lock = false ∧ others t.chip) ∧
      Answers (.elRxSuspend p) s s (held true) [] ∧ Answers (.elRxResume p) s s (held false) [] ∧
      OnlyShows (.elRxAbort p) s bad ∧ OnlyShows (.elRxBlockError p) s bad ∧
      ∀ n : BitVec 16, let cr := min (c.get (elCredits p) + n.toNat) 65535
        (x.waiting = [] → Completes (.elRxCredit p n) s fun t =>
          t.chip.get (elCredits p) = cr ∧ c.Keeps t.chip [elCredits p] ∧ ∀ q, t.chip.eport q = c.eport q) ∧
        ∀ e l, x.waiting = e :: l →
          (cr < creditsOf e.2.2 → Completes (.elRxCredit p n) s fun t =>
            t.chip.get (elCredits p) = cr ∧ c.Keeps t.chip [elCredits p] ∧ ∀ q, t.chip.eport q = c.eport q) ∧
          (creditsOf e.2.2 ≤ cr → l = [] → Completes (.elRxCredit p n) s fun t =>
            t.chip.get (elCredits p) = cr - creditsOf e.2.2 ∧ (t.chip.eport p).waiting = [] ∧ sent t.chip e.2.1 e.2.2.payload)) ∧
    (∀ d : Desc, let i : Instr := .elRxDesc p d
      (c.elState p ≠ epAuth → Ignores i s) ∧
      (c.elState p = epAuth → let need := c.on (F.EPORT.PORT_CFG.AUTH_REQ p) = true ∨ d.authReq = true
        let foreign := d.domain.toNat ≠ c.get F.EMGR.MGR_CFG.DOMAIN_ID
        Completes i s fun t => let e := t.chip
          e.get64 (R.EPORT.PEER_UID_LO p) (R.EPORT.PEER_UID_HI p) = d.uid.toNat ∧ e.get got.1 = got.2 ∧
          bits (e.rd (R.EPORT.PEER_INFO p)) 0 14 = (d.addr.getD 0).toNat ∧ bits (e.rd (R.EPORT.PEER_INFO p)) 16 2 = d.port ∧
          e.on (F.EPORT.PEER_INFO.VALID p) = true ∧ (foreign ∨ need ∧ c.fenced = true → is e epIsolated) ∧
          (¬foreign → need → c.fenced = false → e.elState p = epAuth ∧ sent e 11 []) ∧
          (¬foreign → ¬need → is e epUp ∧ e.on (F.EPORT.STICKY.LINK_UP p) = true))) ∧
    (∀ (cert : LinkCert) (sigOk : Bool), let i : Instr := .elRxAuth p cert sigOk
      let idle := c.elState p ≠ epAuth ∨ c.on (F.EPORT.PEER_INFO.VALID p) = false;
      (idle → Ignores i s) ∧
      (¬idle → verify cert sigOk = true → Completes i s fun t => let d := t.chip
        is d epUp ∧ d.on (F.EPORT.PORT_STAT.AUTH_OK p) = true ∧ d.on (F.EPORT.STICKY.LINK_UP p) = true ∧ (d.eport p).keys = x.keys + 1 ∧
        (d.eport p).keyAt = c.st ∧ (c.elD = dsProbing → c.el.warmAt = none → d.elD = dsElecting)) ∧
      (¬idle → verify cert sigOk = false → Completes i s fun t =>
        is t.chip epIsolated ∧ t.chip.on (F.EPORT.STICKY.AUTH_FAIL p) = true ∧ t.chip.get got.1 = got.2 ∧ others t.chip)) ∧
    (∀ (cert : LinkCert) (sigOk : Bool), let i : Instr := .linkKeyRenew p cert sigOk
      let idle := c.elState p ≠ epUp ∨ c.on (F.EPORT.PORT_STAT.AUTH_OK p) = false ∨ c.fenced = true
      let now := max c.st (x.keyAt + 86400 * Config.sec);
      (idle → Ignores i s) ∧
      (¬idle → verify cert sigOk = true → Completes i s fun t => let d := t.chip
        d.st = now ∧ (d.eport p).keyAt = now ∧ (d.eport p).keys = x.keys + 1 ∧ (d.eport p).waiting = x.waiting ∧ d.elState p = epUp ∧
        d.on (F.EPORT.PORT_STAT.AUTH_OK p) = true ∧ others d) ∧
      (¬idle → verify cert sigOk = false → Completes i s fun t =>
        t.chip.st = now ∧ is t.chip epIsolated ∧ left t.chip ∧ t.chip.on (F.EPORT.STICKY.AUTH_FAIL p) = true)) ∧
    (let i : Instr := .portDownTimeout p
      let idle := c.elState p = epUp ∨ x.declared = true ∨ c.elD ≠ dsReady;
      (x.downAt = none ∨ idle → Ignores i s) ∧
      ∀ u, x.downAt = some u → ¬idle → Completes i s fun t => let d := t.chip
        d.st = max c.st (u + 100 * Config.ms) ∧ (d.eport p).declared = true ∧ d.on F.EMGR.STICKY.TOPO_CHG = true ∧
        (∀ q : Fin 4, q ≠ p → d.elState q = c.elState q ∧ { d.eport q with tx := (c.eport q).tx, txEnd := (c.eport q).txEnd } = c.eport q) ∧
        (c.on F.EMGR.DISC_STAT.IS_ROOT = false → ∀ q : Fin 4, c.elState q = epUp → c.on (F.EPORT.PORT_STAT.PARENT q) = true →
          (∀ r, r < q → c.on (F.EPORT.PORT_STAT.PARENT r) = false) → sentOn d q 10) ∧
        ∀ n : Fin 64, let lost := c.flState n = 2 ∧ (c.eflow n).port = p
          (lost → d.flState n = 3 ∧ d.on F.EMGR.STICKY.FLOW_LOST = true) ∧ (¬lost → d.flState n = c.flState n))

/-- Discovery, routing and fabric time (R422–R427, R442). -/
def Obligations.FabricDiscoveryAndTime : Prop :=
  ∀ s : State, let c := s.chip; let e := c.el
    let root := c.on F.EMGR.DISC_STAT.IS_ROOT = true
    let rootUid (d : Chip) : Nat := d.get64 R.EMGR.ROOT_UID_LO R.EMGR.ROOT_UID_HI
    let d_ (v : Nat) : List (Fld × Nat) := [(F.EMGR.DISC_STAT.DSTATE, v), (F.EMGR.STATUS.STATE, v)]
    let got (p : Fin 4) : Fld × Nat := (whole (R.EPORT.RX_PKTS p), min ((c.rd (R.EPORT.RX_PKTS p)).toNat + 1) (2 ^ 32 - 1))
    let sent (d : Chip) (p : Fin 4) (ptype : Nat) : Prop := (d.eport p).tx.map (fun y => (y.ptype, y.at_, y.aborted)) = some (ptype, d.st, false)
    let electing := c.elD = dsProbing ∨ c.elD = dsElecting
    let started (d : Chip) : Prop :=
      (d.elD = if ∃ p : Fin 4, c.elState p = epUp then dsElecting else dsProbing) ∧ d.on F.EMGR.DISC_STAT.WARM = false ∧
      d.el.best = (if c.on F.EMGR.MGR_CFG.ROOT_ELIG then some (c.uid, 0) else none) ∧ d.el.bestAt = d.st ∧ d.el.discAt = d.st ∧ d.el.parent = none ∧
      ∀ p : Fin 4, (c.elState p = epUp → sent d p 8) ∧
        d.elState p = if c.elState p = epDown ∧ c.on (F.EPORT.CTRL.EN p) = true then epProbe else c.elState p
    let mayStep (n : Nat) : Prop := c.on F.EMGR.TIME_CFG.STEP_EN = true ∧ c.get F.EMGR.TIME_CFG.STEP_TH * Config.us ≤ n ∧
      ∀ n : Fin 40, c.on (F.PG.CTRL.EN n) = false
    (∀ src : Source, let a := R.EMGR.DISC_CMD; s.Lets src a → let i : Instr := .discCmd src
      (root ∨ rootUid c = 0 → Completes i s fun t => started t.chip ∧ t.chip.st = c.st) ∧
      (¬root → rootUid c ≠ 0 →
        ((∀ p : Fin 4, c.on (F.EPORT.PORT_STAT.PARENT p) = false) → Answers i s (s.spent a) c []) ∧
        ∀ p : Fin 4, c.on (F.EPORT.PORT_STAT.PARENT p) = true → (∀ q, q < p → c.on (F.EPORT.PORT_STAT.PARENT q) = false) →
          (c.elState p = epUp → Completes i s fun t => sent t.chip p 10 ∧ t.chip.el = e ∧ t.chip.elD = c.elD) ∧
          (c.elState p ≠ epUp → Answers i s (s.spent a) c []))) ∧
    (∀ (p : Fin 4) (uid : BitVec 64) (dist : BitVec 8), let i : Instr := .elRxElect p uid dist
      let run := c.elState p = epUp ∧ electing
      let u := uid.toNat
      let n := dist.toNat + 1
      let takes (at_ : Nat) : Prop := Completes i s fun t => t.chip.el = { e with best := some (u, n), bestAt := at_ } ∧
        t.chip.get (got p).1 = (got p).2 ∧ ∀ q : Fin 4, c.elState q = epUp → sent t.chip q 8
      (¬run → Ignores i s) ∧ (run → e.best = none → takes c.st) ∧
      ∀ b, run → e.best = some b → (u < b.1 → takes c.st) ∧ (u = b.1 → n < b.2 → takes e.bestAt) ∧
        (b.1 < u ∨ u = b.1 ∧ b.2 ≤ n → OnlyShows i s [got p])) ∧
    (let i : Instr := .electionTimeout
      let now := max c.st (e.bestAt + 50 * Config.ms);
      (¬electing → Ignores i s) ∧
      (electing → e.best = none → Answers i s s { c with st := now } (d_ dsElecting ++ [(F.EMGR.STICKY.NO_ROOT, 1)])) ∧
      ∀ b, electing → e.best = some b → Completes i s fun t => let d := t.chip
        let mine := b.1 = c.uid ∧ b.2 = 0
        d.st = now ∧ d.elD = dsAddressing ∧ rootUid d = b.1 % 2 ^ 64 ∧ d.get F.EMGR.DISC_STAT.LEVEL = min b.2 255 ∧
        (d.on F.EMGR.DISC_STAT.IS_ROOT = true ↔ mine) ∧
        (mine → d.rd R.EMGR.DEV_ADDR = wd (2 ^ 31) ∧ d.on F.EMGR.TIME_STAT.LOCKED = true ∧ ∀ q : Fin 4, c.elState q = epUp → sent d q 9) ∧
        (¬mine → d.rd R.EMGR.DEV_ADDR = c.rd R.EMGR.DEV_ADDR)) ∧
    (∀ (p : Fin 4) (addr : Option (BitVec 14)) (level : BitVec 8) (parent : BitVec 14), let i : Instr := .elRxAddr p addr level parent
      let run := c.elState p = epUp ∧ (c.elD = dsAddressing ∨ c.elD = dsRouting ∨ c.elD = dsNoAddr) ∧ ¬root
      let better := ∀ q, e.parent = some q → parent.toNat < q.1 ∨ parent.toNat = q.1 ∧ p.val ≤ q.2
      (¬run → Ignores i s) ∧
      (run → addr = none → Completes i s fun t =>
        t.chip.elD = dsNoAddr ∧ t.chip.rd R.EMGR.DEV_ADDR = 0 ∧ t.chip.on F.EMGR.STICKY.NO_ADDR = true ∧ t.chip.el = e) ∧
      ∀ a, run → addr = some a →
        (better → Answers i s s { c with el := { e with parent := some (parent.toNat, p.val) } }
          ([got p, (whole R.EMGR.DEV_ADDR, a.toNat + 2 ^ 31), (F.EMGR.DISC_STAT.LEVEL, level.toNat)] ++ d_ dsRouting)) ∧
        (¬better → OnlyShows i s [got p])) ∧
    (∀ (p : Fin 4) (adj : List TopoRec) (all : Bool), let i : Instr := .elRxTopo p adj all
      let run := (c.elState p = epUp ∨ root) ∧ dsAddressing ≤ c.elD
      (c.elAddr = none ∨ ¬run → Ignores i s) ∧
      ∀ a, c.elAddr = some a → run → Completes i s fun t => let d := t.chip
        let depth := (elLevels adj).foldl (fun m y => max m y.2) 0
        d.el.topo = adj ∧ d.el.table = elTable adj a ∧ d.rd R.EMGR.DOMAIN_SIZE = wd (adj.length % 2 ^ 15 + min depth 255 * 2 ^ 16) ∧
        (d.elD = if all = true ∨ c.elD = dsReady then dsReady else dsRouting) ∧ (all = true → c.elD ≠ dsReady → d.on F.EMGR.STICKY.DISC_DONE = true) ∧
        (∀ q : Fin 4, (d.on (F.EPORT.PORT_STAT.UP_DIR q) = true ↔ ∃ b, (q.val, b) ∈ linksOf adj a ∧ upLink (elLevels adj) a b = true) ∧
          (d.on (F.EPORT.PORT_STAT.PARENT q) = true ↔ d.on (F.EPORT.PORT_STAT.UP_DIR q) = true ∧ ∀ r, r < q → d.on (F.EPORT.PORT_STAT.UP_DIR r) = false)) ∧
        ∀ n : Fin 64, let lost := c.flState n = 2 ∧ pathStands adj (c.eflow n).path = false
          (lost → d.flState n = 3 ∧ d.on F.EMGR.STICKY.FLOW_LOST = true) ∧ (¬lost → d.flState n = c.flState n)) ∧
    (e.warmAt = none → Ignores .warmReuseTimeout s) ∧
    (∀ u, e.warmAt = some u → Completes .warmReuseTimeout s fun t => let d := t.chip
      d.st = max c.st (u + 20 * Config.ms) ∧ d.el.warmAt = none ∧ d.on F.EMGR.STICKY.TOPO_CHG = true ∧ started d) ∧
    (∀ (p : Fin 4) (sent ofs at_ : Nat), let i : Instr := .elRxTime p sent ofs at_
      let now := max c.st at_
      let led := c.on (F.EPORT.PORT_STAT.PARENT p) = true ∧ c.get F.EMGR.TIME_CFG.TSRC = 0 ∧ ¬root
      let off : Int := (at_ : Int) - sent - (c.eport p).delay
      (c.elState p ≠ epUp → Ignores i s) ∧
      (c.elState p = epUp → ¬led → Answers i s s { c with st := now } [got p]) ∧
      (c.elState p = epUp → led → Completes i s fun t => let d := t.chip
        let lk := F.EMGR.TIME_STAT.LOCKED
        d.get (got p).1 = (got p).2 ∧
        d.get ⟨R.EMGR.TIME_STAT, 0, 16⟩ = ((max (-32768) (min 32767 (Int.tdiv (off * 5) 128)) + 65536) % 65536).toNat ∧
        (0 ≤ off → d.el.slew = -off ∧ d.st = now) ∧ (off < 0 → mayStep (-off).toNat → d.el.slew = e.slew ∧ d.st = now + (-off).toNat) ∧
        (off < 0 → ¬mayStep (-off).toNat → d.el.slew = -off ∧ d.st = now) ∧
        (off.natAbs ≤ 256 → d.el.inBand = some (e.inBand.getD now) ∧
          d.on lk = (c.on lk || decide (e.inBand.getD now + Config.sec ≤ now))) ∧
        (256 < off.natAbs → d.el.inBand = none ∧ d.on lk = (c.on lk && !decide (1280 < off.natAbs))) ∧
        (1280 < off.natAbs → c.on lk = true → d.on F.EMGR.STICKY.TIME_UNLOCK = true))) ∧
    (∀ p : Fin 4, let down := c.elState p = epUp ∧ c.elAddr ≠ none ∧ c.on (F.EPORT.PORT_STAT.UP_DIR p) = false
      (¬down → Ignores (.timeSend p) s) ∧
      (down → Completes (.timeSend p) s fun t => sent t.chip p 6 ∧ t.chip.el = e ∧ t.chip.st = c.st)) ∧
    (∀ (p : Fin 4) (t1 t2 t3 t4 : Nat), let i : Instr := .timeDelayExchange p t1 t2 t3 t4
      (c.elState p ≠ epUp → Ignores i s) ∧
      (c.elState p = epUp → Answers i s s
        { c with st := max c.st t4, ports := Tab.set c.ports {} p { c.eport p with delay := (((t4 : Int) - t1) - ((t3 : Int) - t2)) / 2 } } [got p])) ∧
    ∀ (src : Source) (v : Word), let a := R.EMGR.TIME_OFS; s.Lets src a → let i : Instr := .timeOffsetWrite src v
      let ok := root ∧ c.get F.EMGR.TIME_CFG.TSRC = 1
      let n : Int := v.toInt * 128 / 5
      (¬ok → RefusesWrite i s src a rState false) ∧
      (ok → 0 < n → mayStep n.toNat → Answers i s (s.spent a) { c with st := c.st + n.toNat } []) ∧
      (ok → n ≤ 0 ∨ ¬mayStep n.toNat → Answers i s (s.spent a) { c with el := { e with slew := n } } [])

/-- Packets of the fabric (R416–R420, R429, R430, R432, R433, R437). -/
def Obligations.FabricPacketsAreForwardedAndDelivered : Prop :=
  ∀ s : State, let c := s.chip; let e := c.el
    let plus (f : Fld) (n : Nat) : Fld × Nat := (f, min (c.get f + n) (2 ^ f.len - 1))
    let got (p : Fin 4) : Fld × Nat := plus (whole (R.EPORT.RX_PKTS p)) 1
    let crc (p : Fin 4) (b : Bool) : List (Fld × Nat) := if b then [plus (F.EPORT.ERR_CNT.CRC_ERR p) 1, (F.EPORT.STICKY.CRC_ERR p, 1)] else []
    let dev (pk : Pkt) : Nat := pk.dst.toNat / 64 % 2 ^ 14
    let ep (pk : Pkt) : Nat := pk.dst.toNat % 64
    let from_ (pk : Pkt) : Nat := pk.src.toNat / 64 % 2 ^ 14
    let sent (d : Chip) (p ptype : Nat) (payload : List (BitVec 8)) (aborted : Bool) : Prop :=
      (d.eport p).tx.map (fun y => (y.ptype, y.pkt.payload, y.at_, y.aborted)) = some (ptype, payload, d.st, aborted)
    let drop : Fld × Nat := (F.EMGR.STICKY.EP_DROP, 1)
    let with_ (st : Nat) : Chip := { c with st := st }
    let flow (n : Fin 64) (st : Nat) (y : ElFlow) : Chip := { c with st := st, el := { e with flows := Tab.set e.flows {} n y } }
    let end_ (n : Nat) (st : Nat) (y : ElEp) : Chip := { c with st := st, el := { e with eps := Tab.set e.eps {} n y } }
    let stops (i : Instr) (p : Fin 4) (pk : Pkt) (ptype now : Nat) (body : Bool) : Prop :=
      (c.elState p ≠ epUp → Answers i s s (with_ now) []) ∧
      (c.elState p = epUp → pk.hcrc ≠ pktHcrc pk ptype → Answers i s s (with_ now) (got p :: crc p true)) ∧
      (c.elState p = epUp → pk.hcrc = pktHcrc pk ptype → c.elAddr ≠ some (dev pk) → Answers i s s (with_ now) [got p]) ∧
      (body = true → c.elState p = epUp → pk.hcrc = pktHcrc pk ptype → c.elAddr = some (dev pk) → pktBodyOk pk ptype = false →
        Answers i s s (with_ now) (got p :: crc p true))
    let comes (p : Fin 4) (pk : Pkt) (ptype : Nat) : Prop := c.elState p = epUp ∧ pk.hcrc = pktHcrc pk ptype ∧ c.elAddr = some (dev pk)
    (∀ (p : Fin 4) (ptype : BitVec 4) (pk : Pkt) (at_ : Nat), let i : Instr := .elForward p ptype pk at_
      let t_ := ptype.toNat
      let now := max c.st at_
      let okH := pk.hcrc == pktHcrc pk t_
      let bad := crc p (!okH || !pk.enc && pk.crc != pktCrc pk t_)
      let lost := plus ⟨R.EPORT.DROP_CNT p, 16, 16⟩ 1
      let on := c.elState p = epUp ∧ elClass t_ < 2 ∧ c.elAddr ≠ some (dev pk);
      (c.elState p ≠ epUp → Answers i s s (with_ now) [lost]) ∧
      (c.elState p = epUp → 2 ≤ elClass t_ ∨ c.elAddr = some (dev pk) → Answers i s s (with_ now) (got p :: bad)) ∧
      (on → pk.ttl = 0 → Answers i s s (with_ now) ([got p] ++ bad ++ [plus (F.EPORT.DROP_CNT.TTL_DROP p) 1, (F.EPORT.STICKY.TTL_DROP p, 1)])) ∧
      (on → pk.ttl ≠ 0 → c.elRoute (dev pk) = none → Answers i s s (with_ now) ([got p] ++ bad ++ [lost])) ∧
      ∀ (q : Fin 4) (h : Nat), on → pk.ttl ≠ 0 → c.elRoute (dev pk) = some (q.val, h) →
        let free := (c.eport q).waiting = [] ∧ creditsOf pk ≤ c.get (elCredits q)
        (c.elState q ≠ epUp → Answers i s s (with_ now) ([got p] ++ bad ++ [lost])) ∧
        (c.elState q = epUp → elClass t_ = 1 ∨ free → Completes i s fun t => let d := t.chip
          sent d q t_ pk.payload (!okH) ∧ d.st = now ∧ ((d.eport q).tx.map fun y => y.pkt.ttl) = some (pk.ttl - 1) ∧
          (elClass t_ = 0 → d.get (elCredits q) = c.get (elCredits q) - creditsOf pk) ∧
          (elClass t_ = 1 → now < (c.eport q).txEnd → d.get (whole (R.EPORT.SUSP_CNT q)) = (plus (whole (R.EPORT.SUSP_CNT q)) 1).2)) ∧
        (c.elState q = epUp → elClass t_ = 0 → ¬free → okH = false → Answers i s s (with_ now) ([got p] ++ bad)) ∧
        (c.elState q = epUp → elClass t_ = 0 → ¬free → okH = true → Completes i s fun t => let d := t.chip
          (d.eport q).waiting = (c.eport q).waiting ++ [(p.val, t_, { pk with ttl := pk.ttl - 1 })] ∧ (d.eport q).tx = (c.eport q).tx ∧
          d.get (elBuffer p) = (plus (elBuffer p) (pktLen pk)).2)) ∧
    (∀ (p : Fin 4) (pk : Pkt) (at_ : Nat), let i : Instr := .elRxFlow p pk at_
      let now := max c.st at_
      let n := ep pk
      let x := c.eep n
      let bound := c.get (F.EMGR.EP_CFG.MODE n) = 1 ∧ x.bound = some (from_ pk, pk.flow.toNat)
      -- after the sink's limit the packet that was due is late, and a later one comes as the next that is due
      let passed := x.late = true ∧ ∀ k, x.seq = some k → pk.seq.toNat = k
      let due := if x.late then x.seq.map fun k => (k + 1) % 65536 else x.seq
      let gap := match due with | some k => (pk.seq.toNat + 65536 - k) % 65536 | none => 0
      let tag := pk.enc && pk.tagOk && pk.epoch.toNat == x.epoch && decide (x.pn < pk.pn.toNat)
      let miss (d : Chip) (k : Nat) : Prop := d.get (epMissed n) = (plus (epMissed n) k).2 ∧ (k ≠ 0 → d.on F.EMGR.STICKY.FLOW_MISS = true)
      stops i p pk 0 now false ∧
      (comes p pk 0 → ¬bound → Answers i s s (with_ now) [got p, drop]) ∧
      (comes p pk 0 → bound → passed → Completes i s fun t => let d := t.chip
        d.get (epLate n) = (plus (epLate n) 1).2 ∧ (d.eep n).late = false ∧ d.mailbox = c.mailbox ∧ d.on F.LEASH.STICKY.LATE_ARRIVAL = true ∧
        d.get (epReceived n) = c.get (epReceived n)) ∧
      (comes p pk 0 → bound → ¬passed → x.enc = true → tag = false → Completes i s fun t => let d := t.chip
        d.on F.EMGR.STICKY.AUTH_DROP = true ∧ miss d (gap + 1) ∧ d.mailbox = c.mailbox ∧ (d.eep n).seq = some ((pk.seq.toNat + 1) % 65536)) ∧
      (comes p pk 0 → bound → ¬passed → x.enc = false → pk.enc = true ∨ pktBodyOk pk 0 = false → Completes i s fun t => let d := t.chip
        d.on (F.EPORT.STICKY.CRC_ERR p) = true ∧ miss d (gap + 1) ∧ d.mailbox = c.mailbox) ∧
      (comes p pk 0 → bound → ¬passed → (x.enc = true ∧ tag = true ∨ x.enc = false ∧ pk.enc = false ∧ pktBodyOk pk 0 = true) →
        Completes i s fun t => let d := t.chip
          d.st = now ∧ miss d gap ∧ (d.eep n).late = false ∧ d.get (epReceived n) = (plus (epReceived n) 1).2 ∧ (d.eep n).seq = some ((pk.seq.toNat + 1) % 65536) ∧
          (x.enc = true → (d.eep n).pn = pk.pn.toNat) ∧
          ∀ k, k ≤ c.get (F.EMGR.EP_CFG.NWM1 n) →
            Tab.at d.mailbox 0 ((c.get (F.EMGR.EP_CFG.MBX_BASE n) + k) % 256) = (payloadWords pk).getD k 0)) ∧
    (∀ (p : Fin 4) (pk : Pkt), let i : Instr := .elRxMsg p pk
      let n := ep pk
      let ws := payloadWords pk
      let base := c.get (F.EMGR.EP_CFG.RING n) * 256;
      stops i p pk 1 c.st true ∧
      (comes p pk 1 → pktBodyOk pk 1 = true → c.get (F.EMGR.EP_CFG.MODE n) ≠ 2 → Answers i s s c [got p, drop]) ∧
      (comes p pk 1 → pktBodyOk pk 1 = true → c.get (F.EMGR.EP_CFG.MODE n) = 2 → ws.length ≤ 4096 → c.marchSlice = none ∨ c.marchStand = none →
        Completes i s fun t => let d := t.chip
          (∀ k, k < ws.length → d.shmRd ((base + ((c.eep n).ring + k) % 4096) % 2 ^ 20) = ws.getD k 0) ∧
          (d.eep n).ring = ((c.eep n).ring + ws.length) % 4096 ∧ d.get (epReceived n) = (plus (epReceived n) 1).2 ∧ d.mailbox = c.mailbox)) ∧
    (∀ (p : Fin 4) (pk : Pkt), let i : Instr := .elRxMreq p pk
      let b (k : Nat) : Nat := (pk.payload.getD k 0).toNat
      let a := (b 2 * 2 ^ 16 + b 3 * 2 ^ 8 + b 4) / 4 * 4
      let v := wordOf [b 8, b 9, b 10, b 11]
      let u : State := s.onChip fun c => c.inc (whole (R.EPORT.RX_PKTS p))
      let asks := comes p pk 2 ∧ pktBodyOk pk 2 = true ∧ ep pk = 0 ∧ pk.payload.length = 12 ∧ c.portOpen .fabric = true
      let replies (t w : State) (bytes : List Nat) : Prop := t.locks = w.locks ∧ t.chip.st = w.chip.st ∧
        (w.chip.elRoute (from_ pk) = none → t = w) ∧
        ∀ q h, w.chip.elRoute (from_ pk) = some (q, h) → (w.chip.elUp q = false → t = w) ∧
          (w.chip.elUp q = true → sent t.chip q 3 (bytes.map fun n => BitVec.ofNat 8 n) false);
      stops i p pk 2 c.st true ∧
      (comes p pk 2 → pktBodyOk pk 2 = true → ep pk ≠ 0 → Answers i s s c [got p, drop]) ∧
      (asks → b 0 = 1 → Completes i s fun t => replies t (u.readAt (srcCode .fabric) a).2 (mrspBytes 0 (b 1) (u.readAt (srcCode .fabric) a).1)) ∧
      (asks → b 0 = 2 → Completes i s fun t => replies t (u.busWrite .fabric a v) (mrspBytes (u.fabricReason a v) (b 1) 0)) ∧
      (asks → b 0 ≠ 1 → b 0 ≠ 2 → Completes i s fun t => replies t u (mrspBytes rParam (b 1) 0))) ∧
    (∀ (p : Fin 4) (pk : Pkt) (at_ : Nat), let i : Instr := .elRxMrsp p pk at_
      let b (k : Nat) : Nat := (pk.payload.getD k 0).toNat
      let now := max c.st at_
      let u : State := s.onChip fun _ => (with_ now).inc (whole (R.EPORT.RX_PKTS p))
      let here := comes p pk 3 ∧ pktBodyOk pk 3 = true;
      stops i p pk 3 now true ∧ (here → ep pk ≠ 0 → Answers i s s (with_ now) [got p, drop]) ∧
      (∀ ch : Fin 4, here → ep pk = 0 → pk.payload.length = 12 → b 1 = ch → (c.mbxCh ch).dest = from_ pk →
        Completes i s fun t => exec (.mbxReply ch (wordOf [b 8, b 9, b 10, b 11]) (if b 0 = 0 then none else some (pk.payload.getD 2 0))) u = .next t) ∧
      (here → ep pk = 0 → pk.payload.length ≠ 12 ∨ 4 ≤ b 1 ∨ (c.mbxCh (b 1)).dest ≠ from_ pk → Answers i s s (with_ now) [got p])) ∧
    (∀ n : Fin 64, let x := c.eflow n; let per := flowPeriod (c.flK n)
      (c.flState n ≠ 2 → Ignores (.flowCapture n) s ∧ Ignores (.flowSend n) s) ∧ (x.words = none → Ignores (.flowSend n) s) ∧
      (c.flState n = 2 → ∃ now, c.st ≤ now ∧ now < c.st + per ∧ now % per = (c.flPhase n + per - 5120) % per ∧
        Answers (.flowCapture n) s s
          (flow n now { x with words := some ((List.range (c.flNw n)).map fun k => Tab.at c.mailbox 0 (c.flBase n + k)) }) []) ∧
      ∀ ws, c.flState n = 2 → x.words = some ws → ∃ now, c.st ≤ now ∧ now < c.st + per ∧ now % per = c.flPhase n % per ∧
        let rekey := c.flEnc n = true ∧ x.pn = 2 ^ 47
        let y : ElFlow := { x with seq := (x.seq + 1) % 65536, words := none, pn := if rekey then 1 else if c.flEnc n then x.pn + 1 else x.pn,
                                   epoch := if rekey then (x.epoch + 1) % 256 else x.epoch };
        (c.elUp x.port = false → Answers (.flowSend n) s s (flow n now y) []) ∧
        (c.elUp x.port = true → Completes (.flowSend n) s fun t => let d := t.chip
          d.st = now ∧ d.eflow n = y ∧ sent d x.port 0 ((ws.flatMap beBytes).map fun b => BitVec.ofNat 8 b) false ∧
          d.get (whole (win n R.EMGR.FLOW_SENT)) = (plus (whole (win n R.EMGR.FLOW_SENT)) 1).2)) ∧
    (∀ (n : Fin 64) (at_ : Nat), let i : Instr := .flowSinkLimit n at_; let x := c.eep n
      (x.bound = none → Ignores i s) ∧
      (x.bound ≠ none → Answers i s s
        (end_ n (max c.st at_) { x with late := true, seq := if x.late then x.seq.map fun k => (k + 1) % 65536 else x.seq })
        [plus (epMissed n) 1, (F.EMGR.STICKY.FLOW_MISS, 1)])) ∧
    (∀ n : Fin 64, let k (source ok : Bool) : Instr := .elRxKeyx source n ok
      let x := c.eep n
      let y : ElEp := { x with pn := 0, epoch := if x.pn = 0 then x.epoch else (x.epoch + 1) % 256 };
      (c.fenced = true → ∀ source ok, Ignores (k source ok) s) ∧
      (c.fenced = false → Ignores (k false false) s ∧ (c.flState n ≠ 1 → Ignores (k true false) s) ∧
        (c.flState n = 1 → Completes (k true false) s fun t =>
          t.chip.flState n = 0 ∧ t.chip.rd R.EMGR.FLOW_RESULT = wd (1 + 0x81 * 256 + n * 65536)) ∧
        Answers (k true true) s s (flow n c.st { c.eflow n with pn := 1 }) [] ∧
        (x.bound ≠ none ∧ x.enc = true → Answers (k false true) s s (end_ n c.st y) []) ∧
        (x.bound = none ∨ x.enc = false → Ignores (k false true) s))) ∧
    ∀ (src : Source) (len : BitVec 11), let a := R.EMGR.MSG_CMD; s.Lets src a → let i : Instr := .msgSend src len
      let n := len.toNat
      let d := bits (c.rd R.EMGR.MSG_DST) 0 24
      let busy := c.on F.EMGR.MSG_STAT.BUSY
      let ok := busy = false ∧ 4 ≤ n ∧ n ≤ 1024 ∧ d / 2 ^ 20 = 0
      let stat := whole R.EMGR.MSG_STAT
      let payload := (c.msgBytes n).map fun b => BitVec.ofNat 8 b;
      (busy = true → RefusesWrite i s src a rState false) ∧
      (busy = false → ¬ok → Answers i s (s.spent a) c [(stat, 4 + rParam * 256)]) ∧
      (ok → c.elD ≠ dsReady → Completes i s fun t =>
        t.chip.get stat = 1 ∧ (t.chip.el.msg.map fun y => (y.payload, y.dst.toNat)) = some (payload, d) ∧ t.chip.ports = c.ports) ∧
      (ok → c.elD = dsReady → c.elRoute (d / 64 % 2 ^ 14) = none → Answers i s (s.spent a) c [(stat, 4 + rNoPath * 256)]) ∧
      ∀ (q : Fin 4) (h : Nat), ok → c.elD = dsReady → c.elRoute (d / 64 % 2 ^ 14) = some (q.val, h) →
        let now := (c.eport q).waiting = [] ∧ (20 + n + 63) / 64 ≤ c.get (elCredits q);
        (now → Completes i s fun t => sent t.chip q 1 payload false ∧ t.chip.get stat = 2) ∧
        (¬now → Completes i s fun t => (t.chip.eport q).tx = (c.eport q).tx ∧ t.chip.get stat = 1 ∧
          ((t.chip.eport q).waiting.getLast?.map fun y => y.2.2.payload) = some payload)

/-- Reservations (R431–R434). -/
def Obligations.ReservationsOpenAndCloseFlows : Prop :=
  ∀ s : State, let c := s.chip; let e := c.el
    let own := c.elOwn
    let sent (d : Chip) (p ptype : Nat) (payload : List (BitVec 8)) : Prop :=
      (d.eport p).tx.map (fun y => (y.ptype, y.pkt.payload, y.at_, y.aborted)) = some (ptype, payload, d.st, false)
    let got (p : Fin 4) : Fld × Nat := (whole (R.EPORT.RX_PKTS p), min ((c.rd (R.EPORT.RX_PKTS p)).toNat + 1) (2 ^ 32 - 1))
    let is (n dev : Nat) (w : ElWin) : Bool := w.dev == dev && w.flow == n
    let released (d : Chip) (n dev : Nat) : Prop := ∀ p : Fin 4, (d.eport p).wins = (c.eport p).wins.filter fun w => !is n dev w
    let committed (d : Chip) (n dev : Nat) : Prop :=
      ∀ p : Fin 4, (d.eport p).wins = (c.eport p).wins.map fun w => if is n dev w then { w with held := none } else w
    let result (n : Fin 64) (reason : Nat) (accept : Bool) : Nat := 1 + accept.toNat * 2 + reason * 256 + n * 65536
    let reasonF (n : Fin 64) : Fld := F.EMGR.FLOW_STAT.REASON.win n
    (∀ (src : Source) (n : Fin 64) (test : Bool), s.Lets src R.EMGR.FLOW_CMD → let i : Instr := if test then .flowTestOnly src n else .flowOpen src n
      let base := s.spent R.EMGR.FLOW_CMD
      let k := c.flK n
      let dst := c.flDst n
      let way := c.elRoute (dst / 64)
      let hops := (way.map fun r => r.2).getD 0
      let inRange := k ≤ 13 ∧ c.flPhase n < flowPeriod k ∧ c.flBase n + c.flNw n ≤ 256 ∧ dst / 2 ^ 20 = 0 ∧ dst % 64 ≠ 0 ∧ dst % 64 ≠ 63
      let why : Option Nat := if c.elD ≠ dsReady ∨ c.flState n = 1 ∨ c.flState n = 2 then some rState else if ¬inRange then some rParam
        else if way = none ∨ c.get F.EMGR.MGR_CFG.HOP_MAX < hops then some rNoPath else if c.on F.EMGR.TIME_STAT.LOCKED = false then some 0x82
        else if c.flEnc n = true ∧ c.fenced = true then some rState else none
      let c1 := if c.flState n = 3 then c.elRelease own n else c
      let at_ := flowWindow k (c.flPhase n) 1 (flowBlocks (c.flNw n) (c.flEnc n))
      let w : ElWin := { dev := own, flow := n, start := at_.1, len := at_.2, k := k, held := some c.st, back := 4, test := test }
      (∀ r, why = some r → Answers i s base c [(whole R.EMGR.FLOW_RESULT, result n r false), (reasonF n, r)]) ∧
      ∀ (q : Fin 4) (h : Nat), why = none → way = some (q.val, h) →
        let r := c1.elTestLink q w;
        (r ≠ 0 → Answers i s { base with chip := c1 } c1 [(whole R.EMGR.FLOW_RESULT, result n r false), (reasonF n, r)]) ∧
        (r = 0 → Completes i s fun t => let d := t.chip
          (d.eport q).wins = (c1.eport q).wins ++ [w] ∧ (∀ p : Fin 4, p ≠ q → d.eport p = c1.eport p) ∧ sent d q 4 [] ∧
          d.rd R.EMGR.FLOW_RESULT = wd (n * 65536) ∧ (d.eflow n).hops = h ∧ (d.eflow n).port = q.val ∧ (d.eflow n).path = elPath e.topo own (dst / 64) ∧
          (test = false → d.flState n = 1 ∧ d.get (F.EMGR.FLOW_STAT.FLOW_ID.win n) = n) ∧ (test = true → d.flState n = c.flState n))) ∧
    (∀ (src : Source) (n : Fin 64), s.Lets src R.EMGR.FLOW_CMD → let i : Instr := .flowClose src n
      (c.elD ≠ dsReady → Answers i s (s.spent R.EMGR.FLOW_CMD) c [(whole R.EMGR.FLOW_RESULT, result n rState false), (reasonF n, rState)]) ∧
      (c.elD = dsReady → Completes i s fun t => let d := t.chip
        d.flState n = 0 ∧ released d n own ∧ d.eflow n = {} ∧ d.rd R.EMGR.FLOW_RESULT = wd (result n 0 true) ∧
        ∀ (q : Fin 4) (h : Nat), c.elRoute (c.flDst n / 64) = some (q.val, h) → sent d q 4 [])) ∧
    (∀ (p : Fin 4) (rq : Resv) (keyOk : Bool), let i : Instr := .elRxResv p rq keyOk
      let dst := rq.sink.toNat / 64 % 2 ^ 14
      let n := rq.sink.toNat % 64
      let x := c.eep n
      let up := c.elState p = epUp
      let mine := c.elAddr = some dst
      let who := (rq.dev.toNat, rq.flow.val)
      let bad : Nat := if n = 0 ∨ n = 63 ∨ c.get (F.EMGR.EP_CFG.MODE n) ≠ 1 ∨ c.get (F.EMGR.EP_CFG.NWM1 n) ≠ rq.nw ∨
          ¬(x.bound = none ∨ x.bound = some who) ∨ c.on (F.EMGR.EP_CFG.ENC_REQ n) = true ∧ rq.enc = false then 0x80
        else if rq.enc = true ∧ (keyOk = false ∨ c.fenced = true) then 0x81 else 0
      let answers (d : Chip) (r : Nat) : Prop := sent d p 5 [BitVec.ofNat 8 r] ∧ d.get (got p).1 = (got p).2
      (¬up → Ignores i s) ∧
      (up → mine → rq.kind = .open_ → Completes i s fun t => answers t.chip bad ∧ t.chip.mailbox = c.mailbox ∧
        t.chip.eep n = if bad = 0 then { x with bound := some who, enc := rq.enc, seq := none, pn := 0, epoch := 0, late := false } else x) ∧
      (up → mine → rq.kind = .test → Completes i s fun t => answers t.chip bad ∧ t.chip.el = e) ∧
      (let known := ∃ y ∈ e.pairs, y.dest = rq.dev.toNat
        let full := 8 ≤ (c.eport p).mgmt.length
        up → mine → rq.kind = .mgmt →
          (known → Completes i s fun t => answers t.chip 0 ∧ t.chip.el = e ∧ (t.chip.eport p).mgmt = (c.eport p).mgmt) ∧
          (¬known → full → Completes i s fun t => answers t.chip rOverUtil ∧ t.chip.el = e ∧ (t.chip.eport p).mgmt = (c.eport p).mgmt) ∧
          (¬known → ¬full → Completes i s fun t => answers t.chip 0 ∧ (∃ y ∈ t.chip.el.pairs, y.dest = rq.dev.toNat) ∧
            (t.chip.eport p).mgmt = (c.eport p).mgmt ++ [(own, rq.dev.toNat)])) ∧
      (up → mine → rq.kind = .close → (x.bound ≠ some who → OnlyShows i s [got p]) ∧
        (x.bound = some who → Answers i s s { c with el := { e with eps := Tab.set e.eps {} n { ring := x.ring } } } [got p])) ∧
      (up → ¬mine → c.elRoute dst = none → Completes i s fun t => answers t.chip rNoPath ∧ t.chip.el = e) ∧
      ∀ (q : Fin 4) (h : Nat), up → ¬mine → c.elRoute dst = some (q.val, h) →
        (rq.kind = .close → Completes i s fun t => released t.chip rq.flow rq.dev.toNat ∧ sent t.chip q 4 []) ∧
        (rq.kind = .mgmt → 8 ≤ (c.eport q).mgmt.length ∨ 8 ≤ (c.eport p).mgmt.length → Completes i s fun t => answers t.chip rOverUtil ∧ (t.chip.eport q).mgmt = (c.eport q).mgmt) ∧
        (rq.kind = .mgmt → (c.eport q).mgmt.length < 8 → (c.eport p).mgmt.length < 8 → Completes i s fun t => let d := t.chip
          (q ≠ p → (d.eport q).mgmt = (c.eport q).mgmt ++ [(rq.dev.toNat, dst)] ∧ (d.eport p).mgmt = (c.eport p).mgmt ++ [(dst, rq.dev.toNat)]) ∧
          (q = p → (d.eport p).mgmt = (c.eport p).mgmt ++ [(rq.dev.toNat, dst), (dst, rq.dev.toNat)]) ∧ sent d q 4 []) ∧
        (rq.kind = .open_ ∨ rq.kind = .test →
          let at_ := flowWindow rq.k rq.phase.toNat rq.hop.toNat (flowBlocks (rq.nw.val + 1) rq.enc)
          let w : ElWin := { dev := rq.dev.toNat, flow := rq.flow, start := at_.1, len := at_.2, k := rq.k, held := some c.st, back := p,
                             test := decide (rq.kind = .test) }
          let r := c.elTestLink q w;
          (r ≠ 0 → Completes i s fun t => answers t.chip r ∧ (t.chip.eport q).wins = (c.eport q).wins) ∧
          (r = 0 → Completes i s fun t => (t.chip.eport q).wins = (c.eport q).wins ++ [w] ∧ sent t.chip q 4 []))) ∧
    (∀ (p : Fin 4) (kind : ResvKind) (dev : BitVec 14) (n : Fin 64) (reason : BitVec 8) (sm : Nat),
      let i : Instr := .elRxResvAck p kind dev n reason sm
      let up := c.elState p = epUp
      let mine := c.elAddr = some dev.toNat
      let x := c.eflow n
      let peer := bits (c.rd R.EMGR.MGMT_PEND) 0 14
      let busy := c.on F.EMGR.MGMT_PEND.BUSY = true
      let settled (d : Chip) : Prop := d.rd R.EMGR.FLOW_RESULT = wd (result n reason.toNat (reason == 0)) ∧ d.get (got p).1 = (got p).2
      (¬up → Ignores i s) ∧
      (up → mine → kind = .close ∨ kind = .open_ ∧ c.flState n ≠ 1 ∨ kind = .mgmt ∧ ¬busy → OnlyShows i s [got p]) ∧
      (up → mine → kind = .test → Completes i s fun t => released t.chip n dev.toNat ∧ settled t.chip) ∧
      (up → mine → kind = .open_ → c.flState n = 1 → reason = 0 → Completes i s fun t => let d := t.chip
        d.flState n = 2 ∧ committed d n dev.toNat ∧ settled d ∧ d.eflow n = { x with seq := 0, pn := 1, epoch := 0, words := none } ∧
        d.rd (win n R.EMGR.FLOW_BOUND) = wd (flowBound x.hops (c.flNw n) (c.flEnc n))) ∧
      (up → mine → kind = .open_ → c.flState n = 1 → reason ≠ 0 → Completes i s fun t =>
        t.chip.flState n = 0 ∧ released t.chip n dev.toNat ∧ settled t.chip) ∧
      (up → mine → kind = .mgmt → busy → Completes i s fun t => t.chip.rd R.EMGR.MGMT_PEND = 0 ∧ t.chip.el.pairs =
        if reason = 0 then e.pairs.map fun y => if y.dest == peer then { y with isOpen := true, rest := sm } else y else e.pairs.filter fun y => y.dest != peer) ∧
      (up → ¬mine → kind = .open_ → reason = 0 → Completes i s fun t => committed t.chip n dev.toNat) ∧
      (up → ¬mine → kind = .test ∨ kind = .open_ ∧ reason ≠ 0 → Completes i s fun t => released t.chip n dev.toNat) ∧
      (up → ¬mine → kind = .close ∨ kind = .mgmt → Completes i s fun t => t.chip.el = e ∧ t.chip.get (got p).1 = (got p).2) ∧
      ∀ (q b : Fin 4) w, up → ¬mine → (∀ r, r < q → ∀ y ∈ (c.eport r).wins, is n dev.toNat y = false) →
        (c.eport q).wins.find? (is n dev.toNat) = some w → w.back = b → Completes i s fun t => sent t.chip b 5 [reason]) ∧
    ∀ (p : Fin 4) (dev : BitVec 14) (n : Fin 64), let i : Instr := .resvTentativeExpire p dev n
      let held (w : ElWin) : Bool := is n dev.toNat w && w.held.isSome;
      ((c.eport p).wins.find? held = none → Ignores i s) ∧
      ∀ w u, (c.eport p).wins.find? held = some w → w.held = some u → Completes i s fun t => let d := t.chip
        d.st = max c.st (u + 10 * Config.ms) ∧ (d.eport p).wins = (c.eport p).wins.filter (fun y => !held y) ∧
        d.el = e ∧ (∀ q, q ≠ p.val → d.eport q = c.eport q) ∧ c.Keeps d [whole (R.EPORT.RES_OCC p)]

/-- The SEC page (R438, R439, R447). -/
def Obligations.SecurityEngineKeepsKeysAndSigns : Prop :=
  ∀ s : State, let c := s.chip; let x := c.sec
    let state : Fld := ⟨R.SEC.STATUS, 5, 3⟩
    let fenced := c.get state = 2
    let slot := bits (c.rd R.SEC.KEY_SEL) 0 4
    let k := bits (c.rd R.SEC.KEY_ADDR) 0 4
    let words := if slot < 8 then 16 else 8
    let stop : Option Nat := if fenced then some rState else if 12 ≤ slot then some rParam
      else if slot ∈ x.locked ∨ c.get state ≠ 0 then some rState else none
    let written := x.buf.filter fun e => e.1 / 16 == slot
    (∀ (src : Source) (v : Word), let a := R.SEC.KEY_DATA; s.Lets src a → let i : Instr := .keyDataWrite src v;
      (∀ r, stop = some r → RefusesWrite i s src a r false) ∧ (stop = none → words ≤ k → RefusesWrite i s src a rParam false) ∧
      (stop = none → k < words →
        Answers i s (s.spent a) { c with sec := { x with buf := Tab.put x.buf (slot * 16 + k) v } } [(whole R.SEC.KEY_ADDR, (k + 1) % 16)])) ∧
    (∀ src : Source, let a := R.SEC.KEY_CMD; s.Lets src a →
      (let i : Instr := .keyLoad src;
        (∀ r, stop = some r → RefusesWrite i s src a r false) ∧
        (stop = none → written.length < words → Answers i s (s.spent a) c
          [(hSticky R.SEC.ID 0, 1), (hSticky R.SEC.ID 2, 1),
           (whole R.SEC.ERRINFO, rParam + aOff a / 4 * 2 ^ 8 + srcCode src * 2 ^ 19 + min (c.get (hRejCnt R.SEC.ID) + 1) 255 * 2 ^ 24)]) ∧
        (stop = none → words ≤ written.length → Completes i s fun t => let y := t.chip.sec
          slot ∈ y.loaded ∧ (∀ n, n ≠ slot → (n ∈ y.loaded ↔ n ∈ x.loaded)) ∧ y.locked = x.locked ∧
          (∀ e ∈ written, (∀ e' ∈ written, e'.1 = e.1 → e' = e) → Tab.find y.keys e.1 = some e.2) ∧
          (∀ n, n / 16 ≠ slot → Tab.find y.keys n = Tab.find x.keys n ∧ Tab.find y.buf n = Tab.find x.buf n) ∧
          ∀ n, n / 16 = slot → Tab.find y.buf n = none)) ∧
      (let i : Instr := .keyLock src;
        (fenced → RefusesWrite i s src a rState false) ∧ (¬fenced → 12 ≤ slot → RefusesWrite i s src a rParam false) ∧
        (¬fenced → slot < 12 → slot ∈ x.locked → Answers i s (s.spent a) c []) ∧
        (¬fenced → slot < 12 → slot ∉ x.locked → Completes i s fun t =>
          t.chip.sec = { x with locked := slot :: x.locked } ∧ t.chip.st = c.st ∧ t.chip.get state = c.get state)) ∧
      (let i : Instr := .provClose src;
        (fenced → RefusesWrite i s src a rState false) ∧
        (¬fenced → Answers i s (s.spent a) { c with sec := { x with closed := true } } [(state, 1)]))) ∧
    (∀ src : Source, let a := R.SEC.ATT_CMD; s.Lets src a → let i : Instr := .attCmd src
      let busy := bits (c.rd R.SEC.ATT_STAT) 0 1 = 1;
      (busy → RefusesWrite i s src a rState false) ∧
      (¬busy → fenced → Answers i s (s.spent a) c [(whole R.SEC.ATT_STAT, rState * 256)]) ∧
      (¬busy → ¬fenced → Answers i s (s.spent a) c [(whole R.SEC.ATT_STAT, 1)])) ∧
    (bits (c.rd R.SEC.ATT_STAT) 0 1 = 0 → Ignores .attDone s) ∧
    (bits (c.rd R.SEC.ATT_STAT) 0 1 = 1 → Answers .attDone s s { c with fresh := c.fresh + 16 }
      ((List.range 16).map (fun n => (whole (R.SEC.ATT_SIG n), (Config.freeWord (c.fresh + n)).toNat)) ++
        [(whole R.SEC.ATT_STAT, 2), (hSticky R.SEC.ID 1, 1)])) ∧
    ∀ src : Source,
      (c.portOpen src = false → ∀ b, Ignores (.rngRead src b) s) ∧
      (c.portOpen src = true →
        Answers (.rngRead src true) s s { c with out := [0] } [(hSticky R.SEC.ID 3, 1)] ∧
        Answers (.rngRead src false) s s { c with sec := { x with drawn := x.drawn + 1 }, out := [Config.randomWord x.drawn] } [])

/-- Banks and host access to memories (R110–R121, R470, R477). -/
def Obligations.BanksAndMemoriesAreReachedByTheHost : Prop :=
  ∀ s : State, let c := s.chip
    let b := 1 - (match c.active with | some b => b | none => bits (c.rd R.NVM.ACTIVE_BANK) 0 1)
    let valid (b : Nat) : Fld := ⟨R.NVM.BANK_STAT, b, 1⟩
    let m := if b = 0 then c.bankA else c.bankB
    let gen := if b = 0 then c.genA else c.genB
    (∀ (src : Source) (v : Word), let a := R.NVM.PROG_DATA; s.Lets src a →
      let k := bits (c.rd R.NVM.PROG_ADDR) 2 20;
      Answers (.progDataWrite src v) s (s.spent a)
        (if b = 0 then { c with bankA := Tab.set c.bankA 0 k v, genA := c.genA + 1 } else { c with bankB := Tab.set c.bankB 0 k v, genB := c.genB + 1 })
        [(valid b, 0), (whole R.NVM.PROG_ADDR, (k + 1) % 2 ^ 20 * 4)]) ∧
    (∀ src : Source, let a := R.NVM.AUTH_CMD; s.Lets src a → let i : Instr := .authCmd src;
      (c.on F.NVM.AUTH_STAT.BUSY = true → RefusesWrite i s src a rState false) ∧
      (c.on F.NVM.AUTH_STAT.BUSY = false → Answers i s (s.spent a) c [(whole R.NVM.AUTH_STAT, 1), (F.NVM.BANK_STAT.AUTH_BUSY, 1)])) ∧
    (∀ at_, let i : Instr := .authDone at_
      let slot := bundleKey m
      let sig (k : Nat) : Nat := beNat ((List.range 32).map fun j => bankByte m (bundleLen m - 64 + 32 * k + j))
      let signed := slot < 8 ∧ slot ∈ c.sec.loaded ∧ c.get ⟨R.SEC.STATUS, 5, 3⟩ ≠ 2 ∧
        ecdsaOk (c.keyNumber slot 0 8) (c.keyNumber slot 8 8) (beNat (bundleDigest m)) (sig 0) (sig 1) = true
      let r := if digestOk m = false then 1 else if ¬signed then 2 else if bundleOk m 255 = false then 3
        else if bits (c.rd R.SYS.DEV_REV) 0 8 < bundleDieRev m then 4 else 0;
      (c.on F.NVM.AUTH_STAT.BUSY = false → Ignores i s) ∧
      (c.on F.NVM.AUTH_STAT.BUSY = true → r ≠ 0 → Answers i s s { c with st := max c.st at_ }
        [(whole R.NVM.AUTH_STAT, 2 + r * 256), (F.NVM.BANK_STAT.AUTH_BUSY, 0), (hSticky R.NVM.ID 2, 1), (valid b, 0)]) ∧
      (c.on F.NVM.AUTH_STAT.BUSY = true → r = 0 → Completes i s fun t => let d := t.chip
        d.get (whole R.NVM.AUTH_STAT) = 6 ∧ d.on F.NVM.BANK_STAT.AUTH_BUSY = false ∧ d.on (hSticky R.NVM.ID 1) = true ∧ d.on (valid b) = true ∧
        (if b = 0 then d.sealA else d.sealB) = some { digest := bundleDigest m, gen := gen } ∧
        (if b = 0 then d.sealB = c.sealB else d.sealA = c.sealA) ∧ d.bankA = c.bankA ∧ d.bankB = c.bankB)) ∧
    (∀ src : Source, let a := R.NVM.VER_CMD; s.Lets src a → let i : Instr := .commitVersion src;
      (c.active = none → RefusesWrite i s src a rState false) ∧
      ∀ n, c.active = some n → let v := bundleVersion (if n = 0 then c.bankA else c.bankB)
        (v ≤ (c.rd R.NVM.MIN_VERSION).toNat → Answers i s (s.spent a) c []) ∧
        ((c.rd R.NVM.MIN_VERSION).toNat < v → Completes i s fun t =>
          (t.chip.rd R.NVM.MIN_VERSION).toNat = v ∧ t.chip.active = c.active ∧ t.chip.st = c.st)) ∧
    (∀ (src : Source) (p : Fin 36) (v : Word), let a := R.CLE.DMEM_DATA p; s.Lets src a → let i : Instr := .dmemWrite src p v
      let k := bits (c.rd (R.CLE.DMEM_ADDR p)) 0 13
      let at_ (l : Nat) : Bool := c.get ((F.LPD.LPD_STATE.PAIR).win l) == p.val && decide (c.dbase l ≤ k) && decide (k < c.dbase l + c.dlen l)
      let x := c.pair p
      let y : PairSt := { x with dmemA := Tab.set x.dmemA 0 k v, dmemB := Tab.set x.dmemB 0 k v, poison := x.poison.filter fun n => n != k };
      (∀ l, c.admitted.find? at_ = some l → c.get (fState l) ≠ lsOpen → RefusesWrite i s src a rState true) ∧
      ((∀ l, c.admitted.find? at_ = some l → c.get (fState l) = lsOpen) →
        Answers i s (s.spent a) (c.setPair p y) [(whole (R.CLE.DMEM_ADDR p), (k + 1) % 8192)])) ∧
    (∀ (src : Source) (p : Fin 36) (v : Word), let a := R.CLE.SHM_DATA p; s.Lets src a → let i : Instr := .shmWrite src p v
      let k := bits (c.rd (R.CLE.SHM_ADDR p)) 0 20
      let next := [(whole (R.CLE.SHM_ADDR p), (k + 1) % 2 ^ 20)]
      let march := c.marchSlice = some (k / 1024) ∨ c.marchStand = some (k / 1024);
      (march → Answers i s (s.spent a) { c with marchBuf := Tab.set c.marchBuf 0 (k % 1024) v } next) ∧
      (¬march → Answers i s (s.spent a) { c with shm := Tab.set c.shm 0 k v } next)) ∧
    (∀ (src : Source) (p : Fin 36), let a := R.CLE.SLOT_CLR p; s.Lets src a → Answers (.slotClear src p) s (s.spent a) c
      [(whole (win (bits (c.rd (R.CLE.SLOT_SEL p)) 0 4) (R.CLE.SLOT_WU_MAX p)), 0)]) ∧
    ∀ (src : Source) (p : Fin 36),
      (c.portOpen src = false → Ignores (.dmemRead src p) s ∧ Ignores (.pmemRead src p) s ∧ ∀ f, Ignores (.shmRead src p f) s) ∧
      (c.portOpen src = true →
        let d := bits (c.rd (R.CLE.DMEM_ADDR p)) 0 13
        let q := bits (c.rd (R.CLE.PMEM_ADDR p)) 0 14
        let h := bits (c.rd (R.CLE.SHM_ADDR p)) 0 20
        let next := (whole (R.CLE.SHM_ADDR p), (h + 1) % 2 ^ 20)
        let ecc := whole (R.CLE.ECC_INFO p)
        Answers (.dmemRead src p) s s { c with out := [Tab.at (c.pair p).dmemA 0 d] } [(whole (R.CLE.DMEM_ADDR p), (d + 1) % 8192)] ∧
        Answers (.pmemRead src p) s s { c with out := [Tab.at (c.pair p).pmemA 0 q] } [(whole (R.CLE.PMEM_ADDR p), (q + 1) % 16384)] ∧
        Answers (.shmRead src p .single) s s { c with out := [c.shmRd h] } [next, (ecc, h), (F.CLE.STICKY.ECC_CE p, 1)] ∧
        Answers (.shmRead src p .double) s s { c with out := [0] } [next, (ecc, h + 2 ^ 20), (F.CLE.STICKY.ECC_DED p, 1)] ∧
        ∀ f, f ≠ .single → f ≠ .double → Answers (.shmRead src p f) s s { c with out := [c.shmRd h] } [next])

/-- CAN and Ethernet (R440–R442, R445, R446). -/
def Obligations.VehicleNetworksSendAndReceive : Prop :=
  ∀ s : State, let c := s.chip
    let with_ (st : Nat) : Chip := { c with st := st }
    let plus (f : Fld) : Fld × Nat := (f, min (c.get f + 1) (2 ^ f.len - 1))
    (∀ n : Fin 3, let x := c.can n
      let mode := c.rd (R.CANX.CAN_MODE n)
      let on := c.get (hState (R.CANX.ID n)) = 1
      (∀ (src : Source) (mask : Word), let a := R.CANX.TX_REQ n; s.Lets src a →
        Answers (.canTxRequest src n mask) s (s.spent a) c [(whole a, (c.rd a ||| mask).toNat)]) ∧
      (∀ (b : Fin 32) (at_ : Nat), let i : Instr := .canTxDone n b at_
        let req := bitOf (R.CANX.TX_REQ n) b
        let sends := on ∧ c.on req = true ∧ bits mode 3 1 = 0 ∧ bits mode 5 1 = 0;
        (¬sends → Ignores i s) ∧
        (sends → Answers i s s (with_ (max c.st at_)) [(req, 0), (bitOf (R.CANX.TX_DONE n) b, 1), (hSticky (R.CANX.ID n) 2, 1)])) ∧
      (∀ (len : Fin 2049) (at_ : Nat), let i (fifo : Option Bool) : Instr := .canRxFrame n fifo len at_
        let longest := if bits mode 1 1 = 1 then 2048 else if bits mode 0 1 = 1 then 64 else 8
        let takes := on ∧ len.val ≤ longest
        let now := max c.st at_;
        (¬takes → ∀ fifo, Ignores (i fifo) s) ∧ (takes → Answers (i none) s s (with_ now) []) ∧
        ∀ one : Bool, let put := if one then x.put1 else x.put0
          let fill := (put + 128 - if one then x.get1 else x.get0) % 128
          (takes → 64 ≤ fill → Answers (i (some one)) s s (with_ now) [(hSticky (R.CANX.ID n) 5, 1)]) ∧
          (takes → fill < 64 → Completes (i (some one)) s fun t => let d := t.chip; let y := d.can n
            let k := Config.canHeader + (len.val + 3) / 4
            let z : CanSt := if one then { x with put1 := (put + 1) % 128 } else { x with put0 := (put + 1) % 128 }
            y = { z with mem := y.mem } ∧ d.st = now ∧ d.fresh = c.fresh + k ∧ d.on (hSticky (R.CANX.ID n) 1) = true ∧
            d.rd (R.CANX.RXF_STAT n) = wd ((z.put0 + 128 - z.get0) % 128 + (z.put1 + 128 - z.get1) % 128 * 65536) ∧
            ∀ w, (∀ j, j < k → w ≠ (Config.canElement one.toNat (put % 64) + j) % 4096) → Tab.at y.mem 0 w = Tab.at x.mem 0 w)) ∧
      ∀ src : Source, let k := bits (c.rd (R.CANX.MSG_ADDR n)) 2 12
        let next := [(whole (R.CANX.MSG_ADDR n), (k + 1) % 4096 * 4)]
        let a := R.CANX.MSG_DATA n;
        (∀ v : Word, s.Lets src a → Answers (.canMsgAccess src n (some v)) s (s.spent a)
          { c with cans := Tab.set c.cans {} n { x with mem := Tab.set x.mem 0 k v } } next) ∧
        (c.portOpen src = false → Ignores (.canMsgAccess src n none) s) ∧
        (c.portOpen src = true → Answers (.canMsgAccess src n none) s s { c with out := [Tab.at x.mem 0 k] } next)) ∧
    ∀ n : Fin 2, let en := c.on (hEn (R.ETH.ID n))
      let act := (hState (R.ETH.ID n), 2)
      let filt := c.rd (R.ETH.TS_FILT n)
      let match_ (k : TsKind) : Bool := match k with | .layer2 => bits filt 0 1 == 1 | .udp4 => bits filt 1 1 == 1 | .udp6 => bits filt 2 1 == 1 | .other => false
      let stamp (k : TsKind) (lo hi flag at_ : Nat) : List (Fld × Nat) :=
        if match_ k then [(whole lo, at_ % 2 ^ 32), (whole hi, at_ / 2 ^ 32 % 2 ^ 32), (hSticky (R.ETH.ID n) flag, 1)] else []
      (∀ (dst : BitVec 48) (len : Fin 1523) (k : TsKind) (descOk : Bool) (at_ : Nat), let i : Instr := .ethRxFrame n dst len k descOk at_
        let ts := stamp k (R.ETH.TS_RX_LO n) (R.ETH.TS_RX_HI n) 3 at_
        let size := bits (c.rd (R.ETH.RX_RING n)) 24 8
        let head := bits (c.rd (R.ETH.RING_IDX n)) 16 8
        let room := size ≠ 0 ∧ descOk = true
        let now := max c.st at_;
        (en = false → Ignores i s) ∧
        (en = true → c.ethPasses n dst = false → Answers i s s (with_ now) [act]) ∧
        (en = true → c.ethPasses n dst = true → ¬room → Answers i s s (with_ now) (act :: ts ++ [(hSticky (R.ETH.ID n) 5, 1)])) ∧
        (en = true → c.ethPasses n dst = true → room → Completes i s fun t => let d := t.chip
          let k := (len.val + 3) / 4
          d.st = now ∧ d.fresh = c.fresh + k ∧ (∀ f ∈ act :: ts, d.get f.1 = f.2) ∧ d.get ⟨R.ETH.RING_IDX n, 16, 8⟩ = (head + 1) % size ∧
          d.get ⟨R.ETH.FRM_CNT n, 16, 16⟩ = (plus ⟨R.ETH.FRM_CNT n, 16, 16⟩).2 ∧ d.on (hSticky (R.ETH.ID n) 1) = true ∧
          (c.marchSlice = none ∨ c.marchStand = none →
            ∀ w, (∀ j, j < k → w ≠ (Config.ethBuffer n head + j) % 2 ^ 20) → d.shmRd w = c.shmRd w))) ∧
      (∀ (len : Fin 1523) (k : TsKind) (at_ : Nat), let i : Instr := .ethTxFrame n len k at_
        let size := bits (c.rd (R.ETH.TX_RING n)) 24 8
        let tail := bits (c.rd (R.ETH.RING_IDX n)) 8 8;
        (en = false ∨ size = 0 → Ignores i s) ∧
        (en = true → size ≠ 0 → Answers i s s (with_ (max c.st at_)) (act :: stamp k (R.ETH.TS_TX_LO n) (R.ETH.TS_TX_HI n) 4 at_ ++
          [(⟨R.ETH.RING_IDX n, 8, 8⟩, (tail + 1) % size), plus ⟨R.ETH.FRM_CNT n, 0, 16⟩, (hSticky (R.ETH.ID n) 2, 1)]))) ∧
      (∀ (src : Source) (v : Word), let a := R.ETH.MDIO_CMD n; s.Lets src a → let i : Instr := .mdioCmd src n v
        let busy := bits (c.rd (R.ETH.MDIO_STAT n)) 0 1 = 1;
        (busy → RefusesWrite i s src a rState false) ∧
        (¬busy → Answers i s (s.spent a) { c with mdio := Tab.put c.mdio n v } [(⟨R.ETH.MDIO_STAT n, 0, 1⟩, 1)])) ∧
      ∀ data : BitVec 16, let i : Instr := .mdioDone n data
        let done : Chip := { c with mdio := Tab.del c.mdio n }
        let busy : Fld := ⟨R.ETH.MDIO_STAT n, 0, 1⟩;
        (Tab.find c.mdio n = none → Ignores i s) ∧
        ∀ v, Tab.find c.mdio n = some v →
          (bits v 10 1 = 1 → Answers i s s done [(busy, 0)]) ∧
          (bits v 10 1 = 0 → Answers i s s done [(busy, 0), (⟨R.ETH.MDIO_STAT n, 16, 16⟩, data.toNat)])

/-- Consent to a clear of the safety partition (R460). -/
def Obligations.SafetyClearNeedsConsent : Prop :=
  ∀ (s : State) (src : Source), let c := s.chip; let i : Instr := .clearGo src
    s.Lets src R.EVREC.CLR_CMD →
    let n := c.get F.EVREC.CLR_CFG.PART
    let slot := 8 + c.get F.EVREC.CLR_CFG.KEY
    let bytes (f : Nat → Word) : List Nat := (List.range 8).flatMap fun k => beBytes (f k)
    let mac := hmac (bytes fun k => Tab.at c.sec.keys 0 (slot * 16 + k))
      (bytes (fun k => c.rd (R.EVREC.CLR_NONCE k)) ++ [n] ++ beBytes (c.rd R.SYS.UID_HI) ++ beBytes (c.rd R.SYS.UID_LO))
    let auth := c.get ⟨R.SEC.STATUS, 5, 3⟩ ≠ 2 ∧ (c.wipe.nonceAt.any fun t => decide (c.st < t + 10 * Config.sec)) = true ∧ c.wipe.stale = false ∧ slot ∈ c.sec.loaded ∧ n ≠ 3 ∧
      bytes (fun k => c.rd (R.EVREC.CLR_MAC k)) = mac
    let consent := c.get (hState R.ISN.ID) = 0 ∧ c.on F.SAFE.STO_STAT.CUT_A = true ∧ c.on F.SAFE.STO_STAT.CUT_B = true ∧
      c.on F.SAFE.PARK_STAT.ENGAGE_OK = true
    let fails := min 15 (c.get F.EVREC.CLR_STAT.FAILS + 1)
    let intact (d : Chip) (m : Nat) : Prop :=
      (d.part m).slots = (c.part m).slots ∧ (d.part m).head = (c.part m).head ∧ (d.part m).firstSeq = (c.part m).firstSeq
    (n = 0 → ¬consent → Completes i s fun t => let d := t.chip
      d.get F.EVREC.CLR_STAT.STATE = 3 ∧ d.get F.EVREC.CLR_STAT.REASON = rSafety ∧ d.wipe.nonceAt = none ∧ ∀ m, intact d m) ∧
    (¬auth → Completes i s fun t => let d := t.chip
      d.get F.EVREC.CLR_STAT.STATE = 3 ∧ d.on F.EVREC.STICKY.CLR_FAIL = true ∧ d.get F.EVREC.CLR_STAT.FAILS = fails ∧
      d.wipe.nonceAt = none ∧ (3 ≤ fails → d.wipe.lockAt = some c.st) ∧ ∀ m, intact d m) ∧
    (auth → (n = 0 → consent) → Completes i s fun t => let d := t.chip; let x := c.part n; let y := d.part n
      y.word 0 0 = wd x.next ∧ bits (y.word 0 3) 0 16 = 0x5200 ∧ y.firstSeq = x.next ∧ y.newestSeq = x.next ∧
      y.next = (x.next + 1) % 2 ^ 32 ∧ y.head = 1 ∧ y.wrapped = false ∧ y.queue = [] ∧
      (x.queue = [] → ∀ k w, 0 < k → w < 8 → y.word k w = x.word k w) ∧
      d.on F.EVREC.STICKY.CLEARED = true ∧ d.get F.EVREC.CLR_STAT.STATE = 2 ∧ d.get F.EVREC.CLR_STAT.FAILS = 0 ∧
      d.wipe.nonceAt = none ∧ d.st = c.st ∧ ∀ m, m ≠ n → d.part m = c.part m)

/-- The recorder (R448–R455, R459, R468). -/
def Obligations.RecordsAreWrittenUpdatedAndCleared : Prop :=
  ∀ s : State, let c := s.chip; let w := c.wipe
    let slots (p : Nat) := if p = 1 then 32768 else 16384
    let stage (p : Nat) := if p = 0 then 16 else 32
    let state := F.EVREC.CLR_STAT.STATE
    let reason := F.EVREC.CLR_STAT.REASON
    let words (r : Rec) : List Word :=
      let h := [wd r.seq, wd r.optime, wd (r.pcycle % 2 ^ 24 + r.src % 256 * 2 ^ 24), wd (r.code % 65536 + r.rep % 65536 * 65536),
        wd r.ms, wd r.lo, wd r.hi]
      h ++ [wd (r.span % 65536 + crc16 (h.flatMap leBytes ++ [r.span % 256, r.span / 256 % 256]) * 65536)]
    (∀ p : Fin 3, let x := c.part p
      let done (t : State) : Prop := ∀ m, m ≠ p.val → t.chip.part m = c.part m
      (x.queue = [] → x.lost = 0 → Completes (.recordWriteDone p) s fun t =>
        t.chip.part p = x ∧ done t ∧ t = { s with chip := { c with parts := t.chip.parts } }) ∧
      (∀ r rest, x.queue = r :: rest →
        (x.lost = 0 ∨ stage p ≤ 2 * rest.length → Completes (.recordWriteDone p) s fun t => let y := t.chip.part p
          y.queue = rest ∧ (∀ k : Fin 8, y.word x.head k = (words r).getD k 0) ∧
          (∀ k n, k ≠ x.head → n < 8 → y.word k n = x.word k n) ∧
          y.head = (if x.head + 1 < slots p then x.head + 1 else if p.val = 0 then 4096 else 0) ∧
          y.wrapped = (x.wrapped || decide (slots p ≤ x.head + 1)) ∧ y.next = x.next ∧ y.mark = x.mark ∧ y.firstSeq = x.firstSeq ∧
          done t ∧ t = { s with chip := { c with parts := t.chip.parts } }) ∧
        (x.lost ≠ 0 → 2 * rest.length < stage p → (p.val = 1 ∨ (c.part 1).queue.length < 32) →
          Completes (.recordWriteDone p) s fun t => (t.chip.part p).lost = 0 ∧
            ((t.chip.part 1).newest.map fun n => n.data.code) = some 0x5201)) ∧
      (x.owed = [] → (∀ n, x.newest = some n → n.dirty = false) → Ignores (.recordRepeatUpdate p) s) ∧
      ∀ n : Newest, let rewritten (t : State) : Prop := t.chip.st = max c.st (n.updated + 100 * Config.us) ∧ done t ∧
          ∀ k j, j < 8 → (t.chip.part p).word k j =
            if n.slot = some k ∧ (j = 3 ∨ j = 7) then (words n.data).getD j 0 else x.word k j
        (∀ rest, x.owed = n :: rest → Completes (.recordRepeatUpdate p) s fun t =>
          rewritten t ∧ (t.chip.part p).owed = rest ∧ (t.chip.part p).newest = x.newest) ∧
        (x.owed = [] → x.newest = some n → n.dirty = true → Completes (.recordRepeatUpdate p) s fun t =>
          rewritten t ∧ (t.chip.part p).newest = some { n with dirty := false, updated := t.chip.st })) ∧
    (∀ src : Source,
      (∀ v : Word, let a := R.EVREC.HREC_CMD; s.Lets src a → let i : Instr := .hrecCmd src v; let x := c.part 1
        let code := v.toNat % 65536
        let lo := (c.rd R.EVREC.HREC_PAY_LO).toNat
        let hi := (c.rd R.EVREC.HREC_PAY_HI).toNat
        let repeats (n : Newest) : Prop := n.data.src = 1 ∧ n.data.code = code ∧ n.data.lo = lo ∧ n.data.hi = hi ∧ n.data.rep < 65535 ∧
          c.st ≤ n.last + 10 * Config.sec
        let go := bits v 16 1 = 1 ∧ 0x8000 ≤ code
        let fresh := ∀ n, x.newest = some n → ¬repeats n;
        (bits v 16 1 = 0 → Answers i s (s.spent a) c []) ∧
        (bits v 16 1 = 1 → code < 0x8000 → RefusesWrite i s src a rParam false) ∧
        (∀ n, go → x.newest = some n → repeats n → Completes i s fun t => let y := t.chip.part 1
          y.newest = some { n with
            data := { n.data with rep := n.data.rep + 1, span := min ((c.st - n.first) / Config.sec) 65535 }
            last := c.st, dirty := n.slot.isSome } ∧
          y.queue.length = x.queue.length ∧ y.next = x.next ∧ y.slots = x.slots ∧ ∀ m, m ≠ 1 → t.chip.part m = c.part m) ∧
        (go → fresh → x.queue.length < 32 → Completes i s fun t => let y := t.chip.part 1
          let r : Rec := { seq := x.next, optime := (c.rd R.KENNEL.OPTIME).toNat, pcycle := (c.rd R.KENNEL.PCYCLE).toNat % 2 ^ 24
                           src := 1, code := code, rep := 0, ms := c.st / 25600000 % 2 ^ 32, lo := lo, hi := hi, span := 0 }
          y.queue = x.queue ++ [r] ∧ y.next = (x.next + 1) % 2 ^ 32 ∧ y.mark = (if x.mark = x.next then (x.next + 256) % 2 ^ 32 else x.mark) ∧
          (y.newest.map fun n => n.data) = some r ∧ y.slots = x.slots ∧ y.head = x.head ∧ (∀ m, m ≠ 1 → t.chip.part m = c.part m) ∧
          ∀ b, t.chip.rd b = c.rd b) ∧
        (go → fresh → 32 ≤ x.queue.length → Completes i s fun t => let f := whole (win 1 R.EVREC.REFUSE_CNT)
          t.chip.part 1 = { x with lost := x.lost + 1 } ∧ t.chip.on F.EVREC.STICKY.REFUSED = true ∧
          t.chip.get f = min (c.get f + 1) (2 ^ 32 - 1))) ∧
      (∀ (k : BitVec 15) (n : BitVec 2), let a := R.EVREC.REC_SEL; s.Lets src a → let i : Instr := .recSelWrite src k n
        let bad := n = 3#2 ∨ slots n.toNat ≤ k.toNat;
        (bad → RefusesWrite i s src a rParam true) ∧ (¬bad → Answers i s (s.spent a) c [(whole a, k.toNat + n.toNat * 65536)])) ∧
      (let a := R.EVREC.CLR_CMD; s.Lets src a → let shut := c.get ⟨R.SEC.STATUS, 5, 3⟩ = 2 ∨ (w.lockAt.any fun t => decide (c.st < t + 60 * Config.sec)) = true;
        (shut → Answers (.clearNonce src) s (s.spent a) c [(state, 3), (reason, rState)]) ∧
        (¬shut → Answers (.clearNonce src) s (s.spent a) { c with wipe := { w with asked := true, nonceAt := none } } [(state, 0), (reason, 0)]))) ∧
    (w.asked = false → Ignores .clearNonceReady s) ∧
    (w.asked = true → Answers .clearNonceReady s s
      { c with wipe := { w with asked := false, nonceAt := some c.st, stale := false }, sec := { c.sec with drawn := c.sec.drawn + 8 } }
      ((List.range 8).map (fun k => (whole (R.EVREC.CLR_NONCE k), (Config.randomWord (c.sec.drawn + k)).toNat)) ++ [(state, 1), (reason, 0)])) ∧
    (w.nonceAt = none → Ignores .clearNonceExpire s) ∧
    (∀ n, w.nonceAt = some n → Answers .clearNonceExpire s s
      { c with st := max c.st (n + 10 * Config.sec), wipe := { w with nonceAt := none } } [(state, 0), (reason, 0)]) ∧
    (w.lockAt = none → Ignores .clearLockoutExpire s) ∧
    ∀ n, w.lockAt = some n → Answers .clearLockoutExpire s s { c with st := max c.st (n + 60 * Config.sec), wipe := { w with lockAt := none } } []

/-- Lifetime counters and module temperatures (R464–R467). -/
def Obligations.LifetimeDataIsFlushedAndModulesTracked : Prop :=
  ∀ s : State, let c := s.chip
    let busy := F.LIFE.FLUSH_STAT.BUSY
    let gen := (c.lifeNv.gen + 1) % 256
    let logged (d : Chip) (code : Nat) : Prop := (c.part 1).queue.length < 32 →
      ((d.part 1).newest.map fun n => (n.data.src, n.data.code)) = some (0x19, code)
    (c.on busy = true → Ignores .lifeFlushTimer s) ∧
    (c.on busy = false → Answers .lifeFlushTimer s s { c with st := max c.st (c.flushAt + 60 * Config.sec) } [(busy, 1)]) ∧
    (∀ src : Source, let a := R.LIFE.FLUSH_CMD; s.Lets src a → Answers (.flushCmd src) s (s.spent a) c [(busy, 1)]) ∧
    (c.on busy = false → ∀ ok, Ignores (.lifeFlushDone ok) s) ∧
    (c.on busy = true →
      Answers (.lifeFlushDone true) s s
        { c with
          flushAt := c.st
          lifeNv := { gen := gen, sw := c.switched, shifts := c.rd R.LIFE.SHIFT_CNT, parks := c.rd R.LIFE.PARK_CNT
                      contacts := c.rd R.LIFE.CTR_CNT, eIn := c.get64 R.LIFE.EIN_LO R.LIFE.EIN_HI
                      eOut := c.get64 R.LIFE.EOUT_LO R.LIFE.EOUT_HI, optime := c.rd R.KENNEL.OPTIME, pcycle := c.rd R.KENNEL.PCYCLE
                      mods := c.mods } }
        [(busy, 0), (F.LIFE.FLUSH_STAT.FAIL, 0), (⟨R.LIFE.FLUSH_STAT, 24, 8⟩, gen),
         (whole R.LIFE.OPTIME_NV, (c.rd R.KENNEL.OPTIME).toNat), (whole R.LIFE.PCYCLE_NV, (c.rd R.KENNEL.PCYCLE).toNat)] ∧
      Completes (.lifeFlushDone false) s fun t => let d := t.chip
        d.on busy = false ∧ d.on F.LIFE.FLUSH_STAT.FAIL = true ∧ d.on F.LIFE.STICKY.FLUSH_FAIL = true ∧ d.lifeNv = c.lifeNv ∧
        d.st = c.st ∧ logged d 0x5204) ∧
    (∀ m : Fin 8, let i : Instr := .moduleTjUpdate m
      let ch := c.get (F.LIFE.MOD_CFG.TREF.win m)
      let on := c.on (F.LIFE.MOD_CFG.EN.win m) = true ∧ c.on (F.THERM.CH_FLAGS.FAULT.win ch) = false
      let p : Int := ((Tab.at c.mailbox 0 (c.get (F.LIFE.MOD_CFG.PLOSS.win m))).toNat : Nat)
      let n := c.get (F.LIFE.MOD_CFG.NSTAGE.win m)
      let th (k : Nat) : Int :=
        let e : Int := (Config.decay (c.rd (win m (R.LIFE.STAGE_TAU k))).toNat : Nat)
        let r : Int := ((c.rd (win m (R.LIFE.STAGE_R k))).toNat : Nat)
        (Tab.at (c.mod_ m).theta 0 k * e + r * p * (2 ^ 32 - e)) / 2 ^ 32
      let tj : Int := max (-32768) (min 32767 (signed 16 (c.rd (R.THERM.TEMP ch)).toNat + ((List.range n).map th).sum * 16 / 1000000000))
      let top := signed 16 (c.rd (win m R.LIFE.TJ_MAX)).toNat;
      (¬on → Ignores i s) ∧
      (on → Completes i s fun t => let d := t.chip
        (∀ k, k < n → Tab.at (d.mod_ m).theta 0 k = th k) ∧ signed 16 (d.rd (win m R.LIFE.TJ)).toNat = tj ∧
        signed 16 (d.rd (win m R.LIFE.TJ_MAX)).toNat = max top tj ∧ (∀ k, k ≠ m.val → d.mod_ k = c.mod_ k) ∧ d.st = c.st)) ∧
    ∀ src : Source, let a := R.LIFE.MOD_RESET; s.Lets src a → let i : Instr := .modReset src
      let m := bits (c.rd R.LIFE.MOD_SEL) 0 3;
      (c.get (hState R.ISN.ID) ≠ 0 → RefusesWrite i s src a rSafety false) ∧
      (c.get (hState R.ISN.ID) = 0 → Completes i s fun t => let d := t.chip; let x := d.mod_ m
        x.hist = [] ∧ x.points = [] ∧ x.dmg = 0 ∧ x.theta = (c.mod_ m).theta ∧ d.get64 (win m R.LIFE.DMG_LO) (win m R.LIFE.DMG_HI) = 0 ∧
        d.rd (win m R.LIFE.TJ_MAX) = 0x8000#32 ∧ (∀ k, k ≠ m → d.mod_ k = c.mod_ k) ∧ d.st = c.st ∧ logged d 0x5206)

/-- Resets and starts (R471–R484; R385 and R464 for PWR_OFF). -/
def Obligations.ResetsAndStartsRunTheirSteps : Prop :=
  ∀ s : State, let c := s.chip; let x := c.start
    let runs (i : Instr) (post : Chip → Prop) : Prop := Completes i s fun t => t.pending = s.pending ∧
      t.locks = (if inService c.phase = true ∧ inService t.chip.phase = true then s.locks else []) ∧ post t.chip
    let still (i : Instr) : Prop := runs i fun d => d = c
    let state := hState R.SYS.ID
    let staged (d : Chip) : Prop := ∀ m : Fin 3, let a := c.part m; let b := d.part m
      b.queue = [] ∧ b.head = a.head ∧ b.next = a.next ∧ b.mark = a.mark ∧ b.firstSeq = a.firstSeq
    let fails (d : Chip) (z : StartSt) (warm : Bool) (step : Nat) : Prop :=
      d.phase = .failed ∧ z.FailedAs d.start (d.ken.base + d.st) warm step ∧ d.start.failAt = d.st
    let patch (bad : Option (Fin 3)) : StartSt :=
      { x with pend := x.pend ++ match bad with | some k => [(0x5605, k.val + 1, 0, 0)] | none => [] }
    let safeHold (d : Chip) : Prop := d.phase = .safeHold ∧ d.get state = 3 ∧ d.rd R.SYS.RESET_CAUSE = 16#32 ∧
      d.on F.SAFE.STO_STAT.CUT_A = true ∧ d.on F.SAFE.STO_STAT.CUT_B = true ∧
      ((c.part 0).queue.length < 16 → ((d.part 0).newest.map fun n => n.data.code) = some 0x490B)
    let bank (b : Nat) := if b = 0 then c.bankA else c.bankB
    let recent (b : Nat) : Bool := decide ((c.rd R.NVM.MIN_VERSION).toNat ≤ bundleVersion (bank b))
    let chosen (ok : Nat → Bool) : Option Nat := let b := bits (c.rd R.NVM.ACTIVE_BANK) 0 1
      if (ok b && recent b) = true then some b else if (ok (1 - b) && recent (1 - b)) = true then some (1 - b) else none
    let ready (d : Chip) (at_ : Nat) : Prop := d.phase = .ready ∧ d.get state = 2 ∧ d.on F.KENNEL.KSTAT.TOKEN_VALID = true ∧
      at_ ≤ d.st ∧ d.shm = [] ∧ (∀ n : Fin 40, d.get (F.PG.STATUS.STATE n) = lgSto) ∧ d.start.kcOk = !d.on F.KENNEL.STICKY.KCOLD
    exec .powerUp s = .next { s with chip := { c with start := { x with supplies := true } } } ∧
    (∀ src : Source, s.Lets src R.KENNEL.WAKE_CFG → Completes (.powerOff src) s fun t => let d := t.chip
      d.ken.pwren = false ∧ d.lifeNv.gen = (c.lifeNv.gen + 1) % 256 ∧ d.lifeNv.sw = c.switched ∧ d.lifeNv.mods = c.mods ∧
      d.lifeNv.optime = c.rd R.KENNEL.OPTIME ∧ d.lifeNv.eIn = c.get64 R.LIFE.EIN_LO R.LIFE.EIN_HI ∧ d.st = c.st) ∧
    (∀ (long : Bool) (torn : Option Torn),
      let clear (d : Chip) (z : StartSt) : Prop := if long = true then
          d.start.warmFails = [] ∧ d.start.coldFails = [] ∧ d.start.esc = false ∧ d.start.hold = false ∧ d.start.pend = z.pend
        else d.start = { z with cause := 1 }
      let held (d : Chip) : Prop := d.phase = .held ∧ d.start.cause = 1 ∧ c.ResetOf d ∧ staged d ∧
        (torn = none → ∀ m : Fin 3, (d.part m).slots = (c.part m).slots);
      (c.phase = .safeHold → long = false → still (.porstAssert long torn) ∧
        runs (.brownOut long torn) fun d => d = { c with start := { x with supplies := false } }) ∧
      (c.phase ≠ .safeHold ∨ long = true →
        (runs (.porstAssert long torn) fun d => held d ∧ clear d x) ∧
        (runs (.brownOut long torn) fun d => held d ∧ d.start.supplies = false ∧ ∃ z : StartSt, clear d z ∧
          (c.phase ≠ .cold → c.phase ≠ .warm → z = { x with supplies := false }) ∧
          (c.phase = .cold ∨ c.phase = .warm →
            x.FailedAs z (c.ken.base + c.st) (c.phase == .warm) ((Config.freeWord c.fresh).toNat % 16))))) ∧
    (c.phase ≠ .ready ∨ c.on F.BIST.SCAN_STATUS.SCAN_OPEN = true → still .wrstRelease) ∧
    (c.phase = .ready → c.on F.BIST.SCAN_STATUS.SCAN_OPEN = false → runs .wrstRelease fun d =>
      let warm := x.kcOk = true ∧ c.on F.KENNEL.KSTAT.TOKEN_VALID = true
      c.ResetOf d ∧ staged d ∧ (∀ m : Fin 3, (d.part m).slots = (c.part m).slots) ∧
      d.start = { x with cause := if warm then 6 else 2, reserves := (List.range 36).filter fun p => c.on (F.CLE.PAIR_INFO.RESERVE p) } ∧
      d.phase = if warm then .warmHeld else .held) ∧
    (∀ run : ColdRun, let i : Instr := .coldStart run
      let go := c.phase = .held ∧ x.supplies = true ∧ x.hold = false
      let ok (b : Nat) : Bool := digestOk (bank b) && c.signatureOk (bank b) &&
        bundleOk (bank b) 255 && decide (bundleDieRev (bank b) ≤ bits (c.rd R.SYS.DEV_REV) 0 8);
      (c.phase ≠ .held → c.phase ≠ .cold → still i) ∧ (c.phase = .held → x.supplies = false → still i) ∧
      (c.phase = .held → x.supplies = true → x.hold = true → runs i fun d => safeHold d ∧ d.st = 0) ∧
      (go → (run.fail = some .c1 → runs i fun d => fails d (patch run.patchBad) false 1) ∧
        (run.fail = some .c2 → runs i fun d => fails d (patch run.patchBad) false 2) ∧
        (run.fail = some .c3 → runs i fun d => fails d (patch run.patchBad) false 3) ∧
        (run.fail = none ∨ run.fail = some .c10 →
          (run.atPorts = true → runs i fun d => let n := min (c.rd R.KENNEL.PCYCLE + 1#32).toNat 0xFFFFFF
            d.phase = .cold ∧ d.get state = 0 ∧ d.rd R.SYS.RESET_CAUSE = wd x.cause ∧ d.start.pend = [] ∧
            d.on F.SAFE.STO_STAT.CUT_A = true ∧ d.on F.SAFE.STO_STAT.CUT_B = true ∧ d.bankA = c.bankA ∧ d.bankB = c.bankB ∧
            (x.cause = 1 → d.rd R.KENNEL.PCYCLE = wd n ∧ d.lifeNv.pcycle = wd n) ∧
            (x.cause ≠ 1 → d.rd R.KENNEL.PCYCLE = c.rd R.KENNEL.PCYCLE ∧ d.lifeNv = c.lifeNv)) ∧
          (run.atPorts = false → ∃ u t, exec (.coldStart { run with atPorts := true }) s = .next u ∧ exec i u = .next t ∧ exec i s = .next t))) ∧
      (c.phase = .cold →
        (run.fail = some .c10 → runs i fun d => fails d x false 10) ∧
        (run.fail ≠ some .c10 → runs i fun d => ready d run.readyAt ∧ d.active = chosen ok))) ∧
    (∀ run : WarmRun, let i : Instr := .warmStart run
      let act := chosen fun b => c.on ⟨R.NVM.BANK_STAT, b, 1⟩
      let sealed (b : Nat) : Prop := run.sealOk = true ∧ ∃ z, (if b = 0 then c.sealA else c.sealB) = some z ∧
        z.digest = bundleDigest (bank b) ∧ z.gen = (if b = 0 then c.genA else c.genB)
      let cold (d : Chip) (z : StartSt) (why : Nat) : Prop := d.phase = .held ∧
        d.start = { z with cause := if x.cause = 6 then 2 else 0, pend := z.pend ++ [(0x5603, why, 0, 0)] };
      (c.phase ≠ .warmHeld → c.phase ≠ .warm → still i) ∧
      (c.phase = .warmHeld →
        (run.fail = some .w1 → runs i fun d => fails d (patch run.patchBad) true 1) ∧
        (run.fail ≠ some .w1 → run.tokenOk = false → runs i fun d => cold d (patch run.patchBad) 1) ∧
        (run.fail = some .w3 → run.tokenOk = true → runs i fun d => fails d (patch run.patchBad) true 3) ∧
        (run.fail = some .w4 → run.tokenOk = true → runs i fun d => fails d (patch run.patchBad) true 4) ∧
        (run.fail = none ∨ run.fail = some .w11 → run.tokenOk = true →
          (run.atPorts = true → runs i fun d => d.phase = .warm ∧ d.get state = 1 ∧ d.rd R.SYS.RESET_CAUSE = wd x.cause ∧
            d.start.pend = [] ∧ d.on F.SAFE.STO_STAT.CUT_A = true ∧ d.on F.SAFE.STO_STAT.CUT_B = true) ∧
          (run.atPorts = false → ∃ u t, exec (.warmStart { run with atPorts := true }) s = .next u ∧ exec i u = .next t ∧ exec i s = .next t))) ∧
      (c.phase = .warm →
        ((∃ b, act = some b ∧ ¬sealed b) → runs i fun d => cold d x 2) ∧
        ((∀ b, act = some b → sealed b) → run.fail = some .w11 → runs i fun d => fails d x true 11) ∧
        ((∀ b, act = some b → sealed b) → run.fail ≠ some .w11 → runs i fun d => ready d run.readyAt ∧ d.active = act))) ∧
    (let i : Instr := .startRetry
      let later (d : Chip) : Prop := d.st = max c.st (x.failAt + if x.lastWarm then Config.ms else Config.sec)
      let warm := x.lastWarm = true ∧ x.kcOk = true ∧ c.on F.KENNEL.KSTAT.TOKEN_VALID = true
      let t (k : Nat) : Nat := x.warmFails.getD k 0 / Config.sec;
      (c.phase ≠ .failed → still i) ∧
      (c.phase = .failed → x.hold = true → runs i fun d => safeHold d ∧ later d) ∧
      (c.phase = .failed → x.hold = false → x.esc = true → runs i fun d => d.phase = .held ∧ later d ∧
        d.start = { x with esc := false, cause := 8, pend := x.pend ++ [(0x5604, t 2, t 1, t 0)] }) ∧
      (c.phase = .failed → x.hold = false → x.esc = false → runs i fun d => later d ∧
        d.start = { x with cause := if warm then 4 else 0 } ∧ d.phase = if warm then .warmHeld else .held))
end

