-- ==== Sys2Proof/Laws/Tab.lean ====
section
/-! SUPPORT. Laws of sparse tables: what a key reads as after a change, and that every change keeps the canonical form. -/

namespace Sys2Proof.Machine

variable {α : Type}

@[simp] theorem Tab.find_nil (a : Nat) : Tab.find ([] : Tab α) a = none := rfl

theorem Tab.find_put (t : Tab α) (a b : Nat) (x : α) :
    Tab.find (Tab.put t a x) b = if a = b then some x else Tab.find t b := by
  induction t with
  | nil => simp [Tab.put, Tab.find]
  | cons e t ih =>
    obtain ⟨k, v⟩ := e
    simp only [Tab.put]
    by_cases h1 : a < k
    · rw [if_pos h1]; rfl
    · by_cases h2 : a = k
      · subst h2; rw [if_neg h1, if_pos rfl]; simp only [Tab.find]; split_ifs <;> rfl
      · rw [if_neg h1, if_neg h2]; simp only [Tab.find, ih]; split_ifs <;> first | rfl | omega

theorem Tab.find_del (t : Tab α) (a b : Nat) :
    Tab.find (Tab.del t a) b = if a = b then none else Tab.find t b := by
  induction t with
  | nil => simp [Tab.del, Tab.find]
  | cons e t ih =>
    obtain ⟨k, v⟩ := e
    simp only [Tab.del]
    by_cases h1 : k = a <;> by_cases h2 : a = b <;> by_cases h3 : k = b <;> simp_all [Tab.find]

theorem Tab.find_drop (t : Tab α) (p : Nat → Bool) (b : Nat) :
    Tab.find (Tab.drop p t) b = if p b then none else Tab.find t b := by
  induction t with
  | nil => simp [Tab.drop, Tab.find]
  | cons e t ih =>
    obtain ⟨k, v⟩ := e
    simp only [Tab.drop]
    by_cases h : p k <;> by_cases hb : p b <;> by_cases hk : k = b <;> simp_all [Tab.find]

theorem Tab.find_set [DecidableEq α] (t : Tab α) (d x : α) (a b : Nat) :
    Tab.find (Tab.set t d a x) b = if a = b then (if x = d then none else some x) else Tab.find t b := by
  unfold Tab.set
  split_ifs <;> simp_all [Tab.find_put, Tab.find_del]

/-- A key reads as the value it was set to; every other key reads as before. -/
theorem Tab.at_set [DecidableEq α] (t : Tab α) (d x : α) (a b : Nat) :
    Tab.at (Tab.set t d a x) d b = if a = b then x else Tab.at t d b := by
  unfold Tab.at
  rw [Tab.find_set]
  split_ifs <;> simp_all

@[simp] theorem Tab.at_set_same [DecidableEq α] (t : Tab α) (d x : α) (a : Nat) : Tab.at (Tab.set t d a x) d a = x := by
  simp [Tab.at_set]

theorem Tab.at_set_ne [DecidableEq α] (t : Tab α) (d x : α) {a b : Nat} (h : a ≠ b) :
    Tab.at (Tab.set t d a x) d b = Tab.at t d b := by
  simp [Tab.at_set, h]

@[simp] theorem Tab.at_upd_same [DecidableEq α] (t : Tab α) (d : α) (a : Nat) (f : α → α) :
    Tab.at (Tab.upd t d a f) d a = f (Tab.at t d a) := by
  simp [Tab.upd]

theorem Tab.at_upd_ne [DecidableEq α] (t : Tab α) (d : α) {a b : Nat} (f : α → α) (h : a ≠ b) :
    Tab.at (Tab.upd t d a f) d b = Tab.at t d b := by
  simp [Tab.upd, Tab.at_set, h]

/-- The default at an unlisted key stays unlisted. -/
theorem Tab.del_of_find_none (t : Tab α) (a : Nat) (h : Tab.find t a = none) : Tab.del t a = t := by
  induction t with
  | nil => rfl
  | cons e t ih =>
    obtain ⟨k, v⟩ := e
    by_cases hk : k = a <;> simp_all [Tab.find, Tab.del]

/-! ### Rising keys -/

/-- The lowest key of a rising table lies above a bound. -/
def Tab.above (lo : Option Nat) (a : Nat) : Prop := match lo with | none => True | some l => l < a

theorem Tab.rising_cons (lo : Option Nat) (k : Nat) (v : α) (t : Tab α) :
    Tab.rising lo ((k, v) :: t) = true ↔ Tab.above lo k ∧ Tab.rising (some k) t = true := by
  cases lo <;> simp [Tab.rising, Tab.above]

theorem Tab.rising_weaken {lo hi : Option Nat} (h : ∀ a, Tab.above hi a → Tab.above lo a) :
    ∀ t : Tab α, Tab.rising hi t = true → Tab.rising lo t = true
  | [], _ => by cases lo <;> rfl
  | (k, v) :: t, ht => by
    rw [Tab.rising_cons] at ht ⊢
    exact ⟨h _ ht.1, ht.2⟩

theorem Tab.rising_put (lo : Option Nat) (t : Tab α) (a : Nat) (x : α) (ha : Tab.above lo a) (h : Tab.rising lo t = true) :
    Tab.rising lo (Tab.put t a x) = true := by
  induction t generalizing lo with
  | nil => simp only [Tab.put]; rw [Tab.rising_cons]; exact ⟨ha, rfl⟩
  | cons e t ih =>
    obtain ⟨k, v⟩ := e
    rw [Tab.rising_cons] at h
    simp only [Tab.put]
    split_ifs with h1 h2
    · rw [Tab.rising_cons, Tab.rising_cons]; exact ⟨ha, h1, h.2⟩
    · subst h2; rw [Tab.rising_cons]; exact ⟨ha, h.2⟩
    · rw [Tab.rising_cons]; exact ⟨h.1, ih _ (by simp only [Tab.above]; omega) h.2⟩

theorem Tab.rising_del (lo : Option Nat) (t : Tab α) (a : Nat) (h : Tab.rising lo t = true) :
    Tab.rising lo (Tab.del t a) = true := by
  induction t generalizing lo with
  | nil => exact h
  | cons e t ih =>
    obtain ⟨k, v⟩ := e
    rw [Tab.rising_cons] at h
    simp only [Tab.del]
    split_ifs with h1
    · refine ih _ (Tab.rising_weaken ?_ t h.2)
      intro b hb; revert hb
      have := h.1
      cases lo <;> simp_all [Tab.above]; omega
    · rw [Tab.rising_cons]; exact ⟨h.1, ih _ h.2⟩

theorem Tab.rising_drop (lo : Option Nat) (t : Tab α) (p : Nat → Bool) (h : Tab.rising lo t = true) :
    Tab.rising lo (Tab.drop p t) = true := by
  induction t generalizing lo with
  | nil => exact h
  | cons e t ih =>
    obtain ⟨k, v⟩ := e
    rw [Tab.rising_cons] at h
    simp only [Tab.drop]
    split_ifs with h1
    · refine ih _ (Tab.rising_weaken ?_ t h.2)
      intro b hb; revert hb
      have := h.1
      cases lo <;> simp_all [Tab.above]; omega
    · rw [Tab.rising_cons]; exact ⟨h.1, ih _ h.2⟩

theorem Tab.mem_put {t : Tab α} {a : Nat} {x : α} {e : Nat × α} (h : e ∈ Tab.put t a x) : e = (a, x) ∨ e ∈ t := by
  induction t with
  | nil => simpa [Tab.put] using h
  | cons f t ih =>
    obtain ⟨k, v⟩ := f
    simp only [Tab.put] at h
    split_ifs at h <;> simp_all <;> tauto

theorem Tab.mem_del {t : Tab α} {a : Nat} {e : Nat × α} (h : e ∈ Tab.del t a) : e ∈ t := by
  induction t with
  | nil => exact h
  | cons f t ih =>
    obtain ⟨k, v⟩ := f
    simp only [Tab.del] at h
    split_ifs at h <;> simp_all
    tauto

theorem Tab.mem_drop {t : Tab α} {p : Nat → Bool} {e : Nat × α} (h : e ∈ Tab.drop p t) : e ∈ t := by
  induction t with
  | nil => exact h
  | cons f t ih =>
    obtain ⟨k, v⟩ := f
    simp only [Tab.drop] at h
    split_ifs at h <;> simp_all
    tauto

theorem Tab.mem_set [DecidableEq α] {t : Tab α} {d x : α} {a : Nat} {e : Nat × α} (h : e ∈ Tab.set t d a x) :
    (e = (a, x) ∧ x ≠ d) ∨ e ∈ t := by
  unfold Tab.set at h
  split_ifs at h with hx
  · exact .inr (Tab.mem_del h)
  · exact (Tab.mem_put h).imp (fun h => ⟨h, hx⟩) id

theorem Tab.rising_set [DecidableEq α] (t : Tab α) (d x : α) (a : Nat) (h : Tab.rising none t = true) :
    Tab.rising none (Tab.set t d a x) = true := by
  unfold Tab.set
  split_ifs
  · exact Tab.rising_del _ _ _ h
  · exact Tab.rising_put _ _ _ _ trivial h

/-! ### The canonical form of a memory -/

/-- Setting a key keeps the canonical form. -/
theorem Tab.canon_set [DecidableEq α] (t : Tab α) (d x : α) (a : Nat) (h : Tab.canon d t = true) :
    Tab.canon d (Tab.set t d a x) = true := by
  simp only [Tab.canon, Bool.and_eq_true, List.all_eq_true, bne_iff_ne] at h ⊢
  refine ⟨Tab.rising_set t d x a h.1, fun e he => ?_⟩
  rcases Tab.mem_set he with ⟨rfl, hx⟩ | he
  · exact hx
  · exact h.2 e he

/-- Dropping keys keeps the canonical form. -/
theorem Tab.canon_drop [DecidableEq α] (t : Tab α) (d : α) (p : Nat → Bool) (h : Tab.canon d t = true) :
    Tab.canon d (Tab.drop p t) = true := by
  simp only [Tab.canon, Bool.and_eq_true, List.all_eq_true, bne_iff_ne] at h ⊢
  exact ⟨Tab.rising_drop _ _ _ h.1, fun e he => h.2 e (Tab.mem_drop he)⟩

/-- Deleting a key keeps the canonical form. -/
theorem Tab.canon_del [DecidableEq α] (t : Tab α) (d : α) (a : Nat) (h : Tab.canon d t = true) :
    Tab.canon d (Tab.del t a) = true := by
  simp only [Tab.canon, Bool.and_eq_true, List.all_eq_true, bne_iff_ne] at h ⊢
  exact ⟨Tab.rising_del _ _ _ h.1, fun e he => h.2 e (Tab.mem_del he)⟩

end Sys2Proof.Machine
end

