-- ==== Sys2Proof/Laws/Regs.lean ====
section
/-! SUPPORT. Laws of words, fields and the register store: what a field reads as after a register or a field was set, and
which bits stay. -/

namespace Sys2Proof.Machine

/-! ### Bits of a word -/

theorem testBit_bits (v : Word) (lo len i : Nat) :
    (bits v lo len).testBit i = (decide (i < len) && v.getLsbD (lo + i)) := by
  simp [bits, Nat.testBit_mod_two_pow, Nat.testBit_shiftRight, BitVec.getLsbD]

/-- A bit of a word with a field replaced. -/
theorem getLsbD_putBits (v : Word) (lo len x i : Nat) :
    (putBits v lo len x).getLsbD i =
      if lo ≤ i ∧ i < lo + len ∧ i < 32 then x.testBit (i - lo) else v.getLsbD i := by
  by_cases hi : i < 32
  · simp only [putBits, BitVec.getLsbD_or, BitVec.getLsbD_and, BitVec.getLsbD_not, BitVec.getLsbD_ofNat, hi,
      Nat.testBit_shiftLeft, Nat.testBit_two_pow_sub_one, Nat.testBit_mod_two_pow, decide_true, Bool.true_and]
    by_cases h1 : lo ≤ i
    · by_cases h2 : i < lo + len
      · have h3 : i - lo < len := by omega
        simp [h1, h2, h3]
      · have h3 : ¬i - lo < len := by omega
        simp [h1, h2, h3]
    · simp [h1]
  · simp [hi, BitVec.getLsbD_of_ge _ _ (Nat.le_of_not_lt hi)]

/-- A field reads as it was set. -/
theorem bits_putBits_same (v : Word) (lo len x : Nat) (h : lo + len ≤ 32) : bits (putBits v lo len x) lo len = x % 2 ^ len := by
  apply Nat.eq_of_testBit_eq
  intro i
  rw [testBit_bits, getLsbD_putBits, Nat.testBit_mod_two_pow]
  by_cases hi : i < len
  · have h1 : lo ≤ lo + i ∧ lo + i < lo + len ∧ lo + i < 32 := by omega
    rw [if_pos h1, Nat.add_sub_cancel_left]
  · simp [hi]

/-- Setting a field leaves every other field. -/
theorem bits_putBits_disj (v : Word) (lo len x lo' len' : Nat) (h : lo' + len' ≤ lo ∨ lo + len ≤ lo') :
    bits (putBits v lo len x) lo' len' = bits v lo' len' := by
  apply Nat.eq_of_testBit_eq
  intro i
  rw [testBit_bits, testBit_bits, getLsbD_putBits]
  by_cases hi : i < len'
  · have h1 : ¬(lo ≤ lo' + i ∧ lo' + i < lo + len ∧ lo' + i < 32) := by omega
    rw [if_neg h1]
  · simp [hi]

theorem bits_lt (v : Word) (lo len : Nat) : bits v lo len < 2 ^ len := Nat.mod_lt _ (Nat.two_pow_pos len)

/-- The whole word as a field. -/
@[simp] theorem bits_whole (v : Word) : bits v 0 32 = v.toNat := by
  simp [bits, Nat.mod_eq_of_lt v.isLt]

theorem bits_wd (n lo len : Nat) (h : lo + len ≤ 32) : bits (wd n) lo len = n / 2 ^ lo % 2 ^ len := by
  simp only [bits, wd, BitVec.toNat_ofNat, Nat.shiftRight_eq_div_pow]
  apply Nat.eq_of_testBit_eq
  intro i
  simp only [Nat.testBit_mod_two_pow, Nat.testBit_div_two_pow]
  by_cases hi : i < len
  · have : lo + i < 32 := by omega
    simp [hi, Nat.add_comm i lo, this]
  · simp [hi]

/-! ### Registers -/

/-- A register reads as it was set, and every other register as before. -/
theorem Chip.rd_wr (c : Chip) (a b : Nat) (v : Word) : (c.wr a v).rd b = if a = b then v else c.rd b := by
  simp only [Chip.rd, Chip.wr]
  split_ifs with hv hab hab <;> simp only [Tab.find_put, Tab.find_del, hab, if_true, if_false, Option.getD_some, Option.getD_none]
  rw [hv, hab]

@[simp] theorem Chip.rd_wr_same (c : Chip) (a : Nat) (v : Word) : (c.wr a v).rd a = v := by simp [Chip.rd_wr]

theorem Chip.rd_wr_ne (c : Chip) {a b : Nat} (v : Word) (h : a ≠ b) : (c.wr a v).rd b = c.rd b := by simp [Chip.rd_wr, h]

/-- A field after a register was set. -/
theorem Chip.get_wr (c : Chip) (a : Nat) (v : Word) (g : Fld) :
    (c.wr a v).get g = if a = g.reg then bits v g.lo g.len else c.get g := by
  simp only [Chip.get, Chip.rd_wr]; split_ifs <;> rfl

/-- A register after a field was set. -/
theorem Chip.rd_set (c : Chip) (f : Fld) (x b : Nat) :
    (c.set f x).rd b = if f.reg = b then putBits (c.rd f.reg) f.lo f.len x else c.rd b := by
  simp only [Chip.set, Chip.rd_wr]

/-- A field after a field was set. -/
theorem Chip.get_set (c : Chip) (f g : Fld) (x : Nat) :
    (c.set f x).get g = if f.reg = g.reg then bits (putBits (c.rd f.reg) f.lo f.len x) g.lo g.len else c.get g := by
  simp only [Chip.get, Chip.rd_set]; split_ifs <;> rfl

@[simp] theorem Chip.get_set_same (c : Chip) (f : Fld) (x : Nat) (h : f.lo + f.len ≤ 32) : (c.set f x).get f = x % 2 ^ f.len := by
  rw [Chip.get_set, if_pos rfl, bits_putBits_same _ _ _ _ h]

theorem Chip.get_set_reg (c : Chip) {f g : Fld} (x : Nat) (h : f.reg ≠ g.reg) : (c.set f x).get g = c.get g := by
  rw [Chip.get_set, if_neg h]

theorem Chip.get_set_disj (c : Chip) {f g : Fld} (x : Nat) (h : g.lo + g.len ≤ f.lo ∨ f.lo + f.len ≤ g.lo) :
    (c.set f x).get g = c.get g := by
  rw [Chip.get_set]
  split_ifs with h1
  · rw [bits_putBits_disj _ _ _ _ _ _ h, h1]; rfl
  · rfl

/-! ### What stays -/

theorem Chip.Keeps.refl (c : Chip) (l : List Fld) : c.Keeps c l := fun _ _ _ => rfl

/-- Setting a listed register keeps every bit outside the list. -/
theorem Chip.Keeps.wr {c d : Chip} {l : List Fld} (h : c.Keeps d l) {a : Nat} (v : Word) (m : whole a ∈ l) : c.Keeps (d.wr a v) l := by
  intro b i hl
  rw [Chip.rd_wr]
  split_ifs with hab
  · subst hab
    have h1 := hl _ m
    have h2 : 32 ≤ i := by simpa [Fld.covers, whole] using h1
    simp [BitVec.getLsbD_of_ge _ _ h2]
  · exact h b i hl

/-- Setting a listed field keeps every bit outside the list. -/
theorem Chip.Keeps.set {c d : Chip} {l : List Fld} (h : c.Keeps d l) {f : Fld} (x : Nat) (m : f ∈ l) : c.Keeps (d.set f x) l := by
  intro b i hl
  rw [Chip.rd_set]
  split_ifs with hab
  · subst hab
    rw [getLsbD_putBits]
    have h1 := hl _ m
    split_ifs with h2
    · simp [Fld.covers, h2.1, h2.2.1] at h1
    · exact h _ i hl
  · exact h b i hl

/-- A longer list keeps less. -/
theorem Chip.Keeps.mono {c d : Chip} {l m : List Fld} (h : c.Keeps d l) (hm : ∀ f ∈ l, f ∈ m) : c.Keeps d m :=
  fun a i hl => h a i fun f hf => hl f (hm f hf)

theorem Chip.Keeps.trans {c d e : Chip} {l : List Fld} (h : c.Keeps d l) (k : d.Keeps e l) : c.Keeps e l :=
  fun a i hl => (k a i hl).trans (h a i hl)

end Sys2Proof.Machine
end

