-- ==== Sys2Proof/Laws/Crc.lean ====
section
/-! SUPPORT. Laws of the checks: a CRC-32 is a word, and the configuration check reads only registers marked safe (R395). -/

namespace Sys2Proof.Machine

theorem crcStep32_lt {r : Nat} (h : r < 2 ^ 32) (bit : Bool) : crcStep32 r bit < 2 ^ 32 := by
  unfold crcStep32
  dsimp only
  split
  · exact Nat.xor_lt_two_pow (by omega) (by norm_num)
  · omega

theorem crc32From_lt (bytes : List Nat) : ∀ {r : Nat}, r < 2 ^ 32 → crc32From r bytes < 2 ^ 32 := by
  induction bytes with
  | nil => exact fun h => h
  | cons b t ih =>
    intro r h
    refine ih (r := [0, 1, 2, 3, 4, 5, 6, 7].foldl (fun r i => crcStep32 r (Nat.testBit b i)) r) ?_
    simp only [List.foldl_cons, List.foldl_nil]
    iterate 8 refine crcStep32_lt ?_ _
    exact h

/-- A CRC-32 fits a word. -/
theorem crc32_lt (bytes : List Nat) : crc32 bytes < 2 ^ 32 :=
  Nat.xor_lt_two_pow (crc32From_lt bytes (by norm_num)) (by norm_num)

/-- One byte of the CRC-32. -/
def crcByte32 (r b : Nat) : Nat := [0, 1, 2, 3, 4, 5, 6, 7].foldl (fun r i => crcStep32 r (Nat.testBit b i)) r

/-- The register value of the CRC-32, each byte evaluated before the next: a form that the kernel computes in little depth. -/
def crc32Forced (r : Nat) : List Nat → Nat
  | [] => r
  | b :: t => if crcByte32 r b = 0 then crc32Forced (crcByte32 r b) t else crc32Forced (crcByte32 r b) t

theorem crc32Forced_eq (bytes : List Nat) : ∀ r, crc32Forced r bytes = crc32From r bytes := by
  induction bytes with
  | nil => exact fun _ => rfl
  | cons b t ih =>
    intro r
    rw [crc32Forced, ite_self, ih]
    rfl

theorem crc32_eq_forced (bytes : List Nat) : crc32 bytes = crc32Forced 0xFFFFFFFF bytes ^^^ 0xFFFFFFFF := by
  rw [crc32Forced_eq]; rfl

/-- The configuration check does not change with a register that is not marked safe (R395). -/
theorem Chip.cfgCrc_wr (c : Chip) (a : Nat) (v : Word)
    (h : ∀ cls ∈ [5, 19], ∀ o ∈ safeOffsets cls, pageOf cls 0 + o ≠ a) : (c.wr a v).cfgCrc = c.cfgCrc := by
  unfold Chip.cfgCrc
  congr 1
  refine List.flatMap_congr fun cls hc => List.flatMap_congr fun o ho => ?_
  rw [Chip.rd_wr_ne _ _ fun e => h cls hc o ho e.symm]

theorem cfgCrc_unread : ∀ cls ∈ [5, 19], ∀ o ∈ safeOffsets cls, pageOf cls 0 + o ≠ R.ISN.CFG_CRC := by decide +kernel

/-- CFG_CRC can hold what the check expects. -/
theorem Chip.exists_cfgCrc (c : Chip) :
    ∃ v : Word, ((c.wr R.ISN.CFG_CRC v).rd R.ISN.CFG_CRC).toNat = (c.wr R.ISN.CFG_CRC v).cfgCrc := by
  have h : c.cfgCrc < 2 ^ 32 := crc32_lt _
  refine ⟨BitVec.ofNat 32 c.cfgCrc, ?_⟩
  rw [Chip.cfgCrc_wr _ _ _ cfgCrc_unread, Chip.rd_wr_same, BitVec.toNat_ofNat, Nat.mod_eq_of_lt h]

end Sys2Proof.Machine
end

