-- ==== Sys2Proof/Laws/Gate.lean ====
section
/-! SUPPORT. Laws of the gate: what a write of a source does when it is let through, and when it is not. -/

namespace Sys2Proof.Machine

/-- ERRINFO after a refused access (Table 2.11). -/
def errinfo (c : Chip) (w : Acc) (reason : Nat) (wr : Bool) : Nat :=
  reason + w.off / 4 * 2 ^ 8 + wr.toNat * 2 ^ 18 + srcCode w.src * 2 ^ 19 + min (c.get (hRejCnt w.page) + 1) 255 * 2 ^ 24

theorem srcCode_lt (s : Source) : srcCode s < 8 := by cases s <;> decide

/-- A refusal sets WR_REJ and writes ERRINFO, and nothing else. -/
theorem Chip.reject_shows (c : Chip) (w : Acc) (reason : Nat) (wr : Bool) (h : reason < 256) :
    c.Shows (c.reject w reason wr) [(hSticky w.page 0, 1), (whole (w.page + 0x24), errinfo c w reason wr)] := by
  have h1 : w.off < 4096 := Nat.mod_lt _ (by decide)
  have h2 : w.off / 4 < 1024 := by omega
  have h3 := srcCode_lt w.src
  have h4 : wr.toNat ≤ 1 := by cases wr <;> decide
  have h5 : min (c.get (hRejCnt w.page) + 1) 255 ≤ 255 := Nat.min_le_right _ _
  refine ⟨?_, ?_⟩
  · simp only [List.forall_mem_cons, List.not_mem_nil, false_imp_iff, imp_true_iff, and_true]
    refine ⟨?_, ?_⟩
    · simp only [Chip.reject, Chip.raise]
      rw [Chip.get_wr, if_neg (by simp), Chip.get_set_same _ _ _ (by simp)]
      simp
    · simp only [Chip.reject, Chip.get_wr, if_true, bits_whole, BitVec.toNat_ofNat, errinfo]
      apply Nat.mod_eq_of_lt
      omega
  · exact (Chip.Keeps.set (Chip.Keeps.refl _ _) _ (by simp)).wr _ (by simp)

/-- A refusal changes registers only. -/
theorem Chip.reject_hidden (c : Chip) (w : Acc) (reason : Nat) (wr : Bool) :
    c.reject w reason wr = { c with regs := (c.reject w reason wr).regs } := rfl

/-- A write that is let through uses one write of the window and reaches its page. -/
theorem State.gated_of_lets (s : State) (w : Acc) (f : Chip → Chip) (h : s.Lets w.src w.addr) (hl : w.off ≠ 0x1C)
    (hr : readOnly w.addr = false) : s.gated w f = { s.spent w.addr with chip := f s.chip } := by
  obtain ⟨h1, h2, h3, h4, h5⟩ := h
  have h6 : (safeRow w.addr && !s.chip.safeSto) = false := by
    by_cases h : safeRow w.addr = true
    · simp [h5 h]
    · simp [h]
  simp [State.gated, h1, h2, hl, Chip.gateWrite, hr, h3, h4, h6, State.spent]

/-- A write to a register that takes writes whatever the lock, outside the safety configuration. -/
theorem State.gated_of_exempt (s : State) (w : Acc) (f : Chip → Chip) (h1 : s.chip.portOpen w.src = true)
    (h2 : pageImplemented w.addr = true) (h3 : lockExempt w.addr = true) (h4 : s.chip.phase ≠ .safeHold)
    (h5 : safeRow w.addr = false) (hl : w.off ≠ 0x1C) (hr : readOnly w.addr = false) :
    s.gated w f = { s.spent w.addr with chip := f s.chip } := by
  simp [State.gated, h1, h2, hl, Chip.gateWrite, hr, h3, h4, h5, State.spent]

/-- A write with no window open is refused with LOCKED. -/
theorem State.gated_of_locked (s : State) (w : Acc) (f : Chip → Chip) (h1 : s.chip.portOpen w.src = true)
    (h2 : pageImplemented w.addr = true) (h3 : (s.lock (pageNo w.addr)).isOpen s.chip.st = false)
    (h4 : lockExempt w.addr = false) (h5 : s.chip.phase ≠ .safeHold) (hl : w.off ≠ 0x1C) (hr : readOnly w.addr = false) :
    s.gated w f = { s.spent w.addr with chip := s.chip.reject w rLocked (!carriesCommand w.addr w.val) } := by
  simp [State.gated, h1, h2, hl, Chip.gateWrite, hr, h3, h4, h5, State.spent]

/-- A closed port takes nothing. -/
theorem State.gated_of_closed (s : State) (w : Acc) (f : Chip → Chip) (h : s.chip.portOpen w.src = false) : s.gated w f = s := by
  simp [State.gated, h]

/-- A gated write leaves the queue of waiting commands. -/
@[simp] theorem State.gated_pending (s : State) (w : Acc) (f : Chip → Chip) : (s.gated w f).pending = s.pending := by
  unfold State.gated
  split_ifs <;> simp [State.setLock]

@[simp] theorem State.onChip_pending (s : State) (f : Chip → Chip) : (s.onChip f).pending = s.pending := rfl
@[simp] theorem State.onChip_locks (s : State) (f : Chip → Chip) : (s.onChip f).locks = s.locks := rfl
@[simp] theorem State.onChip_chip (s : State) (f : Chip → Chip) : (s.onChip f).chip = f s.chip := rfl
@[simp] theorem State.setLock_pending (s : State) (p : Nat) (l : LockSt) : (s.setLock p l).pending = s.pending := rfl
@[simp] theorem State.setLock_chip (s : State) (p : Nat) (l : LockSt) : (s.setLock p l).chip = s.chip := rfl
@[simp] theorem State.spent_pending (s : State) (a : Nat) : (s.spent a).pending = s.pending := rfl
@[simp] theorem State.spent_chip (s : State) (a : Nat) : (s.spent a).chip = s.chip := rfl
@[simp] theorem State.withPending_pending (s : State) (l : List Instr) : (s.withPending l).pending = l := rfl
@[simp] theorem State.withPending_locks (s : State) (l : List Instr) : (s.withPending l).locks = s.locks := rfl
@[simp] theorem State.withPending_chip (s : State) (l : List Instr) : (s.withPending l).chip = s.chip := rfl

/-- The unlock state of a page after it was set. -/
@[simp] theorem State.lock_setLock_same (s : State) (p : Nat) (l : LockSt) : (s.setLock p l).lock p = l := by
  simp [State.lock, State.setLock]

theorem State.lock_setLock_ne (s : State) {p q : Nat} (l : LockSt) (h : p ≠ q) : (s.setLock p l).lock q = s.lock q := by
  simp [State.lock, State.setLock, Tab.at_set_ne _ _ _ h]

/-! ### The table of unlock windows stays sound -/

theorem LockSt.ok_use (l : LockSt) (st : Nat) (h : l.ok = true) : (l.use st).ok = true := by
  unfold LockSt.use
  split_ifs
  · simp [LockSt.ok] at h ⊢; omega
  · rfl

theorem LockSt.ok_key (l : LockSt) (st key : Nat) : (l.key st key).ok = true := by
  unfold LockSt.key
  split_ifs <;> rfl

theorem State.ok_lock (s : State) (p : Nat) (h : s.locksOk = true) : (s.lock p).ok = true := by
  simp only [State.locksOk, Bool.and_eq_true, List.all_eq_true, bne_iff_ne] at h
  unfold State.lock Tab.at
  have key : ∀ t : Tab LockSt, (∀ e ∈ t, e.2 ≠ {} ∧ e.2.ok = true) → ((Tab.find t p).getD {}).ok = true := by
    intro t ht
    induction t with
    | nil => rfl
    | cons e t ih =>
      obtain ⟨k, v⟩ := e
      simp only [Tab.find]
      split_ifs
      · exact (ht (k, v) (by simp)).2
      · exact ih fun e he => ht e (by simp [he])
  exact key _ h.2

/-- Setting a sound unlock state keeps the table sound. -/
theorem State.locksOk_setLock (s : State) (p : Nat) (l : LockSt) (h : s.locksOk = true) (hl : l.ok = true) :
    (s.setLock p l).locksOk = true := by
  simp only [State.locksOk, State.setLock, Bool.and_eq_true, List.all_eq_true, bne_iff_ne] at h ⊢
  refine ⟨Tab.rising_set _ _ _ _ h.1, fun e he => ?_⟩
  rcases Tab.mem_set he with ⟨rfl, hx⟩ | he
  · exact ⟨hx, hl⟩
  · exact h.2 e he

/-- A gated write keeps the table sound. -/
theorem State.locksOk_gated (s : State) (w : Acc) (f : Chip → Chip) (h : s.locksOk = true) : (s.gated w f).locksOk = true := by
  have h1 : ∀ t : State, ∀ c : Chip, t.locksOk = true → ({ t with chip := c } : State).locksOk = true := fun _ _ h => h
  unfold State.gated
  split_ifs
  · exact h
  · exact h1 _ _ h
  · exact h1 _ _ h
  · exact s.locksOk_setLock _ _ h (LockSt.ok_key _ _ _)
  · exact h1 _ _ (s.locksOk_setLock _ _ h (LockSt.ok_use _ _ (s.ok_lock _ h)))

/-- A command of the device keeps the table sound. -/
theorem State.locksOk_onChip (s : State) (f : Chip → Chip) (h : s.locksOk = true) : (s.onChip f).locksOk = true := h

end Sys2Proof.Machine
end

