-- ==== Sys2Proof/Laws/State.lean ====
section
/-! SUPPORT. Laws of State: each update of the device changes its own field and no other. -/

namespace Sys2Proof.Machine

/-! ### Updates of registers: every other field is as before -/

@[simp] theorem Chip.wr_st (c : Chip) (a : Nat) (v : Word) : (c.wr a v).st = c.st := rfl
@[simp] theorem Chip.wr_phase (c : Chip) (a : Nat) (v : Word) : (c.wr a v).phase = c.phase := rfl
@[simp] theorem Chip.wr_shadow (c : Chip) (a : Nat) (v : Word) : (c.wr a v).shadow = c.shadow := rfl
@[simp] theorem Chip.wr_staged (c : Chip) (a : Nat) (v : Word) : (c.wr a v).staged = c.staged := rfl
@[simp] theorem Chip.wr_grpLeft (c : Chip) (a : Nat) (v : Word) : (c.wr a v).grpLeft = c.grpLeft := rfl
@[simp] theorem Chip.wr_latches (c : Chip) (a : Nat) (v : Word) : (c.wr a v).latches = c.latches := rfl
@[simp] theorem Chip.wr_out (c : Chip) (a : Nat) (v : Word) : (c.wr a v).out = c.out := rfl
@[simp] theorem Chip.wr_fresh (c : Chip) (a : Nat) (v : Word) : (c.wr a v).fresh = c.fresh := rfl
@[simp] theorem Chip.wr_mbx (c : Chip) (a : Nat) (v : Word) : (c.wr a v).mbx = c.mbx := rfl
@[simp] theorem Chip.wr_reports (c : Chip) (a : Nat) (v : Word) : (c.wr a v).reports = c.reports := rfl
@[simp] theorem Chip.wr_adm (c : Chip) (a : Nat) (v : Word) : (c.wr a v).adm = c.adm := rfl
@[simp] theorem Chip.wr_regions (c : Chip) (a : Nat) (v : Word) : (c.wr a v).regions = c.regions := rfl
@[simp] theorem Chip.wr_pairs (c : Chip) (a : Nat) (v : Word) : (c.wr a v).pairs = c.pairs := rfl
@[simp] theorem Chip.wr_loops (c : Chip) (a : Nat) (v : Word) : (c.wr a v).loops = c.loops := rfl
@[simp] theorem Chip.wr_mailbox (c : Chip) (a : Nat) (v : Word) : (c.wr a v).mailbox = c.mailbox := rfl
@[simp] theorem Chip.wr_portTag (c : Chip) (a : Nat) (v : Word) : (c.wr a v).portTag = c.portTag := rfl
@[simp] theorem Chip.wr_events (c : Chip) (a : Nat) (v : Word) : (c.wr a v).events = c.events := rfl
@[simp] theorem Chip.wr_freshMark (c : Chip) (a : Nat) (v : Word) : (c.wr a v).freshMark = c.freshMark := rfl
@[simp] theorem Chip.wr_shm (c : Chip) (a : Nat) (v : Word) : (c.wr a v).shm = c.shm := rfl
@[simp] theorem Chip.wr_effects (c : Chip) (a : Nat) (v : Word) : (c.wr a v).effects = c.effects := rfl
@[simp] theorem Chip.wr_marchSlice (c : Chip) (a : Nat) (v : Word) : (c.wr a v).marchSlice = c.marchSlice := rfl
@[simp] theorem Chip.wr_marchBuf (c : Chip) (a : Nat) (v : Word) : (c.wr a v).marchBuf = c.marchBuf := rfl
@[simp] theorem Chip.wr_marchStand (c : Chip) (a : Nat) (v : Word) : (c.wr a v).marchStand = c.marchStand := rfl
@[simp] theorem Chip.wr_tapIr (c : Chip) (a : Nat) (v : Word) : (c.wr a v).tapIr = c.tapIr := rfl
@[simp] theorem Chip.wr_tapDr (c : Chip) (a : Nat) (v : Word) : (c.wr a v).tapDr = c.tapDr := rfl
@[simp] theorem Chip.wr_tapScan (c : Chip) (a : Nat) (v : Word) : (c.wr a v).tapScan = c.tapScan := rfl
@[simp] theorem Chip.wr_tapHold (c : Chip) (a : Nat) (v : Word) : (c.wr a v).tapHold = c.tapHold := rfl
@[simp] theorem Chip.wr_scanStep (c : Chip) (a : Nat) (v : Word) : (c.wr a v).scanStep = c.scanStep := rfl
@[simp] theorem Chip.wr_rolling (c : Chip) (a : Nat) (v : Word) : (c.wr a v).rolling = c.rolling := rfl
@[simp] theorem Chip.wr_admitted (c : Chip) (a : Nat) (v : Word) : (c.wr a v).admitted = c.admitted := rfl
@[simp] theorem Chip.wr_parts (c : Chip) (a : Nat) (v : Word) : (c.wr a v).parts = c.parts := rfl
@[simp] theorem Chip.wr_bankA (c : Chip) (a : Nat) (v : Word) : (c.wr a v).bankA = c.bankA := rfl
@[simp] theorem Chip.wr_bankB (c : Chip) (a : Nat) (v : Word) : (c.wr a v).bankB = c.bankB := rfl
@[simp] theorem Chip.wr_active (c : Chip) (a : Nat) (v : Word) : (c.wr a v).active = c.active := rfl
@[simp] theorem Chip.wr_refLost (c : Chip) (a : Nat) (v : Word) : (c.wr a v).refLost = c.refLost := rfl
@[simp] theorem Chip.wr_portWords (c : Chip) (a : Nat) (v : Word) : (c.wr a v).portWords = c.portWords := rfl
@[simp] theorem Chip.wr_retiredNv (c : Chip) (a : Nat) (v : Word) : (c.wr a v).retiredNv = c.retiredNv := rfl
@[simp] theorem Chip.wr_released (c : Chip) (a : Nat) (v : Word) : (c.wr a v).released = c.released := rfl
@[simp] theorem Chip.wr_refGood (c : Chip) (a : Nat) (v : Word) : (c.wr a v).refGood = c.refGood := rfl
@[simp] theorem Chip.wr_adcs (c : Chip) (a : Nat) (v : Word) : (c.wr a v).adcs = c.adcs := rfl
@[simp] theorem Chip.wr_cmps (c : Chip) (a : Nat) (v : Word) : (c.wr a v).cmps = c.cmps := rfl
@[simp] theorem Chip.wr_pfus (c : Chip) (a : Nat) (v : Word) : (c.wr a v).pfus = c.pfus := rfl
@[simp] theorem Chip.wr_pgs (c : Chip) (a : Nat) (v : Word) : (c.wr a v).pgs = c.pgs := rfl
@[simp] theorem Chip.wr_charges (c : Chip) (a : Nat) (v : Word) : (c.wr a v).charges = c.charges := rfl
@[simp] theorem Chip.wr_scEvents (c : Chip) (a : Nat) (v : Word) : (c.wr a v).scEvents = c.scEvents := rfl
@[simp] theorem Chip.wr_scResp (c : Chip) (a : Nat) (v : Word) : (c.wr a v).scResp = c.scResp := rfl
@[simp] theorem Chip.wr_links (c : Chip) (a : Nat) (v : Word) : (c.wr a v).links = c.links := rfl
@[simp] theorem Chip.wr_isnLines (c : Chip) (a : Nat) (v : Word) : (c.wr a v).isnLines = c.isnLines := rfl
@[simp] theorem Chip.wr_switched (c : Chip) (a : Nat) (v : Word) : (c.wr a v).switched = c.switched := rfl
@[simp] theorem Chip.wr_drives (c : Chip) (a : Nat) (v : Word) : (c.wr a v).drives = c.drives := rfl
@[simp] theorem Chip.wr_acts (c : Chip) (a : Nat) (v : Word) : (c.wr a v).acts = c.acts := rfl
@[simp] theorem Chip.wr_convs (c : Chip) (a : Nat) (v : Word) : (c.wr a v).convs = c.convs := rfl
@[simp] theorem Chip.wr_seqs (c : Chip) (a : Nat) (v : Word) : (c.wr a v).seqs = c.seqs := rfl
@[simp] theorem Chip.wr_refCorr (c : Chip) (a : Nat) (v : Word) : (c.wr a v).refCorr = c.refCorr := rfl
@[simp] theorem Chip.wr_pilots (c : Chip) (a : Nat) (v : Word) : (c.wr a v).pilots = c.pilots := rfl
@[simp] theorem Chip.wr_chans (c : Chip) (a : Nat) (v : Word) : (c.wr a v).chans = c.chans := rfl
@[simp] theorem Chip.wr_doms (c : Chip) (a : Nat) (v : Word) : (c.wr a v).doms = c.doms := rfl
@[simp] theorem Chip.wr_supRuns (c : Chip) (a : Nat) (v : Word) : (c.wr a v).supRuns = c.supRuns := rfl
@[simp] theorem Chip.wr_dlPend (c : Chip) (a : Nat) (v : Word) : (c.wr a v).dlPend = c.dlPend := rfl
@[simp] theorem Chip.wr_ken (c : Chip) (a : Nat) (v : Word) : (c.wr a v).ken = c.ken := rfl
@[simp] theorem Chip.wr_isn (c : Chip) (a : Nat) (v : Word) : (c.wr a v).isn = c.isn := rfl
@[simp] theorem Chip.wr_ports (c : Chip) (a : Nat) (v : Word) : (c.wr a v).ports = c.ports := rfl
@[simp] theorem Chip.wr_el (c : Chip) (a : Nat) (v : Word) : (c.wr a v).el = c.el := rfl
@[simp] theorem Chip.wr_sec (c : Chip) (a : Nat) (v : Word) : (c.wr a v).sec = c.sec := rfl
@[simp] theorem Chip.wr_cans (c : Chip) (a : Nat) (v : Word) : (c.wr a v).cans = c.cans := rfl
@[simp] theorem Chip.wr_mdio (c : Chip) (a : Nat) (v : Word) : (c.wr a v).mdio = c.mdio := rfl
@[simp] theorem Chip.wr_wipe (c : Chip) (a : Nat) (v : Word) : (c.wr a v).wipe = c.wipe := rfl
@[simp] theorem Chip.wr_mods (c : Chip) (a : Nat) (v : Word) : (c.wr a v).mods = c.mods := rfl
@[simp] theorem Chip.wr_flushAt (c : Chip) (a : Nat) (v : Word) : (c.wr a v).flushAt = c.flushAt := rfl
@[simp] theorem Chip.wr_lifeNv (c : Chip) (a : Nat) (v : Word) : (c.wr a v).lifeNv = c.lifeNv := rfl
@[simp] theorem Chip.wr_genA (c : Chip) (a : Nat) (v : Word) : (c.wr a v).genA = c.genA := rfl
@[simp] theorem Chip.wr_genB (c : Chip) (a : Nat) (v : Word) : (c.wr a v).genB = c.genB := rfl
@[simp] theorem Chip.wr_sealA (c : Chip) (a : Nat) (v : Word) : (c.wr a v).sealA = c.sealA := rfl
@[simp] theorem Chip.wr_sealB (c : Chip) (a : Nat) (v : Word) : (c.wr a v).sealB = c.sealB := rfl
@[simp] theorem Chip.wr_start (c : Chip) (a : Nat) (v : Word) : (c.wr a v).start = c.start := rfl

@[simp] theorem Chip.set_st (c : Chip) (f : Fld) (x : Nat) : (c.set f x).st = c.st := rfl
@[simp] theorem Chip.set_phase (c : Chip) (f : Fld) (x : Nat) : (c.set f x).phase = c.phase := rfl
@[simp] theorem Chip.set_shadow (c : Chip) (f : Fld) (x : Nat) : (c.set f x).shadow = c.shadow := rfl
@[simp] theorem Chip.set_staged (c : Chip) (f : Fld) (x : Nat) : (c.set f x).staged = c.staged := rfl
@[simp] theorem Chip.set_grpLeft (c : Chip) (f : Fld) (x : Nat) : (c.set f x).grpLeft = c.grpLeft := rfl
@[simp] theorem Chip.set_latches (c : Chip) (f : Fld) (x : Nat) : (c.set f x).latches = c.latches := rfl
@[simp] theorem Chip.set_out (c : Chip) (f : Fld) (x : Nat) : (c.set f x).out = c.out := rfl
@[simp] theorem Chip.set_fresh (c : Chip) (f : Fld) (x : Nat) : (c.set f x).fresh = c.fresh := rfl
@[simp] theorem Chip.set_mbx (c : Chip) (f : Fld) (x : Nat) : (c.set f x).mbx = c.mbx := rfl
@[simp] theorem Chip.set_reports (c : Chip) (f : Fld) (x : Nat) : (c.set f x).reports = c.reports := rfl
@[simp] theorem Chip.set_adm (c : Chip) (f : Fld) (x : Nat) : (c.set f x).adm = c.adm := rfl
@[simp] theorem Chip.set_regions (c : Chip) (f : Fld) (x : Nat) : (c.set f x).regions = c.regions := rfl
@[simp] theorem Chip.set_pairs (c : Chip) (f : Fld) (x : Nat) : (c.set f x).pairs = c.pairs := rfl
@[simp] theorem Chip.set_loops (c : Chip) (f : Fld) (x : Nat) : (c.set f x).loops = c.loops := rfl
@[simp] theorem Chip.set_mailbox (c : Chip) (f : Fld) (x : Nat) : (c.set f x).mailbox = c.mailbox := rfl
@[simp] theorem Chip.set_portTag (c : Chip) (f : Fld) (x : Nat) : (c.set f x).portTag = c.portTag := rfl
@[simp] theorem Chip.set_events (c : Chip) (f : Fld) (x : Nat) : (c.set f x).events = c.events := rfl
@[simp] theorem Chip.set_freshMark (c : Chip) (f : Fld) (x : Nat) : (c.set f x).freshMark = c.freshMark := rfl
@[simp] theorem Chip.set_shm (c : Chip) (f : Fld) (x : Nat) : (c.set f x).shm = c.shm := rfl
@[simp] theorem Chip.set_effects (c : Chip) (f : Fld) (x : Nat) : (c.set f x).effects = c.effects := rfl
@[simp] theorem Chip.set_marchSlice (c : Chip) (f : Fld) (x : Nat) : (c.set f x).marchSlice = c.marchSlice := rfl
@[simp] theorem Chip.set_marchBuf (c : Chip) (f : Fld) (x : Nat) : (c.set f x).marchBuf = c.marchBuf := rfl
@[simp] theorem Chip.set_marchStand (c : Chip) (f : Fld) (x : Nat) : (c.set f x).marchStand = c.marchStand := rfl
@[simp] theorem Chip.set_tapIr (c : Chip) (f : Fld) (x : Nat) : (c.set f x).tapIr = c.tapIr := rfl
@[simp] theorem Chip.set_tapDr (c : Chip) (f : Fld) (x : Nat) : (c.set f x).tapDr = c.tapDr := rfl
@[simp] theorem Chip.set_tapScan (c : Chip) (f : Fld) (x : Nat) : (c.set f x).tapScan = c.tapScan := rfl
@[simp] theorem Chip.set_tapHold (c : Chip) (f : Fld) (x : Nat) : (c.set f x).tapHold = c.tapHold := rfl
@[simp] theorem Chip.set_scanStep (c : Chip) (f : Fld) (x : Nat) : (c.set f x).scanStep = c.scanStep := rfl
@[simp] theorem Chip.set_rolling (c : Chip) (f : Fld) (x : Nat) : (c.set f x).rolling = c.rolling := rfl
@[simp] theorem Chip.set_admitted (c : Chip) (f : Fld) (x : Nat) : (c.set f x).admitted = c.admitted := rfl
@[simp] theorem Chip.set_parts (c : Chip) (f : Fld) (x : Nat) : (c.set f x).parts = c.parts := rfl
@[simp] theorem Chip.set_bankA (c : Chip) (f : Fld) (x : Nat) : (c.set f x).bankA = c.bankA := rfl
@[simp] theorem Chip.set_bankB (c : Chip) (f : Fld) (x : Nat) : (c.set f x).bankB = c.bankB := rfl
@[simp] theorem Chip.set_active (c : Chip) (f : Fld) (x : Nat) : (c.set f x).active = c.active := rfl
@[simp] theorem Chip.set_refLost (c : Chip) (f : Fld) (x : Nat) : (c.set f x).refLost = c.refLost := rfl
@[simp] theorem Chip.set_portWords (c : Chip) (f : Fld) (x : Nat) : (c.set f x).portWords = c.portWords := rfl
@[simp] theorem Chip.set_retiredNv (c : Chip) (f : Fld) (x : Nat) : (c.set f x).retiredNv = c.retiredNv := rfl
@[simp] theorem Chip.set_released (c : Chip) (f : Fld) (x : Nat) : (c.set f x).released = c.released := rfl
@[simp] theorem Chip.set_refGood (c : Chip) (f : Fld) (x : Nat) : (c.set f x).refGood = c.refGood := rfl
@[simp] theorem Chip.set_adcs (c : Chip) (f : Fld) (x : Nat) : (c.set f x).adcs = c.adcs := rfl
@[simp] theorem Chip.set_cmps (c : Chip) (f : Fld) (x : Nat) : (c.set f x).cmps = c.cmps := rfl
@[simp] theorem Chip.set_pfus (c : Chip) (f : Fld) (x : Nat) : (c.set f x).pfus = c.pfus := rfl
@[simp] theorem Chip.set_pgs (c : Chip) (f : Fld) (x : Nat) : (c.set f x).pgs = c.pgs := rfl
@[simp] theorem Chip.set_charges (c : Chip) (f : Fld) (x : Nat) : (c.set f x).charges = c.charges := rfl
@[simp] theorem Chip.set_scEvents (c : Chip) (f : Fld) (x : Nat) : (c.set f x).scEvents = c.scEvents := rfl
@[simp] theorem Chip.set_scResp (c : Chip) (f : Fld) (x : Nat) : (c.set f x).scResp = c.scResp := rfl
@[simp] theorem Chip.set_links (c : Chip) (f : Fld) (x : Nat) : (c.set f x).links = c.links := rfl
@[simp] theorem Chip.set_isnLines (c : Chip) (f : Fld) (x : Nat) : (c.set f x).isnLines = c.isnLines := rfl
@[simp] theorem Chip.set_switched (c : Chip) (f : Fld) (x : Nat) : (c.set f x).switched = c.switched := rfl
@[simp] theorem Chip.set_drives (c : Chip) (f : Fld) (x : Nat) : (c.set f x).drives = c.drives := rfl
@[simp] theorem Chip.set_acts (c : Chip) (f : Fld) (x : Nat) : (c.set f x).acts = c.acts := rfl
@[simp] theorem Chip.set_convs (c : Chip) (f : Fld) (x : Nat) : (c.set f x).convs = c.convs := rfl
@[simp] theorem Chip.set_seqs (c : Chip) (f : Fld) (x : Nat) : (c.set f x).seqs = c.seqs := rfl
@[simp] theorem Chip.set_refCorr (c : Chip) (f : Fld) (x : Nat) : (c.set f x).refCorr = c.refCorr := rfl
@[simp] theorem Chip.set_pilots (c : Chip) (f : Fld) (x : Nat) : (c.set f x).pilots = c.pilots := rfl
@[simp] theorem Chip.set_chans (c : Chip) (f : Fld) (x : Nat) : (c.set f x).chans = c.chans := rfl
@[simp] theorem Chip.set_doms (c : Chip) (f : Fld) (x : Nat) : (c.set f x).doms = c.doms := rfl
@[simp] theorem Chip.set_supRuns (c : Chip) (f : Fld) (x : Nat) : (c.set f x).supRuns = c.supRuns := rfl
@[simp] theorem Chip.set_dlPend (c : Chip) (f : Fld) (x : Nat) : (c.set f x).dlPend = c.dlPend := rfl
@[simp] theorem Chip.set_ken (c : Chip) (f : Fld) (x : Nat) : (c.set f x).ken = c.ken := rfl
@[simp] theorem Chip.set_isn (c : Chip) (f : Fld) (x : Nat) : (c.set f x).isn = c.isn := rfl
@[simp] theorem Chip.set_ports (c : Chip) (f : Fld) (x : Nat) : (c.set f x).ports = c.ports := rfl
@[simp] theorem Chip.set_el (c : Chip) (f : Fld) (x : Nat) : (c.set f x).el = c.el := rfl
@[simp] theorem Chip.set_sec (c : Chip) (f : Fld) (x : Nat) : (c.set f x).sec = c.sec := rfl
@[simp] theorem Chip.set_cans (c : Chip) (f : Fld) (x : Nat) : (c.set f x).cans = c.cans := rfl
@[simp] theorem Chip.set_mdio (c : Chip) (f : Fld) (x : Nat) : (c.set f x).mdio = c.mdio := rfl
@[simp] theorem Chip.set_wipe (c : Chip) (f : Fld) (x : Nat) : (c.set f x).wipe = c.wipe := rfl
@[simp] theorem Chip.set_mods (c : Chip) (f : Fld) (x : Nat) : (c.set f x).mods = c.mods := rfl
@[simp] theorem Chip.set_flushAt (c : Chip) (f : Fld) (x : Nat) : (c.set f x).flushAt = c.flushAt := rfl
@[simp] theorem Chip.set_lifeNv (c : Chip) (f : Fld) (x : Nat) : (c.set f x).lifeNv = c.lifeNv := rfl
@[simp] theorem Chip.set_genA (c : Chip) (f : Fld) (x : Nat) : (c.set f x).genA = c.genA := rfl
@[simp] theorem Chip.set_genB (c : Chip) (f : Fld) (x : Nat) : (c.set f x).genB = c.genB := rfl
@[simp] theorem Chip.set_sealA (c : Chip) (f : Fld) (x : Nat) : (c.set f x).sealA = c.sealA := rfl
@[simp] theorem Chip.set_sealB (c : Chip) (f : Fld) (x : Nat) : (c.set f x).sealB = c.sealB := rfl
@[simp] theorem Chip.set_start (c : Chip) (f : Fld) (x : Nat) : (c.set f x).start = c.start := rfl

@[simp] theorem Chip.raise_st (c : Chip) (f : Fld) : (c.raise f).st = c.st := rfl
@[simp] theorem Chip.raise_phase (c : Chip) (f : Fld) : (c.raise f).phase = c.phase := rfl
@[simp] theorem Chip.raise_shadow (c : Chip) (f : Fld) : (c.raise f).shadow = c.shadow := rfl
@[simp] theorem Chip.raise_staged (c : Chip) (f : Fld) : (c.raise f).staged = c.staged := rfl
@[simp] theorem Chip.raise_grpLeft (c : Chip) (f : Fld) : (c.raise f).grpLeft = c.grpLeft := rfl
@[simp] theorem Chip.raise_latches (c : Chip) (f : Fld) : (c.raise f).latches = c.latches := rfl
@[simp] theorem Chip.raise_out (c : Chip) (f : Fld) : (c.raise f).out = c.out := rfl
@[simp] theorem Chip.raise_fresh (c : Chip) (f : Fld) : (c.raise f).fresh = c.fresh := rfl
@[simp] theorem Chip.raise_mbx (c : Chip) (f : Fld) : (c.raise f).mbx = c.mbx := rfl
@[simp] theorem Chip.raise_reports (c : Chip) (f : Fld) : (c.raise f).reports = c.reports := rfl
@[simp] theorem Chip.raise_adm (c : Chip) (f : Fld) : (c.raise f).adm = c.adm := rfl
@[simp] theorem Chip.raise_regions (c : Chip) (f : Fld) : (c.raise f).regions = c.regions := rfl
@[simp] theorem Chip.raise_pairs (c : Chip) (f : Fld) : (c.raise f).pairs = c.pairs := rfl
@[simp] theorem Chip.raise_loops (c : Chip) (f : Fld) : (c.raise f).loops = c.loops := rfl
@[simp] theorem Chip.raise_mailbox (c : Chip) (f : Fld) : (c.raise f).mailbox = c.mailbox := rfl
@[simp] theorem Chip.raise_portTag (c : Chip) (f : Fld) : (c.raise f).portTag = c.portTag := rfl
@[simp] theorem Chip.raise_events (c : Chip) (f : Fld) : (c.raise f).events = c.events := rfl
@[simp] theorem Chip.raise_freshMark (c : Chip) (f : Fld) : (c.raise f).freshMark = c.freshMark := rfl
@[simp] theorem Chip.raise_shm (c : Chip) (f : Fld) : (c.raise f).shm = c.shm := rfl
@[simp] theorem Chip.raise_effects (c : Chip) (f : Fld) : (c.raise f).effects = c.effects := rfl
@[simp] theorem Chip.raise_marchSlice (c : Chip) (f : Fld) : (c.raise f).marchSlice = c.marchSlice := rfl
@[simp] theorem Chip.raise_marchBuf (c : Chip) (f : Fld) : (c.raise f).marchBuf = c.marchBuf := rfl
@[simp] theorem Chip.raise_marchStand (c : Chip) (f : Fld) : (c.raise f).marchStand = c.marchStand := rfl
@[simp] theorem Chip.raise_tapIr (c : Chip) (f : Fld) : (c.raise f).tapIr = c.tapIr := rfl
@[simp] theorem Chip.raise_tapDr (c : Chip) (f : Fld) : (c.raise f).tapDr = c.tapDr := rfl
@[simp] theorem Chip.raise_tapScan (c : Chip) (f : Fld) : (c.raise f).tapScan = c.tapScan := rfl
@[simp] theorem Chip.raise_tapHold (c : Chip) (f : Fld) : (c.raise f).tapHold = c.tapHold := rfl
@[simp] theorem Chip.raise_scanStep (c : Chip) (f : Fld) : (c.raise f).scanStep = c.scanStep := rfl
@[simp] theorem Chip.raise_rolling (c : Chip) (f : Fld) : (c.raise f).rolling = c.rolling := rfl
@[simp] theorem Chip.raise_admitted (c : Chip) (f : Fld) : (c.raise f).admitted = c.admitted := rfl
@[simp] theorem Chip.raise_parts (c : Chip) (f : Fld) : (c.raise f).parts = c.parts := rfl
@[simp] theorem Chip.raise_bankA (c : Chip) (f : Fld) : (c.raise f).bankA = c.bankA := rfl
@[simp] theorem Chip.raise_bankB (c : Chip) (f : Fld) : (c.raise f).bankB = c.bankB := rfl
@[simp] theorem Chip.raise_active (c : Chip) (f : Fld) : (c.raise f).active = c.active := rfl
@[simp] theorem Chip.raise_refLost (c : Chip) (f : Fld) : (c.raise f).refLost = c.refLost := rfl
@[simp] theorem Chip.raise_portWords (c : Chip) (f : Fld) : (c.raise f).portWords = c.portWords := rfl
@[simp] theorem Chip.raise_retiredNv (c : Chip) (f : Fld) : (c.raise f).retiredNv = c.retiredNv := rfl
@[simp] theorem Chip.raise_released (c : Chip) (f : Fld) : (c.raise f).released = c.released := rfl
@[simp] theorem Chip.raise_refGood (c : Chip) (f : Fld) : (c.raise f).refGood = c.refGood := rfl
@[simp] theorem Chip.raise_adcs (c : Chip) (f : Fld) : (c.raise f).adcs = c.adcs := rfl
@[simp] theorem Chip.raise_cmps (c : Chip) (f : Fld) : (c.raise f).cmps = c.cmps := rfl
@[simp] theorem Chip.raise_pfus (c : Chip) (f : Fld) : (c.raise f).pfus = c.pfus := rfl
@[simp] theorem Chip.raise_pgs (c : Chip) (f : Fld) : (c.raise f).pgs = c.pgs := rfl
@[simp] theorem Chip.raise_charges (c : Chip) (f : Fld) : (c.raise f).charges = c.charges := rfl
@[simp] theorem Chip.raise_scEvents (c : Chip) (f : Fld) : (c.raise f).scEvents = c.scEvents := rfl
@[simp] theorem Chip.raise_scResp (c : Chip) (f : Fld) : (c.raise f).scResp = c.scResp := rfl
@[simp] theorem Chip.raise_links (c : Chip) (f : Fld) : (c.raise f).links = c.links := rfl
@[simp] theorem Chip.raise_isnLines (c : Chip) (f : Fld) : (c.raise f).isnLines = c.isnLines := rfl
@[simp] theorem Chip.raise_switched (c : Chip) (f : Fld) : (c.raise f).switched = c.switched := rfl
@[simp] theorem Chip.raise_drives (c : Chip) (f : Fld) : (c.raise f).drives = c.drives := rfl
@[simp] theorem Chip.raise_acts (c : Chip) (f : Fld) : (c.raise f).acts = c.acts := rfl
@[simp] theorem Chip.raise_convs (c : Chip) (f : Fld) : (c.raise f).convs = c.convs := rfl
@[simp] theorem Chip.raise_seqs (c : Chip) (f : Fld) : (c.raise f).seqs = c.seqs := rfl
@[simp] theorem Chip.raise_refCorr (c : Chip) (f : Fld) : (c.raise f).refCorr = c.refCorr := rfl
@[simp] theorem Chip.raise_pilots (c : Chip) (f : Fld) : (c.raise f).pilots = c.pilots := rfl
@[simp] theorem Chip.raise_chans (c : Chip) (f : Fld) : (c.raise f).chans = c.chans := rfl
@[simp] theorem Chip.raise_doms (c : Chip) (f : Fld) : (c.raise f).doms = c.doms := rfl
@[simp] theorem Chip.raise_supRuns (c : Chip) (f : Fld) : (c.raise f).supRuns = c.supRuns := rfl
@[simp] theorem Chip.raise_dlPend (c : Chip) (f : Fld) : (c.raise f).dlPend = c.dlPend := rfl
@[simp] theorem Chip.raise_ken (c : Chip) (f : Fld) : (c.raise f).ken = c.ken := rfl
@[simp] theorem Chip.raise_isn (c : Chip) (f : Fld) : (c.raise f).isn = c.isn := rfl
@[simp] theorem Chip.raise_ports (c : Chip) (f : Fld) : (c.raise f).ports = c.ports := rfl
@[simp] theorem Chip.raise_el (c : Chip) (f : Fld) : (c.raise f).el = c.el := rfl
@[simp] theorem Chip.raise_sec (c : Chip) (f : Fld) : (c.raise f).sec = c.sec := rfl
@[simp] theorem Chip.raise_cans (c : Chip) (f : Fld) : (c.raise f).cans = c.cans := rfl
@[simp] theorem Chip.raise_mdio (c : Chip) (f : Fld) : (c.raise f).mdio = c.mdio := rfl
@[simp] theorem Chip.raise_wipe (c : Chip) (f : Fld) : (c.raise f).wipe = c.wipe := rfl
@[simp] theorem Chip.raise_mods (c : Chip) (f : Fld) : (c.raise f).mods = c.mods := rfl
@[simp] theorem Chip.raise_flushAt (c : Chip) (f : Fld) : (c.raise f).flushAt = c.flushAt := rfl
@[simp] theorem Chip.raise_lifeNv (c : Chip) (f : Fld) : (c.raise f).lifeNv = c.lifeNv := rfl
@[simp] theorem Chip.raise_genA (c : Chip) (f : Fld) : (c.raise f).genA = c.genA := rfl
@[simp] theorem Chip.raise_genB (c : Chip) (f : Fld) : (c.raise f).genB = c.genB := rfl
@[simp] theorem Chip.raise_sealA (c : Chip) (f : Fld) : (c.raise f).sealA = c.sealA := rfl
@[simp] theorem Chip.raise_sealB (c : Chip) (f : Fld) : (c.raise f).sealB = c.sealB := rfl
@[simp] theorem Chip.raise_start (c : Chip) (f : Fld) : (c.raise f).start = c.start := rfl

@[simp] theorem Chip.clr_st (c : Chip) (f : Fld) : (c.clr f).st = c.st := rfl
@[simp] theorem Chip.clr_phase (c : Chip) (f : Fld) : (c.clr f).phase = c.phase := rfl
@[simp] theorem Chip.clr_shadow (c : Chip) (f : Fld) : (c.clr f).shadow = c.shadow := rfl
@[simp] theorem Chip.clr_staged (c : Chip) (f : Fld) : (c.clr f).staged = c.staged := rfl
@[simp] theorem Chip.clr_grpLeft (c : Chip) (f : Fld) : (c.clr f).grpLeft = c.grpLeft := rfl
@[simp] theorem Chip.clr_latches (c : Chip) (f : Fld) : (c.clr f).latches = c.latches := rfl
@[simp] theorem Chip.clr_out (c : Chip) (f : Fld) : (c.clr f).out = c.out := rfl
@[simp] theorem Chip.clr_fresh (c : Chip) (f : Fld) : (c.clr f).fresh = c.fresh := rfl
@[simp] theorem Chip.clr_mbx (c : Chip) (f : Fld) : (c.clr f).mbx = c.mbx := rfl
@[simp] theorem Chip.clr_reports (c : Chip) (f : Fld) : (c.clr f).reports = c.reports := rfl
@[simp] theorem Chip.clr_adm (c : Chip) (f : Fld) : (c.clr f).adm = c.adm := rfl
@[simp] theorem Chip.clr_regions (c : Chip) (f : Fld) : (c.clr f).regions = c.regions := rfl
@[simp] theorem Chip.clr_pairs (c : Chip) (f : Fld) : (c.clr f).pairs = c.pairs := rfl
@[simp] theorem Chip.clr_loops (c : Chip) (f : Fld) : (c.clr f).loops = c.loops := rfl
@[simp] theorem Chip.clr_mailbox (c : Chip) (f : Fld) : (c.clr f).mailbox = c.mailbox := rfl
@[simp] theorem Chip.clr_portTag (c : Chip) (f : Fld) : (c.clr f).portTag = c.portTag := rfl
@[simp] theorem Chip.clr_events (c : Chip) (f : Fld) : (c.clr f).events = c.events := rfl
@[simp] theorem Chip.clr_freshMark (c : Chip) (f : Fld) : (c.clr f).freshMark = c.freshMark := rfl
@[simp] theorem Chip.clr_shm (c : Chip) (f : Fld) : (c.clr f).shm = c.shm := rfl
@[simp] theorem Chip.clr_effects (c : Chip) (f : Fld) : (c.clr f).effects = c.effects := rfl
@[simp] theorem Chip.clr_marchSlice (c : Chip) (f : Fld) : (c.clr f).marchSlice = c.marchSlice := rfl
@[simp] theorem Chip.clr_marchBuf (c : Chip) (f : Fld) : (c.clr f).marchBuf = c.marchBuf := rfl
@[simp] theorem Chip.clr_marchStand (c : Chip) (f : Fld) : (c.clr f).marchStand = c.marchStand := rfl
@[simp] theorem Chip.clr_tapIr (c : Chip) (f : Fld) : (c.clr f).tapIr = c.tapIr := rfl
@[simp] theorem Chip.clr_tapDr (c : Chip) (f : Fld) : (c.clr f).tapDr = c.tapDr := rfl
@[simp] theorem Chip.clr_tapScan (c : Chip) (f : Fld) : (c.clr f).tapScan = c.tapScan := rfl
@[simp] theorem Chip.clr_tapHold (c : Chip) (f : Fld) : (c.clr f).tapHold = c.tapHold := rfl
@[simp] theorem Chip.clr_scanStep (c : Chip) (f : Fld) : (c.clr f).scanStep = c.scanStep := rfl
@[simp] theorem Chip.clr_rolling (c : Chip) (f : Fld) : (c.clr f).rolling = c.rolling := rfl
@[simp] theorem Chip.clr_admitted (c : Chip) (f : Fld) : (c.clr f).admitted = c.admitted := rfl
@[simp] theorem Chip.clr_parts (c : Chip) (f : Fld) : (c.clr f).parts = c.parts := rfl
@[simp] theorem Chip.clr_bankA (c : Chip) (f : Fld) : (c.clr f).bankA = c.bankA := rfl
@[simp] theorem Chip.clr_bankB (c : Chip) (f : Fld) : (c.clr f).bankB = c.bankB := rfl
@[simp] theorem Chip.clr_active (c : Chip) (f : Fld) : (c.clr f).active = c.active := rfl
@[simp] theorem Chip.clr_refLost (c : Chip) (f : Fld) : (c.clr f).refLost = c.refLost := rfl
@[simp] theorem Chip.clr_portWords (c : Chip) (f : Fld) : (c.clr f).portWords = c.portWords := rfl
@[simp] theorem Chip.clr_retiredNv (c : Chip) (f : Fld) : (c.clr f).retiredNv = c.retiredNv := rfl
@[simp] theorem Chip.clr_released (c : Chip) (f : Fld) : (c.clr f).released = c.released := rfl
@[simp] theorem Chip.clr_refGood (c : Chip) (f : Fld) : (c.clr f).refGood = c.refGood := rfl
@[simp] theorem Chip.clr_adcs (c : Chip) (f : Fld) : (c.clr f).adcs = c.adcs := rfl
@[simp] theorem Chip.clr_cmps (c : Chip) (f : Fld) : (c.clr f).cmps = c.cmps := rfl
@[simp] theorem Chip.clr_pfus (c : Chip) (f : Fld) : (c.clr f).pfus = c.pfus := rfl
@[simp] theorem Chip.clr_pgs (c : Chip) (f : Fld) : (c.clr f).pgs = c.pgs := rfl
@[simp] theorem Chip.clr_charges (c : Chip) (f : Fld) : (c.clr f).charges = c.charges := rfl
@[simp] theorem Chip.clr_scEvents (c : Chip) (f : Fld) : (c.clr f).scEvents = c.scEvents := rfl
@[simp] theorem Chip.clr_scResp (c : Chip) (f : Fld) : (c.clr f).scResp = c.scResp := rfl
@[simp] theorem Chip.clr_links (c : Chip) (f : Fld) : (c.clr f).links = c.links := rfl
@[simp] theorem Chip.clr_isnLines (c : Chip) (f : Fld) : (c.clr f).isnLines = c.isnLines := rfl
@[simp] theorem Chip.clr_switched (c : Chip) (f : Fld) : (c.clr f).switched = c.switched := rfl
@[simp] theorem Chip.clr_drives (c : Chip) (f : Fld) : (c.clr f).drives = c.drives := rfl
@[simp] theorem Chip.clr_acts (c : Chip) (f : Fld) : (c.clr f).acts = c.acts := rfl
@[simp] theorem Chip.clr_convs (c : Chip) (f : Fld) : (c.clr f).convs = c.convs := rfl
@[simp] theorem Chip.clr_seqs (c : Chip) (f : Fld) : (c.clr f).seqs = c.seqs := rfl
@[simp] theorem Chip.clr_refCorr (c : Chip) (f : Fld) : (c.clr f).refCorr = c.refCorr := rfl
@[simp] theorem Chip.clr_pilots (c : Chip) (f : Fld) : (c.clr f).pilots = c.pilots := rfl
@[simp] theorem Chip.clr_chans (c : Chip) (f : Fld) : (c.clr f).chans = c.chans := rfl
@[simp] theorem Chip.clr_doms (c : Chip) (f : Fld) : (c.clr f).doms = c.doms := rfl
@[simp] theorem Chip.clr_supRuns (c : Chip) (f : Fld) : (c.clr f).supRuns = c.supRuns := rfl
@[simp] theorem Chip.clr_dlPend (c : Chip) (f : Fld) : (c.clr f).dlPend = c.dlPend := rfl
@[simp] theorem Chip.clr_ken (c : Chip) (f : Fld) : (c.clr f).ken = c.ken := rfl
@[simp] theorem Chip.clr_isn (c : Chip) (f : Fld) : (c.clr f).isn = c.isn := rfl
@[simp] theorem Chip.clr_ports (c : Chip) (f : Fld) : (c.clr f).ports = c.ports := rfl
@[simp] theorem Chip.clr_el (c : Chip) (f : Fld) : (c.clr f).el = c.el := rfl
@[simp] theorem Chip.clr_sec (c : Chip) (f : Fld) : (c.clr f).sec = c.sec := rfl
@[simp] theorem Chip.clr_cans (c : Chip) (f : Fld) : (c.clr f).cans = c.cans := rfl
@[simp] theorem Chip.clr_mdio (c : Chip) (f : Fld) : (c.clr f).mdio = c.mdio := rfl
@[simp] theorem Chip.clr_wipe (c : Chip) (f : Fld) : (c.clr f).wipe = c.wipe := rfl
@[simp] theorem Chip.clr_mods (c : Chip) (f : Fld) : (c.clr f).mods = c.mods := rfl
@[simp] theorem Chip.clr_flushAt (c : Chip) (f : Fld) : (c.clr f).flushAt = c.flushAt := rfl
@[simp] theorem Chip.clr_lifeNv (c : Chip) (f : Fld) : (c.clr f).lifeNv = c.lifeNv := rfl
@[simp] theorem Chip.clr_genA (c : Chip) (f : Fld) : (c.clr f).genA = c.genA := rfl
@[simp] theorem Chip.clr_genB (c : Chip) (f : Fld) : (c.clr f).genB = c.genB := rfl
@[simp] theorem Chip.clr_sealA (c : Chip) (f : Fld) : (c.clr f).sealA = c.sealA := rfl
@[simp] theorem Chip.clr_sealB (c : Chip) (f : Fld) : (c.clr f).sealB = c.sealB := rfl
@[simp] theorem Chip.clr_start (c : Chip) (f : Fld) : (c.clr f).start = c.start := rfl

@[simp] theorem Chip.inc_st (c : Chip) (f : Fld) : (c.inc f).st = c.st := rfl
@[simp] theorem Chip.inc_phase (c : Chip) (f : Fld) : (c.inc f).phase = c.phase := rfl
@[simp] theorem Chip.inc_shadow (c : Chip) (f : Fld) : (c.inc f).shadow = c.shadow := rfl
@[simp] theorem Chip.inc_staged (c : Chip) (f : Fld) : (c.inc f).staged = c.staged := rfl
@[simp] theorem Chip.inc_grpLeft (c : Chip) (f : Fld) : (c.inc f).grpLeft = c.grpLeft := rfl
@[simp] theorem Chip.inc_latches (c : Chip) (f : Fld) : (c.inc f).latches = c.latches := rfl
@[simp] theorem Chip.inc_out (c : Chip) (f : Fld) : (c.inc f).out = c.out := rfl
@[simp] theorem Chip.inc_fresh (c : Chip) (f : Fld) : (c.inc f).fresh = c.fresh := rfl
@[simp] theorem Chip.inc_mbx (c : Chip) (f : Fld) : (c.inc f).mbx = c.mbx := rfl
@[simp] theorem Chip.inc_reports (c : Chip) (f : Fld) : (c.inc f).reports = c.reports := rfl
@[simp] theorem Chip.inc_adm (c : Chip) (f : Fld) : (c.inc f).adm = c.adm := rfl
@[simp] theorem Chip.inc_regions (c : Chip) (f : Fld) : (c.inc f).regions = c.regions := rfl
@[simp] theorem Chip.inc_pairs (c : Chip) (f : Fld) : (c.inc f).pairs = c.pairs := rfl
@[simp] theorem Chip.inc_loops (c : Chip) (f : Fld) : (c.inc f).loops = c.loops := rfl
@[simp] theorem Chip.inc_mailbox (c : Chip) (f : Fld) : (c.inc f).mailbox = c.mailbox := rfl
@[simp] theorem Chip.inc_portTag (c : Chip) (f : Fld) : (c.inc f).portTag = c.portTag := rfl
@[simp] theorem Chip.inc_events (c : Chip) (f : Fld) : (c.inc f).events = c.events := rfl
@[simp] theorem Chip.inc_freshMark (c : Chip) (f : Fld) : (c.inc f).freshMark = c.freshMark := rfl
@[simp] theorem Chip.inc_shm (c : Chip) (f : Fld) : (c.inc f).shm = c.shm := rfl
@[simp] theorem Chip.inc_effects (c : Chip) (f : Fld) : (c.inc f).effects = c.effects := rfl
@[simp] theorem Chip.inc_marchSlice (c : Chip) (f : Fld) : (c.inc f).marchSlice = c.marchSlice := rfl
@[simp] theorem Chip.inc_marchBuf (c : Chip) (f : Fld) : (c.inc f).marchBuf = c.marchBuf := rfl
@[simp] theorem Chip.inc_marchStand (c : Chip) (f : Fld) : (c.inc f).marchStand = c.marchStand := rfl
@[simp] theorem Chip.inc_tapIr (c : Chip) (f : Fld) : (c.inc f).tapIr = c.tapIr := rfl
@[simp] theorem Chip.inc_tapDr (c : Chip) (f : Fld) : (c.inc f).tapDr = c.tapDr := rfl
@[simp] theorem Chip.inc_tapScan (c : Chip) (f : Fld) : (c.inc f).tapScan = c.tapScan := rfl
@[simp] theorem Chip.inc_tapHold (c : Chip) (f : Fld) : (c.inc f).tapHold = c.tapHold := rfl
@[simp] theorem Chip.inc_scanStep (c : Chip) (f : Fld) : (c.inc f).scanStep = c.scanStep := rfl
@[simp] theorem Chip.inc_rolling (c : Chip) (f : Fld) : (c.inc f).rolling = c.rolling := rfl
@[simp] theorem Chip.inc_admitted (c : Chip) (f : Fld) : (c.inc f).admitted = c.admitted := rfl
@[simp] theorem Chip.inc_parts (c : Chip) (f : Fld) : (c.inc f).parts = c.parts := rfl
@[simp] theorem Chip.inc_bankA (c : Chip) (f : Fld) : (c.inc f).bankA = c.bankA := rfl
@[simp] theorem Chip.inc_bankB (c : Chip) (f : Fld) : (c.inc f).bankB = c.bankB := rfl
@[simp] theorem Chip.inc_active (c : Chip) (f : Fld) : (c.inc f).active = c.active := rfl
@[simp] theorem Chip.inc_refLost (c : Chip) (f : Fld) : (c.inc f).refLost = c.refLost := rfl
@[simp] theorem Chip.inc_portWords (c : Chip) (f : Fld) : (c.inc f).portWords = c.portWords := rfl
@[simp] theorem Chip.inc_retiredNv (c : Chip) (f : Fld) : (c.inc f).retiredNv = c.retiredNv := rfl
@[simp] theorem Chip.inc_released (c : Chip) (f : Fld) : (c.inc f).released = c.released := rfl
@[simp] theorem Chip.inc_refGood (c : Chip) (f : Fld) : (c.inc f).refGood = c.refGood := rfl
@[simp] theorem Chip.inc_adcs (c : Chip) (f : Fld) : (c.inc f).adcs = c.adcs := rfl
@[simp] theorem Chip.inc_cmps (c : Chip) (f : Fld) : (c.inc f).cmps = c.cmps := rfl
@[simp] theorem Chip.inc_pfus (c : Chip) (f : Fld) : (c.inc f).pfus = c.pfus := rfl
@[simp] theorem Chip.inc_pgs (c : Chip) (f : Fld) : (c.inc f).pgs = c.pgs := rfl
@[simp] theorem Chip.inc_charges (c : Chip) (f : Fld) : (c.inc f).charges = c.charges := rfl
@[simp] theorem Chip.inc_scEvents (c : Chip) (f : Fld) : (c.inc f).scEvents = c.scEvents := rfl
@[simp] theorem Chip.inc_scResp (c : Chip) (f : Fld) : (c.inc f).scResp = c.scResp := rfl
@[simp] theorem Chip.inc_links (c : Chip) (f : Fld) : (c.inc f).links = c.links := rfl
@[simp] theorem Chip.inc_isnLines (c : Chip) (f : Fld) : (c.inc f).isnLines = c.isnLines := rfl
@[simp] theorem Chip.inc_switched (c : Chip) (f : Fld) : (c.inc f).switched = c.switched := rfl
@[simp] theorem Chip.inc_drives (c : Chip) (f : Fld) : (c.inc f).drives = c.drives := rfl
@[simp] theorem Chip.inc_acts (c : Chip) (f : Fld) : (c.inc f).acts = c.acts := rfl
@[simp] theorem Chip.inc_convs (c : Chip) (f : Fld) : (c.inc f).convs = c.convs := rfl
@[simp] theorem Chip.inc_seqs (c : Chip) (f : Fld) : (c.inc f).seqs = c.seqs := rfl
@[simp] theorem Chip.inc_refCorr (c : Chip) (f : Fld) : (c.inc f).refCorr = c.refCorr := rfl
@[simp] theorem Chip.inc_pilots (c : Chip) (f : Fld) : (c.inc f).pilots = c.pilots := rfl
@[simp] theorem Chip.inc_chans (c : Chip) (f : Fld) : (c.inc f).chans = c.chans := rfl
@[simp] theorem Chip.inc_doms (c : Chip) (f : Fld) : (c.inc f).doms = c.doms := rfl
@[simp] theorem Chip.inc_supRuns (c : Chip) (f : Fld) : (c.inc f).supRuns = c.supRuns := rfl
@[simp] theorem Chip.inc_dlPend (c : Chip) (f : Fld) : (c.inc f).dlPend = c.dlPend := rfl
@[simp] theorem Chip.inc_ken (c : Chip) (f : Fld) : (c.inc f).ken = c.ken := rfl
@[simp] theorem Chip.inc_isn (c : Chip) (f : Fld) : (c.inc f).isn = c.isn := rfl
@[simp] theorem Chip.inc_ports (c : Chip) (f : Fld) : (c.inc f).ports = c.ports := rfl
@[simp] theorem Chip.inc_el (c : Chip) (f : Fld) : (c.inc f).el = c.el := rfl
@[simp] theorem Chip.inc_sec (c : Chip) (f : Fld) : (c.inc f).sec = c.sec := rfl
@[simp] theorem Chip.inc_cans (c : Chip) (f : Fld) : (c.inc f).cans = c.cans := rfl
@[simp] theorem Chip.inc_mdio (c : Chip) (f : Fld) : (c.inc f).mdio = c.mdio := rfl
@[simp] theorem Chip.inc_wipe (c : Chip) (f : Fld) : (c.inc f).wipe = c.wipe := rfl
@[simp] theorem Chip.inc_mods (c : Chip) (f : Fld) : (c.inc f).mods = c.mods := rfl
@[simp] theorem Chip.inc_flushAt (c : Chip) (f : Fld) : (c.inc f).flushAt = c.flushAt := rfl
@[simp] theorem Chip.inc_lifeNv (c : Chip) (f : Fld) : (c.inc f).lifeNv = c.lifeNv := rfl
@[simp] theorem Chip.inc_genA (c : Chip) (f : Fld) : (c.inc f).genA = c.genA := rfl
@[simp] theorem Chip.inc_genB (c : Chip) (f : Fld) : (c.inc f).genB = c.genB := rfl
@[simp] theorem Chip.inc_sealA (c : Chip) (f : Fld) : (c.inc f).sealA = c.sealA := rfl
@[simp] theorem Chip.inc_sealB (c : Chip) (f : Fld) : (c.inc f).sealB = c.sealB := rfl
@[simp] theorem Chip.inc_start (c : Chip) (f : Fld) : (c.inc f).start = c.start := rfl

/-! ### Time, reports and free values -/

@[simp] theorem Chip.goto_st (c : Chip) (t : Nat) : (c.goto t).st = max c.st t := rfl
@[simp] theorem Chip.goto_phase (c : Chip) (t : Nat) : (c.goto t).phase = c.phase := rfl
@[simp] theorem Chip.goto_regs (c : Chip) (t : Nat) : (c.goto t).regs = c.regs := rfl
@[simp] theorem Chip.goto_shadow (c : Chip) (t : Nat) : (c.goto t).shadow = c.shadow := rfl
@[simp] theorem Chip.goto_staged (c : Chip) (t : Nat) : (c.goto t).staged = c.staged := rfl
@[simp] theorem Chip.goto_grpLeft (c : Chip) (t : Nat) : (c.goto t).grpLeft = c.grpLeft := rfl
@[simp] theorem Chip.goto_latches (c : Chip) (t : Nat) : (c.goto t).latches = c.latches := rfl
@[simp] theorem Chip.goto_out (c : Chip) (t : Nat) : (c.goto t).out = c.out := rfl
@[simp] theorem Chip.goto_fresh (c : Chip) (t : Nat) : (c.goto t).fresh = c.fresh := rfl
@[simp] theorem Chip.goto_mbx (c : Chip) (t : Nat) : (c.goto t).mbx = c.mbx := rfl
@[simp] theorem Chip.goto_reports (c : Chip) (t : Nat) : (c.goto t).reports = c.reports := rfl
@[simp] theorem Chip.goto_adm (c : Chip) (t : Nat) : (c.goto t).adm = c.adm := rfl
@[simp] theorem Chip.goto_regions (c : Chip) (t : Nat) : (c.goto t).regions = c.regions := rfl
@[simp] theorem Chip.goto_pairs (c : Chip) (t : Nat) : (c.goto t).pairs = c.pairs := rfl
@[simp] theorem Chip.goto_loops (c : Chip) (t : Nat) : (c.goto t).loops = c.loops := rfl
@[simp] theorem Chip.goto_mailbox (c : Chip) (t : Nat) : (c.goto t).mailbox = c.mailbox := rfl
@[simp] theorem Chip.goto_portTag (c : Chip) (t : Nat) : (c.goto t).portTag = c.portTag := rfl
@[simp] theorem Chip.goto_events (c : Chip) (t : Nat) : (c.goto t).events = c.events := rfl
@[simp] theorem Chip.goto_freshMark (c : Chip) (t : Nat) : (c.goto t).freshMark = c.freshMark := rfl
@[simp] theorem Chip.goto_shm (c : Chip) (t : Nat) : (c.goto t).shm = c.shm := rfl
@[simp] theorem Chip.goto_effects (c : Chip) (t : Nat) : (c.goto t).effects = c.effects := rfl
@[simp] theorem Chip.goto_marchSlice (c : Chip) (t : Nat) : (c.goto t).marchSlice = c.marchSlice := rfl
@[simp] theorem Chip.goto_marchBuf (c : Chip) (t : Nat) : (c.goto t).marchBuf = c.marchBuf := rfl
@[simp] theorem Chip.goto_marchStand (c : Chip) (t : Nat) : (c.goto t).marchStand = c.marchStand := rfl
@[simp] theorem Chip.goto_tapIr (c : Chip) (t : Nat) : (c.goto t).tapIr = c.tapIr := rfl
@[simp] theorem Chip.goto_tapDr (c : Chip) (t : Nat) : (c.goto t).tapDr = c.tapDr := rfl
@[simp] theorem Chip.goto_tapScan (c : Chip) (t : Nat) : (c.goto t).tapScan = c.tapScan := rfl
@[simp] theorem Chip.goto_tapHold (c : Chip) (t : Nat) : (c.goto t).tapHold = c.tapHold := rfl
@[simp] theorem Chip.goto_scanStep (c : Chip) (t : Nat) : (c.goto t).scanStep = c.scanStep := rfl
@[simp] theorem Chip.goto_rolling (c : Chip) (t : Nat) : (c.goto t).rolling = c.rolling := rfl
@[simp] theorem Chip.goto_admitted (c : Chip) (t : Nat) : (c.goto t).admitted = c.admitted := rfl
@[simp] theorem Chip.goto_parts (c : Chip) (t : Nat) : (c.goto t).parts = c.parts := rfl
@[simp] theorem Chip.goto_bankA (c : Chip) (t : Nat) : (c.goto t).bankA = c.bankA := rfl
@[simp] theorem Chip.goto_bankB (c : Chip) (t : Nat) : (c.goto t).bankB = c.bankB := rfl
@[simp] theorem Chip.goto_active (c : Chip) (t : Nat) : (c.goto t).active = c.active := rfl
@[simp] theorem Chip.goto_refLost (c : Chip) (t : Nat) : (c.goto t).refLost = c.refLost := rfl
@[simp] theorem Chip.goto_portWords (c : Chip) (t : Nat) : (c.goto t).portWords = c.portWords := rfl
@[simp] theorem Chip.goto_retiredNv (c : Chip) (t : Nat) : (c.goto t).retiredNv = c.retiredNv := rfl
@[simp] theorem Chip.goto_released (c : Chip) (t : Nat) : (c.goto t).released = c.released := rfl
@[simp] theorem Chip.goto_refGood (c : Chip) (t : Nat) : (c.goto t).refGood = c.refGood := rfl
@[simp] theorem Chip.goto_adcs (c : Chip) (t : Nat) : (c.goto t).adcs = c.adcs := rfl
@[simp] theorem Chip.goto_cmps (c : Chip) (t : Nat) : (c.goto t).cmps = c.cmps := rfl
@[simp] theorem Chip.goto_pfus (c : Chip) (t : Nat) : (c.goto t).pfus = c.pfus := rfl
@[simp] theorem Chip.goto_pgs (c : Chip) (t : Nat) : (c.goto t).pgs = c.pgs := rfl
@[simp] theorem Chip.goto_charges (c : Chip) (t : Nat) : (c.goto t).charges = c.charges := rfl
@[simp] theorem Chip.goto_scEvents (c : Chip) (t : Nat) : (c.goto t).scEvents = c.scEvents := rfl
@[simp] theorem Chip.goto_scResp (c : Chip) (t : Nat) : (c.goto t).scResp = c.scResp := rfl
@[simp] theorem Chip.goto_links (c : Chip) (t : Nat) : (c.goto t).links = c.links := rfl
@[simp] theorem Chip.goto_isnLines (c : Chip) (t : Nat) : (c.goto t).isnLines = c.isnLines := rfl
@[simp] theorem Chip.goto_switched (c : Chip) (t : Nat) : (c.goto t).switched = c.switched := rfl
@[simp] theorem Chip.goto_drives (c : Chip) (t : Nat) : (c.goto t).drives = c.drives := rfl
@[simp] theorem Chip.goto_acts (c : Chip) (t : Nat) : (c.goto t).acts = c.acts := rfl
@[simp] theorem Chip.goto_convs (c : Chip) (t : Nat) : (c.goto t).convs = c.convs := rfl
@[simp] theorem Chip.goto_seqs (c : Chip) (t : Nat) : (c.goto t).seqs = c.seqs := rfl
@[simp] theorem Chip.goto_refCorr (c : Chip) (t : Nat) : (c.goto t).refCorr = c.refCorr := rfl
@[simp] theorem Chip.goto_pilots (c : Chip) (t : Nat) : (c.goto t).pilots = c.pilots := rfl
@[simp] theorem Chip.goto_chans (c : Chip) (t : Nat) : (c.goto t).chans = c.chans := rfl
@[simp] theorem Chip.goto_doms (c : Chip) (t : Nat) : (c.goto t).doms = c.doms := rfl
@[simp] theorem Chip.goto_supRuns (c : Chip) (t : Nat) : (c.goto t).supRuns = c.supRuns := rfl
@[simp] theorem Chip.goto_dlPend (c : Chip) (t : Nat) : (c.goto t).dlPend = c.dlPend := rfl
@[simp] theorem Chip.goto_ken (c : Chip) (t : Nat) : (c.goto t).ken = c.ken := rfl
@[simp] theorem Chip.goto_isn (c : Chip) (t : Nat) : (c.goto t).isn = c.isn := rfl
@[simp] theorem Chip.goto_ports (c : Chip) (t : Nat) : (c.goto t).ports = c.ports := rfl
@[simp] theorem Chip.goto_el (c : Chip) (t : Nat) : (c.goto t).el = c.el := rfl
@[simp] theorem Chip.goto_sec (c : Chip) (t : Nat) : (c.goto t).sec = c.sec := rfl
@[simp] theorem Chip.goto_cans (c : Chip) (t : Nat) : (c.goto t).cans = c.cans := rfl
@[simp] theorem Chip.goto_mdio (c : Chip) (t : Nat) : (c.goto t).mdio = c.mdio := rfl
@[simp] theorem Chip.goto_wipe (c : Chip) (t : Nat) : (c.goto t).wipe = c.wipe := rfl
@[simp] theorem Chip.goto_mods (c : Chip) (t : Nat) : (c.goto t).mods = c.mods := rfl
@[simp] theorem Chip.goto_flushAt (c : Chip) (t : Nat) : (c.goto t).flushAt = c.flushAt := rfl
@[simp] theorem Chip.goto_lifeNv (c : Chip) (t : Nat) : (c.goto t).lifeNv = c.lifeNv := rfl
@[simp] theorem Chip.goto_genA (c : Chip) (t : Nat) : (c.goto t).genA = c.genA := rfl
@[simp] theorem Chip.goto_genB (c : Chip) (t : Nat) : (c.goto t).genB = c.genB := rfl
@[simp] theorem Chip.goto_sealA (c : Chip) (t : Nat) : (c.goto t).sealA = c.sealA := rfl
@[simp] theorem Chip.goto_sealB (c : Chip) (t : Nat) : (c.goto t).sealB = c.sealB := rfl
@[simp] theorem Chip.goto_start (c : Chip) (t : Nat) : (c.goto t).start = c.start := rfl
@[simp] theorem Chip.rd_goto (c : Chip) (t : Nat) (a : Nat) : (c.goto t).rd a = c.rd a := rfl

@[simp] theorem Chip.report_st (c : Chip) (src n : Nat) : (c.report src n).st = c.st := rfl
@[simp] theorem Chip.report_phase (c : Chip) (src n : Nat) : (c.report src n).phase = c.phase := rfl
@[simp] theorem Chip.report_regs (c : Chip) (src n : Nat) : (c.report src n).regs = c.regs := rfl
@[simp] theorem Chip.report_shadow (c : Chip) (src n : Nat) : (c.report src n).shadow = c.shadow := rfl
@[simp] theorem Chip.report_staged (c : Chip) (src n : Nat) : (c.report src n).staged = c.staged := rfl
@[simp] theorem Chip.report_grpLeft (c : Chip) (src n : Nat) : (c.report src n).grpLeft = c.grpLeft := rfl
@[simp] theorem Chip.report_latches (c : Chip) (src n : Nat) : (c.report src n).latches = c.latches := rfl
@[simp] theorem Chip.report_out (c : Chip) (src n : Nat) : (c.report src n).out = c.out := rfl
@[simp] theorem Chip.report_fresh (c : Chip) (src n : Nat) : (c.report src n).fresh = c.fresh := rfl
@[simp] theorem Chip.report_mbx (c : Chip) (src n : Nat) : (c.report src n).mbx = c.mbx := rfl
@[simp] theorem Chip.report_reports (c : Chip) (src n : Nat) : (c.report src n).reports = c.reports ++ [(src, n)] := rfl
@[simp] theorem Chip.report_adm (c : Chip) (src n : Nat) : (c.report src n).adm = c.adm := rfl
@[simp] theorem Chip.report_regions (c : Chip) (src n : Nat) : (c.report src n).regions = c.regions := rfl
@[simp] theorem Chip.report_pairs (c : Chip) (src n : Nat) : (c.report src n).pairs = c.pairs := rfl
@[simp] theorem Chip.report_loops (c : Chip) (src n : Nat) : (c.report src n).loops = c.loops := rfl
@[simp] theorem Chip.report_mailbox (c : Chip) (src n : Nat) : (c.report src n).mailbox = c.mailbox := rfl
@[simp] theorem Chip.report_portTag (c : Chip) (src n : Nat) : (c.report src n).portTag = c.portTag := rfl
@[simp] theorem Chip.report_events (c : Chip) (src n : Nat) : (c.report src n).events = c.events := rfl
@[simp] theorem Chip.report_freshMark (c : Chip) (src n : Nat) : (c.report src n).freshMark = c.freshMark := rfl
@[simp] theorem Chip.report_shm (c : Chip) (src n : Nat) : (c.report src n).shm = c.shm := rfl
@[simp] theorem Chip.report_effects (c : Chip) (src n : Nat) : (c.report src n).effects = c.effects := rfl
@[simp] theorem Chip.report_marchSlice (c : Chip) (src n : Nat) : (c.report src n).marchSlice = c.marchSlice := rfl
@[simp] theorem Chip.report_marchBuf (c : Chip) (src n : Nat) : (c.report src n).marchBuf = c.marchBuf := rfl
@[simp] theorem Chip.report_marchStand (c : Chip) (src n : Nat) : (c.report src n).marchStand = c.marchStand := rfl
@[simp] theorem Chip.report_tapIr (c : Chip) (src n : Nat) : (c.report src n).tapIr = c.tapIr := rfl
@[simp] theorem Chip.report_tapDr (c : Chip) (src n : Nat) : (c.report src n).tapDr = c.tapDr := rfl
@[simp] theorem Chip.report_tapScan (c : Chip) (src n : Nat) : (c.report src n).tapScan = c.tapScan := rfl
@[simp] theorem Chip.report_tapHold (c : Chip) (src n : Nat) : (c.report src n).tapHold = c.tapHold := rfl
@[simp] theorem Chip.report_scanStep (c : Chip) (src n : Nat) : (c.report src n).scanStep = c.scanStep := rfl
@[simp] theorem Chip.report_rolling (c : Chip) (src n : Nat) : (c.report src n).rolling = c.rolling := rfl
@[simp] theorem Chip.report_admitted (c : Chip) (src n : Nat) : (c.report src n).admitted = c.admitted := rfl
@[simp] theorem Chip.report_parts (c : Chip) (src n : Nat) : (c.report src n).parts = c.parts := rfl
@[simp] theorem Chip.report_bankA (c : Chip) (src n : Nat) : (c.report src n).bankA = c.bankA := rfl
@[simp] theorem Chip.report_bankB (c : Chip) (src n : Nat) : (c.report src n).bankB = c.bankB := rfl
@[simp] theorem Chip.report_active (c : Chip) (src n : Nat) : (c.report src n).active = c.active := rfl
@[simp] theorem Chip.report_refLost (c : Chip) (src n : Nat) : (c.report src n).refLost = c.refLost := rfl
@[simp] theorem Chip.report_portWords (c : Chip) (src n : Nat) : (c.report src n).portWords = c.portWords := rfl
@[simp] theorem Chip.report_retiredNv (c : Chip) (src n : Nat) : (c.report src n).retiredNv = c.retiredNv := rfl
@[simp] theorem Chip.report_released (c : Chip) (src n : Nat) : (c.report src n).released = c.released := rfl
@[simp] theorem Chip.report_refGood (c : Chip) (src n : Nat) : (c.report src n).refGood = c.refGood := rfl
@[simp] theorem Chip.report_adcs (c : Chip) (src n : Nat) : (c.report src n).adcs = c.adcs := rfl
@[simp] theorem Chip.report_cmps (c : Chip) (src n : Nat) : (c.report src n).cmps = c.cmps := rfl
@[simp] theorem Chip.report_pfus (c : Chip) (src n : Nat) : (c.report src n).pfus = c.pfus := rfl
@[simp] theorem Chip.report_pgs (c : Chip) (src n : Nat) : (c.report src n).pgs = c.pgs := rfl
@[simp] theorem Chip.report_charges (c : Chip) (src n : Nat) : (c.report src n).charges = c.charges := rfl
@[simp] theorem Chip.report_scEvents (c : Chip) (src n : Nat) : (c.report src n).scEvents = c.scEvents := rfl
@[simp] theorem Chip.report_scResp (c : Chip) (src n : Nat) : (c.report src n).scResp = c.scResp := rfl
@[simp] theorem Chip.report_links (c : Chip) (src n : Nat) : (c.report src n).links = c.links := rfl
@[simp] theorem Chip.report_isnLines (c : Chip) (src n : Nat) : (c.report src n).isnLines = c.isnLines := rfl
@[simp] theorem Chip.report_switched (c : Chip) (src n : Nat) : (c.report src n).switched = c.switched := rfl
@[simp] theorem Chip.report_drives (c : Chip) (src n : Nat) : (c.report src n).drives = c.drives := rfl
@[simp] theorem Chip.report_acts (c : Chip) (src n : Nat) : (c.report src n).acts = c.acts := rfl
@[simp] theorem Chip.report_convs (c : Chip) (src n : Nat) : (c.report src n).convs = c.convs := rfl
@[simp] theorem Chip.report_seqs (c : Chip) (src n : Nat) : (c.report src n).seqs = c.seqs := rfl
@[simp] theorem Chip.report_refCorr (c : Chip) (src n : Nat) : (c.report src n).refCorr = c.refCorr := rfl
@[simp] theorem Chip.report_pilots (c : Chip) (src n : Nat) : (c.report src n).pilots = c.pilots := rfl
@[simp] theorem Chip.report_chans (c : Chip) (src n : Nat) : (c.report src n).chans = c.chans := rfl
@[simp] theorem Chip.report_doms (c : Chip) (src n : Nat) : (c.report src n).doms = c.doms := rfl
@[simp] theorem Chip.report_supRuns (c : Chip) (src n : Nat) : (c.report src n).supRuns = c.supRuns := rfl
@[simp] theorem Chip.report_dlPend (c : Chip) (src n : Nat) : (c.report src n).dlPend = c.dlPend := rfl
@[simp] theorem Chip.report_ken (c : Chip) (src n : Nat) : (c.report src n).ken = c.ken := rfl
@[simp] theorem Chip.report_ports (c : Chip) (src n : Nat) : (c.report src n).ports = c.ports := rfl
@[simp] theorem Chip.report_el (c : Chip) (src n : Nat) : (c.report src n).el = c.el := rfl
@[simp] theorem Chip.report_sec (c : Chip) (src n : Nat) : (c.report src n).sec = c.sec := rfl
@[simp] theorem Chip.report_cans (c : Chip) (src n : Nat) : (c.report src n).cans = c.cans := rfl
@[simp] theorem Chip.report_mdio (c : Chip) (src n : Nat) : (c.report src n).mdio = c.mdio := rfl
@[simp] theorem Chip.report_wipe (c : Chip) (src n : Nat) : (c.report src n).wipe = c.wipe := rfl
@[simp] theorem Chip.report_mods (c : Chip) (src n : Nat) : (c.report src n).mods = c.mods := rfl
@[simp] theorem Chip.report_flushAt (c : Chip) (src n : Nat) : (c.report src n).flushAt = c.flushAt := rfl
@[simp] theorem Chip.report_lifeNv (c : Chip) (src n : Nat) : (c.report src n).lifeNv = c.lifeNv := rfl
@[simp] theorem Chip.report_genA (c : Chip) (src n : Nat) : (c.report src n).genA = c.genA := rfl
@[simp] theorem Chip.report_genB (c : Chip) (src n : Nat) : (c.report src n).genB = c.genB := rfl
@[simp] theorem Chip.report_sealA (c : Chip) (src n : Nat) : (c.report src n).sealA = c.sealA := rfl
@[simp] theorem Chip.report_sealB (c : Chip) (src n : Nat) : (c.report src n).sealB = c.sealB := rfl
@[simp] theorem Chip.report_start (c : Chip) (src n : Nat) : (c.report src n).start = c.start := rfl
@[simp] theorem Chip.rd_report (c : Chip) (src n : Nat) (a : Nat) : (c.report src n).rd a = c.rd a := rfl

@[simp] theorem Chip.report_isn_dead (c : Chip) (src n : Nat) : (c.report src n).isn.dead = c.isn.dead := rfl
@[simp] theorem Chip.report_isn_wdFired (c : Chip) (src n : Nat) : (c.report src n).isn.wdFired = c.isn.wdFired := rfl
@[simp] theorem Chip.report_isn_refresh (c : Chip) (src n : Nat) : (c.report src n).isn.refresh = c.isn.refresh := rfl
@[simp] theorem Chip.report_isn_windows (c : Chip) (src n : Nat) : (c.report src n).isn.windows = c.isn.windows := rfl
@[simp] theorem Chip.report_isn_degAt (c : Chip) (src n : Nat) : (c.report src n).isn.degAt = c.isn.degAt := rfl
@[simp] theorem Chip.report_isn_ascAt (c : Chip) (src n : Nat) : (c.report src n).isn.ascAt = c.isn.ascAt := rfl
@[simp] theorem Chip.report_isn_ss1V (c : Chip) (src n : Nat) : (c.report src n).isn.ss1V = c.isn.ss1V := rfl
@[simp] theorem Chip.report_isn_ss1At (c : Chip) (src n : Nat) : (c.report src n).isn.ss1At = c.isn.ss1At := rfl
@[simp] theorem Chip.report_isn_ss1N (c : Chip) (src n : Nat) : (c.report src n).isn.ss1N = c.isn.ss1N := rfl
@[simp] theorem Chip.report_isn_stillAt (c : Chip) (src n : Nat) : (c.report src n).isn.stillAt = c.isn.stillAt := rfl
@[simp] theorem Chip.report_isn_brakeDue (c : Chip) (src n : Nat) : (c.report src n).isn.brakeDue = c.isn.brakeDue := rfl
@[simp] theorem Chip.report_isn_stoDue (c : Chip) (src n : Nat) : (c.report src n).isn.stoDue = c.isn.stoDue := rfl
@[simp] theorem Chip.report_isn_holdAt (c : Chip) (src n : Nat) : (c.report src n).isn.holdAt = c.isn.holdAt := rfl
@[simp] theorem Chip.report_isn_holdRef (c : Chip) (src n : Nat) : (c.report src n).isn.holdRef = c.isn.holdRef := rfl
@[simp] theorem Chip.report_isn_plAt (c : Chip) (src n : Nat) : (c.report src n).isn.plAt = c.isn.plAt := rfl
@[simp] theorem Chip.report_isn_sins (c : Chip) (src n : Nat) : (c.report src n).isn.sins = c.isn.sins := rfl
@[simp] theorem Chip.report_isn_slowAt (c : Chip) (src n : Nat) : (c.report src n).isn.slowAt = c.isn.slowAt := rfl
@[simp] theorem Chip.report_isn_parkAt (c : Chip) (src n : Nat) : (c.report src n).isn.parkAt = c.isn.parkAt := rfl
@[simp] theorem Chip.report_isn_sbcAt (c : Chip) (src n : Nat) : (c.report src n).isn.sbcAt = c.isn.sbcAt := rfl
@[simp] theorem Chip.report_isn_cutAt (c : Chip) (src n : Nat) : (c.report src n).isn.cutAt = c.isn.cutAt := rfl
@[simp] theorem Chip.report_isn_tps (c : Chip) (src n : Nat) : (c.report src n).isn.tps = c.isn.tps := rfl

/-! ### What clears a fault, and the speeds watched: only the supervisor sees them (R396, R399, R407) -/

@[simp] theorem Chip.mended_keeps (c : Chip) (src n : Nat) :
    (c.mended src n).st = c.st ∧ (c.mended src n).phase = c.phase ∧ (c.mended src n).regs = c.regs ∧
    (c.mended src n).shadow = c.shadow ∧ (c.mended src n).staged = c.staged ∧ (c.mended src n).grpLeft = c.grpLeft ∧
    (c.mended src n).latches = c.latches ∧ (c.mended src n).out = c.out ∧ (c.mended src n).fresh = c.fresh ∧
    (c.mended src n).mbx = c.mbx ∧ (c.mended src n).reports = c.reports ∧ (c.mended src n).adm = c.adm ∧
    (c.mended src n).regions = c.regions ∧ (c.mended src n).pairs = c.pairs ∧ (c.mended src n).loops = c.loops ∧
    (c.mended src n).mailbox = c.mailbox ∧ (c.mended src n).portTag = c.portTag ∧ (c.mended src n).events = c.events ∧
    (c.mended src n).freshMark = c.freshMark ∧ (c.mended src n).shm = c.shm ∧ (c.mended src n).effects = c.effects ∧
    (c.mended src n).marchSlice = c.marchSlice ∧ (c.mended src n).marchBuf = c.marchBuf ∧
    (c.mended src n).marchStand = c.marchStand ∧ (c.mended src n).tapIr = c.tapIr ∧ (c.mended src n).tapDr = c.tapDr ∧
    (c.mended src n).tapScan = c.tapScan ∧ (c.mended src n).tapHold = c.tapHold ∧ (c.mended src n).scanStep = c.scanStep ∧
    (c.mended src n).rolling = c.rolling ∧ (c.mended src n).admitted = c.admitted ∧ (c.mended src n).parts = c.parts ∧
    (c.mended src n).bankA = c.bankA ∧ (c.mended src n).bankB = c.bankB ∧ (c.mended src n).active = c.active ∧
    (c.mended src n).refLost = c.refLost ∧ (c.mended src n).portWords = c.portWords ∧ (c.mended src n).retiredNv = c.retiredNv ∧
    (c.mended src n).released = c.released ∧ (c.mended src n).refGood = c.refGood ∧ (c.mended src n).adcs = c.adcs ∧
    (c.mended src n).cmps = c.cmps ∧ (c.mended src n).pfus = c.pfus ∧ (c.mended src n).pgs = c.pgs ∧
    (c.mended src n).charges = c.charges ∧ (c.mended src n).scEvents = c.scEvents ∧ (c.mended src n).scResp = c.scResp ∧
    (c.mended src n).links = c.links ∧ (c.mended src n).isnLines = c.isnLines ∧ (c.mended src n).switched = c.switched ∧
    (c.mended src n).drives = c.drives ∧ (c.mended src n).acts = c.acts ∧ (c.mended src n).convs = c.convs ∧
    (c.mended src n).seqs = c.seqs ∧ (c.mended src n).refCorr = c.refCorr ∧ (c.mended src n).pilots = c.pilots ∧
    (c.mended src n).chans = c.chans ∧ (c.mended src n).doms = c.doms ∧ (c.mended src n).supRuns = c.supRuns ∧
    (c.mended src n).dlPend = c.dlPend ∧ (c.mended src n).ken = c.ken ∧ (c.mended src n).ports = c.ports ∧
    (c.mended src n).el = c.el ∧ (c.mended src n).sec = c.sec ∧ (c.mended src n).cans = c.cans ∧ (c.mended src n).mdio = c.mdio ∧
    (c.mended src n).wipe = c.wipe ∧ (c.mended src n).mods = c.mods ∧ (c.mended src n).flushAt = c.flushAt ∧
    (c.mended src n).lifeNv = c.lifeNv ∧ (c.mended src n).genA = c.genA ∧ (c.mended src n).genB = c.genB ∧
    (c.mended src n).sealA = c.sealA ∧ (c.mended src n).sealB = c.sealB ∧ (c.mended src n).start = c.start := by
  and_intros <;> rfl
@[simp] theorem Chip.rd_mended (c : Chip) (src n : Nat) (k : Nat) : (c.mended src n).rd k = c.rd k := rfl

@[simp] theorem Chip.noteOk_keeps (c : Chip) (src n : Nat) (ok : Bool) :
    (c.noteOk src n ok).st = c.st ∧ (c.noteOk src n ok).phase = c.phase ∧ (c.noteOk src n ok).regs = c.regs ∧
    (c.noteOk src n ok).shadow = c.shadow ∧ (c.noteOk src n ok).staged = c.staged ∧ (c.noteOk src n ok).grpLeft = c.grpLeft ∧
    (c.noteOk src n ok).latches = c.latches ∧ (c.noteOk src n ok).out = c.out ∧ (c.noteOk src n ok).fresh = c.fresh ∧
    (c.noteOk src n ok).mbx = c.mbx ∧ (c.noteOk src n ok).reports = c.reports ∧ (c.noteOk src n ok).adm = c.adm ∧
    (c.noteOk src n ok).regions = c.regions ∧ (c.noteOk src n ok).pairs = c.pairs ∧ (c.noteOk src n ok).loops = c.loops ∧
    (c.noteOk src n ok).mailbox = c.mailbox ∧ (c.noteOk src n ok).portTag = c.portTag ∧ (c.noteOk src n ok).events = c.events ∧
    (c.noteOk src n ok).freshMark = c.freshMark ∧ (c.noteOk src n ok).shm = c.shm ∧ (c.noteOk src n ok).effects = c.effects ∧
    (c.noteOk src n ok).marchSlice = c.marchSlice ∧ (c.noteOk src n ok).marchBuf = c.marchBuf ∧
    (c.noteOk src n ok).marchStand = c.marchStand ∧ (c.noteOk src n ok).tapIr = c.tapIr ∧ (c.noteOk src n ok).tapDr = c.tapDr ∧
    (c.noteOk src n ok).tapScan = c.tapScan ∧ (c.noteOk src n ok).tapHold = c.tapHold ∧
    (c.noteOk src n ok).scanStep = c.scanStep ∧ (c.noteOk src n ok).rolling = c.rolling ∧
    (c.noteOk src n ok).admitted = c.admitted ∧ (c.noteOk src n ok).parts = c.parts ∧ (c.noteOk src n ok).bankA = c.bankA ∧
    (c.noteOk src n ok).bankB = c.bankB ∧ (c.noteOk src n ok).active = c.active ∧ (c.noteOk src n ok).refLost = c.refLost ∧
    (c.noteOk src n ok).portWords = c.portWords ∧ (c.noteOk src n ok).retiredNv = c.retiredNv ∧
    (c.noteOk src n ok).released = c.released ∧ (c.noteOk src n ok).refGood = c.refGood ∧ (c.noteOk src n ok).adcs = c.adcs ∧
    (c.noteOk src n ok).cmps = c.cmps ∧ (c.noteOk src n ok).pfus = c.pfus ∧ (c.noteOk src n ok).pgs = c.pgs ∧
    (c.noteOk src n ok).charges = c.charges ∧ (c.noteOk src n ok).scEvents = c.scEvents ∧ (c.noteOk src n ok).scResp = c.scResp ∧
    (c.noteOk src n ok).links = c.links ∧ (c.noteOk src n ok).isnLines = c.isnLines ∧ (c.noteOk src n ok).switched = c.switched ∧
    (c.noteOk src n ok).drives = c.drives ∧ (c.noteOk src n ok).acts = c.acts ∧ (c.noteOk src n ok).convs = c.convs ∧
    (c.noteOk src n ok).seqs = c.seqs ∧ (c.noteOk src n ok).refCorr = c.refCorr ∧ (c.noteOk src n ok).pilots = c.pilots ∧
    (c.noteOk src n ok).chans = c.chans ∧ (c.noteOk src n ok).doms = c.doms ∧ (c.noteOk src n ok).supRuns = c.supRuns ∧
    (c.noteOk src n ok).dlPend = c.dlPend ∧ (c.noteOk src n ok).ken = c.ken ∧ (c.noteOk src n ok).ports = c.ports ∧
    (c.noteOk src n ok).el = c.el ∧ (c.noteOk src n ok).sec = c.sec ∧ (c.noteOk src n ok).cans = c.cans ∧
    (c.noteOk src n ok).mdio = c.mdio ∧ (c.noteOk src n ok).wipe = c.wipe ∧ (c.noteOk src n ok).mods = c.mods ∧
    (c.noteOk src n ok).flushAt = c.flushAt ∧ (c.noteOk src n ok).lifeNv = c.lifeNv ∧ (c.noteOk src n ok).genA = c.genA ∧
    (c.noteOk src n ok).genB = c.genB ∧ (c.noteOk src n ok).sealA = c.sealA ∧ (c.noteOk src n ok).sealB = c.sealB ∧
    (c.noteOk src n ok).start = c.start := by
  and_intros <;> rfl
@[simp] theorem Chip.rd_noteOk (c : Chip) (src n : Nat) (ok : Bool) (k : Nat) : (c.noteOk src n ok).rd k = c.rd k := rfl

@[simp] theorem Chip.watchSpeed_keeps (c : Chip)  :
    c.watchSpeed.st = c.st ∧ c.watchSpeed.phase = c.phase ∧ c.watchSpeed.regs = c.regs ∧ c.watchSpeed.shadow = c.shadow ∧
    c.watchSpeed.staged = c.staged ∧ c.watchSpeed.grpLeft = c.grpLeft ∧ c.watchSpeed.latches = c.latches ∧
    c.watchSpeed.out = c.out ∧ c.watchSpeed.fresh = c.fresh ∧ c.watchSpeed.mbx = c.mbx ∧ c.watchSpeed.reports = c.reports ∧
    c.watchSpeed.adm = c.adm ∧ c.watchSpeed.regions = c.regions ∧ c.watchSpeed.pairs = c.pairs ∧ c.watchSpeed.loops = c.loops ∧
    c.watchSpeed.mailbox = c.mailbox ∧ c.watchSpeed.portTag = c.portTag ∧ c.watchSpeed.events = c.events ∧
    c.watchSpeed.freshMark = c.freshMark ∧ c.watchSpeed.shm = c.shm ∧ c.watchSpeed.effects = c.effects ∧
    c.watchSpeed.marchSlice = c.marchSlice ∧ c.watchSpeed.marchBuf = c.marchBuf ∧ c.watchSpeed.marchStand = c.marchStand ∧
    c.watchSpeed.tapIr = c.tapIr ∧ c.watchSpeed.tapDr = c.tapDr ∧ c.watchSpeed.tapScan = c.tapScan ∧
    c.watchSpeed.tapHold = c.tapHold ∧ c.watchSpeed.scanStep = c.scanStep ∧ c.watchSpeed.rolling = c.rolling ∧
    c.watchSpeed.admitted = c.admitted ∧ c.watchSpeed.parts = c.parts ∧ c.watchSpeed.bankA = c.bankA ∧
    c.watchSpeed.bankB = c.bankB ∧ c.watchSpeed.active = c.active ∧ c.watchSpeed.refLost = c.refLost ∧
    c.watchSpeed.portWords = c.portWords ∧ c.watchSpeed.retiredNv = c.retiredNv ∧ c.watchSpeed.released = c.released ∧
    c.watchSpeed.refGood = c.refGood ∧ c.watchSpeed.adcs = c.adcs ∧ c.watchSpeed.cmps = c.cmps ∧ c.watchSpeed.pfus = c.pfus ∧
    c.watchSpeed.pgs = c.pgs ∧ c.watchSpeed.charges = c.charges ∧ c.watchSpeed.scEvents = c.scEvents ∧
    c.watchSpeed.scResp = c.scResp ∧ c.watchSpeed.links = c.links ∧ c.watchSpeed.isnLines = c.isnLines ∧
    c.watchSpeed.switched = c.switched ∧ c.watchSpeed.drives = c.drives ∧ c.watchSpeed.acts = c.acts ∧
    c.watchSpeed.convs = c.convs ∧ c.watchSpeed.seqs = c.seqs ∧ c.watchSpeed.refCorr = c.refCorr ∧
    c.watchSpeed.pilots = c.pilots ∧ c.watchSpeed.chans = c.chans ∧ c.watchSpeed.doms = c.doms ∧
    c.watchSpeed.supRuns = c.supRuns ∧ c.watchSpeed.dlPend = c.dlPend ∧ c.watchSpeed.ken = c.ken ∧ c.watchSpeed.ports = c.ports ∧
    c.watchSpeed.el = c.el ∧ c.watchSpeed.sec = c.sec ∧ c.watchSpeed.cans = c.cans ∧ c.watchSpeed.mdio = c.mdio ∧
    c.watchSpeed.wipe = c.wipe ∧ c.watchSpeed.mods = c.mods ∧ c.watchSpeed.flushAt = c.flushAt ∧ c.watchSpeed.lifeNv = c.lifeNv ∧
    c.watchSpeed.genA = c.genA ∧ c.watchSpeed.genB = c.genB ∧ c.watchSpeed.sealA = c.sealA ∧ c.watchSpeed.sealB = c.sealB ∧
    c.watchSpeed.start = c.start := by
  and_intros <;> rfl
@[simp] theorem Chip.rd_watchSpeed (c : Chip)  (k : Nat) : c.watchSpeed.rd k = c.rd k := rfl

@[simp] theorem Chip.draw_st (c : Chip) : c.draw.2.st = c.st := rfl
@[simp] theorem Chip.draw_phase (c : Chip) : c.draw.2.phase = c.phase := rfl
@[simp] theorem Chip.draw_regs (c : Chip) : c.draw.2.regs = c.regs := rfl
@[simp] theorem Chip.draw_shadow (c : Chip) : c.draw.2.shadow = c.shadow := rfl
@[simp] theorem Chip.draw_staged (c : Chip) : c.draw.2.staged = c.staged := rfl
@[simp] theorem Chip.draw_grpLeft (c : Chip) : c.draw.2.grpLeft = c.grpLeft := rfl
@[simp] theorem Chip.draw_latches (c : Chip) : c.draw.2.latches = c.latches := rfl
@[simp] theorem Chip.draw_out (c : Chip) : c.draw.2.out = c.out := rfl
@[simp] theorem Chip.draw_fresh (c : Chip) : c.draw.2.fresh = c.fresh + 1 := rfl
@[simp] theorem Chip.draw_mbx (c : Chip) : c.draw.2.mbx = c.mbx := rfl
@[simp] theorem Chip.draw_reports (c : Chip) : c.draw.2.reports = c.reports := rfl
@[simp] theorem Chip.draw_adm (c : Chip) : c.draw.2.adm = c.adm := rfl
@[simp] theorem Chip.draw_regions (c : Chip) : c.draw.2.regions = c.regions := rfl
@[simp] theorem Chip.draw_pairs (c : Chip) : c.draw.2.pairs = c.pairs := rfl
@[simp] theorem Chip.draw_loops (c : Chip) : c.draw.2.loops = c.loops := rfl
@[simp] theorem Chip.draw_mailbox (c : Chip) : c.draw.2.mailbox = c.mailbox := rfl
@[simp] theorem Chip.draw_portTag (c : Chip) : c.draw.2.portTag = c.portTag := rfl
@[simp] theorem Chip.draw_events (c : Chip) : c.draw.2.events = c.events := rfl
@[simp] theorem Chip.draw_freshMark (c : Chip) : c.draw.2.freshMark = c.freshMark := rfl
@[simp] theorem Chip.draw_shm (c : Chip) : c.draw.2.shm = c.shm := rfl
@[simp] theorem Chip.draw_effects (c : Chip) : c.draw.2.effects = c.effects := rfl
@[simp] theorem Chip.draw_marchSlice (c : Chip) : c.draw.2.marchSlice = c.marchSlice := rfl
@[simp] theorem Chip.draw_marchBuf (c : Chip) : c.draw.2.marchBuf = c.marchBuf := rfl
@[simp] theorem Chip.draw_marchStand (c : Chip) : c.draw.2.marchStand = c.marchStand := rfl
@[simp] theorem Chip.draw_tapIr (c : Chip) : c.draw.2.tapIr = c.tapIr := rfl
@[simp] theorem Chip.draw_tapDr (c : Chip) : c.draw.2.tapDr = c.tapDr := rfl
@[simp] theorem Chip.draw_tapScan (c : Chip) : c.draw.2.tapScan = c.tapScan := rfl
@[simp] theorem Chip.draw_tapHold (c : Chip) : c.draw.2.tapHold = c.tapHold := rfl
@[simp] theorem Chip.draw_scanStep (c : Chip) : c.draw.2.scanStep = c.scanStep := rfl
@[simp] theorem Chip.draw_rolling (c : Chip) : c.draw.2.rolling = c.rolling := rfl
@[simp] theorem Chip.draw_admitted (c : Chip) : c.draw.2.admitted = c.admitted := rfl
@[simp] theorem Chip.draw_parts (c : Chip) : c.draw.2.parts = c.parts := rfl
@[simp] theorem Chip.draw_bankA (c : Chip) : c.draw.2.bankA = c.bankA := rfl
@[simp] theorem Chip.draw_bankB (c : Chip) : c.draw.2.bankB = c.bankB := rfl
@[simp] theorem Chip.draw_active (c : Chip) : c.draw.2.active = c.active := rfl
@[simp] theorem Chip.draw_refLost (c : Chip) : c.draw.2.refLost = c.refLost := rfl
@[simp] theorem Chip.draw_portWords (c : Chip) : c.draw.2.portWords = c.portWords := rfl
@[simp] theorem Chip.draw_retiredNv (c : Chip) : c.draw.2.retiredNv = c.retiredNv := rfl
@[simp] theorem Chip.draw_released (c : Chip) : c.draw.2.released = c.released := rfl
@[simp] theorem Chip.draw_refGood (c : Chip) : c.draw.2.refGood = c.refGood := rfl
@[simp] theorem Chip.draw_adcs (c : Chip) : c.draw.2.adcs = c.adcs := rfl
@[simp] theorem Chip.draw_cmps (c : Chip) : c.draw.2.cmps = c.cmps := rfl
@[simp] theorem Chip.draw_pfus (c : Chip) : c.draw.2.pfus = c.pfus := rfl
@[simp] theorem Chip.draw_pgs (c : Chip) : c.draw.2.pgs = c.pgs := rfl
@[simp] theorem Chip.draw_charges (c : Chip) : c.draw.2.charges = c.charges := rfl
@[simp] theorem Chip.draw_scEvents (c : Chip) : c.draw.2.scEvents = c.scEvents := rfl
@[simp] theorem Chip.draw_scResp (c : Chip) : c.draw.2.scResp = c.scResp := rfl
@[simp] theorem Chip.draw_links (c : Chip) : c.draw.2.links = c.links := rfl
@[simp] theorem Chip.draw_isnLines (c : Chip) : c.draw.2.isnLines = c.isnLines := rfl
@[simp] theorem Chip.draw_switched (c : Chip) : c.draw.2.switched = c.switched := rfl
@[simp] theorem Chip.draw_drives (c : Chip) : c.draw.2.drives = c.drives := rfl
@[simp] theorem Chip.draw_acts (c : Chip) : c.draw.2.acts = c.acts := rfl
@[simp] theorem Chip.draw_convs (c : Chip) : c.draw.2.convs = c.convs := rfl
@[simp] theorem Chip.draw_seqs (c : Chip) : c.draw.2.seqs = c.seqs := rfl
@[simp] theorem Chip.draw_refCorr (c : Chip) : c.draw.2.refCorr = c.refCorr := rfl
@[simp] theorem Chip.draw_pilots (c : Chip) : c.draw.2.pilots = c.pilots := rfl
@[simp] theorem Chip.draw_chans (c : Chip) : c.draw.2.chans = c.chans := rfl
@[simp] theorem Chip.draw_doms (c : Chip) : c.draw.2.doms = c.doms := rfl
@[simp] theorem Chip.draw_supRuns (c : Chip) : c.draw.2.supRuns = c.supRuns := rfl
@[simp] theorem Chip.draw_dlPend (c : Chip) : c.draw.2.dlPend = c.dlPend := rfl
@[simp] theorem Chip.draw_ken (c : Chip) : c.draw.2.ken = c.ken := rfl
@[simp] theorem Chip.draw_isn (c : Chip) : c.draw.2.isn = c.isn := rfl
@[simp] theorem Chip.draw_ports (c : Chip) : c.draw.2.ports = c.ports := rfl
@[simp] theorem Chip.draw_el (c : Chip) : c.draw.2.el = c.el := rfl
@[simp] theorem Chip.draw_sec (c : Chip) : c.draw.2.sec = c.sec := rfl
@[simp] theorem Chip.draw_cans (c : Chip) : c.draw.2.cans = c.cans := rfl
@[simp] theorem Chip.draw_mdio (c : Chip) : c.draw.2.mdio = c.mdio := rfl
@[simp] theorem Chip.draw_wipe (c : Chip) : c.draw.2.wipe = c.wipe := rfl
@[simp] theorem Chip.draw_mods (c : Chip) : c.draw.2.mods = c.mods := rfl
@[simp] theorem Chip.draw_flushAt (c : Chip) : c.draw.2.flushAt = c.flushAt := rfl
@[simp] theorem Chip.draw_lifeNv (c : Chip) : c.draw.2.lifeNv = c.lifeNv := rfl
@[simp] theorem Chip.draw_genA (c : Chip) : c.draw.2.genA = c.genA := rfl
@[simp] theorem Chip.draw_genB (c : Chip) : c.draw.2.genB = c.genB := rfl
@[simp] theorem Chip.draw_sealA (c : Chip) : c.draw.2.sealA = c.sealA := rfl
@[simp] theorem Chip.draw_sealB (c : Chip) : c.draw.2.sealB = c.sealB := rfl
@[simp] theorem Chip.draw_start (c : Chip) : c.draw.2.start = c.start := rfl
@[simp] theorem Chip.draw_fst (c : Chip) : c.draw.1 = c.fresh := rfl
@[simp] theorem Chip.rd_draw (c : Chip) (a : Nat) : c.draw.2.rd a = c.rd a := rfl

/-! ### Updates of one indexed part: every other field, and every register, is as before -/

@[simp] theorem Chip.setPair_keeps (c : Chip) (n : Nat) (x : PairSt) :
    (c.setPair n x).st = c.st ∧ (c.setPair n x).phase = c.phase ∧ (c.setPair n x).regs = c.regs ∧
    (c.setPair n x).shadow = c.shadow ∧ (c.setPair n x).staged = c.staged ∧ (c.setPair n x).grpLeft = c.grpLeft ∧
    (c.setPair n x).latches = c.latches ∧ (c.setPair n x).out = c.out ∧ (c.setPair n x).fresh = c.fresh ∧
    (c.setPair n x).mbx = c.mbx ∧ (c.setPair n x).reports = c.reports ∧ (c.setPair n x).adm = c.adm ∧
    (c.setPair n x).regions = c.regions ∧ (c.setPair n x).loops = c.loops ∧ (c.setPair n x).mailbox = c.mailbox ∧
    (c.setPair n x).portTag = c.portTag ∧ (c.setPair n x).events = c.events ∧ (c.setPair n x).freshMark = c.freshMark ∧
    (c.setPair n x).shm = c.shm ∧ (c.setPair n x).effects = c.effects ∧ (c.setPair n x).marchSlice = c.marchSlice ∧
    (c.setPair n x).marchBuf = c.marchBuf ∧ (c.setPair n x).marchStand = c.marchStand ∧ (c.setPair n x).tapIr = c.tapIr ∧
    (c.setPair n x).tapDr = c.tapDr ∧ (c.setPair n x).tapScan = c.tapScan ∧ (c.setPair n x).tapHold = c.tapHold ∧
    (c.setPair n x).scanStep = c.scanStep ∧ (c.setPair n x).rolling = c.rolling ∧ (c.setPair n x).admitted = c.admitted ∧
    (c.setPair n x).parts = c.parts ∧ (c.setPair n x).bankA = c.bankA ∧ (c.setPair n x).bankB = c.bankB ∧
    (c.setPair n x).active = c.active ∧ (c.setPair n x).refLost = c.refLost ∧ (c.setPair n x).portWords = c.portWords ∧
    (c.setPair n x).retiredNv = c.retiredNv ∧ (c.setPair n x).released = c.released ∧ (c.setPair n x).refGood = c.refGood ∧
    (c.setPair n x).adcs = c.adcs ∧ (c.setPair n x).cmps = c.cmps ∧ (c.setPair n x).pfus = c.pfus ∧ (c.setPair n x).pgs = c.pgs ∧
    (c.setPair n x).charges = c.charges ∧ (c.setPair n x).scEvents = c.scEvents ∧ (c.setPair n x).scResp = c.scResp ∧
    (c.setPair n x).links = c.links ∧ (c.setPair n x).isnLines = c.isnLines ∧ (c.setPair n x).switched = c.switched ∧
    (c.setPair n x).drives = c.drives ∧ (c.setPair n x).acts = c.acts ∧ (c.setPair n x).convs = c.convs ∧
    (c.setPair n x).seqs = c.seqs ∧ (c.setPair n x).refCorr = c.refCorr ∧ (c.setPair n x).pilots = c.pilots ∧
    (c.setPair n x).chans = c.chans ∧ (c.setPair n x).doms = c.doms ∧ (c.setPair n x).supRuns = c.supRuns ∧
    (c.setPair n x).dlPend = c.dlPend ∧ (c.setPair n x).ken = c.ken ∧ (c.setPair n x).isn = c.isn ∧
    (c.setPair n x).ports = c.ports ∧ (c.setPair n x).el = c.el ∧ (c.setPair n x).sec = c.sec ∧ (c.setPair n x).cans = c.cans ∧
    (c.setPair n x).mdio = c.mdio ∧ (c.setPair n x).wipe = c.wipe ∧ (c.setPair n x).mods = c.mods ∧
    (c.setPair n x).flushAt = c.flushAt ∧ (c.setPair n x).lifeNv = c.lifeNv ∧ (c.setPair n x).genA = c.genA ∧
    (c.setPair n x).genB = c.genB ∧ (c.setPair n x).sealA = c.sealA ∧ (c.setPair n x).sealB = c.sealB ∧
    (c.setPair n x).start = c.start := by
  and_intros <;> rfl
@[simp] theorem Chip.rd_setPair (c : Chip) (n : Nat) (x : PairSt) (k : Nat) : (c.setPair n x).rd k = c.rd k := rfl
@[simp] theorem Chip.pair_setPair_same (c : Chip) (n : Nat) (x : PairSt) : (c.setPair n x).pair n = x := by simp [Chip.pair, Chip.setPair]
theorem Chip.pair_setPair_ne (c : Chip) (n : Nat) (x : PairSt) {m : Nat} (h : n ≠ m) : (c.setPair n x).pair m = c.pair m := by
  simp [Chip.pair, Chip.setPair, Tab.at_set_ne _ _ _ h]

@[simp] theorem Chip.setLoop_keeps (c : Chip) (n : Nat) (x : LoopSt) :
    (c.setLoop n x).st = c.st ∧ (c.setLoop n x).phase = c.phase ∧ (c.setLoop n x).regs = c.regs ∧
    (c.setLoop n x).shadow = c.shadow ∧ (c.setLoop n x).staged = c.staged ∧ (c.setLoop n x).grpLeft = c.grpLeft ∧
    (c.setLoop n x).latches = c.latches ∧ (c.setLoop n x).out = c.out ∧ (c.setLoop n x).fresh = c.fresh ∧
    (c.setLoop n x).mbx = c.mbx ∧ (c.setLoop n x).reports = c.reports ∧ (c.setLoop n x).adm = c.adm ∧
    (c.setLoop n x).regions = c.regions ∧ (c.setLoop n x).pairs = c.pairs ∧ (c.setLoop n x).mailbox = c.mailbox ∧
    (c.setLoop n x).portTag = c.portTag ∧ (c.setLoop n x).events = c.events ∧ (c.setLoop n x).freshMark = c.freshMark ∧
    (c.setLoop n x).shm = c.shm ∧ (c.setLoop n x).effects = c.effects ∧ (c.setLoop n x).marchSlice = c.marchSlice ∧
    (c.setLoop n x).marchBuf = c.marchBuf ∧ (c.setLoop n x).marchStand = c.marchStand ∧ (c.setLoop n x).tapIr = c.tapIr ∧
    (c.setLoop n x).tapDr = c.tapDr ∧ (c.setLoop n x).tapScan = c.tapScan ∧ (c.setLoop n x).tapHold = c.tapHold ∧
    (c.setLoop n x).scanStep = c.scanStep ∧ (c.setLoop n x).rolling = c.rolling ∧ (c.setLoop n x).admitted = c.admitted ∧
    (c.setLoop n x).parts = c.parts ∧ (c.setLoop n x).bankA = c.bankA ∧ (c.setLoop n x).bankB = c.bankB ∧
    (c.setLoop n x).active = c.active ∧ (c.setLoop n x).refLost = c.refLost ∧ (c.setLoop n x).portWords = c.portWords ∧
    (c.setLoop n x).retiredNv = c.retiredNv ∧ (c.setLoop n x).released = c.released ∧ (c.setLoop n x).refGood = c.refGood ∧
    (c.setLoop n x).adcs = c.adcs ∧ (c.setLoop n x).cmps = c.cmps ∧ (c.setLoop n x).pfus = c.pfus ∧ (c.setLoop n x).pgs = c.pgs ∧
    (c.setLoop n x).charges = c.charges ∧ (c.setLoop n x).scEvents = c.scEvents ∧ (c.setLoop n x).scResp = c.scResp ∧
    (c.setLoop n x).links = c.links ∧ (c.setLoop n x).isnLines = c.isnLines ∧ (c.setLoop n x).switched = c.switched ∧
    (c.setLoop n x).drives = c.drives ∧ (c.setLoop n x).acts = c.acts ∧ (c.setLoop n x).convs = c.convs ∧
    (c.setLoop n x).seqs = c.seqs ∧ (c.setLoop n x).refCorr = c.refCorr ∧ (c.setLoop n x).pilots = c.pilots ∧
    (c.setLoop n x).chans = c.chans ∧ (c.setLoop n x).doms = c.doms ∧ (c.setLoop n x).supRuns = c.supRuns ∧
    (c.setLoop n x).dlPend = c.dlPend ∧ (c.setLoop n x).ken = c.ken ∧ (c.setLoop n x).isn = c.isn ∧
    (c.setLoop n x).ports = c.ports ∧ (c.setLoop n x).el = c.el ∧ (c.setLoop n x).sec = c.sec ∧ (c.setLoop n x).cans = c.cans ∧
    (c.setLoop n x).mdio = c.mdio ∧ (c.setLoop n x).wipe = c.wipe ∧ (c.setLoop n x).mods = c.mods ∧
    (c.setLoop n x).flushAt = c.flushAt ∧ (c.setLoop n x).lifeNv = c.lifeNv ∧ (c.setLoop n x).genA = c.genA ∧
    (c.setLoop n x).genB = c.genB ∧ (c.setLoop n x).sealA = c.sealA ∧ (c.setLoop n x).sealB = c.sealB ∧
    (c.setLoop n x).start = c.start := by
  and_intros <;> rfl
@[simp] theorem Chip.rd_setLoop (c : Chip) (n : Nat) (x : LoopSt) (k : Nat) : (c.setLoop n x).rd k = c.rd k := rfl
@[simp] theorem Chip.loop_setLoop_same (c : Chip) (n : Nat) (x : LoopSt) : (c.setLoop n x).loop n = x := by simp [Chip.loop, Chip.setLoop]
theorem Chip.loop_setLoop_ne (c : Chip) (n : Nat) (x : LoopSt) {m : Nat} (h : n ≠ m) : (c.setLoop n x).loop m = c.loop m := by
  simp [Chip.loop, Chip.setLoop, Tab.at_set_ne _ _ _ h]

@[simp] theorem Chip.setRegion_keeps (c : Chip) (n : Nat) (x : RegionSt) :
    (c.setRegion n x).st = c.st ∧ (c.setRegion n x).phase = c.phase ∧ (c.setRegion n x).regs = c.regs ∧
    (c.setRegion n x).shadow = c.shadow ∧ (c.setRegion n x).staged = c.staged ∧ (c.setRegion n x).grpLeft = c.grpLeft ∧
    (c.setRegion n x).latches = c.latches ∧ (c.setRegion n x).out = c.out ∧ (c.setRegion n x).fresh = c.fresh ∧
    (c.setRegion n x).mbx = c.mbx ∧ (c.setRegion n x).reports = c.reports ∧ (c.setRegion n x).adm = c.adm ∧
    (c.setRegion n x).pairs = c.pairs ∧ (c.setRegion n x).loops = c.loops ∧ (c.setRegion n x).mailbox = c.mailbox ∧
    (c.setRegion n x).portTag = c.portTag ∧ (c.setRegion n x).events = c.events ∧ (c.setRegion n x).freshMark = c.freshMark ∧
    (c.setRegion n x).shm = c.shm ∧ (c.setRegion n x).effects = c.effects ∧ (c.setRegion n x).marchSlice = c.marchSlice ∧
    (c.setRegion n x).marchBuf = c.marchBuf ∧ (c.setRegion n x).marchStand = c.marchStand ∧ (c.setRegion n x).tapIr = c.tapIr ∧
    (c.setRegion n x).tapDr = c.tapDr ∧ (c.setRegion n x).tapScan = c.tapScan ∧ (c.setRegion n x).tapHold = c.tapHold ∧
    (c.setRegion n x).scanStep = c.scanStep ∧ (c.setRegion n x).rolling = c.rolling ∧ (c.setRegion n x).admitted = c.admitted ∧
    (c.setRegion n x).parts = c.parts ∧ (c.setRegion n x).bankA = c.bankA ∧ (c.setRegion n x).bankB = c.bankB ∧
    (c.setRegion n x).active = c.active ∧ (c.setRegion n x).refLost = c.refLost ∧ (c.setRegion n x).portWords = c.portWords ∧
    (c.setRegion n x).retiredNv = c.retiredNv ∧ (c.setRegion n x).released = c.released ∧ (c.setRegion n x).refGood = c.refGood ∧
    (c.setRegion n x).adcs = c.adcs ∧ (c.setRegion n x).cmps = c.cmps ∧ (c.setRegion n x).pfus = c.pfus ∧
    (c.setRegion n x).pgs = c.pgs ∧ (c.setRegion n x).charges = c.charges ∧ (c.setRegion n x).scEvents = c.scEvents ∧
    (c.setRegion n x).scResp = c.scResp ∧ (c.setRegion n x).links = c.links ∧ (c.setRegion n x).isnLines = c.isnLines ∧
    (c.setRegion n x).switched = c.switched ∧ (c.setRegion n x).drives = c.drives ∧ (c.setRegion n x).acts = c.acts ∧
    (c.setRegion n x).convs = c.convs ∧ (c.setRegion n x).seqs = c.seqs ∧ (c.setRegion n x).refCorr = c.refCorr ∧
    (c.setRegion n x).pilots = c.pilots ∧ (c.setRegion n x).chans = c.chans ∧ (c.setRegion n x).doms = c.doms ∧
    (c.setRegion n x).supRuns = c.supRuns ∧ (c.setRegion n x).dlPend = c.dlPend ∧ (c.setRegion n x).ken = c.ken ∧
    (c.setRegion n x).isn = c.isn ∧ (c.setRegion n x).ports = c.ports ∧ (c.setRegion n x).el = c.el ∧
    (c.setRegion n x).sec = c.sec ∧ (c.setRegion n x).cans = c.cans ∧ (c.setRegion n x).mdio = c.mdio ∧
    (c.setRegion n x).wipe = c.wipe ∧ (c.setRegion n x).mods = c.mods ∧ (c.setRegion n x).flushAt = c.flushAt ∧
    (c.setRegion n x).lifeNv = c.lifeNv ∧ (c.setRegion n x).genA = c.genA ∧ (c.setRegion n x).genB = c.genB ∧
    (c.setRegion n x).sealA = c.sealA ∧ (c.setRegion n x).sealB = c.sealB ∧ (c.setRegion n x).start = c.start := by
  and_intros <;> rfl
@[simp] theorem Chip.rd_setRegion (c : Chip) (n : Nat) (x : RegionSt) (k : Nat) : (c.setRegion n x).rd k = c.rd k := rfl
@[simp] theorem Chip.region_setRegion_same (c : Chip) (n : Nat) (x : RegionSt) : (c.setRegion n x).region n = x := by simp [Chip.region, Chip.setRegion]
theorem Chip.region_setRegion_ne (c : Chip) (n : Nat) (x : RegionSt) {m : Nat} (h : n ≠ m) : (c.setRegion n x).region m = c.region m := by
  simp [Chip.region, Chip.setRegion, Tab.at_set_ne _ _ _ h]

@[simp] theorem Chip.setPart_keeps (c : Chip) (n : Nat) (x : PartSt) :
    (c.setPart n x).st = c.st ∧ (c.setPart n x).phase = c.phase ∧ (c.setPart n x).regs = c.regs ∧
    (c.setPart n x).shadow = c.shadow ∧ (c.setPart n x).staged = c.staged ∧ (c.setPart n x).grpLeft = c.grpLeft ∧
    (c.setPart n x).latches = c.latches ∧ (c.setPart n x).out = c.out ∧ (c.setPart n x).fresh = c.fresh ∧
    (c.setPart n x).mbx = c.mbx ∧ (c.setPart n x).reports = c.reports ∧ (c.setPart n x).adm = c.adm ∧
    (c.setPart n x).regions = c.regions ∧ (c.setPart n x).pairs = c.pairs ∧ (c.setPart n x).loops = c.loops ∧
    (c.setPart n x).mailbox = c.mailbox ∧ (c.setPart n x).portTag = c.portTag ∧ (c.setPart n x).events = c.events ∧
    (c.setPart n x).freshMark = c.freshMark ∧ (c.setPart n x).shm = c.shm ∧ (c.setPart n x).effects = c.effects ∧
    (c.setPart n x).marchSlice = c.marchSlice ∧ (c.setPart n x).marchBuf = c.marchBuf ∧
    (c.setPart n x).marchStand = c.marchStand ∧ (c.setPart n x).tapIr = c.tapIr ∧ (c.setPart n x).tapDr = c.tapDr ∧
    (c.setPart n x).tapScan = c.tapScan ∧ (c.setPart n x).tapHold = c.tapHold ∧ (c.setPart n x).scanStep = c.scanStep ∧
    (c.setPart n x).rolling = c.rolling ∧ (c.setPart n x).admitted = c.admitted ∧ (c.setPart n x).bankA = c.bankA ∧
    (c.setPart n x).bankB = c.bankB ∧ (c.setPart n x).active = c.active ∧ (c.setPart n x).refLost = c.refLost ∧
    (c.setPart n x).portWords = c.portWords ∧ (c.setPart n x).retiredNv = c.retiredNv ∧ (c.setPart n x).released = c.released ∧
    (c.setPart n x).refGood = c.refGood ∧ (c.setPart n x).adcs = c.adcs ∧ (c.setPart n x).cmps = c.cmps ∧
    (c.setPart n x).pfus = c.pfus ∧ (c.setPart n x).pgs = c.pgs ∧ (c.setPart n x).charges = c.charges ∧
    (c.setPart n x).scEvents = c.scEvents ∧ (c.setPart n x).scResp = c.scResp ∧ (c.setPart n x).links = c.links ∧
    (c.setPart n x).isnLines = c.isnLines ∧ (c.setPart n x).switched = c.switched ∧ (c.setPart n x).drives = c.drives ∧
    (c.setPart n x).acts = c.acts ∧ (c.setPart n x).convs = c.convs ∧ (c.setPart n x).seqs = c.seqs ∧
    (c.setPart n x).refCorr = c.refCorr ∧ (c.setPart n x).pilots = c.pilots ∧ (c.setPart n x).chans = c.chans ∧
    (c.setPart n x).doms = c.doms ∧ (c.setPart n x).supRuns = c.supRuns ∧ (c.setPart n x).dlPend = c.dlPend ∧
    (c.setPart n x).ken = c.ken ∧ (c.setPart n x).isn = c.isn ∧ (c.setPart n x).ports = c.ports ∧ (c.setPart n x).el = c.el ∧
    (c.setPart n x).sec = c.sec ∧ (c.setPart n x).cans = c.cans ∧ (c.setPart n x).mdio = c.mdio ∧ (c.setPart n x).wipe = c.wipe ∧
    (c.setPart n x).mods = c.mods ∧ (c.setPart n x).flushAt = c.flushAt ∧ (c.setPart n x).lifeNv = c.lifeNv ∧
    (c.setPart n x).genA = c.genA ∧ (c.setPart n x).genB = c.genB ∧ (c.setPart n x).sealA = c.sealA ∧
    (c.setPart n x).sealB = c.sealB ∧ (c.setPart n x).start = c.start := by
  and_intros <;> rfl
@[simp] theorem Chip.rd_setPart (c : Chip) (n : Nat) (x : PartSt) (k : Nat) : (c.setPart n x).rd k = c.rd k := rfl
@[simp] theorem Chip.part_setPart_same (c : Chip) (n : Nat) (x : PartSt) : (c.setPart n x).part n = x := by simp [Chip.part, Chip.setPart]
theorem Chip.part_setPart_ne (c : Chip) (n : Nat) (x : PartSt) {m : Nat} (h : n ≠ m) : (c.setPart n x).part m = c.part m := by
  simp [Chip.part, Chip.setPart, Tab.at_set_ne _ _ _ h]

@[simp] theorem Chip.setMod_keeps (c : Chip) (n : Nat) (x : ModSt) :
    (c.setMod n x).st = c.st ∧ (c.setMod n x).phase = c.phase ∧ (c.setMod n x).regs = c.regs ∧ (c.setMod n x).shadow = c.shadow ∧
    (c.setMod n x).staged = c.staged ∧ (c.setMod n x).grpLeft = c.grpLeft ∧ (c.setMod n x).latches = c.latches ∧
    (c.setMod n x).out = c.out ∧ (c.setMod n x).fresh = c.fresh ∧ (c.setMod n x).mbx = c.mbx ∧
    (c.setMod n x).reports = c.reports ∧ (c.setMod n x).adm = c.adm ∧ (c.setMod n x).regions = c.regions ∧
    (c.setMod n x).pairs = c.pairs ∧ (c.setMod n x).loops = c.loops ∧ (c.setMod n x).mailbox = c.mailbox ∧
    (c.setMod n x).portTag = c.portTag ∧ (c.setMod n x).events = c.events ∧ (c.setMod n x).freshMark = c.freshMark ∧
    (c.setMod n x).shm = c.shm ∧ (c.setMod n x).effects = c.effects ∧ (c.setMod n x).marchSlice = c.marchSlice ∧
    (c.setMod n x).marchBuf = c.marchBuf ∧ (c.setMod n x).marchStand = c.marchStand ∧ (c.setMod n x).tapIr = c.tapIr ∧
    (c.setMod n x).tapDr = c.tapDr ∧ (c.setMod n x).tapScan = c.tapScan ∧ (c.setMod n x).tapHold = c.tapHold ∧
    (c.setMod n x).scanStep = c.scanStep ∧ (c.setMod n x).rolling = c.rolling ∧ (c.setMod n x).admitted = c.admitted ∧
    (c.setMod n x).parts = c.parts ∧ (c.setMod n x).bankA = c.bankA ∧ (c.setMod n x).bankB = c.bankB ∧
    (c.setMod n x).active = c.active ∧ (c.setMod n x).refLost = c.refLost ∧ (c.setMod n x).portWords = c.portWords ∧
    (c.setMod n x).retiredNv = c.retiredNv ∧ (c.setMod n x).released = c.released ∧ (c.setMod n x).refGood = c.refGood ∧
    (c.setMod n x).adcs = c.adcs ∧ (c.setMod n x).cmps = c.cmps ∧ (c.setMod n x).pfus = c.pfus ∧ (c.setMod n x).pgs = c.pgs ∧
    (c.setMod n x).charges = c.charges ∧ (c.setMod n x).scEvents = c.scEvents ∧ (c.setMod n x).scResp = c.scResp ∧
    (c.setMod n x).links = c.links ∧ (c.setMod n x).isnLines = c.isnLines ∧ (c.setMod n x).switched = c.switched ∧
    (c.setMod n x).drives = c.drives ∧ (c.setMod n x).acts = c.acts ∧ (c.setMod n x).convs = c.convs ∧
    (c.setMod n x).seqs = c.seqs ∧ (c.setMod n x).refCorr = c.refCorr ∧ (c.setMod n x).pilots = c.pilots ∧
    (c.setMod n x).chans = c.chans ∧ (c.setMod n x).doms = c.doms ∧ (c.setMod n x).supRuns = c.supRuns ∧
    (c.setMod n x).dlPend = c.dlPend ∧ (c.setMod n x).ken = c.ken ∧ (c.setMod n x).isn = c.isn ∧ (c.setMod n x).ports = c.ports ∧
    (c.setMod n x).el = c.el ∧ (c.setMod n x).sec = c.sec ∧ (c.setMod n x).cans = c.cans ∧ (c.setMod n x).mdio = c.mdio ∧
    (c.setMod n x).wipe = c.wipe ∧ (c.setMod n x).flushAt = c.flushAt ∧ (c.setMod n x).lifeNv = c.lifeNv ∧
    (c.setMod n x).genA = c.genA ∧ (c.setMod n x).genB = c.genB ∧ (c.setMod n x).sealA = c.sealA ∧
    (c.setMod n x).sealB = c.sealB ∧ (c.setMod n x).start = c.start := by
  and_intros <;> rfl
@[simp] theorem Chip.rd_setMod (c : Chip) (n : Nat) (x : ModSt) (k : Nat) : (c.setMod n x).rd k = c.rd k := rfl
@[simp] theorem Chip.mod__setMod_same (c : Chip) (n : Nat) (x : ModSt) : (c.setMod n x).mod_ n = x := by simp [Chip.mod_, Chip.setMod]
theorem Chip.mod__setMod_ne (c : Chip) (n : Nat) (x : ModSt) {m : Nat} (h : n ≠ m) : (c.setMod n x).mod_ m = c.mod_ m := by
  simp [Chip.mod_, Chip.setMod, Tab.at_set_ne _ _ _ h]

@[simp] theorem Chip.setCan_keeps (c : Chip) (n : Nat) (x : CanSt) :
    (c.setCan n x).st = c.st ∧ (c.setCan n x).phase = c.phase ∧ (c.setCan n x).regs = c.regs ∧ (c.setCan n x).shadow = c.shadow ∧
    (c.setCan n x).staged = c.staged ∧ (c.setCan n x).grpLeft = c.grpLeft ∧ (c.setCan n x).latches = c.latches ∧
    (c.setCan n x).out = c.out ∧ (c.setCan n x).fresh = c.fresh ∧ (c.setCan n x).mbx = c.mbx ∧
    (c.setCan n x).reports = c.reports ∧ (c.setCan n x).adm = c.adm ∧ (c.setCan n x).regions = c.regions ∧
    (c.setCan n x).pairs = c.pairs ∧ (c.setCan n x).loops = c.loops ∧ (c.setCan n x).mailbox = c.mailbox ∧
    (c.setCan n x).portTag = c.portTag ∧ (c.setCan n x).events = c.events ∧ (c.setCan n x).freshMark = c.freshMark ∧
    (c.setCan n x).shm = c.shm ∧ (c.setCan n x).effects = c.effects ∧ (c.setCan n x).marchSlice = c.marchSlice ∧
    (c.setCan n x).marchBuf = c.marchBuf ∧ (c.setCan n x).marchStand = c.marchStand ∧ (c.setCan n x).tapIr = c.tapIr ∧
    (c.setCan n x).tapDr = c.tapDr ∧ (c.setCan n x).tapScan = c.tapScan ∧ (c.setCan n x).tapHold = c.tapHold ∧
    (c.setCan n x).scanStep = c.scanStep ∧ (c.setCan n x).rolling = c.rolling ∧ (c.setCan n x).admitted = c.admitted ∧
    (c.setCan n x).parts = c.parts ∧ (c.setCan n x).bankA = c.bankA ∧ (c.setCan n x).bankB = c.bankB ∧
    (c.setCan n x).active = c.active ∧ (c.setCan n x).refLost = c.refLost ∧ (c.setCan n x).portWords = c.portWords ∧
    (c.setCan n x).retiredNv = c.retiredNv ∧ (c.setCan n x).released = c.released ∧ (c.setCan n x).refGood = c.refGood ∧
    (c.setCan n x).adcs = c.adcs ∧ (c.setCan n x).cmps = c.cmps ∧ (c.setCan n x).pfus = c.pfus ∧ (c.setCan n x).pgs = c.pgs ∧
    (c.setCan n x).charges = c.charges ∧ (c.setCan n x).scEvents = c.scEvents ∧ (c.setCan n x).scResp = c.scResp ∧
    (c.setCan n x).links = c.links ∧ (c.setCan n x).isnLines = c.isnLines ∧ (c.setCan n x).switched = c.switched ∧
    (c.setCan n x).drives = c.drives ∧ (c.setCan n x).acts = c.acts ∧ (c.setCan n x).convs = c.convs ∧
    (c.setCan n x).seqs = c.seqs ∧ (c.setCan n x).refCorr = c.refCorr ∧ (c.setCan n x).pilots = c.pilots ∧
    (c.setCan n x).chans = c.chans ∧ (c.setCan n x).doms = c.doms ∧ (c.setCan n x).supRuns = c.supRuns ∧
    (c.setCan n x).dlPend = c.dlPend ∧ (c.setCan n x).ken = c.ken ∧ (c.setCan n x).isn = c.isn ∧ (c.setCan n x).ports = c.ports ∧
    (c.setCan n x).el = c.el ∧ (c.setCan n x).sec = c.sec ∧ (c.setCan n x).mdio = c.mdio ∧ (c.setCan n x).wipe = c.wipe ∧
    (c.setCan n x).mods = c.mods ∧ (c.setCan n x).flushAt = c.flushAt ∧ (c.setCan n x).lifeNv = c.lifeNv ∧
    (c.setCan n x).genA = c.genA ∧ (c.setCan n x).genB = c.genB ∧ (c.setCan n x).sealA = c.sealA ∧
    (c.setCan n x).sealB = c.sealB ∧ (c.setCan n x).start = c.start := by
  and_intros <;> rfl
@[simp] theorem Chip.rd_setCan (c : Chip) (n : Nat) (x : CanSt) (k : Nat) : (c.setCan n x).rd k = c.rd k := rfl
@[simp] theorem Chip.can_setCan_same (c : Chip) (n : Nat) (x : CanSt) : (c.setCan n x).can n = x := by simp [Chip.can, Chip.setCan]
theorem Chip.can_setCan_ne (c : Chip) (n : Nat) (x : CanSt) {m : Nat} (h : n ≠ m) : (c.setCan n x).can m = c.can m := by
  simp [Chip.can, Chip.setCan, Tab.at_set_ne _ _ _ h]

@[simp] theorem Chip.setEport_keeps (c : Chip) (n : Nat) (x : ElPort) :
    (c.setEport n x).st = c.st ∧ (c.setEport n x).phase = c.phase ∧ (c.setEport n x).regs = c.regs ∧
    (c.setEport n x).shadow = c.shadow ∧ (c.setEport n x).staged = c.staged ∧ (c.setEport n x).grpLeft = c.grpLeft ∧
    (c.setEport n x).latches = c.latches ∧ (c.setEport n x).out = c.out ∧ (c.setEport n x).fresh = c.fresh ∧
    (c.setEport n x).mbx = c.mbx ∧ (c.setEport n x).reports = c.reports ∧ (c.setEport n x).adm = c.adm ∧
    (c.setEport n x).regions = c.regions ∧ (c.setEport n x).pairs = c.pairs ∧ (c.setEport n x).loops = c.loops ∧
    (c.setEport n x).mailbox = c.mailbox ∧ (c.setEport n x).portTag = c.portTag ∧ (c.setEport n x).events = c.events ∧
    (c.setEport n x).freshMark = c.freshMark ∧ (c.setEport n x).shm = c.shm ∧ (c.setEport n x).effects = c.effects ∧
    (c.setEport n x).marchSlice = c.marchSlice ∧ (c.setEport n x).marchBuf = c.marchBuf ∧
    (c.setEport n x).marchStand = c.marchStand ∧ (c.setEport n x).tapIr = c.tapIr ∧ (c.setEport n x).tapDr = c.tapDr ∧
    (c.setEport n x).tapScan = c.tapScan ∧ (c.setEport n x).tapHold = c.tapHold ∧ (c.setEport n x).scanStep = c.scanStep ∧
    (c.setEport n x).rolling = c.rolling ∧ (c.setEport n x).admitted = c.admitted ∧ (c.setEport n x).parts = c.parts ∧
    (c.setEport n x).bankA = c.bankA ∧ (c.setEport n x).bankB = c.bankB ∧ (c.setEport n x).active = c.active ∧
    (c.setEport n x).refLost = c.refLost ∧ (c.setEport n x).portWords = c.portWords ∧ (c.setEport n x).retiredNv = c.retiredNv ∧
    (c.setEport n x).released = c.released ∧ (c.setEport n x).refGood = c.refGood ∧ (c.setEport n x).adcs = c.adcs ∧
    (c.setEport n x).cmps = c.cmps ∧ (c.setEport n x).pfus = c.pfus ∧ (c.setEport n x).pgs = c.pgs ∧
    (c.setEport n x).charges = c.charges ∧ (c.setEport n x).scEvents = c.scEvents ∧ (c.setEport n x).scResp = c.scResp ∧
    (c.setEport n x).links = c.links ∧ (c.setEport n x).isnLines = c.isnLines ∧ (c.setEport n x).switched = c.switched ∧
    (c.setEport n x).drives = c.drives ∧ (c.setEport n x).acts = c.acts ∧ (c.setEport n x).convs = c.convs ∧
    (c.setEport n x).seqs = c.seqs ∧ (c.setEport n x).refCorr = c.refCorr ∧ (c.setEport n x).pilots = c.pilots ∧
    (c.setEport n x).chans = c.chans ∧ (c.setEport n x).doms = c.doms ∧ (c.setEport n x).supRuns = c.supRuns ∧
    (c.setEport n x).dlPend = c.dlPend ∧ (c.setEport n x).ken = c.ken ∧ (c.setEport n x).isn = c.isn ∧
    (c.setEport n x).el = c.el ∧ (c.setEport n x).sec = c.sec ∧ (c.setEport n x).cans = c.cans ∧ (c.setEport n x).mdio = c.mdio ∧
    (c.setEport n x).wipe = c.wipe ∧ (c.setEport n x).mods = c.mods ∧ (c.setEport n x).flushAt = c.flushAt ∧
    (c.setEport n x).lifeNv = c.lifeNv ∧ (c.setEport n x).genA = c.genA ∧ (c.setEport n x).genB = c.genB ∧
    (c.setEport n x).sealA = c.sealA ∧ (c.setEport n x).sealB = c.sealB ∧ (c.setEport n x).start = c.start := by
  and_intros <;> rfl
@[simp] theorem Chip.rd_setEport (c : Chip) (n : Nat) (x : ElPort) (k : Nat) : (c.setEport n x).rd k = c.rd k := rfl
@[simp] theorem Chip.eport_setEport_same (c : Chip) (n : Nat) (x : ElPort) : (c.setEport n x).eport n = x := by simp [Chip.eport, Chip.setEport]
theorem Chip.eport_setEport_ne (c : Chip) (n : Nat) (x : ElPort) {m : Nat} (h : n ≠ m) : (c.setEport n x).eport m = c.eport m := by
  simp [Chip.eport, Chip.setEport, Tab.at_set_ne _ _ _ h]

@[simp] theorem Chip.updPg_keeps (c : Chip) (n : Nat) (f : PgSt → PgSt) :
    (c.updPg n f).st = c.st ∧ (c.updPg n f).phase = c.phase ∧ (c.updPg n f).regs = c.regs ∧ (c.updPg n f).shadow = c.shadow ∧
    (c.updPg n f).staged = c.staged ∧ (c.updPg n f).grpLeft = c.grpLeft ∧ (c.updPg n f).latches = c.latches ∧
    (c.updPg n f).out = c.out ∧ (c.updPg n f).fresh = c.fresh ∧ (c.updPg n f).mbx = c.mbx ∧ (c.updPg n f).reports = c.reports ∧
    (c.updPg n f).adm = c.adm ∧ (c.updPg n f).regions = c.regions ∧ (c.updPg n f).pairs = c.pairs ∧
    (c.updPg n f).loops = c.loops ∧ (c.updPg n f).mailbox = c.mailbox ∧ (c.updPg n f).portTag = c.portTag ∧
    (c.updPg n f).events = c.events ∧ (c.updPg n f).freshMark = c.freshMark ∧ (c.updPg n f).shm = c.shm ∧
    (c.updPg n f).effects = c.effects ∧ (c.updPg n f).marchSlice = c.marchSlice ∧ (c.updPg n f).marchBuf = c.marchBuf ∧
    (c.updPg n f).marchStand = c.marchStand ∧ (c.updPg n f).tapIr = c.tapIr ∧ (c.updPg n f).tapDr = c.tapDr ∧
    (c.updPg n f).tapScan = c.tapScan ∧ (c.updPg n f).tapHold = c.tapHold ∧ (c.updPg n f).scanStep = c.scanStep ∧
    (c.updPg n f).rolling = c.rolling ∧ (c.updPg n f).admitted = c.admitted ∧ (c.updPg n f).parts = c.parts ∧
    (c.updPg n f).bankA = c.bankA ∧ (c.updPg n f).bankB = c.bankB ∧ (c.updPg n f).active = c.active ∧
    (c.updPg n f).refLost = c.refLost ∧ (c.updPg n f).portWords = c.portWords ∧ (c.updPg n f).retiredNv = c.retiredNv ∧
    (c.updPg n f).released = c.released ∧ (c.updPg n f).refGood = c.refGood ∧ (c.updPg n f).adcs = c.adcs ∧
    (c.updPg n f).cmps = c.cmps ∧ (c.updPg n f).pfus = c.pfus ∧ (c.updPg n f).charges = c.charges ∧
    (c.updPg n f).scEvents = c.scEvents ∧ (c.updPg n f).scResp = c.scResp ∧ (c.updPg n f).links = c.links ∧
    (c.updPg n f).isnLines = c.isnLines ∧ (c.updPg n f).switched = c.switched ∧ (c.updPg n f).drives = c.drives ∧
    (c.updPg n f).acts = c.acts ∧ (c.updPg n f).convs = c.convs ∧ (c.updPg n f).seqs = c.seqs ∧
    (c.updPg n f).refCorr = c.refCorr ∧ (c.updPg n f).pilots = c.pilots ∧ (c.updPg n f).chans = c.chans ∧
    (c.updPg n f).doms = c.doms ∧ (c.updPg n f).supRuns = c.supRuns ∧ (c.updPg n f).dlPend = c.dlPend ∧
    (c.updPg n f).ken = c.ken ∧ (c.updPg n f).isn = c.isn ∧ (c.updPg n f).ports = c.ports ∧ (c.updPg n f).el = c.el ∧
    (c.updPg n f).sec = c.sec ∧ (c.updPg n f).cans = c.cans ∧ (c.updPg n f).mdio = c.mdio ∧ (c.updPg n f).wipe = c.wipe ∧
    (c.updPg n f).mods = c.mods ∧ (c.updPg n f).flushAt = c.flushAt ∧ (c.updPg n f).lifeNv = c.lifeNv ∧
    (c.updPg n f).genA = c.genA ∧ (c.updPg n f).genB = c.genB ∧ (c.updPg n f).sealA = c.sealA ∧ (c.updPg n f).sealB = c.sealB ∧
    (c.updPg n f).start = c.start := by
  and_intros <;> rfl
@[simp] theorem Chip.rd_updPg (c : Chip) (n : Nat) (f : PgSt → PgSt) (k : Nat) : (c.updPg n f).rd k = c.rd k := rfl
@[simp] theorem Chip.pg_updPg_same (c : Chip) (n : Nat) (f : PgSt → PgSt) : (c.updPg n f).pg n = f (c.pg n) := by simp [Chip.pg, Chip.updPg]
theorem Chip.pg_updPg_ne (c : Chip) (n : Nat) (f : PgSt → PgSt) {m : Nat} (h : n ≠ m) : (c.updPg n f).pg m = c.pg m := by
  simp [Chip.pg, Chip.updPg, Tab.at_upd_ne _ _ _ h]

@[simp] theorem Chip.updLink_keeps (c : Chip) (n : Nat) (f : LinkSt → LinkSt) :
    (c.updLink n f).st = c.st ∧ (c.updLink n f).phase = c.phase ∧ (c.updLink n f).regs = c.regs ∧
    (c.updLink n f).shadow = c.shadow ∧ (c.updLink n f).staged = c.staged ∧ (c.updLink n f).grpLeft = c.grpLeft ∧
    (c.updLink n f).latches = c.latches ∧ (c.updLink n f).out = c.out ∧ (c.updLink n f).fresh = c.fresh ∧
    (c.updLink n f).mbx = c.mbx ∧ (c.updLink n f).reports = c.reports ∧ (c.updLink n f).adm = c.adm ∧
    (c.updLink n f).regions = c.regions ∧ (c.updLink n f).pairs = c.pairs ∧ (c.updLink n f).loops = c.loops ∧
    (c.updLink n f).mailbox = c.mailbox ∧ (c.updLink n f).portTag = c.portTag ∧ (c.updLink n f).events = c.events ∧
    (c.updLink n f).freshMark = c.freshMark ∧ (c.updLink n f).shm = c.shm ∧ (c.updLink n f).effects = c.effects ∧
    (c.updLink n f).marchSlice = c.marchSlice ∧ (c.updLink n f).marchBuf = c.marchBuf ∧
    (c.updLink n f).marchStand = c.marchStand ∧ (c.updLink n f).tapIr = c.tapIr ∧ (c.updLink n f).tapDr = c.tapDr ∧
    (c.updLink n f).tapScan = c.tapScan ∧ (c.updLink n f).tapHold = c.tapHold ∧ (c.updLink n f).scanStep = c.scanStep ∧
    (c.updLink n f).rolling = c.rolling ∧ (c.updLink n f).admitted = c.admitted ∧ (c.updLink n f).parts = c.parts ∧
    (c.updLink n f).bankA = c.bankA ∧ (c.updLink n f).bankB = c.bankB ∧ (c.updLink n f).active = c.active ∧
    (c.updLink n f).refLost = c.refLost ∧ (c.updLink n f).portWords = c.portWords ∧ (c.updLink n f).retiredNv = c.retiredNv ∧
    (c.updLink n f).released = c.released ∧ (c.updLink n f).refGood = c.refGood ∧ (c.updLink n f).adcs = c.adcs ∧
    (c.updLink n f).cmps = c.cmps ∧ (c.updLink n f).pfus = c.pfus ∧ (c.updLink n f).pgs = c.pgs ∧
    (c.updLink n f).charges = c.charges ∧ (c.updLink n f).scEvents = c.scEvents ∧ (c.updLink n f).scResp = c.scResp ∧
    (c.updLink n f).isnLines = c.isnLines ∧ (c.updLink n f).switched = c.switched ∧ (c.updLink n f).drives = c.drives ∧
    (c.updLink n f).acts = c.acts ∧ (c.updLink n f).convs = c.convs ∧ (c.updLink n f).seqs = c.seqs ∧
    (c.updLink n f).refCorr = c.refCorr ∧ (c.updLink n f).pilots = c.pilots ∧ (c.updLink n f).chans = c.chans ∧
    (c.updLink n f).doms = c.doms ∧ (c.updLink n f).supRuns = c.supRuns ∧ (c.updLink n f).dlPend = c.dlPend ∧
    (c.updLink n f).ken = c.ken ∧ (c.updLink n f).isn = c.isn ∧ (c.updLink n f).ports = c.ports ∧ (c.updLink n f).el = c.el ∧
    (c.updLink n f).sec = c.sec ∧ (c.updLink n f).cans = c.cans ∧ (c.updLink n f).mdio = c.mdio ∧ (c.updLink n f).wipe = c.wipe ∧
    (c.updLink n f).mods = c.mods ∧ (c.updLink n f).flushAt = c.flushAt ∧ (c.updLink n f).lifeNv = c.lifeNv ∧
    (c.updLink n f).genA = c.genA ∧ (c.updLink n f).genB = c.genB ∧ (c.updLink n f).sealA = c.sealA ∧
    (c.updLink n f).sealB = c.sealB ∧ (c.updLink n f).start = c.start := by
  and_intros <;> rfl
@[simp] theorem Chip.rd_updLink (c : Chip) (n : Nat) (f : LinkSt → LinkSt) (k : Nat) : (c.updLink n f).rd k = c.rd k := rfl
@[simp] theorem Chip.link_updLink_same (c : Chip) (n : Nat) (f : LinkSt → LinkSt) : (c.updLink n f).link n = f (c.link n) := by simp [Chip.link, Chip.updLink]
theorem Chip.link_updLink_ne (c : Chip) (n : Nat) (f : LinkSt → LinkSt) {m : Nat} (h : n ≠ m) : (c.updLink n f).link m = c.link m := by
  simp [Chip.link, Chip.updLink, Tab.at_upd_ne _ _ _ h]

@[simp] theorem Chip.updAdc_keeps (c : Chip) (n : Nat) (f : AdcSt → AdcSt) :
    (c.updAdc n f).st = c.st ∧ (c.updAdc n f).phase = c.phase ∧ (c.updAdc n f).regs = c.regs ∧ (c.updAdc n f).shadow = c.shadow ∧
    (c.updAdc n f).staged = c.staged ∧ (c.updAdc n f).grpLeft = c.grpLeft ∧ (c.updAdc n f).latches = c.latches ∧
    (c.updAdc n f).out = c.out ∧ (c.updAdc n f).fresh = c.fresh ∧ (c.updAdc n f).mbx = c.mbx ∧
    (c.updAdc n f).reports = c.reports ∧ (c.updAdc n f).adm = c.adm ∧ (c.updAdc n f).regions = c.regions ∧
    (c.updAdc n f).pairs = c.pairs ∧ (c.updAdc n f).loops = c.loops ∧ (c.updAdc n f).mailbox = c.mailbox ∧
    (c.updAdc n f).portTag = c.portTag ∧ (c.updAdc n f).events = c.events ∧ (c.updAdc n f).freshMark = c.freshMark ∧
    (c.updAdc n f).shm = c.shm ∧ (c.updAdc n f).effects = c.effects ∧ (c.updAdc n f).marchSlice = c.marchSlice ∧
    (c.updAdc n f).marchBuf = c.marchBuf ∧ (c.updAdc n f).marchStand = c.marchStand ∧ (c.updAdc n f).tapIr = c.tapIr ∧
    (c.updAdc n f).tapDr = c.tapDr ∧ (c.updAdc n f).tapScan = c.tapScan ∧ (c.updAdc n f).tapHold = c.tapHold ∧
    (c.updAdc n f).scanStep = c.scanStep ∧ (c.updAdc n f).rolling = c.rolling ∧ (c.updAdc n f).admitted = c.admitted ∧
    (c.updAdc n f).parts = c.parts ∧ (c.updAdc n f).bankA = c.bankA ∧ (c.updAdc n f).bankB = c.bankB ∧
    (c.updAdc n f).active = c.active ∧ (c.updAdc n f).refLost = c.refLost ∧ (c.updAdc n f).portWords = c.portWords ∧
    (c.updAdc n f).retiredNv = c.retiredNv ∧ (c.updAdc n f).released = c.released ∧ (c.updAdc n f).refGood = c.refGood ∧
    (c.updAdc n f).cmps = c.cmps ∧ (c.updAdc n f).pfus = c.pfus ∧ (c.updAdc n f).pgs = c.pgs ∧
    (c.updAdc n f).charges = c.charges ∧ (c.updAdc n f).scEvents = c.scEvents ∧ (c.updAdc n f).scResp = c.scResp ∧
    (c.updAdc n f).links = c.links ∧ (c.updAdc n f).isnLines = c.isnLines ∧ (c.updAdc n f).switched = c.switched ∧
    (c.updAdc n f).drives = c.drives ∧ (c.updAdc n f).acts = c.acts ∧ (c.updAdc n f).convs = c.convs ∧
    (c.updAdc n f).seqs = c.seqs ∧ (c.updAdc n f).refCorr = c.refCorr ∧ (c.updAdc n f).pilots = c.pilots ∧
    (c.updAdc n f).chans = c.chans ∧ (c.updAdc n f).doms = c.doms ∧ (c.updAdc n f).supRuns = c.supRuns ∧
    (c.updAdc n f).dlPend = c.dlPend ∧ (c.updAdc n f).ken = c.ken ∧ (c.updAdc n f).isn = c.isn ∧ (c.updAdc n f).ports = c.ports ∧
    (c.updAdc n f).el = c.el ∧ (c.updAdc n f).sec = c.sec ∧ (c.updAdc n f).cans = c.cans ∧ (c.updAdc n f).mdio = c.mdio ∧
    (c.updAdc n f).wipe = c.wipe ∧ (c.updAdc n f).mods = c.mods ∧ (c.updAdc n f).flushAt = c.flushAt ∧
    (c.updAdc n f).lifeNv = c.lifeNv ∧ (c.updAdc n f).genA = c.genA ∧ (c.updAdc n f).genB = c.genB ∧
    (c.updAdc n f).sealA = c.sealA ∧ (c.updAdc n f).sealB = c.sealB ∧ (c.updAdc n f).start = c.start := by
  and_intros <;> rfl
@[simp] theorem Chip.rd_updAdc (c : Chip) (n : Nat) (f : AdcSt → AdcSt) (k : Nat) : (c.updAdc n f).rd k = c.rd k := rfl
@[simp] theorem Chip.adc_updAdc_same (c : Chip) (n : Nat) (f : AdcSt → AdcSt) : (c.updAdc n f).adc n = f (c.adc n) := by simp [Chip.adc, Chip.updAdc]
theorem Chip.adc_updAdc_ne (c : Chip) (n : Nat) (f : AdcSt → AdcSt) {m : Nat} (h : n ≠ m) : (c.updAdc n f).adc m = c.adc m := by
  simp [Chip.adc, Chip.updAdc, Tab.at_upd_ne _ _ _ h]

@[simp] theorem Chip.updPfu_keeps (c : Chip) (n : Nat) (f : PfuSt → PfuSt) :
    (c.updPfu n f).st = c.st ∧ (c.updPfu n f).phase = c.phase ∧ (c.updPfu n f).regs = c.regs ∧ (c.updPfu n f).shadow = c.shadow ∧
    (c.updPfu n f).staged = c.staged ∧ (c.updPfu n f).grpLeft = c.grpLeft ∧ (c.updPfu n f).latches = c.latches ∧
    (c.updPfu n f).out = c.out ∧ (c.updPfu n f).fresh = c.fresh ∧ (c.updPfu n f).mbx = c.mbx ∧
    (c.updPfu n f).reports = c.reports ∧ (c.updPfu n f).adm = c.adm ∧ (c.updPfu n f).regions = c.regions ∧
    (c.updPfu n f).pairs = c.pairs ∧ (c.updPfu n f).loops = c.loops ∧ (c.updPfu n f).mailbox = c.mailbox ∧
    (c.updPfu n f).portTag = c.portTag ∧ (c.updPfu n f).events = c.events ∧ (c.updPfu n f).freshMark = c.freshMark ∧
    (c.updPfu n f).shm = c.shm ∧ (c.updPfu n f).effects = c.effects ∧ (c.updPfu n f).marchSlice = c.marchSlice ∧
    (c.updPfu n f).marchBuf = c.marchBuf ∧ (c.updPfu n f).marchStand = c.marchStand ∧ (c.updPfu n f).tapIr = c.tapIr ∧
    (c.updPfu n f).tapDr = c.tapDr ∧ (c.updPfu n f).tapScan = c.tapScan ∧ (c.updPfu n f).tapHold = c.tapHold ∧
    (c.updPfu n f).scanStep = c.scanStep ∧ (c.updPfu n f).rolling = c.rolling ∧ (c.updPfu n f).admitted = c.admitted ∧
    (c.updPfu n f).parts = c.parts ∧ (c.updPfu n f).bankA = c.bankA ∧ (c.updPfu n f).bankB = c.bankB ∧
    (c.updPfu n f).active = c.active ∧ (c.updPfu n f).refLost = c.refLost ∧ (c.updPfu n f).portWords = c.portWords ∧
    (c.updPfu n f).retiredNv = c.retiredNv ∧ (c.updPfu n f).released = c.released ∧ (c.updPfu n f).refGood = c.refGood ∧
    (c.updPfu n f).adcs = c.adcs ∧ (c.updPfu n f).cmps = c.cmps ∧ (c.updPfu n f).pgs = c.pgs ∧
    (c.updPfu n f).charges = c.charges ∧ (c.updPfu n f).scEvents = c.scEvents ∧ (c.updPfu n f).scResp = c.scResp ∧
    (c.updPfu n f).links = c.links ∧ (c.updPfu n f).isnLines = c.isnLines ∧ (c.updPfu n f).switched = c.switched ∧
    (c.updPfu n f).drives = c.drives ∧ (c.updPfu n f).acts = c.acts ∧ (c.updPfu n f).convs = c.convs ∧
    (c.updPfu n f).seqs = c.seqs ∧ (c.updPfu n f).refCorr = c.refCorr ∧ (c.updPfu n f).pilots = c.pilots ∧
    (c.updPfu n f).chans = c.chans ∧ (c.updPfu n f).doms = c.doms ∧ (c.updPfu n f).supRuns = c.supRuns ∧
    (c.updPfu n f).dlPend = c.dlPend ∧ (c.updPfu n f).ken = c.ken ∧ (c.updPfu n f).isn = c.isn ∧ (c.updPfu n f).ports = c.ports ∧
    (c.updPfu n f).el = c.el ∧ (c.updPfu n f).sec = c.sec ∧ (c.updPfu n f).cans = c.cans ∧ (c.updPfu n f).mdio = c.mdio ∧
    (c.updPfu n f).wipe = c.wipe ∧ (c.updPfu n f).mods = c.mods ∧ (c.updPfu n f).flushAt = c.flushAt ∧
    (c.updPfu n f).lifeNv = c.lifeNv ∧ (c.updPfu n f).genA = c.genA ∧ (c.updPfu n f).genB = c.genB ∧
    (c.updPfu n f).sealA = c.sealA ∧ (c.updPfu n f).sealB = c.sealB ∧ (c.updPfu n f).start = c.start := by
  and_intros <;> rfl
@[simp] theorem Chip.rd_updPfu (c : Chip) (n : Nat) (f : PfuSt → PfuSt) (k : Nat) : (c.updPfu n f).rd k = c.rd k := rfl
@[simp] theorem Chip.pfu_updPfu_same (c : Chip) (n : Nat) (f : PfuSt → PfuSt) : (c.updPfu n f).pfu n = f (c.pfu n) := by simp [Chip.pfu, Chip.updPfu]
theorem Chip.pfu_updPfu_ne (c : Chip) (n : Nat) (f : PfuSt → PfuSt) {m : Nat} (h : n ≠ m) : (c.updPfu n f).pfu m = c.pfu m := by
  simp [Chip.pfu, Chip.updPfu, Tab.at_upd_ne _ _ _ h]

@[simp] theorem Chip.updConv_keeps (c : Chip) (n : Nat) (f : ConvSt → ConvSt) :
    (c.updConv n f).st = c.st ∧ (c.updConv n f).phase = c.phase ∧ (c.updConv n f).regs = c.regs ∧
    (c.updConv n f).shadow = c.shadow ∧ (c.updConv n f).staged = c.staged ∧ (c.updConv n f).grpLeft = c.grpLeft ∧
    (c.updConv n f).latches = c.latches ∧ (c.updConv n f).out = c.out ∧ (c.updConv n f).fresh = c.fresh ∧
    (c.updConv n f).mbx = c.mbx ∧ (c.updConv n f).reports = c.reports ∧ (c.updConv n f).adm = c.adm ∧
    (c.updConv n f).regions = c.regions ∧ (c.updConv n f).pairs = c.pairs ∧ (c.updConv n f).loops = c.loops ∧
    (c.updConv n f).mailbox = c.mailbox ∧ (c.updConv n f).portTag = c.portTag ∧ (c.updConv n f).events = c.events ∧
    (c.updConv n f).freshMark = c.freshMark ∧ (c.updConv n f).shm = c.shm ∧ (c.updConv n f).effects = c.effects ∧
    (c.updConv n f).marchSlice = c.marchSlice ∧ (c.updConv n f).marchBuf = c.marchBuf ∧
    (c.updConv n f).marchStand = c.marchStand ∧ (c.updConv n f).tapIr = c.tapIr ∧ (c.updConv n f).tapDr = c.tapDr ∧
    (c.updConv n f).tapScan = c.tapScan ∧ (c.updConv n f).tapHold = c.tapHold ∧ (c.updConv n f).scanStep = c.scanStep ∧
    (c.updConv n f).rolling = c.rolling ∧ (c.updConv n f).admitted = c.admitted ∧ (c.updConv n f).parts = c.parts ∧
    (c.updConv n f).bankA = c.bankA ∧ (c.updConv n f).bankB = c.bankB ∧ (c.updConv n f).active = c.active ∧
    (c.updConv n f).refLost = c.refLost ∧ (c.updConv n f).portWords = c.portWords ∧ (c.updConv n f).retiredNv = c.retiredNv ∧
    (c.updConv n f).released = c.released ∧ (c.updConv n f).refGood = c.refGood ∧ (c.updConv n f).adcs = c.adcs ∧
    (c.updConv n f).cmps = c.cmps ∧ (c.updConv n f).pfus = c.pfus ∧ (c.updConv n f).pgs = c.pgs ∧
    (c.updConv n f).charges = c.charges ∧ (c.updConv n f).scEvents = c.scEvents ∧ (c.updConv n f).scResp = c.scResp ∧
    (c.updConv n f).links = c.links ∧ (c.updConv n f).isnLines = c.isnLines ∧ (c.updConv n f).switched = c.switched ∧
    (c.updConv n f).drives = c.drives ∧ (c.updConv n f).acts = c.acts ∧ (c.updConv n f).seqs = c.seqs ∧
    (c.updConv n f).refCorr = c.refCorr ∧ (c.updConv n f).pilots = c.pilots ∧ (c.updConv n f).chans = c.chans ∧
    (c.updConv n f).doms = c.doms ∧ (c.updConv n f).supRuns = c.supRuns ∧ (c.updConv n f).dlPend = c.dlPend ∧
    (c.updConv n f).ken = c.ken ∧ (c.updConv n f).isn = c.isn ∧ (c.updConv n f).ports = c.ports ∧ (c.updConv n f).el = c.el ∧
    (c.updConv n f).sec = c.sec ∧ (c.updConv n f).cans = c.cans ∧ (c.updConv n f).mdio = c.mdio ∧ (c.updConv n f).wipe = c.wipe ∧
    (c.updConv n f).mods = c.mods ∧ (c.updConv n f).flushAt = c.flushAt ∧ (c.updConv n f).lifeNv = c.lifeNv ∧
    (c.updConv n f).genA = c.genA ∧ (c.updConv n f).genB = c.genB ∧ (c.updConv n f).sealA = c.sealA ∧
    (c.updConv n f).sealB = c.sealB ∧ (c.updConv n f).start = c.start := by
  and_intros <;> rfl
@[simp] theorem Chip.rd_updConv (c : Chip) (n : Nat) (f : ConvSt → ConvSt) (k : Nat) : (c.updConv n f).rd k = c.rd k := rfl
@[simp] theorem Chip.conv_updConv_same (c : Chip) (n : Nat) (f : ConvSt → ConvSt) : (c.updConv n f).conv n = f (c.conv n) := by simp [Chip.conv, Chip.updConv]
theorem Chip.conv_updConv_ne (c : Chip) (n : Nat) (f : ConvSt → ConvSt) {m : Nat} (h : n ≠ m) : (c.updConv n f).conv m = c.conv m := by
  simp [Chip.conv, Chip.updConv, Tab.at_upd_ne _ _ _ h]

@[simp] theorem Chip.updSeq_keeps (c : Chip) (n : Nat) (f : SeqSt → SeqSt) :
    (c.updSeq n f).st = c.st ∧ (c.updSeq n f).phase = c.phase ∧ (c.updSeq n f).regs = c.regs ∧ (c.updSeq n f).shadow = c.shadow ∧
    (c.updSeq n f).staged = c.staged ∧ (c.updSeq n f).grpLeft = c.grpLeft ∧ (c.updSeq n f).latches = c.latches ∧
    (c.updSeq n f).out = c.out ∧ (c.updSeq n f).fresh = c.fresh ∧ (c.updSeq n f).mbx = c.mbx ∧
    (c.updSeq n f).reports = c.reports ∧ (c.updSeq n f).adm = c.adm ∧ (c.updSeq n f).regions = c.regions ∧
    (c.updSeq n f).pairs = c.pairs ∧ (c.updSeq n f).loops = c.loops ∧ (c.updSeq n f).mailbox = c.mailbox ∧
    (c.updSeq n f).portTag = c.portTag ∧ (c.updSeq n f).events = c.events ∧ (c.updSeq n f).freshMark = c.freshMark ∧
    (c.updSeq n f).shm = c.shm ∧ (c.updSeq n f).effects = c.effects ∧ (c.updSeq n f).marchSlice = c.marchSlice ∧
    (c.updSeq n f).marchBuf = c.marchBuf ∧ (c.updSeq n f).marchStand = c.marchStand ∧ (c.updSeq n f).tapIr = c.tapIr ∧
    (c.updSeq n f).tapDr = c.tapDr ∧ (c.updSeq n f).tapScan = c.tapScan ∧ (c.updSeq n f).tapHold = c.tapHold ∧
    (c.updSeq n f).scanStep = c.scanStep ∧ (c.updSeq n f).rolling = c.rolling ∧ (c.updSeq n f).admitted = c.admitted ∧
    (c.updSeq n f).parts = c.parts ∧ (c.updSeq n f).bankA = c.bankA ∧ (c.updSeq n f).bankB = c.bankB ∧
    (c.updSeq n f).active = c.active ∧ (c.updSeq n f).refLost = c.refLost ∧ (c.updSeq n f).portWords = c.portWords ∧
    (c.updSeq n f).retiredNv = c.retiredNv ∧ (c.updSeq n f).released = c.released ∧ (c.updSeq n f).refGood = c.refGood ∧
    (c.updSeq n f).adcs = c.adcs ∧ (c.updSeq n f).cmps = c.cmps ∧ (c.updSeq n f).pfus = c.pfus ∧ (c.updSeq n f).pgs = c.pgs ∧
    (c.updSeq n f).charges = c.charges ∧ (c.updSeq n f).scEvents = c.scEvents ∧ (c.updSeq n f).scResp = c.scResp ∧
    (c.updSeq n f).links = c.links ∧ (c.updSeq n f).isnLines = c.isnLines ∧ (c.updSeq n f).switched = c.switched ∧
    (c.updSeq n f).drives = c.drives ∧ (c.updSeq n f).acts = c.acts ∧ (c.updSeq n f).convs = c.convs ∧
    (c.updSeq n f).refCorr = c.refCorr ∧ (c.updSeq n f).pilots = c.pilots ∧ (c.updSeq n f).chans = c.chans ∧
    (c.updSeq n f).doms = c.doms ∧ (c.updSeq n f).supRuns = c.supRuns ∧ (c.updSeq n f).dlPend = c.dlPend ∧
    (c.updSeq n f).ken = c.ken ∧ (c.updSeq n f).isn = c.isn ∧ (c.updSeq n f).ports = c.ports ∧ (c.updSeq n f).el = c.el ∧
    (c.updSeq n f).sec = c.sec ∧ (c.updSeq n f).cans = c.cans ∧ (c.updSeq n f).mdio = c.mdio ∧ (c.updSeq n f).wipe = c.wipe ∧
    (c.updSeq n f).mods = c.mods ∧ (c.updSeq n f).flushAt = c.flushAt ∧ (c.updSeq n f).lifeNv = c.lifeNv ∧
    (c.updSeq n f).genA = c.genA ∧ (c.updSeq n f).genB = c.genB ∧ (c.updSeq n f).sealA = c.sealA ∧
    (c.updSeq n f).sealB = c.sealB ∧ (c.updSeq n f).start = c.start := by
  and_intros <;> rfl
@[simp] theorem Chip.rd_updSeq (c : Chip) (n : Nat) (f : SeqSt → SeqSt) (k : Nat) : (c.updSeq n f).rd k = c.rd k := rfl
@[simp] theorem Chip.seq_updSeq_same (c : Chip) (n : Nat) (f : SeqSt → SeqSt) : (c.updSeq n f).seq n = f (c.seq n) := by simp [Chip.seq, Chip.updSeq]
theorem Chip.seq_updSeq_ne (c : Chip) (n : Nat) (f : SeqSt → SeqSt) {m : Nat} (h : n ≠ m) : (c.updSeq n f).seq m = c.seq m := by
  simp [Chip.seq, Chip.updSeq, Tab.at_upd_ne _ _ _ h]

@[simp] theorem Chip.updDrive_keeps (c : Chip) (n : Nat) (f : DriveSt → DriveSt) :
    (c.updDrive n f).st = c.st ∧ (c.updDrive n f).phase = c.phase ∧ (c.updDrive n f).regs = c.regs ∧
    (c.updDrive n f).shadow = c.shadow ∧ (c.updDrive n f).staged = c.staged ∧ (c.updDrive n f).grpLeft = c.grpLeft ∧
    (c.updDrive n f).latches = c.latches ∧ (c.updDrive n f).out = c.out ∧ (c.updDrive n f).fresh = c.fresh ∧
    (c.updDrive n f).mbx = c.mbx ∧ (c.updDrive n f).reports = c.reports ∧ (c.updDrive n f).adm = c.adm ∧
    (c.updDrive n f).regions = c.regions ∧ (c.updDrive n f).pairs = c.pairs ∧ (c.updDrive n f).loops = c.loops ∧
    (c.updDrive n f).mailbox = c.mailbox ∧ (c.updDrive n f).portTag = c.portTag ∧ (c.updDrive n f).events = c.events ∧
    (c.updDrive n f).freshMark = c.freshMark ∧ (c.updDrive n f).shm = c.shm ∧ (c.updDrive n f).effects = c.effects ∧
    (c.updDrive n f).marchSlice = c.marchSlice ∧ (c.updDrive n f).marchBuf = c.marchBuf ∧
    (c.updDrive n f).marchStand = c.marchStand ∧ (c.updDrive n f).tapIr = c.tapIr ∧ (c.updDrive n f).tapDr = c.tapDr ∧
    (c.updDrive n f).tapScan = c.tapScan ∧ (c.updDrive n f).tapHold = c.tapHold ∧ (c.updDrive n f).scanStep = c.scanStep ∧
    (c.updDrive n f).rolling = c.rolling ∧ (c.updDrive n f).admitted = c.admitted ∧ (c.updDrive n f).parts = c.parts ∧
    (c.updDrive n f).bankA = c.bankA ∧ (c.updDrive n f).bankB = c.bankB ∧ (c.updDrive n f).active = c.active ∧
    (c.updDrive n f).refLost = c.refLost ∧ (c.updDrive n f).portWords = c.portWords ∧ (c.updDrive n f).retiredNv = c.retiredNv ∧
    (c.updDrive n f).released = c.released ∧ (c.updDrive n f).refGood = c.refGood ∧ (c.updDrive n f).adcs = c.adcs ∧
    (c.updDrive n f).cmps = c.cmps ∧ (c.updDrive n f).pfus = c.pfus ∧ (c.updDrive n f).pgs = c.pgs ∧
    (c.updDrive n f).charges = c.charges ∧ (c.updDrive n f).scEvents = c.scEvents ∧ (c.updDrive n f).scResp = c.scResp ∧
    (c.updDrive n f).links = c.links ∧ (c.updDrive n f).isnLines = c.isnLines ∧ (c.updDrive n f).switched = c.switched ∧
    (c.updDrive n f).acts = c.acts ∧ (c.updDrive n f).convs = c.convs ∧ (c.updDrive n f).seqs = c.seqs ∧
    (c.updDrive n f).refCorr = c.refCorr ∧ (c.updDrive n f).pilots = c.pilots ∧ (c.updDrive n f).chans = c.chans ∧
    (c.updDrive n f).doms = c.doms ∧ (c.updDrive n f).supRuns = c.supRuns ∧ (c.updDrive n f).dlPend = c.dlPend ∧
    (c.updDrive n f).ken = c.ken ∧ (c.updDrive n f).isn = c.isn ∧ (c.updDrive n f).ports = c.ports ∧ (c.updDrive n f).el = c.el ∧
    (c.updDrive n f).sec = c.sec ∧ (c.updDrive n f).cans = c.cans ∧ (c.updDrive n f).mdio = c.mdio ∧
    (c.updDrive n f).wipe = c.wipe ∧ (c.updDrive n f).mods = c.mods ∧ (c.updDrive n f).flushAt = c.flushAt ∧
    (c.updDrive n f).lifeNv = c.lifeNv ∧ (c.updDrive n f).genA = c.genA ∧ (c.updDrive n f).genB = c.genB ∧
    (c.updDrive n f).sealA = c.sealA ∧ (c.updDrive n f).sealB = c.sealB ∧ (c.updDrive n f).start = c.start := by
  and_intros <;> rfl
@[simp] theorem Chip.rd_updDrive (c : Chip) (n : Nat) (f : DriveSt → DriveSt) (k : Nat) : (c.updDrive n f).rd k = c.rd k := rfl
@[simp] theorem Chip.drive__updDrive_same (c : Chip) (n : Nat) (f : DriveSt → DriveSt) : (c.updDrive n f).drive_ n = f (c.drive_ n) := by simp [Chip.drive_, Chip.updDrive]
theorem Chip.drive__updDrive_ne (c : Chip) (n : Nat) (f : DriveSt → DriveSt) {m : Nat} (h : n ≠ m) : (c.updDrive n f).drive_ m = c.drive_ m := by
  simp [Chip.drive_, Chip.updDrive, Tab.at_upd_ne _ _ _ h]

@[simp] theorem Chip.updChan_keeps (c : Chip) (n : Nat) (f : ChanSt → ChanSt) :
    (c.updChan n f).st = c.st ∧ (c.updChan n f).phase = c.phase ∧ (c.updChan n f).regs = c.regs ∧
    (c.updChan n f).shadow = c.shadow ∧ (c.updChan n f).staged = c.staged ∧ (c.updChan n f).grpLeft = c.grpLeft ∧
    (c.updChan n f).latches = c.latches ∧ (c.updChan n f).out = c.out ∧ (c.updChan n f).fresh = c.fresh ∧
    (c.updChan n f).mbx = c.mbx ∧ (c.updChan n f).reports = c.reports ∧ (c.updChan n f).adm = c.adm ∧
    (c.updChan n f).regions = c.regions ∧ (c.updChan n f).pairs = c.pairs ∧ (c.updChan n f).loops = c.loops ∧
    (c.updChan n f).mailbox = c.mailbox ∧ (c.updChan n f).portTag = c.portTag ∧ (c.updChan n f).events = c.events ∧
    (c.updChan n f).freshMark = c.freshMark ∧ (c.updChan n f).shm = c.shm ∧ (c.updChan n f).effects = c.effects ∧
    (c.updChan n f).marchSlice = c.marchSlice ∧ (c.updChan n f).marchBuf = c.marchBuf ∧
    (c.updChan n f).marchStand = c.marchStand ∧ (c.updChan n f).tapIr = c.tapIr ∧ (c.updChan n f).tapDr = c.tapDr ∧
    (c.updChan n f).tapScan = c.tapScan ∧ (c.updChan n f).tapHold = c.tapHold ∧ (c.updChan n f).scanStep = c.scanStep ∧
    (c.updChan n f).rolling = c.rolling ∧ (c.updChan n f).admitted = c.admitted ∧ (c.updChan n f).parts = c.parts ∧
    (c.updChan n f).bankA = c.bankA ∧ (c.updChan n f).bankB = c.bankB ∧ (c.updChan n f).active = c.active ∧
    (c.updChan n f).refLost = c.refLost ∧ (c.updChan n f).portWords = c.portWords ∧ (c.updChan n f).retiredNv = c.retiredNv ∧
    (c.updChan n f).released = c.released ∧ (c.updChan n f).refGood = c.refGood ∧ (c.updChan n f).adcs = c.adcs ∧
    (c.updChan n f).cmps = c.cmps ∧ (c.updChan n f).pfus = c.pfus ∧ (c.updChan n f).pgs = c.pgs ∧
    (c.updChan n f).charges = c.charges ∧ (c.updChan n f).scEvents = c.scEvents ∧ (c.updChan n f).scResp = c.scResp ∧
    (c.updChan n f).links = c.links ∧ (c.updChan n f).isnLines = c.isnLines ∧ (c.updChan n f).switched = c.switched ∧
    (c.updChan n f).drives = c.drives ∧ (c.updChan n f).acts = c.acts ∧ (c.updChan n f).convs = c.convs ∧
    (c.updChan n f).seqs = c.seqs ∧ (c.updChan n f).refCorr = c.refCorr ∧ (c.updChan n f).pilots = c.pilots ∧
    (c.updChan n f).doms = c.doms ∧ (c.updChan n f).supRuns = c.supRuns ∧ (c.updChan n f).dlPend = c.dlPend ∧
    (c.updChan n f).ken = c.ken ∧ (c.updChan n f).isn = c.isn ∧ (c.updChan n f).ports = c.ports ∧ (c.updChan n f).el = c.el ∧
    (c.updChan n f).sec = c.sec ∧ (c.updChan n f).cans = c.cans ∧ (c.updChan n f).mdio = c.mdio ∧ (c.updChan n f).wipe = c.wipe ∧
    (c.updChan n f).mods = c.mods ∧ (c.updChan n f).flushAt = c.flushAt ∧ (c.updChan n f).lifeNv = c.lifeNv ∧
    (c.updChan n f).genA = c.genA ∧ (c.updChan n f).genB = c.genB ∧ (c.updChan n f).sealA = c.sealA ∧
    (c.updChan n f).sealB = c.sealB ∧ (c.updChan n f).start = c.start := by
  and_intros <;> rfl
@[simp] theorem Chip.rd_updChan (c : Chip) (n : Nat) (f : ChanSt → ChanSt) (k : Nat) : (c.updChan n f).rd k = c.rd k := rfl
@[simp] theorem Chip.chan_updChan_same (c : Chip) (n : Nat) (f : ChanSt → ChanSt) : (c.updChan n f).chan n = f (c.chan n) := by simp [Chip.chan, Chip.updChan]
theorem Chip.chan_updChan_ne (c : Chip) (n : Nat) (f : ChanSt → ChanSt) {m : Nat} (h : n ≠ m) : (c.updChan n f).chan m = c.chan m := by
  simp [Chip.chan, Chip.updChan, Tab.at_upd_ne _ _ _ h]

@[simp] theorem Chip.updDom_keeps (c : Chip) (n : Nat) (f : DomSt → DomSt) :
    (c.updDom n f).st = c.st ∧ (c.updDom n f).phase = c.phase ∧ (c.updDom n f).regs = c.regs ∧ (c.updDom n f).shadow = c.shadow ∧
    (c.updDom n f).staged = c.staged ∧ (c.updDom n f).grpLeft = c.grpLeft ∧ (c.updDom n f).latches = c.latches ∧
    (c.updDom n f).out = c.out ∧ (c.updDom n f).fresh = c.fresh ∧ (c.updDom n f).mbx = c.mbx ∧
    (c.updDom n f).reports = c.reports ∧ (c.updDom n f).adm = c.adm ∧ (c.updDom n f).regions = c.regions ∧
    (c.updDom n f).pairs = c.pairs ∧ (c.updDom n f).loops = c.loops ∧ (c.updDom n f).mailbox = c.mailbox ∧
    (c.updDom n f).portTag = c.portTag ∧ (c.updDom n f).events = c.events ∧ (c.updDom n f).freshMark = c.freshMark ∧
    (c.updDom n f).shm = c.shm ∧ (c.updDom n f).effects = c.effects ∧ (c.updDom n f).marchSlice = c.marchSlice ∧
    (c.updDom n f).marchBuf = c.marchBuf ∧ (c.updDom n f).marchStand = c.marchStand ∧ (c.updDom n f).tapIr = c.tapIr ∧
    (c.updDom n f).tapDr = c.tapDr ∧ (c.updDom n f).tapScan = c.tapScan ∧ (c.updDom n f).tapHold = c.tapHold ∧
    (c.updDom n f).scanStep = c.scanStep ∧ (c.updDom n f).rolling = c.rolling ∧ (c.updDom n f).admitted = c.admitted ∧
    (c.updDom n f).parts = c.parts ∧ (c.updDom n f).bankA = c.bankA ∧ (c.updDom n f).bankB = c.bankB ∧
    (c.updDom n f).active = c.active ∧ (c.updDom n f).refLost = c.refLost ∧ (c.updDom n f).portWords = c.portWords ∧
    (c.updDom n f).retiredNv = c.retiredNv ∧ (c.updDom n f).released = c.released ∧ (c.updDom n f).refGood = c.refGood ∧
    (c.updDom n f).adcs = c.adcs ∧ (c.updDom n f).cmps = c.cmps ∧ (c.updDom n f).pfus = c.pfus ∧ (c.updDom n f).pgs = c.pgs ∧
    (c.updDom n f).charges = c.charges ∧ (c.updDom n f).scEvents = c.scEvents ∧ (c.updDom n f).scResp = c.scResp ∧
    (c.updDom n f).links = c.links ∧ (c.updDom n f).isnLines = c.isnLines ∧ (c.updDom n f).switched = c.switched ∧
    (c.updDom n f).drives = c.drives ∧ (c.updDom n f).acts = c.acts ∧ (c.updDom n f).convs = c.convs ∧
    (c.updDom n f).seqs = c.seqs ∧ (c.updDom n f).refCorr = c.refCorr ∧ (c.updDom n f).pilots = c.pilots ∧
    (c.updDom n f).chans = c.chans ∧ (c.updDom n f).supRuns = c.supRuns ∧ (c.updDom n f).dlPend = c.dlPend ∧
    (c.updDom n f).ken = c.ken ∧ (c.updDom n f).isn = c.isn ∧ (c.updDom n f).ports = c.ports ∧ (c.updDom n f).el = c.el ∧
    (c.updDom n f).sec = c.sec ∧ (c.updDom n f).cans = c.cans ∧ (c.updDom n f).mdio = c.mdio ∧ (c.updDom n f).wipe = c.wipe ∧
    (c.updDom n f).mods = c.mods ∧ (c.updDom n f).flushAt = c.flushAt ∧ (c.updDom n f).lifeNv = c.lifeNv ∧
    (c.updDom n f).genA = c.genA ∧ (c.updDom n f).genB = c.genB ∧ (c.updDom n f).sealA = c.sealA ∧
    (c.updDom n f).sealB = c.sealB ∧ (c.updDom n f).start = c.start := by
  and_intros <;> rfl
@[simp] theorem Chip.rd_updDom (c : Chip) (n : Nat) (f : DomSt → DomSt) (k : Nat) : (c.updDom n f).rd k = c.rd k := rfl
@[simp] theorem Chip.dom_updDom_same (c : Chip) (n : Nat) (f : DomSt → DomSt) : (c.updDom n f).dom n = f (c.dom n) := by simp [Chip.dom, Chip.updDom]
theorem Chip.dom_updDom_ne (c : Chip) (n : Nat) (f : DomSt → DomSt) {m : Nat} (h : n ≠ m) : (c.updDom n f).dom m = c.dom m := by
  simp [Chip.dom, Chip.updDom, Tab.at_upd_ne _ _ _ h]

@[simp] theorem Chip.updKen_keeps (c : Chip) (f : KenSt → KenSt) :
    (c.updKen f).st = c.st ∧ (c.updKen f).phase = c.phase ∧ (c.updKen f).regs = c.regs ∧ (c.updKen f).shadow = c.shadow ∧
    (c.updKen f).staged = c.staged ∧ (c.updKen f).grpLeft = c.grpLeft ∧ (c.updKen f).latches = c.latches ∧
    (c.updKen f).out = c.out ∧ (c.updKen f).fresh = c.fresh ∧ (c.updKen f).mbx = c.mbx ∧ (c.updKen f).reports = c.reports ∧
    (c.updKen f).adm = c.adm ∧ (c.updKen f).regions = c.regions ∧ (c.updKen f).pairs = c.pairs ∧ (c.updKen f).loops = c.loops ∧
    (c.updKen f).mailbox = c.mailbox ∧ (c.updKen f).portTag = c.portTag ∧ (c.updKen f).events = c.events ∧
    (c.updKen f).freshMark = c.freshMark ∧ (c.updKen f).shm = c.shm ∧ (c.updKen f).effects = c.effects ∧
    (c.updKen f).marchSlice = c.marchSlice ∧ (c.updKen f).marchBuf = c.marchBuf ∧ (c.updKen f).marchStand = c.marchStand ∧
    (c.updKen f).tapIr = c.tapIr ∧ (c.updKen f).tapDr = c.tapDr ∧ (c.updKen f).tapScan = c.tapScan ∧
    (c.updKen f).tapHold = c.tapHold ∧ (c.updKen f).scanStep = c.scanStep ∧ (c.updKen f).rolling = c.rolling ∧
    (c.updKen f).admitted = c.admitted ∧ (c.updKen f).parts = c.parts ∧ (c.updKen f).bankA = c.bankA ∧
    (c.updKen f).bankB = c.bankB ∧ (c.updKen f).active = c.active ∧ (c.updKen f).refLost = c.refLost ∧
    (c.updKen f).portWords = c.portWords ∧ (c.updKen f).retiredNv = c.retiredNv ∧ (c.updKen f).released = c.released ∧
    (c.updKen f).refGood = c.refGood ∧ (c.updKen f).adcs = c.adcs ∧ (c.updKen f).cmps = c.cmps ∧ (c.updKen f).pfus = c.pfus ∧
    (c.updKen f).pgs = c.pgs ∧ (c.updKen f).charges = c.charges ∧ (c.updKen f).scEvents = c.scEvents ∧
    (c.updKen f).scResp = c.scResp ∧ (c.updKen f).links = c.links ∧ (c.updKen f).isnLines = c.isnLines ∧
    (c.updKen f).switched = c.switched ∧ (c.updKen f).drives = c.drives ∧ (c.updKen f).acts = c.acts ∧
    (c.updKen f).convs = c.convs ∧ (c.updKen f).seqs = c.seqs ∧ (c.updKen f).refCorr = c.refCorr ∧
    (c.updKen f).pilots = c.pilots ∧ (c.updKen f).chans = c.chans ∧ (c.updKen f).doms = c.doms ∧
    (c.updKen f).supRuns = c.supRuns ∧ (c.updKen f).dlPend = c.dlPend ∧ (c.updKen f).isn = c.isn ∧ (c.updKen f).ports = c.ports ∧
    (c.updKen f).el = c.el ∧ (c.updKen f).sec = c.sec ∧ (c.updKen f).cans = c.cans ∧ (c.updKen f).mdio = c.mdio ∧
    (c.updKen f).wipe = c.wipe ∧ (c.updKen f).mods = c.mods ∧ (c.updKen f).flushAt = c.flushAt ∧ (c.updKen f).lifeNv = c.lifeNv ∧
    (c.updKen f).genA = c.genA ∧ (c.updKen f).genB = c.genB ∧ (c.updKen f).sealA = c.sealA ∧ (c.updKen f).sealB = c.sealB ∧
    (c.updKen f).start = c.start := by
  and_intros <;> rfl
@[simp] theorem Chip.rd_updKen (c : Chip) (f : KenSt → KenSt) (k : Nat) : (c.updKen f).rd k = c.rd k := rfl
@[simp] theorem Chip.updKen_ken (c : Chip) (f : KenSt → KenSt) : (c.updKen f).ken = f c.ken := rfl

@[simp] theorem Chip.updIsn_keeps (c : Chip) (f : IsnSt → IsnSt) :
    (c.updIsn f).st = c.st ∧ (c.updIsn f).phase = c.phase ∧ (c.updIsn f).regs = c.regs ∧ (c.updIsn f).shadow = c.shadow ∧
    (c.updIsn f).staged = c.staged ∧ (c.updIsn f).grpLeft = c.grpLeft ∧ (c.updIsn f).latches = c.latches ∧
    (c.updIsn f).out = c.out ∧ (c.updIsn f).fresh = c.fresh ∧ (c.updIsn f).mbx = c.mbx ∧ (c.updIsn f).reports = c.reports ∧
    (c.updIsn f).adm = c.adm ∧ (c.updIsn f).regions = c.regions ∧ (c.updIsn f).pairs = c.pairs ∧ (c.updIsn f).loops = c.loops ∧
    (c.updIsn f).mailbox = c.mailbox ∧ (c.updIsn f).portTag = c.portTag ∧ (c.updIsn f).events = c.events ∧
    (c.updIsn f).freshMark = c.freshMark ∧ (c.updIsn f).shm = c.shm ∧ (c.updIsn f).effects = c.effects ∧
    (c.updIsn f).marchSlice = c.marchSlice ∧ (c.updIsn f).marchBuf = c.marchBuf ∧ (c.updIsn f).marchStand = c.marchStand ∧
    (c.updIsn f).tapIr = c.tapIr ∧ (c.updIsn f).tapDr = c.tapDr ∧ (c.updIsn f).tapScan = c.tapScan ∧
    (c.updIsn f).tapHold = c.tapHold ∧ (c.updIsn f).scanStep = c.scanStep ∧ (c.updIsn f).rolling = c.rolling ∧
    (c.updIsn f).admitted = c.admitted ∧ (c.updIsn f).parts = c.parts ∧ (c.updIsn f).bankA = c.bankA ∧
    (c.updIsn f).bankB = c.bankB ∧ (c.updIsn f).active = c.active ∧ (c.updIsn f).refLost = c.refLost ∧
    (c.updIsn f).portWords = c.portWords ∧ (c.updIsn f).retiredNv = c.retiredNv ∧ (c.updIsn f).released = c.released ∧
    (c.updIsn f).refGood = c.refGood ∧ (c.updIsn f).adcs = c.adcs ∧ (c.updIsn f).cmps = c.cmps ∧ (c.updIsn f).pfus = c.pfus ∧
    (c.updIsn f).pgs = c.pgs ∧ (c.updIsn f).charges = c.charges ∧ (c.updIsn f).scEvents = c.scEvents ∧
    (c.updIsn f).scResp = c.scResp ∧ (c.updIsn f).links = c.links ∧ (c.updIsn f).isnLines = c.isnLines ∧
    (c.updIsn f).switched = c.switched ∧ (c.updIsn f).drives = c.drives ∧ (c.updIsn f).acts = c.acts ∧
    (c.updIsn f).convs = c.convs ∧ (c.updIsn f).seqs = c.seqs ∧ (c.updIsn f).refCorr = c.refCorr ∧
    (c.updIsn f).pilots = c.pilots ∧ (c.updIsn f).chans = c.chans ∧ (c.updIsn f).doms = c.doms ∧
    (c.updIsn f).supRuns = c.supRuns ∧ (c.updIsn f).dlPend = c.dlPend ∧ (c.updIsn f).ken = c.ken ∧ (c.updIsn f).ports = c.ports ∧
    (c.updIsn f).el = c.el ∧ (c.updIsn f).sec = c.sec ∧ (c.updIsn f).cans = c.cans ∧ (c.updIsn f).mdio = c.mdio ∧
    (c.updIsn f).wipe = c.wipe ∧ (c.updIsn f).mods = c.mods ∧ (c.updIsn f).flushAt = c.flushAt ∧ (c.updIsn f).lifeNv = c.lifeNv ∧
    (c.updIsn f).genA = c.genA ∧ (c.updIsn f).genB = c.genB ∧ (c.updIsn f).sealA = c.sealA ∧ (c.updIsn f).sealB = c.sealB ∧
    (c.updIsn f).start = c.start := by
  and_intros <;> rfl
@[simp] theorem Chip.rd_updIsn (c : Chip) (f : IsnSt → IsnSt) (k : Nat) : (c.updIsn f).rd k = c.rd k := rfl
@[simp] theorem Chip.updIsn_isn (c : Chip) (f : IsnSt → IsnSt) : (c.updIsn f).isn = f c.isn := rfl

@[simp] theorem Chip.updEl_keeps (c : Chip) (f : ElSt → ElSt) :
    (c.updEl f).st = c.st ∧ (c.updEl f).phase = c.phase ∧ (c.updEl f).regs = c.regs ∧ (c.updEl f).shadow = c.shadow ∧
    (c.updEl f).staged = c.staged ∧ (c.updEl f).grpLeft = c.grpLeft ∧ (c.updEl f).latches = c.latches ∧ (c.updEl f).out = c.out ∧
    (c.updEl f).fresh = c.fresh ∧ (c.updEl f).mbx = c.mbx ∧ (c.updEl f).reports = c.reports ∧ (c.updEl f).adm = c.adm ∧
    (c.updEl f).regions = c.regions ∧ (c.updEl f).pairs = c.pairs ∧ (c.updEl f).loops = c.loops ∧
    (c.updEl f).mailbox = c.mailbox ∧ (c.updEl f).portTag = c.portTag ∧ (c.updEl f).events = c.events ∧
    (c.updEl f).freshMark = c.freshMark ∧ (c.updEl f).shm = c.shm ∧ (c.updEl f).effects = c.effects ∧
    (c.updEl f).marchSlice = c.marchSlice ∧ (c.updEl f).marchBuf = c.marchBuf ∧ (c.updEl f).marchStand = c.marchStand ∧
    (c.updEl f).tapIr = c.tapIr ∧ (c.updEl f).tapDr = c.tapDr ∧ (c.updEl f).tapScan = c.tapScan ∧
    (c.updEl f).tapHold = c.tapHold ∧ (c.updEl f).scanStep = c.scanStep ∧ (c.updEl f).rolling = c.rolling ∧
    (c.updEl f).admitted = c.admitted ∧ (c.updEl f).parts = c.parts ∧ (c.updEl f).bankA = c.bankA ∧ (c.updEl f).bankB = c.bankB ∧
    (c.updEl f).active = c.active ∧ (c.updEl f).refLost = c.refLost ∧ (c.updEl f).portWords = c.portWords ∧
    (c.updEl f).retiredNv = c.retiredNv ∧ (c.updEl f).released = c.released ∧ (c.updEl f).refGood = c.refGood ∧
    (c.updEl f).adcs = c.adcs ∧ (c.updEl f).cmps = c.cmps ∧ (c.updEl f).pfus = c.pfus ∧ (c.updEl f).pgs = c.pgs ∧
    (c.updEl f).charges = c.charges ∧ (c.updEl f).scEvents = c.scEvents ∧ (c.updEl f).scResp = c.scResp ∧
    (c.updEl f).links = c.links ∧ (c.updEl f).isnLines = c.isnLines ∧ (c.updEl f).switched = c.switched ∧
    (c.updEl f).drives = c.drives ∧ (c.updEl f).acts = c.acts ∧ (c.updEl f).convs = c.convs ∧ (c.updEl f).seqs = c.seqs ∧
    (c.updEl f).refCorr = c.refCorr ∧ (c.updEl f).pilots = c.pilots ∧ (c.updEl f).chans = c.chans ∧ (c.updEl f).doms = c.doms ∧
    (c.updEl f).supRuns = c.supRuns ∧ (c.updEl f).dlPend = c.dlPend ∧ (c.updEl f).ken = c.ken ∧ (c.updEl f).isn = c.isn ∧
    (c.updEl f).ports = c.ports ∧ (c.updEl f).sec = c.sec ∧ (c.updEl f).cans = c.cans ∧ (c.updEl f).mdio = c.mdio ∧
    (c.updEl f).wipe = c.wipe ∧ (c.updEl f).mods = c.mods ∧ (c.updEl f).flushAt = c.flushAt ∧ (c.updEl f).lifeNv = c.lifeNv ∧
    (c.updEl f).genA = c.genA ∧ (c.updEl f).genB = c.genB ∧ (c.updEl f).sealA = c.sealA ∧ (c.updEl f).sealB = c.sealB ∧
    (c.updEl f).start = c.start := by
  and_intros <;> rfl
@[simp] theorem Chip.rd_updEl (c : Chip) (f : ElSt → ElSt) (k : Nat) : (c.updEl f).rd k = c.rd k := rfl
@[simp] theorem Chip.updEl_el (c : Chip) (f : ElSt → ElSt) : (c.updEl f).el = f c.el := rfl

@[simp] theorem Chip.updStart_keeps (c : Chip) (f : StartSt → StartSt) :
    (c.updStart f).st = c.st ∧ (c.updStart f).phase = c.phase ∧ (c.updStart f).regs = c.regs ∧ (c.updStart f).shadow = c.shadow ∧
    (c.updStart f).staged = c.staged ∧ (c.updStart f).grpLeft = c.grpLeft ∧ (c.updStart f).latches = c.latches ∧
    (c.updStart f).out = c.out ∧ (c.updStart f).fresh = c.fresh ∧ (c.updStart f).mbx = c.mbx ∧
    (c.updStart f).reports = c.reports ∧ (c.updStart f).adm = c.adm ∧ (c.updStart f).regions = c.regions ∧
    (c.updStart f).pairs = c.pairs ∧ (c.updStart f).loops = c.loops ∧ (c.updStart f).mailbox = c.mailbox ∧
    (c.updStart f).portTag = c.portTag ∧ (c.updStart f).events = c.events ∧ (c.updStart f).freshMark = c.freshMark ∧
    (c.updStart f).shm = c.shm ∧ (c.updStart f).effects = c.effects ∧ (c.updStart f).marchSlice = c.marchSlice ∧
    (c.updStart f).marchBuf = c.marchBuf ∧ (c.updStart f).marchStand = c.marchStand ∧ (c.updStart f).tapIr = c.tapIr ∧
    (c.updStart f).tapDr = c.tapDr ∧ (c.updStart f).tapScan = c.tapScan ∧ (c.updStart f).tapHold = c.tapHold ∧
    (c.updStart f).scanStep = c.scanStep ∧ (c.updStart f).rolling = c.rolling ∧ (c.updStart f).admitted = c.admitted ∧
    (c.updStart f).parts = c.parts ∧ (c.updStart f).bankA = c.bankA ∧ (c.updStart f).bankB = c.bankB ∧
    (c.updStart f).active = c.active ∧ (c.updStart f).refLost = c.refLost ∧ (c.updStart f).portWords = c.portWords ∧
    (c.updStart f).retiredNv = c.retiredNv ∧ (c.updStart f).released = c.released ∧ (c.updStart f).refGood = c.refGood ∧
    (c.updStart f).adcs = c.adcs ∧ (c.updStart f).cmps = c.cmps ∧ (c.updStart f).pfus = c.pfus ∧ (c.updStart f).pgs = c.pgs ∧
    (c.updStart f).charges = c.charges ∧ (c.updStart f).scEvents = c.scEvents ∧ (c.updStart f).scResp = c.scResp ∧
    (c.updStart f).links = c.links ∧ (c.updStart f).isnLines = c.isnLines ∧ (c.updStart f).switched = c.switched ∧
    (c.updStart f).drives = c.drives ∧ (c.updStart f).acts = c.acts ∧ (c.updStart f).convs = c.convs ∧
    (c.updStart f).seqs = c.seqs ∧ (c.updStart f).refCorr = c.refCorr ∧ (c.updStart f).pilots = c.pilots ∧
    (c.updStart f).chans = c.chans ∧ (c.updStart f).doms = c.doms ∧ (c.updStart f).supRuns = c.supRuns ∧
    (c.updStart f).dlPend = c.dlPend ∧ (c.updStart f).ken = c.ken ∧ (c.updStart f).isn = c.isn ∧ (c.updStart f).ports = c.ports ∧
    (c.updStart f).el = c.el ∧ (c.updStart f).sec = c.sec ∧ (c.updStart f).cans = c.cans ∧ (c.updStart f).mdio = c.mdio ∧
    (c.updStart f).wipe = c.wipe ∧ (c.updStart f).mods = c.mods ∧ (c.updStart f).flushAt = c.flushAt ∧
    (c.updStart f).lifeNv = c.lifeNv ∧ (c.updStart f).genA = c.genA ∧ (c.updStart f).genB = c.genB ∧
    (c.updStart f).sealA = c.sealA ∧ (c.updStart f).sealB = c.sealB := by
  and_intros <;> rfl
@[simp] theorem Chip.rd_updStart (c : Chip) (f : StartSt → StartSt) (k : Nat) : (c.updStart f).rd k = c.rd k := rfl
@[simp] theorem Chip.updStart_start (c : Chip) (f : StartSt → StartSt) : (c.updStart f).start = f c.start := rfl

end Sys2Proof.Machine
end

