-- ==== Sys2Proof/Laws/Memory.lean ====
section
/-! SUPPORT. Laws of the memories: a word written reads back, other words stay, and every memory operation keeps the canonical
form. -/

namespace Sys2Proof.Machine

/-! ### Tables of words -/

theorem Memory.wf_nil : Memory.wf [] = true := rfl

/-- A write keeps the canonical form. -/
theorem Memory.wf_set (m : Tab Word) (a : Nat) (v : Word) (h : Memory.wf m = true) : Memory.wf (Tab.set m 0 a v) = true :=
  Tab.canon_set m 0 v a h

/-- Forgetting words keeps the canonical form. -/
theorem Memory.wf_drop (m : Tab Word) (p : Nat → Bool) (h : Memory.wf m = true) : Memory.wf (Tab.drop p m) = true :=
  Tab.canon_drop m 0 p h

/-- A fold keeps what each of its steps keeps. -/
theorem foldl_keeps {α β : Type} (P : β → Prop) (f : β → α → β) (l : List α) (hf : ∀ x a, P x → P (f x a)) :
    ∀ x, P x → P (l.foldl f x) := by
  induction l with
  | nil => exact fun _ h => h
  | cons a t ih => exact fun x h => ih _ (hf x a h)

theorem upto_keeps {α : Type} (P : α → Prop) (n : Nat) (f : α → Nat → α) (hf : ∀ x k, P x → P (f x k)) (x : α) (h : P x) :
    P (upto n f x) := foldl_keeps P f _ hf x h

/-- Words written one after another keep the canonical form. -/
theorem Memory.wf_fill {α : Type} (l : List α) (key : α → Nat) (val : α → Word) (m : Tab Word) (h : Memory.wf m = true) :
    Memory.wf (l.foldl (fun t e => Tab.set t 0 (key e) (val e)) m) = true :=
  foldl_keeps (fun m => Memory.wf m = true) _ l (fun m e h => Memory.wf_set m (key e) (val e) h) m h

/-! ### The memories of a pair -/

theorem PairSt.memOk_empty : ({} : PairSt).memOk = true := rfl

/-- A store to data memory keeps the canonical form. -/
theorem PairSt.memOk_store (x : PairSt) (a : Nat) (v : Word) (h : x.memOk = true) : (x.store a v).memOk = true := by
  simp only [PairSt.memOk, Bool.and_eq_true] at h ⊢
  exact ⟨Memory.wf_set _ _ _ h.1, Memory.wf_set _ _ _ h.2⟩

/-- A word stored reads back in both copies. -/
theorem PairSt.store_same (x : PairSt) (a : Nat) (v : Word) :
    Tab.at (x.store a v).dmemA 0 a = v ∧ Tab.at (x.store a v).dmemB 0 a = v := by
  simp [PairSt.store]

/-- A store leaves every other word. -/
theorem PairSt.store_ne (x : PairSt) {a b : Nat} (v : Word) (h : a ≠ b) :
    Tab.at (x.store a v).dmemA 0 b = Tab.at x.dmemA 0 b ∧ Tab.at (x.store a v).dmemB 0 b = Tab.at x.dmemB 0 b := by
  simp [PairSt.store, Tab.at_set_ne _ _ _ h]

/-! ### The memories of the device -/

/-- The memories of two devices are the same. -/
def Chip.SameMem (c d : Chip) : Prop :=
  d.shm = c.shm ∧ d.marchBuf = c.marchBuf ∧ d.mailbox = c.mailbox ∧ d.portWords = c.portWords ∧ d.bankA = c.bankA ∧ d.bankB = c.bankB

theorem Chip.SameMem.refl (c : Chip) : c.SameMem c := ⟨rfl, rfl, rfl, rfl, rfl, rfl⟩

theorem Chip.SameMem.trans {c d e : Chip} (h : c.SameMem d) (k : d.SameMem e) : c.SameMem e := by
  obtain ⟨h1, h2, h3, h4, h5, h6⟩ := h
  obtain ⟨k1, k2, k3, k4, k5, k6⟩ := k
  exact ⟨k1.trans h1, k2.trans h2, k3.trans h3, k4.trans h4, k5.trans h5, k6.trans h6⟩

/-- What leaves the memories keeps their canonical form. -/
theorem Chip.SameMem.memOk {c d : Chip} (h : c.SameMem d) : d.memOk = c.memOk := by
  obtain ⟨h1, h2, h3, h4, h5, h6⟩ := h
  simp only [Chip.memOk, h1, h2, h3, h4, h5, h6]

theorem Chip.memOk_iff (c : Chip) : c.memOk = true ↔
    Memory.wf c.shm = true ∧ Memory.wf c.marchBuf = true ∧ Memory.wf c.mailbox = true ∧ Memory.wf c.portWords = true ∧
    Memory.wf c.bankA = true ∧ Memory.wf c.bankB = true := by
  simp only [Chip.memOk, Bool.and_eq_true, and_assoc]

/-- The memories of the device after reset are in canonical form. -/
theorem State.reset_memOk : State.reset.chip.memOk = true := rfl

@[simp] theorem Chip.memOk_wr (c : Chip) (a : Nat) (v : Word) : (c.wr a v).memOk = c.memOk := rfl
@[simp] theorem Chip.memOk_set (c : Chip) (f : Fld) (x : Nat) : (c.set f x).memOk = c.memOk := rfl
@[simp] theorem Chip.memOk_raise (c : Chip) (f : Fld) : (c.raise f).memOk = c.memOk := rfl
@[simp] theorem Chip.memOk_clr (c : Chip) (f : Fld) : (c.clr f).memOk = c.memOk := rfl
@[simp] theorem Chip.memOk_inc (c : Chip) (f : Fld) : (c.inc f).memOk = c.memOk := rfl
@[simp] theorem Chip.memOk_goto (c : Chip) (t : Nat) : (c.goto t).memOk = c.memOk := rfl
@[simp] theorem Chip.memOk_report (c : Chip) (src n : Nat) : (c.report src n).memOk = c.memOk := rfl

/-! ### Shared SRAM -/

/-- A store to shared SRAM keeps the canonical form. -/
theorem Chip.memOk_shmWr (c : Chip) (w : Nat) (v : Word) (h : c.memOk = true) : (c.shmWr w v).memOk = true := by
  rw [Chip.memOk_iff] at h ⊢
  obtain ⟨h1, h2, h3, h4, h5, h6⟩ := h
  unfold Chip.shmWr
  split_ifs
  · exact ⟨h1, h2, h3, h4, h5, h6⟩
  · exact ⟨h1, Memory.wf_set _ _ _ h2, h3, h4, h5, h6⟩
  · exact ⟨Memory.wf_set _ _ _ h1, h2, h3, h4, h5, h6⟩

/-- A word stored to shared SRAM reads back. -/
theorem Chip.shmRd_shmWr_same (c : Chip) {w : Nat} (v : Word) (hw : w < 2 ^ 20) : (c.shmWr w v).shmRd w = v := by
  have hw' : ¬ 2 ^ 20 ≤ w := by omega
  by_cases h : c.marchSlice = some (w / 1024) ∨ c.marchStand = some (w / 1024)
  · simp only [Chip.shmRd, Chip.shmWr, if_neg hw', if_pos h, Tab.at_set_same]
  · simp only [Chip.shmRd, Chip.shmWr, if_neg hw', if_neg h, Tab.at_set_same]

/-- A store to shared SRAM leaves every other word while one slice at most has its words in the save buffer. -/
theorem Chip.shmRd_shmWr_ne (c : Chip) {w u : Nat} (v : Word) (hb : c.marchSlice = none ∨ c.marchStand = none) (h : w ≠ u) :
    (c.shmWr w v).shmRd u = c.shmRd u := by
  unfold Chip.shmRd Chip.shmWr
  by_cases h0 : 2 ^ 20 ≤ w
  · rw [if_pos h0]
  rw [if_neg h0]
  by_cases h1 : 2 ^ 20 ≤ u
  · rw [if_pos h1, if_pos h1]
  rw [if_neg h1, if_neg h1]
  by_cases hw : c.marchSlice = some (w / 1024) ∨ c.marchStand = some (w / 1024)
  · rw [if_pos hw]
    by_cases hu : c.marchSlice = some (u / 1024) ∨ c.marchStand = some (u / 1024)
    · have hs : w / 1024 = u / 1024 := by
        rcases hb with hb | hb <;> simp only [hb, reduceCtorEq, false_or, or_false] at hw hu <;> simp_all
      have hm : w % 1024 ≠ u % 1024 := by omega
      simp [hu, Tab.at_set_ne _ _ _ hm]
    · simp [hu]
  · rw [if_neg hw]
    by_cases hu : c.marchSlice = some (u / 1024) ∨ c.marchStand = some (u / 1024)
    · simp [hu]
    · simp [hu, Tab.at_set_ne _ _ _ h]

/-- The words of a slice, by offset, are in canonical form. -/
theorem Chip.wf_sliceWords (c : Chip) (k : Nat) (h : Memory.wf c.shm = true) : Memory.wf (c.sliceWords k) = true := by
  have key : ∀ (t : Tab Word) (lo hi : Option Nat), Tab.rising lo t = true →
      (∀ a, a / 1024 = k → Tab.above lo a → Tab.above hi (a % 1024)) →
      Tab.rising hi ((t.filter fun e => e.1 / 1024 == k).map fun e => (e.1 % 1024, e.2)) = true := by
    intro t
    induction t with
    | nil => intro lo hi _ _; cases hi <;> rfl
    | cons e t ih =>
      obtain ⟨a, v⟩ := e
      intro lo hi hr ha
      rw [Tab.rising_cons] at hr
      by_cases hk : a / 1024 = k
      · simp only [List.filter_cons, hk, beq_self_eq_true, if_true, List.map_cons]
        rw [Tab.rising_cons]
        refine ⟨ha a hk hr.1, ih (some a) (some (a % 1024)) hr.2 fun b hb hab => ?_⟩
        simp only [Tab.above] at hab ⊢
        omega
      · have : (a / 1024 == k) = false := by simp [hk]
        simp only [List.filter_cons, this]
        refine ih (some a) hi hr.2 fun b hb hab => ha b hb ?_
        cases lo with
        | none => trivial
        | some l => exact Nat.lt_trans hr.1 hab
  simp only [Memory.wf, Tab.canon, Bool.and_eq_true, List.all_eq_true, bne_iff_ne] at h ⊢
  refine ⟨key c.shm none none h.1 fun _ _ _ => trivial, fun e he => ?_⟩
  simp only [Chip.sliceWords, List.mem_map, List.mem_filter] at he
  obtain ⟨x, ⟨hx, _⟩, rfl⟩ := he
  exact h.2 x hx

/-- Saving a slice keeps the canonical form. -/
theorem Chip.memOk_marchStart (c : Chip) (h : c.memOk = true) : c.marchStart.memOk = true := by
  rw [Chip.memOk_iff] at h
  obtain ⟨h1, h2, h3, h4, h5, h6⟩ := h
  have hs (dbl : List (BitVec 10)) : Memory.wf (dbl.foldl (fun (t : Tab Word) w => Tab.set t 0 w.toNat 0) (c.sliceWords (c.get F.BIST.MARCH_STATUS.NEXT_SLICE))) = true :=
    foldl_keeps (fun t => Memory.wf t = true) (fun (t : Tab Word) (w : BitVec 10) => Tab.set t 0 w.toNat 0) _
      (fun t _ ht => Memory.wf_set t _ _ ht) _ (c.wf_sliceWords _ h1)
  unfold Chip.marchStart
  dsimp only
  split_ifs
  · rw [Chip.memOk_iff]; exact ⟨h1, h2, h3, h4, h5, h6⟩
  · rw [Chip.memOk_iff]; exact ⟨h1, hs _, h3, h4, h5, h6⟩
  · rw [Chip.memOk_report, Chip.memOk_iff]; exact ⟨h1, hs _, h3, h4, h5, h6⟩

/-- Writing the saved words back keeps the canonical form. -/
theorem Chip.memOk_writeBack (c : Chip) (k : Nat) (h : c.memOk = true) : (c.writeBack k).memOk = true := by
  rw [Chip.memOk_iff] at h ⊢
  obtain ⟨h1, h2, h3, h4, h5, h6⟩ := h
  exact ⟨Memory.wf_fill c.marchBuf _ _ _ (Memory.wf_drop _ _ h1), rfl, h3, h4, h5, h6⟩

/-- The end of a march slice keeps the canonical form. -/
theorem Chip.memOk_marchDone (c : Chip) (bad : Option (BitVec 10)) (h : c.memOk = true) : (c.marchDone bad).memOk = true := by
  unfold Chip.marchDone
  split
  · exact h
  · split
    · exact h
    · have hw := c.memOk_writeBack ‹_› h
      dsimp only
      split_ifs
      · exact hw
      · exact hw

/-! ### Mailbox words and port blocks -/

theorem Chip.SameMem.lateValue (c : Chip) (p port : Nat) : c.SameMem (c.lateValue p port) := by
  unfold Chip.lateValue
  split
  · exact .refl _
  · split_ifs
    · exact ⟨rfl, rfl, rfl, rfl, rfl, rfl⟩
    · exact .refl _

theorem Chip.SameMem.portWritten (c : Chip) (port : Nat) : c.SameMem (c.portWritten port) := by
  unfold Chip.portWritten
  refine upto_keeps (fun d => c.SameMem d) _ _ (fun d k h => h.trans (.lateValue d k port)) _ ?_
  exact foldl_keeps (fun d => c.SameMem d) (fun (d : Chip) l => d.markFresh l port) _ (fun d l h => h.trans ⟨rfl, rfl, rfl, rfl, rfl, rfl⟩) _ (.refl c)

/-- A mailbox word that takes a value keeps the canonical form. -/
theorem Chip.memOk_mailboxWrite (c : Chip) (w : Nat) (v : Word) (h : c.memOk = true) : (c.mailboxWrite w v).memOk = true := by
  unfold Chip.mailboxWrite
  rw [(Chip.SameMem.portWritten _ _).memOk]
  rw [Chip.memOk_iff] at h ⊢
  obtain ⟨h1, h2, h3, h4, h5, h6⟩ := h
  exact ⟨h1, h2, Memory.wf_set _ _ _ h3, h4, h5, h6⟩

/-- The mailbox after a word took a value. -/
theorem Chip.mailboxWrite_mailbox (c : Chip) (w : Nat) (v : Word) : (c.mailboxWrite w v).mailbox = Tab.set c.mailbox 0 w v :=
  (Chip.SameMem.portWritten _ _).2.2.1

/-- A word of a port block that takes a value keeps the canonical form. -/
theorem Chip.memOk_portWord (c : Chip) (port : Nat) (v : Word) (always : Bool) (h : c.memOk = true) :
    (c.portWord port v always).memOk = true := by
  unfold Chip.portWord
  split_ifs
  · exact h
  · rw [Chip.memOk_iff] at h ⊢
    obtain ⟨h1, h2, h3, h4, h5, h6⟩ := h
    exact ⟨h1, h2, h3, Memory.wf_set _ _ _ h4, h5, h6⟩

/-! ### Banks, message storage, recorder slots -/

/-- A word of an image keeps the canonical form of both banks. -/
theorem Chip.memOk_progData (c : Chip) (v : Word) (h : c.memOk = true) : (c.progData v).memOk = true := by
  rw [Chip.memOk_iff] at h
  obtain ⟨h1, h2, h3, h4, h5, h6⟩ := h
  unfold Chip.progData
  dsimp only
  split_ifs
  · rw [Chip.memOk_iff]; exact ⟨h1, h2, h3, h4, Memory.wf_set _ _ _ h5, h6⟩
  · rw [Chip.memOk_iff]; exact ⟨h1, h2, h3, h4, h5, Memory.wf_set _ _ _ h6⟩

/-- An access to message storage keeps the canonical form. -/
theorem Chip.wf_canAccess (c : Chip) (n : Nat) (write : Option Word) (h : Memory.wf (c.can n).mem = true) :
    Memory.wf ((c.canAccess n write).can n).mem = true := by
  cases write with
  | none => exact h
  | some v =>
    have : ((c.canAccess n (some v)).can n).mem = Tab.set (c.can n).mem 0 (bits (c.rd (R.CANX.MSG_ADDR n)) 2 12) v := by
      simp [Chip.canAccess, Chip.can, Chip.setCan]
    rw [this]
    exact Memory.wf_set _ _ _ h

/-- The slots of a partition of the recorder, of which a blank one reads FFFF_FFFFh, stay in canonical form. -/
theorem PartSt.canon_putWord (x : PartSt) (slot w : Nat) (v : Word) (h : Tab.canon 0xFFFFFFFF#32 x.slots = true) :
    Tab.canon 0xFFFFFFFF#32 (x.putWord slot w v).slots = true := Tab.canon_set _ _ _ _ h

theorem PartSt.canon_putWords (slot : Nat) (ws : List Word) : ∀ (x : PartSt) (w : Nat), Tab.canon 0xFFFFFFFF#32 x.slots = true →
    Tab.canon 0xFFFFFFFF#32 (x.putWords slot w ws).slots = true := by
  induction ws with
  | nil => exact fun _ _ h => h
  | cons v t ih => exact fun x w h => ih _ _ (x.canon_putWord slot w v h)

/-- A word of a slot reads back, and every other word of every slot is as before. -/
theorem PartSt.word_putWord (x : PartSt) (slot w : Nat) (v : Word) (k j : Nat) (hw : w < 8) (hj : j < 8) :
    (x.putWord slot w v).word k j = if slot = k ∧ w = j then v else x.word k j := by
  unfold PartSt.word PartSt.putWord
  by_cases h : slot = k ∧ w = j
  · obtain ⟨rfl, rfl⟩ := h
    simp
  · rw [if_neg h]
    exact Tab.at_set_ne _ _ _ (by omega)

end Sys2Proof.Machine
end

