-- ==== Sys2Proof/Laws/Ops.lean ====
section
/-! SUPPORT. Laws of the shared operations: reads, resets, records, and instructions of the engines. Each says once everything its
operation can do. -/

namespace Sys2Proof.Machine

/-! ### Answers -/

theorem Answers.intro {i : Instr} {s base t : State} {hidden : Chip} {l : List (Fld × Nat)} (h : exec i s = .next t)
    (h2 : t = { base with chip := { hidden with regs := t.chip.regs } }) (h3 : base.chip.Shows t.chip l) : Answers i s base hidden l :=
  ⟨t, h, h2, h3⟩

/-- A command that registers and hidden state ignore. -/
theorem Answers.same {i : Instr} {s : State} (h : Ignores i s) : Answers i s s s.chip [] :=
  ⟨s, h, rfl, fun _ h => absurd h (List.not_mem_nil), fun _ _ _ => rfl⟩

/-! ### Pages of an operand -/

theorem firstOf_lt (p : Page) : firstOf p < 0x1000000 := by have := p.isLt; unfold firstOf; omega

theorem pageNo_firstOf (p : Page) (o : Nat) (h : o < 0x1000) : pageNo (firstOf p + o) = p.toNat := by
  have := p.isLt; unfold pageNo firstOf; omega

theorem aOff_firstOf (p : Page) (o : Nat) (h : o < 0x1000) : aOff (firstOf p + o) = o := by unfold aOff firstOf; omega

theorem aCls_firstOf (p : Page) (o : Nat) (h : o < 0x1000) : aCls (firstOf p + o) = aCls (firstOf p) := by
  have := p.isLt; unfold aCls firstOf; omega

theorem aPage_firstOf (p : Page) (o : Nat) (h : o < 0x1000) : aPage (firstOf p + o) = firstOf p := by
  have := p.isLt; unfold aPage firstOf; omega

theorem pageImplemented_firstOf (p : Page) (o : Nat) (h : o < 0x1000) :
    pageImplemented (firstOf p + o) = pageImplemented (firstOf p) := by
  have h1 : aInst (firstOf p + o) = aInst (firstOf p) := by have := p.isLt; unfold aInst firstOf; omega
  simp [pageImplemented, h1, aCls_firstOf p o h]

/-! ### Reads and resets -/

/-- A read takes place while the port is open, and changes the device alone. -/
theorem State.nextRead_cases (s : State) (src : Source) (f : Chip → Chip) :
    (s.chip.portOpen src = true ∧ s.nextRead src f = .next (s.onChip f)) ∨
    (s.chip.portOpen src = false ∧ s.nextRead src f = .next s) := by
  unfold State.nextRead
  cases h : s.chip.portOpen src <;> simp

/-- A reset or a start keeps the queue, and the unlock windows only while the ports stay open. -/
theorem State.resetBy_eq (s : State) (f : Chip → Chip) : s.resetBy f = .next
    { pending := s.pending, chip := f s.chip
      locks := if inService s.chip.phase = true ∧ inService (f s.chip).phase = true then s.locks else [] } := by
  simp only [State.resetBy, Bool.and_eq_true]

/-- A reset or a start keeps the unlock windows sound. -/
theorem State.locksOk_resetBy (s t : State) (f : Chip → Chip) (h : s.locksOk = true) (ht : s.resetBy f = .next t) : t.locksOk = true := by
  rw [State.resetBy_eq] at ht
  cases ht
  show State.locksOk { pending := _, locks := ite _ _ _, chip := _ } = true
  split
  · exact h
  · rfl

/-! ### Records (R448–R454) -/

/-- Two devices that differ in the partitions and the registers only. -/
def Chip.SameBut (c d : Chip) : Prop := { d with parts := c.parts, regs := c.regs } = c

theorem Chip.SameBut.refl (c : Chip) : c.SameBut c := rfl

theorem Chip.SameBut.wr {c d : Chip} (h : c.SameBut d) (a : Nat) (v : Word) : c.SameBut (d.wr a v) := h

theorem Chip.SameBut.setPart {c d : Chip} (h : c.SameBut d) (n : Nat) (x : PartSt) : c.SameBut (d.setPart n x) := h

theorem Chip.SameBut.st {c d : Chip} (h : c.SameBut d) : d.st = c.st := by
  have := congrArg Chip.st h; exact this
theorem Chip.SameBut.phase {c d : Chip} (h : c.SameBut d) : d.phase = c.phase := by
  have := congrArg Chip.phase h; exact this
theorem Chip.SameBut.fresh {c d : Chip} (h : c.SameBut d) : d.fresh = c.fresh := by
  have := congrArg Chip.fresh h; exact this
theorem Chip.SameBut.pairs {c d : Chip} (h : c.SameBut d) : d.pairs = c.pairs := by
  have := congrArg Chip.pairs h; exact this
theorem Chip.SameBut.loops {c d : Chip} (h : c.SameBut d) : d.loops = c.loops := by
  have := congrArg Chip.loops h; exact this
theorem Chip.SameBut.shm {c d : Chip} (h : c.SameBut d) : d.shm = c.shm := by
  have := congrArg Chip.shm h; exact this
theorem Chip.SameBut.effects {c d : Chip} (h : c.SameBut d) : d.effects = c.effects := by
  have := congrArg Chip.effects h; exact this
theorem Chip.SameBut.reports {c d : Chip} (h : c.SameBut d) : d.reports = c.reports := by
  have := congrArg Chip.reports h; exact this
theorem Chip.SameBut.admitted {c d : Chip} (h : c.SameBut d) : d.admitted = c.admitted := by
  have := congrArg Chip.admitted h; exact this
theorem Chip.SameBut.el {c d : Chip} (h : c.SameBut d) : d.el = c.el := by
  have := congrArg Chip.el h; exact this
theorem Chip.SameBut.ken {c d : Chip} (h : c.SameBut d) : d.ken = c.ken := by
  have := congrArg Chip.ken h; exact this
theorem Chip.SameBut.isn {c d : Chip} (h : c.SameBut d) : d.isn = c.isn := by
  have := congrArg Chip.isn h; exact this
theorem Chip.SameBut.start {c d : Chip} (h : c.SameBut d) : d.start = c.start := by
  have := congrArg Chip.start h; exact this
theorem Chip.SameBut.wipe {c d : Chip} (h : c.SameBut d) : d.wipe = c.wipe := by
  have := congrArg Chip.wipe h; exact this
theorem Chip.SameBut.lifeNv {c d : Chip} (h : c.SameBut d) : d.lifeNv = c.lifeNv := by
  have := congrArg Chip.lifeNv h; exact this
theorem Chip.SameBut.sec {c d : Chip} (h : c.SameBut d) : d.sec = c.sec := by
  have := congrArg Chip.sec h; exact this

/-- Records change the partitions, the count of refusals and the flag REFUSED; nothing else. -/
theorem Chip.sameBut_recordNew (c : Chip) (p src code lo hi : Nat) : c.SameBut (c.recordNew p src code lo hi) := by
  unfold Chip.recordNew
  dsimp only
  split
  · exact .wr (.wr (.setPart (.refl c) p _) _ _) _ _
  · exact .setPart (.refl c) p _

theorem Chip.sameBut_recordIn (c : Chip) (p src code lo hi : Nat) : c.SameBut (c.recordIn p src code lo hi) := by
  unfold Chip.recordIn
  dsimp only
  split
  · split
    · exact .setPart (.refl c) p _
    · exact c.sameBut_recordNew ..
  · exact c.sameBut_recordNew ..

theorem Chip.rd_recordNew (c : Chip) (p src code lo hi a : Nat) (h1 : a ≠ win p R.EVREC.REFUSE_CNT) (h2 : a ≠ R.EVREC.STICKY) :
    (c.recordNew p src code lo hi).rd a = c.rd a := by
  unfold Chip.recordNew
  dsimp only
  split
  · simp only [Chip.raise, Chip.inc, Chip.set]
    rw [Chip.rd_wr_ne _ _ (Ne.symm h2), Chip.rd_wr_ne _ _ (Ne.symm h1)]
    rfl
  · rfl

/-- A record leaves every register but REFUSE_CNT of its partition and the recorder's STICKY. -/
theorem Chip.rd_recordIn (c : Chip) (p src code lo hi a : Nat) (h1 : a ≠ win p R.EVREC.REFUSE_CNT) (h2 : a ≠ R.EVREC.STICKY) :
    (c.recordIn p src code lo hi).rd a = c.rd a := by
  unfold Chip.recordIn
  dsimp only
  split
  · split
    · rfl
    · exact c.rd_recordNew p src code lo hi a h1 h2
  · exact c.rd_recordNew p src code lo hi a h1 h2

/-- A record leaves every other partition. -/
theorem Chip.part_recordIn_ne (c : Chip) (p src code lo hi : Nat) {m : Nat} (h : p ≠ m) :
    (c.recordIn p src code lo hi).part m = c.part m := by
  have hn : (c.recordNew p src code lo hi).part m = c.part m := by
    unfold Chip.recordNew
    dsimp only
    split
    · have h1 : ∀ d : Chip, ∀ f k : Fld, ((d.inc f).raise k).part m = d.part m := fun d f k => by
        simp only [Chip.part, Chip.raise_parts, Chip.inc_parts]
      rw [h1]
      exact Chip.part_setPart_ne c p _ h
    · exact Chip.part_setPart_ne c p _ h
  unfold Chip.recordIn
  dsimp only
  split
  · split
    · exact Chip.part_setPart_ne c p _ h
    · exact hn
  · exact hn

theorem Chip.rd_recordListed (c : Chip) (src code a b k r : Nat) (h1 : r ≠ win (partOf code) R.EVREC.REFUSE_CNT) (h2 : r ≠ R.EVREC.STICKY) :
    (c.recordListed src code a b k).rd r = c.rd r := c.rd_recordIn _ _ _ _ _ r h1 h2

theorem Chip.rd_recordOpen (c : Chip) (src kind r : Nat) (h1 : ∀ p, r ≠ win p R.EVREC.REFUSE_CNT) (h2 : r ≠ R.EVREC.STICKY) :
    (c.recordOpen src kind).rd r = c.rd r := c.draw.2.rd_recordIn _ _ _ _ _ r (h1 _) h2

theorem Chip.rd_recordCode (c : Chip) (src code r : Nat) (h1 : ∀ p, r ≠ win p R.EVREC.REFUSE_CNT) (h2 : r ≠ R.EVREC.STICKY) :
    (c.recordCode src code).rd r = c.rd r := c.draw.2.rd_recordIn _ _ _ _ _ r (h1 _) h2

/-! ### Instructions of the engines (R94, R109) -/

/-- An instruction that may run is charged, and its effect follows. -/
theorem Chip.charged_of_run (c : Chip) (p : Nat) (cs : Cores) (wu : Nat) (f : RunSt → Chip → Chip) {r : RunSt}
    (hr : c.executing p = some r) (hf : c.badFetch p r cs = none) (h : (c.pair p).Each cs fun x => x.wu + wu ≤ c.slotCost p r) :
    c.charged p cs (fun _ => wu) f = f r (c.updPair p fun x => x.onCores cs fun _ y => { y with wu := y.wu + wu }) := by
  obtain ⟨ha, hb⟩ := h
  have h1 : (cs.hasA && decide (c.slotCost p r < (c.pair p).a.wu + wu)) = false := by
    cases hc : cs.hasA
    · rfl
    · simpa using ha hc
  have h2 : (cs.hasB && decide (c.slotCost p r < (c.pair p).b.wu + wu)) = false := by
    cases hc : cs.hasB
    · rfl
    · simpa using hb hc
  simp [Chip.charged, hr, hf, h1, h2]

/-- With no iteration that executes, an instruction does nothing. -/
theorem Chip.charged_of_idle (c : Chip) (p : Nat) (cs : Cores) (wu : CoreSt → Nat) (f : RunSt → Chip → Chip)
    (hr : c.executing p = none) : c.charged p cs wu f = c := by
  simp [Chip.charged, hr]

/-- An instruction within each core: charged, done under its guard, and gone on from. -/
theorem Chip.cleOp_of_run (c : Chip) (p : Nat) (cs : Cores) (g wu : Nat) (f : CoreSt → CoreSt) (h : c.CanRun p cs wu) :
    c.cleOp p cs g wu f = (c.updPair p fun x => x.onCores cs fun _ y => { y with wu := y.wu + wu }).updPair p
      fun x => x.onCores cs fun _ y => y.guarded g f := by
  obtain ⟨r, hr, hf, h⟩ := h
  exact c.charged_of_run p cs wu _ hr hf h

end Sys2Proof.Machine
end

