-- ==== Sys2Proof/Machine/Pins.lean ====
section
/-! DEFINITION. The states of the pins that Table 15.7 names, read from the state of their blocks (R404, R408, R414, R487); the pins
of the position units, the DACs and the pilots stand with their blocks. -/

namespace Sys2Proof.Machine

/-- A digital output: high impedance, low or high. -/
inductive PinLevel where
  | highZ
  | low
  | high
deriving DecidableEq, Repr

/-- RSTOUT_N: low until step C4 or W5, when the host ports open (R474, R478); open drain, so not driven from then on. -/
def Chip.rstoutN (c : Chip) : PinLevel := if inService c.phase then .highZ else .low

/-- HIRQn: the level R77 gives it, low while the ports are closed. -/
def Chip.hirqPin (c : Chip) (n : Nat) : PinLevel := if inService c.phase && c.hirq n then .high else .low

/-- SBC_HS and SBC_LS conduct (R404). -/
def Chip.sbcPins (c : Chip) : Bool × Bool := (c.on F.SAFE.SBC_STAT.HS_ON, c.on F.SAFE.SBC_STAT.LS_ON)

/-- TPSk outside its pulses: VSYS less its drop while its source is enabled, else low (R408). -/
def Chip.tpsPin (c : Chip) (k : Nat) : PinLevel :=
  if inService c.phase && (c.get F.SAFE.TPS_CFG.TPS_EN).testBit k then .high else .low

/-- ELn_TX is quiet while the port is DOWN; the termination of ELn_RX is off while it is DOWN or probes (R414). -/
def Chip.elTxQuiet (c : Chip) (p : Nat) : Bool := c.elState p == epDown
def Chip.elTermination (c : Chip) (p : Nat) : Bool := c.elState p != epDown && c.elState p != epProbe

/-- CANn_TX is recessive while its controller takes no part in the bus. -/
def Chip.canRecessive (c : Chip) (n : Nat) : Bool := !c.canOn n

/-- ETHn_REFCLK is driven by the device with EN = 1 and REFCLK_OUT = 1 (R441). -/
def Chip.refclkDriven (c : Chip) (n : Nat) : Bool := c.on (hEn (R.ETH.ID n)) && bits (c.rd (R.ETH.MAC_CFG n)) 3 1 == 1

/-- A gate-link transmitter runs in LEN = 1 and no cut (R275). -/
def Chip.glDriven (c : Chip) (l : Nat) : Bool :=
  c.on (F.GLNK.LCFG.LEN (l / 8) (l % 8)) && !c.on F.SAFE.STO_STAT.CUT_A

end Sys2Proof.Machine
end

