-- ==== Sys2Proof/WellFormed.lean ====
section
/-! DEFINITION. Which commands are well formed: operands that name what their row is about (Tables 2.1, 2.4, 2.5, 13.4). The
meanings are total: an ill-formed command has one too. -/

namespace Sys2Proof

open Sys2Proof.Machine

/-- A page that the device has. -/
def implemented (p : Page) : Bool := pageImplemented (firstOf p)

/-- STICKY, or a register with bits that a write of 1 clears. -/
def isW1c (a : Nat) : Bool :=
  pageImplemented a && (aOff a == 0x10 || (match rowOf a with | some r => r.w1c != 0 | none => false))

/-- A register with bits that carry a command. -/
def isClear (a : Nat) : Bool := pageImplemented a && (writeMasks a).2 != 0

/-- A register whose read fills a holding latch. -/
def latchesHigh (a : Nat) : Bool := (({} : Chip).upperHalf a).isSome

/-- A command of Table 2.5. -/
def frameCmd (cmd : Nat) : Bool := cmd == cmdRead || cmd == cmdWrite || cmd == cmdStatus

/-- A payload that LEN can tell. -/
def payloadFits (pk : Pkt) : Bool := decide (1 ≤ pk.payload.length) && decide (pk.payload.length ≤ 1024)

/-- A well-formed command. -/
def WellFormed : Instr → Bool
  | .registerWrite _ a _ => pageImplemented (byteOf a)
  | .stickyClear _ a _ => isW1c (byteOf a)
  | .counterClear _ a _ => isClear (byteOf a)
  | .unmappedAccess _ a _ => !pageImplemented (byteOf a)
  | .stLoRead _ => true
  | .latchedLoRead _ a => latchesHigh (byteOf a)
  | .shpReadFrame a len cut => !frameCrosses (byteOf a) (len + 1) && (match cut with | some k => decide (k.val ≤ len.val) | none => true)
  | .shpWriteFrame a words _ _ => !words.isEmpty && decide (words.length ≤ 64) && !frameCrosses (byteOf a) words.length
  | .shpStatusFrame _ _ _ => true
  | .shpFrameInvalid cmd a len => !frameCmd cmd.toNat || (cmd.toNat != cmdStatus && frameCrosses (byteOf a) (len + 1))
  | .lockArm _ p => implemented p
  | .lockOpen _ p => implemented p
  | .lockClose _ p key => implemented p && key != 0x5A5A#16
  | .unlockWindowExpire p => implemented p
  | .shadowWrite _ a _ => rwsMask (byteOf a) != 0
  | .commitRequest _ p => implemented p
  | .shadowCommit p => implemented p
  | .freezeRelease _ p => implemented p
  | .softReset _ p => implemented p
  | .groupFire _ _ => true
  | .groupCapture => true
  | .groupMemberApply _ => true
  | .portCfgWrite _ _ _ => true
  | .mbxRead _ _ => true
  | .mbxWrite _ _ => true
  | .mbxInvalidOp _ _ op => op == 0#2 || op == 3#2
  | .mbxAdmissionDone _ => true
  | .mbxReply _ _ _ => true
  | .mbxTimeout _ => true
  | .paceSensorUpdate _ _ _ _ => true
  | .paceFaultDetect _ => true
  | .admAdmit _ _ pair anyPair => anyPair || decide (pair.toNat < 36)
  | .admWithdraw _ _ => true
  | .admTestOnly _ _ pair anyPair => anyPair || decide (pair.toNat < 36)
  | .admReevaluate _ => true
  | .admInvalidOp _ _ _ op => op == 0#3 || decide (4 < op.toNat)
  | .admDecisionDone => true
  | .loadCopyDone _ _ => true
  | .regionPaceCheck _ => true
  | .voltStepUp _ => true
  | .voltStepDown _ => true
  | .regionRecover _ => true
  | .skewDetect a b => a != b
  | .skewClear a b => a != b
  | .voltLimitWrite _ _ _ => true
  | .timeoutExpiry _ _ _ => true
  | .cleNop _ _ _ => true
  | .cleAdd _ _ _ _ _ _ _ => true
  | .cleSub _ _ _ _ _ _ _ => true
  | .cleMul _ _ _ _ _ _ _ => true
  | .cleMac _ _ _ _ _ _ _ => true
  | .cleMsu _ _ _ _ _ _ _ => true
  | .cleAccr _ _ _ _ _ _ _ => true
  | .cleAccw _ _ _ _ _ _ => true
  | .cleMin _ _ _ _ _ _ => true
  | .cleMax _ _ _ _ _ _ => true
  | .cleAbs _ _ _ _ _ _ => true
  | .cleNeg _ _ _ _ _ _ => true
  | .cleShv _ _ _ _ _ _ => true
  | .cleAnd _ _ _ _ _ _ => true
  | .cleOr _ _ _ _ _ _ => true
  | .cleXor _ _ _ _ _ _ => true
  | .cleCmp _ _ _ _ _ _ _ => true
  | .cleSel _ _ _ _ _ _ _ => true
  | .cleClamp _ _ _ _ _ _ _ => true
  | .cleRate _ _ _ _ _ _ _ => true
  | .cleDiv _ _ _ _ _ _ _ => true
  | .cleCordicSin _ _ _ _ _ => true
  | .cleCordicCos _ _ _ _ _ => true
  | .cleCordicSincos _ _ _ _ _ => true
  | .cleCordicAtan2 _ _ _ _ _ _ => true
  | .cleCordicMag _ _ _ _ _ _ _ => true
  | .cleCordicPolar _ _ _ _ _ _ _ => true
  | .cleInterp _ _ _ _ _ _ _ => true
  | .cleMov _ _ _ _ _ _ => true
  | .cleLdiSigned _ _ _ _ _ => true
  | .cleLdiHigh _ _ _ _ _ => true
  | .cleLdiLow _ _ _ _ _ => true
  | .cleAddi _ _ _ _ _ => true
  | .cleCmpi _ _ _ _ _ _ => true
  | .cleLd _ _ _ _ _ _ _ _ => true
  | .cleSt _ _ _ _ _ _ _ => true
  | .cleIn _ _ _ _ _ _ => true
  | .cleOutStaged _ _ _ _ _ => true
  | .cleOutImmediate _ _ _ _ => true
  | .cleLoop _ _ _ _ _ => true
  | .cleSkip _ _ _ _ => true
  | .clePlog _ _ _ _ _ _ _ => true
  | .cleWaitp _ _ _ _ _ => true
  | .cleWaitpArrival _ _ => true
  | .cleWaitpLimit _ => true
  | .cleEnd _ _ _ => true
  | .cleTrap _ _ _ => true
  | .loopTrigger _ _ => true
  | .loopDeadline _ => true
  | .lpdOpenCmd _ _ => true
  | .lpdClosedCmd _ _ => true
  | .lpdHoldCmd _ _ => true
  | .lpdTriggerCmd _ _ => true
  | .lpdInvalidCmd _ _ op => op == 0#3 || decide (4 < op.toNat)
  | .setptWrite _ _ _ => true
  | .raInputArrival _ _ _ _ => true
  | .raInputTimeout _ => true
  | .effectDelivery => true
  | .migrationPrecopyDone _ => true
  | .migrationFinalCopyDone _ => true
  | .signaturePassEnd _ => true
  | .selfTestDone _ _ _ => true
  | .testRequest _ _ => true
  | .rollingTestStart => true
  | .rollLateDetect => true
  | .testSlice _ => true
  | .analogTest _ => true
  | .bandgapCheck _ => true
  | .marchSliceStart => true
  | .marchSliceDone _ => true
  | .cmpCfgWrite _ _ _ => true
  | .retireClear _ _ => true
  | .tapExtest => true
  | .tapIdcode => true
  | .tapSamplePreload => true
  | .tapHighz => true
  | .tapBypass code => !tapListed code.toNat
  | .tapScanacc _ _ => true
  | .scanConnect => true
  | .adcAdmit _ _ _ => true
  | .adcWithdraw _ _ _ => true
  | .adcTestOnly _ _ _ => true
  | .adcInvalidOp _ _ _ => true
  | .adcDecisionDone _ => true
  | .adcWithdrawEffect _ _ => true
  | .adcHostTrigger _ _ _ => true
  | .adcTrigger _ _ _ => true
  | .adcConversionStart _ => true
  | .adcResultWrite _ samples _ => !samples.isEmpty
  | .adcIdlePowerdown _ => true
  | .comparatorEnable _ _ => true
  | .comparatorFirstDecision _ _ _ _ => true
  | .comparatorInputCrossing _ _ _ _ => true
  | .blankingClose _ _ => true
  | .latchClear _ _ _ => true
  | .ccfgWrite _ _ _ _ => true
  | .dacCodeWrite _ _ _ => true
  | .dacSineUpdate _ _ => true
  | .pfuEnable _ _ => true
  | .pfuDisable _ _ => true
  | .pfuEdge _ _ _ _ => true
  | .hallTransition _ _ _ => true
  | .zIndex _ _ => true
  | .pfuZero _ _ => true
  | .pfuCaptureCmd _ _ => true
  | .comparePulseEnd _ => true
  | .cmplCfgWrite _ _ _ => true
  | .encFrameStart _ _ => true
  | .encFrameReceive _ _ _ _ _ => true
  | .encFrameTimeout _ => true
  | .resolverPairTimeout _ => true
  | .observerUpdate _ => true
  | .pgEnable _ _ => true
  | .pgDisable _ _ => true
  | .pgPeriodPoint _ => true
  | .pgHalfPeriodPoint _ => true
  | .pgCaptureInstant _ _ => true
  | .pgEdge _ => true
  | .tripLineActive _ => true
  | .tripLineInactive _ => true
  | .tripClr _ _ => true
  | .hforceWrite _ _ _ => true
  | .swForceWrite _ _ => true
  | .scpWrite _ _ _ => true
  | .scSingleTimeout _ => true
  | .scSoftHoldExpire _ => true
  | .scGroupRelease _ => true
  | .glLinkEnable _ _ => true
  | .glInitTimeout _ _ => true
  | .glLinkDisable _ _ => true
  | .glRxGate _ _ _ _ => true
  | .glGateCheckTimeout _ => true
  | .glRxTemp _ _ _ _ => true
  | .glRxSupply _ _ _ _ => true
  | .glRxDesatInfo _ _ _ _ => true
  | .glRxAck _ _ _ _ => true
  | .glRxRdata _ _ _ _ => true
  | .glRxLoop _ _ _ _ => true
  | .glRxFault _ _ _ _ => true
  | .glRxBadFrame _ _ => true
  | .glIdleLoop _ _ => true
  | .glReverseSilence _ _ => true
  | .glTeleTimeout _ => true
  | .glDesatRecognise _ _ => true
  | .glCmdWrite _ _ _ _ => true
  | .glCmdRead _ _ _ _ => true
  | .glCmdClearFault _ _ _ _ => true
  | .glCmdPoll _ _ _ _ => true
  | .glCmdLoop _ _ _ _ => true
  | .glCmdTimeout _ => true
  | .lvBootstrapUv _ _ => true
  | .lvVgUv _ _ => true
  | .lvUvRecover _ _ _ => true
  | .lvGateSense _ _ _ => true
  | .lvQgMeasure _ _ _ => true
  | .driveStop _ _ => true
  | .driveRun _ => true
  | .driveIdent _ => true
  | .driveClear _ => true
  | .driveSenseWindowEnd _ _ _ _ _ => true
  | .driveAlignDone _ _ _ _ _ _ => true
  | .reacqTimeout _ => true
  | .identStepDone _ _ _ _ _ => true
  | .actStop _ => true
  | .actMove _ => true
  | .actShift _ => true
  | .actEngage _ => true
  | .actRelease _ => true
  | .actPhaseTimeout _ => true
  | .pumpNoLoad _ => true
  | .convEnable _ _ => true
  | .convRunRequest _ _ _ => true
  | .convHiccupOffExpire _ => true
  | .convRetryReset _ => true
  | .convShedTimer _ => true
  | .convHoldoffExpire _ => true
  | .convInputLoss _ _ => true
  | .convInputRecover _ _ => true
  | .pilotPeriod _ _ _ _ _ _ _ => true
  | .pilotStateChange _ _ => true
  | .ppMeasure _ _ => true
  | .sqStart _ _ => true
  | .sqStop _ _ => true
  | .sqInvalidOp _ _ _ => true
  | .sessionPilotTimeout _ => true
  | .sessionRunReady _ _ => true
  | .supplyStateHold _ => true
  | .supplyRunDelay _ => true
  | .sessionEndComplete _ => true
  | .sessionRedetect _ => true
  | .batDetect _ => true
  | .restOcvPoint _ => true
  | .pulseEdge _ => true
  | .zsweepUpdate _ => true
  | .zsweepPointDone _ => true
  | .cellAssign _ _ _ => true
  | .thermSample _ _ _ _ => true
  | .thermRateDown _ => true
  | .domainStepUp _ => true
  | .domainRestoreStep _ => true
  | .domainEnable _ _ => true
  | .xtTrimUpdate => true
  | .refCorrectionUpdate _ _ => true
  | .dlCalibration _ _ => true
  | .dlSwap _ => true
  | .dlDefer _ => true
  | .supplySample _ _ _ => true
  | .calSecWrite _ _ => true
  | .calSubRead _ => true
  | .calSecTick _ => true
  | .vsysFall _ => true
  | .handoverDone => true
  | .vsysRise => true
  | .returnWaitExpire => true
  | .bkpCutoff _ => true
  | .bkpChargePhaseEnd _ => true
  | .bkpChargeTimeout => true
  | .shipArm _ => true
  | .shipDisarm _ => true
  | .shipWakeEvent => true
  | .wakeInEvent => true
  | .powerOff _ => true
  | .tokenClear _ => true
  | .retDataAccess _ _ _ => true
  | .kennelColdStart _ => true
  | .watchdogFire _ _ => true
  | .isnCoreMismatch => true
  | .refWindowCheck _ => true
  | .refEdgeLoss => true
  | .runReq _ => true
  | .resume _ => true
  | .safeReq _ _ _ => true
  | .faultReport _ _ => true
  | .faultCleared _ => true
  | .degradedExpire _ _ => true
  | .ascExit _ _ _ => true
  | .stoRequest _ _ _ => true
  | .stoRel _ _ _ => true
  | .stoPulseTest _ _ => true
  | .ss1Req _ => true
  | .ss1EnvelopeCheck _ _ => true
  | .ss1Timeout _ _ => true
  | .sbcRel _ _ => true
  | .sbcDelayExpire _ _ => true
  | .sbcTestPulse _ => true
  | .holdStart _ => true
  | .holdReady => true
  | .holdTestEnd => true
  | .parkSpeedUpdate _ => true
  | .plCmd _ => true
  | .parkConfirmTimeout => true
  | .tpsPulse _ => true
  | .safeInputPeriod _ _ _ _ => true
  | .safeInputDemand _ _ _ => true
  | .safePairDiscrepancy _ _ _ => true
  | .elPortEnable _ _ _ => true
  | .elProbe _ _ => true
  | .elBlockLock _ => true
  | .elBlockLockLoss _ => true
  | .elRxSuspend _ => true
  | .elRxResume _ => true
  | .elRxAbort _ => true
  | .elRxCredit _ _ => true
  | .elRxBlockError _ => true
  | .elForward _ _ pk _ => payloadFits pk
  | .elRxFlow _ pk _ => payloadFits pk
  | .elRxMsg _ pk => payloadFits pk
  | .elRxMreq _ pk => pk.payload.length == 12
  | .elRxMrsp _ pk _ => pk.payload.length == 12
  | .elRxResv _ _ _ => true
  | .elRxResvAck _ _ _ _ _ _ => true
  | .elRxTime _ _ _ _ => true
  | .elRxDesc _ _ => true
  | .elRxElect _ _ _ => true
  | .elRxAddr _ _ _ _ => true
  | .elRxTopo _ _ _ => true
  | .elRxAuth _ _ _ => true
  | .elRxKeyx _ _ _ => true
  | .discCmd _ => true
  | .electionTimeout => true
  | .portDownTimeout _ => true
  | .timeSend _ => true
  | .timeDelayExchange _ _ _ _ _ => true
  | .flowOpen _ _ => true
  | .flowClose _ _ => true
  | .flowTestOnly _ _ => true
  | .resvTentativeExpire _ _ _ => true
  | .flowCapture _ => true
  | .flowSend _ => true
  | .flowSinkLimit _ _ => true
  | .msgSend _ _ => true
  | .linkKeyRenew _ _ _ => true
  | .timeOffsetWrite _ _ => true
  | .attCmd _ => true
  | .attDone => true
  | .keyDataWrite _ _ => true
  | .keyLoad _ => true
  | .keyLock _ => true
  | .provClose _ => true
  | .rngRead _ _ => true
  | .canTxRequest _ _ _ => true
  | .canTxDone _ _ _ => true
  | .canRxFrame _ _ _ _ => true
  | .canMsgAccess _ _ _ => true
  | .ethRxFrame _ _ _ _ _ _ => true
  | .ethTxFrame _ _ _ _ => true
  | .mdioCmd _ _ _ => true
  | .mdioDone _ _ => true
  | .recordWriteDone _ => true
  | .recordRepeatUpdate _ => true
  | .hrecCmd _ _ => true
  | .recSelWrite _ _ _ => true
  | .clearNonce _ => true
  | .clearNonceReady => true
  | .clearGo _ => true
  | .clearNonceExpire => true
  | .clearLockoutExpire => true
  | .lifeFlushTimer => true
  | .flushCmd _ => true
  | .lifeFlushDone _ => true
  | .moduleTjUpdate _ => true
  | .modReset _ => true
  | .progDataWrite _ _ => true
  | .authCmd _ => true
  | .authDone _ => true
  | .commitVersion _ => true
  | .dmemWrite _ _ _ => true
  | .dmemRead _ _ => true
  | .pmemRead _ _ => true
  | .shmWrite _ _ _ => true
  | .shmRead _ _ _ => true
  | .slotClear _ _ => true
  | .powerUp => true
  | .porstAssert _ _ => true
  | .brownOut _ _ => true
  | .coldStart _ => true
  | .wrstRelease => true
  | .warmStart _ => true
  | .startRetry => true
  | .watchdogRefresh _ => true
  | .glLoopEchoTimeout _ => true
  | .sbcReadbackFault _ => true
  | .vkeepLoss => true
  | .tapTestLogicReset => true
  | .warmReuseTimeout => true

end Sys2Proof
end

