-- ==== Sys2Proof/Tests/Slice0.lean ====
section
/-! SUPPORT. Tests: ill-formed commands are refused by the well-formedness check, small steps answer what the spec's text and
tables say, and for every statement with hypotheses a concrete state and operands meet them. -/

open Sys2Proof Sys2Proof.Machine

set_option Elab.async false

/-- A state with the device `c` and the unlock window of page `p` open. -/
def unlocked (c : Chip) (p : Nat) : State := { chip := c, locks := [(p, { remain := 64 })] }

/-! ### Witnesses: a state and operands that meet the hypotheses of each statement -/

theorem witness_StepRunsFrontCommand : State.reset.pending = [] := rfl

theorem witness_UnlockWindowsStaySound : State.reset.locksOk = true ∧ (step State.reset = .next (State.reset.onChip Chip.idle)) := by
  exact ⟨by decide, rfl⟩

theorem witness_keys :
    State.reset.chip.portOpen .parallel = true ∧ pageImplemented (firstOf 0x080#12) = true ∧ State.reset.chip.phase ≠ .safeHold ∧
    ((State.reset.setLock 128 { remain := 64 }).lock (0x080#12).toNat).remain ≠ 0 := by
  decide +kernel

theorem witness_KeysFlagsAndCountersAreWritten :
    (pageImplemented (byteOf 0x040005#22) = true ∧ aOff (byteOf 0x040005#22) = 0x14) ∧
    (pageImplemented (byteOf 0x040004#22) = true ∧ aOff (byteOf 0x040004#22) = 0x10 ∧ aCls (byteOf 0x040004#22) ≠ 1 ∧
      aCls (byteOf 0x040004#22) ≠ 18) ∧
    pageImplemented (byteOf 0x3FF000#22) = false ∧ (unlocked {} 128).Lets .parallel R.HOST.PORT_CFG ∧
    byteOf 0x040023#22 = R.LEASH.CNT_CLR ∧ (unlocked {} 256).Lets .serial R.LEASH.CNT_CLR := by
  unfold State.Lets; decide +kernel

theorem witness_ShadowValuesWaitForTheCommit :
    (byteOf 0x140012#22 = R.PG.DUTY 0 ∧ (unlocked {} 0x500).Lets .parallel (R.PG.DUTY 0) ∧
      (unlocked {} 0x500).chip.on (F.PG.SRC.DSRC 0) = false ∧ (unlocked {} 0x500).chip.convDrives 0 = false) ∧
    (firstOf 0x500#12 = R.PG.ID 0 ∧ (unlocked (Chip.wr {} (R.PG.CTRL 0) 1) 0x500).Lets .parallel (R.PG.CTRL 0) ∧
      Chip.rd (Chip.wr {} (R.PG.CTRL 0) 1) (R.PG.CTRL 0) = 1#32 ∧ Chip.inGroup (Chip.wr {} (R.PG.CTRL 0) 1) (R.PG.ID 0) = false ∧
      (unlocked (Chip.wr {} (R.PG.CTRL 0) 5) 0x500).Lets .parallel (R.PG.CTRL 0) ∧
      Chip.rd (Chip.wr {} (R.PG.CTRL 0) 5) (R.PG.CTRL 0) = 5#32) ∧
    (firstOf 0x700#12 = R.CONV.ID 0 ∧
      let c : Chip := { Chip.wr {} (R.CONV.CTRL 0) 8 with shadow := [(R.CONV.VTARGET 0, 5)] }
      c.on (hEn (R.CONV.ID 0)) = false ∧ c.on (hCommitReq (R.CONV.ID 0)) = true ∧ c.on (hFreeze (R.CONV.ID 0)) = false ∧
      c.inGroup (R.CONV.ID 0) = false ∧ c.shadowsOf (R.CONV.ID 0) = [(R.CONV.VTARGET 0, 5)]) ∧
    (firstOf 0x300#12 = R.ADC.ID 0 ∧ (unlocked {} 0x300).Lets .parallel (R.ADC.CTRL 0) ∧ Chip.rd {} (R.ADC.CTRL 0) = 0#32) := by
  unfold State.Lets; decide +kernel

/-- GRP_MEMBER naming CONV page 0. -/
def memberConv0 : Word := wd (2 ^ (F.SYS.GRP_MEMBER.VALID 0).lo + 14 * 2 ^ (F.SYS.GRP_MEMBER.CLASS 0).lo)

theorem witness_GroupFireCaptureAndApply :
    let conv0 : Chip := Chip.wr {} (R.SYS.GRP_MEMBER 0) memberConv0
    ((unlocked {} 0).Lets .parallel R.SYS.GRP_CTRL ∧ Chip.get {} F.SYS.GRP_STATUS.STATE = 0 ∧ Chip.members {} = []) ∧
    (conv0.members = [0] ∧ pageImplemented (conv0.memberPage 0) = true ∧
      (unlocked (conv0.wr R.SYS.GRP_TIME_HI 1) 0).Lets .parallel R.SYS.GRP_CTRL ∧ (conv0.wr R.SYS.GRP_TIME_HI 1).members = [0] ∧
      (conv0.wr R.SYS.GRP_TIME_HI 1).get F.SYS.GRP_STATUS.STATE = 0 ∧
      Config.us ≤ (conv0.wr R.SYS.GRP_TIME_HI 1).get64 R.SYS.GRP_TIME_LO R.SYS.GRP_TIME_HI) ∧
    (let c : Chip := { (conv0.wr R.SYS.GRP_STATUS 1).wr (R.CONV.CTRL 0) 4 with grpLeft := [0] };
      c.get F.SYS.GRP_STATUS.STATE = 1 ∧ c.on (hFreeze (c.memberPage 0)) = true ∧ c.memberPage 0 ≠ R.SYS.ID) ∧
    (let c : Chip := { conv0.wr R.SYS.GRP_STATUS 2 with grpLeft := [0], staged := [(R.CONV.VTARGET 0, 7)] };
      c.get F.SYS.GRP_STATUS.STATE = 2 ∧ c.memberPage 0 = R.CONV.ID 0 ∧ c.on (hFreeze (R.CONV.ID 0)) = false ∧
      c.on (hEn (R.CONV.ID 0)) = false) := by
  unfold State.Lets; decide +kernel

theorem witness_ReadsLatchAndFramesAnswer :
    State.reset.chip.portOpen .serial = true ∧ byteOf 0x1A0014#22 = R.TRIP.SC_ST_LO ∧
    frameCrosses (byteOf 0x040010#22) 2 = false ∧
    (crc16 (frameBytes cmdWrite 0 (byteOf 0x040005#22) [1])) = (BitVec.ofNat 16 (crc16 (frameBytes cmdWrite 0 (byteOf 0x040005#22) [1]))).toNat ∧
    ¬crc16 (frameBytes cmdWrite 0 (byteOf 0x040005#22) [1]) =
      (BitVec.ofNat 16 (crc16 (frameBytes cmdWrite 0 (byteOf 0x040005#22) [1]) + 1)).toNat := by
  decide +kernel

/-- A device with a management pair to device 5 over port 0, which is UP. -/
def linked : Chip :=
  { Chip.set {} (F.EPORT.STATUS.STATE 0) epUp with el := { pairs := [{ dest := 5, isOpen := true }], table := [(5, 0, 1)] } }

theorem witness_MailboxChannelsAskAndAnswer :
    let idle : Chip := linked.wr (R.HOST.MBX_DEST 1) 5
    let busy : Chip := { linked.wr (R.HOST.MBX_STATUS 1) 1 with mbx := [(1, { op := 1, dest := 5 })] }
    let away : Chip := { Chip.wr {} (R.HOST.MBX_STATUS 1) 1 with mbx := [(1, { op := 1, dest := 6 })] }
    let sent : Chip := { linked.wr (R.HOST.MBX_STATUS 1) 1 with mbx := [(1, { op := 1, dest := 5, accepted := true })] }
    (idle.portOpen .parallel = true ∧ idle.on (F.HOST.MBX_STATUS.BUSY 1) = false ∧
      (idle.elPairTo (bits (idle.rd (R.HOST.MBX_DEST 1)) 0 14)).isSome = true) ∧
    (busy.portOpen .parallel = true ∧ busy.on (F.HOST.MBX_STATUS.BUSY 1) = true ∧ (busy.mbxCh 1).accepted = false ∧
      busy.elPairTo 5 = some { dest := 5, isOpen := true } ∧ (busy.mbxCh 1).dest = 5 ∧ busy.elRoute 5 = some (0, 1) ∧
      busy.elUp 0 = true) ∧
    (away.on (F.HOST.MBX_STATUS.BUSY 1) = true ∧ (away.mbxCh 1).accepted = false ∧ away.elPairTo (away.mbxCh 1).dest = none) ∧
    (sent.on (F.HOST.MBX_STATUS.BUSY 1) = true ∧ (sent.mbxCh 1).accepted = true) := by
  decide +kernel

/-- A device that is READY, with a bundle of one loop, 3, of cost 100, its descriptor, an enabled pair 0 and its region at pace. -/
def bundled : Chip :=
  ({ phase := .ready, active := some 0, regions := [(0, { sensors := [(0, 2000), (1, 2000), (2, 2000), (3, 2000)], hist := [(2000, 0)] })],
     bankA := [(4, 68), (5, 1), (6, 32), (8, 3), (9, 64), (10, 1), (12, 100), (16, 0xFC000000)] } : Chip)
    |>.wr (lpd 3 R.LPD.LPD_PERIOD) 10000 |>.wr (lpd 3 R.LPD.LPD_DEADLINE) 9000 |>.wr (R.CLE.CTRL 0) 1

theorem witness_AdmissionCommandsAreLatchedAndDecided_admit :
    let a : AdmCmd := { op := 1, loop := 3, pair := 0, anyPair := false };
    bundled.phase = .ready ∧ bundled.on F.LEASH.CTRL.HOLD_ADM = false ∧ bundled.refLost = false ∧
      bundled.on (fAdmitted a.loop) = false ∧
      ∃ r, bundled.reqOf a.loop = some r ∧ bundled.paramsOk r = true ∧ bundled.cellPortsOk r = true ∧ r.entry.spanValid = false ∧
        bundled.on (F.CLE.CTRL.EN a.pair) = true ∧ bundled.on (F.CLE.PAIR_INFO.RETIRED a.pair) = false ∧ (bundled.pairTest r a.pair).1 = 0 ∧ bundled.portsTaken r = false ∧
        (bundled.reserveOn r a.pair).isSome = true :=
  ⟨by decide, by decide, by decide, by decide +kernel, (bundled.reqOf 3).get (by decide +kernel), by decide +kernel⟩

theorem witness_AdmissionCommandsAreLatchedAndDecided :
    ((unlocked {} 256).Lets .parallel R.LEASH.ADM_CMD ∧ (unlocked {} 256).chip.adm = none) ∧
    (let c : Chip := Chip.wr (Chip.raise { admitted := [3] } (fAdmitted 3)) (R.CLE.LOAD_STATUS 0) (3 + 2 ^ 9);
      c.get (F.CLE.LOAD_STATUS.LOOP 0) = 3 ∧ c.on (F.CLE.LOAD_STATUS.BUSY 0) = true ∧ c.on (fAdmitted 3) = true ∧
      c.on (fLoaded 3) = false ∧ c.get (fPair 3) = 0 ∧ c.loopsOn 0 = [3] ∧ c.isInner 3 = false ∧
      c.get (lf F.LPD.LPD_TRIG.TSRC 3) ≠ 6) := by
  unfold State.Lets; decide +kernel

/-- A device in which region 3 has pace `n` ÷ 16 WU/µs from its four sensors and is otherwise as `x`, and loop 7 on pair 12 needs
100 WU/µs there. -/
def paced (n : Nat) (x : RegionSt) : Chip :=
  ({ regions := [(3, { x with sensors := [(0, n), (1, n), (2, n), (3, n)], hist := [(n, 0)] })], admitted := [7],
     loops := [(7, { cost := 1000, span := [3] })] } : Chip) |>.set (fPair 7) 12 |>.wr (lpd 7 R.LPD.LPD_DEADLINE) 10025

theorem witness_RegionsAnswerPaceVoltageAndSkew :
    (3 : Fin 4).val < sensorCount 3 ∧
    (((paced 1650 {}).updRegion 3 fun x => { x with sensors := [(0, 1000), (1, 2000)] }).region 3).sensorsDiffer = true := by
  decide +kernel

theorem witness_RegionsAnswerPaceVoltageAndSkew_pace :
    (let c := (paced 1650 {}).raise F.LEASH.ADM_CFG.AUTO_VOLT;
      c.paceAtLeast 3 102 = true ∧ c.paceAtLeast 3 105 = false ∧ c.paceAtLeast 3 108 = false ∧
      c.on F.LEASH.ADM_CFG.AUTO_VOLT = true ∧ (c.region 3).migrating = false ∧
      ∀ h : Fin 12, (c.region h).step ≤ 1) ∧
    (let c := (paced 1650 { watch := true, rising := true, step := 1 }).raise F.LEASH.ADM_CFG.AUTO_VOLT;
      (c.region 3).rising = true ∧ c.on F.LEASH.ADM_CFG.AUTO_VOLT = true ∧ c.paceAtLeast 3 108 = false ∧
      c.get F.LEASH.VOLT_LIMIT.VMIN ≤ (c.region 3).target ∧ (c.region 3).target + 20 ≤ c.get F.LEASH.VOLT_LIMIT.VMAX ∧
      ∀ h ∈ crossRegions 3, (c.region 3).target ≤ (c.region h).target + 100) ∧
    (let c := paced 2000 { target := 830, preTarget := some 800 };
      c.voltFits 3 820 = true ∧ (c.region 3).target ≤ c.get F.LEASH.VOLT_LIMIT.VMAX ∧ (c.region 3).preTarget = some 800 ∧
      (c.region 3).step = 0 ∧ c.paceAtLeast 3 108 = true ∧ c.get F.LEASH.VOLT_LIMIT.VMIN ≤ 820) ∧
    (let c := { paced 2000 { okSince := some 9 } with admitted := [] };
      (c.region 3).okSince = some 9 ∧ c.paceAtLeast 3 108 = true ∧ c.admitted = []) ∧
    (let c := paced 2000 { temp := 900 };
      4 ∈ crossRegions 3 ∧ c.overLimit 3 4 = true ∧ ∀ l ∈ c.admitted, ¬(3 ∈ (c.loop l).span ∧ 4 ∈ (c.loop l).span)) ∧
    (Chip.inside90 {} 3 4 = true ∧ Chip.admitted {} = []) ∧ (unlocked {} 256).Lets .parallel R.LEASH.VOLT_LIMIT := by
  unfold State.Lets; decide +kernel

/-- A device whose pair 0 executes an iteration of loop 3 in slot 0 with a budget of `n` work units and 4 data words, 6 free, on
cores as `x`. -/
def executing (n : Nat) (x : CoreSt) : Chip :=
  ({ pairs := [(0, { a := x, b := x, run := some { loop := 3, slot := 0, trig := 5 } })], admitted := [3] } : Chip)
    |>.wr (win 0 (R.CLE.SLOT_COST 0)) (wd n) |>.set ((F.CLE.SLOT_DMEM.DLEN 0).win 0) 4 |>.raise (fAdmitted 3)

theorem witness_RoundingIsFloorOfHalfMore :
    (0 : Int) ≤ 3 ∧ (executing 1 {}).CanRun 0 .both 1 :=
  ⟨by decide, { loop := 3, slot := 0, trig := 5 }, by decide +kernel, by decide +kernel, by unfold PairSt.Each; decide +kernel⟩

theorem witness_ArithmeticSaturatesWithItsFlags : (executing 12 {}).CanRun 0 .both 12 ∧ (executing 12 {}).CanRun 0 .a 1 :=
  ⟨⟨{ loop := 3, slot := 0, trig := 5 }, by decide +kernel, by decide +kernel, by unfold PairSt.Each; decide +kernel⟩,
   ⟨{ loop := 3, slot := 0, trig := 5 }, by decide +kernel, by decide +kernel, by unfold PairSt.Each; decide +kernel⟩⟩

theorem witness_LogicSelectionAndComparisonWriteTheirResults : (executing 2 {}).CanRun 0 .b 2 :=
  ⟨{ loop := 3, slot := 0, trig := 5 }, by decide +kernel, by decide +kernel, by unfold PairSt.Each; decide +kernel⟩

theorem witness_CordicResultsAreRoundedValues :
    (executing 14 {}).CanRun 0 .both 14 :=
  ⟨{ loop := 3, slot := 0, trig := 5 }, by decide +kernel, by decide +kernel, by unfold PairSt.Each; decide +kernel⟩

theorem witness_LoadsAndStoresKeepToTheLoopsMemory :
    let c := executing 24 { w := [(1, 3)] }
    (c.executing 0 = some { loop := 3, slot := 0, trig := 5 } ∧ (c.pair 0).Each .both (fun x => x.getP 0 = true) ∧
      c.CanRun 0 .both 24 ∧
      (c.pair 0).Each .both (fun y => (0 : Int) ≤ y.val 1 + (0 : Int) ∧ y.val 1 + (0 : Int) < c.dlen 3 ∧ c.dbase 3 + 3 ∉ (c.pair 0).poison)) ∧
    (c.pair 0).Each .both (fun y => ¬(y.val 1 + (1 : Int) < c.dlen 3) ∧ ¬(y.val 1 + (1 : Int) < (c.loop 3).shmLen)) ∧
    ((c.updPair 0 fun x => { x with poison := [3] }).dbase 3 + 3 ∈ ((c.updPair 0 fun x => { x with poison := [3] }).pair 0).poison) ∧
    (let d := c.updLoop 3 fun x => { x with shmBase := 100, shmLen := 8 };
      (d.pair 0).Each .both (fun y => (0 : Int) ≤ y.val 1 ∧ y.val 1 < (d.loop 3).shmLen ∧ ∀ u ∈ y.list, u ≠ Entry.share 103 0)) ∧
    (c.pair 0).Each .both (fun y => (0 : Int) ≤ y.val 5 ∧ y.val 5 + 1 < c.dlen 3 ∧ y.getW 0 = 0 ∧ y.list = []) :=
  ⟨⟨by decide +kernel, by unfold PairSt.Each; decide +kernel,
      ⟨{ loop := 3, slot := 0, trig := 5 }, by decide +kernel, by decide +kernel, by unfold PairSt.Each; decide +kernel⟩,
      by unfold PairSt.Each; decide +kernel⟩,
    by unfold PairSt.Each; decide +kernel, by decide +kernel, by unfold PairSt.Each; decide +kernel,
    by unfold PairSt.Each; decide +kernel⟩

theorem witness_LoopsSkipsAndBudgetsOrderExecution :
    (executing 2 {}).CanRun 0 .both 2 ∧
    ((executing 2 {}).pair 0).Each .both (fun x => x.getP 0 = true ∧ x.getP 1 = false) ∧
    ((executing 2 {}).pair 0).Each .both (fun x =>
      x.getP 1 = false ∧ 2 = 2 + (0#12).toNat * (executing 2 {}).bodyCost 0 { loop := 3, slot := 0, trig := 5 } x.pc 7) ∧
    (let x : CoreSt := { pc := 9, frames := [{ first := 5, last := 9, left := 2 }, { first := 1, last := 20, left := 1 }] };
      x.frames = { first := 5, last := 9, left := 2 } :: [{ first := 1, last := 20, left := 1 }] ∧ x.pc = 9 ∧ 1 < 2) ∧
    (executing 0 {}).executing 0 = some { loop := 3, slot := 0, trig := 5 } ∧
    (executing 0 {}).slotCost 0 { loop := 3, slot := 0, trig := 5 } < ((executing 0 {}).pair 0).a.wu + 1 :=
  ⟨⟨{ loop := 3, slot := 0, trig := 5 }, by decide +kernel, by decide +kernel, by unfold PairSt.Each; decide +kernel⟩,
    by unfold PairSt.Each; decide +kernel, by unfold PairSt.Each; decide +kernel, by decide, by decide +kernel, by decide +kernel⟩

theorem witness_PortsAreReadWrittenAndAwaited :
    let r : RunSt := { loop := 3, slot := 0, trig := 5 }
    let c := executing 200 { p := [(1, false)] }
    let f := c.markFresh 3 0x1005
    let w := c.updRun 0 fun r => { r with wait := some (2, 0x1005, 99) }
    (c.executing 0 = some r ∧ r.phase = .plain ∧ r.recompute = false ∧ (c.pair 0).a.pc = (c.pair 0).b.pc ∧
      c.slotCost 0 r = 200 ∧ (c.pair 0).a.wu = 0 ∧ (c.pair 0).b.wu = 0) ∧
    ((c.pair 0).a.getP 0 = true ∧ (c.pair 0).b.getP 0 = true ∧ (c.pair 0).a.getP 1 = false ∧ (c.pair 0).b.getP 1 = false) ∧
    (portShared 5 = false ∧ portShared 0x1100 = true ∧ (portFresh 0x1005 && c.isFresh 3 0x1005 0) = false ∧
      (portFresh 0x1005 && f.isFresh 3 0x1005 0) = true ∧ portShared 0x1005 = false) ∧
    (portContinuous 0x400 = true ∧ sampleDiff 0x400 5 6 ≤ 2 ^ r.tol (F.PAIRCMP.CMP_CFG.IN_TOL_K 0) ∧ (c.pair 0).acting .both 0 = some .both ∧ (c.pair 0).acting .both 1 = none ∧
      (portFresh 0x400 && c.isFresh 3 0x400 0) = false ∧ portContinuous 0x1005 = false) ∧
    ((c.pair 0).a.getP 0 ≠ (c.pair 0).b.getP 1 ∧ (c.pair 0).a.getW 4 = (c.pair 0).b.getW 4) ∧
    ((w.pair 0).run = some { r with wait := some (2, 0x1005, 99) } ∧ (w.markFresh 3 0x1005).isFresh 3 0x1005 0 = true) := by
  decide +kernel

theorem witness_EndCommitsTheIterationAsOne :
    let r : RunSt := { loop := 3, slot := 0, trig := 5 }
    let c := executing 9 { list := [.store 1 7, .out 0x1004 8, .flag 0] }
    let d (a b : CoreSt) : Chip := { executing 9 {} with pairs := [(0, { a := a, b := b, run := some r })] }
    let e : Effect := { loop := 3, pair := 0, epoch := 0, target := 9, shared := true, val := 5 }
    (c.executing 0 = some r ∧ max c.st 4 ≤ c.deadlineAt 3 5 ∧ (c.pair 0).a.pc = (c.pair 0).b.pc ∧
      (c.pair 0).a.wu + 4 ≤ c.slotCost 0 r ∧ (c.pair 0).b.wu + 4 ≤ c.slotCost 0 r ∧ c.loopsOn 0 = [3] ∧ (c.loop 3).ready = none ∧
      (c.loop 3).mig = none ∧ c.on (lf F.LPD.LPD_SDOG.EN 3) = false ∧ c.on (lf F.LPD.LPD_CASC.EN 3) = false ∧
      (c.pair 0).a.list = (c.pair 0).b.list ∧ (c.pair 0).a.memRej = none) ∧
    (((d { memRej := some 2 } {}).pair 0).a.memRej = some 2 ∧ (d { memRej := some 2 } {}).executing 0 = some r) ∧
    (((d { list := [.store 1 7] } { list := [.store 1 8] }).pair 0).b.list = [.store 1 8]) ∧
    (c.deadlineAt 3 5 < max c.st 6 ∧ c.get (fPair 3) = 0) ∧
    (let f : Chip := { c with effects := [e] };
      f.effects = [e] ∧ e.epoch = f.get (fEpoch e.loop) ∧ f.marchSlice = none ∧ f.marchStand = none) ∧
    ({ e with shared := false, target := 0x1007 } : Effect).target = 0x1000 + 7 ∧
    ({ e with epoch := 3 } : Effect).epoch ≠ c.get (fEpoch 3) := by
  decide +kernel

theorem witness_LoopCommandsWaitForTheBoundary :
    let a := R.LPD.LPD_CMD + 2 * 0x1000
    let c : Chip := ({ admitted := [3] } : Chip) |>.wr (R.LPD.LPD_SEL + 2 * 0x1000) 3 |>.raise (fAdmitted 3) |>.raise (fLoaded 3);
    let d (st : Nat) : State := unlocked (c.set (fState 3) st) (pageNo a)
    let host : Chip := (c.set (fState 3) lsClosed).set (lf F.LPD.LPD_TRIG.TSRC 3) 6;
    ((d lsOpen).Lets .parallel a ∧ c.lpdSel 2 = 3 ∧ (d lsOpen).chip.get (lf F.LPD.LPD_TRIG.TSRC 3) ≠ 6 ∧
      ((d lsOpen).chip.loop 3).held = false ∧ (d lsOpen).chip.get (fState 3) = lsOpen ∧ (d lsOpen).chip.on (fLoaded 3) = true ∧
      (d lsOpen).chip.on (fAdmitted 3) = true ∧ (d lsOpen).chip.blocksOk 3 = true) ∧
    ((d lsClosed).Lets .parallel a ∧ (d lsClosed).chip.get (fState 3) = lsClosed ∧ (d lsHold).chip.get (fState 3) = lsHold ∧
      (d lsFault).chip.get (fState 3) = lsFault) ∧
    ((c.updLoop 3 fun x => { x with held := true }).loop 3).held = true ∧
    ((unlocked host (pageNo a)).Lets .parallel a ∧ host.get (lf F.LPD.LPD_TRIG.TSRC 3) = 6 ∧ host.busyLoop 3 = false ∧
      (host.loop 3).lastTrig = none ∧ (host.loop 3).cmd = none ∧ (host.loop 3).withdraw = false ∧ (host.loop 3).mig = none ∧
      host.get (lf F.LPD.LPD_SPSRC.SRC 3) = 0 ∧ host.outerOf 3 = none ∧ host.loopsOn (host.get (fPair 3)) = [3] ∧
      (host.pair 0).run = none ∧ host.get (F.PAIRCMP.STATUS.STATE 0) ≠ psSuspect) ∧
    ((c.set (lf F.LPD.LPD_SPSRC.SRC 3) 2).get (lf F.LPD.LPD_SPSRC.SRC 3) ≠ 0) ∧
    (unlocked {} (pageNo (R.PAIRCMP.CMP_CFG 4))).Lets .parallel (R.PAIRCMP.CMP_CFG 4) := by
  unfold State.Lets; decide +kernel

theorem witness_TriggersDeadlinesAndSignaturesRun :
    let c : Chip := ({ admitted := [3], loops := [(3, { lastTrig := some 100 })] } : Chip) |>.raise (fAdmitted 3)
      |>.wr (lpd 3 R.LPD.LPD_PERIOD) 1000 |>.set (fState 3) lsClosed |>.set (lf F.LPD.LPD_TRIG.TSRC 3) 1;
    let late := c.event evPg 0 0 25700
    let early := c.event evPg 0 0 200
    let d : Chip := executing 9 {}
    (onGrid 1000 0 5 = false ∧ c.on (fAdmitted 3) = true ∧ c.get (lf F.LPD.LPD_TRIG.TSRC 3) = 1 ∧ (c.loop 3).lastTrig = some 100 ∧
      200 < 100 + c.period 3 * 128 / 5 ∧ 100 + c.period 3 * 128 / 5 ≤ 25700 ∧ c.busyLoop 3 = false ∧ (c.loop 3).cmd = none ∧
      (c.loop 3).withdraw = false ∧ (c.loop 3).mig = none ∧ (c.loop 3).sdOpen = false ∧ c.outerOf 3 = none ∧
      c.loopsOn (c.get (fPair 3)) = [3] ∧ (c.pair (c.get (fPair 3))).run = none ∧
      c.get (F.PAIRCMP.STATUS.STATE (c.get (fPair 3))) ≠ psSuspect) ∧
    (late.eventAt evPg (c.get (lf F.LPD.LPD_TRIG.TINST 3)) (c.get (lf F.LPD.LPD_TRIG.TEVT 3)) 25700 = true ∧
      early.eventAt evPg (c.get (lf F.LPD.LPD_TRIG.TINST 3)) (c.get (lf F.LPD.LPD_TRIG.TEVT 3)) 200 = true ∧
      late.on (fAdmitted 3) = true ∧ late.loopsOn (late.get (fPair 3)) = [3] ∧ late.outerOf 3 = none) ∧
    (d.on (fAdmitted 3) = true ∧ (d.pair (d.get (fPair 3))).run = some { loop := 3, slot := 0, trig := 5 } ∧
      d.loopsOn (d.get (fPair 3)) = [3] ∧ (d.loop 3).ready = none) ∧
    ({ dmemA := [(4, 1)] } : PairSt).differs = some (4, 1) := by
  decide +kernel

/-- A device whose pair 0 waits for the one input of its run-ahead loop 3, fresh at mailbox word 5. -/
def aheadChip : Chip :=
  ({ pairs := [(0, { a := { list := [.out 0x1006 5] }, b := { list := [.out 0x1006 5] }
                     run := some { loop := 3, slot := 0, trig := 5, phase := .inputWait }
                     dmemA := [(0, 0x1005), (4, 100), (12, 0x1006)], dmemB := [(0, 0x1005), (4, 100), (12, 0x1006)] })]
     admitted := [3] } : Chip)
    |>.wr (win 0 (R.CLE.SLOT_COST 0)) 100 |>.set ((F.CLE.SLOT_DMEM.DLEN 0).win 0) 40 |>.raise (fAdmitted 3)
    |>.raise (lf F.LPD.LPD_RA.EN 3) |>.set (lf F.LPD.LPD_RA.WAIT 3) 9 |>.wr (lpd 3 R.LPD.LPD_DEADLINE) 9000 |>.markFresh 3 0x1005

theorem witness_RunAheadAndMigrationAnswer :
    let r : RunSt := { loop := 3, slot := 0, trig := 5, phase := .inputWait }
    let c := aheadChip
    let x : LoopSt := { mig := some (1, 2), migBlk := (0, 0, 0), migDirty := [2] }
    let m (k : Nat) : Chip := ({ bundled with loops := [(3, { x with migStep := k })], admitted := [3] } : Chip)
      |>.raise (fLoaded 3) |>.raise (F.CLE.CTRL.EN 1)
    ((c.pair 0).run = some r ∧ c.nin 3 = 1 ∧ c.nout 3 = 1 ∧ c.isFresh 3 ((c.raWord 3 0).toNat % 2 ^ 14) 0 = true ∧
      7 ≤ c.raLimit r ∧ max c.st (max 7 (max 8 9)) ≤ c.deadlineAt 3 r.trig ∧ (c.pair 0).a.wu + 2 + 6 ≤ c.slotCost 0 r ∧ c.loopsOn 0 = [3] ∧ (c.loop 3).ready = none ∧
      (((c.portVal 0x1005).toInt - (r.pred.getD 0 0).toInt).natAbs ≤ (c.raWord 3 4).toNat % 2 ^ 31) ∧
      (c.raWord 3 12).toNat % 2 ^ 14 = 0x1006 ∧ c.on (lf F.LPD.LPD_SDOG.EN 3) = false ∧ c.on (lf F.LPD.LPD_CASC.EN 3) = false ∧
      c.get (lf F.LPD.LPD_OPEN.MISS_MAX 3) = 0) ∧
    (¬(({ c with mailbox := [(5, 500)] }.portVal 0x1005).toInt - (r.pred.getD 0 0).toInt).natAbs ≤ (c.raWord 3 4).toNat % 2 ^ 31) ∧
    (((m 0).loop 3).mig = some (1, 2) ∧ (m 0).get (fPair 3) = 0 ∧ (m 0).on (fLoaded 3) = true ∧
      ((m 0).reqOf 3).any ((m 0).destOk · 1) = true) ∧
    (((m 1).loop 3).migStep = 1 ∧ (m 1).busyLoop 3 = false) := by
  decide +kernel

theorem witness_SelfTestsJudgeThePairs :
    let t (cause : Nat) (old : List Nat) : Chip :=
      ({ pairs := [(2, { cause := cause, transients := old })], st := 100 } : Chip).set (F.PAIRCMP.STATUS.STATE 2) psTest
    let hot : Chip := (t 1 []).updRegion (regionOf 2) fun x => { x with capped := true }
    let ready : Chip := ({ phase := .ready } : Chip).raise (bitOf R.BIST.CTRL 8);
    ((t 2 []).get (F.PAIRCMP.STATUS.STATE 2) = psTest ∧ (t 2 []).regionInRange (regionOf 2) = true ∧
      ((t 2 []).pair 2).cause = cauMismatch ∧ ((t 3 [50]).pair 2).transients.filter (fun x => (t 3 [50]).st < x + 600 * Config.sec) ≠ []) ∧
    (((t 1 []).pair 2).cause ≠ cauMismatch ∧ ((t 1 []).pair 2).cause ≠ cauLatent) ∧
    (hot.get (F.PAIRCMP.STATUS.STATE 2) = psTest ∧ hot.regionInRange (regionOf 2) = false ∧ (hot.pair 2).lastSlice = none ∧
      ((hot.updPair 2 fun x => { x with lastSlice := some 90 }).pair 2).lastSlice = some 90 ∧ hot.st < 90 + 200 * Config.us) ∧
    ((unlocked {} (pageNo (R.PAIRCMP.CTRL 2))).Lets .parallel (R.PAIRCMP.CTRL 2) ∧ Chip.loopsOn {} 2 = [] ∧
      Chip.get {} (F.PAIRCMP.STATUS.STATE 2) = psIdle) ∧
    (ready.on (bitOf R.BIST.CTRL 8) = true ∧ ready.rolling = none ∧ ready.nextRolling = some 0 ∧
      ready.regionInRange (regionOf 0) = true ∧ ready.loopsOn 0 = [] ∧ ready.rollLate = true ∧
      ({ ready with pairs := (List.range 36).map fun k => (k, { lastPass := some 0 }) } : Chip).rollLate = false) ∧
    ((unlocked { retiredNv := [7] } (pageNo R.BIST.RETIRE_CLR)).Lets .parallel R.BIST.RETIRE_CLR ∧
      Chip.on {} (hState R.ISN.ID) = false ∧ Chip.on (Chip.set {} (hState R.ISN.ID) 1) (hState R.ISN.ID) = true) := by
  unfold State.Lets; decide +kernel

theorem witness_ChecksMarchesAndScansLeaveDataWhole :
    let ana : Chip := (Chip.raise {} (bitOf R.BIST.CTRL 10)).raise (bitOf R.BIST.ANA_CFG 1)
    let safe : Chip := (Chip.raise {} F.SAFE.STO_STAT.CUT_A).raise F.SAFE.STO_STAT.CUT_B
    let march : Chip := Chip.raise { shm := [(2, 7), (1030, 9)] } (bitOf R.BIST.CTRL 9)
    let run : Chip := { march with marchSlice := some 1, marchBuf := [(6, 9)] };
    (ana.on (bitOf R.BIST.CTRL 10) = true ∧ ana.on (bitOf R.BIST.ANA_CFG 1) = true ∧ ana.on (hEn (R.CMPG.ID 0)) = false ∧
      ana.get ⟨R.BIST.ANA_STATUS, 8, 8⟩ = 0) ∧
    (march.on (bitOf R.BIST.CTRL 9) = true ∧ march.marchSlice = none ∧ march.marchStand = none ∧ Memory.wf march.shm = true) ∧
    (run.marchSlice = some 1 ∧ Memory.wf run.shm = true ∧ Memory.wf run.marchBuf = true ∧ ∀ e ∈ run.marchBuf, e.1 < 1024) ∧
    (safe.safeSto = true ∧ (Chip.set safe (hState R.ISN.ID) 1).safeSto = false ∧ (safe.part 0).queue.length < queueLen 0) ∧
    (({ scanStep := 1 } : Chip).part 0).queue = [] := by
  decide +kernel

theorem witness_ConverterAdmissionFollowsItsTest :
    let good : Chip := ({ phase := .ready } : Chip) |>.wr (R.ADC.EPER 2 3) 100000 |>.wr (R.ADC.EDL 2 3) 90000
      |>.set (F.ADC.ECONV.SW 2 3) 10 |>.set (F.ADC.ETRIG.TSRC 2 3) 5
    let d (op : Nat) (x : AdcEntry) : Chip := { good with adcs := [(2, { adm := some (op, 3), entries := [(3, x)] })] };
    ((unlocked {} (pageNo (R.ADC.ADM_CMD 2))).Lets .parallel (R.ADC.ADM_CMD 2) ∧ (Chip.adc {} 2).adm = none) ∧
    ((∀ n : Fin 16, good.on (F.THERM.NTC_SRC.VALID n) = false) ∧ ((d 1 {}).adc 2).adm = some (1, 3) ∧ (d 1 {}).adcTest 2 3 = 0 ∧
      (d 1 {}).phase = .ready ∧ ((d 1 {}).set (F.ADC.ECONV.SW 2 3) 4).adcParamsOk 2 3 = false ∧
      ((d 1 {}).raise (bitOf (R.ADC.ADMITTED 2) 3)).adcParamsOk 2 3 = true) ∧
    (((d 2 {}).raise (bitOf (R.ADC.ADMITTED 2) 3)).on (bitOf (R.ADC.ADMITTED 2) 3) = true ∧ ((d 2 {}).adc 2).busy 3 = false ∧
      ((d 2 { pend := some (1, 2) }).adc 2).busy 3 = true) ∧
    ((((d 0 { withdraw := true }).adc 2).entry 3).withdraw = true ∧ ((d 0 { withdraw := true }).adc 2).busy 3 = false) := by
  unfold State.Lets; decide +kernel

theorem witness_ConversionsRunFromTriggerToResult :
    let on : Chip := (Chip.raise { st := 50 } (F.ADC.CTRL.EN 2)).raise (bitOf (R.ADC.ADMITTED 2) 3)
    let q : Chip := (on.set (F.ADC.ETRIG.TSRC 2 3) 4).event evMbx 0 0 60
    let u : Chip := q.raise (F.ADC.ECONV.URGENT 2 3)
    let host : Chip := on.set (F.ADC.ETRIG.TSRC 2 3) 5
    let r : AdcRun := { entry := 3, event := 7, start := 8, hold := 9, startup := false }
    let waits : Chip := { q with adcs := [(2, { entries := [(3, { pend := some (5, 60) })] })] };
    (Chip.get {} (F.ADC.ETRIG.TSRC 2 3) = 0 ∧ q.get (F.ADC.ETRIG.TSRC 2 3) = 4 ∧
      q.eventAt evMbx (q.get (F.ADC.ETRIG.TINST 2 3)) 0 60 = true ∧ q.on (F.ADC.CTRL.EN 2) = true ∧
      q.on (bitOf (R.ADC.ADMITTED 2) 3) = true ∧ ((q.adc 2).entry 3).last = none ∧ (q.adc 2).busy 3 = false ∧ q.urgent 2 3 = false ∧
      u.urgent 2 3 = true ∧ u.eventAt evMbx (u.get (F.ADC.ETRIG.TINST 2 3)) 0 60 = true ∧ (u.adc 2).run = none ∧
      ({ u with adcs := [(2, { run := some { r with entry := 4 } })] }.adc 2).busy 3 = false) ∧
    (onGrid (Chip.rd {} (R.ADC.EPER 2 3)).toNat 0 0 = true ∧ (Chip.event {} evCmp 1 2 60).eventAt evCmp 1 2 60 = true) ∧
    ((unlocked host (pageNo (R.ADC.HOST_TRIG 2))).Lets .parallel (R.ADC.HOST_TRIG 2) ∧ host.get (F.ADC.ETRIG.TSRC 2 3) = 5 ∧
      host.urgent 2 3 = false ∧ ((host.adc 2).entry 3).last = none ∧ host.on (F.ADC.CTRL.EN 2) = true) ∧
    ((waits.adc 2).run = none ∧ ((waits.adc 2).entry 3).pend = some (5, 60) ∧ ((waits.adc 2).entries.length = 1) ∧
      waits.on (F.ADC.CTRL.AWAKE 2) = false ∧ (waits.adc 2).cold = true ∧ 60 + 640 ≤ max (waits.adc 2).freeAt (60 + 640)) ∧
    (let w : Chip := { q with adcs := [(2, { run := some r })] };
      (w.adc 2).run = some r ∧ (∀ n : Fin 16, w.on (F.THERM.NTC_SRC.VALID n) = false) ∧
      (∀ k : Fin 6, w.osState k = osOff) ∧ (∀ q : Fin 16, w.on (F.CHGSEQ.CTRL.EN q) = false) ∧ w.isn.holdRef = none) := by
  unfold State.Lets; decide +kernel

theorem witness_ComparatorsDecideLatchAndClear :
    let on : Chip := (Chip.raise {} (F.CMPG.CTRL.EN 2)).raise (F.CMPG.CCFG.CEN 2 3)
    let settling : Chip := on.raise (fSettling 2 3)
    let ready : Chip := { on with cmps := [(19, { high := true, hysOn := true })] }.raise (fLive 2 3)
    let blanked : Chip := { ready with cmps := [(19, { high := true, hysOn := true, blankEnd := some 70 })] }
    let win : Chip := { (on.raise (F.CMPG.CCFG.CEN 2 2)).raise (bitOf (R.CMPG.WCFG 2) 2) with
      cmps := [(18, { hysOn := true }), (19, { high := true, hysOn := true })] };
    ((∀ k : Fin 40, on.on (F.TRIP.SCP.EN k) = false) ∧ (unlocked on (pageNo (R.CMPG.CTRL 2))).Lets .parallel (R.CMPG.CTRL 2) ∧
      on.on (F.CMPG.CTRL.EN 2) = true ∧ on.on (F.CMPG.CCFG.CEN 2 3) = true ∧ Chip.on {} (F.CMPG.CTRL.EN 2) = false) ∧
    (settling.cmpOn 2 3 = true ∧ settling.on (fSettling 2 3) = true ∧ settling.winOn 2 3 = false) ∧
    (settling.cmpReady 2 3 = false ∧ ready.cmpReady 2 3 = true ∧ ready.winOn 2 3 = false ∧
      ∀ j : Fin 8, ready.on (fLive 2 j) = ready.liveOf 2 j) ∧
    (win.winOn 2 (2 * 1) = true ∧ win.cmpReady 2 (2 * 1) = true ∧ win.cmpReady 2 (2 * 1 + 1) = true ∧
      win.on (fSettling 2 (2 * 1 + 1)) = false) ∧
    ((blanked.cmp 2 3).blankEnd = some 70 ∧ ∀ j : Fin 8, blanked.on (fLive 2 j) = blanked.liveOf 2 j) ∧
    ((unlocked on (pageNo (R.CMPG.LATCH_CLR 2))).Lets .parallel (R.CMPG.LATCH_CLR 2)) ∧
    ((unlocked on (pageNo (R.CMPG.CCFG 2 3))).Lets .parallel (R.CMPG.CCFG 2 3) ∧ on.rd (R.CMPG.CCFG 2 3) &&& 0xFFFFC000#32 = 0#32 ∧
      Chip.on {} (F.CMPG.CCFG.CEN 2 3) = false ∧ bits 0x13#32 1 13 ≠ bits (on.rd (R.CMPG.CCFG 2 3)) 1 31 ∧ bits 0x681#32 4 7 = 104) := by
  unfold State.Lets; decide +kernel

theorem witness_DacCodesFollowTheirSource :
    let src (n : Nat) : Chip := Chip.set {} (F.DAC.DCFG.SRC 2) n;
    ((unlocked (src 1) (pageNo (R.DAC.DCODE 2))).Lets .parallel (R.DAC.DCODE 2) ∧ (src 1).get (F.DAC.DCFG.SRC 2) = 1 ∧
      (src 1).on (hEn R.DAC.ID) = false ∧ ((src 1).raise (hEn R.DAC.ID)).on (hEn R.DAC.ID) = true ∧
      (src 2).get (F.DAC.DCFG.SRC 2) ≠ 1) ∧
    (((src 3).raise (hEn R.DAC.ID)).get (F.DAC.DCFG.SRC 2) = 3 ∧ ((src 3).raise (hEn R.DAC.ID)).on (hEn R.DAC.ID) = true ∧
      (∀ e ∈ (src 3).cmps, e.1 < 96) ∧ ∀ (g : Fin 12) (i : Fin 8), (src 3).cmpReady g i = true → (src 3).cmpInput g i ≠ 96 + 2) ∧
    (let c : Chip := (((({ cmps := [(19, { hysOn := true })] } : Chip).raise (F.CMPG.CTRL.EN 2)).raise (F.CMPG.CCFG.CEN 2 3)).set
        (F.CMPG.CCFG.INSEL 2 3) 98).raise (hEn R.DAC.ID);
      (∀ e ∈ c.cmps, e.1 < 96) ∧ (∀ k : Fin 40, c.on (F.TRIP.SCP.EN k) = false) ∧ c.cmpReady 2 3 = true ∧ c.winOn 2 3 = false ∧
        c.cmpInput 2 3 = 96 + 2) := by
  unfold State.Lets; decide +kernel

/-- Leg 30 enabled, with line 5 forced by software and acting on it with `act`. -/
def lineChip (act : Nat) : Chip :=
  ((Chip.raise {} (F.PG.CTRL.EN 30)).clr F.SAFE.STO_STAT.CUT_B).raise (bitOf R.TRIP.SW_FORCE 5)
    |>.set ⟨R.TRIP.LACT0 5 + 4 * (30 / 16), 2 * (30 % 16), 2⟩ act
theorem witness_TripLinesForceTheirLegs :
    let live : Chip := (lineChip 1).raise (bitOf R.TRIP.LINE_ACTIVE 5)
    let gone : Chip := live.clr (bitOf R.TRIP.SW_FORCE 5)
    let trip : Chip := { ((lineChip 0).clr (bitOf R.TRIP.SW_FORCE 5)) with pgs := [(30, { tripped := true })] };
    ((lineChip 2).on (bitOf R.TRIP.LINE_ACTIVE 5) = false ∧ (lineChip 2).driven 5 = true ∧
      (∀ q : Fin 16, (lineChip 2).on (F.CHGSEQ.CTRL.EN q) = false) ∧ (lineChip 2).lineAction 5 30 = 2 ∧ (lineChip 2).legState 30 = lgRun ∧
      ((lineChip 2).pg 30).lowAt = none ∧ ((lineChip 2).pg 30).dtHl ≠ 0 ∧ (lineChip 1).lineAction 5 30 = 1 ∧
      (lineChip 3).lineAction 5 30 = 3) ∧
    (gone.on (bitOf R.TRIP.LINE_ACTIVE 5) = true ∧ gone.driven 5 = false ∧ gone.lineAction 5 30 ≠ 0 ∧ gone.legState 30 = lgForced ∧
      (gone.pg 30).isn = none ∧ gone.scForced 30 = false ∧ gone.on (F.TRIP.LCFG.RESUME 5) = false ∧
      (gone.raise (F.TRIP.LCFG.RESUME 5)).on (F.TRIP.LCFG.RESUME 5) = true) ∧
    ((unlocked live (pageNo (R.PG.CTRL 30))).Lets .parallel (R.PG.CTRL 30) ∧ live.lineActions 30 ≠ [] ∧ trip.lineActions 30 = [] ∧
      (trip.pg 30).isn.isSome = false ∧ (Tab.find trip.scResp (trip.groupOf 30)).isSome = false ∧ trip.legState 30 = lgTripped) ∧
    ((unlocked live (pageNo (R.PG.HFORCE 30))).Lets .parallel (R.PG.HFORCE 30) ∧
      (unlocked live (pageNo R.TRIP.SW_FORCE)).Lets .parallel R.TRIP.SW_FORCE) := by
  unfold State.Lets; decide +kernel

theorem witness_ShortCircuitPairsAndResponses :
    let base : Chip := (lineChip 1).set (F.CMPG.CTRIP.LINE 1 0) 5 |>.raise (F.CMPG.CTRIP.LINE_EN 1 0)
      |>.set (F.CMPG.CTRIP.LINE 1 1) 5 |>.raise (F.CMPG.CTRIP.LINE_EN 1 1) |>.set (F.CMPG.CBLANK.BLANK_LEG 1 0) 30
      |>.set (F.CMPG.CBLANK.BLANK_T 1 0) 100 |>.wr (R.CMPG.CTH 1 0) 700 |>.wr (R.CMPG.CTH 1 1) 800
    let v : Word := wd (8 + 9 * 2 ^ 7 + 30 * 2 ^ 14 + 512 * 2 ^ 20)
    let stored : Chip := base.wr (R.TRIP.SCP 3) v
    let ev : Chip := { scEvents := [{ group := 38, leg := 30, ts := 10, link := none, used := false }] }
    let resp (done : Bool) : Chip := { lineChip 0 with
      scResp := [(38, { tb := 10, high := true, low := false, done := done })], pgs := [(30, { tripped := true })] };
    ((unlocked base (pageNo (R.TRIP.SCP 3))).Lets .parallel (R.TRIP.SCP 3) ∧ base.on (F.TRIP.SCP.EN 3) = false ∧
      bits (base.rd (R.TRIP.SCP 3)) 0 31 ≠ bits v 0 31 ∧ stored.scpHolds (v ||| 0x80000000#32) = true ∧
      bits (stored.rd (R.TRIP.SCP 3)) 0 31 = bits (v ||| 0x80000000#32) 0 31 ∧ Chip.scpHolds {} 0x80000000#32 = false) ∧
    (ev.scEvents.find? (fun x => x.leg == (30 : Fin 40).val && !x.used) = some { group := 38, leg := 30, ts := 10, link := none, used := false }) ∧
    (Tab.find (resp false).scResp ((resp false).groupOf 30) = some { tb := 10, high := true, low := false, done := false } ∧
      (resp false).speedAbove 0 ((resp false).get (F.TRIP.GRP_SC.UCG_SPEED 0)) = true ∧ (resp false).LegUp 30 ∧
      ((resp true).pg 30).tripped = true ∧
      Tab.find (resp true).scResp ((resp true).groupOf 30) = some { tb := 10, high := true, low := false, done := true }) := by
  unfold State.Lets Chip.LegUp; decide +kernel

/-- Leg 30 enabled, out of STO, master of a group of its own. -/
def legChip (x : PgSt) : Chip :=
  { ((Chip.raise { phase := .ready, st := 50 } (F.PG.CTRL.EN 30)).clr F.SAFE.STO_STAT.CUT_B) with pgs := [(30, x)] }
theorem witness_LegsEnableDisableAndSwitch :
    let off : Chip := { phase := .ready, st := 50 }
    let e : PlanEdge := { from_ := 60, at_ := 70, high := true, on := true, drop := false }
    let two : Chip := ((legChip { master := true, next := 90 }).raise (F.PG.CTRL.EN 31)).set (F.PG.PGCFG.GROUP 30) 2
      |>.set (F.PG.PGCFG.GROUP 31) 2 |>.raise (F.PG.PGCFG.GRP_EN 30) |>.raise (F.PG.PGCFG.GRP_EN 31)
    let both : Chip := ((legChip { master := true, plan := [e] }).raise (F.PG.PG_STAT.LS_CMD 30)).raise (F.PG.STATUS.LS 30);
    ((unlocked off (pageNo (R.PG.CTRL 30))).Lets .parallel (R.PG.CTRL 30) ∧ off.on (F.PG.CTRL.EN 30) = false ∧ off.masterOf 30 = none ∧
      (unlocked {} (pageNo (R.PG.CTRL 30))).Lets .parallel (R.PG.CTRL 30) ∧ (legChip {}).on (F.PG.CTRL.EN 30) = true) ∧
    (({ two with pgs := [(31, { master := true, enAt := 3 })] }.clr (F.PG.CTRL.EN 30)).masterOf 30 = some 31) ∧
    ((two.pg 30).master = true ∧ ((two.groupOn 30).filter fun k => k != (30 : Fin 40).val).head? = some 31) ∧
    (((legChip {}).pg 30).plan = [] ∧ (legChip {}).lowDue 30 = none ∧ (legChip { plan := [e] }).lowDue 30 = none ∧
      (legChip { plan := [e] }).legState 30 = lgRun ∧ (legChip { master := true, plan := [e] }).groupOn 30 = [(30 : Fin 40).val]) ∧
    (both.lowDue 30 = none ∧ both.legState 30 = lgRun ∧ both.on (F.PG.STATUS.LS 30) = both.on (F.PG.PG_STAT.LS_CMD 30) ∧
      both.on (F.PG.STATUS.HS 30) = both.on (F.PG.PG_STAT.HS_CMD 30) ∧ both.on (F.PG.PG_STAT.HS_CMD 30) ≠ e.on) := by
  unfold State.Lets; decide +kernel

theorem witness_PeriodPointsPutValuesInForce :
    let m : Chip := legChip { master := true, joined := true, next := 1000000, tk := 10, len := 900000 }
    let req : Chip := Chip.raise { m with shadow := [(R.PG.PERIOD 30, 640000#32), (R.PG.DUTY 30, 1#32)] } (hCommitReq (R.PG.ID 30));
    ((∀ k : Fin 8, m.on (F.CONV.CTRL.EN k) = false) ∧ m.on (F.PG.CTRL.EN 30) = true ∧ (m.pg 30).master = true ∧
      Chip.on {} (F.PG.CTRL.EN 30) = false ∧ m.groupOn 30 = [(30 : Fin 40).val] ∧ m.st + 5120 ≤ (m.pg 30).next ∧
      m.st + 5120 ≤ (m.pg 30).tk + (m.pg 30).len / 2 ∧ m.on (hCommitReq (R.PG.ID 30)) = false) ∧
    ((∀ k : Fin 8, req.on (F.CONV.CTRL.EN k) = false) ∧ req.on (hCommitReq (R.PG.ID 30)) = true ∧ req.inGroup (R.PG.ID 30) = false ∧
      req.heldLeg 30 = false ∧ req.get (F.PG.PGCFG.UPD 30) ≠ 1 ∧ Tab.rising none req.shadow = true ∧
      Tab.find req.shadow (R.PG.PERIOD 30) = some 640000#32) ∧
    (m.groupRuns 30 = true ∧ (∀ k ∈ m.groupOn 30, (m.pg k).joined = true → m.on (F.PG.PG_STAT.HALF k) = false) ∧ m.ganged 30 = false ∧ (m.pg 30).tk + (m.pg 30).len / 2 < (m.pg 30).next) := by
  decide +kernel

theorem witness_PositionCountsCapturesAndCompares :
    let inc : Chip := Chip.raise { pfus := [(2, { m := 7, aAt := some 40, step := 1 })] } (F.PFU.CTRL.EN 2)
    let hall : Chip := (Chip.raise { pfus := [(2, { sector := some 0 })] } (F.PFU.CTRL.EN 2)).set (F.PFU.PFCFG.INTYPE 2) 1
    let cmp : Chip := (inc.raise (F.PFU.CMPE_CFG.EN 2 0)).wr (R.PFU.CMPE_POS 2 0) 1;
    (inc.isn.holdRef = none ∧ inc.on (F.PFU.CTRL.EN 2) = true ∧ inc.get (F.PFU.PFCFG.INTYPE 2) = 0 ∧ Chip.on {} (F.PFU.CTRL.EN 2) = false ∧
      (inc.pfu 2).levels = (false, false) ∧ (inc.pfu 2).aAt = some 40 ∧ (inc.pfu 2).step = 1 ∧ (inc.pfu 2).bAt = none ∧ (inc.pfu 2).m < bits (inc.rd (R.PFU.CPR 2)) 0 24 ∧
      (inc.raise (F.PFU.PFCFG.CNTMODE 2)).on (F.PFU.PFCFG.CNTMODE 2) = true ∧
      (inc.rd (R.PFU.COUNT 2)).toNat < bits (inc.rd (R.PFU.CPR 2)) 0 24) ∧
    (cmp.entryArmed 2 0 = true ∧ cmp.get (F.PFU.CMPE_CFG.DIR 2 0) ≠ 1 ∧ cmp.rd (R.PFU.CMPE_POS 2 0) = cmp.rd (R.PFU.COUNT 2) + 1#32 ∧
      (cmp.raise (F.PFU.CMPL_CFG.SEQ 2)).entryArmed 2 0 = true ∧ ∀ e : Fin 64, inc.entryArmed 2 e = false) ∧
    (hall.isn.holdRef = none ∧ hall.get (F.PFU.PFCFG.INTYPE 2) = 1 ∧ hall.on (F.PFU.CTRL.EN 2) = true ∧ (hall.pfu 2).sector = some 0 ∧
      [1, 3, 2, 6, 4, 5].getD 1 0 = (3#3).toNat ∧ (Chip.pfu {} 2).sector = none) ∧
    ((inc.set (F.PFU.PFCFG.ZACT 2) 2).get (F.PFU.PFCFG.ZACT 2) = 2 ∧ inc.on (F.PFU.PFU_STAT.ZSEEN 2) = false ∧ (inc.pfu 2).pulse = none ∧
      (Chip.pfu { pfus := [(2, { pulse := some 9 })] } 2).pulse = some 9) ∧
    ((unlocked inc (pageNo (R.PFU.CTRL 2))).Lets .parallel (R.PFU.CTRL 2) ∧ bits (inc.rd (R.PFU.CTRL 2)) 8 1 = 0 ∧
      bits (inc.rd (R.PFU.CTRL 2)) 10 1 = 0 ∧ (unlocked inc (pageNo (R.PFU.CMPL_CFG 2))).Lets .parallel (R.PFU.CMPL_CFG 2)) := by
  unfold State.Lets; decide +kernel

theorem witness_FramesMissesAndTheObserver :
    let good : Chip := ((Chip.wr {} (R.PFU.OBS_L 2 0) 1).wr (R.PFU.OBS_L 2 1) 1).wr (R.PFU.OBS_L 2 2) 1
    let ssi (f : Option Nat) : Chip := (Chip.raise { pfus := [(2, { frame := f })] } (F.PFU.CTRL.EN 2)).set (F.PFU.PFCFG.INTYPE 2) 2
      |>.set (F.PFU.STATUS.STATE 2) osAcquiring
    let rs : Chip := { pfus := [(2, { sines := [(5, 7)] })] }
    let inc (seeded : Bool) : Chip := Chip.set { pfus := [(2, { seeded := seeded, last := 5 })] } (F.PFU.STATUS.STATE 2) osAcquiring;
    ((unlocked good (pageNo (R.PFU.CTRL 2))).Lets .parallel (R.PFU.CTRL 2) ∧ good.pfuOk 2 = true ∧ Chip.pfuOk {} 2 = false ∧
      good.on (F.PFU.CTRL.EN 2) = false ∧ (ssi none).on (F.PFU.CTRL.EN 2) = true ∧ Chip.rd {} (R.PFU.OBS_L 2 0) = 0#32) ∧
    ((ssi none).framed 2 = true ∧ onGrid ((ssi none).rd (R.PFU.FRAME_PER 2)).toNat 0 409600 = true ∧ ((ssi (some 3)).pfu 2).frame = some 3 ∧
      (ssi (some 3)).isn.holdRef = none ∧ (ssi (some 3)).get (F.PFU.PFCFG.INTYPE 2) = 2 ∧ (ssi (some 3)).osState 2 ≠ osOff ∧
      (ssi (some 3)).on (F.PFU.ENC_FIELD.ERR_EN 2) = false ∧ ((ssi (some 3)).raise (F.PFU.ENC_FIELD.ERR_EN 2)).on (F.PFU.ENC_FIELD.ERR_EN 2) = true ∧
      ((ssi (some 3)).pfu 2).seeded = false) ∧
    (7 ∈ ((rs.pfu 2).sines ++ (rs.pfu 2).cosines).map Prod.snd) ∧
    ((inc true).get (F.PFU.PFCFG.INTYPE 2) = 0 ∧ (inc true).osState 2 ≠ osOff ∧ bits ((inc true).rd (R.PFU.CPR 2)) 0 24 ≠ 0 ∧
      ((inc false).pfu 2).seeded = false ∧ ((inc true).pfu 2).seeded = true ∧
      ((inc true).pfu 2).last < 5 + bits ((inc true).rd (R.PFU.OBS_T 2)) 0 10 * 2560) := by
  unfold State.Lets; decide +kernel

/-- Link 9, the low side of leg 4, in a state and with what is kept beside its registers. -/
def linkChip (state : Nat) (x : LinkSt) : Chip :=
  (Chip.setLink { links := [(9, x)], pgs := [(4, {})] } 9 state).raise (F.GLNK.LCFG.LEN 1 1)
theorem witness_GateLinksInitialiseAndFail :
    let a := R.GLNK.LCFG 1 1
    let en : Chip := (Chip.raise {} (F.GLNK.CTRL.EN 1)).wr R.SAFE.STO_STAT 0;
    ((unlocked en (pageNo a)).Lets .parallel a ∧ en.on (F.GLNK.CTRL.EN ((9 : Fin 48).val / 8)) = true ∧
      en.on F.SAFE.STO_STAT.CUT_A = false ∧ en.on F.SAFE.STO_STAT.CUT_B = false ∧ (en.raise F.SAFE.STO_STAT.CUT_A).on F.SAFE.STO_STAT.CUT_A = true ∧
      en.on (F.GLNK.LCFG.LEN ((9 : Fin 48).val / 8) ((9 : Fin 48).val % 8)) = false ∧ Chip.on {} (F.GLNK.CTRL.EN 1) = false ∧
      (linkChip lkReady {}).on (F.GLNK.LCFG.LEN 1 1) = true ∧ (linkChip lkReady {}).linkState (9 : Fin 48) ≠ lkOff ∧
      (linkChip lkOff {}).linkState (9 : Fin 48) = lkOff) ∧
    ((linkChip lkInit { step := 1 }).linkState (9 : Fin 48) = lkInit ∧ ((linkChip lkInit { step := 1 }).link 9).step = 1 ∧
      ((linkChip lkInit { step := 3 }).link 9).step = 3 ∧ ((linkChip lkInit { step := 9 }).link 9).step = 9 ∧
      (linkChip lkInit { step := 9 }).get (F.GLNK.TMO.TELE_PER 1 1) < 65536) ∧
    ((linkChip lkReady {}).linkState (9 : Fin 48) = lkReady ∧ ((linkChip lkReady {}).pg ((9 : Fin 48).val / 2)).uvBst = 0 ∧
      ((linkChip lkReady { loopAt := some 3, loopFails := 1 }).link 9).loopAt = some 3 ∧
      ((linkChip lkReady { loopAt := some 3 }).link 9).loopFails = 0 ∧ ((linkChip lkReady {}).link 9).since <
        ((linkChip lkReady {}).link 9).lastMark + Config.ms ∧
      ((linkChip lkReady {}).raise (bitOf R.BIST.CTRL 10)).on (bitOf R.BIST.CTRL 10) = true ∧
      ¬ ((linkChip lkReady {}).clr (bitOf R.BIST.CTRL 10)).on (bitOf R.BIST.CTRL 10) = true) := by
  unfold State.Lets; decide +kernel

theorem witness_GateLinkFramesAndCommands :
    let a := R.GLNK.CMD_TX 1 1
    let r := linkChip lkReady {};
    ((unlocked r (pageNo a)).Lets .parallel a ∧ r.on (F.GLNK.CMD_STAT.BUSY 1 1) = false ∧
      (r.wr (R.GLNK.CMD_STAT 1 1) 1).on (F.GLNK.CMD_STAT.BUSY 1 1) = true ∧ r.linkState (9 : Fin 48) = lkReady) ∧
    (r.linkState (9 : Fin 48) ≠ lkOff ∧ (r.link 9).cmd = none ∧ (r.link 9).gateLate = false ∧ (r.link 9).gate = none ∧
      (linkChip lkOff {}).linkState (9 : Fin 48) = lkOff ∧ r.linkState (9 : Fin 48) ≠ lkInit ∧
      ((linkChip lkReady { gateLate := true }).link 9).gateLate = true ∧
      ((linkChip lkReady { gate := some (true, 7) }).link 9).gate = some (true, 7) ∧
      ¬ (linkChip lkReady {}).geti (F.GLNK.VGS_LIM.VGS_ON_MIN 1 1) ≤ (0x8000#16).toInt) ∧
    (∀ ty ∈ [tyWrite, tyRead, tyClear, tyPoll, tyLoop],
      ((linkChip lkReady { cmd := some (ty, 2, 5, 3) }).link 9).cmd = some (ty, (2#8).toNat, (5#16).toNat, 3) ∧
      ((linkChip lkReady { cmd := some (ty, 2, 5, 3) }).link 9).cmdLate = none ∧
      ((linkChip lkReady { cmdLate := some (ty, 2, 5) }).link 9).cmdLate = some (ty, (2#8).toNat, (5#16).toNat)) ∧
    ((r.marksDue 9).Pairwise (· ≤ ·) ∧ r.scEvents = [] ∧
      Tab.find r.scResp (r.groupOf ((9 : Fin 48).val / 2)) = none) := by
  unfold State.Lets; decide +kernel

theorem witness_LvDriversGuardTheirLegs :
    let c := legChip { uvBst := 1 };
    ((legChip {}).legState (24 + (6 : Fin 16).val) = lgRun ∧ (1000#16).toNat < 4000 ∧ (10000#16).toNat = 10000 ∧
      Chip.get {} (F.LVDRV.DCFG.UVTH 6) ≤ 3) ∧
    ((c.pg (24 + (6 : Fin 16).val)).uvBst ≠ 0 ∧ c.on (F.PG.CTRL.EN (24 + (6 : Fin 16).val)) = true ∧ (6 : Fin 16).val / 4 = (1 : Fin 4).val) ∧
    (Chip.on (Chip.raise {} (F.LVDRV.GSENSE.GCHK_EN 6)) (F.LVDRV.GSENSE.GCHK_EN 6) = true ∧
      Chip.on (Chip.raise {} (F.LVDRV.DCFG.QG_EN 6)) (F.LVDRV.DCFG.QG_EN 6) = true ∧
      Tab.at (Chip.charges { charges := [(12, 3, true)] }) (0, false) (2 * (6 : Fin 16).val + (!true).toNat) = (3, true) ∧
      Chip.on (Chip.raise {} (bitOf R.BIST.CTRL 10)) (bitOf R.BIST.CTRL 10) = true ∧
      Chip.on (Chip.raise {} (bitOf R.BIST.ANA_CFG 2)) (bitOf R.BIST.ANA_CFG 2) = true ∧
      ¬ Chip.on (Chip.clr {} (bitOf R.BIST.ANA_CFG 2)) (bitOf R.BIST.ANA_CFG 2) = true) := by
  decide +kernel

/-- Converter 2 enabled, with leg 30 as phase 0 and leg 31 as phase 1, in a state and with what is kept beside its registers. -/
def convChip (state : Nat) (x : ConvSt) : Chip :=
  (((Chip.set { phase := .ready, convs := [(2, x)] } (F.CONV.STATUS.STATE 2) state).raise (F.CONV.CTRL.EN 2)).wr (R.CONV.PH_MAP0 2)
    (wd (128 + 30 + (128 + 31) * 256)))
theorem witness_ConvertersStartStopAndRecover :
    let a := R.CONV.CTRL 2
    let good : Chip := ((((Chip.raise { phase := .ready, pgs := [(30, { master := true })] } (F.PG.CTRL.EN 30)).wr (R.CONV.PH_MAP0 2)
      (wd (128 + 30))).raise (bitOf (R.ADC.ADMITTED 0) 0)));
    ((unlocked good (pageNo a)).Lets .parallel a ∧ good.on (F.CONV.CTRL.EN 2) = false ∧ good.convAccepts 2 = true ∧
      Chip.convAccepts {} 2 = false ∧ (convChip cvOff {}).on (F.CONV.CTRL.EN 2) = true ∧ good.cvState 2 = cvOff ∧
      (unlocked (convChip cvRun {}) (pageNo a)).Lets .parallel a ∧ (convChip cvRun {}).targeted 2 = false ∧
      (convChip cvRun {}).on (F.CONV.CTRL.RUN_REQ 2) = false ∧ (convChip cvRun {}).phLeg 2 (0 : Fin 8) = some (30 : Fin 40).val ∧
      ((convChip cvRun {}).raise (F.CONV.CTRL.RUN_REQ 2)).on (F.CONV.CTRL.RUN_REQ 2) = true ∧
      (((convChip cvOff {}).set (F.CHGSEQ.SQCFG.CONV 3) 2).raise (F.CHGSEQ.CTRL.EN 3)).targeted 2 = true) ∧
    ((convChip cvHiccup {}).cvState 2 = cvHiccup ∧ (convChip cvRun {}).cvState 2 = cvRun ∧ (convChip cvInLost {}).cvState 2 = cvInLost) ∧
    (let sh := ((convChip cvRun { lowSince := some 3 }).raise (F.CONV.SHED.SHED_EN 2)).set (F.CONV.CV_STAT.ACT_MAP 2) 3
      |>.set (F.CONV.SHED.MINPHM1 2) 0;
      sh.cvOn 2 (F.CONV.SHED.SHED_EN 2) = true ∧ (sh.activePhases 2).getLast? = some 1 ∧ (sh.activePhases 2).length = 2 ∧
      sh.cvGet 2 (F.CONV.SHED.MINPHM1 2) + 1 < 2 ∧ (sh.conv 2).shed = none) ∧
    (((convChip cvRun { stepAt := some 3, lastI := -5 }).conv 2).stepAt = some 3 ∧
      ((convChip cvRun { stepAt := some 3, lastI := 5 }).set (F.CONV.CV_STAT.ACT_MAP 2) 3).on (F.CONV.CV_STAT.STEP 2) = false) ∧
    (let l := ((convChip cvRun {}).raise (F.CONV.INLOSS.INLOSS_EN 2)).set (F.CONV.INLOSS.VIN_MIN 2) 100;
      l.cvOn 2 (F.CONV.INLOSS.INLOSS_EN 2) = true ∧ (5#32).toNat < l.cvGet 2 (F.CONV.INLOSS.VIN_MIN 2) * 100 ∧ ∀ q : Fin 16, l.inSession q = false) := by
  unfold State.Lets; decide +kernel

/-- Loop 5 CLOSED on pair 0, slot 0, as a drive or an actuator: the words of its data segment, the hand-over word and its set-point. -/
def motorChip (seg : Tab Word) (m : Word) (x : DriveSt) (y : ActSt) : Chip :=
  (Chip.set { phase := .ready, mailbox := [(0, m)], drives := [(5, x)], acts := [(5, y)], loops := [(5, { setpt := m })],
                      pairs := [(0, { dmemA := seg, dmemB := seg })] } (fState 5) lsClosed)
theorem witness_DriveCommandsActOnce :
    let cmd (n : Nat) : Word := wd (n + 8 + 7 * 2 ^ 8 + 3 * 2 ^ 16)
    let ok (n : Nat) (x : DriveSt) : Bool := let c := motorChip [] (cmd n) x {};
      decide <| c.get (fState 5) = lsClosed ∧ (c.drive_ 5).init = true ∧ bits (Tab.at c.mailbox 0 (bits (c.seg 5 38) 0 8)) 0 3 = n ∧
        bits (Tab.at c.mailbox 0 (bits (c.seg 5 38) 0 8)) 8 8 ≠ (c.drive_ 5).seqAck
    let act (n : Nat) : Bool := let c := motorChip [(0, 16)] (cmd n) {} {};
      decide <| c.get (fState 5) = lsClosed ∧ bits (c.loop 5).setpt 0 3 = n ∧ bits (c.loop 5).setpt 8 8 ≠ (c.act 5).seqAck ∧
        (c.seg 5 0).getLsbD 4 = true ∧ ((motorChip [(0, 0)] (cmd n) {} {}).seg 5 0).getLsbD 4 = false
    (Chip.get {} (fState 5) ≠ lsClosed ∧ ok 0 { init := true, dstate := dsCfgErr } ∧ ok 0 { init := true, dstate := dsRun } ∧
      ok 1 { init := true, dstate := dsStopped } ∧ ok 1 { init := true, dstate := dsAsc } ∧ ok 1 { init := true, dstate := dsRun } ∧
      ok 2 { init := true, dstate := dsStopped } ∧ ok 2 { init := true, dstate := dsRun } ∧
      ok 3 { init := true, dstate := dsFault } ∧ ok 3 { init := true, dstate := dsStopped }) ∧
    (mag 0 ≤ mag ((motorChip [] 0 {} {}).seg 5 16) ∧ mag ((motorChip [] 0 {} {}).seg 5 16) < mag 5 ∧
      (motorChip [] 0 {} {}).driveParOk 5 = false ∧ ((motorChip [] 0 {} {}).drive_ 5).init = false ∧ (motorChip [] 0 { init := true } {}).get (fState 5) = lsClosed) ∧
    (act 0 ∧ act 1 ∧ act 2 ∧ act 3 ∧ act 4) ∧
    (let p : Tab Word := [(0, 0), (1, 4), (2, 1), (3, 5), (4, 5), (11, 100), (14, 10), (16, 20), (21, 0x40000000), (24, 5), (30, 0x0101), (35, 10)];
      (motorChip p 0 {} {}).driveParOk 5 = true ∧ (motorChip p (cmd 1) {} {}).driveParOk 5 = true) := by decide +kernel

theorem witness_DrivePhasesEnd :
    let p : Tab Word := [(0, 4), (13, 9), (14, 10), (15, 3), (18, 7)]
    let sense (x : DriveSt) : Bool := let c := motorChip p 0 { x with init := true, dstate := dsSense, goodAt := some 0 } {};
      decide <| (c.drive_ 5).init = true ∧ (c.drive_ 5).dstate = dsSense ∧ (c.drive_ 5).flux = false ∧ (c.drive_ 5).ident = x.ident ∧
        (c.drive_ 5).since + max Config.ms (131072 * Config.sec / mag (c.seg 5 14)) ≤ 2 ^ 60 ∧ (c.seg 5 15).toNat ≤ (3#31).toNat ∧
        mag (c.seg 5 14) ≤ mag 20 ∧ (c.drive_ 5).goodAt = some 0 ∧ 131072 * Config.sec / mag 20 ≤ 2 ^ 60 ∧
        mag (c.seg 5 18) ≤ mag 20 ∧ mag 5 < mag (c.seg 5 18)
    let angle (a : Word) : Bool :=
      decide (2 ^ 32 < 12 * (a - ({ motorChip p 0 { init := true, dstate := dsSense } {} with st := 2 ^ 60 } : Chip).pfuAngle 0).toInt.natAbs)
    let kind (w : Word) (m s : Nat) (abs : Bool) : Bool := let c := (motorChip [(0, w)] 0 {} {}).set (F.PFU.PFCFG.INTYPE 0) (if abs then 2 else 0);
      decide <| bits (c.seg 5 0) 0 2 = m ∧ bits (c.seg 5 0) 2 1 = s ∧ bits (c.seg 5 0) 3 3 = 0 ∧ (1 < c.get (F.PFU.PFCFG.INTYPE 0) ↔ abs = true)
    let ts : List Nat := ([100, 90, 50, 90, 100, 110, 100, 90, 60, 90, 100, 110] : List (BitVec 32)).map fun t => t.toNat
    let pump : Chip := { motorChip [] 0 { lowIq := some 3 } {} with st := 3 + Config.sec }
    let act (st : ActStep) : Bool := decide (((motorChip p 0 {} { step := st }).act 5).step = st);
    (sense {} ∧ sense { ident := some 0 } ∧ sense { ident := some 3 } ∧ angle 0 = false ∧ angle 0x80000000 = true) ∧
    (kind 2 2 0 false ∧ kind 4 0 1 false ∧ kind 4 0 1 true ∧ kind 0 0 0 false) ∧
    (((motorChip p 0 { init := true, dstate := dsAlign } {}).drive_ 5).dstate = dsAlign ∧ ts.length = 12 ∧ 50 ∈ ts ∧ 110 ∈ ts ∧
      (∀ u ∈ ts, 50 ≤ u ∧ u ≤ 110) ∧ ¬ (110 - 50) * 100 < 5 * 110 ∧ (∀ j < 6, ts.getD 2 0 + ts.getD 8 0 ≤ ts.getD (j % 6) 0 + ts.getD (j % 6 + 6) 0) ∧
      ((motorChip p 0 { init := true, dstate := dsReacq } {}).drive_ 5).dstate = dsReacq ∧
      ((motorChip p 0 { init := true, dstate := dsIdent, ident := some 5 } {}).drive_ 5).ident = some 5 ∧ Nat.testBit 5 0 = true ∧
      Nat.testBit 2 1 = true ∧ Nat.testBit 2 0 = false ∧ Nat.testBit 8 3 = true) ∧
    (act (.shift 1) ∧ act (.shift 4) ∧ act .engaging ∧ act .releasing ∧ act .moving) ∧
    (pump.get (fState 5) = lsClosed ∧ bits (pump.seg 5 0) 2 1 ≠ 1 ∧ (pump.seg 5 0).getLsbD 6 = false ∧ (pump.drive_ 5).noLoad = false ∧
      (pump.drive_ 5).lowIq = some 3 ∧ 3 + Config.sec ≤ pump.st) ∧ Chip.get {} (fState 5) ≠ lsClosed := by decide +kernel

/-- Sequencer 3: the value of a field of its pages and what is kept beside them. -/
def seqChip (state : Nat) (x : SeqSt) : Chip :=
  Chip.set { phase := .ready, seqs := [(3, x)] } (F.CHGSEQ.STATUS.STATE 3) state
/-- A cell channel whose checks hold, but for the battery: a CC step and END, both entries admitted, a line that cuts its leg. -/
def cellChip : Chip :=
  ((((((((((seqChip sqIdle {}).raise (F.CHGSEQ.SQCFG.CELL 3)).raise (F.CHGSEQ.CTRL.EN 3)).raise (F.CHGSEQ.SQCFG.LOST_EN 3)).wr
    (R.CHGSEQ.STEP 3 0) 1).wr (R.CHGSEQ.STEP 3 1) 500).wr (R.CHGSEQ.STEP 3 2) 4200).set (F.CHGSEQ.MSENSE.I_ENT 3) 1).wr (R.ADC.ADMITTED 0) 3).set
    (F.CHGSEQ.SQCFG.LOST_LINE 3) 7).set ⟨R.TRIP.LACT0 7 + 4, 22, 2⟩ 1
theorem witness_SessionsStartRunAndEnd :
    let bat := cellChip.raise (F.CHGSEQ.SQ_STAT.BAT_PRESENT 3)
    let piloted := ((seqChip sqWait { s2At := some 3 }).raise (F.CHGSEQ.SQCFG.PILOT_EN 3)).set (F.CHGSEQ.SQCFG.CONV 3) 2
    let supply (n : Nat) := (seqChip sqWait { supply := n }).raise (F.CHGSEQ.SQCFG.REVERSE 3)
    let cp (c : Chip) (n : Nat) := c.set (F.PILOT.CP_STAT.STATE 0) n;
    ((unlocked bat (pageNo (R.CHGSEQ.SQ_CMD 3))).Lets .parallel (R.CHGSEQ.SQ_CMD 3) ∧ bat.sqAccepts 3 = true ∧ bat.stepType 3 0 = 1 ∧
      bat.on (F.CHGSEQ.SQ_STAT.BAT_PRESENT 3) = true ∧ cellChip.on (F.CHGSEQ.SQ_STAT.BAT_PRESENT 3) = false ∧ bat.usesPilot 3 = false ∧
      (bat.clr (F.CHGSEQ.SQCFG.LOST_EN 3)).sqAccepts 3 = false) ∧
    ((seqChip sqRunning {}).inSession 3 = true ∧ (seqChip sqIdle {}).inSession 3 = false ∧ ((seqChip sqRunning {}).seq 3).ending = none ∧
      ((seqChip sqRunning { ending := some (2, 5, 0) }).seq 3).ending = some (2, 5, 0)) ∧
    ((piloted.seq 3).s2At = some 3 ∧ piloted.sqState 3 = sqWait ∧ piloted.get (F.PILOT.CP_STAT.STATE 0) ≠ cpC ∧ piloted.dabOf 3 = some 2 ∧
      piloted.usesPilot 3 = true ∧ (cp piloted cpC).get (F.PILOT.CP_STAT.STATE 0) = cpC ∧
      ((cp piloted cpC).cvGet 1 (F.CONV.INLOSS.VIN_MIN 1) * 100 : Nat) ≤ (0x7FFFFFFF#32).toInt) ∧
    ((cp (supply 1) cpB).get (F.PILOT.CP_STAT.STATE 0) = cpB ∧ ((supply 1).seq 3).supply = 1 ∧ ((supply 2).seq 3).supply = 2 ∧
      ((supply 3).seq 3).supply = 3 ∧ (supply 3).sqState 3 = sqWait ∧
      (((supply 2).set (F.CHGSEQ.SQCFG.CTR_LEG 3) 30).raise (F.CHGSEQ.SQCFG.CTR_EN 3)).get (F.CHGSEQ.SQCFG.CTR_LEG 3) = 30) ∧
    (let r := (cp (seqChip sqEnded { acLost := true, shownA := true }) cpB).raise (F.PILOT.CP_STAT.PWM 0);
      (r.seq 3).acLost = true ∧ (r.seq 3).shownA = true ∧ r.sqState 3 = sqEnded ∧ r.get (F.PILOT.CP_STAT.STATE 0) = cpB ∧ r.on (F.PILOT.CP_STAT.PWM 0) = true) ∧
    (let g := ((((({ bat with seqs := [(3, { acLost := true, shownA := true })] } : Chip).set (F.CHGSEQ.STATUS.STATE 3) sqEnded).raise
        (F.CHGSEQ.SQCFG.AUTO_SESSION 3)).set (F.PILOT.CP_STAT.STATE 0) cpB).raise (F.PILOT.CP_STAT.PWM 0));
      g.sqAccepts 3 = true ∧ g.on (F.CHGSEQ.SQCFG.AUTO_SESSION 3) = true ∧ g.sqState 3 = sqEnded ∧ (g.seq 3).shownA = true) ∧
    (cellChip.stageIdle 3 = true ∧ cellChip.on (F.CHGSEQ.CTRL.EN 3) = true ∧ ((seqChip sqIdle { inSince := some 5 }).seq 3).inSince = some 5) ∧
    ((unlocked {} (pageNo (R.CHGSEQ.SQCFG 3))).Lets .parallel (R.CHGSEQ.SQCFG 3) ∧ Chip.on {} (F.CHGSEQ.CTRL.EN 3) = false ∧
      Chip.cellFree {} 3 = true ∧ (Chip.raise {} (F.LVDRV.CTRL.EN 3)).cellFree 3 = false) := by
  unfold State.Lets; decide +kernel

theorem witness_MeasurementsAndThePilot :
    let step (ty a : Nat) (x : SeqSt) (b limit count : Nat) : Chip := ((((seqChip sqRunning x).wr (R.CHGSEQ.STEP 3 0) (wd (ty + count * 2 ^ 8))).wr
      (R.CHGSEQ.STEP 3 1) (wd a)).wr (R.CHGSEQ.STEP 3 2) (wd b)).wr (R.CHGSEQ.STEP 3 3) (wd limit)
    let rest := step 4 1 { hist := [(2559999999, 65536)] } 0 100 2
    let pulse (x : SeqSt) := step 3 7 x (5 + 9 * 2 ^ 16) 100 0
    let sweep := step 5 100 { zk := 0, zSums := (1, 2, 3, 4), zCount := 1 } (1000 + 10000 * 2 ^ 16) 100 5
    let pilot := Chip.raise {} ⟨R.PILOT.CTRL 1, 0, 1⟩;
    (rest.sqState 3 = sqRunning ∧ (rest.seq 3).ending = none ∧ bits (rest.stepWord 3 0 0) 0 4 = 4 ∧ bits (rest.stepWord 3 0 0) 8 8 = 2 ∧
      bits (rest.rd (R.CHGSEQ.OCV_N 3)) 0 4 = 0 ∧ (rest.stepWord 3 0 1).toNat * 2 ^ 0 * 100 * Config.ms ≤ bits (rest.stepWord 3 0 3) 0 24 * 100 * Config.ms ∧
      ((rest.seq 3).hist.filter fun e => decide (2560000000 ≤ e.1 + 10 * Config.ms)) ≠ []) ∧
    (bits ((pulse {}).stepWord 3 0 0) 0 4 = 3 ∧ ((pulse { pulseOn := true }).seq 3).pulseOn = true ∧ ((pulse {}).seq 3).pulseOn = false ∧ ((pulse {}).seq 3).paused = none ∧
      ((pulse { vOff := some 5, i := 7 }).seq 3).vOff = some 5 ∧ ((pulse { vOff := some 5, i := 7 }).seq 3).i ≠ 0) ∧
    (bits (sweep.stepWord 3 0 0) 0 4 = 5 ∧ (sweep.seq 3).zk + 1 < sweep.zPoints 3 0 ∧ (sweep.seq 3).zk < 64 ∧
      (step 5 100 { zk := 5 } (1000 + 10000 * 2 ^ 16) 100 5).zPoints 3 0 = 6) ∧
    (pilot.on ⟨R.PILOT.CTRL 1, 0, 1⟩ = true ∧ pilot.on (F.PILOT.PCFG.ROLE 1) = false ∧
      (∀ q : Fin 16, pilot.get (F.CHGSEQ.SQCFG.PILOT q) ≠ (1 : Fin 2).val ∨ pilot.usesPilot q = false) ∧ pilot.on (F.PILOT.CP_STAT.PWM 1) = false ∧
      rnd (((0#12).toNat - pilot.get (F.PILOT.CP_SCALE.CP_ZERO 1)) * pilot.get (F.PILOT.CP_SCALE.CP_LSB 1)) 1000 < 4500 ∧
      (Chip.pilot { pilots := [(1, { band := 2, bandN := 3 })] } 1).bandN = 3 ∧
      (pilot.raise (F.PILOT.PCFG.PP_EN 1)).on (F.PILOT.PCFG.PP_EN 1) = true ∧ pilot.get (F.PILOT.CP_STAT.STATE 1) ≠ 3 ∧
      (pilot.raise (F.PILOT.PCFG.ROLE 1)).on (F.PILOT.PCFG.ROLE 1) = true) := by decide +kernel

theorem witness_TemperaturesThrottleAndCompensate :
    let dom (l n : Nat) : Chip := (((Chip.raise { doms := [(2, { lastUp := some 5, clear := some 7 })] } (F.THERM.DOM_CFG.EN 2)).raise
      (F.THERM.DOM_STAT.COND 2)).set (F.THERM.DOM_STAT.LEVEL 2) l).set (F.THERM.DOM_CFG.LMAX 2) n
    let ch (r : Nat) : Chip := Chip.set { chans := [(5, { no50 := some 3, no10 := some 9 })] } (F.THERM.CH_FLAGS.SRATE.win 5) r
    let bit := bitOf (R.THERM.DOM_MASK_LO 2) 5;
    ((dom 1 16).on (F.THERM.DOM_CFG.EN 2) = true ∧ ((dom 1 16).raise bit).on bit = true ∧ Chip.on {} F.THERM.TCFG.NATIVE_EN = true ∧
      ((dom 1 16).dom 2).lastUp = some 5 ∧ (dom 1 16).get (F.THERM.DOM_STAT.LEVEL 2) < (dom 1 16).get (F.THERM.DOM_CFG.LMAX 2) ∧
      Chip.on {} (F.THERM.CH_FLAGS.FAULT.win 5) = false ∧ (Chip.raise {} (F.THERM.CH_FLAGS.FAULT.win 5)).on (F.THERM.CH_FLAGS.FAULT.win 5) = true) ∧
    ((ch 1).get (F.THERM.CH_FLAGS.SRATE.win 5) = 1 ∧ (ch 2).get (F.THERM.CH_FLAGS.SRATE.win 5) = 2 ∧ ((ch 1).chan 5).no10 = some 9 ∧
      ((ch 2).chan 5).no50 = some 3) ∧
    ((dom 1 16).on (F.THERM.DOM_STAT.COND 2) = true ∧ (dom 4 4).get (F.THERM.DOM_CFG.LMAX 2) ≤ (dom 4 4).get (F.THERM.DOM_STAT.LEVEL 2) ∧
      ((dom 1 16).dom 2).clear = some 7 ∧ (dom 3 16).get (F.THERM.DOM_STAT.LEVEL 2) = 3 ∧
      (unlocked {} (pageNo (R.THERM.DOM_CFG 2))).Lets .parallel (R.THERM.DOM_CFG 2) ∧ Chip.on {} (F.THERM.DOM_CFG.EN 2) = false ∧
      (dom 1 16).rd (R.THERM.DOM_CFG 2) = wd (16 * 2 ^ 16 + 2 ^ 24) ∧ (dom 1 17).rd (R.THERM.DOM_CFG 2) ≠ wd (16 * 2 ^ 16 + 2 ^ 24) ∧
      (({ admitted := [3], loops := [(3, { ports := [(0x1000, true, true)] })] } : Chip).portOwner 0x1000).isSome = true) ∧
    (Chip.on {} F.THERM.XT_CFG.XT_COMP_EN = true ∧ Chip.get {} F.THERM.XT_CFG.XT_SRC < 56) ∧
    (Tab.find ({ dlPend := [(4, 8)] } : Chip).dlPend 4 = some 8 ∧ Chip.get {} (F.THERM.SUP_LIM.UV 0) = 940) := by
  unfold State.Lets; decide +kernel

theorem witness_KennelKeepsTimeTokenAndMemory :
    let s := unlocked {} (pageNo R.KENNEL.CAL_SEC);
    (s.Lets .parallel R.KENNEL.CAL_SEC ∧ s.Lets .parallel R.KENNEL.RET_DATA ∧ s.Lets .parallel R.KENNEL.SHIP_CMD ∧
      s.Lets .parallel R.KENNEL.TOKEN_CTRL) ∧
    (Chip.portOpen {} .parallel = true ∧ Chip.portOpen { phase := .held } .parallel = false) ∧
    (Chip.rd {} R.KENNEL.CAL_SEC + 1#32 ≠ Chip.rd {} R.KENNEL.ALARM ∧
      (Chip.wr {} R.KENNEL.ALARM 1).rd R.KENNEL.CAL_SEC + 1#32 = (Chip.wr {} R.KENNEL.ALARM 1).rd R.KENNEL.ALARM) ∧
    (({ ken := { ship := true } } : Chip).ken.ship = true ∧ ({} : Chip).ken.ship = false) := by
  unfold State.Lets; decide +kernel

theorem witness_PowerPathAndCellCharging :
    let at_ (n : Nat) (ok : Bool) : Chip := (Chip.set {} F.KENNEL.STATUS.STATE n).setb F.KENNEL.KSTAT.VSYS_OK ok
    let ken (n : Nat) : Chip := { ken := { phase := n } };
    ((at_ 0 true).on F.KENNEL.KSTAT.VSYS_OK = true ∧ (at_ 0 false).on F.KENNEL.KSTAT.VSYS_OK = false ∧ (at_ 2 false).get F.KENNEL.STATUS.STATE = knVbkp ∧
      ((at_ 0 true).raise F.KENNEL.KSTAT.SHIP_ARMED).on F.KENNEL.KSTAT.SHIP_ARMED = true ∧ (at_ 0 true).on F.KENNEL.KSTAT.SHIP_ARMED = false ∧
      (at_ 3 true).get F.KENNEL.STATUS.STATE = knWait ∧ (at_ 1 true).get F.KENNEL.STATUS.STATE = knHandover) ∧
    ((ken 1).ken.phase = 1 ∧ (ken 2).ken.phase = 2 ∧ (ken 3).ken.phase = 3 ∧ (ken 1).ken.paused = none ∧
      (Chip.raise {} F.KENNEL.BKP_CFG.CHG_EN).on F.KENNEL.BKP_CFG.CHG_EN = true ∧ Chip.on {} F.KENNEL.STICKY.CHG_FAULT = false) ∧
    ((Chip.set {} F.KENNEL.KSTAT.SRC 1).on F.KENNEL.KSTAT.SRC = true ∧ (2000#16).toNat < Chip.get {} F.KENNEL.BKP_CUT.CUTOFF) ∧
    (Chip.get {} F.KENNEL.BKP_VLIM.VFULL ≤ (5000#16).toNat ∧ (5#16).toNat < Chip.get {} F.KENNEL.BKP_VLIM.VRECHG) := by decide +kernel

/-- Isaenaim in a state, with what is kept beside its registers, and both cuts released. -/
def isnChip (state : Nat) (x : IsnSt) : Chip :=
  Chip.wr (Chip.set { phase := .ready, isn := x } (hState R.ISN.ID) state) R.SAFE.STO_STAT 0
theorem witness_cfgCrc : ((isnChip isSafe {}).wr R.ISN.CFG_CRC 1300549426).cfgCrc = 1300549426 := by
  unfold Chip.cfgCrc; rw [crc32_eq_forced]; decide +kernel
theorem witness_SupervisorStatesAndFaultReactions :
    let un (c : Chip) : State := unlocked c (pageNo R.ISN.CTRL)
    let good := (isnChip isSafe {}).wr R.ISN.CFG_CRC 1300549426
    let rep (n m : Nat) (c : Chip) : Chip := { c with reports := [(n, m)] };
    ((isnChip isRun {}).isn.dead = false ∧ (isnChip isRun { dead := true }).isn.dead = true ∧ (isnChip isRun { refresh := some 5 }).isn.refresh = some 5 ∧
      ¬((isnChip isRun {}).on F.SAFE.STO_STAT.CUT_A = true ∧ (isnChip isRun {}).on F.SAFE.STO_STAT.CUT_B = true)) ∧
    ((un good).Lets .parallel R.ISN.CTRL ∧ bits (good.rd R.ISN.CTRL) 8 3 = 0 ∧ good.isnState = isSafe ∧ (good.rd R.ISN.CFG_CRC).toNat = 1300549426 ∧
      good.classActive 2 = false ∧ good.funcsActive [1, 2] = true ∧ good.on F.SAFE.STICKY.SBC_FAULT = false ∧
      good.on F.SAFE.STICKY.STO_FB_FAULT = false) ∧
    ((un (isnChip isDegraded {})).Lets .parallel R.ISN.CTRL ∧ (isnChip isDegraded {}).isnState = isDegraded ∧ (isnChip isDegraded {}).degradable = false ∧
      ((isnChip isDegraded { degAt := some 9 }).raise (bitOf R.ISN.FAULT_ACT 2)).degradable = true ∧ (isnChip isRun {}).isnState ≠ isSafe) ∧
    ((isnChip isRun {}).classOf 2 = 1 ∧ (isnChip isRun {}).classOf 18 = 2 ∧ (isnChip isRun {}).classOf 22 = 0 ∧ (isnChip isRun {}).faultGroups 2 0 = none ∧
      (isnChip isRun {}).isn.wdFired = false ∧ (isnChip isRun { faulty := [(11, 3)], okSince := [(707, 9)] }).isn.faulty = [(11, 3)] ∧
      ({ refGood := 100 } : Chip).refGood = 100 ∧ (rep 2 0 (isnChip isRun {})).reports = (2, 0) :: []) ∧
    (Tab.find (isnChip isSafe { ascAt := [(3, 9)] }).isn.ascAt 3 = some 9 ∧ Tab.del (isnChip isSafe { ascAt := [(3, 9)] }).isn.ascAt 3 = [] ∧
      bits ((isnChip isSafe {}).rd R.ISN.ASC_CFG) 0 16 = 0 ∧ Tab.find (isnChip isSafe { ascAt := [(3, 9)], slowAt := [(3, 11)] }).isn.slowAt 3 = some 11 ∧
      Tab.del (isnChip isSafe { ascAt := [(3, 9), (4, 2)] }).isn.ascAt 3 ≠ []) := by
  unfold State.Lets; decide +kernel

theorem witness_StoSs1AndTheBrake :
    let un (c : Chip) : State := unlocked c (pageNo R.SAFE.CTRL)
    let run := isnChip isRun {}
    let both := (run.wr R.SAFE.STO_STAT 3).wr R.SAFE.CTRL 1
    let late := run.wr R.SAFE.SBC_CFG 0x00000107;
    ((un run).Lets .parallel R.SAFE.CTRL ∧ run.isn.dead = false ∧ (isnChip isRun { dead := true }).isn.dead = true) ∧
    ((un late).Lets .parallel R.SAFE.CTRL ∧ late.on F.SAFE.SBC_CFG.SBC_EN = true ∧ late.on F.SAFE.SBC_CFG.WITH_STO = true ∧
      late.on F.SAFE.SBC_CFG.ORDER = true ∧ late.get F.SAFE.SBC_CFG.SBC_DLY = 1 ∧ late.on F.SAFE.STO_STAT.CUT_A = false) ∧
    ((un both).Lets .parallel R.SAFE.CTRL ∧ both.on F.SAFE.STO_STAT.CUT_A = true ∧ both.on F.SAFE.STO_STAT.CUT_B = true ∧
      both.isnState = isRun ∧ both.on F.SAFE.CTRL.STO_REQ = false ∧ both.funcsActive [1] = true ∧ both.on F.SAFE.STICKY.STO_FB_FAULT = false ∧
      both.isn.wdFired = false ∧ run.on F.SAFE.STO_STAT.CUT_A = false) ∧
    ((isnChip isSafe {}).isnState ≠ isRun ∧ (isnChip isSafe {}).isnState ≠ isDegraded) := by
  unfold State.Lets; decide +kernel
theorem witness_StoSs1AndTheBrake_checks :
    let un (c : Chip) : State := unlocked c (pageNo R.SAFE.CTRL)
    let run := isnChip isRun {}
    let late := run.wr R.SAFE.SBC_CFG 0x00000107
    let ss1 (x : IsnSt) (still : Nat) := (isnChip isSs1 x).wr R.SAFE.SS1_CFG (wd (1 + still * 16))
    let free := run.wr R.SAFE.SBC_STAT 31
    let hold := (isnChip isRun { holdRef := some (0xFFFFFFF0, 5) }).wr R.SAFE.HOLD_CFG 0;
    ((ss1 { ss1V := 0 } 2).isnState = isSs1 ∧ (ss1 {} 2).on F.SAFE.SS1_CFG.MODE = true ∧ (ss1 {} 2).get F.SAFE.SS1_CFG.SS1_PFU = 0 ∧
      ((ss1 {} 2).pfuSpeed 0).toInt.natAbs = 0 ∧ (ss1 { stillAt := some 4 } 0).isn.stillAt = some 4 ∧
      (((ss1 { ss1At := 0 } 0).set (F.PFU.STATUS.STATE 0) 2).updPfu 0 fun y => { y with w := 2 ^ 60 }).pfuSpeed 0 ≠ 0) ∧
    ((late.on F.SAFE.SBC_CFG.SBC_EN = true ∧ late.funcsActive [3] = true ∧ late.isn.holdAt = none) ∧ free.on F.SAFE.SBC_STAT.RELEASED = true ∧
      run.on F.SAFE.SBC_STAT.RELEASED = false) ∧
    ((isnChip isRun { brakeDue := some 6 }).isn.brakeDue = some 6 ∧ (isnChip isRun { stoDue := some (6, 1) }).isn.stoDue = some (6, 1)) ∧
    ((un free).Lets .parallel R.SAFE.CTRL ∧ free.isn.holdAt = none ∧ (isnChip isRun { holdAt := some 5 }).isn.holdAt = some 5 ∧
      hold.isn.holdRef = some (0xFFFFFFF0, 5) ∧ (hold.rd (R.PFU.COUNT 0) - 0xFFFFFFF0).toInt.natAbs = 16 ∧ hold.get F.SAFE.HOLD_CFG.HOLD_CNT = 0 ∧
      bits (hold.rd R.SAFE.HOLD_STAT) 16 16 = 0 ∧ (hold.wr R.SAFE.HOLD_CFG 0x00100000).get F.SAFE.HOLD_CFG.HOLD_CNT = 16) := by
  unfold State.Lets; decide +kernel

theorem witness_ParkLockAndSafeInputs :
    let run := isnChip isRun {}
    let pl := (run.wr R.SAFE.PARK_CFG 0x000F0100)
    let tps := run.wr R.SAFE.TPS_CFG 0x00640055
    let inp (cfg : Word) (stat : Word) (y : SinSt) := ((isnChip isRun { sins := [(2, y), (3, { actRun := 1 })] }).wr (R.SAFE.SIN_CFG 2) cfg).wr R.SAFE.SIN_STAT stat;
    (run.isn.dead = false ∧ (isnChip isRun { dead := true }).isn.dead = true ∧ run.on F.SAFE.PARK_STAT.RELEASE_OK ≠ run.isnRuns ∧
      run.on F.ISN.LIM_MBX.EN = false ∧ (run.wr R.ISN.LIM_MBX 0x80030201).on F.ISN.LIM_MBX.EN = true) ∧
    ((unlocked pl (pageNo R.SAFE.PL_CMD)).Lets .parallel R.SAFE.PL_CMD ∧ pl.on F.SAFE.PARK_CFG.POS_SIN_EN = true ∧
      run.on F.SAFE.PARK_CFG.POS_SIN_EN = false ∧ (isnChip isRun { plAt := some 4 }).isn.plAt = some 4) ∧
    ((tps.get F.SAFE.TPS_CFG.TPS_EN).testBit 2 = true ∧ (tps.get F.SAFE.TPS_CFG.TPS_EN).testBit 1 = false ∧ tps.get F.SAFE.TPS_CFG.TP_PER = 100 ∧
      tps.get F.SAFE.TPS_CFG.TP_W = 5) ∧
    ((inp 0x3C 4 {}).on (F.SAFE.SIN_CFG.PAIR 2) = true ∧ (inp 0x3C 4 {}).on (F.SAFE.SIN_CFG.ANTI 2) = true ∧ (inp 0x3C 4 {}).on (F.SAFE.SIN_CFG.PULSED 2) = true ∧
      (inp 0x3C 4 {}).get (F.SAFE.SIN_CFG.FUNC 2) = 1 ∧ (inp 0x84 4 {}).get (F.SAFE.SIN_CFG.FUNC 2) = 4 ∧ (inp 0x84 4 {}).on (F.SAFE.SIN_CFG.PAIR 2) = false ∧
      (inp 0 4 {}).on (F.SAFE.SIN_CFG.PULSED 2) = false ∧ (inp 0 4 {}).on (bitOf R.SAFE.SIN_STAT 2) = true ∧ (inp 0 0x400 {}).on (bitOf R.SAFE.SIN_STAT 10) = true) ∧
    ((inp 0x3C 4 { pair := true }).sin 2).pair = true ∧ ((inp 0x3C 4 { diff := some 9 }).sin 2).diff = some 9 ∧ ((inp 0 4 { actRun := 1 }).sin 2).actRun = 1 ∧
    ((inp 0 4 { demRun := 1 }).sin 2).demRun = 1 ∧ ((inp 0x3C 4 {}).sin 3).seen = true := by
  unfold State.Lets; decide +kernel

/-- Port 1 in a state with block lock, with what it holds beside its registers. -/
def portChip (state : Nat) (x : ElPort) : Chip :=
  (({ phase := .ready, ports := [(1, x)] } : Chip).set (F.EPORT.STATUS.STATE 1) state).raise (F.EPORT.PORT_STAT.LOCK 1)
def wpkt : Pkt := { enc := false, dst := 0x0C1, ttl := 8, flow := 3, src := 0x80, seq := 1, payload := [1, 2, 3, 4, 5], hcrc := 0, crc := 0, epoch := 0, pn := 0, tagOk := true }
/-- A certificate that names UID 0, and a key store whose slot 0 holds the key it verifies under. -/
def cert : LinkCert := { x := 1, y := 2, r := 106026447472237217594103756757091873528548576106367144586170196380839010672352, s := 106026447472237217594103756757091873528548576106367144586170196380839010672352 }
def certifier : SecSt := { loaded := [0], keys := [
   (0, 4178818574), (1, 3882995156), (2, 1172618933), (3, 284931914), (4, 2316777175), (5, 1753711171), (6, 1969480741),
   (7, 2146249989), (8, 441692018), (9, 2832396475), (10, 2720841465), (11, 2937115653), (12, 3739503388),
   (13, 1902740794), (14, 3060078201), (15, 932314792)] }
theorem witness_certificate :
    let c : Chip := { (portChip epAuth {}).raise (F.EPORT.PEER_INFO.VALID 1) with sec := certifier }
    let signed := beOf 8 (c.get64 (R.EPORT.PEER_UID_LO 1) (R.EPORT.PEER_UID_HI 1)) ++ beOf 32 cert.x.toNat ++ beOf 32 cert.y.toNat;
    c.get F.SEC.FAB_CA.FAB_CA_SLOT = 0 ∧ c.elState 1 = epAuth ∧ c.on (F.EPORT.PEER_INFO.VALID 1) = true ∧
      ecdsaOk (c.keyNumber 0 0 8) (c.keyNumber 0 8 8) (beNat (sha256 signed)) cert.r.toNat cert.s.toNat = true := by decide +kernel
theorem witness_EreloLinksComeUpAndGoDown :
    let un (c : Chip) : State := unlocked c (pageNo (R.EPORT.CTRL 1))
    let w (c : Chip) := c.set (elCredits 1) 3;
    ((un (portChip epDown {})).Lets .parallel (R.EPORT.CTRL 1) ∧ (portChip epDown {}).elState 1 = epDown ∧ (portChip epUp {}).elState 1 = epUp ∧
      (un (portChip epUp {})).Lets .parallel (R.EPORT.CTRL 1) ∧ (portChip epProbe {}).elState 1 = epProbe ∧ (portChip epTrain {}).elState 1 = epTrain) ∧
    ((portChip epUp {}).on (F.EPORT.PORT_STAT.LOCK 1) = true ∧ ({} : Chip).on (F.EPORT.PORT_STAT.LOCK 1) = false ∧
      ((w (portChip epUp { waiting := [(4, 1, wpkt)] })).eport 1).waiting = (4, 1, wpkt) :: [] ∧ creditsOf wpkt = 1 ∧
      (w (portChip epUp {})).get (elCredits 1) = 3 ∧ (portChip epUp {}).get (elCredits 1) < creditsOf wpkt ∧ ((portChip epUp {}).eport 1).waiting = []) ∧
    ((portChip epAuth {}).elState 1 = epAuth ∧ (portChip epAuth {}).get F.EMGR.MGR_CFG.DOMAIN_ID = 0 ∧ (portChip epAuth {}).fenced = false ∧
      ((portChip epAuth {}).set (hState R.SEC.ID) 2).fenced = true ∧
      (portChip epAuth {}).on (F.EPORT.PORT_CFG.AUTH_REQ 1) = (portChip epAuth {}).on (F.EPORT.PORT_CFG.AUTH_REQ 1)) ∧
    ((((portChip epAuth {}).raise (F.EPORT.PEER_INFO.VALID 1))).on (F.EPORT.PEER_INFO.VALID 1) = true ∧
      ({ portChip epUp {} with sec := { loaded := [0] } } : Chip).sec.loaded.contains ((portChip epUp {}).get F.SEC.FAB_CA.FAB_CA_SLOT) = true ∧
      ((portChip epUp { keyAt := 4 }).raise (F.EPORT.PORT_STAT.AUTH_OK 1)).on (F.EPORT.PORT_STAT.AUTH_OK 1) = true ∧
      (portChip epUp {}).sec.loaded.contains 0 = false) ∧
    (((portChip epDown { downAt := some 6 }).eport 1).downAt = some 6 ∧ ((portChip epDown { downAt := some 6 }).eport 1).declared = false ∧
      ((portChip epDown { downAt := some 6 }).set F.EMGR.DISC_STAT.DSTATE 5).elD = dsReady ∧
      ((portChip epDown {}).set (F.EMGR.FLOW_STAT.FSTATE.win 0) 2).flState 0 = 2 ∧ (portChip epDown {}).flState 0 ≠ 2) := by
  unfold State.Lets; decide +kernel

/-- Port 1 in a state, DSTATE and what the manager holds. -/
def discChip (state dstate : Nat) (e : ElSt) : Chip := ({ portChip state {} with el := e } : Chip).set F.EMGR.DISC_STAT.DSTATE dstate
theorem witness_FabricDiscoveryAndTime :
    let root (c : Chip) := c.raise F.EMGR.DISC_STAT.IS_ROOT
    let par (c : Chip) := c.raise (F.EPORT.PORT_STAT.PARENT 1);
    ((unlocked (discChip epUp 5 {}) (pageNo R.EMGR.DISC_CMD)).Lets .parallel R.EMGR.DISC_CMD ∧
      (root (discChip epUp 5 {})).on F.EMGR.DISC_STAT.IS_ROOT = true ∧ (discChip epUp 5 {}).on F.EMGR.DISC_STAT.IS_ROOT = false ∧
      ((discChip epUp 5 {}).wr R.EMGR.ROOT_UID_LO 9).get64 R.EMGR.ROOT_UID_LO R.EMGR.ROOT_UID_HI = 9 ∧
      (par (discChip epUp 5 {})).on (F.EPORT.PORT_STAT.PARENT 1) = true ∧ (par (discChip epUp 5 {})).on (F.EPORT.PORT_STAT.PARENT 0) = false) ∧
    ((discChip epUp 2 { best := some (7, 2) }).elD = dsElecting ∧ (discChip epUp 2 { best := some (7, 2) }).elState 1 = epUp ∧
      (discChip epUp 2 { best := some (7, 2) }).el.best = some (7, 2) ∧ (discChip epUp 2 {}).el.best = none) ∧
    ((discChip epUp 3 { parent := some (4, 1) }).elD = dsAddressing ∧ (discChip epUp 3 { parent := some (4, 1) }).el.parent = some (4, 1) ∧
      (discChip epUp 3 {}).elAddr = none ∧ ((discChip epUp 3 {}).wr R.EMGR.DEV_ADDR (wd (2 ^ 31 + 2))).elAddr = some 2 ∧
      (discChip epUp 5 { warmAt := some 4 }).el.warmAt = some 4) ∧
    ((par (discChip epUp 5 {})).get F.EMGR.TIME_CFG.TSRC = 0 ∧ ((discChip epUp 5 {}).set F.EMGR.TIME_CFG.TSRC 1).get F.EMGR.TIME_CFG.TSRC = 1 ∧
      ((discChip epUp 5 {}).raise F.EMGR.TIME_CFG.STEP_EN).on F.EMGR.TIME_CFG.STEP_EN = true ∧
      (∀ n : Fin 40, (discChip epUp 5 {}).on (F.PG.CTRL.EN n) = false) ∧
      (unlocked (discChip epUp 5 {}) (pageNo R.EMGR.TIME_OFS)).Lets .parallel R.EMGR.TIME_OFS) := by
  unfold State.Lets; decide +kernel

/-- Ports 0 and 1 UP, device 2 with routes, and what the manager holds. -/
def fabChip (ports : Tab ElPort) (e : ElSt) : Chip :=
  (((({ phase := .ready, ports := ports, el := { e with table := [(3, 0, 1)] } } : Chip).set (F.EPORT.STATUS.STATE 0) 4).set (F.EPORT.STATUS.STATE 1) 4).wr
    R.EMGR.DEV_ADDR (wd (2 ^ 31 + 2))).set F.EMGR.DISC_STAT.DSTATE 5
def sealed (ptype : Nat) (dst : BitVec 24) (pl : List (BitVec 8)) (ttl : BitVec 8) : Pkt :=
  pktSeal { enc := false, dst := dst, ttl := ttl, flow := 9, src := 0xC0, seq := 3, payload := pl, hcrc := 0, crc := 0, epoch := 0, pn := 0, tagOk := true } ptype
theorem witness_FabricPacketsAreForwarded :
    let c := fabChip [] {}
    let away := sealed 1 0x0C1 [1, 2, 3, 4] 5;
    (c.elState 1 = epUp ∧ c.elAddr = some 2 ∧ away.hcrc = pktHcrc away 1 ∧ pktBodyOk away 1 = true ∧ c.elRoute (away.dst.toNat / 64 % 2 ^ 14) = some (0, 1) ∧
      elClass 1 = 0 ∧ elClass 0 = 1 ∧ away.ttl ≠ 0 ∧ (sealed 1 0x0C1 [] 0).ttl = 0 ∧ creditsOf away = 1 ∧ c.get (elCredits 0) = 0 ∧
      (c.set (elCredits 0) 4).get (elCredits 0) = 4 ∧ (c.eport 0).waiting = [] ∧ c.elRoute 7 = none ∧ ({} : Chip).elState 1 ≠ epUp) := by
  decide +kernel
theorem witness_FabricPacketsAreDelivered :
    let x : ElEp := { bound := some (3, 9), seq := some 3 }
    let c := fabChip [] { eps := [(5, x)] } |>.set (F.EMGR.EP_CFG.MODE 5) 1 |>.set (F.EMGR.EP_CFG.MODE 6) 2
    let pk (e : Nat) := sealed 0 (BitVec.ofNat 24 (0x080 + e)) [1, 2, 3, 4] 5
    let mq := sealed 2 0x080 [1, 1, 0, 0, 0x10, 0, 0, 0, 0, 0, 0, 7] 5;
    ((pk 5).hcrc = pktHcrc (pk 5) 0 ∧ pktBodyOk (pk 5) 0 = true ∧ c.elAddr = some ((pk 5).dst.toNat / 64 % 2 ^ 14) ∧ (pk 5).dst.toNat % 64 = 5 ∧
      c.get (F.EMGR.EP_CFG.MODE 5) = 1 ∧ (c.eep 5).bound = some ((pk 5).src.toNat / 64 % 2 ^ 14, (pk 5).flow.toNat) ∧ (c.eep 5).late = false ∧
      c.get (F.EMGR.EP_CFG.MODE 6) = 2 ∧ (payloadWords (pk 6)).length = 1 ∧ c.marchSlice = none) ∧
    (mq.hcrc = pktHcrc mq 2 ∧ pktBodyOk mq 2 = true ∧ mq.dst.toNat % 64 = 0 ∧ mq.payload.length = 12 ∧ c.portOpen .fabric = true ∧
      (mq.payload.getD 0 0).toNat = 1 ∧ (c.mbxCh 1).dest = 0 ∧ ({ c with mbx := [(1, { dest := 3 })] } : Chip).mbxCh 1 = { dest := 3 }) ∧
    ((c.set (F.EMGR.FLOW_STAT.FSTATE.win 9) 2).flState 9 = 2 ∧ (fabChip [] { flows := [(9, { words := some [5] })] }).eflow 9 = { words := some [5] } ∧
      c.elUp ((fabChip [] {}).eflow 9).port = true ∧ c.fenced = false ∧ (c.eep 5).bound ≠ none ∧ (c.set (F.EMGR.FLOW_STAT.FSTATE.win 9) 1).flState 9 = 1) := by
  decide +kernel
theorem witness_FabricMessages :
    let c := fabChip [] {} |>.wr R.EMGR.MSG_DST 0x0C1;
    (unlocked c (pageNo R.EMGR.MSG_CMD)).Lets .parallel R.EMGR.MSG_CMD ∧ c.on F.EMGR.MSG_STAT.BUSY = false ∧ c.elD = dsReady ∧
      bits (c.rd R.EMGR.MSG_DST) 0 24 / 2 ^ 20 = 0 ∧ c.elRoute (bits (c.rd R.EMGR.MSG_DST) 0 24 / 64 % 2 ^ 14) = some (0, 1) ∧
      (c.wr R.EMGR.MSG_STAT 1).on F.EMGR.MSG_STAT.BUSY = true := by
  unfold State.Lets; decide +kernel

theorem witness_ReservationsOpenAndCloseFlows :
    let w : ElWin := { dev := 6, flow := 9, start := 4, len := 9, k := 1, held := some 7, back := 0 }
    let c := fabChip [(1, { wins := [w] })] {} |>.wr (win 9 R.EMGR.FLOW_DST) 0x0C5 |>.raise F.EMGR.TIME_STAT.LOCKED |>.set (F.EMGR.EP_CFG.MODE 5) 1
    let rq : Resv := { kind := .open_, dev := 6, flow := 9, sink := 0x085, hop := 1, k := 1, phase := 0, nw := 0, enc := false };
    (unlocked c (pageNo R.EMGR.FLOW_CMD)).Lets .parallel R.EMGR.FLOW_CMD ∧
    (c.elD = dsReady ∧ c.flState 9 = 0 ∧ c.flK 9 ≤ 13 ∧ c.flPhase 9 < flowPeriod (c.flK 9) ∧ c.flBase 9 + c.flNw 9 ≤ 256 ∧ c.flDst 9 % 64 = 5 ∧
      c.elRoute (c.flDst 9 / 64) = some (0, 1) ∧ 1 ≤ c.get F.EMGR.MGR_CFG.HOP_MAX ∧ c.on F.EMGR.TIME_STAT.LOCKED = true ∧ c.flEnc 9 = false ∧
      c.elTestLink 0 w = 0 ∧ c.elTestLink 1 w = 0x83) ∧
    (c.elState 1 = epUp ∧ c.elAddr = some (rq.sink.toNat / 64 % 2 ^ 14) ∧ c.get (F.EMGR.EP_CFG.MODE 5) = 1 ∧ c.get (F.EMGR.EP_CFG.NWM1 5) = rq.nw ∧
      (c.eep 5).bound = none ∧ c.elRoute (0x0C5 / 64 % 2 ^ 14) = some (0, 1) ∧ c.elRoute 9 = none ∧ (c.eport 0).mgmt.length < 8) ∧
    ((c.set (F.EMGR.FLOW_STAT.FSTATE.win 9) 1).flState 9 = 1 ∧ c.on F.EMGR.MGMT_PEND.BUSY = false ∧
      (c.wr R.EMGR.MGMT_PEND (wd (2 ^ 31 + 3))).on F.EMGR.MGMT_PEND.BUSY = true ∧ c.elAddr ≠ some 6 ∧ c.elAddr = some 2 ∧
      (c.eport 1).wins.find? (fun y => y.dev == 6 && y.flow == 9) = some w ∧
      (c.eport 1).wins.find? (fun y => y.dev == 6 && y.flow == 9 && y.held.isSome) = some w ∧ w.held = some 7) := by
  unfold State.Lets; decide +kernel

/-- A device with a key slot selected and key words written. -/
def keyChip (slot : Nat) (x : SecSt) : Chip := Chip.wr { phase := .ready, sec := x } R.SEC.KEY_SEL (wd slot)
theorem witness_SecurityEngineKeepsKeysAndSigns :
    let un (c : Chip) : State := unlocked c (pageNo R.SEC.KEY_CMD)
    let full : Tab Word := [(128, 1), (129, 2), (130, 3), (131, 4), (132, 5), (133, 6), (134, 7), (135, 8)];
    ((un (keyChip 8 {})).Lets .parallel R.SEC.KEY_DATA ∧ (un (keyChip 8 {})).Lets .parallel R.SEC.KEY_CMD ∧
      (un (keyChip 8 {})).Lets .parallel R.SEC.ATT_CMD ∧ (keyChip 8 {}).get ⟨R.SEC.STATUS, 5, 3⟩ = 0 ∧
      ((keyChip 8 {}).set ⟨R.SEC.STATUS, 5, 3⟩ 2).get ⟨R.SEC.STATUS, 5, 3⟩ = 2 ∧ bits ((keyChip 8 {}).rd R.SEC.KEY_SEL) 0 4 = 8 ∧
      bits ((keyChip 13 {}).rd R.SEC.KEY_SEL) 0 4 = 13 ∧ bits (((keyChip 8 {}).wr R.SEC.KEY_ADDR 8).rd R.SEC.KEY_ADDR) 0 4 = 8) ∧
    (8 ∈ (keyChip 8 { locked := [8] }).sec.locked ∧ ((keyChip 8 { buf := full }).sec.buf.filter fun e => e.1 / 16 == 8).length = 8 ∧
      (keyChip 8 {}).sec.buf = []) ∧
    (bits ((keyChip 8 {}).rd R.SEC.ATT_STAT) 0 1 = 0 ∧ bits (((keyChip 8 {}).wr R.SEC.ATT_STAT 1).rd R.SEC.ATT_STAT) 0 1 = 1 ∧
      (keyChip 8 {}).portOpen .parallel = true ∧ ({ phase := .held } : Chip).portOpen .parallel = false) := by
  unfold State.Lets; decide +kernel

/-- A bundle of one loop with one instruction, and its digest. -/
def image : Bank :=
  [(0, 0x4C424D41), (1, 1), (3, 7), (4, 196), (5, 1), (6, 64), (7, 1), (16, 3), (17, 96), (18, 1), (20, 9), (21, 100), (24, 0xF0000000),
   (25, 3396510109), (26, 1912995373), (27, 503369721), (28, 3349709440), (29, 2346280121), (30, 3996316858), (31, 2593253329), (32, 3111146549),
   (33, 2047564113), (34, 3527430481), (35, 1455981783), (36, 3750716936), (37, 4253191407), (38, 619010847),
   (39, 222975265), (40, 3979595971), (41, 2047564113), (42, 3527430481), (43, 1455981783), (44, 3750716936),
   (45, 4253191407), (46, 619010847), (47, 222975265), (48, 3979595971)]
/-- A key store whose slot 0 holds the public key of that signature. -/
def signer : SecSt := { loaded := [0], keys := [
   (0, 2151444789), (1, 1508127201), (2, 3598763069), (3, 4171793176), (4, 24992960), (5, 3678262016), (6, 2333038267),
   (7, 78607839), (8, 1602454219), (9, 4117160749), (10, 2090370393), (11, 1321611898), (12, 1371047013), (13, 1543349543),
   (14, 418437250), (15, 1362846285)] }
theorem witness_image : digestOk image = true := by decide +kernel
theorem witness_signature :
    let c : Chip := { phase := .ready, bankB := image, active := some 0, sec := signer }
    let sig (k : Nat) : Nat := beNat ((List.range 32).map fun j => bankByte image (bundleLen image - 64 + 32 * k + j));
    bundleKey image < 8 ∧ bundleKey image ∈ c.sec.loaded ∧ c.get ⟨R.SEC.STATUS, 5, 3⟩ ≠ 2 ∧
      ecdsaOk (c.keyNumber 0 0 8) (c.keyNumber 0 8 8) (beNat (bundleDigest image)) (sig 0) (sig 1) = true := by decide +kernel
theorem witness_BanksAndMemoriesAreReachedByTheHost :
    let c : Chip := { phase := .ready, bankB := image, active := some 0, sec := signer }
    let un (c : Chip) (a : Nat) : State := unlocked c (pageNo a)
    let busy := c.wr R.NVM.AUTH_STAT 1
    let loop : Chip := ((({ c with admitted := [3] } : Chip).set ((F.LPD.LPD_STATE.PAIR).win 3) 2).set (fPair 3) 2).set ((F.CLE.SLOT_DMEM.DLEN 2).win 0) 4;
    ((un c R.NVM.PROG_DATA).Lets .parallel R.NVM.PROG_DATA ∧ (un c R.NVM.PROG_DATA).Lets .parallel R.NVM.AUTH_CMD ∧
      (un c R.NVM.PROG_DATA).Lets .parallel R.NVM.VER_CMD ∧ busy.on F.NVM.AUTH_STAT.BUSY = true ∧ c.on F.NVM.AUTH_STAT.BUSY = false) ∧
    (bundleKey image ∈ c.sec.loaded ∧ bundleOk image 255 = true ∧ ¬bits (c.rd R.SYS.DEV_REV) 0 8 < bundleDieRev image ∧ digestOk [] = false ∧
      bundleVersion image = 7 ∧ (c.rd R.NVM.MIN_VERSION).toNat = 0 ∧ c.active = some 0 ∧ ({} : Chip).active = none) ∧
    ((un loop (R.CLE.DMEM_DATA 2)).Lets .parallel (R.CLE.DMEM_DATA 2) ∧ (un c (R.CLE.DMEM_DATA 2)).Lets .parallel (R.CLE.SHM_DATA 2) ∧
      (un c (R.CLE.DMEM_DATA 2)).Lets .parallel (R.CLE.SLOT_CLR 2) ∧
      (loop.admitted.find? fun l => loop.get ((F.LPD.LPD_STATE.PAIR).win l) == 2 && decide (loop.dbase l ≤ 0) && decide (0 < loop.dbase l + loop.dlen l)) = some 3 ∧
      (loop.set (fState 3) lsClosed).get (fState 3) ≠ lsOpen ∧ (loop.set (fState 3) lsOpen).get (fState 3) = lsOpen) ∧
    (c.portOpen .parallel = true ∧ ({ phase := .held } : Chip).portOpen .parallel = false ∧ ({ c with marchSlice := some 0 } : Chip).marchSlice = some 0) := by
  unfold State.Lets; decide +kernel

/-- CAN controller 1 ACTIVE and Ethernet MAC 1 enabled. -/
def vehChip (x : CanSt) : Chip :=
  (({ phase := .ready, cans := [(1, x)] } : Chip).set (hState (R.CANX.ID 1)) 1).raise (hEn (R.ETH.ID 1))
theorem witness_VehicleNetworksSendAndReceive :
    let c := vehChip {}
    let un (a : Nat) : State := unlocked c (pageNo a)
    let open_ := c.wr (R.ETH.MAC_CFG 1) 4;
    ((un (R.CANX.TX_REQ 1)).Lets .parallel (R.CANX.TX_REQ 1) ∧ (un (R.CANX.TX_REQ 1)).Lets .parallel (R.CANX.MSG_DATA 1) ∧
      (un (R.ETH.MDIO_CMD 1)).Lets .parallel (R.ETH.MDIO_CMD 1) ∧ c.get (hState (R.CANX.ID 1)) = 1 ∧ ({} : Chip).get (hState (R.CANX.ID 1)) ≠ 1) ∧
    ((c.wr (R.CANX.TX_REQ 1) 8).on (bitOf (R.CANX.TX_REQ 1) 3) = true ∧ bits (c.rd (R.CANX.CAN_MODE 1)) 3 1 = 0 ∧ bits (c.rd (R.CANX.CAN_MODE 1)) 5 1 = 0 ∧
      ((vehChip { put0 := 70, get0 := 6 }).can 1).put0 = 70 ∧ c.portOpen .parallel = true) ∧
    (c.on (hEn (R.ETH.ID 1)) = true ∧ c.on (hEn (R.ETH.ID 0)) = false ∧ open_.ethPasses 1 5 = true ∧ bits (c.rd (R.ETH.RX_RING 1)) 24 8 = 0 ∧
      bits ((c.wr (R.ETH.RX_RING 1) 0x04000000).rd (R.ETH.RX_RING 1)) 24 8 = 4 ∧ bits ((c.wr (R.ETH.TX_RING 1) 0x04000000).rd (R.ETH.TX_RING 1)) 24 8 = 4 ∧
      bits (c.rd (R.ETH.MDIO_STAT 1)) 0 1 = 0 ∧ bits ((c.wr (R.ETH.MDIO_STAT 1) 1).rd (R.ETH.MDIO_STAT 1)) 0 1 = 1 ∧
      Tab.find ({ c with mdio := [(1, 0x400)] } : Chip).mdio 1 = some 0x400) := by
  unfold State.Lets; decide +kernel
/-- A frame for another address does not pass a MAC without filters, wherever the hash filter would place it. -/
theorem witness_ethFilter : (vehChip {}).ethPasses 1 5 = false := by
  have h (a : Nat) (ha : (vehChip {}).rd a = 0) (k : Nat) : (vehChip {}).on (bitOf a k) = false := by
    simp [Chip.on, Chip.get, bitOf, ha, bits]
  have h0 := h (R.ETH.HASH_LO 1) (by decide +kernel)
  have h1 := h (R.ETH.HASH_HI 1) (by decide +kernel)
  have hash : (vehChip {}).on (bitOf (if Config.ethHash 5 % 64 < 32 then R.ETH.HASH_LO 1 else R.ETH.HASH_HI 1) (Config.ethHash 5 % 32)) = false := by
    split
    · exact h0 _
    · exact h1 _
  unfold Chip.ethPasses
  simp only [hash]
  decide +kernel

/-- A device with a key of zeros in slot S0 and a nonce of zeros, asked to clear partition 0, with the MAC of that in place. -/
def wipeChip (x : ClrSt) : Chip :=
  [(0, 0x88e58ac7), (1, 0xeb5d34ca), (2, 0x3dcec699), (3, 0x9b593c14), (4, 0xe9d44162), (5, 0x86dcf471), (6, 0xf27ed937), (7, 0xb3de148)].foldl
    (fun (c : Chip) (e : Nat × Word) => c.wr (R.EVREC.CLR_MAC e.1) e.2) { phase := .ready, wipe := x, sec := { loaded := [8] } }
theorem witness_SafetyClearNeedsConsent :
    let c := wipeChip { nonceAt := some 0 }
    let un (c : Chip) : State := unlocked c (pageNo R.EVREC.CLR_CMD);
    ((un c).Lets .parallel R.EVREC.CLR_CMD ∧ c.get F.EVREC.CLR_CFG.PART = 0 ∧ c.get F.EVREC.CLR_CFG.KEY = 0 ∧
      c.get ⟨R.SEC.STATUS, 5, 3⟩ ≠ 2 ∧ c.wipe.nonceAt ≠ none ∧ c.wipe.stale = false ∧ 8 ∈ c.sec.loaded ∧
      (wipeChip {}).wipe.nonceAt = none) ∧
    (c.get (hState R.ISN.ID) = 0 ∧ c.on F.SAFE.STO_STAT.CUT_A = true ∧ c.on F.SAFE.STO_STAT.CUT_B = true ∧
      c.on F.SAFE.PARK_STAT.ENGAGE_OK = false ∧ (c.set F.SAFE.PARK_STAT.ENGAGE_OK 1).on F.SAFE.PARK_STAT.ENGAGE_OK = true) := by
  unfold State.Lets; decide +kernel
theorem witness_wipeMac :
    let c := wipeChip { nonceAt := some 0 }
    let bytes (f : Nat → Word) : List Nat := (List.range 8).flatMap fun k => beBytes (f k);
    bytes (fun k => c.rd (R.EVREC.CLR_MAC k)) = hmac (bytes fun k => Tab.at c.sec.keys 0 (8 * 16 + k))
      (bytes (fun k => c.rd (R.EVREC.CLR_NONCE k)) ++ [0] ++ beBytes (c.rd R.SYS.UID_HI) ++ beBytes (c.rd R.SYS.UID_LO)) := by
  decide +kernel

/-- A record, and a partition with a record staged. -/
def recA (code : Nat) : Rec := { seq := 4, optime := 0, pcycle := 0, src := 1, code := code, rep := 0, ms := 0, lo := 0, hi := 0, span := 0 }
def partChip (p : Nat) (x : PartSt) : Chip := { phase := .ready, parts := [(p, x)] }
theorem witness_RecordsAreWrittenUpdatedAndCleared :
    let un (c : Chip) : State := unlocked c (pageNo R.EVREC.CLR_CMD)
    let n : Newest := { data := recA 0x8001, first := 0, last := 0, slot := some 7, dirty := true }
    let repeats (m : Newest) (code : Nat) : Bool := m.data.src = 1 ∧ m.data.code = code ∧ m.data.lo = 0 ∧ m.data.hi = 0 ∧ m.data.rep < 65535;
    ((un (partChip 1 {})).Lets .parallel R.EVREC.HREC_CMD ∧ (un (partChip 1 {})).Lets .parallel R.EVREC.REC_SEL ∧
      (un (partChip 1 {})).Lets .parallel R.EVREC.CLR_CMD) ∧
    (((partChip 1 {}).part 1).queue = [] ∧ ((partChip 1 {}).part 1).lost = 0 ∧
      ((partChip 1 { queue := [recA 2] }).part 1).queue = recA 2 :: [] ∧ ((partChip 0 { queue := [recA 2], lost := 3 }).part 0).lost ≠ 0 ∧
      ((partChip 0 { queue := [recA 2], lost := 3 }).part 1).queue.length < 32 ∧
      ((partChip 1 { queue := List.replicate 32 (recA 2), lost := 1 }).part 1).queue.length = 32) ∧
    (((partChip 1 { owed := [n] }).part 1).owed = n :: [] ∧ ((partChip 1 { newest := some n }).part 1).newest = some n ∧ n.dirty = true ∧
      ((partChip 1 {}).part 1).owed = [] ∧ ((partChip 1 {}).part 1).newest = none) ∧
    (repeats n 0x8001 = true ∧ repeats n 0x8002 = false ∧ bits (0x18001 : Word) 16 1 = 1 ∧ (0x18001 : Word).toNat % 65536 = 0x8001 ∧
      bits (0x8001 : Word) 16 1 = 0 ∧ (0x17FFF : Word).toNat % 65536 < 0x8000 ∧
      (partChip 1 {}).st ≤ n.last + 10 * Config.sec ∧ ((partChip 1 {}).rd R.EVREC.HREC_PAY_LO).toNat = 0) ∧
    (({ asked := true } : ClrSt).asked = true ∧ ({ nonceAt := some 3 } : ClrSt).nonceAt = some 3 ∧ ({ lockAt := some 3 } : ClrSt).lockAt = some 3 ∧
      (partChip 1 {}).get ⟨R.SEC.STATUS, 5, 3⟩ ≠ 2) := by
  unfold State.Lets; decide +kernel

/-- A device with module 2 enabled, or with a flush in progress. -/
def modChip (on flush : Nat) : Chip :=
  (Chip.set { phase := .ready } (F.LIFE.MOD_CFG.EN.win 2) on).set F.LIFE.FLUSH_STAT.BUSY flush
theorem witness_LifetimeDataIsFlushedAndModulesTracked :
    let un (c : Chip) : State := unlocked c (pageNo R.LIFE.FLUSH_CMD);
    ((un (modChip 1 0)).Lets .parallel R.LIFE.FLUSH_CMD ∧ (un (modChip 1 0)).Lets .parallel R.LIFE.MOD_RESET) ∧
    ((modChip 1 0).on F.LIFE.FLUSH_STAT.BUSY = false ∧ (modChip 1 1).on F.LIFE.FLUSH_STAT.BUSY = true) ∧
    ((modChip 1 0).on (F.LIFE.MOD_CFG.EN.win 2) = true ∧ (modChip 0 0).on (F.LIFE.MOD_CFG.EN.win 2) = false ∧
      (modChip 1 0).on (F.THERM.CH_FLAGS.FAULT.win ((modChip 1 0).get (F.LIFE.MOD_CFG.TREF.win 2))) = false) ∧
    ((modChip 1 0).get (hState R.ISN.ID) = 0 ∧ ((modChip 1 0).set (hState R.ISN.ID) 2).get (hState R.ISN.ID) ≠ 0 ∧
      ((modChip 1 0).part 1).queue.length < 32) := by
  unfold State.Lets; decide +kernel

/-- A device in a phase, with what outlives a reset of the start machinery. -/
def phaseChip (p : Phase) (x : StartSt) : Chip := { phase := p, start := x }
def coldRun (fail : Option ColdStep) (ports : Bool) : ColdRun :=
  { fail := fail, patchBad := none, atPorts := ports, badPairs := [], badWord := none, analog := [], bandgap := 0, badLines := [], corr := [],
    readyAt := 5000 }
def warmRun (fail : Option WarmStep) (token ports : Bool) : WarmRun :=
  { fail := fail, patchBad := none, tokenOk := token, sealOk := true, atPorts := ports, badPairs := [], bandgap := 0, calOk := true,
    lifeOk := true, badLines := [], corr := [], readyAt := 7000 }
theorem witness_ResetsAndStartsRunTheirSteps :
    let ready := phaseChip .ready { kcOk := true };
    (State.Lets (unlocked ready (pageNo R.KENNEL.WAKE_CFG)) .parallel R.KENNEL.WAKE_CFG ∧
      (phaseChip .safeHold {}).phase = .safeHold ∧ ready.phase ≠ .safeHold ∧ (phaseChip .cold {}).phase = .cold ∧ (phaseChip .held {}).phase ≠ .ready) ∧
    (ready.phase = .ready ∧ ready.on F.BIST.SCAN_STATUS.SCAN_OPEN = false ∧
      (ready.raise F.BIST.SCAN_STATUS.SCAN_OPEN).on F.BIST.SCAN_STATUS.SCAN_OPEN = true) ∧
    ((phaseChip .held {}).start.supplies = true ∧ (phaseChip .held { supplies := false }).start.supplies = false ∧
      (phaseChip .held {}).start.hold = false ∧ (phaseChip .held { hold := true }).start.hold = true ∧
      ((phaseChip .held {}).part 0).queue.length < 16 ∧ (coldRun none true).fail = none ∧ (coldRun (some .c10) false).fail = some .c10 ∧
      (coldRun none true).atPorts = true ∧ (coldRun none false).atPorts = false ∧
      (phaseChip .held {}).start.cause = 1 ∧ (phaseChip .held { cause := 8 }).start.cause ≠ 1) ∧
    ((phaseChip .warmHeld {}).phase = .warmHeld ∧ (phaseChip .warm {}).phase = .warm ∧ (warmRun none false true).tokenOk = false ∧
      (warmRun (some .w3) true true).fail = some .w3 ∧ (warmRun none true true).tokenOk = true) ∧
    ((phaseChip .failed {}).phase = .failed ∧ (phaseChip .failed { hold := true }).start.hold = true ∧
      (phaseChip .failed { esc := true }).start.esc = true ∧ (phaseChip .failed {}).start.esc = false ∧
      (phaseChip .failed {}).start.hold = false) := by
  unfold State.Lets; decide +kernel
/-- A valid bank that its seal does not match, one that it does, and no valid bank at all. -/
theorem witness_seals :
    let c (x : Option Seal) : Chip := Chip.raise { phase := .warm, bankA := image, sealA := x } ⟨R.NVM.BANK_STAT, 0, 1⟩
    let good : Seal := { digest := bundleDigest image, gen := 0 };
    ((c none).on ⟨R.NVM.BANK_STAT, 0, 1⟩ = true ∧ (c none).sealA = none ∧ (c (some good)).sealA = some good ∧
      ((c none).rd R.NVM.MIN_VERSION).toNat ≤ bundleVersion (c none).bankA ∧ bits ((c none).rd R.NVM.ACTIVE_BANK) 0 1 = 0) ∧
    ((phaseChip .warm {}).on ⟨R.NVM.BANK_STAT, 0, 1⟩ = false ∧ (phaseChip .warm {}).on ⟨R.NVM.BANK_STAT, 1, 1⟩ = false) := by
  decide +kernel

/-- What a command answers is a next state of which `p` holds. -/
def after (o : Host.Outcome State Fault Refusal) (p : State → Bool) : Bool := match o with | .next t => p t | _ => false

/-! ### The well-formedness check: an ill-formed term for each check, which it refuses -/

theorem test_wf_registers : (WellFormed (.registerWrite .parallel 0x3FF000#22 0) || WellFormed (.stickyClear .parallel 0x040000#22 1) ||
    WellFormed (.counterClear .parallel 0x040000#22 1) || WellFormed (.unmappedAccess .parallel 0x040000#22 true) ||
    WellFormed (.latchedLoRead (.port .parallel) 0x040000#22) || WellFormed (.shadowWrite .parallel 0x040000#22 0)) = false := by
  decide +kernel

theorem test_wf_frames : (WellFormed (.shpReadFrame 0x0403FF#22 1 none) || WellFormed (.shpReadFrame 0x040000#22 1 (some 2)) ||
    WellFormed (.shpWriteFrame 0x040000#22 [] 0 false) || WellFormed (.shpWriteFrame 0x0403FF#22 [1, 2] 0 false) ||
    WellFormed (.shpFrameInvalid 0x1E 0x040000#22 0)) = false := by
  decide +kernel

theorem test_wf_pages : (WellFormed (.lockArm .parallel 0xFFF#12) || WellFormed (.lockOpen .parallel 0xFFF#12) ||
    WellFormed (.lockClose .parallel 0xFFF#12 1) || WellFormed (.lockClose .parallel 0x080#12 0x5A5A#16) ||
    WellFormed (.unlockWindowExpire 0xFFF#12) || WellFormed (.commitRequest .parallel 0xFFF#12) || WellFormed (.shadowCommit 0xFFF#12) ||
    WellFormed (.freezeRelease .parallel 0xFFF#12) || WellFormed (.softReset .parallel 0xFFF#12)) = false := by
  decide +kernel

theorem test_wf_codes : (WellFormed (.mbxInvalidOp .parallel 0 1#2) || WellFormed (.admAdmit .parallel 0 36 false) ||
    WellFormed (.admTestOnly .parallel 0 63 false) || WellFormed (.admInvalidOp .parallel 0 0 4#3) || WellFormed (.skewDetect 3 3) ||
    WellFormed (.skewClear 0 0) || WellFormed (.lpdInvalidCmd .parallel 0 1#3) || WellFormed (.tapBypass 1) ||
    WellFormed (.adcResultWrite 0 [] 0)) = false := by
  decide +kernel

/-- A packet with no payload, and one with a word. -/
def pkt0 : Pkt := { wpkt with payload := [] }
theorem test_wf_packets : (WellFormed (.elForward 0 1 pkt0 0) || WellFormed (.elRxFlow 0 pkt0 0) || WellFormed (.elRxMsg 0 pkt0) ||
    WellFormed (.elRxMreq 0 pkt0) || WellFormed (.elRxMrsp 0 pkt0 0)) = false := by
  decide +kernel

/-! ### Check values of the codes: CRC catalogues (CRC-16/CCITT-FALSE, CRC-32), FIPS 180-4 and RFC 4231 -/

theorem test_crc16 : crc16 [0x31, 0x32, 0x33, 0x34, 0x35, 0x36, 0x37, 0x38, 0x39] = 0x29B1 := by decide +kernel

theorem test_crc32 : crc32 [0x31, 0x32, 0x33, 0x34, 0x35, 0x36, 0x37, 0x38, 0x39] = 0xCBF43926 := by
  rw [crc32_eq_forced]; decide +kernel

theorem test_sha256_abc : (sha256 [0x61, 0x62, 0x63]).take 8 = [0xba, 0x78, 0x16, 0xbf, 0x8f, 0x01, 0xcf, 0xea] := by decide +kernel

theorem test_hmac_hi_there : (hmac (List.replicate 20 0x0b) [0x48, 0x69, 0x20, 0x54, 0x68, 0x65, 0x72, 0x65]).take 8 =
    [0xb0, 0x34, 0x4c, 0x61, 0xd8, 0xdb, 0x38, 0x53] := by decide +kernel

/-! ### Worked examples of the spec -/

/-- The LOCK register of PG3 is word 140C07h of the parallel port (Chapter 2, after Table 2.1). -/
theorem test_lock_address : byteOf 0x140C07#22 = 0x50301C ∧ firstOf 0x503#12 + 0x1C = 0x50301C := by decide

/-- Steps 1 and 2 of the unlock example: ARMED, then 64 writes. -/
theorem test_unlock_pg3 :
    let s := State.reset.busWrite .parallel 0x50301C 0x5A5A
    let t := s.busWrite .parallel 0x50301C 0xA5A5
    (s.lock 0x503).armed = true ∧ (t.lock 0x503).remain = 64 ∧ (t.lock 0x503).armed = false := by decide +kernel

/-- A write on a locked page is refused: LOCKED (09h), offset 048h ÷ 4 from bit 8, WR, one refusal (R66, R68). -/
theorem test_locked_write : (State.reset.busWrite .parallel 0x503048 1).chip.rd 0x503024 = 0x01041209 := by decide +kernel

/-- MUL with QS = 0 computes floor(a × b × 2^-31 + 1/2) (Chapter 3): a tie goes towards +∞. -/
theorem test_mul_rounds :
    let run (a b : Word) : Word := match exec (.cleMul 0 .both 0 3 1 2 0) { chip := executing 100 { w := [(1, a), (2, b)] } } with
      | .next t => (t.chip.pair 0).a.getW 3
      | _ => 0
    run 0x40000000 0x40000000 = 0x20000000 ∧ run 1 0x40000000 = 1 ∧ run 0xFFFFFFFF 0x40000000 = 0 ∧
    run 0x80000000 0x80000000 = 0x7FFFFFFF := by decide +kernel

/-- Where source and destination are one register, the source is read first. -/
theorem test_sub_self :
    after (exec (.cleSub 0 .both 0 1 1 2 0) { chip := executing 100 { w := [(1, 9), (2, 4)] } })
      (fun t => (t.chip.pair 0).a.getW 1 = 5 ∧ (t.chip.pair 0).a.wu = 1) = true := by decide +kernel

/-- The program of Chapter 3's PI current loop costs 39 WU. -/
theorem test_pi_loop_cost : (pathsOf [0xC0040005, 0xC0081100, 0x080C4100, 0x80280000, 0xA0114000, 0xA0154001, 0xA0194002, 0x0C1C6500,
    0x0418C700, 0xA0214003, 0xA0254004, 0x4818C801, 0xA4194002, 0x0C2C6400, 0x042D6600, 0x482D6800, 0xC42C0800, 0xF0000000]).cost = 39 := by
  decide +kernel

/-- PG2 of the example after R253: the low side off at 17.5 µs, the high side on at 18.0 and off at 32.5, the low side on at 33.0. -/
theorem test_pg2_edges :
    let c : Chip := (Chip.wr { phase := .ready, pgs := [(2, { len := 1280000, dtHl := 12800, dtLh := 12800 })] }
      (R.PG.DUTY_ACT 2) 0x26666666).set (F.PG.PGCFG.CNTMODE 2) 1
    ((c.raise (F.PG.PG_STAT.LS_CMD 2)).planFrom 2 0 false (c.ideal 2 0 1280000).2).map (fun e => (e.at_, e.high, e.on)) =
      [(448000, false, false), (460800, true, true), (832000, true, false), (844800, false, true)] := by decide +kernel

/-- The cable of the example after R242: 16 round trips of 0FA0h give 1,163 cm, and a reference 37 cm off sets no flag. -/
theorem test_cable :
    let c : Chip := ((((Chip.set { pfus := [(0, { trips := List.replicate 15 0xFA0 })] } (F.PFU.CABLE_CFG.RESP 0) 40000).set
      (F.PFU.CABLE_CFG.VP 0) 5000).set (F.PFU.CABLE_REF.REF_CM 0) 1200).set (F.PFU.CABLE_REF.TOL_CM 0) 50)
    let d := c.cable 0 0xFA0
    d.get (F.PFU.CABLE.LEN_CM 0) = 0x48B ∧ d.on (F.PFU.CABLE.VALID 0) = true ∧ d.on (F.PFU.STICKY.CABLE_CHG 0) = false := by
  decide +kernel

/-- Loadline of the example after R327: 48.000 V with SLOPE = 10 at 120 A gives 47,700 mV. -/
theorem test_loadline :
    let c : Chip := ((Chip.set {} (F.CONV.STATUS.STATE 1) cvRun).wr (R.CONV.VTARGET 1) 48000).set (F.CONV.LOADLINE.SLOPE 1) 10
    (c.cvReference 1 120000).rd (R.CONV.VREF_ACT 1) = 47700 := by decide +kernel

/-- Words 2 and 3 of the record of Chapter 14's example: 1000_0412h and 0007_5405h. -/
theorem test_record_words :
    let ws := recWords { seq := 0x3A7F, optime := 0, pcycle := 0x412, src := 0x10, code := 0x5405, rep := 7, ms := 0, lo := 0, hi := 0, span := 14 }
    ws.getD 0 0 = 0x3A7F ∧ ws.getD 2 0 = 0x10000412 ∧ ws.getD 3 0 = 0x00075405 ∧ (ws.getD 7 0) % 0x10000#32 = 14 ∧ ws.length = 8 := by
  decide +kernel

/-- REC_SEL = 0001_04B4h selects slot 1,204 of the operational partition (the same example). -/
theorem test_rec_sel :
    after (execRecSelWrite .parallel 1204 1 (unlocked { phase := .ready } (pageNo R.EVREC.REC_SEL)))
      (fun t => t.chip.rd R.EVREC.REC_SEL = 0x000104B4) = true := by decide +kernel

/-- A torn start: a full record at HEAD whose HEAD write was lost moves HEAD on, and record 5203h is staged (R458). -/
theorem test_torn_head :
    let x : PartSt := PartSt.putWords { head := 4 } 4 0 (recWords (recA 0x5405))
    let d := Chip.checkPart { parts := [(1, x)] } 1
    (d.part 1).head = 5 ∧ (d.part 1).slots.length = 8 ∧ (d.part 1).queue.length = 1 := by decide +kernel

/-- A blank slot at HEAD is no torn record (R458). -/
theorem test_blank_head : (Chip.checkPart {} 1).get (whole (win 1 R.EVREC.TORN_CNT)) = 0 ∧ ((Chip.checkPart {} 1).part 1).head = 0 := by
  decide +kernel

/-- The third failed warm start within 10 s escalates (R482), a later one does not. -/
theorem test_escalation :
    let fail (t : Nat) := (Chip.startFail { phase := .warm, st := t, start := { warmFails := [2 * Config.sec, Config.sec] } } true 4).start.esc
    fail (11 * Config.sec) = true ∧ fail (11 * Config.sec + 1) = false := by decide +kernel

/-- PORST_N resets the registers but keeps the banks and the Kennel (Table 15.2). -/
theorem test_porst_keeps :
    after (execPorstAssert false none { chip := (Chip.wr { phase := .ready, bankA := [(3, 7)] } (R.PG.DUTY 2) 9).wr R.KENNEL.ALARM 5 })
      (fun t => t.chip.phase = .held ∧ t.chip.bankA = [(3, 7)] ∧ t.chip.rd (R.PG.DUTY 2) = resetWord (R.PG.DUTY 2) ∧
          t.chip.rd R.KENNEL.ALARM = 5 ∧ t.locks = []) = true := by decide +kernel

/-- Withheld consent: GO for the safety partition is refused with SAFETY (R460). -/
theorem test_clear_without_consent :
    after (execClearGo .parallel (unlocked (wipeChip { nonceAt := some 0 }) (pageNo R.EVREC.CLR_CMD)))
      (fun t => t.chip.get F.EVREC.CLR_STAT.STATE = 3 ∧ t.chip.get F.EVREC.CLR_STAT.REASON = 13) = true := by decide +kernel

/-- An empty queue: one tick passes, and the unlock windows stay (logs 2 and 3). -/
theorem test_idle : step State.reset = .next { State.reset with chip := { State.reset.chip with st := 1 } } := by rfl

/-- The command at the front runs and leaves the queue. -/
theorem test_queue :
    after (step (State.reset.withPending [.lockArm .parallel 0x503#12, .lockOpen .parallel 0x503#12]))
      (fun t => t.pending = [.lockOpen .parallel 0x503#12] ∧ (t.lock 0x503).armed = true) = true := by decide +kernel
end

section
/-! SUPPORT. Fields shown one after another, and answers of commands that change registers: what the statements of the proofs below
are assembled from. -/

namespace Sys2Proof.Machine

/-! ### Fields that are set one after another -/

/-- Two fields share no bit. -/
def Fld.Apart (f g : Fld) : Prop := f.reg ≠ g.reg ∨ f.lo + f.len ≤ g.lo ∨ g.lo + g.len ≤ f.lo

/-- A field shares no bit with the listed ones. -/
def Fld.ApartFrom (f : Fld) (l : List (Fld × Nat)) : Prop := ∀ p ∈ l, p.1.Apart f

@[simp] theorem Fld.apartFrom_nil (f : Fld) : f.ApartFrom [] := fun _ h => absurd h List.not_mem_nil

@[simp] theorem Fld.apartFrom_cons (f : Fld) (p : Fld × Nat) (l : List (Fld × Nat)) :
    f.ApartFrom (p :: l) ↔ p.1.Apart f ∧ f.ApartFrom l := List.forall_mem_cons

@[simp] theorem Fld.apartFrom_append (f : Fld) (l m : List (Fld × Nat)) : f.ApartFrom (l ++ m) ↔ f.ApartFrom l ∧ f.ApartFrom m :=
  List.forall_mem_append

theorem Chip.get_set_apart (c : Chip) {f g : Fld} (x : Nat) (h : g.Apart f) : (c.set f x).get g = c.get g := by
  rcases h with h | h
  · exact c.get_set_reg x (Ne.symm h)
  · exact c.get_set_disj x h

/-- A register that is set is its field of 32 bits that is set. -/
theorem Chip.wr_eq_set (c : Chip) (a : Nat) (v : Word) : c.wr a v = c.set (whole a) v.toNat := by
  have h : putBits (c.rd a) 0 32 v.toNat = v := by
    apply BitVec.eq_of_toNat_eq
    rw [← bits_whole, bits_putBits_same _ _ _ _ (by decide), Nat.mod_eq_of_lt v.isLt]
  simp only [Chip.set, h]

theorem Chip.Shows.of_regs {c d : Chip} (h : d.regs = c.regs := by rfl) : c.Shows d [] :=
  ⟨fun _ hp => absurd hp List.not_mem_nil, fun a i _ => by simp only [Chip.rd, h]⟩

/-- What is shown does not depend on what the device holds beside its registers. -/
theorem Chip.Shows.congr {c d e : Chip} {l : List (Fld × Nat)} (h : c.Shows d l) (he : e.regs = d.regs) : c.Shows e l := by
  simpa only [Chip.Shows, Chip.Keeps, Chip.get, Chip.rd, he] using h

/-- A field set apart from those shown is shown beside them. -/
theorem Chip.Shows.set {c d : Chip} {l : List (Fld × Nat)} (h : c.Shows d l) {f : Fld} {x : Nat} (fits : f.lo + f.len ≤ 32)
    (hx : x < 2 ^ f.len) (ha : f.ApartFrom l) : c.Shows (d.set f x) (l ++ [(f, x)]) := by
  obtain ⟨shown, kept⟩ := h
  constructor
  · intro p hp
    rcases List.mem_append.1 hp with hp | hp
    · rw [d.get_set_apart x (ha p hp), shown p hp]
    · rw [List.mem_singleton.1 hp, d.get_set_same f x fits, Nat.mod_eq_of_lt hx]
  · rw [List.map_append]
    exact (kept.mono fun _ => List.mem_append_left _).set x (by simp)

/-- A field that the fields shown do not touch holds what it held. -/
theorem Chip.Shows.get_apart {c d : Chip} {l : List (Fld × Nat)} (h : c.Shows d l) {f : Fld} (ha : f.ApartFrom l) :
    d.get f = c.get f := by
  apply Nat.eq_of_testBit_eq
  intro i
  simp only [Chip.get, testBit_bits]
  by_cases hi : i < f.len
  · rw [h.2 f.reg (f.lo + i) ?_]
    simp only [List.forall_mem_map]
    intro p hp
    by_cases hr : p.1.reg = f.reg
    · have apart : p.1.lo + p.1.len ≤ f.lo ∨ f.lo + f.len ≤ p.1.lo := (ha p hp).resolve_left (absurd hr)
      simp only [Fld.covers, hr, beq_self_eq_true, Bool.true_and, Bool.and_eq_false_iff, decide_eq_false_iff_not]
      omega
    · simp [Fld.covers, hr]
  · simp [hi]

/-- A register that the fields shown do not touch reads as before. -/
theorem Chip.Shows.rd_apart {c d : Chip} {l : List (Fld × Nat)} (h : c.Shows d l) {a : Nat} (ha : ∀ p ∈ l, p.1.reg ≠ a) :
    d.rd a = c.rd a := by
  apply BitVec.eq_of_toNat_eq
  rw [← bits_whole, ← bits_whole]
  exact h.get_apart (f := whole a) fun p hp => .inl (ha p hp)

/-- A count that goes up apart from the fields shown is shown beside them. -/
theorem Chip.Shows.inc {c d : Chip} {l : List (Fld × Nat)} (h : c.Shows d l) {f : Fld} (fits : f.lo + f.len ≤ 32)
    (ha : f.ApartFrom l) : c.Shows (d.inc f) (l ++ [(f, min (c.get f + 1) (2 ^ f.len - 1))]) := by
  have last : 2 ^ f.len - 1 < 2 ^ f.len := Nat.sub_lt (Nat.two_pow_pos _) Nat.one_pos
  rw [Chip.inc, h.get_apart ha]
  exact h.set fits (lt_of_le_of_lt (Nat.min_le_right _ _) last) ha

/-- A register set apart from the fields shown is shown beside them. -/
theorem Chip.Shows.wr {c d : Chip} {l : List (Fld × Nat)} (h : c.Shows d l) {a : Nat} {v : Word} (ha : (whole a).ApartFrom l) :
    c.Shows (d.wr a v) (l ++ [(whole a, v.toNat)]) := by
  rw [Chip.wr_eq_set]
  exact h.set (by simp) (by simpa using v.isLt) ha

theorem Chip.Shows.wr_wd {c d : Chip} {l : List (Fld × Nat)} (h : c.Shows d l) {a x : Nat} (hx : x < 2 ^ 32)
    (ha : (whole a).ApartFrom l) : c.Shows (d.wr a (wd x)) (l ++ [(whole a, x)]) := by
  have := h.wr (v := wd x) ha
  rwa [BitVec.toNat_ofNat, Nat.mod_eq_of_lt hx] at this

/-- A flag raised apart from the fields shown is shown beside them. -/
theorem Chip.Shows.raise {c d : Chip} {l : List (Fld × Nat)} (h : c.Shows d l) {a i : Nat} (hi : i < 32)
    (ha : (bitOf a i).ApartFrom l) : c.Shows (d.raise (bitOf a i)) (l ++ [(bitOf a i, 1)]) :=
  h.set (f := bitOf a i) (x := 1) (by simpa using hi) (by simp) ha

/-- The order in which fields are shown does not matter. -/
theorem Chip.Shows.perm {c d : Chip} {l m : List (Fld × Nat)} (h : c.Shows d l) (p : l.Perm m) : c.Shows d m := by
  obtain ⟨shown, kept⟩ := h
  exact ⟨fun q hq => shown q (p.mem_iff.2 hq), kept.mono fun f hf => (p.map Prod.fst).mem_iff.1 hf⟩

/-- The second device differs from the first in its registers only. -/
abbrev Chip.OnlyRegs (c d : Chip) : Prop := d = { c with regs := d.regs }

theorem Chip.OnlyRegs.set {c d : Chip} (h : c.OnlyRegs d) (f : Fld) (x : Nat) : c.OnlyRegs (d.set f x) := by
  unfold Chip.OnlyRegs at h ⊢
  generalize d.regs = r at h
  subst h
  rfl

theorem Chip.OnlyRegs.wr {c d : Chip} (h : c.OnlyRegs d) (a : Nat) (v : Word) : c.OnlyRegs (d.wr a v) :=
  d.wr_eq_set a v ▸ h.set _ _

theorem Chip.OnlyRegs.raise {c d : Chip} (h : c.OnlyRegs d) (f : Fld) : c.OnlyRegs (d.raise f) := h.set f _

section
variable {c d : Chip} (h : c.OnlyRegs d)
include h

theorem Chip.OnlyRegs.st : d.st = c.st := by rw [h]
theorem Chip.OnlyRegs.fresh : d.fresh = c.fresh := by rw [h]
theorem Chip.OnlyRegs.marchSlice : d.marchSlice = c.marchSlice := by rw [h]
theorem Chip.OnlyRegs.marchStand : d.marchStand = c.marchStand := by rw [h]
theorem Chip.OnlyRegs.marchBuf : d.marchBuf = c.marchBuf := by rw [h]
theorem Chip.OnlyRegs.shm : d.shm = c.shm := by rw [h]

theorem Chip.OnlyRegs.shmRd (w : Nat) : d.shmRd w = c.shmRd w := by
  simp only [Chip.shmRd, h.marchSlice, h.marchStand, h.marchBuf, h.shm]
end

theorem Chip.on_of_get {c : Chip} {f : Fld} (h : c.get f = 1) : c.on f = true := by simp [Chip.on, h]

/-! ### Answers -/

/-- A command answers what its device shows. -/
theorem Answers.of_next {i : Instr} {s base : State} {hidden d : Chip} {l : List (Fld × Nat)}
    (h : exec i s = .next { base with chip := d }) (hs : base.chip.Shows d l) (hd : hidden.OnlyRegs d := by rfl) :
    Answers i s base hidden l :=
  .intro h (congrArg (fun e => ({ base with chip := e } : State)) hd) hs

/-- A command whose device refuses a write. -/
theorem Answers.of_reject {i : Instr} {s : State} {w : Acc} {reason : Nat} {wr : Bool}
    (h : exec i s = .next { s.spent w.addr with chip := s.chip.reject w reason wr }) (hr : reason < 256) :
    RefusesWrite i s w.src w.addr reason wr :=
  .of_next h (s.chip.reject_shows w reason wr hr)

/-! ### Writes that reach their page -/

/-- A register that is not LOCK and has a bit that a write can set. -/
def takesWrites (a : Nat) : Bool := aOff a != 0x1C && !readOnly a

/-- A write of a source is let through to a register that takes writes. -/
def State.Reaches (s : State) (w : Acc) : Prop := s.Lets w.src w.addr ∧ takesWrites w.addr = true

theorem State.Reaches.gated {s : State} {w : Acc} (h : s.Reaches w) (f : Chip → Chip) :
    s.gated w f = { s.spent w.addr with chip := f s.chip } := by
  obtain ⟨lets, takes⟩ := h
  simp only [takesWrites, Bool.and_eq_true, bne_iff_ne, Bool.not_eq_true'] at takes
  exact s.gated_of_lets w f lets takes.1 takes.2

section
variable {i : Instr} {s : State} {src : Source} {a : Nat} {v : Word} {f : Chip → Chip}
  (run : exec i s = s.nextGated { src := src, addr := a, val := v } f) (reaches : s.Reaches { src := src, addr := a, val := v })
include run reaches

theorem exec_of_gated : exec i s = .next { s.spent a with chip := f s.chip } := by
  rw [run, State.nextGated, reaches.gated]

theorem Answers.of_gated {hidden d : Chip} {l : List (Fld × Nat)} (does : f s.chip = d) (hs : s.chip.Shows d l)
    (hd : hidden.OnlyRegs d := by rfl) : Answers i s (s.spent a) hidden l :=
  .of_next (does ▸ exec_of_gated run reaches) hs hd

theorem Completes.of_gated {post : State → Prop} {d : Chip} (does : f s.chip = d) (hp : post { s.spent a with chip := d }) :
    Completes i s post :=
  ⟨_, does ▸ exec_of_gated run reaches, hp⟩

theorem RefusesWrite.of_gated {reason : Nat} {wr : Bool} (does : f s.chip = s.chip.reject { src := src, addr := a, val := v } reason wr)
    (hr : reason < 256) : RefusesWrite i s src a reason wr :=
  .of_reject (w := { src := src, addr := a, val := v }) (does ▸ exec_of_gated run reaches) hr
end

/-! ### Events and reads -/

section
variable {i : Instr} {s : State} {f : Chip → Chip} {d : Chip}

section
variable (run : exec i s = s.nextChip f) (does : f s.chip = d)
include run does

theorem exec_of_onChip : exec i s = .next { s with chip := d } := by rw [run, State.nextChip, State.onChip, does]

theorem Answers.of_onChip {hidden : Chip} {l : List (Fld × Nat)} (hs : s.chip.Shows d l)
    (hd : hidden.OnlyRegs d := by rfl) : Answers i s s hidden l := .of_next (exec_of_onChip run does) hs hd

theorem Completes.of_onChip {post : State → Prop} (hp : post { s with chip := d }) : Completes i s post :=
  ⟨_, exec_of_onChip run does, hp⟩
end

theorem Ignores.of_onChip (run : exec i s = s.nextChip f) (does : f s.chip = s.chip) : Ignores i s := exec_of_onChip run does

variable {src : Source} (run : exec i s = s.nextRead src f)
include run

/-- A read through a closed port answers nothing. -/
theorem Ignores.of_closedRead (closed : s.chip.portOpen src = false) : Ignores i s := by
  simp [Ignores, run, State.nextRead, closed]

theorem Answers.of_read {hidden : Chip} {l : List (Fld × Nat)} (isOpen : s.chip.portOpen src = true) (does : f s.chip = d)
    (hs : s.chip.Shows d l) (hd : hidden.OnlyRegs d := by rfl) : Answers i s s hidden l :=
  .of_next (by simp [run, State.nextRead, isOpen, State.onChip, does]) hs hd
end

/-! ### Writes that do not reach their page -/

section
variable (s : State) (w : Acc) (f : Chip → Chip)

/-- A write to an address without an implemented page. -/
theorem State.gated_of_unmapped (hp : s.chip.portOpen w.src = true) (hi : pageImplemented w.addr = false) :
    s.gated w f = { s with chip := s.chip.unmapped } := by
  simp [State.gated, hp, hi]

variable (hp : s.chip.portOpen w.src = true) (hi : pageImplemented w.addr = true) (hl : w.off ≠ 0x1C)
include hp hi hl

/-- A write to a register that has no writable bit uses a write of the window and does nothing. -/
theorem State.gated_of_readOnly (hr : readOnly w.addr = true) : s.gated w f = s.spent w.addr := by
  simp [State.gated, hp, hi, hl, Chip.gateWrite, hr, State.spent, State.setLock]

variable (hr : readOnly w.addr = false)
include hr

/-- In SAFE-HOLD a write to a page other than HOST, KENNEL, NVM and EVREC is refused with STATE. -/
theorem State.gated_of_hold (hh : s.chip.phase = .safeHold) (hc : holdWritable w.cls = false) :
    s.gated w f = { s.spent w.addr with chip := s.chip.reject w rState (!carriesCommand w.addr w.val) } := by
  simp [State.gated, hp, hi, hl, Chip.gateWrite, hr, hh, hc, State.spent]

/-- A write to the safety configuration outside SAFE with STO applied is refused with SAFETY. -/
theorem State.gated_of_notSafe (hh : s.chip.phase ≠ .safeHold) (ho : (s.lock (pageNo w.addr)).isOpen s.chip.st = true)
    (hs : safeRow w.addr = true) (hc : s.chip.safeSto = false) :
    s.gated w f = { s.spent w.addr with chip := s.chip.reject w rSafety (!carriesCommand w.addr w.val) } := by
  simp [State.gated, hp, hi, hl, Chip.gateWrite, hr, hh, ho, hs, hc, State.spent]
end

/-- An access without an implemented page sets UNMAPPED and counts up to all ones (R55). -/
theorem Chip.unmapped_shows (c : Chip) : c.Shows c.unmapped
    [(hSticky R.HOST.ID 1, 1), (whole R.HOST.UNMAPPED_CNT, min (c.get (whole R.HOST.UNMAPPED_CNT) + 1) (2 ^ 32 - 1))] := by
  exact ((Chip.Shows.of_regs).raise (by decide) (by simp)).inc (by decide) (by simp [Fld.Apart, R.HOST.ID, R.HOST.UNMAPPED_CNT])

end Sys2Proof.Machine
end

section
/-! The gate of register writes. -/

namespace Sys2Proof.Machine

/-- Settles O5: each clause is one branch of the gate, taken by the lemma that names it. -/
theorem registerWriteMeetsTheGate : Obligations.RegisterWriteMeetsTheGate := by
  intro src r v s a refusal opened
  let w : Acc := { src := src, addr := a, val := v }
  have run {t : State} (h : s.gated w (Chip.pageWrite w) = t) : exec (.registerWrite src r v) s = .next t :=
    congrArg Host.Outcome.next h
  have refuses {reason : Nat} (hr : reason < 256)
      (h : s.gated w (Chip.pageWrite w) = { s.spent a with chip := s.chip.reject w reason (!carriesCommand a v) }) :
      Answers (.registerWrite src r v) s (s.spent a) s.chip (refusal reason) := Answers.of_reject (w := w) (run h) hr
  refine ⟨fun hp => ?closed, fun hp hi => ?unmapped, fun hp hi hl hr => ?readOnly, fun hp hi hl hr hh hc => ?hold,
    fun hp hi hl hr hh ho he => ?locked, fun hp hi hl hr hh ho hs hc => ?safety⟩
  case closed => exact run (s.gated_of_closed w _ hp)
  case unmapped => exact .of_next (run (s.gated_of_unmapped w _ hp hi)) s.chip.unmapped_shows
  case readOnly => exact .of_next (d := s.chip) (run (s.gated_of_readOnly w _ hp hi hl hr)) .of_regs
  case hold => exact refuses (by decide) (s.gated_of_hold w _ hp hi hl hr hh hc)
  case locked => exact refuses (by decide) (s.gated_of_locked w _ hp hi ho he hh hl hr)
  case safety => exact refuses (by decide) (s.gated_of_notSafe w _ hp hi hl hr hh ho hs hc)

end Sys2Proof.Machine
end

section
/-! SUPPORT. Laws of the security engine: what each command of the SEC page does, case by case, and what loading a key leaves in the
key store. -/

namespace Sys2Proof.Machine

/-! ### The key store -/

/-- Words put one after another leave every key that none of them has. -/
theorem Tab.find_putAll_other {α : Type} (ws t : Tab α) {n : Nat} (h : ∀ e ∈ ws, e.1 ≠ n) :
    Tab.find (ws.foldl (fun t e => Tab.put t e.1 e.2) t) n = Tab.find t n := by
  induction ws generalizing t with
  | nil => rfl
  | cons e ws ih =>
    rw [List.foldl_cons, ih _ fun e' he' => h e' (List.mem_cons_of_mem _ he'), Tab.find_put, if_neg (h e List.mem_cons_self)]

/-- A word that is the only one put at its key stands there. -/
theorem Tab.find_putAll_mem {α : Type} (ws t : Tab α) {e : Nat × α} (he : e ∈ ws) (unique : ∀ e' ∈ ws, e'.1 = e.1 → e' = e) :
    Tab.find (ws.foldl (fun t e => Tab.put t e.1 e.2) t) e.1 = some e.2 := by
  induction ws generalizing t with
  | nil => exact absurd he List.not_mem_nil
  | cons x ws ih =>
    rw [List.foldl_cons]
    by_cases later : e ∈ ws
    · exact ih _ later fun e' he' => unique e' (List.mem_cons_of_mem _ he')
    · obtain rfl : e = x := (List.mem_cons.1 he).resolve_right later
      rw [Tab.find_putAll_other _ _ fun e' he' hk => later (unique e' (List.mem_cons_of_mem _ he') hk ▸ he'), Tab.find_put, if_pos rfl]

/-- The key store after LOAD of a slot: the written words are in force, none waits, and the slot is loaded (R439). -/
def SecSt.load (x : SecSt) (slot : Nat) : SecSt :=
  { x with
    keys := (x.buf.filter fun e => e.1 / 16 == slot).foldl (fun t e => Tab.put t e.1 e.2) x.keys
    buf := Tab.drop (fun k => k / 16 == slot) x.buf
    loaded := if x.loaded.contains slot then x.loaded else slot :: x.loaded }

namespace SecSt
variable (x : SecSt) (slot : Nat)

theorem load_mem_loaded (n : Nat) : n ∈ (x.load slot).loaded ↔ n = slot ∨ n ∈ x.loaded := by
  simp only [load, List.contains_iff_mem]
  split_ifs with h
  · exact ⟨.inr, fun hn => hn.elim (fun e => e ▸ h) id⟩
  · exact List.mem_cons

theorem load_keys_written {e : Nat × Word} (he : e ∈ x.buf.filter fun e => e.1 / 16 == slot)
    (unique : ∀ e' ∈ x.buf.filter fun e => e.1 / 16 == slot, e'.1 = e.1 → e' = e) : Tab.find (x.load slot).keys e.1 = some e.2 :=
  Tab.find_putAll_mem _ _ he unique

theorem load_keys_other {n : Nat} (h : n / 16 ≠ slot) : Tab.find (x.load slot).keys n = Tab.find x.keys n := by
  refine Tab.find_putAll_other _ _ fun e he hn => h ?_
  simpa [hn] using (List.mem_filter.1 he).2

theorem load_buf (n : Nat) : Tab.find (x.load slot).buf n = if n / 16 = slot then none else Tab.find x.buf n := by
  simp [load, Tab.find_drop]

end SecSt

/-! ### The digest of the configuration -/

/-- A new digest writes TOKEN and TOKEN_VALID of the Kennel from a free value, and nothing before READY (R476). -/
theorem Chip.tokenWrite_cases (c : Chip) : c.tokenWrite = c ∨
    c.tokenWrite = ({ c with fresh := c.fresh + 1 }.wr R.KENNEL.TOKEN (Config.freeWord c.fresh)).raise F.KENNEL.KSTAT.TOKEN_VALID := by
  unfold Chip.tokenWrite
  split
  · exact .inr rfl
  · exact .inl rfl

@[simp] theorem Chip.tokenWrite_sec (c : Chip) : c.tokenWrite.sec = c.sec := by
  rcases c.tokenWrite_cases with h | h
  · rw [h]
  · rw [h]; rfl

@[simp] theorem Chip.tokenWrite_st (c : Chip) : c.tokenWrite.st = c.st := by
  rcases c.tokenWrite_cases with h | h
  · rw [h]
  · rw [h]; rfl

theorem Chip.tokenWrite_get (c : Chip) {f : Fld} (h1 : f.reg ≠ R.KENNEL.TOKEN) (h2 : f.reg ≠ R.KENNEL.KSTAT) :
    c.tokenWrite.get f = c.get f := by
  rcases c.tokenWrite_cases with h | h
  · rw [h]
  · rw [h, Chip.raise, Chip.get_set_reg _ _ (Ne.symm h2), Chip.get_wr, if_neg (Ne.symm h1)]
    rfl

/-! ### Writes of keys -/

section
variable {c : Chip} {w : Acc}

/-- Why a key write is refused, as the rules give it. -/
theorem Chip.keyRefusal_eq (c : Chip) (slot : Nat) : c.keyRefusal slot =
    if c.get secState = 2 then some rState else if 12 ≤ slot then some rParam
    else if slot ∈ c.sec.locked ∨ c.get secState ≠ 0 then some rState else none := by
  simp only [Chip.keyRefusal, Bool.or_eq_true, List.contains_iff_mem, bne_iff_ne]

theorem Chip.keyRefusal_lt {slot r : Nat} (h : c.keyRefusal slot = some r) : r < 256 := by
  rw [Chip.keyRefusal_eq] at h
  split_ifs at h <;> cases h <;> decide

theorem Chip.keyData_of_refused {r : Nat} (h : c.keyRefusal c.keySel = some r) : c.keyData w = c.reject w r false := by
  simp only [Chip.keyData, h]

theorem Chip.keyData_of_past (h : c.keyRefusal c.keySel = none) (hk : keyWords c.keySel ≤ bits (c.rd R.SEC.KEY_ADDR) 0 4) :
    c.keyData w = c.reject w rParam false := by
  simp only [Chip.keyData, h, if_pos hk]

theorem Chip.keyData_of_kept (h : c.keyRefusal c.keySel = none) (hk : bits (c.rd R.SEC.KEY_ADDR) 0 4 < keyWords c.keySel) :
    c.keyData w = { c with sec := { c.sec with
      buf := Tab.put c.sec.buf (c.keySel * 16 + bits (c.rd R.SEC.KEY_ADDR) 0 4) w.val } }.wr R.SEC.KEY_ADDR
        (wd ((bits (c.rd R.SEC.KEY_ADDR) 0 4 + 1) % 16)) := by
  simp only [Chip.keyData, h, if_neg (Nat.not_le.2 hk)]

theorem Chip.keyLoad_of_refused {r : Nat} (h : c.keyRefusal c.keySel = some r) : c.keyLoad w = c.reject w r false := by
  simp only [Chip.keyLoad, h]

theorem Chip.keyLoad_of_short (h : c.keyRefusal c.keySel = none) (hw : (c.keyWritten c.keySel).length < keyWords c.keySel) :
    c.keyLoad w = (c.reject w rParam false).raise (hSticky R.SEC.ID 2) := by
  simp only [Chip.keyLoad, h, if_pos hw]

theorem Chip.keyLoad_of_full (h : c.keyRefusal c.keySel = none) (hw : keyWords c.keySel ≤ (c.keyWritten c.keySel).length) :
    c.keyLoad w = { c with sec := c.sec.load c.keySel }.tokenWrite := by
  simp only [Chip.keyLoad, h, if_neg (Nat.not_lt.2 hw)]
  rfl

theorem Chip.keyLock_of_fenced (h : c.get secState = 2) : c.keyLock w = c.reject w rState false := by
  simp only [Chip.keyLock, h, if_true]

theorem Chip.keyLock_of_absent (h : c.get secState ≠ 2) (hs : 12 ≤ c.keySel) : c.keyLock w = c.reject w rParam false := by
  simp only [Chip.keyLock, if_neg h, if_pos hs]

theorem Chip.keyLock_of_locked (h : c.get secState ≠ 2) (hs : c.keySel < 12) (hl : c.keySel ∈ c.sec.locked) : c.keyLock w = c := by
  simp only [Chip.keyLock, if_neg h, if_neg (Nat.not_le.2 hs), List.contains_iff_mem.2 hl, if_true]

theorem Chip.keyLock_of_open (h : c.get secState ≠ 2) (hs : c.keySel < 12) (hl : c.keySel ∉ c.sec.locked) :
    c.keyLock w = { c with sec := { c.sec with locked := c.keySel :: c.sec.locked } }.tokenWrite := by
  simp only [Chip.keyLock, if_neg h, if_neg (Nat.not_le.2 hs), List.contains_iff_mem, if_neg hl]

theorem Chip.provClose_of_fenced (h : c.get secState = 2) : c.provClose w = c.reject w rState false := if_pos h

theorem Chip.provClose_of_open (h : c.get secState ≠ 2) :
    c.provClose w = { c with sec := { c.sec with closed := true } }.set secState 1 := if_neg h

/-- What a refused KEY_CMD shows. -/
theorem Chip.reject_keyCmd_shows (c : Chip) (src : Source) (v : Word) :
    c.Shows (c.reject { src := src, addr := R.SEC.KEY_CMD, val := v } rParam false)
      [(hSticky R.SEC.ID 0, 1), (whole (R.SEC.ID + 0x24), rParam + aOff R.SEC.KEY_CMD / 4 * 2 ^ 8 + srcCode src * 2 ^ 19 +
        min (c.get (hRejCnt R.SEC.ID) + 1) 255 * 2 ^ 24)] := by
  have page : aPage R.SEC.KEY_CMD = R.SEC.ID := rfl
  simpa only [errinfo, Acc.page, Acc.off, page, Bool.toNat_false, Nat.zero_mul, Nat.add_zero] using
    c.reject_shows { src := src, addr := R.SEC.KEY_CMD, val := v } rParam false (by decide)

/-- A LOAD of too few words shows KEY_ERR beside its refusal (R447). -/
theorem Chip.keyLoad_shows_of_short (c : Chip) (src : Source) (v : Word) :
    c.Shows ((c.reject { src := src, addr := R.SEC.KEY_CMD, val := v } rParam false).raise (hSticky R.SEC.ID 2))
      [(hSticky R.SEC.ID 0, 1), (hSticky R.SEC.ID 2, 1), (whole R.SEC.ERRINFO, rParam + aOff R.SEC.KEY_CMD / 4 * 2 ^ 8 +
        srcCode src * 2 ^ 19 + min (c.get (hRejCnt R.SEC.ID) + 1) 255 * 2 ^ 24)] := by
  have both := (c.reject_keyCmd_shows src v).raise (a := R.SEC.ID + 0x10) (i := 2) (by decide) (by simp [Fld.Apart])
  exact both.perm ((List.Perm.swap _ _ []).cons _)

/-! ### Attestations -/

theorem Sec.onWrite_att (src : Source) (v : Word) (c : Chip) : Sec.onWrite { src := src, addr := R.SEC.ATT_CMD, val := v } c =
    c.attCmd { src := src, addr := R.SEC.ATT_CMD, val := v } := by
  have off : ({ src := src, addr := R.SEC.ATT_CMD, val := v } : Acc).off = 0x58 := show aOff R.SEC.ATT_CMD = 0x58 from rfl
  simp only [Sec.onWrite, off]

/-- A write of ATT_CMD that asks for a signature. -/
theorem Sec.onWrite_attest (src : Source) (c : Chip) : Sec.onWrite { src := src, addr := R.SEC.ATT_CMD, val := 1 } c =
    if bits (c.rd R.SEC.ATT_STAT) 0 1 = 1 then c.reject { src := src, addr := R.SEC.ATT_CMD, val := 1 } rState false
    else if c.get secState = 2 then c.wr R.SEC.ATT_STAT (wd (rState * 256)) else c.wr R.SEC.ATT_STAT 1 := by
  rw [Sec.onWrite_att]
  have asked : ¬bits 1#32 0 1 = 0 := by decide
  exact if_neg asked

/-- The first words of a signature, each a free value. -/
def Chip.attSigned (c : Chip) (k : Nat) : Chip :=
  upto k (fun (c : Chip) k => let d := c.draw; d.2.wr (R.SEC.ATT_SIG k) (Config.freeWord d.1)) c

theorem Chip.attSigned_succ (c : Chip) (k : Nat) : c.attSigned (k + 1) =
    { c.attSigned k with fresh := (c.attSigned k).fresh + 1 }.wr (R.SEC.ATT_SIG k) (Config.freeWord (c.attSigned k).fresh) := by
  simp [Chip.attSigned, upto, List.range_succ, Chip.draw]

theorem Chip.attSigned_onlyRegs (c : Chip) (k : Nat) : { c with fresh := c.fresh + k }.OnlyRegs (c.attSigned k) := by
  induction k with
  | zero => rfl
  | succ k ih =>
    rw [Chip.attSigned_succ]
    generalize (c.attSigned k) = d at ih ⊢
    rw [ih]
    rfl

theorem Chip.attSigned_shows (c : Chip) (k : Nat) : c.Shows (c.attSigned k)
    ((List.range k).map fun n => (whole (R.SEC.ATT_SIG n), (Config.freeWord (c.fresh + n)).toNat)) := by
  induction k with
  | zero => exact .of_regs
  | succ k ih =>
    have drawn : (c.attSigned k).fresh = c.fresh + k := (c.attSigned_onlyRegs k).fresh
    rw [Chip.attSigned_succ, drawn, List.range_succ, List.map_append]
    refine (ih.congr (e := { c.attSigned k with fresh := c.fresh + k + 1 }) rfl).wr ?_
    simp only [Fld.ApartFrom, List.forall_mem_map, List.mem_range]
    intro n hn
    exact .inl (by simp only [R.SEC.ATT_SIG]; omega)

/-- The end of an attestation shows the signature, DONE and the flag. -/
theorem Chip.attDone_shows (c : Chip) : c.Shows (((c.attSigned 16).wr R.SEC.ATT_STAT 2).raise (hSticky R.SEC.ID 1))
    ((List.range 16).map (fun n => (whole (R.SEC.ATT_SIG n), (Config.freeWord (c.fresh + n)).toNat)) ++
      [(whole R.SEC.ATT_STAT, 2), (hSticky R.SEC.ID 1, 1)]) := by
  have apart (f : Fld) (hf : f.reg < 0xD80080) : f.ApartFrom ((List.range 16).map fun n =>
      (whole (R.SEC.ATT_SIG n), (Config.freeWord (c.fresh + n)).toNat)) := by
    simp only [Fld.ApartFrom, List.forall_mem_map]
    exact fun n _ => .inl (by simp only [R.SEC.ATT_SIG]; omega)
  have done := (c.attSigned_shows 16).wr (a := R.SEC.ATT_STAT) (v := 2) (apart _ (by decide))
  have flag := done.raise (a := R.SEC.ID + 0x10) (i := 1) (by decide)
    ((Fld.apartFrom_append ..).2 ⟨apart _ (by decide), by simp [Fld.Apart, R.SEC.ATT_STAT, R.SEC.ID]⟩)
  rwa [List.append_assoc] at flag

end

theorem Chip.rngRead_of_failing (c : Chip) : c.rngRead true = (c.raise (hSticky R.SEC.ID 3)).answer 0 := if_pos rfl

theorem Chip.rngRead_of_seeded (c : Chip) :
    c.rngRead false = { c with sec := { c.sec with drawn := c.sec.drawn + 1 } }.answer (Config.randomWord c.sec.drawn) :=
  if_neg Bool.false_ne_true

theorem Chip.attDone_onlyRegs (c : Chip) :
    { c with fresh := c.fresh + 16 }.OnlyRegs (((c.attSigned 16).wr R.SEC.ATT_STAT 2).raise (hSticky R.SEC.ID 1)) :=
  ((c.attSigned_onlyRegs 16).wr _ _).raise _

theorem exec_attDone (s : State) : exec .attDone s = s.nextChip fun c => if bits (c.rd R.SEC.ATT_STAT) 0 1 = 0 then c
    else ((c.attSigned 16).wr R.SEC.ATT_STAT 2).raise (hSticky R.SEC.ID 1) := by
  have run : exec .attDone s = execAttDone s := rfl
  simp only [run, execAttDone, Chip.attSigned]

theorem takesWrites_sec : takesWrites R.SEC.KEY_DATA = true ∧ takesWrites R.SEC.KEY_CMD = true ∧ takesWrites R.SEC.ATT_CMD = true := by
  decide

end Sys2Proof.Machine
end

section
/-! The security engine. -/

namespace Sys2Proof.Machine

/-- Settles O54: each clause is one case of its command, by the law of that case. -/
theorem securityEngineKeepsKeysAndSigns : Obligations.SecurityEngineKeepsKeysAndSigns := by
  intro s c x state fenced slot k words stop written
  have stop_eq : c.keyRefusal c.keySel = stop := c.keyRefusal_eq slot
  obtain ⟨data_takes, cmd_takes, att_takes⟩ := takesWrites_sec
  have free_of_stop (h : stop = none) : c.keyRefusal c.keySel = none := stop_eq.trans h
  refine ⟨fun src v lets => ?keyData, fun src lets => ⟨?keyLoad, ?keyLock, ?provClose⟩, fun src lets => ?attCmd,
    fun idle => ?attIdle, fun busy => ?attDone, fun src => ⟨fun closed b => ?rngClosed, fun isOpen => ⟨?rngFails, ?rngDraws⟩⟩⟩
  case keyData =>
    have reaches : s.Reaches { src := src, addr := R.SEC.KEY_DATA, val := v } := ⟨lets, data_takes⟩
    refine ⟨fun r hr => ?_, fun h hk => ?_, fun h hk => ?_⟩
    · exact RefusesWrite.of_gated rfl reaches (Chip.keyData_of_refused (stop_eq.trans hr)) (Chip.keyRefusal_lt (stop_eq.trans hr))
    · exact RefusesWrite.of_gated rfl reaches (Chip.keyData_of_past (free_of_stop h) hk) (by decide)
    · exact Answers.of_gated rfl reaches (Chip.keyData_of_kept (free_of_stop h) hk)
        ((Chip.Shows.of_regs).wr_wd (by omega) (by simp))
  case keyLoad =>
    intro i
    have reaches : s.Reaches { src := src, addr := R.SEC.KEY_CMD, val := 1 } := ⟨lets, cmd_takes⟩
    refine ⟨fun r hr => ?_, fun h hw => ?_, fun h hw => ?_⟩
    · exact RefusesWrite.of_gated rfl reaches (Chip.keyLoad_of_refused (stop_eq.trans hr)) (Chip.keyRefusal_lt (stop_eq.trans hr))
    · exact Answers.of_gated rfl reaches (Chip.keyLoad_of_short (free_of_stop h) hw) (c.keyLoad_shows_of_short src 1)
        (Chip.OnlyRegs.raise (c.reject_hidden ..) _)
    · refine Completes.of_gated rfl reaches (Chip.keyLoad_of_full (free_of_stop h) hw) ?_
      simp only [Chip.tokenWrite_sec]
      refine ⟨(x.load_mem_loaded slot slot).2 (.inl rfl), fun n hn => ?_, rfl, fun e he unique => x.load_keys_written slot he unique,
        fun n hn => ⟨x.load_keys_other slot hn, ?_⟩, fun n hn => ?_⟩
      · exact (x.load_mem_loaded slot n).trans (or_iff_right hn)
      · exact (x.load_buf slot n).trans (if_neg hn)
      · exact (x.load_buf slot n).trans (if_pos hn)
  case keyLock =>
    intro i
    have reaches : s.Reaches { src := src, addr := R.SEC.KEY_CMD, val := 2 } := ⟨lets, cmd_takes⟩
    refine ⟨fun h => ?_, fun h hs => ?_, fun h hs hl => ?_, fun h hs hl => ?_⟩
    · exact RefusesWrite.of_gated rfl reaches (Chip.keyLock_of_fenced h) (by decide)
    · exact RefusesWrite.of_gated rfl reaches (Chip.keyLock_of_absent h hs) (by decide)
    · exact Answers.of_gated rfl reaches (Chip.keyLock_of_locked h hs hl) .of_regs
    · refine Completes.of_gated rfl reaches (Chip.keyLock_of_open h hs hl) ?_
      simp only [Chip.tokenWrite_sec, Chip.tokenWrite_st]
      exact ⟨rfl, trivial, Chip.tokenWrite_get _ (by decide) (by decide)⟩
  case provClose =>
    intro i
    have reaches : s.Reaches { src := src, addr := R.SEC.KEY_CMD, val := 0x100 } := ⟨lets, cmd_takes⟩
    refine ⟨fun h => ?_, fun h => ?_⟩
    · exact RefusesWrite.of_gated rfl reaches (Chip.provClose_of_fenced h) (by decide)
    · exact Answers.of_gated rfl reaches (Chip.provClose_of_open h)
        ((Chip.Shows.of_regs).set (by decide) (by decide) (by simp))
  case attCmd =>
    have reaches : s.Reaches { src := src, addr := R.SEC.ATT_CMD, val := 1 } := ⟨lets, att_takes⟩
    refine ⟨fun h => ?_, fun h hf => ?_, fun h hf => ?_⟩
    · exact RefusesWrite.of_gated rfl reaches ((Sec.onWrite_attest src c).trans (if_pos h)) (by decide)
    · exact Answers.of_gated rfl reaches ((Sec.onWrite_attest src c).trans ((if_neg h).trans (if_pos hf)))
        ((Chip.Shows.of_regs).wr_wd (by decide) (by simp))
    · exact Answers.of_gated rfl reaches ((Sec.onWrite_attest src c).trans ((if_neg h).trans (if_neg hf)))
        ((Chip.Shows.of_regs).wr (by simp))
  case attIdle => exact .of_onChip (exec_attDone s) (if_pos idle)
  case attDone =>
    exact .of_onChip (exec_attDone s) (if_neg (by rw [busy]; decide)) c.attDone_shows c.attDone_onlyRegs
  case rngClosed => exact .of_closedRead rfl closed
  case rngFails =>
    refine .of_read rfl isOpen c.rngRead_of_failing ?_
    exact ((Chip.Shows.of_regs).raise (by decide) (by simp)).congr rfl
  case rngDraws => exact .of_read rfl isOpen c.rngRead_of_seeded .of_regs

end Sys2Proof.Machine
end

section
/-! SUPPORT. Laws of the CAN controllers: what a request, a sent buffer and a received frame do, and which words of message storage a
received element leaves. -/

namespace Sys2Proof.Machine

theorem takesWrites_canx (n : Fin 3) : takesWrites (R.CANX.TX_REQ n) = true ∧ takesWrites (R.CANX.MSG_DATA n) = true := by
  revert n; decide

theorem bit_eq_zero_iff (v : Word) (i : Nat) : bits v i 1 = 0 ↔ ¬bits v i 1 = 1 := by
  have := bits_lt v i 1
  omega

/-! ### Requests -/

/-- A register of 32 bits that take their value at once reads as it is written. -/
theorem Chip.storeAt_of_plain (c : Chip) {a : Nat} (v : Word) {first count stride reset : Nat}
    (h : rowOf a = some ⟨first, count, stride, reset, 0xFFFFFFFF, 0, 0, 0, false⟩) : c.storeAt a v = c.wr a v := by
  have all : merge (c.rd a) v 0xFFFFFFFF = v := by
    have ones : BitVec.ofNat 32 0xFFFFFFFF = BitVec.allOnes 32 := rfl
    simp only [merge, ones, BitVec.not_allOnes, BitVec.and_zero, BitVec.zero_or, BitVec.and_allOnes]
  simp only [Chip.storeAt, h, Nat.succ_ne_zero, if_true, if_false, all]

theorem Canx.onWrite_txReq (src : Source) (n : Fin 3) (v : Word) (c : Chip) :
    Canx.onWrite { src := src, addr := R.CANX.TX_REQ n, val := v } c = c.wr (R.CANX.TX_REQ n) v := by
  have off : ({ src := src, addr := R.CANX.TX_REQ n, val := v } : Acc).off = 0x58 :=
    show aOff (R.CANX.TX_REQ n) = 0x58 by revert n; decide
  have row : ∀ n : Fin 3, rowOf (R.CANX.TX_REQ n) = some ⟨0x58, 1, 4, 0, 0xFFFFFFFF, 0, 0, 0, false⟩ := by decide
  simp only [Canx.onWrite, off]
  exact c.storeAt_of_plain v (row n)

/-! ### Sent buffers -/

/-- A buffer is requested, and its controller is ACTIVE and neither listens only nor is restricted (R440). -/
def Chip.CanSends (c : Chip) (n b : Nat) : Prop :=
  c.get (hState (R.CANX.ID n)) = 1 ∧ c.on (bitOf (R.CANX.TX_REQ n) b) = true ∧
    bits (c.rd (R.CANX.CAN_MODE n)) 3 1 = 0 ∧ bits (c.rd (R.CANX.CAN_MODE n)) 5 1 = 0

/-- The device after a buffer has been sent. -/
def Chip.canSent (c : Chip) (n b at_ : Nat) : Chip :=
  (((c.goto at_).clr (bitOf (R.CANX.TX_REQ n) b)).raise (bitOf (R.CANX.TX_DONE n) b)).raise (hSticky (R.CANX.ID n) 2)

theorem exec_canTxDone (n : Fin 3) (b : Fin 32) (at_ : Nat) (s : State) : exec (.canTxDone n b at_) s = s.nextChip fun c =>
    if !c.canOn n || !c.on (bitOf (R.CANX.TX_REQ n) b) || bits (c.rd (R.CANX.CAN_MODE n)) 3 1 == 1 ||
      bits (c.rd (R.CANX.CAN_MODE n)) 5 1 == 1 then c else c.canSent n b at_ := rfl

theorem Chip.canSends_iff (c : Chip) (n b : Nat) : c.CanSends n b ↔
    ¬(!c.canOn n || !c.on (bitOf (R.CANX.TX_REQ n) b) || bits (c.rd (R.CANX.CAN_MODE n)) 3 1 == 1 ||
      bits (c.rd (R.CANX.CAN_MODE n)) 5 1 == 1) = true := by
  simp only [Chip.CanSends, Chip.canOn, bit_eq_zero_iff, Bool.or_eq_true, Bool.not_eq_true', not_or, beq_iff_eq,
    beq_eq_false_iff_ne, ne_eq, not_not, Bool.not_eq_false, and_assoc]

theorem Chip.canSent_shows (c : Chip) (n b at_ : Nat) (hb : b < 32) : c.Shows (c.canSent n b at_)
    [(bitOf (R.CANX.TX_REQ n) b, 0), (bitOf (R.CANX.TX_DONE n) b, 1), (hSticky (R.CANX.ID n) 2, 1)] := by
  have idle : c.Shows ((c.goto at_).clr (bitOf (R.CANX.TX_REQ n) b)) [(bitOf (R.CANX.TX_REQ n) b, 0)] :=
    (Chip.Shows.of_regs).set (by simpa using hb) (by simp) (by simp)
  exact (idle.raise hb (by simp [Fld.Apart, R.CANX.TX_REQ, R.CANX.TX_DONE])).raise (by decide)
    (by simp [Fld.Apart, R.CANX.TX_REQ, R.CANX.TX_DONE, R.CANX.ID]; omega)

theorem Chip.canSent_onlyRegs (c : Chip) (n b at_ : Nat) : (c.goto at_).OnlyRegs (c.canSent n b at_) :=
  ((Chip.OnlyRegs.set rfl _ _).raise _).raise _

/-! ### Received frames -/

/-- The controller is ACTIVE and the payload is not too long for it (R440). -/
def Chip.CanTakes (c : Chip) (n len : Nat) : Prop := c.get (hState (R.CANX.ID n)) = 1 ∧ len ≤ c.canMax n

/-- How many elements FIFO 1 (`one`) or FIFO 0 holds. -/
def CanSt.fill (x : CanSt) (one : Bool) : Nat := if one then (x.put1 + 128 - x.get1) % 128 else (x.put0 + 128 - x.get0) % 128

/-- The element of a FIFO that is filled next. -/
def CanSt.put (x : CanSt) (one : Bool) : Nat := if one then x.put1 else x.put0

/-- A FIFO whose put index has moved on from a place. -/
def CanSt.advance (x : CanSt) (put : Nat) (one : Bool) : CanSt :=
  if one then { x with put1 := (put + 1) % 128 } else { x with put0 := (put + 1) % 128 }

theorem Chip.canFillWords_succ (c : Chip) (n a k : Nat) : c.canFillWords n a (k + 1) =
    { c.canFillWords n a k with fresh := (c.canFillWords n a k).fresh + 1 }.setCan n
      { (c.canFillWords n a k).can n with
        mem := Tab.set ((c.canFillWords n a k).can n).mem 0 ((a + k) % 4096) (Config.freeWord (c.canFillWords n a k).fresh) } := by
  simp only [Chip.canFillWords, upto, List.range_succ, List.foldl_append, List.foldl_cons, List.foldl_nil, Chip.draw]
  rfl

/-- The words of an element draw free values and change message storage alone. -/
theorem Chip.canFillWords_keeps (c : Chip) (n a k : Nat) :
    (c.canFillWords n a k).regs = c.regs ∧ (c.canFillWords n a k).st = c.st ∧ (c.canFillWords n a k).fresh = c.fresh + k ∧
    (c.canFillWords n a k).can n = { c.can n with mem := ((c.canFillWords n a k).can n).mem } := by
  induction k with
  | zero => exact ⟨rfl, rfl, rfl, rfl⟩
  | succ k ih =>
    obtain ⟨hregs, hst, hfresh, hcan⟩ := ih
    rw [Chip.canFillWords_succ, Chip.can_setCan_same]
    exact ⟨hregs, hst, congrArg (· + 1) hfresh, by rw [hcan]⟩

/-- Words outside an element stay. -/
theorem Chip.canFillWords_mem (c : Chip) (n a k : Nat) {w : Nat} (hw : ∀ j, j < k → w ≠ (a + j) % 4096) :
    Tab.at ((c.canFillWords n a k).can n).mem 0 w = Tab.at (c.can n).mem 0 w := by
  induction k with
  | zero => rfl
  | succ k ih =>
    rw [Chip.canFillWords_succ, Chip.can_setCan_same, Tab.at_set_ne _ _ _ (Ne.symm (hw k k.lt_succ_self))]
    exact ih fun j hj => hw j (Nat.lt_succ_of_lt hj)

theorem Chip.can_congr {c d : Chip} (h : d.cans = c.cans) (n : Nat) : d.can n = c.can n := by simp only [Chip.can, h]
theorem Chip.can_raise (c : Chip) (f : Fld) (n : Nat) : (c.raise f).can n = c.can n := Chip.can_congr (c.raise_cans f) n
theorem Chip.can_canFill (c : Chip) (n m : Nat) : (c.canFill n).can m = c.can m := Chip.can_congr (c.wr_cans _ _) m
theorem Chip.canFill_st (c : Chip) (n : Nat) : (c.canFill n).st = c.st := c.wr_st _ _
theorem Chip.canFill_fresh (c : Chip) (n : Nat) : (c.canFill n).fresh = c.fresh := c.wr_fresh _ _

/-- The device after a frame has filled an element of a FIFO. -/
def Chip.canReceived (c : Chip) (n : Nat) (one : Bool) (k : Nat) : Chip :=
  let d := c.canFillWords n (Config.canElement one.toNat ((c.can n).put one % 64)) k
  ((d.setCan n ((d.can n).advance ((c.can n).put one) one)).canFill n).raise (hSticky (R.CANX.ID n) 1)

theorem exec_canRxFrame (n : Fin 3) (fifo : Option Bool) (len : Fin 2049) (at_ : Nat) (s : State) :
    exec (.canRxFrame n fifo len at_) s = s.nextChip fun c =>
      if !c.canOn n || c.canMax n < len.val then c
      else match fifo with
        | none => c.goto at_
        | some one =>
          if 64 ≤ (c.can n).fill one then (c.goto at_).raise (hSticky (R.CANX.ID n) 5)
          else (c.goto at_).canReceived n one (Config.canHeader + (len.val + 3) / 4) := by
  have run : exec (.canRxFrame n fifo len at_) s = execCanRxFrame n fifo len at_ s := rfl
  rw [run]
  rcases fifo with _ | one
  · rfl
  · cases one <;> rfl

theorem Chip.canTakes_iff (c : Chip) (n len : Nat) :
    c.CanTakes n len ↔ ¬(!c.canOn n || decide (c.canMax n < len)) = true := by
  simp [Chip.CanTakes, Chip.canOn]

section
variable {c : Chip} {n : Nat} {one : Bool} {k : Nat}

/-- The indexes and the storage of a controller that has received an element. -/
theorem Chip.canReceived_can_eq : (c.canReceived n one k).can n =
    ((c.canFillWords n (Config.canElement one.toNat ((c.can n).put one % 64)) k).can n).advance ((c.can n).put one) one := by
  simp only [Chip.canReceived, Chip.can_raise, Chip.can_canFill, Chip.can_setCan_same]

theorem CanSt.advance_mem (x : CanSt) (put : Nat) (one : Bool) : (x.advance put one).mem = x.mem := by
  cases one <;> rfl

/-- A received element moves the put index of its FIFO on, and changes message storage. -/
theorem Chip.canReceived_can :
    (c.canReceived n one k).can n = { (c.can n).advance ((c.can n).put one) one with mem := ((c.canReceived n one k).can n).mem } := by
  obtain ⟨-, -, -, hcan⟩ := c.canFillWords_keeps n (Config.canElement one.toNat ((c.can n).put one % 64)) k
  rw [Chip.canReceived_can_eq, hcan]
  cases one <;> rfl

theorem Chip.canReceived_st : (c.canReceived n one k).st = c.st := by
  obtain ⟨-, hst, -, -⟩ := c.canFillWords_keeps n (Config.canElement one.toNat ((c.can n).put one % 64)) k
  exact (Chip.raise_st _ _).trans ((Chip.canFill_st _ _).trans hst)

theorem Chip.canReceived_fresh : (c.canReceived n one k).fresh = c.fresh + k := by
  obtain ⟨-, -, hfresh, -⟩ := c.canFillWords_keeps n (Config.canElement one.toNat ((c.can n).put one % 64)) k
  exact (Chip.raise_fresh _ _).trans ((Chip.canFill_fresh _ _).trans hfresh)

theorem Chip.canReceived_flag : (c.canReceived n one k).on (hSticky (R.CANX.ID n) 1) = true := by
  simp [Chip.canReceived, Chip.on, Chip.raise]

/-- RXF_STAT follows the put index that has moved on. -/
theorem Chip.canReceived_rxfStat : (c.canReceived n one k).rd (R.CANX.RXF_STAT n) =
    let z := (c.can n).advance ((c.can n).put one) one
    wd ((z.put0 + 128 - z.get0) % 128 + (z.put1 + 128 - z.get1) % 128 * 65536) := by
  obtain ⟨-, -, -, hcan⟩ := c.canFillWords_keeps n (Config.canElement one.toNat ((c.can n).put one % 64)) k
  have other : R.CANX.ID n + 16 ≠ R.CANX.RXF_STAT n := by simp only [R.CANX.ID, R.CANX.RXF_STAT]; omega
  simp only [Chip.canReceived, Chip.raise, Chip.rd_set, if_neg other, Chip.canFill, Chip.rd_wr_same, Chip.can_setCan_same]
  rw [hcan]
  cases one <;> rfl

/-- Message storage outside the received element stays. -/
theorem Chip.canReceived_mem {w : Nat} (hw : ∀ j, j < k → w ≠ (Config.canElement one.toNat ((c.can n).put one % 64) + j) % 4096) :
    Tab.at ((c.canReceived n one k).can n).mem 0 w = Tab.at (c.can n).mem 0 w := by
  rw [Chip.canReceived_can_eq, CanSt.advance_mem]
  exact c.canFillWords_mem n _ k hw

end

/-! ### Message storage -/

theorem exec_canMsgWrite (src : Source) (n : Fin 3) (v : Word) (s : State) : exec (.canMsgAccess src n (some v)) s =
    s.nextGated { src := src, addr := R.CANX.MSG_DATA n, val := v } fun c => c.canAccess n (some v) := rfl

theorem exec_canMsgRead (src : Source) (n : Fin 3) (s : State) : exec (.canMsgAccess src n none) s =
    s.nextRead src fun c => c.canAccess n none := rfl

/-- An access to MSG_DATA moves MSG_ADDR on by a word. -/
theorem Chip.canAccess_shows (c : Chip) (n : Nat) (write : Option Word) : c.Shows (c.canAccess n write)
    [(whole (R.CANX.MSG_ADDR n), (bits (c.rd (R.CANX.MSG_ADDR n)) 2 12 + 1) % 4096 * 4)] := by
  have small : (bits (c.rd (R.CANX.MSG_ADDR n)) 2 12 + 1) % 4096 * 4 < 2 ^ 32 := by omega
  cases write with
  | none => exact (Chip.Shows.of_regs).wr_wd small (by simp)
  | some v => exact (Chip.Shows.of_regs).wr_wd small (by simp)

end Sys2Proof.Machine
end

section
/-! SUPPORT. Laws of the Ethernet MACs: which frames pass, what a timestamp shows, what the buffer of a received frame leaves, and the
transactions of MDIO. -/

namespace Sys2Proof.Machine

theorem takesWrites_mdioCmd (n : Fin 2) : takesWrites (R.ETH.MDIO_CMD n) = true := by revert n; decide

/-! ### Filters -/

/-- The address filters read no register of the header. -/
theorem Chip.ethPasses_congr {c d : Chip} {n : Nat} (h : ∀ a, R.ETH.MAC_CFG n ≤ a → d.rd a = c.rd a) (dst : BitVec 48) :
    d.ethPasses n dst = c.ethPasses n dst := by
  have exactHi (k : Nat) : d.rd (R.ETH.EXACT_HI n k) = c.rd (R.ETH.EXACT_HI n k) :=
    h _ (by simp only [R.ETH.EXACT_HI, R.ETH.MAC_CFG]; omega)
  have exactLo (k : Nat) : d.rd (R.ETH.EXACT_LO n k) = c.rd (R.ETH.EXACT_LO n k) :=
    h _ (by simp only [R.ETH.EXACT_LO, R.ETH.MAC_CFG]; omega)
  have cfg : d.rd (R.ETH.MAC_CFG n) = c.rd (R.ETH.MAC_CFG n) := h _ le_rfl
  have addrLo : d.rd (R.ETH.MAC_ADDR_LO n) = c.rd (R.ETH.MAC_ADDR_LO n) :=
    h _ (by simp only [R.ETH.MAC_ADDR_LO, R.ETH.MAC_CFG]; omega)
  have addrHi : d.rd (R.ETH.MAC_ADDR_HI n) = c.rd (R.ETH.MAC_ADDR_HI n) :=
    h _ (by simp only [R.ETH.MAC_ADDR_HI, R.ETH.MAC_CFG]; omega)
  have hash (b : Prop) [Decidable b] (k : Nat) : d.on (bitOf (if b then R.ETH.HASH_LO n else R.ETH.HASH_HI n) k) =
      c.on (bitOf (if b then R.ETH.HASH_LO n else R.ETH.HASH_HI n) k) := by
    simp only [Chip.on, Chip.get]
    rw [h]
    split <;> simp only [R.ETH.HASH_LO, R.ETH.HASH_HI, R.ETH.MAC_CFG] <;> omega
  simp only [Chip.ethPasses, exactHi, exactLo, cfg, addrLo, addrHi, hash]

/-! ### A frame at a MAC -/

/-- A MAC at the instant of a frame: its page shows STATE 2. -/
def Chip.ethActive (c : Chip) (n at_ : Nat) : Chip := (c.goto at_).set (hState (R.ETH.ID n)) 2

theorem Chip.ethActive_shows (c : Chip) (n at_ : Nat) : c.Shows (c.ethActive n at_) [(hState (R.ETH.ID n), 2)] :=
  (Chip.Shows.of_regs).set (by simp) (by simp) (by simp)

theorem Chip.ethActive_rd (c : Chip) {n a : Nat} (at_ : Nat) (ha : R.ETH.MAC_CFG n ≤ a) : (c.ethActive n at_).rd a = c.rd a :=
  (c.ethActive_shows n at_).rd_apart (by
    simp only [R.ETH.MAC_CFG] at ha
    simp only [List.mem_singleton, forall_eq, R.ETH.ID, ne_eq]
    omega)

theorem Chip.ethActive_passes (c : Chip) (n at_ : Nat) (dst : BitVec 48) : (c.ethActive n at_).ethPasses n dst = c.ethPasses n dst :=
  Chip.ethPasses_congr (fun _ ha => c.ethActive_rd at_ ha) dst

theorem Chip.ethActive_onlyRegs (c : Chip) (n at_ : Nat) : (c.goto at_).OnlyRegs (c.ethActive n at_) := Chip.OnlyRegs.set rfl _ _

/-! ### Timestamps -/

/-- What the timestamp of a frame shows, if the frame matches. -/
def stampShown (hit : Bool) (n lo hi flag at_ : Nat) : List (Fld × Nat) :=
  if hit then [(whole lo, at_ % 2 ^ 32), (whole hi, at_ / 2 ^ 32 % 2 ^ 32), (hSticky (R.ETH.ID n) flag, 1)] else []

/-- A frame that matches TS_FILT is timestamped (R442). -/
def Chip.ethStamp (c : Chip) (n lo hi flag : Nat) (k : TsKind) (at_ : Nat) : Chip :=
  if c.tsMatch n k then (c.set64 lo hi at_).raise (hSticky (R.ETH.ID n) flag) else c

theorem Chip.OnlyRegs.ethStamp {c d : Chip} (h : c.OnlyRegs d) (n lo hi flag : Nat) (k : TsKind) (at_ : Nat) :
    c.OnlyRegs (d.ethStamp n lo hi flag k at_) := by
  unfold Chip.ethStamp
  split
  · exact ((h.wr _ _).wr _ _).raise _
  · exact h

theorem Chip.tsMatch_congr {c d : Chip} {n : Nat} (h : d.rd (R.ETH.TS_FILT n) = c.rd (R.ETH.TS_FILT n)) (k : TsKind) :
    d.tsMatch n k = c.tsMatch n k := by
  simp only [Chip.tsMatch, h]

/-- A MAC at the instant of a frame, with its timestamp. -/
def Chip.ethStamped (c : Chip) (n lo hi flag : Nat) (k : TsKind) (at_ : Nat) : Chip :=
  (c.ethActive n at_).ethStamp n lo hi flag k at_

/-- What a frame shows with its timestamp. -/
def stampedShown (hit : Bool) (n lo hi flag at_ : Nat) : List (Fld × Nat) :=
  (hState (R.ETH.ID n), 2) :: stampShown hit n lo hi flag at_

/-- The registers and the flag of a timestamp: the registers lie between TS_FILT and FRM_CNT. -/
def StampAt (n lo hi flag : Nat) : Prop := R.ETH.TS_FILT n < lo ∧ lo < hi ∧ hi < R.ETH.FRM_CNT n ∧ flag < 32

theorem stampAt_rx (n : Nat) : StampAt n (R.ETH.TS_RX_LO n) (R.ETH.TS_RX_HI n) 3 := by
  simp [StampAt, R.ETH.TS_FILT, R.ETH.TS_RX_LO, R.ETH.TS_RX_HI, R.ETH.FRM_CNT]

theorem stampAt_tx (n : Nat) : StampAt n (R.ETH.TS_TX_LO n) (R.ETH.TS_TX_HI n) 4 := by
  simp [StampAt, R.ETH.TS_FILT, R.ETH.TS_TX_LO, R.ETH.TS_TX_HI, R.ETH.FRM_CNT]

section
variable {n lo hi flag : Nat} (st : StampAt n lo hi flag)
include st

/-- Registers below and above those of the timestamp are apart from what it shows. -/
theorem StampAt.apart {f : Fld} (hit : Bool) (at_ : Nat)
    (hf : R.ETH.MAC_CFG n ≤ f.reg ∧ f.reg ≤ R.ETH.TS_FILT n ∨ R.ETH.FRM_CNT n ≤ f.reg) :
    f.ApartFrom (stampedShown hit n lo hi flag at_) := by
  obtain ⟨h1, h2, h3, -⟩ := st
  simp only [R.ETH.MAC_CFG, R.ETH.TS_FILT, R.ETH.FRM_CNT] at *
  have header : ∀ o, o < 0x40 → R.ETH.ID n + o ≠ f.reg := fun o ho => by simp only [R.ETH.ID]; omega
  have low : lo ≠ f.reg := by omega
  have high : hi ≠ f.reg := by omega
  cases hit
  · simp [stampedShown, stampShown, Fld.Apart, header]
  · simp [stampedShown, stampShown, Fld.Apart, header, low, high]

theorem StampAt.flag_apart {i : Nat} (hit : Bool) (at_ : Nat) (h : i ≠ flag) :
    (hSticky (R.ETH.ID n) i).ApartFrom (stampedShown hit n lo hi flag at_) := by
  obtain ⟨h1, h2, -, -⟩ := st
  simp only [R.ETH.TS_FILT] at h1
  have low : lo ≠ R.ETH.ID n + 16 := by simp only [R.ETH.ID]; omega
  have high : hi ≠ R.ETH.ID n + 16 := by simp only [R.ETH.ID]; omega
  cases hit
  · simp [stampedShown, stampShown, Fld.Apart]
  · simp only [stampedShown, stampShown, if_true, Fld.apartFrom_cons, Fld.apartFrom_nil, Fld.Apart]
    exact ⟨.inl (by simp), .inl low, .inl high, .inr (by omega), trivial⟩

theorem StampAt.ethStamped_shows (c : Chip) (k : TsKind) (at_ : Nat) :
    c.Shows (c.ethStamped n lo hi flag k at_) (stampedShown (c.tsMatch n k) n lo hi flag at_) := by
  obtain ⟨h1, h2, -, hf⟩ := st
  have active := c.ethActive_shows n at_
  have filt : (c.ethActive n at_).tsMatch n k = c.tsMatch n k :=
    Chip.tsMatch_congr (c.ethActive_rd at_ (by simp only [R.ETH.MAC_CFG, R.ETH.TS_FILT]; omega)) k
  simp only [R.ETH.TS_FILT] at h1
  have low : lo ≠ R.ETH.ID n + 16 ∧ R.ETH.ID n + 12 ≠ lo := by simp only [R.ETH.ID]; omega
  have high : hi ≠ R.ETH.ID n + 16 ∧ R.ETH.ID n + 12 ≠ hi := by simp only [R.ETH.ID]; omega
  unfold Chip.ethStamped Chip.ethStamp stampedShown stampShown
  rw [filt]
  split
  · have stamped := ((active.wr (a := lo) (v := wd at_) (by simp [Fld.Apart, low])).wr (a := hi) (v := wd (at_ / 2 ^ 32))
      (by simp [Fld.Apart, Nat.ne_of_lt h2, high])).raise (a := R.ETH.ID n + 16) hf (by simp [Fld.Apart, low, high])
    simp only [BitVec.toNat_ofNat] at stamped
    exact stamped
  · exact active

/-- The rings and their indexes read as before. -/
theorem StampAt.ethStamped_rd (c : Chip) (k : TsKind) (at_ : Nat) {a : Nat} (h1 : R.ETH.MAC_CFG n ≤ a) (h2 : a ≤ R.ETH.TS_FILT n) :
    (c.ethStamped n lo hi flag k at_).rd a = c.rd a := by
  apply BitVec.eq_of_toNat_eq
  rw [← bits_whole, ← bits_whole]
  exact (st.ethStamped_shows c k at_).get_apart (f := whole a) (st.apart _ at_ (.inl ⟨h1, h2⟩))

/-- A frame that is done moves an index of the rings on, counts, and shows its flag. -/
theorem StampAt.frameDone {c d : Chip} {hit : Bool} {at_ : Nat} (h : c.Shows d (stampedShown hit n lo hi flag at_)) {r l i x : Nat}
    (hr : r + 8 ≤ 32) (hl : l + 16 ≤ 32) (hx : x < 2 ^ 8) (hflag : i ≠ flag) (hi32 : i < 32) :
    c.Shows (((d.set ⟨R.ETH.RING_IDX n, r, 8⟩ x).inc ⟨R.ETH.FRM_CNT n, l, 16⟩).raise (hSticky (R.ETH.ID n) i))
      (stampedShown hit n lo hi flag at_ ++ [(⟨R.ETH.RING_IDX n, r, 8⟩, x),
        (⟨R.ETH.FRM_CNT n, l, 16⟩, min (c.get ⟨R.ETH.FRM_CNT n, l, 16⟩ + 1) (2 ^ 16 - 1)), (hSticky (R.ETH.ID n) i, 1)]) := by
  have index := h.set (f := ⟨R.ETH.RING_IDX n, r, 8⟩) (x := x) hr hx
    (st.apart hit at_ (.inl (by simp [R.ETH.MAC_CFG, R.ETH.RING_IDX, R.ETH.TS_FILT])))
  have count := index.inc (f := ⟨R.ETH.FRM_CNT n, l, 16⟩) hl ((Fld.apartFrom_append ..).2
    ⟨st.apart hit at_ (.inr le_rfl), by simp [Fld.Apart, R.ETH.RING_IDX, R.ETH.FRM_CNT]⟩)
  have done := count.raise (a := R.ETH.ID n + 16) hi32 ((Fld.apartFrom_append ..).2 ⟨(Fld.apartFrom_append ..).2
    ⟨st.flag_apart hit at_ hflag, by simp [Fld.Apart, R.ETH.RING_IDX, R.ETH.ID]; omega⟩,
      by simp [Fld.Apart, R.ETH.FRM_CNT, R.ETH.ID]; omega⟩)
  simp only [List.append_assoc] at done
  exact done
end

/-- No frame changes more than registers and System Time before its buffer. -/
theorem Chip.ethStamped_onlyRegs (c : Chip) (n lo hi flag : Nat) (k : TsKind) (at_ : Nat) :
    (c.goto at_).OnlyRegs (c.ethStamped n lo hi flag k at_) := (c.ethActive_onlyRegs n at_).ethStamp ..

/-! ### The buffer of a received frame -/

/-- Free words in the buffer at `a`, the first `k` of a frame. -/
def Chip.ethFill (c : Chip) (a k : Nat) : Chip :=
  upto k (fun (c : Chip) j => let d := c.draw; d.2.shmWr ((a + j) % 2 ^ 20) (Config.freeWord d.1)) c

theorem Chip.ethFill_succ (c : Chip) (a k : Nat) : c.ethFill a (k + 1) =
    { c.ethFill a k with fresh := (c.ethFill a k).fresh + 1 }.shmWr ((a + k) % 2 ^ 20) (Config.freeWord (c.ethFill a k).fresh) := by
  simp only [Chip.ethFill, upto, List.range_succ, List.foldl_append, List.foldl_cons, List.foldl_nil, Chip.draw]

/-- A store to shared SRAM changes shared SRAM and the save buffer alone. -/
theorem Chip.shmWr_keeps (c : Chip) (w : Nat) (v : Word) : (c.shmWr w v).regs = c.regs ∧ (c.shmWr w v).st = c.st ∧
    (c.shmWr w v).fresh = c.fresh ∧ (c.shmWr w v).marchSlice = c.marchSlice ∧ (c.shmWr w v).marchStand = c.marchStand := by
  unfold Chip.shmWr
  split_ifs <;> exact ⟨rfl, rfl, rfl, rfl, rfl⟩

theorem Chip.ethFill_keeps (c : Chip) (a k : Nat) : (c.ethFill a k).regs = c.regs ∧ (c.ethFill a k).st = c.st ∧
    (c.ethFill a k).fresh = c.fresh + k ∧ (c.ethFill a k).marchSlice = c.marchSlice ∧ (c.ethFill a k).marchStand = c.marchStand := by
  induction k with
  | zero => exact ⟨rfl, rfl, rfl, rfl, rfl⟩
  | succ k ih =>
    obtain ⟨hregs, hst, hfresh, hslice, hstand⟩ := ih
    rw [Chip.ethFill_succ]
    obtain ⟨kregs, kst, kfresh, kslice, kstand⟩ := Chip.shmWr_keeps
      { c.ethFill a k with fresh := (c.ethFill a k).fresh + 1 } ((a + k) % 2 ^ 20) (Config.freeWord (c.ethFill a k).fresh)
    exact ⟨kregs.trans hregs, kst.trans hst, kfresh.trans (congrArg (· + 1) hfresh), kslice.trans hslice, kstand.trans hstand⟩

/-- Words outside the buffer stay while one slice at most has its words in the save buffer. -/
theorem Chip.ethFill_shmRd (c : Chip) (a k : Nat) {w : Nat} (hb : c.marchSlice = none ∨ c.marchStand = none)
    (hw : ∀ j, j < k → w ≠ (a + j) % 2 ^ 20) : (c.ethFill a k).shmRd w = c.shmRd w := by
  induction k with
  | zero => rfl
  | succ k ih =>
    obtain ⟨-, -, -, hslice, hstand⟩ := c.ethFill_keeps a k
    rw [Chip.ethFill_succ, Chip.shmRd_shmWr_ne _ _ (by rwa [← hslice, ← hstand] at hb) (Ne.symm (hw k k.lt_succ_self))]
    exact ih fun j hj => hw j (Nat.lt_succ_of_lt hj)

/-! ### Frames -/

/-- A received frame in the buffer of the descriptor at `head`. -/
def Chip.ethReceived (c : Chip) (n k head size : Nat) : Chip :=
  (((c.ethFill (Config.ethBuffer n head) k).set ⟨R.ETH.RING_IDX n, 16, 8⟩ ((head + 1) % size)).inc
    ⟨R.ETH.FRM_CNT n, 16, 16⟩).raise (hSticky (R.ETH.ID n) 1)

theorem Chip.ethReceived_onlyRegs (c : Chip) (n k head size : Nat) :
    (c.ethFill (Config.ethBuffer n head) k).OnlyRegs (c.ethReceived n k head size) :=
  ((Chip.OnlyRegs.set rfl _ _).set _ _).raise _

section
variable (c : Chip) (n lo hi flag : Nat) (kind : TsKind) (at_ k head size : Nat)

theorem Chip.ethReceived_st : ((c.ethStamped n lo hi flag kind at_).ethReceived n k head size).st = max c.st at_ := by
  obtain ⟨-, filled, -⟩ := (c.ethStamped n lo hi flag kind at_).ethFill_keeps (Config.ethBuffer n head) k
  rw [(Chip.ethReceived_onlyRegs ..).st, filled, (c.ethStamped_onlyRegs ..).st, Chip.goto_st]

theorem Chip.ethReceived_fresh : ((c.ethStamped n lo hi flag kind at_).ethReceived n k head size).fresh = c.fresh + k := by
  obtain ⟨-, -, filled, -⟩ := (c.ethStamped n lo hi flag kind at_).ethFill_keeps (Config.ethBuffer n head) k
  rw [(Chip.ethReceived_onlyRegs ..).fresh, filled, (c.ethStamped_onlyRegs ..).fresh, Chip.goto_fresh]

variable {c n lo hi flag kind at_ k head size}

/-- Words of shared SRAM outside the buffer read as before the frame. -/
theorem Chip.ethReceived_shmRd {w : Nat} (hb : c.marchSlice = none ∨ c.marchStand = none)
    (hw : ∀ j, j < k → w ≠ (Config.ethBuffer n head + j) % 2 ^ 20) :
    ((c.ethStamped n lo hi flag kind at_).ethReceived n k head size).shmRd w = c.shmRd w := by
  have stamped := c.ethStamped_onlyRegs n lo hi flag kind at_
  have oneSlice : (c.ethStamped n lo hi flag kind at_).marchSlice = none ∨ (c.ethStamped n lo hi flag kind at_).marchStand = none := by
    rwa [stamped.marchSlice, stamped.marchStand]
  rw [(Chip.ethReceived_onlyRegs ..).shmRd, Chip.ethFill_shmRd _ _ _ oneSlice hw, stamped.shmRd]
  rfl

theorem StampAt.ethReceived_shows (st : StampAt n lo hi flag) (hflag : 1 ≠ flag) (hs : (head + 1) % size < 2 ^ 8) :
    c.Shows ((c.ethStamped n lo hi flag kind at_).ethReceived n k head size) (stampedShown (c.tsMatch n kind) n lo hi flag at_ ++
      [(⟨R.ETH.RING_IDX n, 16, 8⟩, (head + 1) % size),
        (⟨R.ETH.FRM_CNT n, 16, 16⟩, min (c.get ⟨R.ETH.FRM_CNT n, 16, 16⟩ + 1) (2 ^ 16 - 1)), (hSticky (R.ETH.ID n) 1, 1)]) := by
  obtain ⟨filled, -⟩ := (c.ethStamped n lo hi flag kind at_).ethFill_keeps (Config.ethBuffer n head) k
  exact st.frameDone ((st.ethStamped_shows c kind at_).congr filled) (by decide) (by decide) hs hflag (by decide)
end

/-- What a received frame does to the device (R441, R442). -/
def Chip.ethRx (c : Chip) (n : Nat) (dst : BitVec 48) (words : Nat) (k : TsKind) (descOk : Bool) (at_ : Nat) : Chip :=
  if !c.on (hEn (R.ETH.ID n)) then c
  else if !(c.ethActive n at_).ethPasses n dst then c.ethActive n at_
  else
    let d := c.ethStamped n (R.ETH.TS_RX_LO n) (R.ETH.TS_RX_HI n) 3 k at_
    if bits (d.rd (R.ETH.RX_RING n)) 24 8 = 0 ∨ !descOk then d.raise (hSticky (R.ETH.ID n) 5)
    else d.ethReceived n words (bits (d.rd (R.ETH.RING_IDX n)) 16 8) (bits (d.rd (R.ETH.RX_RING n)) 24 8)

theorem exec_ethRxFrame (n : Fin 2) (dst : BitVec 48) (len : Fin 1523) (k : TsKind) (descOk : Bool) (at_ : Nat) (s : State) :
    exec (.ethRxFrame n dst len k descOk at_) s = s.nextChip fun c => c.ethRx n dst ((len.val + 3) / 4) k descOk at_ := rfl

section
variable {c : Chip} {n words at_ : Nat} {dst : BitVec 48} {k : TsKind} {descOk : Bool}

theorem Chip.ethRx_of_off (h : c.on (hEn (R.ETH.ID n)) = false) : c.ethRx n dst words k descOk at_ = c := by
  simp only [Chip.ethRx, h, Bool.not_false, if_true]

variable (en : c.on (hEn (R.ETH.ID n)) = true)
include en

theorem Chip.ethRx_of_filtered (h : c.ethPasses n dst = false) : c.ethRx n dst words k descOk at_ = c.ethActive n at_ := by
  simp only [Chip.ethRx, en, Chip.ethActive_passes, h, Bool.not_true, Bool.not_false, Bool.false_eq_true, if_true, if_false]

variable (passes : c.ethPasses n dst = true)
include passes

/-- A frame that passes is lost without a free descriptor, and otherwise fills the buffer of the descriptor at the head. -/
theorem Chip.ethRx_of_passes : c.ethRx n dst words k descOk at_ =
    let d := c.ethStamped n (R.ETH.TS_RX_LO n) (R.ETH.TS_RX_HI n) 3 k at_
    if bits (c.rd (R.ETH.RX_RING n)) 24 8 = 0 ∨ descOk = false then d.raise (hSticky (R.ETH.ID n) 5)
    else d.ethReceived n words (bits (c.rd (R.ETH.RING_IDX n)) 16 8) (bits (c.rd (R.ETH.RX_RING n)) 24 8) := by
  have ring := (stampAt_rx n).ethStamped_rd c k at_ (a := R.ETH.RX_RING n)
    (by simp [R.ETH.MAC_CFG, R.ETH.RX_RING]) (by simp [R.ETH.TS_FILT, R.ETH.RX_RING])
  have index := (stampAt_rx n).ethStamped_rd c k at_ (a := R.ETH.RING_IDX n)
    (by simp [R.ETH.MAC_CFG, R.ETH.RING_IDX]) (by simp [R.ETH.TS_FILT, R.ETH.RING_IDX])
  simp only [Chip.ethRx, en, Chip.ethActive_passes, passes, ring, index, Bool.not_true, Bool.false_eq_true, if_false,
    Bool.not_eq_true']

end

/-- What a sent frame does to the device (R441, R442). -/
def Chip.ethTx (c : Chip) (n : Nat) (k : TsKind) (at_ : Nat) : Chip :=
  let size := bits (c.rd (R.ETH.TX_RING n)) 24 8
  if !c.on (hEn (R.ETH.ID n)) || size == 0 then c
  else
    let d := c.ethStamped n (R.ETH.TS_TX_LO n) (R.ETH.TS_TX_HI n) 4 k at_
    ((d.set ⟨R.ETH.RING_IDX n, 8, 8⟩ ((bits (d.rd (R.ETH.RING_IDX n)) 8 8 + 1) % size)).inc ⟨R.ETH.FRM_CNT n, 0, 16⟩).raise
      (hSticky (R.ETH.ID n) 2)

theorem exec_ethTxFrame (n : Fin 2) (len : Fin 1523) (k : TsKind) (at_ : Nat) (s : State) :
    exec (.ethTxFrame n len k at_) s = s.nextChip fun c => c.ethTx n k at_ := rfl

theorem Chip.ethTx_of_idle {c : Chip} {n : Nat} {k : TsKind} {at_ : Nat}
    (h : c.on (hEn (R.ETH.ID n)) = false ∨ bits (c.rd (R.ETH.TX_RING n)) 24 8 = 0) : c.ethTx n k at_ = c := by
  have stops : (!c.on (hEn (R.ETH.ID n)) || bits (c.rd (R.ETH.TX_RING n)) 24 8 == 0) = true := by simpa using h
  simp only [Chip.ethTx, stops, if_true]

theorem Chip.ethTx_of_sending {c : Chip} {n : Nat} {k : TsKind} {at_ : Nat} (en : c.on (hEn (R.ETH.ID n)) = true)
    (h : bits (c.rd (R.ETH.TX_RING n)) 24 8 ≠ 0) : c.ethTx n k at_ =
      (((c.ethStamped n (R.ETH.TS_TX_LO n) (R.ETH.TS_TX_HI n) 4 k at_).set ⟨R.ETH.RING_IDX n, 8, 8⟩
        ((bits (c.rd (R.ETH.RING_IDX n)) 8 8 + 1) % bits (c.rd (R.ETH.TX_RING n)) 24 8)).inc ⟨R.ETH.FRM_CNT n, 0, 16⟩).raise
          (hSticky (R.ETH.ID n) 2) := by
  have goes : (!c.on (hEn (R.ETH.ID n)) || bits (c.rd (R.ETH.TX_RING n)) 24 8 == 0) = false := by simp [en, h]
  have index := (stampAt_tx n).ethStamped_rd c k at_ (a := R.ETH.RING_IDX n)
    (by simp [R.ETH.MAC_CFG, R.ETH.RING_IDX]) (by simp [R.ETH.TS_FILT, R.ETH.RING_IDX])
  simp only [Chip.ethTx, goes, index, Bool.false_eq_true, if_false]

/-- The place of a ring after one more frame fits its field. -/
theorem ring_next_lt (v : Word) (lo : Nat) {i : Nat} (h : bits v lo 8 ≠ 0) : i % bits v lo 8 < 2 ^ 8 :=
  lt_trans (Nat.mod_lt _ (Nat.pos_of_ne_zero h)) (bits_lt v lo 8)

/-! ### MDIO -/

theorem aInst_mdioCmd (n : Fin 2) : aInst (R.ETH.MDIO_CMD n) = n := by revert n; decide

theorem Chip.mdioCmd_eq (src : Source) (n : Fin 2) (v : Word) (c : Chip) :
    c.mdioCmd { src := src, addr := R.ETH.MDIO_CMD n, val := v } =
      if bits (c.rd (R.ETH.MDIO_STAT n)) 0 1 = 1 then c.reject { src := src, addr := R.ETH.MDIO_CMD n, val := v } rState false
      else { c with mdio := Tab.put c.mdio n v }.set ⟨R.ETH.MDIO_STAT n, 0, 1⟩ 1 := by
  simp only [Chip.mdioCmd, Acc.inst, aInst_mdioCmd]

/-- The end of a transaction clears BUSY, and shows the data of a read. -/
def Chip.mdioEnd (c : Chip) (n : Nat) (data : BitVec 16) : Chip :=
  match Tab.find c.mdio n with
  | none => c
  | some v =>
    let d := { c with mdio := Tab.del c.mdio n }.clr ⟨R.ETH.MDIO_STAT n, 0, 1⟩
    if bits v 10 1 = 1 then d else d.set ⟨R.ETH.MDIO_STAT n, 16, 16⟩ data.toNat

theorem exec_mdioDone (n : Fin 2) (data : BitVec 16) (s : State) :
    exec (.mdioDone n data) s = s.nextChip fun c => c.mdioEnd n data := rfl

section
variable {c : Chip} {n : Nat} {data : BitVec 16} {v : Word}

theorem Chip.mdioEnd_of_none (h : Tab.find c.mdio n = none) : c.mdioEnd n data = c := by
  simp only [Chip.mdioEnd, h]

theorem Chip.mdioEnd_of_write (h : Tab.find c.mdio n = some v) (hv : bits v 10 1 = 1) :
    c.mdioEnd n data = { c with mdio := Tab.del c.mdio n }.clr ⟨R.ETH.MDIO_STAT n, 0, 1⟩ := by
  simp only [Chip.mdioEnd, h, hv, if_true]

theorem Chip.mdioEnd_of_read (h : Tab.find c.mdio n = some v) (hv : bits v 10 1 = 0) : c.mdioEnd n data =
    ({ c with mdio := Tab.del c.mdio n }.clr ⟨R.ETH.MDIO_STAT n, 0, 1⟩).set ⟨R.ETH.MDIO_STAT n, 16, 16⟩ data.toNat := by
  simp only [Chip.mdioEnd, h, hv, Nat.zero_ne_one, if_false]

end

end Sys2Proof.Machine
end

section
/-! The vehicle networks. -/

namespace Sys2Proof.Machine

/-- Settles O56: each clause is one case of its command, by the law of that case. -/
theorem vehicleNetworksSendAndReceive : Obligations.VehicleNetworksSendAndReceive := by
  intro s c with_ plus
  refine ⟨fun n => ⟨fun src mask lets => ?txRequest, fun b at_ => ?txDone, fun len at_ => ?rxFrame, fun src => ?msgAccess⟩,
    fun n => ⟨fun dst len k descOk at_ => ?ethRx, fun len k at_ => ?ethTx, fun src v lets => ?mdioCmd, fun data => ?mdioDone⟩⟩
  case txRequest =>
    have reaches : s.Reaches { src := src, addr := R.CANX.TX_REQ n, val := c.rd (R.CANX.TX_REQ n) ||| mask } :=
      ⟨lets, (takesWrites_canx n).1⟩
    exact Answers.of_gated rfl reaches (Canx.onWrite_txReq ..) ((Chip.Shows.of_regs).wr (by simp))
  case txDone =>
    refine ⟨fun h => ?_, fun h => ?_⟩
    · exact .of_onChip (exec_canTxDone n b at_ s) (if_pos (not_not.1 ((c.canSends_iff n b).not.1 h)))
    · exact .of_onChip (exec_canTxDone n b at_ s) (if_neg ((c.canSends_iff n b).1 h)) (c.canSent_shows n b at_ b.isLt)
        (c.canSent_onlyRegs n b at_)
  case rxFrame =>
    have stays (h : ¬c.CanTakes n len) := not_not.1 ((c.canTakes_iff n len).not.1 h)
    have goes (h : c.CanTakes n len) := (c.canTakes_iff n len).1 h
    refine ⟨fun h fifo => ?_, fun h => ?_, fun one => ⟨fun h hf => ?_, fun h hf => ?_⟩⟩
    · exact .of_onChip (exec_canRxFrame n fifo len at_ s) (if_pos (stays h))
    · exact .of_onChip (exec_canRxFrame n none len at_ s) (if_neg (goes h)) .of_regs
    · have full : 64 ≤ (c.can n).fill one := by cases one <;> exact hf
      exact .of_onChip (exec_canRxFrame n (some one) len at_ s) ((if_neg (goes h)).trans (if_pos full))
        ((Chip.Shows.of_regs).raise (by decide) (by simp)) (Chip.OnlyRegs.raise rfl _)
    · have room : ¬64 ≤ (c.can n).fill one := by cases one <;> exact Nat.not_le.2 hf
      exact .of_onChip (exec_canRxFrame n (some one) len at_ s) ((if_neg (goes h)).trans (if_neg room))
        ⟨Chip.canReceived_can, Chip.canReceived_st, Chip.canReceived_fresh, Chip.canReceived_flag, Chip.canReceived_rxfStat,
          fun w hw => Chip.canReceived_mem hw⟩
  case msgAccess =>
    refine ⟨fun v lets => ?_, fun closed => ?_, fun isOpen => ?_⟩
    · have reaches : s.Reaches { src := src, addr := R.CANX.MSG_DATA n, val := v } := ⟨lets, (takesWrites_canx n).2⟩
      exact .of_gated (exec_canMsgWrite src n v s) reaches rfl (c.canAccess_shows n (some v))
    · exact .of_closedRead (exec_canMsgRead src n s) closed
    · exact .of_read (exec_canMsgRead src n s) isOpen rfl (c.canAccess_shows n none)
  case ethRx =>
    have stamped := (stampAt_rx n).ethStamped_shows c k at_
    refine ⟨fun off => ?_, fun en h => ?_, fun en h lost => ?_, fun en h room => ?_⟩
    · exact .of_onChip (exec_ethRxFrame n dst len k descOk at_ s) (Chip.ethRx_of_off off)
    · exact .of_onChip (exec_ethRxFrame n dst len k descOk at_ s) (Chip.ethRx_of_filtered en h) (c.ethActive_shows n at_)
        (c.ethActive_onlyRegs n at_)
    · have full : bits (c.rd (R.ETH.RX_RING n)) 24 8 = 0 ∨ descOk = false := by
        simpa [or_iff_not_imp_left] using lost
      exact .of_onChip (exec_ethRxFrame n dst len k descOk at_ s) ((Chip.ethRx_of_passes en h).trans (if_pos full))
        (stamped.raise (by decide) ((stampAt_rx n).flag_apart _ at_ (by decide))) ((c.ethStamped_onlyRegs ..).raise _)
    · obtain ⟨size, free⟩ := room
      have kept : ¬(bits (c.rd (R.ETH.RX_RING n)) 24 8 = 0 ∨ descOk = false) := by simp [size, free]
      obtain ⟨shown, -⟩ := (stampAt_rx n).ethReceived_shows (c := c) (kind := k) (at_ := at_) (k := (len.val + 3) / 4)
        (by decide) (ring_next_lt (c.rd (R.ETH.RX_RING n)) 24 (i := bits (c.rd (R.ETH.RING_IDX n)) 16 8 + 1) size)
      refine .of_onChip (exec_ethRxFrame n dst len k descOk at_ s) ((Chip.ethRx_of_passes en h).trans (if_neg kept))
        ⟨Chip.ethReceived_st .., Chip.ethReceived_fresh .., ?_, ?_, ?_, ?_, ?_⟩
      · exact fun f hf => shown f (List.mem_append_left _ hf)
      · exact shown (⟨R.ETH.RING_IDX n, 16, 8⟩, _) (by simp)
      · exact shown (⟨R.ETH.FRM_CNT n, 16, 16⟩, _) (by simp)
      · exact Chip.on_of_get (shown (hSticky (R.ETH.ID n) 1, 1) (by simp))
      · exact fun hb w hw => Chip.ethReceived_shmRd hb hw
  case ethTx =>
    refine ⟨fun idle => ?_, fun en h => ?_⟩
    · exact .of_onChip (exec_ethTxFrame n len k at_ s) (Chip.ethTx_of_idle idle)
    · exact .of_onChip (exec_ethTxFrame n len k at_ s) (Chip.ethTx_of_sending en h)
        ((stampAt_tx n).frameDone ((stampAt_tx n).ethStamped_shows c k at_) (by decide) (by decide) (ring_next_lt _ _ h) (by decide)
          (by decide)) ((((c.ethStamped_onlyRegs ..).set _ _).set _ _).raise _)
  case mdioCmd =>
    have reaches : s.Reaches { src := src, addr := R.ETH.MDIO_CMD n, val := v } := ⟨lets, takesWrites_mdioCmd n⟩
    refine ⟨fun h => ?_, fun h => ?_⟩
    · exact .of_gated rfl reaches ((Chip.mdioCmd_eq src n v c).trans (if_pos h)) (by decide)
    · exact .of_gated rfl reaches ((Chip.mdioCmd_eq src n v c).trans (if_neg h))
        ((Chip.Shows.of_regs).set (by simp) (by simp) (by simp)) (Chip.OnlyRegs.set rfl _ _)
  case mdioDone =>
    refine ⟨fun h => ?_, fun v h => ⟨fun hw => ?_, fun hr => ?_⟩⟩
    · exact .of_onChip (exec_mdioDone n data s) (Chip.mdioEnd_of_none h)
    · exact .of_onChip (exec_mdioDone n data s) (Chip.mdioEnd_of_write h hw) ((Chip.Shows.of_regs).set (by simp) (by simp) (by simp))
        (Chip.OnlyRegs.set rfl _ _)
    · exact .of_onChip (exec_mdioDone n data s) (Chip.mdioEnd_of_read h hr)
        (((Chip.Shows.of_regs).set (by simp) (by simp) (by simp)).set (by simp) data.isLt (by simp [Fld.Apart]))
        ((Chip.OnlyRegs.set rfl _ _).set _ _)

end Sys2Proof.Machine
end

section
/-! Reads that fill a latch, and serial frames. -/

namespace Sys2Proof.Machine

/-! ### Reads of `_LO` registers (R22) -/

/-- A read of the register goes to the register itself: its page exists, and it is neither LOCK nor STATUS nor a `_HI` register. -/
def readsPlain (a : Nat) : Bool := pageImplemented a && aOff a != 0x1C && aOff a != 0x0C && !latchedHigh a

/-- What a read of a latched register answers, through an open port or by a core of the engines. -/
theorem State.readBy_of_upperHalf {s : State} {r : Reader} {a : Nat} {hi v : Word}
    (isOpen : ∀ src, r = .port src → s.chip.portOpen src = true) (plain : readsPlain a = true)
    (upper : s.chip.upperHalf a = some hi) (shown : s.chip.view a = v) :
    s.readBy r a = { s with chip := { s.chip with
      out := [v], latches := Tab.set s.chip.latches 0 (latchKey (readerCode r) a) hi } } := by
  simp only [readsPlain, Bool.and_eq_true, bne_iff_ne, Bool.not_eq_true'] at plain
  obtain ⟨⟨⟨implemented, notLock⟩, notStatus⟩, notHigh⟩ := plain
  have read : s.readAt (readerCode r) a = (v, { s with chip := s.chip.setLatch (readerCode r) a hi }) := by
    simp [State.readAt, Chip.readReg, implemented, notLock, notStatus, notHigh, upper, shown]
  cases r with
  | port src => simp only [State.readBy, isOpen src rfl, if_true, read]; rfl
  | core n => simp only [State.readBy, if_true, read]; rfl

/-- A read of `lo` shows what is stored there and copies what is stored at `hi` to the reader's latch. -/
structure LatchesUpper (lo hi : Nat) : Prop where
  plain : readsPlain lo = true
  upper : ∀ c : Chip, c.upperHalf lo = some (c.rd hi)
  shown : ∀ c : Chip, c.view lo = c.rd lo

theorem readsPlain_latched (n : Fin 36) (m : Fin 2) : readsPlain R.SYS.ST_LO = true ∧ readsPlain (R.PAIRCMP.MISMATCH_ST_LO n) = true ∧
    readsPlain R.TRIP.SC_ST_LO = true ∧ readsPlain R.ISN.LAST_ST_LO = true ∧ readsPlain (R.ETH.TS_TX_LO m) = true ∧
    readsPlain (R.ETH.TS_RX_LO m) = true := by
  refine ⟨by decide, ?_, by decide, by decide, ?_, ?_⟩
  · revert n; decide
  · revert m; decide
  · revert m; decide

theorem rwsMask_latched (n : Fin 36) (m : Fin 2) : rwsMask R.SYS.ST_LO = 0 ∧ rwsMask (R.PAIRCMP.MISMATCH_ST_LO n) = 0 ∧
    rwsMask R.TRIP.SC_ST_LO = 0 ∧ rwsMask R.ISN.LAST_ST_LO = 0 ∧ rwsMask (R.ETH.TS_TX_LO m) = 0 ∧ rwsMask (R.ETH.TS_RX_LO m) = 0 := by
  refine ⟨by decide, ?_, by decide, by decide, ?_, ?_⟩
  · revert n; decide
  · revert m; decide
  · revert m; decide

theorem latchesUpper_mismatch (n : Fin 36) : LatchesUpper (R.PAIRCMP.MISMATCH_ST_LO n) (R.PAIRCMP.MISMATCH_ST_HI n) := by
  obtain ⟨-, plain, -⟩ := readsPlain_latched n 0
  obtain ⟨-, unshadowed, -⟩ := rwsMask_latched n 0
  have place : aCls (R.PAIRCMP.MISMATCH_ST_LO n) = 4 ∧ aInst (R.PAIRCMP.MISMATCH_ST_LO n) = n ∧
    aOff (R.PAIRCMP.MISMATCH_ST_LO n) = 0x4C := by revert n; decide
  obtain ⟨cls, inst, off⟩ := place
  have notTime : R.PAIRCMP.MISMATCH_ST_LO n ≠ R.SYS.ST_LO := by simp only [R.PAIRCMP.MISMATCH_ST_LO, R.SYS.ST_LO]; omega
  refine ⟨plain, fun c => ?_, fun c => ?_⟩
  · simp only [Chip.upperHalf, inst, notTime, if_false, if_true]
  · simp [Chip.view, Chip.selected, unshadowed, mapClass, cls, off]

theorem latchesUpper_sc : LatchesUpper R.TRIP.SC_ST_LO R.TRIP.SC_ST_HI := by
  obtain ⟨-, -, plain, -⟩ := readsPlain_latched 0 0
  refine ⟨plain, fun c => ?_, fun c => rfl⟩
  have notTime : R.TRIP.SC_ST_LO ≠ R.SYS.ST_LO := by decide
  have notMismatch : R.TRIP.SC_ST_LO ≠ R.PAIRCMP.MISMATCH_ST_LO (aInst R.TRIP.SC_ST_LO) := by decide
  have notLoop : ¬(aCls R.TRIP.SC_ST_LO = 4 ∧ aOff R.TRIP.SC_ST_LO = 0x850) := by decide
  simp only [Chip.upperHalf, notTime, notMismatch, notLoop, if_false, if_true]

theorem latchesUpper_last : LatchesUpper R.ISN.LAST_ST_LO R.ISN.LAST_ST_HI := by
  obtain ⟨-, -, -, plain, -⟩ := readsPlain_latched 0 0
  exact ⟨plain, fun _ => rfl, fun _ => rfl⟩

/-- An Ethernet time stamp is no latched register of another class. -/
theorem ethStamp_place (m : Fin 2) (a : Nat) (h : a ∈ [R.ETH.TS_TX_LO m, R.ETH.TS_RX_LO m]) : aInst a = m ∧ mapClass (aCls a) m = 23 ∧
    a ≠ R.SYS.ST_LO ∧ a ≠ R.PAIRCMP.MISMATCH_ST_LO m ∧ aCls a ≠ 4 ∧ a ≠ R.TRIP.SC_ST_LO ∧ a ≠ R.ISN.LAST_ST_LO ∧
    aOff a ≠ 0x18 := by revert a; revert m; decide

theorem latchesUpper_tx (m : Fin 2) : LatchesUpper (R.ETH.TS_TX_LO m) (R.ETH.TS_TX_HI m) := by
  obtain ⟨-, -, -, -, plain, -⟩ := readsPlain_latched 0 m
  obtain ⟨-, -, -, -, unshadowed, -⟩ := rwsMask_latched 0 m
  obtain ⟨inst, cls, h1, h2, h3, h4, h5, off⟩ := ethStamp_place m (R.ETH.TS_TX_LO m) (by simp)
  refine ⟨plain, fun c => ?_, fun c => ?_⟩
  · simp only [Chip.upperHalf, inst, h1, h2, h3, h4, h5, false_and, if_false, if_true]
  · simp [Chip.view, Chip.selected, unshadowed, inst, cls, off]

theorem latchesUpper_rx (m : Fin 2) : LatchesUpper (R.ETH.TS_RX_LO m) (R.ETH.TS_RX_HI m) := by
  obtain ⟨-, -, -, -, -, plain⟩ := readsPlain_latched 0 m
  obtain ⟨-, -, -, -, -, unshadowed⟩ := rwsMask_latched 0 m
  obtain ⟨inst, cls, h1, h2, h3, h4, h5, off⟩ := ethStamp_place m (R.ETH.TS_RX_LO m) (by simp)
  have notTx : R.ETH.TS_RX_LO m ≠ R.ETH.TS_TX_LO m := by simp only [R.ETH.TS_RX_LO, R.ETH.TS_TX_LO]; omega
  refine ⟨plain, fun c => ?_, fun c => ?_⟩
  · simp only [Chip.upperHalf, inst, h1, h2, h3, h4, h5, notTx, false_and, if_false, if_true]
  · simp [Chip.view, Chip.selected, unshadowed, inst, cls, off]

/-! ### Serial frames (R60–R62) -/

/-- What SHP_STATUS shows of a frame's end, and the flag of an error. -/
def FrameEnd.shows (how : FrameEnd) (cmd len : Nat) : List (Fld × Nat) :=
  match how with
  | .good => [(whole R.HOST.SHP_STATUS, 1 + cmd * 2 ^ 8 + len * 2 ^ 16)]
  | .crcErr => [(whole R.HOST.SHP_STATUS, 2 + cmd * 2 ^ 8 + len * 2 ^ 16), (hSticky R.HOST.ID 2, 1)]
  | .frameErr => [(whole R.HOST.SHP_STATUS, 4 + cmd * 2 ^ 8 + len * 2 ^ 16), (hSticky R.HOST.ID 3, 1)]

theorem Chip.frameDone_shows {c e : Chip} {cmd len : Nat} (how : FrameEnd) (hc : cmd < 256) (hl : len < 64) (he : e.regs = c.regs := by rfl) :
    c.Shows (e.frameDone cmd len how) (how.shows cmd len) := by
  have base : c.Shows e [] := .of_regs he
  have apart (i : Nat) (x : Nat) : (bitOf (R.HOST.ID + 0x10) i).ApartFrom [(whole R.HOST.SHP_STATUS, x)] := by
    simp [Fld.Apart, R.HOST.SHP_STATUS, R.HOST.ID]
  unfold Chip.frameDone FrameEnd.shows
  rw [Nat.mod_eq_of_lt hc, Nat.mod_eq_of_lt hl]
  have fits {flag : Nat} (h : flag ≤ 4) : flag + cmd * 2 ^ 8 + len * 2 ^ 16 < 2 ^ 32 := by omega
  cases how with
  | good => exact base.wr_wd (fits (by decide)) (by simp)
  | crcErr => exact (base.wr_wd (fits (by decide)) (by simp)).raise (by decide) (apart 2 _)
  | frameErr => exact (base.wr_wd (fits (by decide)) (by simp)).raise (by decide) (apart 3 _)

theorem Chip.frameDone_onlyRegs (c : Chip) (cmd len : Nat) (how : FrameEnd) : c.OnlyRegs (c.frameDone cmd len how) := by
  cases how <;> rfl

/-- A frame that ends changes what is read out and shows how it ended, and nothing else of what its words left. -/
theorem Completes.of_frameDone {i : Instr} {s u : State} {cmd len : Nat} {how : FrameEnd} {post : State → Prop} {out : List Word}
    (run : exec i s = .next (u.onChip fun c => { c with out := out }.frameDone cmd len how)) (hc : cmd < 256) (hl : len < 64)
    (hp : ∀ d : Chip, d = { u.chip with out := out, regs := d.regs } → u.chip.Shows d (how.shows cmd len) → post { u with chip := d }) :
    Completes i s post :=
  ⟨_, run, hp _ (Chip.frameDone_onlyRegs _ _ _ how) (Chip.frameDone_shows how hc hl)⟩

section
variable {s : State} (isOpen : s.chip.portOpen .serial = true)
include isOpen

theorem State.shpStatus_of_whole (a len : Nat) : s.shpStatus a len false = s.onChip fun c =>
    { c with out := [c.rd R.HOST.SHP_STATUS, wd (crc16 (frameBytes cmdStatus len a [c.rd R.HOST.SHP_STATUS]))] }.frameDone
      cmdStatus len .good := by
  simp [State.shpStatus, isOpen]

theorem State.shpRead_of_whole {a len : Nat} (within : frameCrosses a (len + 1) = false) :
    s.shpRead a len none =
      let r := s.sample ((List.range (len + 1)).map fun i => a + 4 * i)
      r.2.onChip fun c => { c with out := r.1 ++ [wd (crc16 (frameBytes cmdRead len a r.1))] }.frameDone cmdRead len .good := by
  simp [State.shpRead, isOpen, within]

variable {a : Nat} {ws : List Word} {crc : Nat} (some_ : ws ≠ []) (fits : ws.length ≤ 64) (within : frameCrosses a ws.length = false)
include some_ fits within

theorem State.shpWrite_of_good (good : crc16 (frameBytes cmdWrite (ws.length - 1) a ws) = crc) :
    s.shpWrite a ws crc false =
      ((List.range ws.length).foldl (fun (t : State) (i : Nat) => t.busWrite .serial (a + 4 * i) (ws.getD i 0)) s).onChip
        fun c => c.frameDone cmdWrite (ws.length - 1) .good := by
  simp [State.shpWrite, isOpen, some_, Nat.not_lt.2 fits, within, good]

theorem State.shpWrite_of_wrong (wrong : crc16 (frameBytes cmdWrite (ws.length - 1) a ws) ≠ crc) :
    Host.Outcome.next (s.shpWrite a ws crc false) = s.nextChip fun c => c.frameDone cmdWrite (ws.length - 1) .crcErr := by
  simp [State.nextChip, State.shpWrite, isOpen, some_, Nat.not_lt.2 fits, within, wrong]
end

theorem exec_shpFrameInvalid_of_unknown {s : State} (isOpen : s.chip.portOpen .serial = true) {cmd : BitVec 8} (a : RegAddr) (len : Fin 64)
    (notRead : cmd ≠ 0x1E#8) (notWrite : cmd ≠ 0x2D#8) (notStatus : cmd ≠ 0x3C#8) :
    exec (.shpFrameInvalid cmd a len) s = s.nextChip fun c => c.frameDone cmd.toNat len .frameErr := by
  have other {k : BitVec 8} (h : cmd ≠ k) : cmd.toNat ≠ k.toNat := fun e => h (BitVec.eq_of_toNat_eq e)
  have unknown : cmd.toNat ≠ cmdRead ∧ cmd.toNat ≠ cmdWrite ∧ cmd.toNat ≠ cmdStatus := ⟨other notRead, other notWrite, other notStatus⟩
  show s.nextChip _ = _
  simp only [State.nextChip, State.onChip, isOpen, Bool.true_and, decide_eq_true_eq]
  rw [if_pos (Or.inl unknown)]

/-- Settles O9: a read by the address it goes to, a frame by how it ends. -/
theorem readsLatchAndFramesAnswer : Obligations.ReadsLatchAndFramesAnswer := by
  unfold Obligations.ReadsLatchAndFramesAnswer
  intro ends
  refine ⟨fun r s isOpen => ⟨?stLo, fun a n m lo hi at_lo pair => ?latched⟩,
    fun s isOpen => ⟨fun a len => ?status, fun a len within => ?read, fun a ws crc some_ fits within => ?write,
      fun cmd a len notRead notWrite notStatus => ?invalid⟩⟩
  case stLo =>
    obtain ⟨plain, -⟩ := readsPlain_latched 0 0
    exact congrArg Host.Outcome.next (State.readBy_of_upperHalf isOpen plain rfl rfl)
  case latched =>
    have latches : LatchesUpper lo hi := by
      simp only [List.mem_cons, Prod.mk.injEq, List.not_mem_nil, or_false] at pair
      obtain ⟨rfl, rfl⟩ | ⟨rfl, rfl⟩ | ⟨rfl, rfl⟩ | ⟨rfl, rfl⟩ | ⟨rfl, rfl⟩ := pair
      · exact latchesUpper_mismatch n
      · exact latchesUpper_sc
      · exact latchesUpper_last
      · exact latchesUpper_tx m
      · exact latchesUpper_rx m
    subst at_lo
    exact congrArg Host.Outcome.next (State.readBy_of_upperHalf isOpen latches.plain (latches.upper _) (latches.shown _))
  case status =>
    refine .of_frameDone (how := .good) (congrArg Host.Outcome.next (State.shpStatus_of_whole isOpen a.toNat len)) (by decide) len.isLt ?_
    exact fun d hd shows => ⟨congrArg (fun e => ({ s with chip := e } : State)) hd, shows⟩
  case read =>
    refine .of_frameDone (how := .good) (congrArg Host.Outcome.next (State.shpRead_of_whole isOpen within)) (by decide) len.isLt ?_
    exact fun d hd shows => ⟨congrArg (fun e => (⟨_, _, e⟩ : State)) hd, shows⟩
  case write =>
    have lenFits : ws.length - 1 < 64 := by omega
    refine ⟨fun good => ?_, fun wrong => ?_⟩
    · refine .of_frameDone (how := .good) (congrArg Host.Outcome.next (State.shpWrite_of_good isOpen some_ fits within good)) (by decide)
        lenFits ?_
      exact fun d hd shows => ⟨congrArg (fun e => (⟨_, _, e⟩ : State)) hd, shows⟩
    · exact Answers.of_onChip (i := .shpWriteFrame a ws crc false) (State.shpWrite_of_wrong isOpen some_ fits within wrong) rfl
        (Chip.frameDone_shows .crcErr (by decide) lenFits) (Chip.frameDone_onlyRegs _ _ _ _)
  case invalid =>
    exact .of_onChip (exec_shpFrameInvalid_of_unknown isOpen a len notRead notWrite notStatus) rfl
      (Chip.frameDone_shows .frameErr cmd.isLt len.isLt) (Chip.frameDone_onlyRegs _ _ _ _)

end Sys2Proof.Machine
end

section
/-! The mailbox to remote pages, and late arrivals. -/

namespace Sys2Proof.Machine

/-! ### Fields that are shown as they were, and counts of whole registers -/

/-- A field apart from those shown is shown as it was. -/
theorem Chip.Shows.hold {c d : Chip} {l : List (Fld × Nat)} (h : c.Shows d l) {f : Fld} (ha : f.ApartFrom l) :
    c.Shows d (l ++ [(f, c.get f)]) := by
  refine ⟨fun p hp => ?_, h.2.mono fun f hf => by simp [hf]⟩
  rcases List.mem_append.1 hp with hp | hp
  · exact h.1 p hp
  · rw [List.mem_singleton.1 hp, h.get_apart ha]

theorem Chip.get_whole (c : Chip) (a : Nat) : c.get (whole a) = (c.rd a).toNat := bits_whole _

/-- A count of a whole register goes up to all ones. -/
theorem Chip.Shows.inc_whole {c d : Chip} {l : List (Fld × Nat)} (h : c.Shows d l) {a : Nat} (ha : (whole a).ApartFrom l) :
    c.Shows (d.inc (whole a)) (l ++ [(whole a, min ((c.rd a).toNat + 1) (2 ^ 32 - 1))]) := by
  rw [← c.get_whole a]
  exact h.inc (by simp) ha

theorem Chip.OnlyRegs.ite {c d e : Chip} {p : Prop} [Decidable p] (hd : c.OnlyRegs d) (he : c.OnlyRegs e) :
    c.OnlyRegs (if p then d else e) := by
  split
  · exact hd
  · exact he

/-- What a late arrival shows (R47). -/
def lateShown (c : Chip) (cls inst chan : Nat) : List (Fld × Nat) :=
  [(whole R.LEASH.LATE_CNT, min ((c.rd R.LEASH.LATE_CNT).toNat + 1) (2 ^ 32 - 1)), (F.LEASH.STICKY.LATE_ARRIVAL, 1),
   (whole R.LEASH.LATE_LAST, cls + inst * 2 ^ 8 + chan * 2 ^ 16)]

/-- A field lies outside the registers of late arrivals. -/
def Fld.notLate (f : Fld) : Prop := f.reg ≠ R.LEASH.LATE_CNT ∧ f.reg ≠ R.LEASH.STICKY ∧ f.reg ≠ R.LEASH.LATE_LAST

theorem Chip.Shows.late {c d : Chip} {l : List (Fld × Nat)} (h : c.Shows d l) {cls inst chan : Nat} (hcls : cls < 256)
    (hinst : inst < 256) (hchan : chan < 256) (ha : ∀ p ∈ l, p.1.notLate) :
    c.Shows (d.late cls inst chan) (l ++ lateShown c cls inst chan) := by
  have apart (a : Nat) (i n : Nat) (h : a = R.LEASH.LATE_CNT ∨ a = R.LEASH.STICKY ∨ a = R.LEASH.LATE_LAST) :
      Fld.ApartFrom ⟨a, i, n⟩ l := fun p hp => .inl <| by
    obtain ⟨h1, h2, h3⟩ := ha p hp
    rcases h with rfl | rfl | rfl <;> assumption
  have counted := h.inc_whole (apart R.LEASH.LATE_CNT 0 32 (.inl rfl))
  have flagged := counted.raise (a := R.LEASH.STICKY) (i := 4) (by decide) (by
    simpa [R.LEASH.LATE_CNT, R.LEASH.STICKY, Fld.Apart] using apart R.LEASH.STICKY 4 1 (.inr (.inl rfl)))
  have named := flagged.wr_wd (a := R.LEASH.LATE_LAST) (x := cls + inst * 2 ^ 8 + chan * 2 ^ 16) (by omega) (by
    simpa [R.LEASH.LATE_CNT, R.LEASH.STICKY, R.LEASH.LATE_LAST, Fld.Apart] using apart R.LEASH.LATE_LAST 0 32 (.inr (.inr rfl)))
  simpa [Chip.late, lateShown, Nat.mod_eq_of_lt hcls, Nat.mod_eq_of_lt hinst, Nat.mod_eq_of_lt hchan, List.append_assoc] using named

/-! ### Writes of MBX_CMD (R79) -/

/-- A write to a register that takes writes whatever the lock, on a page that SAFE-HOLD leaves writable. -/
theorem State.gated_of_free (s : State) (w : Acc) (f : Chip → Chip) (isOpen : s.chip.portOpen w.src = true)
    (implemented : pageImplemented w.addr = true) (exempt : lockExempt w.addr = true) (hold : holdWritable w.cls = true)
    (notSafety : safeRow w.addr = false) (notLock : w.off ≠ 0x1C) (takes : readOnly w.addr = false) :
    s.gated w f = { s.spent w.addr with chip := f s.chip } := by
  simp [State.gated, isOpen, implemented, exempt, hold, notSafety, notLock, takes, Chip.gateWrite, State.spent]

theorem mbxCmd_place (ch : Fin 4) : pageImplemented (R.HOST.MBX_CMD ch) = true ∧ lockExempt (R.HOST.MBX_CMD ch) = true ∧
    aCls (R.HOST.MBX_CMD ch) = 1 ∧ aInst (R.HOST.MBX_CMD ch) = 0 ∧ aOff (R.HOST.MBX_CMD ch) = 0xAC + ch * 0x20 ∧
    safeRow (R.HOST.MBX_CMD ch) = false ∧ readOnly (R.HOST.MBX_CMD ch) = false ∧ aPage (R.HOST.MBX_CMD ch) = R.HOST.ID := by
  revert ch; decide

/-- A write of OP through an open port reaches its channel, whatever the lock. -/
theorem State.mbxWrite_eq {s : State} {src : Source} (isOpen : s.chip.portOpen src = true) (ch : Fin 4) (op : Nat) :
    s.mbxWrite src ch op = { s.spent (R.HOST.MBX_CMD ch) with
      chip := s.chip.mbxCmd { src := src, addr := R.HOST.MBX_CMD ch, val := wd op } ch } := by
  obtain ⟨implemented, exempt, cls, inst, off, notSafety, takes, -⟩ := mbxCmd_place ch
  refine (s.gated_of_free _ _ isOpen implemented exempt (by simp [Acc.cls, cls, holdWritable]) notSafety ?_ takes).trans ?_
  · simp only [Acc.off, off]; omega
  · have window : 0xA0 ≤ 0xAC + ch.val * 0x20 ∧ 0xAC + ch.val * 0x20 < 0x120 ∧ (0xAC + ch.val * 0x20 - 0xA0) % 32 = 12 := by omega
    have channel : (0xAC + ch.val * 0x20 - 0xA0) / 32 = ch := by omega
    have h8 : 0xAC + ch.val * 0x20 ≠ 0x08 := by omega
    have h10 : 0xAC + ch.val * 0x20 ≠ 0x10 := by omega
    have h14 : 0xAC + ch.val * 0x20 ≠ 0x14 := by omega
    simp only [Chip.pageWrite, HostPage.onWrite, Acc.off, Acc.cls, Acc.inst, cls, inst, off, h8, h10, h14, window, channel,
      mapClass, if_false]
    rfl

section
variable (c : Chip) (w : Acc) (ch : Nat)

theorem Chip.mbxCmd_of_busy (h : c.on (F.HOST.MBX_STATUS.BUSY ch) = true) : c.mbxCmd w ch = c.reject w rState false := if_pos h

theorem Chip.mbxCmd_of_unknown (h : c.on (F.HOST.MBX_STATUS.BUSY ch) = false) (hop : bits w.val 0 2 = 0 ∨ bits w.val 0 2 = 3) :
    c.mbxCmd w ch = c.mbxRefuse ch rParam := by
  simp only [Chip.mbxCmd, h, hop, Bool.false_eq_true, if_false, if_true]

/-- The request that a write of OP latches (R79). -/
def Chip.mbxRequest (c : Chip) (ch op : Nat) : MbxSt :=
  { op := op, dest := bits (c.rd (R.HOST.MBX_DEST ch)) 0 14, addr := bits (c.rd (R.HOST.MBX_ADDR ch)) 2 22 * 4
    data := c.rd (R.HOST.MBX_WDATA ch), start := c.st }

theorem Chip.mbxCmd_of_pair {op : Nat} (h : c.on (F.HOST.MBX_STATUS.BUSY ch) = false) (hop : bits w.val 0 2 = op) (h0 : op ≠ 0)
    (h3 : op ≠ 3) (pair : (c.elPairTo (bits (c.rd (R.HOST.MBX_DEST ch)) 0 14)).isSome = true) :
    c.mbxCmd w ch = { c with mbx := Tab.set c.mbx {} ch (c.mbxRequest ch op) }.wr (R.HOST.MBX_STATUS ch) 1 := by
  simp only [Chip.mbxCmd, h, hop, h0, h3, or_self, Bool.false_eq_true, if_false]
  exact if_pos pair

end

/-- A flag of the HOST page lies apart from the registers of a channel. -/
theorem hostFlag_apart_mbx (i a lo len : Nat) (h : 0x80014 < a) : Fld.Apart ⟨a, lo, len⟩ (hSticky R.HOST.ID i) :=
  .inl (by simp only [R.HOST.ID]; omega)

theorem mbxStatus_above (ch : Nat) : 0x80014 < R.HOST.MBX_STATUS ch := by simp only [R.HOST.MBX_STATUS]; omega

/-- A channel that refuses shows the reason and its flag. -/
theorem Chip.mbxRefuse_shows (c : Chip) (ch : Fin 4) {reason : Nat} (h : reason < 256) : c.Shows (c.mbxRefuse ch reason)
    [(whole (R.HOST.MBX_STATUS ch), 8 + reason * 256), (hSticky R.HOST.ID (8 + ch), 1)] :=
  ((Chip.Shows.of_regs).wr_wd (by omega) (by simp)).raise (by omega)
    (by simpa using hostFlag_apart_mbx _ _ _ _ (mbxStatus_above ch))

/-! ### Admission of a request (R79, R434) -/

/-- A packet that leaves through a port counts at that port and moves nothing of the mailbox or of System Time. -/
theorem Chip.mgmtSend_keeps (c : Chip) (p ptype dev : Nat) (payload : List Nat) :
    (c.mgmtSend p ptype dev payload).mbx = c.mbx ∧ (c.mgmtSend p ptype dev payload).st = c.st ∧
    ∀ a, a ≠ R.EPORT.SUSP_CNT p → a ≠ R.EPORT.TX_PKTS p → (c.mgmtSend p ptype dev payload).rd a = c.rd a := by
  unfold Chip.mgmtSend Chip.elSendSched
  generalize c.mgmtPacket dev payload = pk
  have suspended : (c.elSuspend p (elBlocks (pktLen pk))).mbx = c.mbx ∧ (c.elSuspend p (elBlocks (pktLen pk))).st = c.st ∧
      ∀ a, a ≠ R.EPORT.SUSP_CNT p → (c.elSuspend p (elBlocks (pktLen pk))).rd a = c.rd a := by
    simp only [Chip.elSuspend]
    split
    · exact ⟨rfl, rfl, fun a h => Chip.rd_wr_ne _ _ (Ne.symm h)⟩
    · exact ⟨rfl, rfl, fun _ _ => rfl⟩
  obtain ⟨mbx, st, rd⟩ := suspended
  exact ⟨mbx, st, fun a h1 h2 => (Chip.rd_wr_ne _ _ (Ne.symm h2)).trans (rd a h1)⟩

section
variable {c : Chip} {ch : Fin 4} (busy : c.on (F.HOST.MBX_STATUS.BUSY ch) = true) (latched : (c.mbxCh ch).accepted = false)
include busy latched

/-- A request without a management pair is refused with NO_PATH. -/
theorem Chip.mbxAdmit_of_unpaired (h : c.elPairTo (c.mbxCh ch).dest = none) : c.mbxAdmit ch = c.mbxRefuse ch rNoPath := by
  simp only [Chip.mbxAdmit, busy, latched, h, Bool.not_true, Bool.or_false, Bool.false_eq_true, if_false]

/-- The device with a request accepted, before its packet leaves. -/
def Chip.mbxAccepted (c : Chip) (ch : Nat) (pr : ElPair) : Chip :=
  let x := c.mbxCh ch
  (Chip.updEl { c with mbx := Tab.set c.mbx {} ch { x with accepted := true } } fun e =>
    { e with pairs := e.pairs.map fun (y : ElPair) => if y.dest == x.dest then { y with used := c.st } else y }).wr
      (R.HOST.MBX_BOUND ch) (wd ((2 * c.elBound pr + 9) / 10 + 1000))

section
variable {pr : ElPair} {r : Nat × Nat} (pair : c.elPairTo (c.mbxCh ch).dest = some pr) (isOpen : pr.isOpen = true)
  (route : c.elRoute (c.mbxCh ch).dest = some r) (up : c.elUp r.1 = true)
include pair isOpen route up

theorem Chip.mbxAdmit_eq_accepted : c.mbxAdmit ch =
    (c.mbxAccepted ch pr).mgmtSend r.1 2 (c.mbxCh ch).dest (mreqBytes (c.mbxCh ch) ch) := by
  simp only [Chip.mbxAdmit, busy, latched, pair, route, isOpen, up, Bool.not_true, Bool.or_false, Bool.and_self, Bool.false_eq_true,
    if_false, if_true]
  rfl

/-- A request whose pair is open is accepted where a way leads to a port that is UP. -/
theorem Chip.mbxAdmit_of_open :
    (c.mbxAdmit ch).mbxCh ch = { c.mbxCh ch with accepted := true } ∧ (c.mbxAdmit ch).on (F.HOST.MBX_STATUS.BUSY ch) = true ∧
      (c.mbxAdmit ch).st = c.st ∧ (c.mbxAdmit ch).rd (R.HOST.MBX_BOUND ch) = wd ((2 * c.elBound pr + 9) / 10 + 1000) := by
  obtain ⟨mbx, st, rd⟩ := (c.mbxAccepted ch pr).mgmtSend_keeps r.1 2 (c.mbxCh ch).dest (mreqBytes (c.mbxCh ch) ch)
  rw [← Chip.mbxAdmit_eq_accepted busy latched pair isOpen route up] at mbx st rd
  refine ⟨?_, ?_, st.trans (Chip.wr_st ..), ?_⟩
  · rw [Chip.mbxCh, mbx]
    exact Tab.at_set_same ..
  · have status : (c.mbxAdmit ch).rd (R.HOST.MBX_STATUS ch) = c.rd (R.HOST.MBX_STATUS ch) := by
      rw [rd _ (by simp only [R.HOST.MBX_STATUS, R.EPORT.SUSP_CNT]; omega) (by simp only [R.HOST.MBX_STATUS, R.EPORT.TX_PKTS]; omega),
        Chip.mbxAccepted, Chip.rd_wr_ne _ _ (by simp only [R.HOST.MBX_STATUS, R.HOST.MBX_BOUND]; omega)]
      rfl
    simpa only [Chip.on, Chip.get, status] using busy
  · rw [rd _ (by simp only [R.HOST.MBX_BOUND, R.EPORT.SUSP_CNT]; omega) (by simp only [R.HOST.MBX_BOUND, R.EPORT.TX_PKTS]; omega)]
    exact Chip.rd_wr_same ..
end
end

/-! ### Replies and the bound (R80) -/

section
variable {c : Chip} {ch : Fin 4} (busy : c.on (F.HOST.MBX_STATUS.BUSY ch) = true) (accepted : (c.mbxCh ch).accepted = true)
include busy accepted

theorem Chip.mbxReply_shows (data : Word) : c.Shows (c.mbxReply ch data none)
    [(hSticky R.HOST.ID (4 + ch), 1), (whole (R.HOST.MBX_STATUS ch), 2),
     (whole (R.HOST.MBX_RDATA ch), (if (c.mbxCh ch).op = 1 then data else c.rd (R.HOST.MBX_RDATA ch)).toNat)] := by
  have ended := ((Chip.Shows.of_regs (c := c) (d := { c with mbx := Tab.set c.mbx {} ch {} })).raise (a := R.HOST.ID + 0x10)
    (i := 4 + ch) (by omega) (by simp)).wr (a := R.HOST.MBX_STATUS ch) (v := 2) (by simp [Fld.Apart, R.HOST.ID, R.HOST.MBX_STATUS]; omega)
  have apart : (whole (R.HOST.MBX_RDATA ch)).ApartFrom [(hSticky R.HOST.ID (4 + ch), 1), (whole (R.HOST.MBX_STATUS ch), 2)] := by
    simp [Fld.Apart, R.HOST.ID, R.HOST.MBX_STATUS, R.HOST.MBX_RDATA]; omega
  simp only [Chip.mbxReply, Chip.mbxWaits, busy, accepted, Bool.and_self, Bool.not_true, Bool.false_eq_true, if_false]
  split
  · exact ended.wr apart
  · exact c.get_whole _ ▸ ended.hold apart

theorem Chip.mbxReply_shows_rejected (data : Word) (why : BitVec 8) : c.Shows (c.mbxReply ch data (some why.toNat))
    [(hSticky R.HOST.ID (4 + ch), 1), (whole (R.HOST.MBX_STATUS ch), 2 + 16 + why.toNat * 256), (hSticky R.HOST.ID (8 + ch), 1)] := by
  have ended := ((Chip.Shows.of_regs (c := c) (d := { c with mbx := Tab.set c.mbx {} ch {} })).raise (a := R.HOST.ID + 0x10)
    (i := 4 + ch) (by omega) (by simp)).wr_wd (a := R.HOST.MBX_STATUS ch) (x := 2 + 16 + why.toNat * 256) (by omega)
      (by simp [Fld.Apart, R.HOST.ID, R.HOST.MBX_STATUS]; omega)
  simp only [Chip.mbxReply, Chip.mbxWaits, busy, accepted, Bool.and_self, Bool.not_true, Bool.false_eq_true, if_false]
  exact ended.raise (by omega) (by simp [Fld.Apart, R.HOST.ID, R.HOST.MBX_STATUS]; omega)

theorem Chip.mbxReply_onlyRegs (data : Word) (rej : Option Nat) :
    { c with mbx := Tab.set c.mbx {} ch {} }.OnlyRegs (c.mbxReply ch data rej) := by
  simp only [Chip.mbxReply, Chip.mbxWaits, busy, accepted, Bool.and_self, Bool.not_true, Bool.false_eq_true, if_false]
  cases rej with
  | none => exact Chip.OnlyRegs.ite (Chip.OnlyRegs.wr (Chip.OnlyRegs.wr rfl _ _) _ _) (Chip.OnlyRegs.wr rfl _ _)
  | some r => exact Chip.OnlyRegs.raise (Chip.OnlyRegs.wr rfl _ _) _

theorem Chip.mbxTimeout_shows : c.Shows (c.mbxTimeout ch) ([(whole (R.HOST.MBX_STATUS ch), 4), (hSticky R.HOST.ID (8 + ch), 1),
    (hSticky R.HOST.ID 12, 1), (whole R.HOST.MBX_LATE_CNT, min ((c.rd R.HOST.MBX_LATE_CNT).toNat + 1) (2 ^ 32 - 1))] ++
    lateShown c 1 0 ch) := by
  simp only [Chip.mbxTimeout, Chip.mbxWaits, busy, accepted, Bool.and_self, Bool.not_true, Bool.false_eq_true, if_false]
  have status := (Chip.Shows.of_regs (c := c) (d := { c.goto ((c.mbxCh ch).start + Config.ns (c.rd (R.HOST.MBX_BOUND ch)).toNat) with
    mbx := Tab.set c.mbx {} ch {} })).wr (a := R.HOST.MBX_STATUS ch) (v := 4) (by simp)
  have refused := status.raise (a := R.HOST.ID + 0x10) (i := 8 + ch) (by omega) (by simp [Fld.Apart, R.HOST.ID, R.HOST.MBX_STATUS]; omega)
  have late := refused.raise (a := R.HOST.ID + 0x10) (i := 12) (by omega) (by simp [Fld.Apart, R.HOST.ID, R.HOST.MBX_STATUS]; omega)
  have counted := late.inc_whole (a := R.HOST.MBX_LATE_CNT)
    (by simp [Fld.Apart, R.HOST.ID, R.HOST.MBX_STATUS, R.HOST.MBX_LATE_CNT]; omega)
  exact counted.late (by decide) (by decide) (by omega) (by
    simp [Fld.notLate, R.HOST.ID, R.HOST.MBX_STATUS, R.HOST.MBX_LATE_CNT, R.LEASH.LATE_CNT, R.LEASH.STICKY, R.LEASH.LATE_LAST]; omega)

theorem Chip.mbxTimeout_onlyRegs : Chip.OnlyRegs { c with
    mbx := Tab.set c.mbx {} ch {}, st := max c.st ((c.mbxCh ch).start + Config.ns (c.rd (R.HOST.MBX_BOUND ch)).toNat) } (c.mbxTimeout ch) := by
  simp only [Chip.mbxTimeout, Chip.mbxWaits, busy, accepted, Bool.and_self, Bool.not_true, Bool.false_eq_true, if_false]
  rfl
end

/-! ### Expired limits (R47) -/

theorem Chip.expiry_mailbox (c : Chip) (inst : Nat) (ch : Fin 4) : c.expiry 1 inst ch = c.mbxTimeout ch := if_pos ch.isLt

/-- A class without a limit of its own counts a late arrival. -/
theorem Chip.expiry_other (c : Chip) {cls : Nat} (inst chan : Nat) (h1 : cls ≠ 0x01) (h3 : cls ≠ 0x03) (h4 : cls ≠ 0x04)
    (hB : cls ≠ 0x0B) (h15 : cls ≠ 0x15) : c.expiry cls inst chan = c.late cls inst chan := by
  unfold Chip.expiry
  split
  · exact absurd rfl h1
  · exact absurd rfl h3
  · exact absurd rfl h4
  · exact absurd rfl hB
  · exact absurd rfl h15
  · rfl

/-- A refused access shows its reason and WR_REJ on its page. -/
theorem Chip.reject_reason (c : Chip) (w : Acc) {reason : Nat} (h : reason < 256) (wr : Bool) :
    (c.reject w reason wr).get (hReason w.page) = reason ∧ (c.reject w reason wr).get (hSticky w.page 0) = 1 := by
  obtain ⟨shown, -⟩ := c.reject_shows w reason wr h
  refine ⟨?_, shown (hSticky w.page 0, 1) (by simp)⟩
  have info : ((c.reject w reason wr).rd (w.page + 0x24)).toNat = errinfo c w reason wr :=
    (Chip.get_whole _ _).symm.trans (shown (whole (w.page + 0x24), errinfo c w reason wr) (by simp))
  simp only [Chip.get, bits, info, errinfo]
  omega

theorem Chip.reject_mbx (c : Chip) (w : Acc) (reason : Nat) (wr : Bool) : (c.reject w reason wr).mbx = c.mbx :=
  (Chip.wr_mbx ..).trans (Chip.raise_mbx ..)

/-- Settles O10: a write of OP by the state of its channel, an admission by its pair, an answer and a limit by what they show. -/
theorem mailboxChannelsAskAndAnswer : Obligations.MailboxChannelsAskAndAnswer := by
  refine ⟨fun src ch s isOpen => ?writes, fun ch s busy => ⟨fun latched => ?admission, fun accepted => ?answers⟩,
    fun cls inst chan s h1 h3 h4 hB h15 => ?other⟩
  case writes =>
    intro request asks
    have next {op : Nat} {d : Chip} (h : s.chip.mbxCmd { src := src, addr := R.HOST.MBX_CMD ch, val := wd op } ch = d) :
        (.next (s.mbxWrite src ch op) : Host.Outcome State Fault Refusal) = .next { s.spent (R.HOST.MBX_CMD ch) with chip := d } := by
      rw [State.mbxWrite_eq isOpen, h]
    have asked (op : Nat) : s.chip.Shows ((asks op).wr (R.HOST.MBX_STATUS ch) 1) [(whole (R.HOST.MBX_STATUS ch), 1)] :=
      (Chip.Shows.of_regs).wr (v := 1) (by simp)
    refine ⟨fun idle pair => ⟨?_, ?_⟩, fun op idle unknown => ?_, fun op busy => ?_⟩
    · exact .of_next (next (op := 1) (Chip.mbxCmd_of_pair _ _ _ idle (by rfl) (by decide) (by decide) pair)) (asked 1)
    · exact .of_next (next (op := 2) (Chip.mbxCmd_of_pair _ _ _ idle (by rfl) (by decide) (by decide) pair)) (asked 2)
    · have noOp : bits (wd op.toNat) 0 2 = 0 ∨ bits (wd op.toNat) 0 2 = 3 := by rcases unknown with rfl | rfl <;> decide
      exact .of_next (i := .mbxInvalidOp src ch op) (next (Chip.mbxCmd_of_unknown _ _ _ idle noOp)) (s.chip.mbxRefuse_shows ch (by decide))
    · obtain ⟨-, -, -, -, -, -, -, page⟩ := mbxCmd_place ch
      obtain ⟨shown, kept⟩ := s.chip.reject_shows { src := src, addr := R.HOST.MBX_CMD ch, val := wd op.toNat } rState false (by decide)
      obtain ⟨reason, rejected⟩ := s.chip.reject_reason { src := src, addr := R.HOST.MBX_CMD ch, val := wd op.toNat }
        (reason := rState) (by decide) false
      simp only [Acc.page, page] at shown kept reason rejected
      refine ⟨_, next (Chip.mbxCmd_of_busy _ _ _ busy), Chip.reject_mbx .., ?_, reason, rejected⟩
      exact Chip.Shows.rd_apart ⟨shown, kept⟩ (by simp [R.HOST.MBX_STATUS, R.HOST.ID]; omega)
  case admission =>
    refine ⟨fun pr r pair open_ route up _ => ?_, fun none_ => ?_⟩
    · exact .of_onChip rfl rfl (Chip.mbxAdmit_of_open busy latched pair open_ route up)
    · exact Answers.of_onChip (i := .mbxAdmissionDone ch) rfl (Chip.mbxAdmit_of_unpaired busy latched none_)
        (s.chip.mbxRefuse_shows ch (by decide))
  case answers =>
    intro done
    refine ⟨fun data => ?_, fun data why => ?_, ?_⟩
    · exact Answers.of_onChip (i := .mbxReply ch data none) rfl rfl (Chip.mbxReply_shows busy accepted data) (Chip.mbxReply_onlyRegs busy accepted data none)
    · exact Answers.of_onChip (i := .mbxReply ch data (some why)) rfl rfl (Chip.mbxReply_shows_rejected busy accepted data why)
        (Chip.mbxReply_onlyRegs busy accepted data (some why.toNat))
    · intro timedOut
      have shown := Chip.mbxTimeout_shows busy accepted
      simp only [lateShown, Nat.zero_mul, Nat.add_zero, List.cons_append, List.nil_append] at shown
      refine ⟨?_, fun inst chan named => ?_⟩
      · exact Answers.of_onChip (i := .mbxTimeout ch) rfl rfl shown (Chip.mbxTimeout_onlyRegs busy accepted)
      · refine Answers.of_onChip (i := .timeoutExpiry 1#8 inst chan) rfl ?_ shown (Chip.mbxTimeout_onlyRegs busy accepted)
        rw [named]
        exact s.chip.expiry_mailbox inst.toNat ch
  case other =>
    have differs {k : BitVec 8} (h : cls ≠ k) : cls.toNat ≠ k.toNat := fun e => h (BitVec.eq_of_toNat_eq e)
    exact Answers.of_onChip (i := .timeoutExpiry cls inst chan) rfl
      (Chip.expiry_other _ _ _ (differs h1) (differs h3) (differs h4) (differs hB) (differs h15))
      ((Chip.Shows.of_regs).late cls.isLt inst.isLt chan.isLt (by simp))

end Sys2Proof.Machine
end

section
/-! Loading from a bank that was written after its authentication. -/

namespace Sys2Proof.Machine

/-- Loop 0 is admitted on pair 0 and its copy runs, from a bank whose write generation is no longer that of its seal (R477). -/
def staleCopy : State :=
  { chip := Chip.raise (Chip.raise { admitted := [0], active := some 0, sealA := some { digest := [], gen := 1 } } (fAdmitted 0))
      (F.CLE.LOAD_STATUS.BUSY 0) }

/-- The copy meets what O11 asks of it: BUSY, and loop 0 admitted there alone and not loaded. -/
theorem staleCopy_copies : staleCopy.chip.get (F.CLE.LOAD_STATUS.LOOP 0) = 0 ∧ staleCopy.chip.on (F.CLE.LOAD_STATUS.BUSY 0) = true ∧
    staleCopy.chip.on (fAdmitted 0) = true ∧ staleCopy.chip.on (fLoaded 0) = false ∧ staleCopy.chip.get (fPair 0) = 0 ∧
    staleCopy.chip.loopsOn 0 = [0] := by decide +kernel

/-- The copy ends as an error: its loop leaves and is not loaded. -/
theorem staleCopy_fails : (staleCopy.chip.loadDone 0 false).on (fLoaded 0) = false := by decide +kernel

/-- Refutes O11: a copy that no read error ends still fails, and its loop is not LOADED, when the active bank was written since its
authentication (R117, R477); the clause of LOAD_COPY_DONE asks nothing of the bank. -/
theorem not_admissionCommandsAreLatchedAndDecided : ¬Obligations.AdmissionCommandsAreLatchedAndDecided := by
  rintro ⟨-, -, copied⟩
  obtain ⟨loop, busy, admitted, fresh, pair, alone⟩ := staleCopy_copies
  have copied := copied 0 staleCopy
  simp only [Fin.val_zero, loop] at copied
  obtain ⟨t, ended, loaded, -⟩ := copied busy admitted fresh pair alone
  have next : t = staleCopy.onChip fun c => c.loadDone 0 false := by
    injection ended with ended
    exact ended.symm
  rw [next, State.onChip_chip, staleCopy_fails] at loaded
  exact Bool.false_ne_true loaded

end Sys2Proof.Machine
end

section
/-! Regions: pace, voltage and skew. -/

namespace Sys2Proof.Machine

/-- A fold of steps that each leave the value leaves it. -/
theorem foldl_of_fixed {α β : Type} {f : β → α → β} {b : β} {l : List α} (h : ∀ a ∈ l, f b a = b) : l.foldl f b = b := by
  induction l with
  | nil => rfl
  | cons a l ih =>
    rw [List.foldl_cons, h a List.mem_cons_self]
    exact ih fun x hx => h x (List.mem_cons_of_mem _ hx)

/-! ### Changes of regions -/

/-- The second device differs from the first in its regions only. -/
abbrev Chip.OnlyRegions (c d : Chip) : Prop := d = { c with regions := d.regions }

theorem Chip.OnlyRegions.updRegion {c d : Chip} (h : c.OnlyRegions d) (g : Nat) (f : RegionSt → RegionSt) :
    c.OnlyRegions (d.updRegion g f) := by
  unfold Chip.OnlyRegions at h ⊢
  generalize d.regions = r at h
  subst h
  rfl

theorem Chip.OnlyRegions.trans {c d e : Chip} (h : c.OnlyRegions d) (k : d.OnlyRegions e) : c.OnlyRegions e := by
  unfold Chip.OnlyRegions at h k ⊢
  generalize e.regions = r at k
  generalize d.regions = q at h
  subst h
  exact k

/-- Regions change, and then registers. -/
theorem Chip.OnlyRegions.thenRegs {c d e : Chip} (h : c.OnlyRegions d) (k : d.OnlyRegs e) :
    e = { c with regions := e.regions, regs := e.regs } := by
  unfold Chip.OnlyRegions at h
  unfold Chip.OnlyRegs at k
  generalize e.regs = r at k ⊢
  generalize d.regions = q at h
  subst h
  subst k
  rfl

/-- Registers change, and then regions. -/
theorem Chip.OnlyRegs.thenRegions {c d e : Chip} (h : c.OnlyRegs d) (k : d.OnlyRegions e) :
    e = { c with regions := e.regions, regs := e.regs } := by
  unfold Chip.OnlyRegions at k
  unfold Chip.OnlyRegs at h
  have same : e.regs = d.regs := by rw [k]
  generalize e.regions = r at k ⊢
  generalize e.regs = q at same ⊢
  generalize d.regs = p at h same
  subst same
  subst h
  subst k
  rfl

theorem Chip.OnlyRegions.regs {c d : Chip} (h : c.OnlyRegions d) : d.regs = c.regs := by rw [h]
theorem Chip.OnlyRegions.admitted {c d : Chip} (h : c.OnlyRegions d) : d.admitted = c.admitted := by rw [h]
theorem Chip.OnlyRegions.get {c d : Chip} (h : c.OnlyRegions d) (f : Fld) : d.get f = c.get f := by
  simp only [Chip.get, Chip.rd, h.regs]

@[simp] theorem Chip.region_updRegion_same (c : Chip) (g : Nat) (f : RegionSt → RegionSt) :
    (c.updRegion g f).region g = f (c.region g) := c.region_setRegion_same g _

theorem Chip.region_updRegion_ne (c : Chip) {g h : Nat} (f : RegionSt → RegionSt) (hg : h ≠ g) :
    (c.updRegion g f).region h = c.region h := c.region_setRegion_ne g _ (Ne.symm hg)

/-- What holds of a region's change at `g` and of every region as it was holds of every region after. -/
theorem Chip.region_updRegion (c : Chip) (g : Nat) (f : RegionSt → RegionSt) (h : Nat) :
    (c.updRegion g f).region h = if h = g then f (c.region g) else c.region h := by
  split_ifs with hg
  · rw [hg, Chip.region_updRegion_same]
  · exact c.region_updRegion_ne f hg

@[simp] theorem Chip.get_updRegion (c : Chip) (g : Nat) (f : RegionSt → RegionSt) (x : Fld) :
    (c.updRegion g f).get x = c.get x := rfl

@[simp] theorem Chip.admitted_updRegion (c : Chip) (g : Nat) (f : RegionSt → RegionSt) :
    (c.updRegion g f).admitted = c.admitted := rfl

@[simp] theorem Chip.loop_updRegion (c : Chip) (g : Nat) (f : RegionSt → RegionSt) (l : Nat) :
    (c.updRegion g f).loop l = c.loop l := rfl

@[simp] theorem Chip.loopsOn_updRegion (c : Chip) (g : Nat) (f : RegionSt → RegionSt) (p : Nat) :
    (c.updRegion g f).loopsOn p = c.loopsOn p := by simp only [Chip.loopsOn, Chip.admitted_updRegion, Chip.get_updRegion]

/-! ### The needed pace (R36, R43) -/

section
variable (c : Chip) (g : Nat) {f : RegionSt → RegionSt} (sensors : ∀ x, (f x).sensors = x.sensors) (hist : ∀ x, (f x).hist = x.hist)
include sensors

theorem Chip.pMeas_updRegion (r : Nat) : ((c.updRegion g f).region r).pMeas = (c.region r).pMeas := by
  rw [Chip.region_updRegion]
  split_ifs with hr
  · rw [hr, RegionSt.pMeas, RegionSt.pMeas, sensors]
  · rfl

include hist

theorem Chip.load_updRegion : (c.updRegion g f).load = c.load := by
  have basis : (c.updRegion g f).pBasis = c.pBasis := by
    funext r
    have same : ((c.updRegion g f).region r).hist = (c.region r).hist := by
      rw [Chip.region_updRegion]
      split_ifs with hr
      · rw [hr, hist]
      · rfl
    simp only [Chip.pBasis, c.pMeas_updRegion g sensors, same]
    rfl
  funext l
  simp only [Chip.load, Chip.pAdm, basis, Chip.loop_updRegion]
  rfl

/-- A change that keeps the readings of a region keeps how its pace compares with its need. -/
theorem Chip.paceAtLeast_updRegion (r pct : Nat) : (c.updRegion g f).paceAtLeast r pct = c.paceAtLeast r pct := by
  have need : (c.updRegion g f).pC = c.pC := by
    have loopNeed : (c.updRegion g f).loopNeed = c.loopNeed := by
      funext l
      simp only [Chip.loopNeed, Chip.loads, Chip.loopsOn_updRegion, Chip.get_updRegion, c.load_updRegion g sensors hist]
    funext k
    simp only [Chip.pC, Chip.admitted_updRegion, Chip.get_updRegion, loopNeed]
  simp only [Chip.paceAtLeast, Chip.watchNeed, Chip.measured, c.pMeas_updRegion g sensors, need, Chip.admitted_updRegion,
    Chip.loop_updRegion]
end

/-! ### The steps shown (R38) -/

/-- STATUS shows the highest step of the regions. -/
theorem Chip.showSteps_shows (c : Chip) {n g : Nat} (hn : n < 4) (hg : g < 12) (reached : (c.region g).step = n)
    (atMost : ∀ h, h < 12 → (c.region h).step ≤ n) : c.Shows c.showSteps [(F.LEASH.STATUS.STATE, n)] := by
  have highest : (((List.range regionCount).map fun h => (c.region h).step).foldl max 0) = n := by
    have top : ((List.range regionCount).map fun h => (c.region h).step).max? = some n :=
      List.max?_eq_some_iff.2 ⟨List.mem_map.2 ⟨g, List.mem_range.2 hg, reached⟩,
        List.forall_mem_map.2 fun h hh => atMost h (List.mem_range.1 hh)⟩
    rw [List.foldl_max, top]
    simp
  rw [Chip.showSteps, highest]
  exact (Chip.Shows.of_regs).set (by decide) (lt_of_lt_of_le hn (by decide)) (by simp)

theorem Chip.showSteps_keeps (c : Chip) : c.Keeps c.showSteps [F.LEASH.STATUS.STATE] :=
  (Chip.Keeps.refl c _).set _ (by simp)

theorem Chip.showSteps_onlyRegs (c : Chip) : c.OnlyRegs c.showSteps := Chip.OnlyRegs.set rfl _ _

/-! ### Targets (R15, R40, R44) -/

/-- A region's target has room for a step: it stays within VMAX, and no adjacent region has to rise first. -/
def Chip.HasRoom (c : Chip) (g : Nat) : Prop :=
  (c.region g).target + 10 ≤ c.get F.LEASH.VOLT_LIMIT.VMAX ∧
  ∀ h ∈ crossRegions g, (c.region g).target + 10 ≤ (c.region h).target + 120

/-- A region after a step of its rise. -/
def RegionSt.stepUp (x : RegionSt) (record : Bool) : RegionSt :=
  { x with target := x.target + 10, vmeas := x.target + 10, preTarget := if record then x.before else x.preTarget }

theorem Chip.raiseTarget_of_room {c : Chip} {g : Nat} (room : c.HasRoom g) (record : Bool) (fuel : Nat) :
    c.raiseTarget record (fuel + 1) g = some (c.updRegion g fun x => x.stepUp record) := by
  obtain ⟨limit, free⟩ := room
  simp only [Chip.raiseTarget, Nat.not_lt.2 limit, if_false]
  rw [foldl_of_fixed fun k hk => if_neg (Nat.not_lt.2 (free k hk))]
  rfl

theorem Chip.canRise_of_room {c : Chip} {g : Nat} (room : c.HasRoom g) : c.canRise g = true := by
  rw [Chip.canRise, Chip.raiseTarget_of_room room]
  rfl

theorem Chip.canRise_of_limit {c : Chip} {g : Nat} (h : c.get F.LEASH.VOLT_LIMIT.VMAX < (c.region g).target + 10) :
    c.canRise g = false := by
  simp only [Chip.canRise, Chip.raiseTarget, h, if_true, Option.isSome_none]

/-! ### The caps that clear (R40) -/

theorem Chip.uncap_onlyRegions (c : Chip) : c.OnlyRegions c.uncap := by
  unfold Chip.uncap
  generalize (List.range regionCount).filter _ = l
  have fold : ∀ d : Chip, c.OnlyRegions d →
      c.OnlyRegions (l.foldl (fun (x : Chip) g => x.updRegion g fun y => { y with capped := false }) d) := by
    induction l with
    | nil => exact fun _ h => h
    | cons g l ih => exact fun d h => ih _ (h.updRegion g _)
  exact fold c rfl

/-- A cap clears exactly where the target can rise again. -/
theorem Chip.region_uncap (c : Chip) (g : Nat) : c.uncap.region g =
    if g < 12 ∧ (c.region g).capped = true ∧ c.canRise g = true then { c.region g with capped := false } else c.region g := by
  have fold (l : List Nat) : ∀ d : Chip,
      (l.foldl (fun (x : Chip) k => x.updRegion k fun y => { y with capped := false }) d).region g =
        if g ∈ l then { d.region g with capped := false } else d.region g := by
    induction l with
    | nil => exact fun _ => rfl
    | cons k l ih =>
      intro d
      rw [List.foldl_cons, ih, Chip.region_updRegion]
      by_cases hk : g = k <;> simp [hk]
  rw [Chip.uncap, fold]
  simp only [List.mem_filter, List.mem_range, Bool.and_eq_true]

theorem Chip.region_uncap_but (c : Chip) (g : Nat) : c.uncap.region g = { c.region g with capped := (c.uncap.region g).capped } := by
  rw [Chip.region_uncap]
  split_ifs <;> rfl

theorem Chip.capped_uncap_of_canRise (c : Chip) {g : Nat} (hg : g < 12) (h : c.canRise g = true) :
    (c.uncap.region g).capped = false := by
  rw [Chip.region_uncap]
  split_ifs with hc
  · rfl
  · simpa [hg, h] using hc

theorem Chip.capped_uncap_of_stuck (c : Chip) {g : Nat} (h : c.canRise g = false) :
    (c.uncap.region g).capped = (c.region g).capped := by
  simp [Chip.region_uncap, h]

theorem Chip.capped_uncap_of_free (c : Chip) {g : Nat} (h : (c.region g).capped = false) : (c.uncap.region g).capped = false := by
  simp [Chip.region_uncap, h]

/-! ### Readings and checks of a region's pace (R17–R19, R38) -/

/-- A region with a new reading of a sensor (R17, R29). -/
def RegionSt.read (x : RegionSt) (now sensor pace : Nat) : RegionSt :=
  let y := { x with sensors := Tab.put x.sensors sensor pace }
  { y with hist := (y.pMeas, now) :: (x.hist.takeWhile (fun h => now < h.2 + Config.ms)
      ++ ((x.hist.dropWhile fun h => now < h.2 + Config.ms).take 1)) }

theorem Chip.paceReading_of_sensor (c : Chip) {g sensor : Nat} (pace : Nat) (h : sensor < sensorCount g) :
    c.paceReading g sensor pace = (c.updRegion g fun x => x.read c.st sensor pace).watchOk g := if_neg (Nat.not_le.2 h)

theorem Chip.watchOk_onlyRegions (c : Chip) (g : Nat) : c.OnlyRegions (c.watchOk g) := rfl

theorem Chip.watchOk_keeps (c : Chip) (g : Nat) : ((c.watchOk g).region g).sensors = (c.region g).sensors ∧
    ∀ h, h ≠ g → (c.watchOk g).region h = c.region h := by
  refine ⟨?_, fun h hg => c.region_updRegion_ne _ hg⟩
  rw [Chip.watchOk, Chip.region_updRegion_same]

/-- A region whose pace is short of 1.05 enters step 1 (R38). -/
def RegionSt.enterStep1 (x : RegionSt) : RegionSt :=
  { x with watch := true, step := max 1 x.step, rising := !x.capped, preTarget := x.before }

/-- A region whose pace is below 1.08 as a look at it keeps it. -/
def RegionSt.looked (x : RegionSt) (now : Nat) : RegionSt :=
  { x with okSince := none, voltOut := if x.voltNear then x.voltOut else some now }

theorem Chip.watchOk_of_short {c : Chip} {g : Nat} (h : c.paceAtLeast g 108 = false) :
    c.watchOk g = c.updRegion g fun x => x.looked c.st := by
  simp [Chip.watchOk, h, RegionSt.looked]

/-- A check of a pace between 1.02 and 1.05 of the need enters step 1 and nothing more. -/
theorem Chip.paceCheck_of_step1 {c : Chip} {g : Nat} (above : c.paceAtLeast g 102 = true) (short : c.paceAtLeast g 105 = false)
    (notOk : c.paceAtLeast g 108 = false) (auto : c.on F.LEASH.ADM_CFG.AUTO_VOLT = true) (still : (c.region g).migrating = false) :
    c.paceCheck g = ((c.updRegion g fun x => x.looked c.st).updRegion g RegionSt.enterStep1).showSteps := by
  have pace1 (pct : Nat) := c.paceAtLeast_updRegion g (f := fun x => x.looked c.st) (fun _ => rfl) (fun _ => rfl) g pct
  have pace2 (pct : Nat) := (c.updRegion g fun x => x.looked c.st).paceAtLeast_updRegion g (f := RegionSt.enterStep1)
    (fun _ => rfl) (fun _ => rfl) g pct
  have stays : (((c.updRegion g fun x => x.looked c.st).updRegion g RegionSt.enterStep1).region g).migrating = false := by
    rw [Chip.region_updRegion_same, Chip.region_updRegion_same]
    exact still
  have on1 : (c.updRegion g fun x => x.looked c.st).on F.LEASH.ADM_CFG.AUTO_VOLT = true := auto
  have entered : (!(c.updRegion g fun x => x.looked c.st).paceAtLeast g 105 &&
      (c.updRegion g fun x => x.looked c.st).on F.LEASH.ADM_CFG.AUTO_VOLT) = true := by rw [pace1, short, on1]; rfl
  unfold Chip.paceCheck
  rw [Chip.watchOk_of_short notOk]
  dsimp only
  rw [if_pos entered]
  generalize hd : (c.updRegion g fun x => x.looked c.st).updRegion g RegionSt.enterStep1 = d at stays pace2
  change (Chip.pressOn (if ((((c.updRegion g fun x => x.looked c.st).updRegion g RegionSt.enterStep1).region g).migrating && _) = true
    then _ else (c.updRegion g fun x => x.looked c.st).updRegion g RegionSt.enterStep1) g).showSteps = _
  simp only [hd, stays, Bool.false_and, Bool.false_eq_true, if_false]
  rw [Chip.pressOn, pace2, pace1, above, Bool.true_or, if_pos rfl]

theorem RegionSt.before_eq (x : RegionSt) : x.before = some (min (x.preTarget.getD x.target) x.target) := by
  unfold RegionSt.before
  cases x.preTarget <;> simp

theorem RegionSt.enterStep1_looked (x : RegionSt) (now : Nat) (h : x.step ≤ 1) : (x.looked now).enterStep1 =
    { x with
      watch := true, okSince := none, step := 1, rising := !x.capped, preTarget := some (min (x.preTarget.getD x.target) x.target)
      voltOut := if x.vmeas ≤ x.target + 20 ∧ x.target ≤ x.vmeas + 20 then x.voltOut else some now } := by
  have step : max 1 x.step = 1 := Nat.max_eq_left h
  have before : (x.looked now).before = some (min (x.preTarget.getD x.target) x.target) := (x.looked now).before_eq
  simp only [RegionSt.enterStep1, before]
  simp only [RegionSt.looked, step, RegionSt.voltNear, Bool.and_eq_true, decide_eq_true_eq]

/-! ### Steps of a region's voltage (R15, R38, R40, R44) -/

/-- A rise with room for this step and the next one goes on. -/
theorem Chip.voltUp_of_room {c : Chip} {g : Nat} (rising : (c.region g).rising = true) (auto : c.on F.LEASH.ADM_CFG.AUTO_VOLT = true)
    (short : c.paceAtLeast g 108 = false) (low : c.get F.LEASH.VOLT_LIMIT.VMIN ≤ (c.region g).target)
    (limit : (c.region g).target + 20 ≤ c.get F.LEASH.VOLT_LIMIT.VMAX)
    (free : ∀ h ∈ crossRegions g, (c.region g).target ≤ (c.region h).target + 100) :
    c.voltUp g = (c.updRegion g fun x => x.stepUp true).uncap ∧ (c.updRegion g fun x => x.stepUp true).canRise g = true := by
  have room : c.HasRoom g := ⟨by omega, fun h hh => by have := free h hh; omega⟩
  have target : ((c.updRegion g fun x => x.stepUp true).region g).target = (c.region g).target + 10 := by
    rw [Chip.region_updRegion_same]
    rfl
  have again : (c.updRegion g fun x => x.stepUp true).HasRoom g := by
    refine ⟨by rw [target, Chip.get_updRegion]; omega, fun h hh => ?_⟩
    by_cases hg : h = g
    · rw [hg]; omega
    · have := free h hh
      rw [target, Chip.region_updRegion_ne _ _ hg]
      omega
  have canRise := Chip.canRise_of_room again
  refine ⟨?_, canRise⟩
  have stays : (c.updRegion g fun x => x.stepUp true).uncap.HasRoom g := by
    have same (h : Nat) : ((c.updRegion g fun x => x.stepUp true).uncap.region h).target =
        ((c.updRegion g fun x => x.stepUp true).region h).target := by rw [Chip.region_uncap_but]
    obtain ⟨h1, h2⟩ := again
    refine ⟨by rw [same, (Chip.uncap_onlyRegions _).get]; exact h1, fun h hh => by rw [same, same]; exact h2 h hh⟩
  simp only [Chip.voltUp, Nat.not_lt.2 low, rising, auto, short, Chip.raiseTarget_of_room room, Chip.canRise_of_room stays,
    Bool.not_true, Bool.or_false, Bool.false_eq_true, if_false, if_true]

/-- A region after a step of its fall towards `q`. -/
def RegionSt.stepDown (x : RegionSt) (q : Option Nat) : RegionSt :=
  { x with target := x.target - 10, vmeas := x.target - 10, preTarget := q, capped := false }

/-- A region that is out of the steps at 1.08 falls towards the target it had before them. -/
theorem Chip.voltDown_of_out {c : Chip} {g q : Nat} (fits : c.voltFits g ((c.region g).target - 10) = true)
    (limit : (c.region g).target ≤ c.get F.LEASH.VOLT_LIMIT.VMAX) (before : (c.region g).preTarget = some q)
    (out : (c.region g).step = 0) (pace : c.paceAtLeast g 108 = true) (above : q ≤ (c.region g).target - 10)
    (low : c.get F.LEASH.VOLT_LIMIT.VMIN ≤ (c.region g).target - 10) :
    c.voltDown g = (c.updRegion g fun x => x.stepDown (if (c.region g).target - 10 = q then none else some q)).uncap := by
  have stays : ¬(c.region g).target - 10 < max q (c.get F.LEASH.VOLT_LIMIT.VMIN) := by omega
  simp [Chip.voltDown, fits, Nat.not_lt.2 limit, before, out, pace, stays]
  rfl

/-- What a change of a region and the caps that clear after it change. -/
theorem Chip.updRegion_uncap (c : Chip) (g : Nat) (f : RegionSt → RegionSt) :
    c.OnlyRegions (c.updRegion g f).uncap ∧
    (c.updRegion g f).uncap.region g = { f (c.region g) with capped := ((c.updRegion g f).uncap.region g).capped } ∧
    ∀ h, h ≠ g → (c.updRegion g f).uncap.region h = { c.region h with capped := ((c.updRegion g f).uncap.region h).capped } := by
  refine ⟨?_, ?_, fun h hg => ?_⟩
  · have first : c.OnlyRegions (c.updRegion g f) := rfl
    exact first.trans (c.updRegion g f).uncap_onlyRegions
  · rw [← c.region_updRegion_same g f]
    exact Chip.region_uncap_but ..
  · rw [← c.region_updRegion_ne f hg]
    exact Chip.region_uncap_but ..

/-! ### Recovery (R40) and adjacent regions (R45), where no loop stands on the regions -/

/-- A region out of every response step. -/
def RegionSt.rested (x : RegionSt) : RegionSt :=
  { x with watch := false, migrating := false, refusing := false, capped := false, rising := false, step := 0 }

theorem Chip.recover_of_empty {c : Chip} (g : Nat) (h : c.admitted = []) : c.recover g = (c.updRegion g RegionSt.rested).showSteps := by
  simp only [Chip.recover, Chip.reskew, Chip.admitted_updRegion, h, List.filter_nil, List.foldl_nil]
  rfl

/-- Both regions of a pair note the other as a neighbour with which a limit stands exceeded. -/
def Chip.noteSkew (c : Chip) (a b : Nat) : Chip :=
  (c.updRegion a fun x => { x with skew := (b :: x.skew).eraseDups }).updRegion b fun x => { x with skew := (a :: x.skew).eraseDups }

theorem Chip.skewSet_of_unspanned {c : Chip} {a b : Nat}
    (h : ∀ l ∈ c.admitted, ¬(a ∈ (c.loop l).span ∧ b ∈ (c.loop l).span)) :
    c.skewSet a b = (c.noteSkew a b).raise F.LEASH.STICKY.SKEW := by
  have unspanned : ((c.noteSkew a b).raise F.LEASH.STICKY.SKEW).admitted.filter (fun l =>
      (((c.noteSkew a b).raise F.LEASH.STICKY.SKEW).loop l).span.contains a &&
      (((c.noteSkew a b).raise F.LEASH.STICKY.SKEW).loop l).span.contains b) = [] := by
    refine List.filter_eq_nil_iff.2 fun l hl => ?_
    have same : ((c.noteSkew a b).raise F.LEASH.STICKY.SKEW).loop l = c.loop l := rfl
    rw [same]
    simpa using h l hl
  show List.foldl Chip.unskew ((c.noteSkew a b).raise F.LEASH.STICKY.SKEW) _ = _
  exact congrArg (List.foldl Chip.unskew _) unspanned

/-- Each of two regions drops the other. -/
def Chip.dropSkew (c : Chip) (a b : Nat) : Chip :=
  (c.updRegion a fun x => { x with skew := x.skew.filter fun y => y != b }).updRegion b fun x =>
    { x with skew := x.skew.filter fun y => y != a }

theorem Chip.skewReset_of_empty {c : Chip} (a b : Nat) (h : c.admitted = []) : c.skewReset a b = c.dropSkew a b := by
  simp only [Chip.skewReset, Chip.reskew, Chip.admitted_updRegion, h, List.foldl_nil]
  rfl

theorem crossRegions_irrefl (a : Fin 12) : a.val ∉ crossRegions a := by revert a; decide

/-- Two regions changed one after the other. -/
theorem Chip.region_updRegion_updRegion (c : Chip) {a b : Nat} (hab : a ≠ b) (f k : RegionSt → RegionSt) :
    ((c.updRegion a f).updRegion b k).region a = f (c.region a) ∧ ((c.updRegion a f).updRegion b k).region b = k (c.region b) ∧
    ∀ h, h ≠ a → h ≠ b → ((c.updRegion a f).updRegion b k).region h = c.region h := by
  refine ⟨?_, ?_, fun h ha hb => ?_⟩
  · rw [Chip.region_updRegion_ne _ _ hab, Chip.region_updRegion_same]
  · rw [Chip.region_updRegion_same, Chip.region_updRegion_ne _ _ (Ne.symm hab)]
  · rw [Chip.region_updRegion_ne _ _ hb, Chip.region_updRegion_ne _ _ ha]

/-! ### VOLT_LIMIT (R15) -/

theorem takesWrites_voltLimit : takesWrites R.LEASH.VOLT_LIMIT = true := by decide

/-- VOLT_LIMIT as a write of both values stores it. -/
def voltLimitWord (vmin vmax : Nat) : Nat :=
  max 720 (min 880 vmax) + min (max 720 (min 880 vmax)) (max 720 (min 880 vmin)) * 2 ^ 16

theorem voltLimitWord_lt (vmin vmax : Nat) : voltLimitWord vmin vmax < 2 ^ 32 := by unfold voltLimitWord; omega

theorem Leash.onWrite_voltLimit (src : Source) (vmin vmax : BitVec 10) (c : Chip) :
    Leash.onWrite { src := src, addr := R.LEASH.VOLT_LIMIT, val := wd (vmax.toNat + vmin.toNat * 2 ^ 16) } c =
      (c.wr R.LEASH.VOLT_LIMIT (wd (voltLimitWord vmin.toNat vmax.toNat))).uncap := by
  have hmin := vmin.isLt
  have hmax := vmax.isLt
  have low : bits (wd (vmax.toNat + vmin.toNat * 2 ^ 16)) 0 10 = vmax.toNat := by rw [bits_wd _ _ _ (by decide)]; omega
  have high : bits (wd (vmax.toNat + vmin.toNat * 2 ^ 16)) 16 10 = vmin.toNat := by rw [bits_wd _ _ _ (by decide)]; omega
  have off : aOff R.LEASH.VOLT_LIMIT = 0x6C := by decide
  simp only [Leash.onWrite, Acc.off, off, Chip.voltLimit, low, high, voltLimitWord]
  rfl

theorem Chip.vmax_voltLimit (c : Chip) (vmin vmax : Nat) :
    (c.wr R.LEASH.VOLT_LIMIT (wd (voltLimitWord vmin vmax))).get F.LEASH.VOLT_LIMIT.VMAX = max 720 (min 880 vmax) := by
  rw [Chip.get_wr, if_pos rfl, bits_wd _ _ _ (by decide)]
  simp only [voltLimitWord]
  omega

/-- Settles O12: each clause is one command where no loop stands in its way, by the law of its change of regions. -/
theorem regionsAnswerPaceVoltageAndSkew : Obligations.RegionsAnswerPaceVoltageAndSkew := by
  unfold Obligations.RegionsAnswerPaceVoltageAndSkew
  intro regionsOnly
  refine ⟨fun g sensor pace at_ s has => ?sensor, fun g s differ => ?paceFault, fun g s above short notOk auto still steps => ?step1,
    fun g s => ?up, fun g q s => ?down, fun g t0 s since pace empty => ?recover, fun a b s cross beyond unspanned => ?skew,
    fun a b s ne inside empty => ?clear, fun src vmin vmax s lets => ?limit⟩
  case sensor =>
    have first := (s.chip.goto at_).region_updRegion_same g fun x => x.read (s.chip.goto at_).st sensor pace.toNat
    obtain ⟨sensors, others⟩ := ((s.chip.goto at_).updRegion g fun x => x.read (s.chip.goto at_).st sensor pace.toNat).watchOk_keeps g
    refine .of_onChip rfl ((s.chip.goto at_).paceReading_of_sensor pace.toNat has) ⟨rfl, ?_, fun h hg => ?_⟩
    · exact sensors.trans (congrArg RegionSt.sensors first)
    · exact (others h hg).trans (Chip.region_updRegion_ne _ _ hg)
  case paceFault =>
    have shown : s.chip.Shows ((s.chip.raise F.LEASH.STICKY.PACE_FAULT).report 8 g) [(F.LEASH.STICKY.PACE_FAULT, 1)] :=
      ((Chip.Shows.of_regs).raise (by decide) (by simp)).congr rfl
    exact .of_onChip (d := (s.chip.raise F.LEASH.STICKY.PACE_FAULT).report 8 g) rfl (if_pos differ) shown
  case step1 =>
    have g12 : g.val < 12 := g.isLt
    have entered := (s.chip.region g).enterStep1_looked s.chip.st (steps g g12)
    have here : (((s.chip.updRegion g fun x => x.looked s.chip.st).updRegion g RegionSt.enterStep1).region g) =
        ((s.chip.region g).looked s.chip.st).enterStep1 := by rw [Chip.region_updRegion_same, Chip.region_updRegion_same]
    have others (h : Nat) (hg : h ≠ g.val) : ((s.chip.updRegion g fun x => x.looked s.chip.st).updRegion g
        RegionSt.enterStep1).region h = s.chip.region h := by rw [Chip.region_updRegion_ne _ _ hg, Chip.region_updRegion_ne _ _ hg]
    have changed : s.chip.OnlyRegions ((s.chip.updRegion g fun x => x.looked s.chip.st).updRegion g RegionSt.enterStep1) :=
      Chip.OnlyRegions.updRegion rfl g _
    refine .of_onChip (f := fun c => c.paceCheck g) rfl (Chip.paceCheck_of_step1 above short notOk auto still) ?_
    refine ⟨?_, ?_, ?_, fun h hg => ?_⟩
    · exact congrArg (fun d => ({ s with chip := d } : State)) (changed.thenRegs (Chip.showSteps_onlyRegs _))
    · have shown := Chip.showSteps_shows _ (n := 1) (by decide) g12 (by rw [here, entered]) fun h hh => by
        by_cases hg : h = g.val
        · rw [hg, here, entered]
        · rw [others h hg]
          exact steps h hh
      exact shown
    · exact here.trans entered
    · exact others h hg
  case up =>
    intro x rising auto short low limit free
    obtain ⟨up, again⟩ := Chip.voltUp_of_room rising auto short low limit free
    obtain ⟨changed, here, others⟩ := s.chip.updRegion_uncap g fun x => x.stepUp true
    have open_ := Chip.capped_uncap_of_canRise _ g.isLt again
    refine .of_onChip (f := fun c => (c.voltUp g).showSteps) rfl (congrArg Chip.showSteps up) ⟨?_, ?_, ?_, others⟩
    · exact congrArg (fun d => ({ s with chip := d } : State)) (changed.thenRegs (Chip.showSteps_onlyRegs _))
    · exact fun a i h => (Chip.showSteps_keeps _ a i h).trans (by rw [Chip.rd, changed.regs]; rfl)
    · refine (here.trans ?_ : _)
      rw [open_]
      simp only [RegionSt.stepUp, RegionSt.before_eq, if_true]
      rfl
  case down =>
    intro x fits limit before out pace above low
    obtain ⟨changed, here, others⟩ := s.chip.updRegion_uncap g fun y => y.stepDown (if x.target - 10 = q then none else some q)
    refine .of_onChip (f := fun c => c.voltDown g) rfl (Chip.voltDown_of_out fits limit before out pace above low) ⟨?_, ?_, others⟩
    · exact congrArg (fun d => ({ s with chip := d } : State)) changed
    · refine here.trans ?_
      rw [Chip.capped_uncap_of_free _ (by rw [Chip.region_updRegion_same]; rfl)]
      rfl
  case recover =>
    have rested := Chip.recover_of_empty (c := s.chip.goto (t0 + 10 * Config.ms)) g empty
    refine .of_onChip rfl (Eq.trans (by simp only [since, pace, if_true]) rested) ⟨?_, ?_, ?_, fun h hg => ?_⟩
    · exact congrArg (fun d => ({ s with chip := d } : State)) (Chip.OnlyRegions.thenRegs
        (c := s.chip.goto (t0 + 10 * Config.ms)) (Chip.OnlyRegions.updRegion rfl g RegionSt.rested) (Chip.showSteps_onlyRegs _))
    · exact Chip.showSteps_keeps _
    · exact (s.chip.goto (t0 + 10 * Config.ms)).region_updRegion_same g RegionSt.rested
    · exact (s.chip.goto (t0 + 10 * Config.ms)).region_updRegion_ne RegionSt.rested hg
  case skew =>
    have ne : a.val ≠ b.val := fun e => crossRegions_irrefl a (e ▸ cross)
    obtain ⟨first, second, others⟩ := s.chip.region_updRegion_updRegion ne
      (fun x => { x with skew := (b.val :: x.skew).eraseDups }) fun x => { x with skew := (a.val :: x.skew).eraseDups }
    have noted : s.chip.OnlyRegions (s.chip.noteSkew a b) := Chip.OnlyRegions.updRegion rfl b _
    refine .of_onChip (d := (s.chip.noteSkew a b).raise F.LEASH.STICKY.SKEW) rfl ?_ ⟨?_, ?_, first, second, others⟩
    · have inWay : ((crossRegions a).contains b.val && s.chip.overLimit a b) = true := by simp [cross, beyond]
      exact (if_pos inWay).trans (Chip.skewSet_of_unspanned unspanned)
    · exact congrArg (fun d => ({ s with chip := d } : State)) (noted.thenRegs (Chip.OnlyRegs.raise rfl _))
    · exact Chip.Shows.raise (.of_regs noted.regs) (by decide) (by simp)
  case clear =>
    have neq : a.val ≠ b.val := fun e => ne (Fin.ext e)
    obtain ⟨first, second, others⟩ := s.chip.region_updRegion_updRegion neq
      (fun x => { x with skew := x.skew.filter fun y => y != b.val }) fun x => { x with skew := x.skew.filter fun y => y != a.val }
    have dropped : s.chip.OnlyRegions (s.chip.dropSkew a b) := Chip.OnlyRegions.updRegion rfl b _
    refine .of_onChip rfl ((if_pos inside).trans (Chip.skewReset_of_empty a.val b.val empty)) ⟨?_, dropped.regs, first, second, others⟩
    exact congrArg (fun d => ({ s with chip := d } : State)) (dropped.thenRegs rfl)
  case limit =>
    intro hi
    have reaches : s.Reaches { src := src, addr := R.LEASH.VOLT_LIMIT, val := wd (vmax.toNat + vmin.toNat * 2 ^ 16) } :=
      ⟨lets, takesWrites_voltLimit⟩
    let d := s.chip.wr R.LEASH.VOLT_LIMIT (wd (voltLimitWord vmin.toNat vmax.toNat))
    have vmax_ : d.get F.LEASH.VOLT_LIMIT.VMAX = hi := s.chip.vmax_voltLimit ..
    have region (h : Nat) : d.region h = s.chip.region h := rfl
    have uncapped := d.uncap_onlyRegions
    refine .of_gated rfl reaches (Leash.onWrite_voltLimit src vmin vmax s.chip) ⟨?_, ?_, fun g => ⟨?_, ?_, ?_⟩⟩
    · exact congrArg (fun e => ({ s.spent R.LEASH.VOLT_LIMIT with chip := e } : State)) ((Chip.OnlyRegs.wr rfl _ _).thenRegions uncapped)
    · exact (Chip.Shows.wr_wd .of_regs (voltLimitWord_lt ..) (by simp)).congr uncapped.regs
    · exact d.region_uncap_but g
    · rintro (free | ⟨limit, room⟩)
      · exact d.capped_uncap_of_free free
      · refine d.capped_uncap_of_canRise g.isLt (Chip.canRise_of_room ⟨by rw [vmax_]; exact limit, fun h hh => ?_⟩)
        have := room h hh
        rw [region, region]
        omega
    · intro capped limit
      exact (d.capped_uncap_of_stuck (Chip.canRise_of_limit (by rw [vmax_]; exact limit))).trans capped

end Sys2Proof.Machine
end

section
/-! A deadline miss that puts its loop into FAULT with a force list. -/

namespace Sys2Proof.Machine

/-- The iteration of loop 0 that misses its deadline. -/
def forcedRun : RunSt := { loop := 0, slot := 0, trig := 0 }

/-- Loop 0 runs alone on pair 0, in CLOSED, with MISS_MAX = 1, FAULT_MODE = 1 and a force list of one entry, for a
mailbox word that it owns. -/
def forcedLoop : State :=
  let c : Chip :=
    { admitted := [0]
      pairs := [(0, { run := some forcedRun, dmemA := [(0, 0x1000#32)], dmemB := [(0, 0x1000#32)] })]
      loops := [(0, { ports := [(0x1000, false, true)] })] }
  { chip := ((((c.raise (fAdmitted 0)).set (fState 0) lsClosed).set (lf F.LPD.LPD_OPEN.MISS_MAX 0) 1).raise
      (lf F.LPD.LPD_OPEN.FAULT_MODE 0)).set (lf F.LPD.LPD_OPEN.FORCE_N 0) 1 }

/-- The loop meets what O22 asks of one that misses its deadline, and CONSEC is to become 1. -/
theorem forcedLoop_runs : forcedLoop.chip.on (fAdmitted 0) = true ∧
    (forcedLoop.chip.pair (forcedLoop.chip.get (fPair 0))).run = some forcedRun ∧
    forcedLoop.chip.loopsOn (forcedLoop.chip.get (fPair 0)) = [0] ∧ (forcedLoop.chip.loop 0).ready = none ∧
    min (forcedLoop.chip.get (lf F.LPD.LPD_MISS_CNT.CONSEC 0) + 1) (2 ^ (lf F.LPD.LPD_MISS_CNT.CONSEC 0).len - 1) = 1 := by decide +kernel

/-- The force list is an output commit, and CONSEC is 0 after it. -/
theorem forcedLoop_commits : (forcedLoop.chip.missDeadline 0).get (lf F.LPD.LPD_MISS_CNT.CONSEC 0) = 0 := by decide +kernel

/-- The deadline of an admitted loop is missed. -/
theorem exec_loopDeadline_of_admitted (s : State) (loop : Fin 512) (admitted : s.chip.on (fAdmitted loop) = true) :
    exec (.loopDeadline loop) s = .next (s.onChip fun c => c.missDeadline loop) := by
  show execLoopDeadline loop s = _
  simp only [execLoopDeadline, State.nextChip, State.onChip, if_pos admitted]

/-- Refutes O22: the miss that puts a loop into FAULT with FAULT_MODE = 1 and a force list brings an output commit (R134), which
returns CONSEC to 0 (R127); CONSEC does not keep the count of the miss. -/
theorem not_triggersDeadlinesAndSignaturesRun : ¬Obligations.TriggersDeadlinesAndSignaturesRun := by
  intro settled
  obtain ⟨admitted, run, alone, ready, one⟩ := forcedLoop_runs
  obtain ⟨-, missed, -⟩ := settled
  obtain ⟨t, ended, -, count, -⟩ := missed 0 forcedRun forcedLoop admitted run rfl alone ready
  have ended := (exec_loopDeadline_of_admitted forcedLoop 0 admitted).symm.trans ended
  injection ended with ended
  rw [← ended, State.onChip_chip] at count
  exact Nat.zero_ne_one (forcedLoop_commits.symm.trans (count.trans one))

end Sys2Proof.Machine
end

section
/-! A run-ahead loop whose input is the angle of a turning shaft. -/

namespace Sys2Proof.Machine

/-- The iteration of loop 0 that waits for its input, predicted for the instant 1 µs later. -/
def shaftRun : RunSt := { loop := 0, slot := 0, trig := 0, phase := .inputWait, pred := [429497#32] }

/-- Loop 0 alone on pair 0 waits for its only input, the angle of PFU 0, whose shaft turns 100 times per second; the tolerance is 0. -/
def turningShaft : State :=
  let c : Chip :=
    { admitted := [0]
      pairs := [(0, { run := some shaftRun, dmemA := [(0, 0x400#32)] })]
      freshMark := [(freshKey 0 0x400 0, ())]
      pfus := [(0, { w := 100 * 2 ^ 48 })] }
  { chip := ((((c.set (F.PFU.STATUS.STATE 0) osTracking).set (F.PFU.PFCFG.PP 0) 1).set (lf F.LPD.LPD_RA.WAIT 0) 63).wr
      (lpd 0 R.LPD.LPD_DEADLINE) 10000).wr (win 0 (R.CLE.SLOT_COST 0)) 8 }

/-- The input arrives, and is checked, 1 µs after the present instant. -/
def shaftArrival : RaArrival := { at_ := 25600, checked := 25600, done := 25600, lib := .none }

/-- The iteration waits, alone, with a fresh input and room for the check. -/
theorem turningShaft_waits : (turningShaft.chip.pair 0).run = some shaftRun ∧
    turningShaft.chip.nin 0 = 1 ∧ turningShaft.chip.nout 0 = 1 ∧
    turningShaft.chip.isFresh 0 ((turningShaft.chip.raWord 0 0).toNat % 2 ^ 14) 0 = true ∧
    25600 ≤ turningShaft.chip.raLimit shaftRun ∧
    max turningShaft.chip.st 25600 ≤ turningShaft.chip.deadlineAt 0 0 ∧
    ((turningShaft.chip.pair 0).a.wu + 2 + 6 ≤ turningShaft.chip.slotCost 0 shaftRun ∧
      (turningShaft.chip.pair 0).b.wu + 2 + 6 ≤ turningShaft.chip.slotCost 0 shaftRun) ∧
    turningShaft.chip.loopsOn 0 = [0] ∧ (turningShaft.chip.loop 0).ready = none := by decide +kernel

/-- Its only input is the fresh one. -/
theorem turningShaft_arrived : ((turningShaft.chip.raPorts 0).all fun port => turningShaft.chip.isFresh 0 port 0) = true := by
  decide +kernel

/-- Before the arrival the shaft is not where it was predicted to be. -/
theorem turningShaft_off : ¬((turningShaft.chip.portVal ((turningShaft.chip.raWord 0 0).toNat % 2 ^ 14)).toInt -
      (shaftRun.pred.getD 0 0).toInt).natAbs ≤ (turningShaft.chip.raWord 0 4).toNat % 2 ^ 31 := by decide +kernel

/-- At the arrival it is: the pass commits and nothing is squashed. -/
theorem turningShaft_commits :
    ((turningShaft.chip.goto 25600).raCheck 0 shaftRun [] [] 25600 25600 .none).on (lf F.LPD.LPD_FLAGS.RA_SQUASH 0) = false := by
  decide +kernel

/-- An arrival that all inputs of the wait have made, before its limit and before the deadline, is checked. -/
theorem exec_raInputArrival_of_waits (s : State) (p : Fin 36) (r : RunSt) (x : RaArrival) (run : (s.chip.pair p).run = some r)
    (waits : r.phase = .inputWait ∧ ((s.chip.raPorts r.loop).all fun port => s.chip.isFresh r.loop port 0) ∧ x.at_ ≤ s.chip.raLimit r)
    (timely : ¬s.chip.deadlineAt r.loop r.trig < max s.chip.st x.at_) :
    exec (.raInputArrival p [] [] x) s = .next (s.onChip fun c => (c.goto x.at_).raCheck p r [] [] x.checked x.done x.lib) := by
  show execRaInputArrival p [] [] x s = _
  simp only [execRaInputArrival, State.nextChip, State.onChip, run, if_pos waits, if_neg timely]

/-- Refutes O23: an input is latched as it stands at its arrival (R139), and the angle of a turning shaft is not the one it was
before; a pass that is out of tolerance by the earlier value, but not by the one that arrives, is committed. -/
theorem not_runAheadAndMigrationAnswer : ¬Obligations.RunAheadAndMigrationAnswer := by
  intro settled
  obtain ⟨run, inputs, outputs, fresh, limit, deadline, room, alone, ready⟩ := turningShaft_waits
  obtain ⟨arrived, -, -⟩ := settled
  obtain ⟨-, squashed⟩ := arrived 0 25600 25600 25600 shaftRun turningShaft run rfl rfl (by decide) (by decide)
    inputs outputs fresh limit deadline room alone ready
  obtain ⟨t, ended, squash, -⟩ := squashed turningShaft_off .none
  have checks := exec_raInputArrival_of_waits turningShaft 0 shaftRun shaftArrival run
    ⟨rfl, turningShaft_arrived, limit⟩ deadline.not_gt
  have ended := checks.symm.trans ended
  injection ended with ended
  rw [← ended, State.onChip_chip] at squash
  exact Bool.false_ne_true (turningShaft_commits.symm.trans squash)

end Sys2Proof.Machine
end

section
/-! Entering SAFE while the oscillation detector's opening of a loop waits. -/

namespace Sys2Proof.Machine

/-- Isaenaim is in DEGRADED, by the demand of input 0. Loop 0, admitted and CLOSED with TSRC = 6, writes a port of PG 0, which belongs
to a group with SS_EN, so it is protected; its detector has asked to open it (R146). -/
def openingLoop : State :=
  let c : Chip :=
    { admitted := [0], loops := [(0, { sdOpen := true, ports := [(0x800, false, true)] })], isn := { degAt := some 0 } }
  { chip := (((((c.set (hState R.ISN.ID) isDegraded).set (F.SAFE.SIN_CFG.FUNC 0) 4).set (fState 0) lsClosed).set
      (lf F.LPD.LPD_TRIG.TSRC 0) 6).set (F.PG.PGCFG.GRP_EN 0) 1).set F.ISN.SS_CHOICE.SS_EN 1 }

/-- DEG_TMAX is due, and the loop is one that O47 puts into HOLD. -/
theorem openingLoop_protected : openingLoop.chip.isn.degAt = some 0 ∧
    (openingLoop.chip.isnState = isDegraded ∧ openingLoop.chip.degradable = true ∧ openingLoop.chip.isn.dead = false) ∧
    openingLoop.chip.isnState ≠ isSafe ∧ 0 ∈ openingLoop.chip.admitted ∧ openingLoop.chip.protectedLoop 0 = true ∧
    openingLoop.chip.get (fState 0) = lsClosed ∧ openingLoop.chip.get (lf F.LPD.LPD_TRIG.TSRC 0) = 6 := by decide +kernel

/-- The entry into SAFE opens the loop, and the transition from OPEN to HOLD is refused. -/
theorem openingLoop_opens : (openingLoop.chip.degExpire true true).get (fState 0) = lsOpen := by decide +kernel

/-- Refutes O47: a protected loop in CLOSED with TSRC = 6 whose opening by the oscillation detector waits (R146) is not in HOLD after
SAFE is entered: the opening is carried out first, and HOLD is reached from CLOSED only.
O47 speaks of every state; the detector itself opens a loop with TSRC = 6 at once and leaves no opening to wait. -/
theorem not_supervisorStatesAndFaultReactions : ¬Obligations.SupervisorStatesAndFaultReactions := by
  intro settled
  obtain ⟨timer, due, degraded, listed, guarded, closed, host⟩ := openingLoop_protected
  obtain ⟨-, -, -, -, -, -, -, expired, -⟩ := settled openingLoop
  obtain ⟨t, ended, -, safe, -⟩ := (expired true true).2 0 timer due
  obtain ⟨-, -, -, holds, -⟩ := safe.2 degraded
  have held := (holds 0 listed guarded closed).2.2 host
  have next : t = openingLoop.onChip fun c => c.degExpire true true := by
    injection ended with ended
    exact ended.symm
  rw [next, State.onChip_chip, openingLoop_opens] at held
  exact absurd held (by decide)

end Sys2Proof.Machine
end

section
/-! What a command may do to the queue and to the unlock windows, command by command, and that the windows stay sound (R65). -/

namespace Sys2Proof.Machine

/-- What brings a state to a later one: changes of the device, writes of sources, a window that closes, and a reset that locks every
page. -/
inductive State.Leads : State → State → Prop
  | onChip (s : State) (f : Chip → Chip) : s.Leads (s.onChip f)
  | gated (s : State) (w : Acc) (f : Chip → Chip) : s.Leads (s.gated w f)
  | close (s : State) (p : Nat) : s.Leads (s.setLock p {})
  | lockAll (s : State) : s.Leads { s with locks := [] }
  | trans {s t u : State} : s.Leads t → t.Leads u → s.Leads u

theorem State.Leads.refl (s : State) : s.Leads s := .onChip s id

theorem State.Leads.locksOk {s t : State} (h : s.Leads t) (ok : s.locksOk = true) : t.locksOk = true := by
  induction h with
  | onChip s f => exact s.locksOk_onChip f ok
  | gated s w f => exact s.locksOk_gated w f ok
  | close s p => exact s.locksOk_setLock p {} ok rfl
  | lockAll s => rfl
  | trans _ _ first second => exact second (first ok)

/-! ### Accesses made of several parts -/

theorem State.leads_readAt (s : State) (reader a : Nat) : s.Leads (s.readAt reader a).2 := by
  unfold State.readAt
  split
  · exact .onChip s Chip.unmapped
  · dsimp only
    split_ifs
    · exact .refl s
    · exact .onChip s fun _ => _
    · exact .onChip s fun _ => _

theorem State.leads_sample (l : List Nat) : ∀ s : State, s.Leads (s.sample l).2 := by
  induction l with
  | nil => exact .refl
  | cons a l ih => exact fun s => (s.leads_readAt _ a).trans (ih _)

theorem State.leads_readBy (s : State) (r : Reader) (a : Nat) : s.Leads (s.readBy r a) := by
  unfold State.readBy
  dsimp only
  split_ifs
  · exact (s.leads_readAt _ a).trans (.onChip _ _)
  · exact .refl s

theorem State.leads_shpRead (s : State) (a len : Nat) (cut : Option Nat) : s.Leads (s.shpRead a len cut) := by
  unfold State.shpRead
  split_ifs
  · exact .refl s
  · exact .onChip s _
  · exact (State.leads_sample _ s).trans (.onChip _ _)

/-- Writes of words one after another. -/
theorem State.leads_busWrites (src : Source) (addr : Nat → Nat) (v : Nat → Word) (l : List Nat) :
    ∀ s : State, s.Leads (l.foldl (fun (t : State) (i : Nat) => t.busWrite src (addr i) (v i)) s) := by
  induction l with
  | nil => exact .refl
  | cons i l ih => exact fun s => (State.Leads.gated s _ _).trans (ih _)

theorem State.leads_shpWrite (s : State) (a : Nat) (ws : List Word) (crc : Nat) (cut : Bool) : s.Leads (s.shpWrite a ws crc cut) := by
  unfold State.shpWrite
  dsimp only
  split_ifs
  · exact .refl s
  · exact .onChip s _
  · exact .onChip s _
  · exact (State.leads_busWrites _ _ _ _ s).trans (.onChip _ _)

theorem State.leads_shpStatus (s : State) (a len : Nat) (cut : Bool) : s.Leads (s.shpStatus a len cut) := by
  unfold State.shpStatus
  split
  · exact .refl s
  · exact .onChip s _

theorem State.leads_rxMreq (s : State) (p : Nat) (pk : Pkt) : s.Leads (s.rxMreq p pk) := by
  have arrives : s.Leads { s with chip := (s.chip.mgmtArrives p 2 pk).2 } := .onChip s fun c => (c.mgmtArrives p 2 pk).2
  unfold State.rxMreq
  dsimp only
  split_ifs
  · exact arrives
  · exact (arrives.trans (State.leads_readAt _ _ _)).trans (.onChip _ _)
  · exact (arrives.trans (.gated _ _ _)).trans (.onChip _ _)
  · exact arrives.trans (.onChip _ _)

/-! ### Every command -/

/-- A command answers a next state, to which the state leads. -/
def State.GoesOn (s : State) (o : Host.Outcome State Fault Refusal) : Prop := ∃ t, o = .next t ∧ s.Leads t

section
variable {s : State}

theorem State.GoesOn.next {t : State} (h : s.Leads t) : s.GoesOn (.next t) := ⟨t, rfl, h⟩

theorem State.GoesOn.onChip {f : Chip → Chip} : s.GoesOn (s.nextChip f) := .next (.onChip s f)

theorem State.GoesOn.gated {w : Acc} {f : Chip → Chip} : s.GoesOn (.next (s.gated w f)) := .next (.gated s w f)

theorem State.GoesOn.read {src : Source} {f : Chip → Chip} : s.GoesOn (s.nextRead src f) := by
  rcases s.nextRead_cases src f with ⟨-, h⟩ | ⟨-, h⟩
  · exact h ▸ .next (.onChip s f)
  · exact h ▸ .next (.refl s)

theorem State.GoesOn.reset {f : Chip → Chip} : s.GoesOn (s.resetBy f) := by
  rw [State.resetBy_eq]
  split_ifs
  · exact .next (.onChip s f)
  · exact .next ((State.Leads.onChip s f).trans (.lockAll _))
end

/-- What each command may do: a write of a source, a read, a frame, a packet, the end of a window, a reset; every other one changes
the device alone. -/
theorem exec_goesOn (i : Instr) (s : State) : s.GoesOn (exec i s) := by
  cases i with
  | registerWrite | stickyClear | counterClear | lockArm | lockOpen | lockClose | shadowWrite | commitRequest | freezeRelease
  | softReset | groupFire | mbxRead | mbxWrite | mbxInvalidOp | admAdmit | admWithdraw | admTestOnly | admReevaluate
  | admInvalidOp | voltLimitWrite | lpdOpenCmd | lpdClosedCmd | lpdHoldCmd | lpdTriggerCmd | lpdInvalidCmd | setptWrite
  | testRequest | cmpCfgWrite | retireClear | adcAdmit | adcWithdraw | adcTestOnly | adcInvalidOp | adcHostTrigger
  | comparatorEnable | latchClear | ccfgWrite | dacCodeWrite | pfuEnable | pfuDisable | pfuZero | pfuCaptureCmd | cmplCfgWrite
  | pgEnable | pgDisable | tripClr | hforceWrite | swForceWrite | scpWrite | glLinkEnable | glLinkDisable | glCmdWrite
  | glCmdRead | glCmdClearFault | glCmdPoll | glCmdLoop | convEnable | convRunRequest | sqStart | sqStop | sqInvalidOp
  | cellAssign | domainEnable | calSecWrite | shipArm | shipDisarm | powerOff | tokenClear | runReq | resume | safeReq
  | stoRequest | stoRel | ss1Req | sbcRel | holdStart | plCmd | elPortEnable | discCmd | flowOpen | flowClose | flowTestOnly
  | msgSend | timeOffsetWrite | attCmd | keyDataWrite | keyLoad | keyLock | provClose | canTxRequest | mdioCmd | hrecCmd
  | recSelWrite | clearNonce | clearGo | flushCmd | modReset | progDataWrite | authCmd | commitVersion | dmemWrite | shmWrite
  | slotClear | portCfgWrite =>
    exact .gated
  | unmappedAccess | calSubRead | rngRead | dmemRead | pmemRead | shmRead => exact .read
  | porstAssert long torn => exact .reset (f := fun c => c.porst long torn)
  | brownOut long torn => exact .reset (f := fun c => c.brownOut long torn)
  | coldStart run => exact .reset (f := fun c => c.coldStart run)
  | warmStart run => exact .reset (f := fun c => c.warmStart run)
  | wrstRelease | startRetry => exact .reset
  | stLoRead | latchedLoRead => exact .next (s.leads_readBy _ _)
  | shpReadFrame => exact .next (s.leads_shpRead _ _ _)
  | shpWriteFrame => exact .next (s.leads_shpWrite _ _ _ _)
  | shpStatusFrame => exact .next (s.leads_shpStatus _ _ _)
  | elRxMreq => exact .next (s.leads_rxMreq _ _)
  | unlockWindowExpire p =>
    show s.GoesOn (execUnlockWindowExpire p s)
    unfold execUnlockWindowExpire
    dsimp only
    split_ifs
    · exact .next (.refl s)
    · exact .next ((State.Leads.onChip s _).trans (.close _ _))
  | retDataAccess src write bad =>
    cases write with
    | none => exact .read
    | some v => exact .gated
  | canMsgAccess src n write =>
    cases write with
    | none => exact .read
    | some v => exact .gated
  | _ => exact .onChip

/-- Settles O3: on an empty queue the device alone changes, and every command leads to its next state through changes that keep the
windows sound. -/
theorem unlockWindowsStaySound : Obligations.UnlockWindowsStaySound := by
  intro s t ok ran
  unfold step at ran
  split at ran
  next =>
    cases ran
    exact s.locksOk_onChip _ ok
  next i rest _ =>
    obtain ⟨u, answer, leads⟩ := exec_goesOn i (s.withPending rest)
    have same : u = t := by rw [answer] at ran; injection ran
    exact same ▸ leads.locksOk ok

end Sys2Proof.Machine
end

section
/-! The state after reset. -/

namespace Sys2Proof.Machine

/-- Before any write a register reads as its map says. -/
theorem State.reset_rd (a : Nat) : State.reset.chip.rd a = resetWord a := rfl

/-- Settles O4: reset leaves every table empty, so each register reads its map's reset value; those named are read off the maps. -/
theorem resetIsSound : Obligations.ResetIsSound := by
  refine ⟨rfl, rfl, rfl, fun _ => rfl, State.reset_rd, ?sto, ?legs, ?comparators, rfl⟩
  case sto => decide +kernel
  case legs => decide +kernel
  case comparators => decide +kernel

end Sys2Proof.Machine
end

section
/-! SUPPORT. Writes to LOCK, to the header of a page and to counters. -/

namespace Sys2Proof.Machine

/-! ### LOCK (R65) -/

/-- A key that is written to LOCK takes effect on its page's window alone. -/
theorem State.gated_of_lock (s : State) (w : Acc) (f : Chip → Chip) (isOpen : s.chip.portOpen w.src = true)
    (implemented : pageImplemented w.addr = true) (isLock : w.off = 0x1C)
    (held : s.chip.phase ≠ .safeHold ∨ holdWritable w.cls = true) :
    s.gated w f = s.setLock (pageNo w.addr) ((s.lock (pageNo w.addr)).key s.chip.st (w.val.toNat % 2 ^ 16)) := by
  have notHeld : ¬(s.chip.phase = .safeHold ∧ (!holdWritable w.cls) = true) := by
    rintro ⟨hold, closed⟩
    rcases held with h | h
    · exact h hold
    · simp [h] at closed
  simp only [State.gated, isOpen, implemented, isLock, notHeld, Bool.not_true, Bool.false_eq_true, if_false, if_true]

/-- A key to LOCK of the page that an operand names. -/
theorem State.busWrite_lock {s : State} {src : Source} {p : Page} (isOpen : s.chip.portOpen src = true)
    (implemented : pageImplemented (firstOf p) = true) (held : s.chip.phase ≠ .safeHold ∨ holdWritable (aCls (firstOf p)) = true)
    (v : Word) : s.busWrite src (firstOf p + 0x1C) v = s.setLock p.toNat ((s.lock p.toNat).key s.chip.st (v.toNat % 2 ^ 16)) := by
  have small : 0x1C < 0x1000 := by decide
  have key := s.gated_of_lock { src := src, addr := firstOf p + 0x1C, val := v }
    (Chip.pageWrite { src := src, addr := firstOf p + 0x1C, val := v }) isOpen
    ((pageImplemented_firstOf p _ small).trans implemented) (aOff_firstOf p _ small) (by rwa [Acc.cls, aCls_firstOf p _ small])
  rwa [pageNo_firstOf p _ small] at key

theorem LockSt.key_second (l : LockSt) (st : Nat) : l.key st 0xA5A5 = if l.armed then { remain := 64, openedAt := st } else {} := by
  simp [LockSt.key]

theorem LockSt.key_other (l : LockSt) (st : Nat) {key : Nat} (first : key ≠ 0x5A5A) (second : key ≠ 0xA5A5) : l.key st key = {} := by
  simp [LockSt.key, first, second]

/-! ### The header of a page (R63, R64) -/

theorem byteOf_lt (r : RegAddr) : byteOf r < 0x1000000 := by
  have := r.isLt
  unfold byteOf
  omega

theorem aPage_add_aOff {a : Nat} (h : a < 0x1000000) : aPage a + aOff a = a := by
  unfold aPage aOff
  omega

theorem aCls_aPage (a : Nat) : aCls (aPage a) = aCls a := by
  unfold aCls aPage
  omega

/-- An implemented page follows one of the maps. -/
theorem mapClass_lt_of_implemented {a : Nat} (h : pageImplemented a = true) : mapClass (aCls a) (aInst a) < 30 := by
  have bound : aCls a < 32 := by unfold aCls; omega
  have listed : ∀ c < 32, 0 < instances c → c < 30 := by decide
  have some : aInst a < instances (aCls a) := of_decide_eq_true h
  unfold mapClass
  split_ifs
  · decide
  · exact listed _ bound (by omega)

/-- STICKY and IRQ_EN of an implemented page take writes whatever the lock. -/
theorem stickyRegs_free {a : Nat} (implemented : pageImplemented a = true) (off : aOff a = 0x10 ∨ aOff a = 0x14) :
    lockExempt a = true ∧ safeRow a = false ∧ readOnly a = false ∧ aOff a ≠ 0x1C := by
  have hm := mapClass_lt_of_implemented implemented
  have rowless : ∀ m < 30, ∀ o ∈ [0x10, 0x14], findRow (regRows m) o = none := by decide
  have flags : ∀ m < 30, (pageHdr m).sticky ≠ 0 := by decide
  have header : aOff a ∈ [0x10, 0x14] := by simpa using off
  refine ⟨?_, ?_, ?_, ?_⟩
  · simp only [lockExempt]
    rcases off with h | h <;> simp [h]
  · simp only [safeRow, rowless _ hm _ header]
  · have notCtrl : aOff a ≠ 0x08 := by omega
    simp [readOnly, writeMasks, notCtrl, off, flags _ hm]
  · omega

/-- A write to STICKY or IRQ_EN of an implemented page reaches the page. -/
theorem State.busWrite_header {s : State} {src : Source} {a : Nat} (isOpen : s.chip.portOpen src = true)
    (implemented : pageImplemented a = true) (notHeld : s.chip.phase ≠ .safeHold) (off : aOff a = 0x10 ∨ aOff a = 0x14) (v : Word) :
    s.busWrite src a v = { s.spent a with chip := s.chip.pageWrite { src := src, addr := a, val := v } } := by
  obtain ⟨exempt, notSafety, takes, notLock⟩ := stickyRegs_free implemented off
  exact s.gated_of_exempt _ _ isOpen implemented exempt notHeld notSafety notLock takes

/-- The flags of the STICKY layout of an address's page (R63). -/
def stickyMask (a : Nat) : Word := wd (pageHdr (mapClass (aCls a) (aInst a))).sticky

theorem Chip.pageWrite_irqEn (c : Chip) (src : Source) {a : Nat} (v : Word) (small : a < 0x1000000) (off : aOff a = 0x14) :
    c.pageWrite { src := src, addr := a, val := v } = c.wr a (v &&& stickyMask a) := by
  have place := aPage_add_aOff small
  rw [off] at place
  simp [Chip.pageWrite, Acc.off, Acc.page, Acc.cls, Acc.inst, off, place, stickyMask]

/-- STICKY of a page to which no further counts are tied. -/
theorem Chip.pageWrite_sticky (c : Chip) (src : Source) {a : Nat} (v : Word) (small : a < 0x1000000) (off : aOff a = 0x10)
    (notHost : aCls a ≠ 1) (notKennel : aCls a ≠ 18) : c.pageWrite { src := src, addr := a, val := v } =
      let cleared := c.wr a (c.rd a &&& ~~~(v &&& stickyMask a))
      if v.getLsbD 0 then cleared.clr (hRejCnt (aPage a)) else cleared := by
  have place := aPage_add_aOff small
  rw [off] at place
  have host : aPage a ≠ R.HOST.ID := fun e => notHost (by rw [← aCls_aPage, e]; rfl)
  have kennel : aPage a ≠ R.KENNEL.ID := fun e => notKennel (by rw [← aCls_aPage, e]; rfl)
  simp [Chip.pageWrite, Chip.stickyWrite, Acc.off, Acc.page, Acc.cls, Acc.inst, off, host, kennel, place, stickyMask]

/-! ### Fields that are cleared on a condition -/

/-- A field apart from those shown that is cleared on a condition is shown beside them. -/
theorem Chip.Shows.clrIf {c d : Chip} {l : List (Fld × Nat)} (h : c.Shows d l) {f : Fld} (b : Bool) (fits : f.lo + f.len ≤ 32)
    (ha : f.ApartFrom l) : c.Shows (if b then d.clr f else d) (l ++ [(f, if b then 0 else c.get f)]) := by
  cases b with
  | false => exact h.hold ha
  | true => exact h.set fits (Nat.two_pow_pos _) ha

theorem bits_eq_one_iff (v : Word) (i : Nat) : bits v i 1 = 1 ↔ v.getLsbD i = true := by
  have bit := testBit_bits v i 1 0
  have bound := bits_lt v i 1
  rw [show v.getLsbD i = (bits v i 1).testBit 0 by simp [bit]]
  interval_cases bits v i 1 <;> decide

/-! ### PORT_CFG and CNT_CLR (R52, R84) -/

theorem getLsbD_merge (old new : Word) (mask i : Nat) :
    (merge old new mask).getLsbD i = if mask.testBit i then new.getLsbD i else old.getLsbD i := by
  by_cases hi : i < 32
  · simp only [merge, BitVec.getLsbD_or, BitVec.getLsbD_and, BitVec.getLsbD_not, BitVec.getLsbD_ofNat, hi, decide_true, Bool.true_and]
    cases mask.testBit i <;> simp
  · simp [BitVec.getLsbD_of_ge _ _ (Nat.le_of_not_lt hi)]

/-- A word that takes its two low bits from a pair of flags has them set as two fields. -/
theorem merge_flags (old : Word) (a b : Bool) :
    merge old (wd (a.toNat + 2 * b.toNat)) 3 = putBits (putBits old 0 1 a.toNat) 1 1 b.toNat := by
  refine BitVec.eq_of_getLsbD_eq fun i _ => ?_
  rw [getLsbD_merge, getLsbD_putBits, getLsbD_putBits, BitVec.getLsbD_ofNat]
  match i with
  | 0 => cases a <;> cases b <;> rfl
  | 1 => cases a <;> cases b <;> rfl
  | i + 2 =>
    have high : (3 : Nat).testBit (i + 2) = false := Nat.testBit_lt_two_pow (by rw [pow_add]; have := Nat.two_pow_pos i; omega)
    have h0 : ¬(0 ≤ i + 2 ∧ i + 2 < 0 + 1 ∧ i + 2 < 32) := by omega
    have h1 : ¬(1 ≤ i + 2 ∧ i + 2 < 1 + 1 ∧ i + 2 < 32) := by omega
    simp only [high, h0, h1, Bool.false_eq_true, if_false]

/-- What is shown depends on what the registers hold alone. -/
theorem Chip.Shows.of_rd {c d e : Chip} {l : List (Fld × Nat)} (h : c.Shows d l) (he : ∀ a, e.rd a = d.rd a) : c.Shows e l := by
  simpa only [Chip.Shows, Chip.Keeps, Chip.get, he] using h

theorem Chip.pageWrite_portCfg (c : Chip) (src : Source) (v : Word) :
    c.pageWrite { src := src, addr := R.HOST.PORT_CFG, val := v } =
      c.wr R.HOST.PORT_CFG (merge (c.rd R.HOST.PORT_CFG) v 3) := by
  have row : rowOf R.HOST.PORT_CFG = some ⟨0x40, 1, 4, 3, 3, 0, 0, 0, false⟩ := by decide
  have off : aOff R.HOST.PORT_CFG = 0x40 := by decide
  have cls : mapClass (aCls R.HOST.PORT_CFG) (aInst R.HOST.PORT_CFG) = 1 := by decide
  simp [Chip.pageWrite, HostPage.onWrite, Acc.off, Acc.cls, Acc.inst, off, cls, Chip.store, Chip.storeAt, row]

/-- PORT_CFG takes both flags (R84). -/
theorem Chip.portCfg_shows (c : Chip) (php shp : Bool) :
    c.Shows (c.wr R.HOST.PORT_CFG (merge (c.rd R.HOST.PORT_CFG) (wd (php.toNat + 2 * shp.toNat)) 3))
      [(F.HOST.PORT_CFG.PHP_EN, php.toNat), (F.HOST.PORT_CFG.SHP_EN, shp.toNat)] := by
  have first := (Chip.Shows.of_regs (c := c)).set (f := F.HOST.PORT_CFG.PHP_EN) (by decide) (Bool.toNat_lt php) (by simp)
  have both := first.set (f := F.HOST.PORT_CFG.SHP_EN) (by decide) (Bool.toNat_lt shp) (by simp [Fld.Apart])
  refine both.of_rd fun a => ?_
  simp only [Chip.rd_wr, Chip.rd_set, merge_flags, if_true]
  split_ifs <;> rfl

theorem Chip.pageWrite_cntClr (c : Chip) (src : Source) (v : Word) :
    c.pageWrite { src := src, addr := R.LEASH.CNT_CLR, val := v } = c.clearFields v
      [whole R.LEASH.REFUSE_CNT, whole R.LEASH.LATE_CNT, whole R.LEASH.ATRISK_CNT, whole R.LEASH.MIGR_CNT, whole R.LEASH.DLMISS_CNT] := by
  have off : aOff R.LEASH.CNT_CLR = 0x8C := by decide
  have cls : mapClass (aCls R.LEASH.CNT_CLR) (aInst R.LEASH.CNT_CLR) = 2 := by decide
  simp [Chip.pageWrite, Leash.onWrite, Acc.off, Acc.cls, Acc.inst, off, cls]

theorem Chip.clearFields_onlyRegs (c : Chip) (v : Word) (l : List Fld) : c.OnlyRegs (c.clearFields v l) := by
  have each : ∀ (is : List Nat) (d : Chip), c.OnlyRegs d →
      c.OnlyRegs (is.foldl (fun c i => if bits v i 1 = 1 then c.clr (l.getD i (whole 0)) else c) d) := by
    intro is
    induction is with
    | nil => exact fun _ h => h
    | cons i is ih => exact fun d h => ih _ (.ite (h.set _ _) h)
  exact each _ c rfl

/-- CNT_CLR of LEASH clears the counters whose bits are 1 and keeps the others (R52). -/
theorem Chip.cntClr_shows (c : Chip) (v : Word) :
    let after (i a : Nat) : Fld × Nat := (whole a, if v.getLsbD i then 0 else (c.rd a).toNat)
    c.Shows
      (c.clearFields v [whole R.LEASH.REFUSE_CNT, whole R.LEASH.LATE_CNT, whole R.LEASH.ATRISK_CNT, whole R.LEASH.MIGR_CNT,
        whole R.LEASH.DLMISS_CNT])
      [after 0 R.LEASH.REFUSE_CNT, after 1 R.LEASH.LATE_CNT, after 2 R.LEASH.ATRISK_CNT, after 3 R.LEASH.MIGR_CNT,
        after 4 R.LEASH.DLMISS_CNT] := by
  simp only [Chip.clearFields, bits_eq_one_iff, ← Chip.get_whole]
  have refused := (Chip.Shows.of_regs (c := c)).clrIf (f := whole R.LEASH.REFUSE_CNT) (v.getLsbD 0) (by decide) (by simp)
  have late := refused.clrIf (f := whole R.LEASH.LATE_CNT) (v.getLsbD 1) (by decide) (by simp [Fld.Apart])
  have atRisk := late.clrIf (f := whole R.LEASH.ATRISK_CNT) (v.getLsbD 2) (by decide) (by simp [Fld.Apart])
  have migrated := atRisk.clrIf (f := whole R.LEASH.MIGR_CNT) (v.getLsbD 3) (by decide) (by simp [Fld.Apart])
  exact migrated.clrIf (f := whole R.LEASH.DLMISS_CNT) (v.getLsbD 4) (by decide) (by simp [Fld.Apart])

end Sys2Proof.Machine
end

section
/-! Keys, flags and counters. -/

namespace Sys2Proof.Machine

/-- Settles O6: keys act by the law of LOCK, the header's flags and the counters by the law of the register that is written. -/
theorem keysFlagsAndCountersAreWritten : Obligations.KeysFlagsAndCountersAreWritten := by
  refine ⟨fun src p s isOpen implemented held => ?keys, fun p s left => ?expire, fun src r v s isOpen implemented notHeld => ?header,
    fun src r s isOpen unmapped => ?unmapped, fun src php shp s lets => ?portCfg, fun src r v s isClr lets => ?counters⟩
  case keys =>
    have run (v : Word) := congrArg (Host.Outcome.next (φ := Fault) (ρ := Refusal)) (s.busWrite_lock isOpen implemented held v)
    refine ⟨run 0x5A5A, ?_, fun key first second => ?_⟩
    · exact (run 0xA5A5).trans (by rw [← LockSt.key_second]; rfl)
    · have fits : (key.setWidth 32).toNat % 2 ^ 16 = key.toNat := by
        rw [BitVec.toNat_setWidth, Nat.mod_mod_of_dvd _ (by decide), Nat.mod_eq_of_lt key.isLt]
      have other {k : BitVec 16} (h : key ≠ k) : key.toNat ≠ k.toNat := fun e => h (BitVec.eq_of_toNat_eq e)
      exact (run (key.setWidth 32)).trans (by rw [fits, LockSt.key_other _ _ (other first) (other second)])
  case expire =>
    show execUnlockWindowExpire p s = _
    simp only [execUnlockWindowExpire, left, if_false]
    rfl
  case header =>
    have reached (off : aOff (byteOf r) = 0x10 ∨ aOff (byteOf r) = 0x14) := s.busWrite_header (src := src) isOpen implemented notHeld off v
    refine ⟨fun off => ?irqEn, fun off notHost notKennel => ?sticky⟩
    case irqEn =>
      have run := reached (.inr off)
      rw [Chip.pageWrite_irqEn _ src v (byteOf_lt r) off] at run
      exact .of_next (congrArg Host.Outcome.next run) (Chip.Shows.wr .of_regs (by simp)) (.wr rfl _ _)
    case sticky =>
      have run := reached (.inl off)
      rw [Chip.pageWrite_sticky _ src v (byteOf_lt r) off notHost notKennel] at run
      have apart : (hRejCnt (aPage (byteOf r))).ApartFrom [(whole (byteOf r),
          (s.chip.rd (byteOf r) &&& ~~~(v &&& stickyMask (byteOf r))).toNat)] := by
        have place := aPage_add_aOff (byteOf_lt r)
        simp [Fld.Apart]
        omega
      have cleared := (Chip.Shows.wr (c := s.chip) .of_regs (by simp)).clrIf (v.getLsbD 0) (by simp) apart
      exact .of_next (congrArg Host.Outcome.next run) cleared (.ite (.set (.wr rfl _ _) _ _) (.wr rfl _ _))
  case unmapped =>
    constructor
    · exact .of_read (d := s.chip.unmapped) rfl isOpen (by simp [unmapped]) s.chip.unmapped_shows
    · exact .of_read (d := s.chip.unmapped.answer 0) rfl isOpen (by simp [unmapped]) (s.chip.unmapped_shows.congr rfl)
  case portCfg =>
    have takes : takesWrites R.HOST.PORT_CFG = true := by decide
    exact .of_gated rfl ⟨lets, takes⟩ (s.chip.pageWrite_portCfg src _) (s.chip.portCfg_shows php shp)
  case counters =>
    have takes : takesWrites R.LEASH.CNT_CLR = true := by decide
    have run : exec (.counterClear src r v) s = s.nextGated { src := src, addr := R.LEASH.CNT_CLR, val := v }
        (Chip.pageWrite { src := src, addr := R.LEASH.CNT_CLR, val := v }) := by
      rw [← isClr]; rfl
    exact .of_gated run ⟨lets, takes⟩ (s.chip.pageWrite_cntClr src v) (s.chip.cntClr_shows v) (s.chip.clearFields_onlyRegs v _)

end Sys2Proof.Machine
end

section
/-! SUPPORT. Shadows, commits and soft resets: what each does in the cases that a page distinguishes. -/

namespace Sys2Proof.Machine

/-! ### Shadow writes (R69) -/

theorem merge_all (old new : Word) : merge old new 0xFFFFFFFF = new := by
  have ones : BitVec.ofNat 32 0xFFFFFFFF = BitVec.allOnes 32 := rfl
  simp only [merge, ones, BitVec.not_allOnes, BitVec.and_zero, BitVec.zero_or, BitVec.and_allOnes]

/-- A register of 32 bits that wait for a commit: its shadow takes the value. -/
theorem Chip.storeAt_of_shadowed (c : Chip) {a : Nat} (v : Word) {first count stride reset : Nat}
    (h : rowOf a = some ⟨first, count, stride, reset, 0, 0xFFFFFFFF, 0, 0, false⟩) : c.storeAt a v = c.setShadow a v := by
  simp only [Chip.storeAt, h, Nat.succ_ne_zero, if_true, if_false, merge_all]

theorem takesWrites_pg (leg : Fin 40) : takesWrites (R.PG.DUTY leg) = true ∧ takesWrites (R.PG.CTRL leg) = true := by
  revert leg; decide

/-- DUTY of a leg that takes its duty from the register and that no converter drives. -/
theorem Chip.pageWrite_duty (c : Chip) (src : Source) (leg : Fin 40) (v : Word) (fromReg : c.on (F.PG.SRC.DSRC leg) = false)
    (free : c.convDrives leg = false) :
    c.pageWrite { src := src, addr := R.PG.DUTY leg, val := v } = c.setShadow (R.PG.DUTY leg) v := by
  have place : ∀ leg : Fin 40, aOff (R.PG.DUTY leg) = 0x48 ∧ aInst (R.PG.DUTY leg) = leg ∧ aCls (R.PG.DUTY leg) = 10 ∧
      rowOf (R.PG.DUTY leg) = some ⟨0x48, 1, 4, 0, 0, 0xFFFFFFFF, 0, 0, false⟩ := by decide
  obtain ⟨off, inst, cls, row⟩ := place leg
  have stored := c.storeAt_of_shadowed v row
  simpa [Chip.pageWrite, Pg.onWrite, Acc.off, Acc.cls, Acc.inst, off, inst, cls, mapClass, fromReg, free, Chip.store] using stored

/-! ### CTRL (R72, R73, Table 2.7) -/

/-- A change of a page that records no refusal goes on, and ERRINFO stays. -/
theorem Chip.orRefused_of_accepted {c : Chip} {w : Acc} {f g : Chip → Chip} (accepted : (f (c.wr (w.page + 0x24) 0)).rd (w.page + 0x24) = 0) :
    c.orRefused w f g = g ((f (c.wr (w.page + 0x24) 0)).wr (w.page + 0x24) (c.rd (w.page + 0x24))) := if_pos accepted

/-- A register that is set and then set back reads as before, and so does every other. -/
theorem Chip.rd_wr_back (c : Chip) (e : Nat) (v : Word) (a : Nat) : ((c.wr e v).wr e (c.rd e)).rd a = c.rd a := by
  rw [Chip.rd_wr, Chip.rd_wr]
  split_ifs with h
  · rw [h]
  · rfl

/-- The group that a page is in depends on the registers of the SYS page alone. -/
theorem Chip.inGroup_congr {c d : Chip} (h : ∀ a < 0x1000, d.rd a = c.rd a) (page : Nat) : d.inGroup page = c.inGroup page := by
  have state : d.get F.SYS.GRP_STATUS.STATE = c.get F.SYS.GRP_STATUS.STATE := by simp only [Chip.get, h 0x64 (by decide)]
  have members : ∀ k ∈ List.range 32, d.rd (R.SYS.GRP_MEMBER k) = c.rd (R.SYS.GRP_MEMBER k) := fun k hk =>
    h _ (by have := List.mem_range.1 hk; simp only [R.SYS.GRP_MEMBER]; omega)
  simp only [Chip.inGroup, state]
  congr 1
  refine Bool.eq_iff_iff.2 ?_
  simp only [List.any_eq_true]
  refine exists_congr fun k => and_congr_right fun hk => ?_
  simp only [Chip.on, Chip.get, members k hk]

/-- FREEZE of a leg after a write to CTRL that changes nothing else: ERRINFO has been emptied and set back. -/
def Chip.legFreeze (c : Chip) (leg : Nat) (freeze : Bool) : Chip :=
  ((c.wr (R.PG.ERRINFO leg) 0).wr (R.PG.ERRINFO leg) (c.rd (R.PG.ERRINFO leg))).setb (hFreeze (R.PG.ID leg)) freeze

theorem ctrl_eq_pgId (leg : Nat) : R.PG.ID leg + 8 = R.PG.CTRL leg := by
  simp only [R.PG.ID, R.PG.CTRL]
  omega

theorem Chip.rd_legFreeze (c : Chip) (leg : Nat) (freeze : Bool) (a : Nat) : (c.legFreeze leg freeze).rd a =
    if R.PG.CTRL leg = a then putBits (c.rd (R.PG.CTRL leg)) 2 1 freeze.toNat else c.rd a := by
  simp only [Chip.legFreeze, Chip.setb, Chip.rd_set, Chip.rd_wr_back, ctrl_eq_pgId]

theorem Chip.legFreeze_onlyRegs (c : Chip) (leg : Nat) (freeze : Bool) : c.OnlyRegs (c.legFreeze leg freeze) :=
  .set (.wr (.wr rfl _ _) _ _) _ _

theorem Chip.inGroup_legFreeze (c : Chip) (leg : Nat) (freeze : Bool) (page : Nat) :
    (c.legFreeze leg freeze).inGroup page = c.inGroup page := by
  refine Chip.inGroup_congr (fun a ha => ?_) page
  have elsewhere : R.PG.CTRL leg ≠ a := by simp only [R.PG.CTRL]; omega
  rw [Chip.rd_legFreeze, if_neg elsewhere]

/-- A write to CTRL of an enabled leg that leaves it enabled and gives no further command sets FREEZE and asks for a commit. -/
theorem Chip.pageWrite_ctrl_of_enabledLeg (c : Chip) (src : Source) (leg : Fin 40) (v : Word) (on : c.on (F.PG.CTRL.EN leg) = true)
    (stays : v.getLsbD 0 = true) (noReset : v.getLsbD 1 = false) (noClear : v.getLsbD 8 = false) :
    let w : Acc := { src := src, addr := R.PG.CTRL leg, val := v }
    c.pageWrite w = if v.getLsbD 3 then (c.legFreeze leg (v.getLsbD 2)).requestCommit w else c.legFreeze leg (v.getLsbD 2) := by
  intro w
  have place : ∀ leg : Fin 40, aOff (R.PG.CTRL leg) = 0x08 ∧ aInst (R.PG.CTRL leg) = leg ∧ aCls (R.PG.CTRL leg) = 10 ∧
      aPage (R.PG.CTRL leg) = R.PG.ID leg := by decide
  obtain ⟨off, inst, cls, page⟩ := place leg
  have errinfo : R.PG.ID leg + 0x24 = R.PG.ERRINFO leg := by simp only [R.PG.ID, R.PG.ERRINFO]; omega
  have apart : R.PG.ERRINFO leg ≠ R.PG.CTRL leg := by simp only [R.PG.ERRINFO, R.PG.CTRL]; omega
  have fields : Chip.ctrlFields w (c.wr (R.PG.ERRINFO leg) 0) = c.wr (R.PG.ERRINFO leg) 0 := by
    have still : (c.wr (R.PG.ERRINFO leg) 0#32).legOn leg = true := by
      simp only [Chip.legOn, Chip.on, Chip.get_wr]
      rwa [if_neg apart]
    simp [Chip.ctrlFields, w, Acc.inst, Acc.cls, inst, cls, mapClass, stays, Pg.setEn, still]
  have accepted : (Chip.ctrlFields w (c.wr (w.page + 0x24) 0)).rd (w.page + 0x24) = 0 := by
    simp only [w, Acc.page, page, errinfo, fields, Chip.rd_wr_same]
  have quiet (e : Chip) : e.ctrlCommands w = e := by
    simp [Chip.ctrlCommands, w, Acc.cls, Acc.inst, cls, mapClass, noClear, -BitVec.getLsbD_eq_getElem]
  have written : c.ctrlWrite w = c.orRefused w (Chip.ctrlFields w) fun c =>
      let c3 := (c.setb (hFreeze w.page) (v.getLsbD 2)).ctrlCommands w
      if v.getLsbD 3 then c3.requestCommit w else c3 := by
    simp [Chip.ctrlWrite, w, Acc.cls, cls, noReset, -BitVec.getLsbD_eq_getElem]
  have ctrl : c.pageWrite w = c.ctrlWrite w := if_pos off
  rw [ctrl, written, Chip.orRefused_of_accepted accepted]
  simp only [quiet, w, Acc.page, page, errinfo, fields]
  rfl

/-- A leg's CTRL is the one register that has changed. -/
theorem Chip.shows_ctrl {c d : Chip} {leg : Nat} {v : Word}
    (h : ∀ a, d.rd a = if R.PG.CTRL leg = a then v else c.rd a) : c.Shows d [(whole (R.PG.CTRL leg), v.toNat)] :=
  (Chip.Shows.wr (c := c) (v := v) .of_regs (by simp)).of_rd fun a => by rw [h, Chip.rd_wr]

/-- A request for a commit of an enabled leg that is in no fired group (R69, R76). -/
theorem Chip.commitRequest_shows (c : Chip) (src : Source) (leg : Fin 40) (ctrl : c.rd (R.PG.CTRL leg) = 1#32)
    (free : c.inGroup (R.PG.ID leg) = false) :
    let d := c.pageWrite { src := src, addr := R.PG.CTRL leg, val := 9#32 }
    c.OnlyRegs d ∧ c.Shows d [(whole (R.PG.CTRL leg), 9)] := by
  intro d
  have on : c.on (F.PG.CTRL.EN leg) = true := by simp only [Chip.on, Chip.get, ctrl]; decide
  have page : ∀ leg : Fin 40, aPage (R.PG.CTRL leg) = R.PG.ID leg := by decide
  have asked : d = (c.legFreeze leg false).raise (hCommitReq (R.PG.ID leg)) := by
    refine (c.pageWrite_ctrl_of_enabledLeg src leg 9#32 on (by decide) (by decide) (by decide)).trans ?_
    have free' := (c.inGroup_legFreeze leg false (R.PG.ID leg)).trans free
    have bits : (9#32).getLsbD 2 = false ∧ (9#32).getLsbD 3 = true := by decide
    simp only [Chip.requestCommit, Acc.page, page, bits, free', Bool.false_eq_true, if_true, if_false]
  rw [asked]
  refine ⟨(c.legFreeze_onlyRegs leg false).raise _, Chip.shows_ctrl (v := 9#32) fun a => ?_⟩
  simp only [Chip.raise, Chip.rd_set, Chip.rd_legFreeze, ctrl_eq_pgId, ctrl, if_true]
  split_ifs <;> rfl

/-- FREEZE of an enabled leg is released (R72). -/
theorem Chip.freezeRelease_shows (c : Chip) (src : Source) (leg : Fin 40) (ctrl : c.rd (R.PG.CTRL leg) = 5#32) :
    let d := c.pageWrite { src := src, addr := R.PG.CTRL leg, val := 1#32 }
    c.OnlyRegs d ∧ c.Shows d [(whole (R.PG.CTRL leg), 1)] := by
  intro d
  have on : c.on (F.PG.CTRL.EN leg) = true := by simp only [Chip.on, Chip.get, ctrl]; decide
  have released : d = c.legFreeze leg false :=
    c.pageWrite_ctrl_of_enabledLeg src leg 1#32 on (by decide) (by decide) (by decide)
  rw [released]
  refine ⟨c.legFreeze_onlyRegs leg false, Chip.shows_ctrl (v := 1#32) fun a => ?_⟩
  rw [Chip.rd_legFreeze, ctrl]
  rfl

/-! ### Commits (R70) -/

/-- A counter of a field that wraps is shown beside what is shown. -/
theorem Chip.Shows.bump {c d : Chip} {l : List (Fld × Nat)} (h : c.Shows d l) {f : Fld} (fits : f.lo + f.len ≤ 32)
    (ha : f.ApartFrom l) : c.Shows (d.bump f) (l ++ [(f, (c.get f + 1) % 2 ^ f.len)]) := by
  have cut : d.bump f = d.set f ((c.get f + 1) % 2 ^ f.len) := by
    simp only [Chip.bump, Chip.set, h.get_apart ha, putBits, Nat.mod_mod]
  exact cut ▸ h.set fits (Nat.mod_lt _ (Nat.two_pow_pos _)) ha

/-- A page without a commit point of its own commits at once. -/
theorem Chip.shadowCommit_of_disabled {c : Chip} {page : Nat} (requested : c.on (hCommitReq page) = true)
    (unfrozen : c.on (hFreeze page) = false) (free : c.inGroup page = false) (noPoint : c.ownPoint page = false)
    (pending : c.shadowsOf page ≠ []) : c.shadowCommit page = (c.commitPage page).pageCommitted page := by
  simp [Chip.shadowCommit, requested, unfrozen, free, noPoint, pending]

/-- On pages other than legs and comparators nothing else follows a commit. -/
theorem Chip.pageCommitted_of_plain (c : Chip) {page : Nat} (notLeg : aCls page ≠ 10) (notCmp : aCls page ≠ 7) :
    c.pageCommitted page = c := by
  simp [Chip.pageCommitted, notLeg, notCmp]

theorem Chip.ownPoint_of_off {c : Chip} {page : Nat} (off : c.on (hEn page) = false) : c.ownPoint page = false := by
  simp [Chip.ownPoint, off]

theorem Chip.commitPage_of_single {c : Chip} {page a : Nat} {v : Word} (pending : c.shadowsOf page = [(a, v)]) :
    c.commitPage page =
      ((Chip.wr { c with shadow := Tab.drop (fun k => aPage k == page) c.shadow } a (merge (c.rd a) v (rwsMask a))).bump
        (hCfgEpoch page)).clr (hCommitReq page) := by
  simp only [Chip.commitPage, pending]
  rfl

theorem convPage (k : Fin 8) : aCls (R.CONV.ID k) = 14 ∧ rwsMask (R.CONV.VTARGET k) = 0xFFFFFF := by
  revert k; decide

/-- VTARGET, CFG_EPOCH and COMMIT_REQ after a commit of VTARGET. -/
theorem Chip.vtargetCommit_shows {c d : Chip} (regs : d.regs = c.regs) (k : Fin 8) (v : Word) :
    c.Shows (((d.wr (R.CONV.VTARGET k) v).bump (hCfgEpoch (R.CONV.ID k))).clr (hCommitReq (R.CONV.ID k)))
      [(whole (R.CONV.VTARGET k), v.toNat), (hCfgEpoch (R.CONV.ID k), (c.get (hCfgEpoch (R.CONV.ID k)) + 1) % 2 ^ 16),
        (hCommitReq (R.CONV.ID k), 0)] := by
  have target := (Chip.Shows.of_regs regs).wr (a := R.CONV.VTARGET k) (v := v) (by simp)
  have epoch := target.bump (f := hCfgEpoch (R.CONV.ID k)) (by simp) (by simp [Fld.Apart, R.CONV.VTARGET, R.CONV.ID]; omega)
  exact epoch.set (f := hCommitReq (R.CONV.ID k)) (x := 0) (by simp) (by simp)
    (by simp [Fld.Apart, R.CONV.VTARGET, R.CONV.ID]; omega)

/-! ### Soft reset (R73) -/

theorem Tab.find_filter {α : Type} (t : Tab α) (p : Nat → Bool) (a : Nat) :
    Tab.find (t.filter fun e => p e.1) a = if p a then Tab.find t a else none := by
  induction t with
  | nil => simp
  | cons e t ih =>
    obtain ⟨k, v⟩ := e
    simp only [List.filter_cons]
    by_cases hp : p k <;> by_cases hk : k = a
    · subst hk; simp [hp, Tab.find]
    · simp [hp, hk, Tab.find, ih]
    · subst hk; simp [hp, ih]
    · simp [hp, hk, Tab.find, ih]

/-- A device whose registers on a page have been dropped where a soft reset returns them, with the page's shadows (R73, log 48). -/
def Chip.softCleared (c : Chip) (page : Nat) : Chip :=
  { c with
    regs := c.regs.filter fun e => !(aPage e.1 == page && softReg e.1 && !c.copying e.1)
    shadow := Tab.drop (fun k => aPage k == page) c.shadow
    staged := Tab.drop (fun k => aPage k == page) c.staged }

theorem Chip.rd_softCleared (c : Chip) {page : Nat} (plain : aCls page ≠ 3) (a : Nat) :
    (c.softCleared page).rd a = if aPage a = page ∧ softReg a = true then resetWord a else c.rd a := by
  have found := Tab.find_filter c.regs (fun k => !(aPage k == page && softReg k && !c.copying k)) a
  simp only [Chip.softCleared, Chip.rd, found]
  by_cases here : aPage a = page
  · have other : aCls a ≠ 3 := by rwa [← aCls_aPage, here]
    cases hs : softReg a <;> simp [Chip.copying, here, other]
  · simp [here]

/-- The registers of an ADC page: where those stand that a soft reset of it meets. -/
theorem adcPage (n : Fin 24) : aCls (R.ADC.ID n) = 6 ∧ aInst (R.ADC.ID n) = n ∧ R.ADC.ID n + 8 = R.ADC.CTRL n ∧
    R.ADC.ID n + 0x10 = R.ADC.STICKY n ∧ R.ADC.ID n + 0x24 = R.ADC.ERRINFO n ∧ resetWord (R.ADC.CTRL n) = 0#32 ∧
    resetWord (R.ADC.ADMITTED n) = 0#32 := by
  revert n; decide

/-- CTRL of an ADC, as an access meets it. -/
theorem adcCtrl (n : Fin 24) : aOff (R.ADC.CTRL n) = 0x08 ∧ aCls (R.ADC.CTRL n) = 6 ∧ aInst (R.ADC.CTRL n) = n ∧
    aPage (R.ADC.CTRL n) = R.ADC.ID n ∧ takesWrites (R.ADC.CTRL n) = true := by
  revert n; decide

theorem Chip.softReset_adc (c : Chip) (n : Fin 24) : c.softReset (R.ADC.ID n) =
    { ((c.softCleared (R.ADC.ID n)).wr (R.ADC.CTRL n) (merge 0 (c.rd (R.ADC.CTRL n)) 5)).wr (R.ADC.STICKY n)
        (c.rd (R.ADC.STICKY n) &&& 1) with adcs := Tab.del c.adcs n } := by
  obtain ⟨cls, inst, ctrl, sticky, -, reset, -⟩ := adcPage n
  simp only [Chip.softReset, cls, inst, mapClass, ctrl, sticky, reset]
  rfl

/-- What the registers hold after a soft reset of an ADC page. -/
theorem Chip.rd_softReset_adc (c : Chip) (n : Fin 24) (a : Nat) : (c.softReset (R.ADC.ID n)).rd a =
    if R.ADC.STICKY n = a then c.rd (R.ADC.STICKY n) &&& 1
    else if R.ADC.CTRL n = a then merge 0 (c.rd (R.ADC.CTRL n)) 5
    else if aPage a = R.ADC.ID n ∧ softReg a = true then resetWord a else c.rd a := by
  have plain : aCls (R.ADC.ID n) ≠ 3 := by rw [(adcPage n).1]; decide
  rw [Chip.softReset_adc, ← c.rd_softCleared plain, ← Chip.rd_wr, ← Chip.rd_wr]
  rfl

/-- After a soft reset an ADC has nothing admitted. -/
theorem Chip.admitted_softReset_adc (c : Chip) (n : Fin 24) : (c.softReset (R.ADC.ID n)).rd (R.ADC.ADMITTED n) = 0#32 := by
  obtain ⟨-, -, -, -, -, -, reset⟩ := adcPage n
  have place : ∀ n : Fin 24, R.ADC.STICKY n ≠ R.ADC.ADMITTED n ∧ R.ADC.CTRL n ≠ R.ADC.ADMITTED n ∧
      aPage (R.ADC.ADMITTED n) = R.ADC.ID n ∧ softReg (R.ADC.ADMITTED n) = true := by decide
  obtain ⟨notSticky, notCtrl, page, soft⟩ := place n
  rw [Chip.rd_softReset_adc, if_neg notSticky, if_neg notCtrl, if_pos ⟨page, soft⟩, reset]

/-- After a soft reset CTRL of a disabled ADC is 0. -/
theorem Chip.ctrl_softReset_adc (c : Chip) {n : Fin 24} (off : c.rd (R.ADC.CTRL n) = 0#32) :
    (c.softReset (R.ADC.ID n)).rd (R.ADC.CTRL n) = 0#32 := by
  have notSticky : R.ADC.STICKY n ≠ R.ADC.CTRL n := by simp only [R.ADC.STICKY, R.ADC.CTRL]; omega
  rw [Chip.rd_softReset_adc, if_neg notSticky, if_pos rfl, off]
  rfl

section
variable (src : Source) (n : Fin 24)

/-- The write to CTRL of an ADC that sets SOFT_RESET alone. -/
abbrev adcResetWrite : Acc := { src := src, addr := R.ADC.CTRL n, val := 2#32 }

theorem Chip.ctrlFields_adcReset {c : Chip} (idle : c.rd (R.ADC.ADMITTED n) = 0#32) :
    Chip.ctrlFields (adcResetWrite src n) c = c.ctrlMerge (adcResetWrite src n) 1 := by
  obtain ⟨-, cls, inst, -⟩ := adcCtrl n
  simp [Chip.ctrlFields, Acc.cls, Acc.inst, cls, inst, mapClass, Adc.ctrlRefused, idle]

theorem Chip.ctrlCommands_adcReset (c : Chip) : c.ctrlCommands (adcResetWrite src n) = c := by
  obtain ⟨-, cls, -⟩ := adcCtrl n
  simp [Chip.ctrlCommands, Acc.cls, Acc.inst, cls, mapClass]

/-- SOFT_RESET of a disabled ADC resets the page first; the block's bits of the write then stand at 0 (log 48). -/
theorem Chip.pageWrite_adcReset {c : Chip} {n : Fin 24} (off : c.rd (R.ADC.CTRL n) = 0#32) :
    c.pageWrite (adcResetWrite src n) = ((c.softReset (R.ADC.ID n)).wr (R.ADC.CTRL n) 0#32).orRefused (adcResetWrite src n)
      (Chip.ctrlFields (adcResetWrite src n)) fun d => d.setb (hFreeze (R.ADC.ID n)) false := by
  obtain ⟨-, -, ctrl, -, -, reset, -⟩ := adcPage n
  obtain ⟨atCtrl, cls, -, page, -⟩ := adcCtrl n
  have disabled : c.on (hEn (R.ADC.ID n)) = false := by simp only [Chip.on, Chip.get, ctrl, off]; rfl
  have bits : (2#32).getLsbD 1 = true ∧ (2#32).getLsbD 2 = false ∧ (2#32).getLsbD 3 = false ∧ merge 0#32 2#32 0xFF = 2#32 := by decide
  have awake : merge ((c.softReset (R.ADC.ID n)).rd (R.ADC.CTRL n)) 2#32 0x100 = 0#32 := by
    rw [c.ctrl_softReset_adc off]; decide
  refine (if_pos atCtrl).trans ?_
  simp only [Chip.ctrlWrite, Chip.ctrlMerge, Acc.cls, Acc.page, cls, page, ctrl, reset, disabled, bits, Bool.not_true, Bool.not_false,
    Bool.and_self, Bool.false_eq_true, if_true, if_false]
  rw [awake]
  simp only [Chip.ctrlCommands_adcReset]

/-- After SOFT_RESET of a disabled ADC the registers hold what the soft reset of its page leaves, with CTRL 0. -/
theorem Chip.adcReset_leaves {c : Chip} {n : Fin 24} (off : c.rd (R.ADC.CTRL n) = 0#32) :
    (∀ a, (c.pageWrite (adcResetWrite src n)).rd a = if R.ADC.CTRL n = a then 0#32 else (c.softReset (R.ADC.ID n)).rd a) ∧
    (c.pageWrite (adcResetWrite src n)).adcs = Tab.del c.adcs n := by
  obtain ⟨-, -, ctrl, -, errinfo, -⟩ := adcPage n
  obtain ⟨-, -, -, page, -⟩ := adcCtrl n
  have place : ∀ n : Fin 24, R.ADC.CTRL n ≠ R.ADC.ADMITTED n ∧ R.ADC.ERRINFO n ≠ R.ADC.ADMITTED n ∧
      R.ADC.CTRL n ≠ R.ADC.ERRINFO n := by decide
  obtain ⟨ca, ea, ce⟩ := place n
  have idle : (((c.softReset (R.ADC.ID n)).wr (R.ADC.CTRL n) 0#32).wr (R.ADC.ERRINFO n) 0).rd (R.ADC.ADMITTED n) = 0#32 := by
    rw [Chip.rd_wr_ne _ _ ea, Chip.rd_wr_ne _ _ ca, c.admitted_softReset_adc]
  have fields := Chip.ctrlFields_adcReset src n idle
  have accepted : Chip.rd (Chip.ctrlFields (adcResetWrite src n) (((c.softReset (R.ADC.ID n)).wr (R.ADC.CTRL n) 0#32).wr
      ((adcResetWrite src n).page + 0x24) 0)) ((adcResetWrite src n).page + 0x24) = 0 := by
    simp only [Acc.page, page, errinfo, fields, Chip.ctrlMerge, ctrl]
    rw [Chip.rd_wr_ne _ _ ce, Chip.rd_wr_same]
  rw [Chip.pageWrite_adcReset src off, Chip.orRefused_of_accepted accepted]
  simp only [Acc.page, page, errinfo, fields, Chip.ctrlMerge, ctrl]
  constructor
  · intro a
    have zero : putBits (merge 0#32 2#32 1) 2 1 false.toNat = 0#32 := by decide
    simp only [Chip.setb, Chip.rd_set, Chip.rd_wr, ctrl, ce, ce.symm, if_true, if_false, zero]
    split_ifs with atCtrl atErr
    · rfl
    · rw [atErr]
    · rfl
  · rw [Chip.softReset_adc]
    rfl

/-- What a soft reset of a disabled ADC returns and what it keeps (R73). -/
theorem Chip.adcReset_keeps {c : Chip} {n : Fin 24} (off : c.rd (R.ADC.CTRL n) = 0#32) :
    let d := c.pageWrite (adcResetWrite src n)
    (∀ a, aPage a = R.ADC.ID n → softReg a = true → d.rd a = resetWord a) ∧
    d.rd (R.ADC.CTRL n) = 0#32 ∧ d.rd (R.ADC.STICKY n) = c.rd (R.ADC.STICKY n) &&& 1#32 ∧ Tab.find d.adcs n = none ∧
    ∀ a, aPage a ≠ R.ADC.ID n → d.rd a = c.rd a := by
  intro d
  obtain ⟨registers, queue⟩ := Chip.adcReset_leaves src off
  have place : ∀ n : Fin 24, softReg (R.ADC.CTRL n) = false ∧ softReg (R.ADC.STICKY n) = false ∧
      aPage (R.ADC.CTRL n) = R.ADC.ID n ∧ aPage (R.ADC.STICKY n) = R.ADC.ID n ∧ R.ADC.CTRL n ≠ R.ADC.STICKY n := by decide
  obtain ⟨hardC, hardS, pageC, pageS, cs⟩ := place n
  refine ⟨fun a here soft => ?_, ?_, ?_, ?_, fun a elsewhere => ?_⟩
  · have notCtrl : R.ADC.CTRL n ≠ a := by rintro rfl; exact absurd soft (by simp [hardC])
    have notSticky : R.ADC.STICKY n ≠ a := by rintro rfl; exact absurd soft (by simp [hardS])
    rw [registers, if_neg notCtrl, Chip.rd_softReset_adc, if_neg notSticky, if_neg notCtrl, if_pos ⟨here, soft⟩]
  · rw [registers, if_pos rfl]
  · rw [registers, if_neg cs, Chip.rd_softReset_adc, if_pos rfl]
    rfl
  · rw [queue, Tab.find_del, if_pos rfl]
  · have notCtrl : R.ADC.CTRL n ≠ a := by rintro rfl; exact elsewhere pageC
    have notSticky : R.ADC.STICKY n ≠ a := by rintro rfl; exact elsewhere pageS
    rw [registers, if_neg notCtrl, Chip.rd_softReset_adc, if_neg notSticky, if_neg notCtrl, if_neg fun h => elsewhere h.1]
end

end Sys2Proof.Machine
end

section
/-! Shadows, commits and soft resets. -/

namespace Sys2Proof.Machine

/-- Settles O7: each clause is the law of its write or of its commit point. -/
theorem shadowValuesWaitForTheCommit : Obligations.ShadowValuesWaitForTheCommit := by
  refine ⟨fun src leg r v s isDuty lets fromReg free => ?shadow, fun src leg p s isLeg lets => ⟨fun ctrl free => ?request, fun ctrl => ?release⟩,
    fun k p v s isConv off requested unfrozen free pending => ?commit, fun src n p s isAdc lets off => ?reset⟩
  case shadow =>
    have run : exec (.shadowWrite src r v) s = s.nextGated { src := src, addr := R.PG.DUTY leg, val := v }
        (Chip.pageWrite { src := src, addr := R.PG.DUTY leg, val := v }) := by
      rw [← isDuty]; rfl
    rw [exec_of_gated run ⟨lets, (takesWrites_pg leg).1⟩, s.chip.pageWrite_duty src leg v fromReg free]
    rfl
  case request =>
    have run : exec (.commitRequest src p) s = s.nextGated { src := src, addr := R.PG.CTRL leg, val := 9#32 }
        (Chip.pageWrite { src := src, addr := R.PG.CTRL leg, val := 9#32 }) := by
      show Host.Outcome.next (s.busWrite src (firstOf p + 8) (s.chip.rd (firstOf p + 8) ||| wd (2 ^ 3))) = _
      rw [isLeg, ctrl_eq_pgId, ctrl]; rfl
    obtain ⟨regs, shows⟩ := s.chip.commitRequest_shows src leg ctrl free
    exact .of_gated run ⟨lets, (takesWrites_pg leg).2⟩ rfl shows regs
  case release =>
    have run : exec (.freezeRelease src p) s = s.nextGated { src := src, addr := R.PG.CTRL leg, val := 1#32 }
        (Chip.pageWrite { src := src, addr := R.PG.CTRL leg, val := 1#32 }) := by
      show Host.Outcome.next (s.busWrite src (firstOf p + 8) (s.chip.rd (firstOf p + 8) &&& ~~~0xC#32)) = _
      rw [isLeg, ctrl_eq_pgId, ctrl]; rfl
    obtain ⟨regs, shows⟩ := s.chip.freezeRelease_shows src leg ctrl
    exact .of_gated run ⟨lets, (takesWrites_pg leg).2⟩ rfl shows regs
  case commit =>
    obtain ⟨cls, mask⟩ := convPage k
    have notLeg : aCls (R.CONV.ID k) ≠ 10 := by rw [cls]; decide
    have notCmp : aCls (R.CONV.ID k) ≠ 7 := by rw [cls]; decide
    have waits : s.chip.shadowsOf (R.CONV.ID k) ≠ [] := by rw [pending]; exact List.cons_ne_nil _ _
    have does := (Chip.shadowCommit_of_disabled requested unfrozen free (Chip.ownPoint_of_off off) waits).trans
      ((Chip.pageCommitted_of_plain _ notLeg notCmp).trans (Chip.commitPage_of_single pending))
    rw [mask] at does
    have run : exec (.shadowCommit p) s = s.nextChip fun c => c.shadowCommit (R.CONV.ID k) := by rw [← isConv]; rfl
    exact .of_onChip run does (Chip.vtargetCommit_shows rfl k _) (.set (.set (.wr rfl _ _) _ _) _ _)
  case reset =>
    obtain ⟨-, -, -, -, takes⟩ := adcCtrl n
    have run : exec (.softReset src p) s = s.nextGated (adcResetWrite src n) (Chip.pageWrite (adcResetWrite src n)) := by
      show Host.Outcome.next (s.busWrite src (firstOf p + 8) (s.chip.rd (firstOf p + 8) &&& ~~~0x8#32 ||| 2#32)) = _
      rw [isAdc, (adcPage n).2.2.1, off]; rfl
    exact .of_gated run ⟨lets, takes⟩ rfl (Chip.adcReset_keeps src off)

end Sys2Proof.Machine
end

section
/-! SUPPORT. The commit group: what FIRE, the capture at T_G and the commit point of a member do. -/

namespace Sys2Proof.Machine

/-! ### FIRE (R74) -/

theorem Chip.pageWrite_grpCtrl (c : Chip) (src : Source) (imm : Bool) (idle : c.get F.SYS.GRP_STATUS.STATE = 0) :
    c.pageWrite { src := src, addr := R.SYS.GRP_CTRL, val := wd (1 + 2 * imm.toNat) } =
      (c.setb F.SYS.GRP_CTRL.IMMEDIATE imm).groupFire := by
  have off : aOff R.SYS.GRP_CTRL = 0x60 := by decide
  have cls : mapClass (aCls R.SYS.GRP_CTRL) (aInst R.SYS.GRP_CTRL) = 0 := by decide
  have bits : (wd (1 + 2 * imm.toNat)).getLsbD 0 = true ∧ (wd (1 + 2 * imm.toNat)).getLsbD 1 = imm := by cases imm <;> decide
  simp [Chip.pageWrite, Sys.onWrite, Acc.off, Acc.cls, Acc.inst, off, cls, idle, bits, -BitVec.getLsbD_eq_getElem]

theorem Chip.memberPage_congr {c d : Chip} {k : Nat} (h : d.rd (R.SYS.GRP_MEMBER k) = c.rd (R.SYS.GRP_MEMBER k)) :
    d.memberPage k = c.memberPage k := by
  simp only [Chip.memberPage, Chip.get, h]

theorem Chip.members_congr {c d : Chip} (h : ∀ k, d.rd (R.SYS.GRP_MEMBER k) = c.rd (R.SYS.GRP_MEMBER k)) : d.members = c.members := by
  simp only [Chip.members, Chip.on, Chip.get, h]

section
/-! IMMEDIATE is no part of what names the members and their time. -/
variable (c : Chip) (imm : Bool)

theorem Chip.rd_member_setImmediate (k : Nat) :
    (c.setb F.SYS.GRP_CTRL.IMMEDIATE imm).rd (R.SYS.GRP_MEMBER k) = c.rd (R.SYS.GRP_MEMBER k) := by
  rw [Chip.setb, Chip.rd_set, if_neg]
  simp only [R.SYS.GRP_MEMBER]
  omega

theorem Chip.get64_time_setImmediate : Chip.get64 (c.setb F.SYS.GRP_CTRL.IMMEDIATE imm) R.SYS.GRP_TIME_LO R.SYS.GRP_TIME_HI =
    c.get64 R.SYS.GRP_TIME_LO R.SYS.GRP_TIME_HI := by
  simp only [Chip.setb, Chip.get64, Chip.rd_set, F.SYS.GRP_CTRL.IMMEDIATE, R.SYS.GRP_TIME_LO, R.SYS.GRP_TIME_HI]
  rfl
end

/-- FIRE with no valid member. -/
theorem Chip.groupFire_of_empty {c : Chip} (empty : c.members = []) :
    c.groupFire = (c.wr R.SYS.GRP_STATUS (wd (4 + rParam * 256))).raise (hSticky R.SYS.ID 2) := by
  simp [Chip.groupFire, empty]

/-- FIRE of one member for a time that is still far enough ahead. -/
theorem Chip.groupFire_of_single {c : Chip} {k : Nat} (single : c.members = [k]) (implemented : pageImplemented (c.memberPage k) = true)
    (timed : c.on F.SYS.GRP_CTRL.IMMEDIATE = false) (ahead : c.st + Config.us ≤ c.get64 R.SYS.GRP_TIME_LO R.SYS.GRP_TIME_HI) :
    c.groupFire = Chip.wr { c with grpLeft := [k], staged := [] } R.SYS.GRP_STATUS (wd (1 + 65536)) := by
  have notLate : ¬c.get64 R.SYS.GRP_TIME_LO R.SYS.GRP_TIME_HI < c.st + Config.us := by omega
  have noRepeat : [c.memberPage k].eraseDups = [c.memberPage k] := rfl
  simp [Chip.groupFire, single, implemented, timed, notLate, noRepeat]

/-! ### T_G (R75) -/

/-- The device when a group has captured the shadows of its members' pages at an instant. -/
def Chip.captured (c : Chip) (member : Nat → Bool) (t : Nat) : Chip :=
  { c.goto t with
    staged := c.shadow.filter fun e => member e.1
    shadow := Tab.drop member c.shadow }.set F.SYS.GRP_STATUS.STATE 2

theorem Chip.rd_captured (c : Chip) (member : Nat → Bool) (t : Nat) {a : Nat} (h : a ≠ R.SYS.GRP_STATUS) :
    (c.captured member t).rd a = c.rd a := by
  rw [Chip.captured, Chip.rd_set, if_neg h.symm]
  rfl

/-- No page begins where its CTRL would be GRP_STATUS. -/
theorem Chip.memberPage_ctrl_ne {c : Chip} {k page : Nat} (names : c.memberPage k = page) : page + 8 ≠ R.SYS.GRP_STATUS := by
  have aligned : page % 0x1000 = 0 := by
    rw [← names]
    unfold Chip.memberPage pageOf
    omega
  have status : R.SYS.GRP_STATUS = 0x64 := rfl
  omega

/-- A member without a commit point of its own, and not frozen, applies its staged set at the capture. -/
def Chip.visitMember (c : Chip) (k : Nat) : Chip :=
  if c.ownPoint (c.memberPage k) || c.on (hFreeze (c.memberPage k)) then c else c.memberDone k

theorem Chip.groupCapture_eq (c : Chip) (t : Nat) : c.groupCapture t =
    c.grpLeft.foldl Chip.visitMember (c.captured (fun a => c.grpLeft.any fun k => c.memberPage k == aPage a) t) := rfl

theorem Chip.visitMember_of_frozen {c : Chip} {k : Nat} (frozen : c.on (hFreeze (c.memberPage k)) = true) : c.visitMember k = c := by
  rw [Chip.visitMember, frozen, Bool.or_true, if_pos rfl]

/-- A group whose one member is frozen captures its shadows and waits on. -/
theorem Chip.groupCapture_of_frozen {c : Chip} {k page : Nat} (t : Nat) (left : c.grpLeft = [k]) (names : c.memberPage k = page)
    (frozen : c.on (hFreeze page) = true) : c.groupCapture t = c.captured (fun a => page == aPage a) t := by
  have member : (fun a => [k].any fun k => c.memberPage k == aPage a) = fun a => page == aPage a := by
    funext a
    simp [names]
  rw [Chip.groupCapture_eq, left, member, List.foldl_cons, List.foldl_nil]
  generalize (fun a => page == aPage a) = member
  have same : (c.captured member t).memberPage k = page :=
    (Chip.memberPage_congr (c.rd_captured member t (by simp only [R.SYS.GRP_MEMBER, R.SYS.GRP_STATUS]; omega))).trans names
  refine Chip.visitMember_of_frozen ?_
  rw [same]
  simpa only [Chip.on, Chip.get, c.rd_captured member t (Chip.memberPage_ctrl_ne names)] using frozen

/-! ### The commit point of a member (R75) -/

/-- The staged values of a page. -/
def Chip.stagedOf (c : Chip) (page : Nat) : Tab Word := c.staged.filter fun e => aPage e.1 == page

/-- The device when a member's staged values are in its registers. -/
def Chip.takeStaged (c : Chip) (k page : Nat) : Chip :=
  { c with staged := Tab.drop (fun a => aPage a == page) c.staged, grpLeft := c.grpLeft.filter fun j => j != k }.applyShadows
    (c.stagedOf page)

/-- The set of a leg that holds PERIOD comes into force whole (R248); `d` is the device once it is in the leg's registers. -/
def Chip.noteWhole (c : Chip) (page : Nat) (d : Chip) : Chip :=
  if aCls page = 10 ∧ (c.stagedOf page).any (fun e => e.1 == R.PG.PERIOD (aInst page)) then
    d.updPg (aInst page) fun x => { x with whole := c.legOn (aInst page) }
  else d

/-- CFG_EPOCH counts a set that holds a value (R70). -/
def Chip.countCommit (c : Chip) (page : Nat) (vs : Tab Word) : Chip :=
  if vs.isEmpty then c else (c.bump (hCfgEpoch page)).pageCommitted page

/-- COMMIT_REQ of a page clears when no value of it waits any more (log 52). -/
def Chip.settleRequest (c : Chip) (page : Nat) : Chip := if (c.shadowsOf page).isEmpty then c.clr (hCommitReq page) else c

/-- The group is DONE at the present System Time. -/
def Chip.groupDone (c : Chip) : Chip :=
  ((c.set F.SYS.GRP_STATUS.STATE 3).set64 R.SYS.GRP_DONE_LO R.SYS.GRP_DONE_HI c.st).raise (hSticky R.SYS.ID 1)

/-- The members that are left are counted. -/
def Chip.countMembers (c : Chip) : Chip :=
  let d := c.set F.SYS.GRP_STATUS.PEND_N c.grpLeft.length
  if d.grpLeft.isEmpty then d.groupDone else d

theorem Chip.memberDone_eq (c : Chip) (k : Nat) : c.memberDone k =
    (((c.noteWhole (c.memberPage k) (c.takeStaged k (c.memberPage k))).countCommit (c.memberPage k)
      (c.stagedOf (c.memberPage k))).settleRequest (c.memberPage k)).countMembers := rfl

section
variable {c : Chip} {page : Nat}

theorem Chip.noteWhole_of_plain (notLeg : aCls page ≠ 10) (d : Chip) : c.noteWhole page d = d := if_neg fun h => notLeg h.1

theorem Chip.countCommit_of_plain {a : Nat} {v : Word} (notLeg : aCls page ≠ 10) (notCmp : aCls page ≠ 7) :
    c.countCommit page [(a, v)] = c.bump (hCfgEpoch page) :=
  (if_neg Bool.false_ne_true).trans (Chip.pageCommitted_of_plain _ notLeg notCmp)

theorem Chip.settleRequest_of_empty (empty : c.shadow = []) : c.settleRequest page = c.clr (hCommitReq page) :=
  if_pos (by rw [Chip.shadowsOf, empty]; rfl)

theorem Chip.countMembers_of_last (last : c.grpLeft = []) : c.countMembers = (c.set F.SYS.GRP_STATUS.PEND_N 0).groupDone := by
  have none : (c.set F.SYS.GRP_STATUS.PEND_N c.grpLeft.length).grpLeft.isEmpty = true := by rw [Chip.set_grpLeft, last]; rfl
  rw [Chip.countMembers, if_pos none, last]
  rfl

/-- The last member takes a staged set of one value. -/
theorem Chip.takeStaged_of_last {k a : Nat} {v : Word} (left : c.grpLeft = [k]) (set : c.staged = [(a, v)]) (here : aPage a = page) :
    c.takeStaged k page = Chip.wr { c with staged := [], grpLeft := [] } a (merge (c.rd a) v (rwsMask a)) := by
  have mine : c.stagedOf page = [(a, v)] := by simp [Chip.stagedOf, set, here]
  have rest : Tab.drop (fun a => aPage a == page) c.staged = [] := by simp [set, Tab.drop, here]
  have others : (c.grpLeft.filter fun j => j != k) = [] := by simp [left]
  rw [Chip.takeStaged, mine, rest, others]
  rfl
end

theorem Chip.goto_now (c : Chip) : c.goto c.st = c := by
  simp [Chip.goto]

/-- The device when the last member, a converter with VTARGET alone in its staged set, has applied it. -/
def Chip.vtargetApplied (c : Chip) (k : Nat) (v : Word) : Chip :=
  ((Chip.wr { c with staged := [], grpLeft := [] } (R.CONV.VTARGET k) (merge (c.rd (R.CONV.VTARGET k)) v 0xFFFFFF)).bump
    (hCfgEpoch (R.CONV.ID k))).clr (hCommitReq (R.CONV.ID k))

theorem Chip.memberDone_of_last {c : Chip} {j : Nat} {k : Fin 8} {v : Word} (left : c.grpLeft = [j])
    (names : c.memberPage j = R.CONV.ID k) (set : c.staged = [(R.CONV.VTARGET k, v)]) (none : c.shadow = []) :
    c.memberDone j = ((c.vtargetApplied k v).set F.SYS.GRP_STATUS.PEND_N 0).groupDone := by
  obtain ⟨cls, mask⟩ := convPage k
  have notLeg : aCls (R.CONV.ID k) ≠ 10 := by rw [cls]; decide
  have notCmp : aCls (R.CONV.ID k) ≠ 7 := by rw [cls]; decide
  have here : ∀ k : Fin 8, aPage (R.CONV.VTARGET k) = R.CONV.ID k := by decide
  have mine : c.stagedOf (R.CONV.ID k) = [(R.CONV.VTARGET k, v)] := by simp [Chip.stagedOf, set, here]
  have applied : ((c.takeStaged j (R.CONV.ID k)).bump (hCfgEpoch (R.CONV.ID k))).settleRequest (R.CONV.ID k) = c.vtargetApplied k v := by
    rw [Chip.takeStaged_of_last left set (here k), mask]
    exact Chip.settleRequest_of_empty none
  have last : (c.vtargetApplied k v).grpLeft = [] := rfl
  rw [Chip.memberDone_eq, names, Chip.noteWhole_of_plain notLeg, mine, Chip.countCommit_of_plain notLeg notCmp, applied,
    Chip.countMembers_of_last last]

/-- A disabled converter applies its staged set at once. -/
theorem Chip.memberApply_of_off {c : Chip} {j : Nat} {page : Nat} (staged : c.get F.SYS.GRP_STATUS.STATE = 2)
    (left : j ∈ c.grpLeft) (names : c.memberPage j = page) (unfrozen : c.on (hFreeze page) = false)
    (off : c.on (hEn page) = false) : c.memberApply j = c.memberDone j := by
  have noPoint := Chip.ownPoint_of_off off
  have ready : ¬(c.get F.SYS.GRP_STATUS.STATE ≠ 2 ∨ c.grpLeft.contains j = false ∨ c.on (hFreeze (c.memberPage j)) = true) := by
    simp [staged, left, names, unfrozen]
  have now : c.memberPoint (c.memberPage j) (c.staged.filter fun e => aPage e.1 == c.memberPage j) = some c.st := by
    rw [names, Chip.memberPoint, noPoint]
    rfl
  refine (if_neg ready).trans ?_
  rw [now]
  exact congrArg (fun d : Chip => d.memberDone j) c.goto_now

/-- A field of the SYS page is apart from VTARGET, CFG_EPOCH and COMMIT_REQ of a converter. -/
theorem Fld.apartFrom_conv {f : Fld} (sys : f.reg < 0x1000) (k x y z : Nat) :
    f.ApartFrom [(whole (R.CONV.VTARGET k), x), (hCfgEpoch (R.CONV.ID k), y), (hCommitReq (R.CONV.ID k), z)] := by
  simp only [Fld.apartFrom_cons, Fld.apartFrom_nil, Fld.Apart, R.CONV.VTARGET, R.CONV.ID, and_true]
  omega

/-- The end of a group is shown beside what its last member shows on another page (R75). -/
theorem Chip.Shows.groupDone {c d : Chip} {l : List (Fld × Nat)} (h : c.Shows d l)
    (apart : ∀ f : Fld, f.reg < 0x1000 → f.ApartFrom l) :
    c.Shows (d.set F.SYS.GRP_STATUS.PEND_N 0).groupDone
      (l ++ [(F.SYS.GRP_STATUS.STATE, 3), (F.SYS.GRP_STATUS.PEND_N, 0), (hSticky R.SYS.ID 1, 1),
        (whole R.SYS.GRP_DONE_LO, d.st % 2 ^ 32), (whole R.SYS.GRP_DONE_HI, d.st / 2 ^ 32 % 2 ^ 32)]) := by
  have counted := h.set (f := F.SYS.GRP_STATUS.PEND_N) (x := 0) (by decide) (by decide) (apart _ (by decide))
  have state := counted.set (f := F.SYS.GRP_STATUS.STATE) (x := 3) (by decide) (by decide)
    (by simpa [Fld.Apart] using apart F.SYS.GRP_STATUS.STATE (by decide))
  have low := state.wr (a := R.SYS.GRP_DONE_LO) (v := wd d.st)
    (by simpa [Fld.Apart] using apart (whole R.SYS.GRP_DONE_LO) (by decide))
  have high := low.wr (a := R.SYS.GRP_DONE_HI) (v := wd (d.st / 2 ^ 32))
    (by simpa [Fld.Apart] using apart (whole R.SYS.GRP_DONE_HI) (by decide))
  have flag := high.raise (a := R.SYS.STICKY) (i := 1) (by decide)
    (by simpa [Fld.Apart] using apart (bitOf R.SYS.STICKY 1) (by decide))
  simp only [List.append_assoc] at flag
  exact flag.perm (.append_left l (.trans (.swap _ _ _) (.cons _ (.cons _ (List.perm_append_comm (l₁ := [_, _]) (l₂ := [_]))))))

theorem Chip.groupDone_onlyRegs (c : Chip) (k : Nat) (v : Word) :
    Chip.OnlyRegs { c with staged := [], grpLeft := [] } ((c.vtargetApplied k v).set F.SYS.GRP_STATUS.PEND_N 0).groupDone := by
  have applied : Chip.OnlyRegs { c with staged := [], grpLeft := [] } (c.vtargetApplied k v) := .set (.set (.wr rfl _ _) _ _) _ _
  exact .raise (.wr (.wr (.set (.set applied _ _) _ _) _ _) _ _) _

end Sys2Proof.Machine
end

section
/-! Commit groups. -/

namespace Sys2Proof.Machine

/-- Settles O8: each clause is the law of FIRE, of the capture or of the member's commit point. -/
theorem groupFireCaptureAndApply : Obligations.GroupFireCaptureAndApply := by
  refine ⟨fun src imm s lets idle => ⟨fun empty => ?refused, fun k single implemented ahead => ?waits⟩,
    fun k s waits left frozen _ => ?capture, fun j k v s staged left names unfrozen off set none => ?apply⟩
  case refused =>
    have takes : takesWrites R.SYS.GRP_CTRL = true := by decide
    have does := (s.chip.pageWrite_grpCtrl src imm idle).trans (Chip.groupFire_of_empty
      ((Chip.members_congr (s.chip.rd_member_setImmediate imm)).trans empty))
    have asked := (Chip.Shows.of_regs (c := s.chip)).set (f := F.SYS.GRP_CTRL.IMMEDIATE) (by decide) (Bool.toNat_lt imm) (by simp)
    have status := asked.wr_wd (a := R.SYS.GRP_STATUS) (x := 4 + rParam * 256) (by decide) (by simp [Fld.Apart])
    have flag := status.raise (a := R.SYS.STICKY) (i := 2) (by decide) (by simp [Fld.Apart])
    exact .of_gated rfl ⟨lets, takes⟩ does flag (.raise (.wr (.set rfl _ _) _ _) _)
  case waits =>
    have takes : takesWrites R.SYS.GRP_CTRL = true := by decide
    have member := s.chip.rd_member_setImmediate false
    have timed : (s.chip.setb F.SYS.GRP_CTRL.IMMEDIATE false).on F.SYS.GRP_CTRL.IMMEDIATE = false := by
      rw [Chip.on, Chip.setb, Chip.get_set_same _ _ _ (by decide)]; rfl
    have does := (s.chip.pageWrite_grpCtrl src false idle).trans (Chip.groupFire_of_single ((Chip.members_congr member).trans single)
      (by rw [Chip.memberPage_congr (member k), implemented]) timed
      (by rw [Chip.get64_time_setImmediate]; exact ahead))
    have asked := (Chip.Shows.of_regs (c := s.chip)).set (f := F.SYS.GRP_CTRL.IMMEDIATE) (x := 0) (by decide) (by decide) (by simp)
    have kept := asked.congr (e := { s.chip.setb F.SYS.GRP_CTRL.IMMEDIATE false with grpLeft := [k], staged := [] }) rfl
    have status := kept.wr_wd (a := R.SYS.GRP_STATUS) (x := 1 + 65536) (by decide) (by simp [Fld.Apart])
    exact .of_gated rfl ⟨lets, takes⟩ does status (.wr rfl _ _)
  case capture =>
    have does := s.chip.groupCapture_of_frozen (s.chip.get64 R.SYS.GRP_TIME_LO R.SYS.GRP_TIME_HI) left rfl frozen
    have run : exec .groupCapture s = s.nextChip fun c =>
      if c.get F.SYS.GRP_STATUS.STATE = 1 then c.groupCapture (c.get64 R.SYS.GRP_TIME_LO R.SYS.GRP_TIME_HI) else c := rfl
    exact .of_onChip run ((if_pos waits).trans does) (Chip.Shows.set (Chip.Shows.of_regs rfl) (by decide) (by decide) (by simp))
      (.set rfl _ _)
  case apply =>
    have does := (Chip.memberApply_of_off staged (left ▸ List.mem_singleton_self _) names unfrozen off).trans
      (Chip.memberDone_of_last left names set none)
    have run : exec (.groupMemberApply j) s = s.nextChip fun c => c.memberApply j := rfl
    have applied : s.chip.Shows (s.chip.vtargetApplied k v) _ := Chip.vtargetCommit_shows rfl k _
    exact .of_onChip run does (applied.groupDone fun _ sys => Fld.apartFrom_conv sys _ _ _ _) (s.chip.groupDone_onlyRegs k v)

end Sys2Proof.Machine
end

section
/-! SUPPORT. What an instruction within each core does to a core, and from that what the command answers. -/

namespace Sys2Proof.Machine

/-! ### Tables -/

theorem Tab.put_put {α : Type} (t : Tab α) (a : Nat) (x y : α) : Tab.put (Tab.put t a x) a y = Tab.put t a y := by
  induction t with
  | nil => simp [Tab.put]
  | cons e t ih =>
    obtain ⟨k, v⟩ := e
    simp only [Tab.put]
    split_ifs with below same
    · simp [Tab.put]
    · simp [Tab.put]
    · rw [Tab.put, if_neg below, if_neg same, ih]

/-- Of two values set one after another, neither of them the default, the later stands. -/
theorem Tab.set_set {α : Type} [DecidableEq α] (t : Tab α) (d : α) (a : Nat) {x y : α} (hx : x ≠ d) (hy : y ≠ d) :
    Tab.set (Tab.set t d a x) d a y = Tab.set t d a y := by
  simp only [Tab.set, if_neg hx, if_neg hy, Tab.put_put]

/-! ### What one core reads after a write -/

section
variable (x : CoreSt)

theorem CoreSt.getW_setW (r : Nat) (v : Word) (k : Nat) : (x.setW r v).getW k = if r = k then v else x.getW k := Tab.at_set ..

theorem CoreSt.getA_setA (r : Nat) {v : Int} (low : -2 ^ 71 ≤ v) (high : v ≤ 2 ^ 71 - 1) (k : Nat) :
    (x.setA r v).getA k = if r = k then v else x.getA k := by
  simp only [CoreSt.getA, CoreSt.setA, Tab.at_set]
  split_ifs
  · rw [BitVec.toInt_ofInt, Int.bmod_eq_of_le (by omega) (by omega)]
  · rfl

theorem CoreSt.getP_setP {r : Nat} (hr : r ≠ 0) (v : Bool) (k : Nat) : (x.setP r v).getP k = if r = k then v else x.getP k := by
  simp only [CoreSt.setP, if_neg hr, CoreSt.getP, Tab.at_set]
  split_ifs with zero same
  · exact absurd (same.trans zero) hr
  · rfl
  · rfl
  · rfl

theorem CoreSt.setP_zero (v : Bool) : x.setP 0 v = x := if_pos rfl
end

/-! ### Effects one after another -/

section
variable {x y : CoreSt} {e : CoreEff}

theorem CoreSt.does_nothing (x : CoreSt) : x.Does x x 0 {} := by simp [CoreSt.Does]

/-- A word written after an effect that leaves it. -/
theorem CoreSt.Does.setW (h : x.Does y x 0 e) {r : Nat} (v : Word) (other : ∀ q ∈ e.w, q.1 ≠ r) :
    x.Does (y.setW r v) x 0 { e with w := e.w ++ [(r, v)] } := by
  obtain ⟨words, wordsKept, accs, accsKept, preds, predsKept, rest⟩ := h
  refine ⟨fun q hq => ?_, fun k hk => ?_, accs, accsKept, preds, predsKept, congrArg (CoreSt.setW · r v) rest⟩
  · rw [CoreSt.getW_setW]
    rcases List.mem_append.1 hq with hq | hq
    · rw [if_neg (other q hq).symm, words q hq]
    · rw [List.mem_singleton.1 hq, if_pos rfl]
  · rw [CoreSt.getW_setW, if_neg (hk (r, v) (by simp)), wordsKept k fun q hq => hk q (List.mem_append_left _ hq)]

/-- An accumulator written after an effect that leaves it. -/
theorem CoreSt.Does.setA (h : x.Does y x 0 e) {r : Nat} {v : Int} (low : -2 ^ 71 ≤ v) (high : v ≤ 2 ^ 71 - 1)
    (other : ∀ q ∈ e.acc, q.1 ≠ r) : x.Does (y.setA r v) x 0 { e with acc := e.acc ++ [(r, v)] } := by
  obtain ⟨words, wordsKept, accs, accsKept, preds, predsKept, rest⟩ := h
  refine ⟨words, wordsKept, fun q hq => ?_, fun k hk => ?_, preds, predsKept, congrArg (CoreSt.setA · r v) rest⟩
  · rw [CoreSt.getA_setA _ _ low high]
    rcases List.mem_append.1 hq with hq | hq
    · rw [if_neg (other q hq).symm, accs q hq]
    · rw [List.mem_singleton.1 hq, if_pos rfl]
  · rw [CoreSt.getA_setA _ _ low high, if_neg (hk (r, v) (by simp)), accsKept k fun q hq => hk q (List.mem_append_left _ hq)]

/-- A flag raised after an effect whose flags have other bits. -/
theorem CoreSt.Does.flag (h : x.Does y x 0 e) (k : Nat)
    (apart : BitVec.ofNat 5 (e.fl.map fun b => 2 ^ b).sum ||| BitVec.ofNat 5 (2 ^ k) = BitVec.ofNat 5 ((e.fl ++ [k]).map fun b => 2 ^ b).sum) :
    x.Does (y.flag k) x 0 { e with fl := e.fl ++ [k] } := by
  obtain ⟨words, wordsKept, accs, accsKept, preds, predsKept, rest⟩ := h
  refine ⟨words, wordsKept, accs, accsKept, preds, predsKept, (congrArg (CoreSt.flag · k) rest).trans ?_⟩
  simp only [CoreSt.flag, BitVec.or_assoc, apart]
  simp
end

theorem CoreSt.does_setW (x : CoreSt) (r : Nat) (v : Word) : x.Does (x.setW r v) x 0 { w := [(r, v)] } :=
  x.does_nothing.setW v (by simp)

theorem CoreSt.does_flag (x : CoreSt) (k : Nat) : x.Does (x.flag k) x 0 { fl := [k] } :=
  x.does_nothing.flag k (by simp)

/-- A predicate is written; a write to p0 has no effect. -/
theorem CoreSt.does_setP (x : CoreSt) (r : Nat) (v : Bool) : x.Does (x.setP r v) x 0 { p := if r = 0 then [] else [(r, v)] } := by
  by_cases hr : r = 0
  · subst hr
    rw [CoreSt.setP_zero]
    exact x.does_nothing
  · have set : x.setP r v = { x with p := Tab.set x.p false r v } := if_neg hr
    rw [if_neg hr, set]
    refine ⟨by simp, fun _ _ => rfl, by simp, fun _ _ => rfl, ?_, fun k hk => ?_, by simp⟩
    · simp [← set, CoreSt.getP_setP, hr]
    · rw [← set, CoreSt.getP_setP _ hr, if_neg (hk (r, v) (by simp))]

/-! ### Saturated results -/

theorem sat32_eq (v : Int) : sat32 v = (BitVec.ofInt 32 (max (-2 ^ 31) (min (2 ^ 31 - 1) v)), decide (v < -2 ^ 31 ∨ 2 ^ 31 - 1 < v)) := by
  unfold sat32
  split_ifs with under above
  · rw [max_eq_left (by omega), decide_eq_true (.inl under)]
    rfl
  · rw [min_eq_left (by omega), decide_eq_true (.inr above)]
    rfl
  · rw [min_eq_right (by omega), max_eq_right (by omega), decide_eq_false (by omega)]

theorem sat72_eq (v : Int) : sat72 v = (max (-2 ^ 71) (min (2 ^ 71 - 1) v), decide (v < -2 ^ 71 ∨ 2 ^ 71 - 1 < v)) := by
  unfold sat72
  split_ifs with under above
  · rw [max_eq_left (by omega), decide_eq_true (.inl under)]
  · rw [min_eq_left (by omega), decide_eq_true (.inr above)]
    rfl
  · rw [min_eq_right (by omega), max_eq_right (by omega), decide_eq_false (by omega)]

/-- A 32-bit result is written saturated, with SAT (R90, R91). -/
theorem CoreSt.does_result (x : CoreSt) (rd : Nat) (v : Int) : x.Does (x.result rd v) x 0 (satEff rd flSat v) := by
  simp only [CoreSt.result, sat32_eq, satEff]
  by_cases out : v < -2 ^ 31 ∨ 2 ^ 31 - 1 < v
  · simp only [if_pos out, decide_eq_true out]
    exact (x.does_flag flSat).setW _ (by simp)
  · simp only [if_neg out, decide_eq_false out]
    exact x.does_setW rd _

/-- An accumulator result is written saturated, with OVF and SAT_ACC (R90, Table 3.2). -/
theorem CoreSt.does_accResult (x : CoreSt) (a : Nat) (v : Int) : x.Does (x.accResult a v) x 0 (accEff a v) := by
  have low : -2 ^ 71 ≤ max (-2 ^ 71) (min (2 ^ 71 - 1) v) := le_max_left _ _
  have high : max (-2 ^ 71) (min (2 ^ 71 - 1) v) ≤ 2 ^ 71 - 1 := by omega
  simp only [CoreSt.accResult, sat72_eq, accEff]
  by_cases out : v < -2 ^ 71 ∨ 2 ^ 71 - 1 < v
  · simp only [if_pos out, decide_eq_true out]
    exact ((x.does_flag flOvf).flag flSatAcc (by decide)).setA low high (by simp)
  · simp only [if_neg out, decide_eq_false out]
    exact x.does_nothing.setA low high (by simp)

/-! ### From a core to the command -/

/-- The core goes on after an effect; its work units were charged before. -/
theorem CoreSt.Does.next {x y : CoreSt} {e : CoreEff} {wu : Nat} (h : ({ x with wu := x.wu + wu } : CoreSt).Does y { x with wu := x.wu + wu } 0 e) :
    x.Does y.next x.next wu e := by
  obtain ⟨words, wordsKept, accs, accsKept, preds, predsKept, rest⟩ := h
  exact ⟨words, wordsKept, accs, accsKept, preds, predsKept, congrArg CoreSt.next rest⟩

theorem Chip.executing_run {c : Chip} {p : Nat} {r : RunSt} (h : c.executing p = some r) : (c.pair p).run = some r := by
  unfold Chip.executing at h
  split at h
  case h_1 r' hr =>
    split_ifs at h
    exact hr.trans h
  case h_2 => exact absurd h (by simp)

theorem PairSt.ne_default_of_run {x : PairSt} {r : RunSt} (h : x.run = some r) : x ≠ {} := by
  rintro rfl
  exact absurd h (by simp)

/-- A pair that runs, changed twice, is as changed by the second change. -/
theorem Chip.setPair_setPair (c : Chip) (p : Nat) {x y : PairSt} {r : RunSt} (hx : x.run = some r) {r' : RunSt} (hy : y.run = some r') :
    (c.setPair p x).setPair p y = c.setPair p y := by
  simp only [Chip.setPair, Tab.set_set _ _ _ (PairSt.ne_default_of_run hx) (PairSt.ne_default_of_run hy)]

theorem PairSt.onCores_onCores (x : PairSt) (cs : Cores) (f g : Bool → CoreSt → CoreSt) :
    (x.onCores cs f).onCores cs g = x.onCores cs fun b y => g b (f b y) := by
  cases cs <;> rfl

/-- An instruction within each core that may run changes the cores that execute, and nothing else. -/
theorem Chip.cleOp_eq_setPair {c : Chip} {p g wu : Nat} {cs : Cores} (f : CoreSt → CoreSt) (room : c.CanRun p cs wu) :
    c.cleOp p cs g wu f =
      c.setPair p ((c.pair p).onCores cs fun _ y => ({ y with wu := y.wu + wu } : CoreSt).guarded g f) := by
  obtain ⟨r, executes, -, -⟩ := id room
  have running := Chip.executing_run executes
  rw [c.cleOp_of_run p cs g wu f room]
  simp only [Chip.updPair, Chip.pair_setPair_same, PairSt.onCores_onCores]
  exact Chip.setPair_setPair c p running running

/-- What a command answers that changes the cores of a running pair, each as a relation says. -/
theorem OnCores.of_setPair {i : Instr} {p : Nat} {cs : Cores} {s : State} {f : Bool → CoreSt → CoreSt} {R : Bool → CoreSt → CoreSt → Prop}
    (run : exec i s = .next { s with chip := s.chip.setPair p ((s.chip.pair p).onCores cs f) }) (each : ∀ b x, R b x (f b x)) :
    OnCores i p cs s [] R := by
  refine ⟨_, run, ((s.chip.pair p).onCores cs f).a, ((s.chip.pair p).onCores cs f).b, ?_, ?_, rfl, .of_regs⟩
  · cases h : cs.hasA
    · simp [PairSt.onCores, h]
    · simpa [PairSt.onCores, h] using each ..
  · cases h : cs.hasB
    · simp [PairSt.onCores, h]
    · simpa [PairSt.onCores, h] using each ..

/-- An instruction within each core, whose work units count for nothing in its effect, runs as its effect on a core says. -/
theorem RunsAs.of_cleOp {i : Instr} {p g wu : Nat} {cs : Cores} {s : State} {f : CoreSt → CoreSt} {eff : CoreSt → CoreEff}
    (run : exec i s = s.nextChip fun c => c.cleOp p cs g wu f) (acts : ∀ x : CoreSt, x.Does (f x) x 0 (eff x))
    (blind : ∀ x n, eff { x with wu := n } = eff x := by intros; rfl) : RunsAs i p cs g wu s eff := by
  intro room
  refine OnCores.of_setPair (exec_of_onChip run (Chip.cleOp_eq_setPair f room)) fun _ x => ?_
  have guard : ({ x with wu := x.wu + wu } : CoreSt).getP g = x.getP g := rfl
  simp only [CoreSt.guarded, guard]
  split
  · exact (blind x (x.wu + wu) ▸ acts { x with wu := x.wu + wu } : CoreSt.Does _ _ _ _ (eff x)).next
  · exact (CoreSt.does_nothing _).next

end Sys2Proof.Machine
end

section
/-! The arithmetic of the engines. -/

namespace Sys2Proof.Machine

/-! ### Rounding -/

/-- A quotient and a half, rounded down, in integers. -/
theorem floor_div_add_half (n : Int) {d : Nat} (hd : d ≠ 0) : ((n : Rat) / (d : Rat) + 1 / 2).floor = (2 * n + d) / (2 * d) := by
  have one : (n : Rat) / (d : Rat) + 1 / 2 = ((2 * n + d : Int) : Rat) / ((2 * d : Nat) : Rat) := by
    push_cast
    field_simp
  rw [one]
  exact_mod_cast Rat.floor_intCast_div_natCast (2 * n + d) (2 * d)

/-- A value scaled up is exact (R89). -/
theorem scale_of_nonneg (v : Int) {s : Int} (up : 0 ≤ s) : ((scale v s : Int) : Rat) = (v : Rat) * (2 : Rat) ^ s := by
  obtain ⟨n, rfl⟩ := Int.eq_ofNat_of_zero_le up
  simp [scale]

/-- A scaled value is the floor of the exact one and a half (R89). -/
theorem scale_eq_floor (v s : Int) : scale v s = ((v : Rat) * (2 : Rat) ^ s + 1 / 2).floor := by
  by_cases down : s < 0
  · obtain ⟨k, rfl⟩ : ∃ k : Nat, s = -((k + 1 : Nat) : Int) := ⟨s.natAbs - 1, by omega⟩
    have quotient : (v : Rat) * (2 : Rat) ^ (-((k + 1 : Nat) : Int)) = (v : Rat) / ((2 ^ (k + 1) : Nat) : Rat) := by
      rw [zpow_neg, zpow_natCast, div_eq_mul_inv, Nat.cast_pow, Nat.cast_ofNat]
    have halves : 2 * v + ((2 ^ (k + 1) : Nat) : Int) = 2 * (v + 2 ^ k) := by
      push_cast
      ring
    rw [quotient, floor_div_add_half v (by positivity), halves, Int.mul_ediv_mul_of_pos _ _ (by decide)]
    have size : (-((k + 1 : Nat) : Int)).natAbs = k + 1 := by omega
    simp only [scale, if_pos down, size, Nat.add_sub_cancel, Nat.cast_pow, Nat.cast_ofNat]
  · have whole := floor_div_add_half (scale v s) (d := 1) (by decide)
    rw [Nat.cast_one, div_one, scale_of_nonneg v (not_lt.1 down)] at whole
    rw [whole]
    omega

/-- The quotient of DIV, divided by the divisor's magnitude, is rounded as the exact one is (R89, R97). -/
theorem div_eq_floor (a b : Int) (e : Nat) (hb : b ≠ 0) :
    (2 * ((if b < 0 then -a else a) * 2 ^ e) + (b.natAbs : Int)) / (2 * (b.natAbs : Int)) =
      ((a : Rat) * (2 : Rat) ^ e / (b : Rat) + 1 / 2).floor := by
  have quotient : (a : Rat) * (2 : Rat) ^ e / (b : Rat) =
      (((if b < 0 then -a else a) * 2 ^ e : Int) : Rat) / (b.natAbs : Rat) := by
    by_cases below : b < 0
    · have magnitude : ((b.natAbs : Nat) : Rat) = -(b : Rat) := by
        rw [← Int.cast_natCast, Int.ofNat_natAbs_of_nonpos below.le, Int.cast_neg]
      rw [if_pos below, magnitude]
      push_cast
      rw [neg_mul, neg_div_neg_eq]
    · have magnitude : ((b.natAbs : Nat) : Rat) = (b : Rat) := by
        rw [← Int.cast_natCast, Int.natAbs_of_nonneg (not_lt.1 below)]
      rw [if_neg below, magnitude]
      push_cast
      rfl
  rw [quotient, floor_div_add_half _ (Int.natAbs_ne_zero.2 hb)]

/-! ### Instructions -/

/-- DIV by 0 raises DIV0 and writes the limit of the dividend's sign; another quotient is a rounded result (R97). -/
theorem CoreSt.does_div (x : CoreSt) (rd ra rb : Nat) (qs : BitVec 5) : x.Does (x.div rd ra rb qs.toInt) x 0
    (if x.val rb = 0 then
      { w := [(rd, if 0 < x.val ra then 0x7FFFFFFF#32 else if x.val ra < 0 then 0x80000000#32 else 0)], fl := [flDiv0] }
    else satEff rd flSat ((x.val ra : Rat) * (2 : Rat) ^ (31 + qs.toInt) / (x.val rb : Rat) + 1 / 2).floor) := by
  by_cases zero : x.val rb = 0
  · simp only [CoreSt.div, if_pos zero]
    exact (x.does_flag flDiv0).setW _ (by simp)
  · simp only [CoreSt.div, if_neg zero]
    have least : -2 ^ 4 ≤ qs.toInt := BitVec.le_toInt qs
    obtain ⟨e, he⟩ : ∃ e : Nat, 31 + qs.toInt = (e : Int) := Int.eq_ofNat_of_zero_le (by omega)
    rw [he, zpow_natCast, ← div_eq_floor _ _ _ zero, Int.toNat_natCast]
    exact x.does_result rd _

/-- ACCR reads an accumulator, with SAT and SAT_ACC, and clears it when asked (Tables 3.2 and 3.4). -/
theorem CoreSt.does_accr (x : CoreSt) (acc rd : Nat) (clear : Bool) (qs : Int) :
    let v := scale (x.getA acc) (qs - 31)
    x.Does (x.accr acc rd clear qs) x 0
      { satEff rd flSat v with
        acc := if clear then [(acc, 0)] else []
        fl := if v < -2 ^ 31 ∨ 2 ^ 31 - 1 < v then [flSat, flSatAcc] else [] } := by
  intro v
  have bits : BitVec.ofNat 5 ([flSat].map fun b => 2 ^ b).sum ||| BitVec.ofNat 5 (2 ^ flSatAcc) =
      BitVec.ofNat 5 (([flSat] ++ [flSatAcc]).map fun b => 2 ^ b).sum := by decide
  have flagged : x.Does ((x.result rd v).flagIf (sat32 v).2 flSatAcc) x 0
      { satEff rd flSat v with fl := if v < -2 ^ 31 ∨ 2 ^ 31 - 1 < v then [flSat, flSatAcc] else [] } := by
    have result := x.does_result rd v
    rw [sat32_eq]
    by_cases out : v < -2 ^ 31 ∨ 2 ^ 31 - 1 < v
    · simp only [satEff, if_pos out, decide_eq_true out] at result ⊢
      exact result.flag flSatAcc bits
    · simp only [satEff, if_neg out, decide_eq_false out] at result ⊢
      exact result
  cases clear
  · exact flagged
  · exact flagged.setA (by decide) (by decide) (by simp [satEff])

end Sys2Proof.Machine
end

section
/-! Rounding and arithmetic of the engines. -/

namespace Sys2Proof.Machine

/-- Settles O13: rounding is the law of `scale`, and MOV writes a scaled result. -/
theorem roundingIsFloorOfHalfMore : Obligations.RoundingIsFloorOfHalfMore := by
  refine ⟨scale_eq_floor, fun v s => scale_of_nonneg v, fun p cs g rd ra qs s => ?mov⟩
  case mov => exact .of_cleOp rfl fun x => scale_eq_floor (x.val ra) qs.toInt ▸ x.does_result rd _

/-- Settles O14: each instruction is one result, of a register or of an accumulator, on each core. -/
theorem arithmeticSaturatesWithItsFlags : Obligations.ArithmeticSaturatesWithItsFlags := by
  intro p cs g rd ra rb acc qs s
  refine ⟨?add, ?sub, ?mul, ?abs, ?neg, ?shv, ?div, fun imm => ?addi, ?mac, ?msu, ?accw, fun clear => ?accr⟩
  case add | sub | mul | abs | neg | shv | addi => exact .of_cleOp rfl fun x => x.does_result rd _
  case mac | msu | accw => exact .of_cleOp rfl fun x => x.does_accResult acc _
  case div => exact .of_cleOp rfl fun x => x.does_div rd ra rb qs
  case accr => exact .of_cleOp rfl fun x => x.does_accr acc rd clear qs.toInt

end Sys2Proof.Machine
end

section
/-! Logic, selection, comparison and immediates of the engines. -/

namespace Sys2Proof.Machine

theorem CoreSt.ofInt_val (x : CoreSt) (r : Nat) : BitVec.ofInt 32 (x.val r) = x.getW r := BitVec.ofInt_toInt

theorem CoreSt.ofInt_min (x : CoreSt) (ra rb : Nat) :
    BitVec.ofInt 32 (min (x.val ra) (x.val rb)) = if x.val ra ≤ x.val rb then x.getW ra else x.getW rb := by
  rw [min_def, apply_ite (BitVec.ofInt 32), x.ofInt_val, x.ofInt_val]

theorem CoreSt.ofInt_max (x : CoreSt) (ra rb : Nat) :
    BitVec.ofInt 32 (max (x.val ra) (x.val rb)) = if x.val rb ≤ x.val ra then x.getW ra else x.getW rb := by
  rw [max_comm, max_def, apply_ite (BitVec.ofInt 32), x.ofInt_val, x.ofInt_val]

theorem CoreSt.val_mem (x : CoreSt) (r : Nat) : -2 ^ 31 ≤ x.val r ∧ x.val r ≤ 2 ^ 31 - 1 := by
  have low : -2 ^ 31 ≤ x.val r := BitVec.le_toInt (x.getW r)
  have high : x.val r < 2 ^ 31 := BitVec.toInt_lt
  exact ⟨low, by omega⟩

/-! ### Immediates -/

theorem wd_high (imm : BitVec 16) : wd (imm.toNat * 2 ^ 16) = imm ++ 0#16 := by
  have fits := imm.isLt
  apply BitVec.eq_of_toNat_eq
  rw [BitVec.toNat_append, BitVec.toNat_ofNat, BitVec.toNat_ofNat, Nat.shiftLeft_eq, Nat.zero_mod, Nat.or_zero]
  exact Nat.mod_eq_of_lt (by omega)

theorem putBits_low (v : Word) (imm : BitVec 16) : putBits v 0 16 imm.toNat = v.extractLsb' 16 16 ++ imm := by
  apply BitVec.eq_of_getLsbD_eq
  intro i hi
  rw [getLsbD_putBits, BitVec.getLsbD_append, BitVec.getLsbD_extractLsb']
  by_cases low : i < 16
  · simp [low, hi, BitVec.testBit_toNat]
  · simp [low, show 16 + (i - 16) = i by omega, show i - 16 < 16 by omega]

/-! ### Limits -/

theorem CoreSt.does_flagIf (x : CoreSt) (b : Bool) (k : Nat) : x.Does (x.flagIf b k) x 0 { fl := if b = true then [k] else [] } := by
  cases b
  · exact x.does_nothing
  · exact x.does_flag k

/-- CLAMP writes the limit that holds the operand, the upper one first, and raises SAT where it is asked to (Table 3.4). -/
theorem CoreSt.does_clamp (x : CoreSt) (rd ra lo : Nat) (flag : Bool) : x.Does (x.clamp rd ra lo flag) x 0
    { w := [(rd, if x.val (lo + 1) < x.val ra then x.getW (lo + 1) else if x.val ra < x.val lo then x.getW lo else x.getW ra)]
      fl := if (x.val (lo + 1) < x.val ra ∨ x.val ra < x.val lo) ∧ flag = true then [flSat] else [] } := by
  by_cases above : x.val (lo + 1) < x.val ra
  · simp only [CoreSt.clamp, above, if_true, true_or, true_and]
    exact (x.does_flagIf flag flSat).setW _ (by simp)
  · by_cases under : x.val ra < x.val lo
    · simp only [CoreSt.clamp, above, under, if_true, if_false, or_true, true_and]
      exact (x.does_flagIf flag flSat).setW _ (by simp)
    · simp only [CoreSt.clamp, above, under, if_false, or_self, false_and]
      exact x.does_setW rd _

theorem clampInt_eq (l v : Int) (hl : 0 ≤ l) : clampInt (-l) l v = (max (-l) (min l v), decide (l < (v.natAbs : Int))) := by
  unfold clampInt
  split_ifs with below above
  · rw [max_eq_left (by omega), decide_eq_true (by omega)]
  · rw [min_eq_left (by omega), max_eq_right (by omega), decide_eq_true (by omega)]
  · rw [min_eq_right (by omega), max_eq_right (by omega), decide_eq_false (by omega)]

/-- A result within the range of a word is written as it is. -/
theorem CoreSt.result_of_fits (x : CoreSt) (rd : Nat) {v : Int} (low : -2 ^ 31 ≤ v) (high : v ≤ 2 ^ 31 - 1) :
    x.result rd v = x.setW rd (BitVec.ofInt 32 v) := by
  rw [CoreSt.result, sat32_eq, decide_eq_false (by omega), min_eq_right high, max_eq_right low]
  rfl

/-- RATE moves a register towards another by at most a limit, and never past it (Table 3.4). -/
theorem CoreSt.does_rate (x : CoreSt) (rd ra rb : Nat) (flag : Bool) : x.Does (x.rate rd ra rb flag) x 0
    { w := [(rd, BitVec.ofInt 32
        (x.val rd + max (-(max (x.val rb) 0)) (min (max (x.val rb) 0) (x.val ra - x.val rd))))]
      fl := if max (x.val rb) 0 < ((x.val ra - x.val rd).natAbs : Int) ∧ flag = true then [flSat] else [] } := by
  have start := x.val_mem rd
  have goal := x.val_mem ra
  have flagged := x.does_flagIf (flag && decide (max (x.val rb) 0 < ((x.val ra - x.val rd).natAbs : Int))) flSat
  simp only [CoreSt.rate, clampInt_eq _ _ (le_max_right (x.val rb) 0)]
  rw [CoreSt.result_of_fits _ _ (by omega) (by omega)]
  simp only [Bool.and_eq_true, decide_eq_true_eq, and_comm (a := flag = true)] at flagged
  exact flagged.setW _ (by simp)

/-! ### Comparisons -/

theorem cmpHolds_eq (a b : Word) (cond : CmpCond) : cmpHolds a b cond = match cond with
    | .eq => decide (a = b)
    | .ne => decide (a ≠ b)
    | .lt => decide (a.toInt < b.toInt)
    | .le => decide (a.toInt ≤ b.toInt)
    | .gt => decide (b.toInt < a.toInt)
    | .ge => decide (b.toInt ≤ a.toInt)
    | .ltu => decide (a.toNat < b.toNat)
    | .geu => decide (b.toNat ≤ a.toNat) := by
  cases cond
  case eq => exact beq_eq_decide a b
  case ne => exact Bool.eq_iff_iff.2 (by simp [cmpHolds])
  all_goals rfl

theorem CoreSt.does_setP_fin (x : CoreSt) (pd : Fin 8) (v : Bool) : x.Does (x.setP pd v) x 0 { p := if pd = 0 then [] else [(pd, v)] } := by
  simpa only [Fin.val_eq_zero_iff] using x.does_setP pd v

/-- Settles O15: each instruction is one write of a register or a predicate on each core. -/
theorem logicSelectionAndComparisonWriteTheirResults : Obligations.LogicSelectionAndComparisonWriteTheirResults := by
  intro p cs g rd ra rb s
  refine ⟨?nop, ?and, ?or, ?xor, ?min, ?max, fun ps => ?sel, fun imm => ?signed, fun imm => ?high, fun imm => ?low,
    fun lo flag => ?clamp, fun flag => ?rate, fun pd cond => ?cmp, fun pd imm => ?cmpi, fun pd pa pb tt => ?plog⟩
  case nop => exact .of_cleOp rfl fun x => x.does_nothing
  case and | or | xor | sel | signed => exact .of_cleOp rfl fun x => x.does_setW rd _
  case min => exact .of_cleOp rfl fun x => x.ofInt_min ra rb ▸ x.does_setW rd _
  case max => exact .of_cleOp rfl fun x => x.ofInt_max ra rb ▸ x.does_setW rd _
  case high => exact .of_cleOp rfl fun x => wd_high imm ▸ x.does_setW rd _
  case low => exact .of_cleOp rfl fun x => putBits_low (x.getW rd) imm ▸ x.does_setW rd _
  case clamp => exact .of_cleOp rfl fun x => x.does_clamp rd ra lo flag
  case rate => exact .of_cleOp rfl fun x => x.does_rate rd ra rb flag
  case cmp => exact .of_cleOp rfl fun x => cmpHolds_eq (x.getW ra) (x.getW rb) cond ▸ x.does_setP_fin pd _
  case cmpi => exact .of_cleOp rfl fun x => x.does_setP (pd.val + 4) _
  case plog => exact .of_cleOp rfl fun x => x.does_setP_fin pd _

end Sys2Proof.Machine
end

section
/-! CORDIC: the root that the magnitude is rounded from, and the codes of the quarter turns. -/

namespace Sys2Proof.Machine

/-! ### Integer square root -/

/-- With `k` bits of the root to find, the root found lies at most `2^k` under the exact one. -/
theorem isqrtFrom_spec (k v r : Nat) (low : r * r ≤ v) (high : v < (r + 2 ^ k) * (r + 2 ^ k)) :
    isqrtFrom k v r * isqrtFrom k v r ≤ v ∧ v < (isqrtFrom k v r + 1) * (isqrtFrom k v r + 1) := by
  induction k generalizing r with
  | zero => exact ⟨low, by simpa [isqrtFrom] using high⟩
  | succ k ih =>
    unfold isqrtFrom
    split_ifs with fits
    · exact ih _ fits (by rwa [Nat.add_assoc, ← Nat.two_mul, ← Nat.pow_succ'])
    · exact ih r low (Nat.lt_of_not_le fits)

theorem isqrt_spec {v : Nat} (hv : v < 2 ^ 128) : isqrt v * isqrt v ≤ v ∧ v < (isqrt v + 1) * (isqrt v + 1) :=
  isqrtFrom_spec 64 v 0 (Nat.zero_le _) (by simpa using hv)

/-! ### The unscaled magnitude -/

/-- Half of the root of `4 n`, rounded up, is the integer nearest to the root of `n`. -/
theorem half_root_nearest {n : Nat} (hn : 4 * n < 2 ^ 128) :
    let m : Int := ((isqrt (4 * n) + 1) / 2 : Nat)
    (m = 0 ∨ (2 * m - 1) * (2 * m - 1) ≤ 4 * (n : Int)) ∧ 4 * (n : Int) < (2 * m + 1) * (2 * m + 1) := by
  intro m
  obtain ⟨low, high⟩ := isqrt_spec hn
  zify at low high
  refine ⟨or_iff_not_imp_left.2 fun some => ?_, ?_⟩
  · exact (mul_self_le_mul_self (by omega) (by omega : 2 * m - 1 ≤ isqrt (4 * n))).trans low
  · exact high.trans_le (mul_self_le_mul_self (by omega) (by omega : (isqrt (4 * n) : Int) + 1 ≤ 2 * m + 1))

/-- The sum of the squares of two words, four times over, is far below what the root is exact for. -/
theorem squares_lt (a b : Word) : 4 * (a.toInt.natAbs * a.toInt.natAbs + b.toInt.natAbs * b.toInt.natAbs) < 2 ^ 128 := by
  have bound (c : Word) : c.toInt.natAbs * c.toInt.natAbs ≤ 2 ^ 31 * 2 ^ 31 := by
    have low : -2 ^ 31 ≤ c.toInt := BitVec.le_toInt c
    have high : c.toInt < 2 ^ 31 := BitVec.toInt_lt
    exact Nat.mul_le_mul (by omega) (by omega)
  have first := bound a
  have second := bound b
  omega

/-- The unscaled magnitude of two words is the integer nearest to the root of the sum of their squares (Table 3.5). -/
theorem magValue_nearest (a b : Word) :
    let m : Int := magValue a.toInt b.toInt 0
    let n := a.toInt * a.toInt + b.toInt * b.toInt
    (m = 0 ∨ (2 * m - 1) * (2 * m - 1) ≤ 4 * n) ∧ 4 * n < (2 * m + 1) * (2 * m + 1) := by
  intro m n
  have squares : n = ((a.toInt.natAbs * a.toInt.natAbs + b.toInt.natAbs * b.toInt.natAbs : Nat) : Int) := by
    rw [Int.natCast_add, Int.natAbs_mul_self, Int.natAbs_mul_self]
  have root : magValue a.toInt b.toInt 0 =
      (isqrt (4 * (a.toInt.natAbs * a.toInt.natAbs + b.toInt.natAbs * b.toInt.natAbs)) + 1) / 2 := by simp [magValue]
  rw [squares]
  simp only [m, root]
  exact half_root_nearest (squares_lt a b)

/-! ### Instructions -/

/-- POLAR writes the magnitude, and the angle beside it (Table 3.4). -/
theorem CoreSt.does_polar (x : CoreSt) (hi : Nat) (m : Int) (angle : Word) :
    x.Does ((x.result hi m).setW (hi + 1) angle) x 0 { satEff hi flSat m with w := (satEff hi flSat m).w ++ [(hi + 1, angle)] } :=
  (x.does_result hi m).setW angle (by simp [satEff])

/-- The codes of the quarter turns and of the eighth of a turn. -/
theorem sinCode_quarters :
    sinCode 0x00000000 = 0 ∧ sinCode 0x40000000 = 0x7FFFFFFF ∧ sinCode 0x80000000 = 0 ∧ sinCode 0xC0000000 = 0x80000000 := by decide +kernel

theorem cosCode_quarters :
    cosCode 0x00000000 = 0x7FFFFFFF ∧ cosCode 0x40000000 = 0 ∧ cosCode 0x80000000 = 0x80000000 ∧ cosCode 0xC0000000 = 0 := by decide +kernel

theorem atan2Code_eighth : atan2Code 1000 1000 = 0x20000000 := by decide +kernel

/-- Settles O16: each instruction writes its code on each core; the codes of the quarter turns are evaluated, and the magnitude is the law
of the root. -/
theorem cordicResultsAreRoundedValues : Obligations.CordicResultsAreRoundedValues := by
  refine ⟨fun p cs g rd ra rb hi qs s => ⟨?sin, ?cos, ?sincos, ?atan2, ?mag, ?polar⟩, sinCode_quarters, cosCode_quarters,
    atan2Code_eighth, magValue_nearest⟩
  case sin | cos | atan2 => exact .of_cleOp rfl fun x => x.does_setW rd _
  case sincos => exact .of_cleOp rfl fun x => (x.does_setW hi _).setW _ (by simp)
  case mag => exact .of_cleOp rfl fun x => x.does_result rd _
  case polar => exact .of_cleOp rfl fun x => x.does_polar hi _ _

end Sys2Proof.Machine
end

section
/-! SUPPORT. Laws of the banks and of the memories that a host reaches: what each command does, case by case. -/

namespace Sys2Proof.Machine

/-! ### Registers that take writes, and their pages -/

theorem takesWrites_nvm : takesWrites R.NVM.PROG_DATA = true ∧ takesWrites R.NVM.AUTH_CMD = true ∧ takesWrites R.NVM.VER_CMD = true := by
  decide

theorem aOff_nvm : aOff R.NVM.PROG_DATA = 0x54 ∧ aOff R.NVM.AUTH_CMD = 0x58 ∧ aOff R.NVM.VER_CMD = 0x4C := by decide

theorem takesWrites_cle (p : Fin 36) : takesWrites (R.CLE.DMEM_DATA p) = true ∧ takesWrites (R.CLE.SHM_DATA p) = true ∧
    takesWrites (R.CLE.SLOT_CLR p) = true := by
  revert p; decide

theorem aInst_cle (p : Fin 36) : aInst (R.CLE.DMEM_DATA p) = p ∧ aInst (R.CLE.SHM_DATA p) = p ∧ aInst (R.CLE.SLOT_CLR p) = p := by
  revert p; decide

theorem aOff_cle (p : Fin 36) : aOff (R.CLE.DMEM_DATA p) = 0x80 ∧ aOff (R.CLE.SHM_DATA p) = 0x90 ∧ aOff (R.CLE.SLOT_CLR p) = 0x68 := by
  revert p; decide

section
variable (c : Chip) (src : Source) (v : Word) (p : Fin 36)

theorem Nvm.onWrite_progData : Nvm.onWrite { src := src, addr := R.NVM.PROG_DATA, val := v } c = c.progData v := by
  simp only [Nvm.onWrite, Acc.off, aOff_nvm.1]

theorem Nvm.onWrite_authCmd : Nvm.onWrite { src := src, addr := R.NVM.AUTH_CMD, val := v } c =
    c.authCmd { src := src, addr := R.NVM.AUTH_CMD, val := v } := by
  simp only [Nvm.onWrite, Acc.off, aOff_nvm.2.1]

theorem Nvm.onWrite_commitVersion : Nvm.onWrite { src := src, addr := R.NVM.VER_CMD, val := v } c =
    c.commitVersion { src := src, addr := R.NVM.VER_CMD, val := v } := by
  simp only [Nvm.onWrite, Acc.off, aOff_nvm.2.2]

theorem Cle.onWrite_dmemData : Cle.onWrite { src := src, addr := R.CLE.DMEM_DATA p, val := v } c =
    c.dmemWrite { src := src, addr := R.CLE.DMEM_DATA p, val := v } := by
  simp only [Cle.onWrite, Acc.off, (aOff_cle p).1]

theorem Cle.onWrite_shmData : Cle.onWrite { src := src, addr := R.CLE.SHM_DATA p, val := v } c = c.shmWrite p v := by
  simp only [Cle.onWrite, Acc.off, Acc.inst, (aOff_cle p).2.1, (aInst_cle p).2.1]

theorem Cle.onWrite_slotClr : Cle.onWrite { src := src, addr := R.CLE.SLOT_CLR p, val := 1 } c =
    c.wr (win (bits (c.rd (R.CLE.SLOT_SEL p)) 0 4) (R.CLE.SLOT_WU_MAX p)) 0 := by
  have asked : bits 1 0 1 = 1 := by decide
  simp only [Cle.onWrite, Acc.off, Acc.inst, (aOff_cle p).2.2, (aInst_cle p).2.2, if_pos asked]
end

/-! ### Writes of an image (R114, R477) -/

/-- A word of a bank is set, and its generation steps. -/
def Chip.imageWord (c : Chip) (b k : Nat) (v : Word) : Chip :=
  if b = 0 then { c with bankA := Tab.set c.bankA 0 k v, genA := c.genA + 1 }
  else { c with bankB := Tab.set c.bankB 0 k v, genB := c.genB + 1 }

@[simp] theorem Chip.imageWord_regs (c : Chip) (b k : Nat) (v : Word) : (c.imageWord b k v).regs = c.regs := by
  unfold Chip.imageWord
  split <;> rfl

theorem Chip.progData_eq (c : Chip) (v : Word) : c.progData v =
    ((c.imageWord c.inactive (bits (c.rd R.NVM.PROG_ADDR) 2 20) v).clr (bankValid c.inactive)).wr R.NVM.PROG_ADDR
      (wd ((bits (c.rd R.NVM.PROG_ADDR) 2 20 + 1) % 2 ^ 20 * 4)) := rfl

theorem Chip.inactive_lt (c : Chip) : c.inactive < 2 := by unfold Chip.inactive; omega

theorem Chip.progData_shows (c : Chip) (v : Word) : c.Shows (c.progData v)
    [(bankValid c.inactive, 0), (whole R.NVM.PROG_ADDR, (bits (c.rd R.NVM.PROG_ADDR) 2 20 + 1) % 2 ^ 20 * 4)] := by
  have fits := c.inactive_lt
  rw [Chip.progData_eq]
  refine Chip.Shows.wr_wd (Chip.Shows.set (Chip.Shows.of_regs (c.imageWord_regs ..)) (f := bankValid c.inactive) ?_ ?_ ?_) ?_ ?_
  · simp only; omega
  · exact Nat.two_pow_pos _
  · simp
  · omega
  · simp [Fld.Apart, R.NVM.BANK_STAT, R.NVM.PROG_ADDR]

theorem Chip.progData_onlyRegs (c : Chip) (v : Word) :
    (c.imageWord c.inactive (bits (c.rd R.NVM.PROG_ADDR) 2 20) v).OnlyRegs (c.progData v) := by
  rw [Chip.progData_eq]
  exact (Chip.OnlyRegs.set rfl _ _).wr _ _

/-! ### Authentication (R111, R470) -/

/-- What an authentication answers: the first failing check, or 0. The public key must be loaded and the store not fenced. -/
theorem Chip.bankCheck_eq (c : Chip) (b : Nat) :
    let m := c.bankOf b
    let slot := bundleKey m
    let sig (k : Nat) : Nat := beNat ((List.range 32).map fun j => bankByte m (bundleLen m - 64 + 32 * k + j))
    let signed := slot < 8 ∧ slot ∈ c.sec.loaded ∧ c.get ⟨R.SEC.STATUS, 5, 3⟩ ≠ 2 ∧
      ecdsaOk (c.keyNumber slot 0 8) (c.keyNumber slot 8 8) (beNat (bundleDigest m)) (sig 0) (sig 1) = true
    c.bankCheck b = if digestOk m = false then 1 else if ¬signed then 2 else if bundleOk m 255 = false then 3
      else if bits (c.rd R.SYS.DEV_REV) 0 8 < bundleDieRev m then 4 else 0 := by
  intro m slot sig signed
  by_cases digest : digestOk m = false
  · simp only [Chip.bankCheck, m, digest, Bool.not_false, if_true]
  · have long : 96 ≤ bundleLen m := by
      simp only [digestOk, Bool.not_eq_false, Bool.and_eq_true, decide_eq_true_eq] at digest
      exact digest.1.1
    have half (j : Nat) : bundleLen m - 32 + j = bundleLen m - 64 + 32 * 1 + j := by omega
    have sign : c.signatureOk m = true ↔ signed := by
      simp only [Chip.signatureOk, half, signed, sig, slot, Bool.and_eq_true, decide_eq_true_eq, List.contains_iff_mem, bne_iff_ne,
        and_assoc, Nat.mul_zero, Nat.add_zero, ne_eq]
    simp only [Chip.bankCheck, digest, Bool.not_eq_true', ← Bool.not_eq_true, sign, m]

theorem Chip.bankCheck_lt (c : Chip) (b : Nat) : c.bankCheck b < 5 := by
  simp only [Chip.bankCheck]
  split_ifs <;> decide

theorem Chip.authCmd_eq (c : Chip) (src : Source) : c.authCmd { src := src, addr := R.NVM.AUTH_CMD, val := 1 } =
    if c.on F.NVM.AUTH_STAT.BUSY then c.reject { src := src, addr := R.NVM.AUTH_CMD, val := 1 } rState false
    else (c.wr R.NVM.AUTH_STAT 1).raise F.NVM.BANK_STAT.AUTH_BUSY := by
  have asked : ¬bits 1 0 1 = 0 := by decide
  simp only [Chip.authCmd, if_neg asked]

section
variable {c : Chip} {at_ : Nat}

theorem Chip.authDone_of_idle (idle : c.on F.NVM.AUTH_STAT.BUSY = false) : c.authDone at_ = c := by
  simp only [Chip.authDone, idle, Bool.not_false, if_true]

theorem Chip.authDone_of_fail (busy : c.on F.NVM.AUTH_STAT.BUSY = true) (fail : c.bankCheck c.inactive ≠ 0) : c.authDone at_ =
    ((((c.goto at_).clr F.NVM.BANK_STAT.AUTH_BUSY).wr R.NVM.AUTH_STAT (wd (2 + c.bankCheck c.inactive * 256))).raise
      (hSticky R.NVM.ID 2)).clr (bankValid c.inactive) := by
  simp only [Chip.authDone, busy, Bool.not_true, Bool.false_eq_true, if_false, if_neg fail]

theorem Chip.authDone_of_pass (busy : c.on F.NVM.AUTH_STAT.BUSY = true) (pass : c.bankCheck c.inactive = 0) : c.authDone at_ =
    (((((c.goto at_).clr F.NVM.BANK_STAT.AUTH_BUSY).wr R.NVM.AUTH_STAT 6).raise (hSticky R.NVM.ID 1)).bankPass c.inactive).tokenWrite := by
  simp only [Chip.authDone, busy, Bool.not_true, Bool.false_eq_true, if_false, if_pos pass]
end

/-- A failed authentication shows its check and leaves the bank invalid. -/
theorem Chip.authFail_shows (c : Chip) (at_ : Nat) {r : Nat} (hr : r < 5) {b : Nat} (hb : b < 2) :
    c.Shows (((((c.goto at_).clr F.NVM.BANK_STAT.AUTH_BUSY).wr R.NVM.AUTH_STAT (wd (2 + r * 256))).raise (hSticky R.NVM.ID 2)).clr
      (bankValid b)) [(whole R.NVM.AUTH_STAT, 2 + r * 256), (F.NVM.BANK_STAT.AUTH_BUSY, 0), (hSticky R.NVM.ID 2, 1), (bankValid b, 0)] := by
  have idle := (Chip.Shows.of_regs (c := c) (d := c.goto at_)).set (f := F.NVM.BANK_STAT.AUTH_BUSY) (x := 0) (by decide) (by decide) (by simp)
  have done := idle.wr_wd (a := R.NVM.AUTH_STAT) (x := 2 + r * 256) (by omega) (by simp [Fld.Apart, R.NVM.AUTH_STAT])
  have flag := done.raise (a := R.NVM.ID + 0x10) (i := 2) (by decide) (by simp [Fld.Apart, R.NVM.AUTH_STAT, R.NVM.ID])
  have invalid := flag.set (f := bankValid b) (x := 0) (by simp only; omega) (Nat.two_pow_pos _)
    (by simp [Fld.Apart, R.NVM.BANK_STAT, R.NVM.AUTH_STAT, R.NVM.ID]; omega)
  exact invalid.perm (List.Perm.swap _ _ _)

theorem Chip.authFail_onlyRegs (c : Chip) (at_ r b : Nat) : (c.goto at_).OnlyRegs (((((c.goto at_).clr F.NVM.BANK_STAT.AUTH_BUSY).wr
    R.NVM.AUTH_STAT (wd (2 + r * 256))).raise (hSticky R.NVM.ID 2)).clr (bankValid b)) :=
  (((Chip.OnlyRegs.set rfl _ _).wr _ _).raise _).set _ _

/-- What an authentication that passes shows. -/
theorem Chip.authPass_shows (c : Chip) (at_ : Nat) {b : Nat} (hb : b < 2) :
    c.Shows (((((c.goto at_).clr F.NVM.BANK_STAT.AUTH_BUSY).wr R.NVM.AUTH_STAT 6).raise (hSticky R.NVM.ID 1)).bankPass b)
      [(F.NVM.BANK_STAT.AUTH_BUSY, 0), (whole R.NVM.AUTH_STAT, 6), (hSticky R.NVM.ID 1, 1), (bankValid b, 1)] := by
  have idle := (Chip.Shows.of_regs (c := c) (d := c.goto at_)).set (f := F.NVM.BANK_STAT.AUTH_BUSY) (x := 0) (by decide) (by decide) (by simp)
  have done := idle.wr (a := R.NVM.AUTH_STAT) (v := 6) (by simp [Fld.Apart, R.NVM.AUTH_STAT])
  have flag := done.raise (a := R.NVM.ID + 0x10) (i := 1) (by decide) (by simp [Fld.Apart, R.NVM.AUTH_STAT, R.NVM.ID])
  have valid := flag.raise (a := R.NVM.BANK_STAT) (i := b) (by omega)
    (by simp [Fld.Apart, R.NVM.BANK_STAT, R.NVM.AUTH_STAT, R.NVM.ID]; omega)
  refine valid.congr ?_
  unfold Chip.bankPass
  split <;> rfl

/-- A digest of the configuration leaves the banks, their seals and the active bank. -/
theorem Chip.tokenWrite_banks (c : Chip) : c.tokenWrite.bankA = c.bankA ∧ c.tokenWrite.bankB = c.bankB ∧ c.tokenWrite.sealA = c.sealA ∧
    c.tokenWrite.sealB = c.sealB ∧ c.tokenWrite.active = c.active := by
  rcases c.tokenWrite_cases with h | h <;> rw [h] <;> and_intros <;> rfl

/-- The seal of a bank that has passed; the other bank's, and both images, are as before. -/
theorem Chip.bankPass_seals (c : Chip) (b : Nat) :
    (if b = 0 then (c.bankPass b).sealA else (c.bankPass b).sealB) = some { digest := bundleDigest (c.bankOf b), gen := c.genOf b } ∧
    (if b = 0 then (c.bankPass b).sealB = c.sealB else (c.bankPass b).sealA = c.sealA) ∧
    (c.bankPass b).bankA = c.bankA ∧ (c.bankPass b).bankB = c.bankB := by
  by_cases h : b = 0 <;> simp [Chip.bankPass, h]

/-- A bank that has passed, when the digest of the configuration is written. -/
theorem Chip.authPassed (c : Chip) (at_ : Nat) {b : Nat} (hb : b < 2) :
    let d := (((((c.goto at_).clr F.NVM.BANK_STAT.AUTH_BUSY).wr R.NVM.AUTH_STAT 6).raise (hSticky R.NVM.ID 1)).bankPass b).tokenWrite
    d.get (whole R.NVM.AUTH_STAT) = 6 ∧ d.on F.NVM.BANK_STAT.AUTH_BUSY = false ∧ d.on (hSticky R.NVM.ID 1) = true ∧ d.on (bankValid b) = true ∧
      (if b = 0 then d.sealA else d.sealB) = some { digest := bundleDigest (c.bankOf b), gen := c.genOf b } ∧
      (if b = 0 then d.sealB = c.sealB else d.sealA = c.sealA) ∧ d.bankA = c.bankA ∧ d.bankB = c.bankB := by
  intro d
  obtain ⟨shown, -⟩ := c.authPass_shows at_ hb
  have keeps {a lo len : Nat} (ha : a ≠ R.KENNEL.TOKEN ∧ a ≠ R.KENNEL.KSTAT) : d.get ⟨a, lo, len⟩ = _ := Chip.tokenWrite_get _ ha.1 ha.2
  obtain ⟨bankA, bankB, sealA, sealB, -⟩ :=
    ((((c.goto at_).clr F.NVM.BANK_STAT.AUTH_BUSY).wr R.NVM.AUTH_STAT 6).raise (hSticky R.NVM.ID 1)).bankPass b |>.tokenWrite_banks
  have seals := ((((c.goto at_).clr F.NVM.BANK_STAT.AUTH_BUSY).wr R.NVM.AUTH_STAT 6).raise (hSticky R.NVM.ID 1)).bankPass_seals b
  refine ⟨(keeps (by decide)).trans (shown (whole R.NVM.AUTH_STAT, 6) (by simp)), ?_, Chip.on_of_get ((keeps (by decide)).trans
    (shown (hSticky R.NVM.ID 1, 1) (by simp))), Chip.on_of_get ((keeps (by decide)).trans (shown (bankValid b, 1) (by simp))), ?_⟩
  · simp only [Chip.on, keeps (a := R.NVM.BANK_STAT) (lo := 3) (len := 1) (by decide), shown (F.NVM.BANK_STAT.AUTH_BUSY, 0) (by simp), bne_self_eq_false]
  · simp only [d, bankA, bankB, sealA, sealB]
    exact seals

/-! ### COMMIT_VERSION (R115) -/

section
variable {c : Chip} {src : Source}

theorem Chip.commitVersion_of_none (h : c.active = none) : c.commitVersion { src := src, addr := R.NVM.VER_CMD, val := 1 } =
    c.reject { src := src, addr := R.NVM.VER_CMD, val := 1 } rState false := by
  have asked : ¬bits 1 0 1 = 0 := by decide
  simp only [Chip.commitVersion, if_neg asked, Chip.bank, h, Option.map_none]

theorem Chip.commitVersion_of_some {n : Nat} (h : c.active = some n) : c.commitVersion { src := src, addr := R.NVM.VER_CMD, val := 1 } =
    if bundleVersion (c.bankOf n) ≤ (c.rd R.NVM.MIN_VERSION).toNat then c
    else (c.wr R.NVM.MIN_VERSION (wd (bundleVersion (c.bankOf n)))).tokenWrite := by
  have asked : ¬bits 1 0 1 = 0 := by decide
  have bank : c.bank = some (c.bankOf n) := by simp only [Chip.bank, h, Option.map_some, Chip.bankOf]
  simp only [Chip.commitVersion, if_neg asked, bank, max_eq_left_iff]
  split_ifs with low
  · rfl
  · rw [max_eq_right (Nat.le_of_not_le low)]
end

theorem bankLe_lt (m : Bank) (o n : Nat) : bankLe m o n < 256 ^ n := by
  have digits (l : List Nat) : l.foldr (fun k acc => bankByte m (o + k) + 256 * acc) 0 < 256 ^ l.length := by
    induction l with
    | nil => exact Nat.one_pos
    | cons k l ih =>
      have byte : bankByte m (o + k) < 2 ^ 8 := bits_lt ..
      rw [List.foldr_cons, List.length_cons, Nat.pow_succ]
      omega
  simpa [bankLe] using digits (List.range n)

/-- MIN_VERSION after a version is committed, with what a digest leaves. -/
theorem Chip.versionWritten (c : Chip) (m : Bank) :
    (((c.wr R.NVM.MIN_VERSION (wd (bundleVersion m))).tokenWrite).rd R.NVM.MIN_VERSION).toNat = bundleVersion m := by
  have fits : bundleVersion m < 2 ^ 32 := bankLe_lt m 12 4
  rw [← bits_whole]
  have kept := (c.wr R.NVM.MIN_VERSION (wd (bundleVersion m))).tokenWrite_get (f := whole R.NVM.MIN_VERSION) (by decide) (by decide)
  simp only [Chip.get, Chip.rd_wr_same, bits_whole] at kept ⊢
  rw [kept, BitVec.toNat_ofNat, Nat.mod_eq_of_lt fits]

/-! ### Data memories (R120) -/

theorem Chip.dmemOwner_eq (c : Chip) (p k : Nat) : c.dmemOwner p k = c.admitted.find? fun l =>
    c.get ((F.LPD.LPD_STATE.PAIR).win l) == p && decide (c.dbase l ≤ k) && decide (k < c.dbase l + c.dlen l) := by
  simp only [Chip.dmemOwner, Chip.loopsOn, List.find?_filter, Bool.and_assoc, ← Bool.and_eq_true, Bool.decide_eq_true]

section
variable {c : Chip} {src : Source} {p : Fin 36} {v : Word}

theorem Chip.dmemWrite_of_closed {l : Nat} (owner : c.dmemOwner p (bits (c.rd (R.CLE.DMEM_ADDR p)) 0 13) = some l)
    (closed : c.get (fState l) ≠ lsOpen) : c.dmemWrite { src := src, addr := R.CLE.DMEM_DATA p, val := v } =
      c.reject { src := src, addr := R.CLE.DMEM_DATA p, val := v } rState true := by
  simp only [Chip.dmemWrite, Acc.inst, (aInst_cle p).1, owner, bne_iff_ne, if_pos closed]

theorem Chip.dmemWrite_of_open (opened : ∀ l, c.dmemOwner p (bits (c.rd (R.CLE.DMEM_ADDR p)) 0 13) = some l → c.get (fState l) = lsOpen) :
    c.dmemWrite { src := src, addr := R.CLE.DMEM_DATA p, val := v } =
      (c.setPair p ((c.pair p).store (bits (c.rd (R.CLE.DMEM_ADDR p)) 0 13) v)).wr (R.CLE.DMEM_ADDR p)
        (wd ((bits (c.rd (R.CLE.DMEM_ADDR p)) 0 13 + 1) % 8192)) := by
  cases owner : c.dmemOwner p (bits (c.rd (R.CLE.DMEM_ADDR p)) 0 13) with
  | none => simp only [Chip.dmemWrite, Acc.inst, (aInst_cle p).1, owner, Bool.false_eq_true, if_false, Chip.updPair]
  | some l =>
    have stays : ¬c.get (fState l) ≠ lsOpen := not_not.2 (opened l owner)
    simp only [Chip.dmemWrite, Acc.inst, (aInst_cle p).1, owner, bne_iff_ne, if_neg stays, Chip.updPair]
end

/-! ### Shared SRAM (R121) -/

section
variable (c : Chip) (p : Fin 36)

theorem Chip.shmWrite_of_march (v : Word) (march : c.marchSlice = some (bits (c.rd (R.CLE.SHM_ADDR p)) 0 20 / 1024) ∨
    c.marchStand = some (bits (c.rd (R.CLE.SHM_ADDR p)) 0 20 / 1024)) :
    c.shmWrite p v = { c with marchBuf := Tab.set c.marchBuf 0 (bits (c.rd (R.CLE.SHM_ADDR p)) 0 20 % 1024) v }.shmNext p
      (bits (c.rd (R.CLE.SHM_ADDR p)) 0 20) := by
  simp only [Chip.shmWrite, Chip.shmWr, if_neg (Nat.not_le.2 (bits_lt ..)), if_pos march]

theorem Chip.shmWrite_of_idle (v : Word) (idle : ¬(c.marchSlice = some (bits (c.rd (R.CLE.SHM_ADDR p)) 0 20 / 1024) ∨
    c.marchStand = some (bits (c.rd (R.CLE.SHM_ADDR p)) 0 20 / 1024))) :
    c.shmWrite p v = { c with shm := Tab.set c.shm 0 (bits (c.rd (R.CLE.SHM_ADDR p)) 0 20) v }.shmNext p
      (bits (c.rd (R.CLE.SHM_ADDR p)) 0 20) := by
  simp only [Chip.shmWrite, Chip.shmWr, if_neg (Nat.not_le.2 (bits_lt ..)), if_neg idle]

theorem Chip.shmRead_of_single : c.shmRead p .single =
    (((c.shmNext p (bits (c.rd (R.CLE.SHM_ADDR p)) 0 20)).wr (R.CLE.ECC_INFO p) (wd (bits (c.rd (R.CLE.SHM_ADDR p)) 0 20))).raise
      (F.CLE.STICKY.ECC_CE p)).answer (c.shmRd (bits (c.rd (R.CLE.SHM_ADDR p)) 0 20)) := rfl

theorem Chip.shmRead_of_double : c.shmRead p .double =
    (((c.shmNext p (bits (c.rd (R.CLE.SHM_ADDR p)) 0 20)).wr (R.CLE.ECC_INFO p) (wd (bits (c.rd (R.CLE.SHM_ADDR p)) 0 20 + 2 ^ 20))).raise
      (F.CLE.STICKY.ECC_DED p)).answer 0 := rfl

theorem Chip.shmRead_of_clean {f : MemFault} (single : f ≠ .single) (double : f ≠ .double) : c.shmRead p f =
    (c.shmNext p (bits (c.rd (R.CLE.SHM_ADDR p)) 0 20)).answer (c.shmRd (bits (c.rd (R.CLE.SHM_ADDR p)) 0 20)) := by
  cases f
  case single => exact absurd rfl single
  case double => exact absurd rfl double
  all_goals rfl

/-- A read of a memory answers a word, and shows what it changes in registers. -/
theorem Answers.of_answer {i : Instr} {s : State} {src : Source} {f : Chip → Chip} {d : Chip} {v : Word} {l : List (Fld × Nat)}
    (run : exec i s = s.nextRead src f) (isOpen : s.chip.portOpen src = true) (does : f s.chip = d.answer v) (hs : s.chip.Shows d l)
    (hd : s.chip.OnlyRegs d) : Answers i s s { s.chip with out := [v] } l := by
  refine .of_read run isOpen does (hs.congr rfl) ?_
  unfold Chip.OnlyRegs at hd ⊢
  generalize d.regs = r at hd
  subst hd
  rfl

/-- An address that moves on. -/
theorem Chip.Shows.next {c d : Chip} (h : d.regs = c.regs) (a k n : Nat) (hn : 0 < n) (hs : n ≤ 2 ^ 32) :
    c.Shows (d.wr a (wd ((k + 1) % n))) [(whole a, (k + 1) % n)] :=
  (Chip.Shows.of_regs h).wr_wd ((Nat.mod_lt _ hn).trans_le hs) (by simp)

/-- A read of SHM_DATA with an error records the word, with a bit that tells a double one, and its flag. -/
theorem Chip.shmError_shows (k e : Nat) (he : e < 2 ^ 32) (i : Nat) (hi : i < 32) :
    c.Shows (((c.shmNext p k).wr (R.CLE.ECC_INFO p) (wd e)).raise (bitOf (R.CLE.STICKY p) i))
      [(whole (R.CLE.SHM_ADDR p), (k + 1) % 2 ^ 20), (whole (R.CLE.ECC_INFO p), e), (bitOf (R.CLE.STICKY p) i, 1)] := by
  have moved : c.Shows (c.shmNext p k) [(whole (R.CLE.SHM_ADDR p), (k + 1) % 2 ^ 20)] := .next rfl _ _ _ (by decide) (by decide)
  have word := moved.wr_wd he (a := R.CLE.ECC_INFO p) (by simp [Fld.Apart])
  exact word.raise hi (by simp [Fld.Apart])
end

end Sys2Proof.Machine
end

section
/-! Banks, and memories that the host reaches. -/

namespace Sys2Proof.Machine

/-- Settles O55: each clause is one case of its command, by the law of that case. -/
theorem banksAndMemoriesAreReachedByTheHost : Obligations.BanksAndMemoriesAreReachedByTheHost := by
  intro s c b valid m gen
  obtain ⟨data_takes, auth_takes, ver_takes⟩ := takesWrites_nvm
  have word {p : Fin 36} : bits (c.rd (R.CLE.SHM_ADDR p)) 0 20 < 2 ^ 20 := bits_lt ..
  refine ⟨fun src v lets => ?progData, fun src lets => ⟨fun busy => ?authRefused, fun idle => ?authStarts⟩,
    fun at_ => ?authDone, fun src lets => ⟨fun none => ?noBank, fun n bank => ⟨fun low => ?oldVersion, fun high => ?newVersion⟩⟩,
    fun src p v lets => ⟨fun l owner closed => ?dmemClosed, fun opened => ?dmemOpen⟩,
    fun src p v lets => ⟨fun march => ?shmMarch, fun idle => ?shmIdle⟩,
    fun src p lets => ?slotClear,
    fun src p => ⟨fun closed => ⟨?dmemShut, ?pmemShut, fun f => ?shmShut⟩,
      fun isOpen => ⟨?dmemRead, ?pmemRead, ?shmSingle, ?shmDouble, fun f single double => ?shmClean⟩⟩⟩
  case progData =>
    exact .of_gated rfl ⟨lets, data_takes⟩ (Nvm.onWrite_progData ..) (c.progData_shows v) (c.progData_onlyRegs v)
  case authRefused =>
    exact .of_gated rfl ⟨lets, auth_takes⟩ ((Nvm.onWrite_authCmd ..).trans ((c.authCmd_eq src).trans (if_pos busy))) (by decide)
  case authStarts =>
    have starts := ((Chip.Shows.of_regs (c := c)).wr (a := R.NVM.AUTH_STAT) (v := 1) (by simp)).raise (a := R.NVM.BANK_STAT) (i := 3)
      (by decide) (by simp [Fld.Apart, R.NVM.AUTH_STAT, R.NVM.BANK_STAT])
    exact .of_gated rfl ⟨lets, auth_takes⟩ ((Nvm.onWrite_authCmd ..).trans ((c.authCmd_eq src).trans (if_neg (by simp [idle])))) starts
  case authDone =>
    intro i slot sig signed r
    have check : c.bankCheck c.inactive = r := c.bankCheck_eq b
    refine ⟨fun idle => ?_, fun busy fail => ?_, fun busy pass => ?_⟩
    · exact .of_onChip rfl (Chip.authDone_of_idle idle)
    · have fails := Chip.authDone_of_fail (at_ := at_) busy (check ▸ fail)
      rw [check] at fails
      exact .of_onChip rfl fails (c.authFail_shows at_ (check ▸ c.bankCheck_lt _) c.inactive_lt) (c.authFail_onlyRegs ..)
    · refine .of_onChip rfl (Chip.authDone_of_pass busy (check.trans pass)) (c.authPassed at_ c.inactive_lt)
  case noBank =>
    exact .of_gated rfl ⟨lets, ver_takes⟩ ((Nvm.onWrite_commitVersion ..).trans (Chip.commitVersion_of_none none)) (by decide)
  case oldVersion =>
    exact .of_gated rfl ⟨lets, ver_takes⟩ ((Nvm.onWrite_commitVersion ..).trans ((Chip.commitVersion_of_some bank).trans (if_pos low))) .of_regs
  case newVersion =>
    refine .of_gated rfl ⟨lets, ver_takes⟩
      ((Nvm.onWrite_commitVersion ..).trans ((Chip.commitVersion_of_some bank).trans (if_neg (Nat.not_le.2 high)))) ?_
    obtain ⟨-, -, -, -, active⟩ := (c.wr R.NVM.MIN_VERSION (wd (bundleVersion (c.bankOf n)))).tokenWrite_banks
    exact ⟨c.versionWritten _, active, Chip.tokenWrite_st _⟩
  case dmemClosed =>
    have owns := (c.dmemOwner_eq p (bits (c.rd (R.CLE.DMEM_ADDR p)) 0 13)).trans owner
    exact .of_gated rfl ⟨lets, (takesWrites_cle p).1⟩ ((Cle.onWrite_dmemData ..).trans (Chip.dmemWrite_of_closed owns closed)) (by decide)
  case dmemOpen =>
    have opens := (c.dmemOwner_eq p (bits (c.rd (R.CLE.DMEM_ADDR p)) 0 13)) ▸ opened
    exact .of_gated rfl ⟨lets, (takesWrites_cle p).1⟩ ((Cle.onWrite_dmemData ..).trans (Chip.dmemWrite_of_open opens))
      (.next rfl _ _ _ (by decide) (by decide))
  case shmMarch =>
    exact .of_gated rfl ⟨lets, (takesWrites_cle p).2.1⟩ ((Cle.onWrite_shmData ..).trans (c.shmWrite_of_march p v march))
      (.next rfl _ _ _ (by decide) (by decide))
  case shmIdle =>
    exact .of_gated rfl ⟨lets, (takesWrites_cle p).2.1⟩ ((Cle.onWrite_shmData ..).trans (c.shmWrite_of_idle p v idle))
      (.next rfl _ _ _ (by decide) (by decide))
  case slotClear =>
    exact .of_gated rfl ⟨lets, (takesWrites_cle p).2.2⟩ (Cle.onWrite_slotClr ..) ((Chip.Shows.of_regs).wr (by simp))
  case dmemShut | pmemShut | shmShut => exact .of_closedRead rfl closed
  case dmemRead => exact .of_answer rfl isOpen rfl (.next rfl _ _ _ (by decide) (by decide)) (.wr rfl _ _)
  case pmemRead => exact .of_answer rfl isOpen rfl (.next rfl _ _ _ (by decide) (by decide)) (.wr rfl _ _)
  case shmSingle =>
    exact .of_answer rfl isOpen (c.shmRead_of_single p) (c.shmError_shows p _ _ (word.trans (by decide)) 5 (by decide))
      (((Chip.OnlyRegs.wr rfl _ _).wr _ _).raise _)
  case shmDouble =>
    exact .of_answer rfl isOpen (c.shmRead_of_double p) (c.shmError_shows p _ _ (by have := word (p := p); omega) 6 (by decide))
      (((Chip.OnlyRegs.wr rfl _ _).wr _ _).raise _)
  case shmClean =>
    exact .of_answer rfl isOpen (c.shmRead_of_clean p single double) (.next rfl _ _ _ (by decide) (by decide)) (.wr rfl _ _)

end Sys2Proof.Machine
end

section
/-! SUPPORT. What a mismatch does around its event record, whose code and payload are free values. -/

namespace Sys2Proof.Machine

/-- A mismatch up to its event record: place, kind and time, the count and the flag (R160). -/
def Chip.mismatchNoted (c : Chip) (p kind : Nat) (who : Option (Nat × Nat)) (addr space : Nat) : Chip :=
  let info := match who with
    | some (l, s) => kind + s * 2 ^ 4 + l * 2 ^ 8 + 2 ^ 17
    | none => kind
  let c1 := (c.wr (R.PAIRCMP.MISMATCH_INFO p) (wd info)).wr (R.PAIRCMP.MISMATCH_ADDR p) (wd (addr % 2 ^ 20 + space * 2 ^ 20))
  let c2 := c1.set64 (R.PAIRCMP.MISMATCH_ST_LO p) (R.PAIRCMP.MISMATCH_ST_HI p) c.st
  (c2.inc (if kind = kSignature then F.PAIRCMP.MISMATCH_CNT.LATENT p else F.PAIRCMP.MISMATCH_CNT.EXEC p)).raise
    (hSticky (R.PAIRCMP.ID p) (kindSticky kind))

/-- A mismatch after its event record: the report, and the evacuation unless a sequence runs (R160). -/
def Chip.mismatchFollows (c : Chip) (p kind : Nat) : Chip :=
  let d := c.report 22 p
  let st := d.get (F.PAIRCMP.STATUS.STATE p)
  if st = psIdle ∨ st = psComparing ∨ st = psReserve then d.beginEvac p (if kind = kSignature then cauLatent else cauMismatch) else d

theorem Chip.mismatch_eq (c : Chip) (p kind : Nat) (who : Option (Nat × Nat)) (addr space : Nat) :
    c.mismatch p kind who addr space = ((c.mismatchNoted p kind who addr space).recordOpen 4 0).mismatchFollows p kind := rfl

@[simp] theorem Chip.mismatchNoted_parts (c : Chip) (p kind : Nat) (who : Option (Nat × Nat)) (addr space : Nat) :
    (c.mismatchNoted p kind who addr space).parts = c.parts := by
  unfold Chip.mismatchNoted Chip.set64
  rw [Chip.raise_parts, Chip.inc_parts, Chip.wr_parts, Chip.wr_parts, Chip.wr_parts, Chip.wr_parts]

/-- A record joins an empty recorder, whatever its code: only the partitions change, and the count of free values. -/
theorem Chip.recordOpen_of_empty (c : Chip) (src kind : Nat) (empty : c.parts = []) :
    c.recordOpen src kind = { c with fresh := c.fresh + 1, parts := (c.recordOpen src kind).parts } := by
  have room (p : Nat) : ¬queueLen p ≤ ([] : List Rec).length := by
    unfold queueLen
    split <;> decide
  have part (p : Nat) : c.draw.2.part p = {} := by simp [Chip.part, empty, Tab.at]
  simp only [Chip.recordOpen, Chip.record, Chip.recordIn, Chip.recordNew, part, if_neg (room _)]
  rfl

/-- With an empty recorder, a mismatch of the running iteration can be followed through. -/
theorem Chip.runMismatch_of_empty (c : Chip) (p : Nat) (r : RunSt) (kind addr space : Nat) (empty : (c.abandon p r).parts = []) :
    c.runMismatch p r kind addr space =
      let d := (c.abandon p r).mismatchNoted p kind (some (r.loop, r.slot)) addr space
      ({ d with fresh := d.fresh + 1, parts := (d.recordOpen 4 0).parts } : Chip).mismatchFollows p kind := by
  rw [Chip.runMismatch, Chip.mismatch_eq]
  exact congrArg (Chip.mismatchFollows · p kind) (Chip.recordOpen_of_empty _ 4 0 ((Chip.mismatchNoted_parts ..).trans empty))

/-! ### Instructions that end in a mismatch -/

section
variable {c : Chip} {p : Nat} {r : RunSt}

/-- An instruction whose word shows a parity error is a mismatch (R87, R151). -/
theorem Chip.charged_of_parity {cs : Cores} {b : Bool} (wu : CoreSt → Nat) (f : RunSt → Chip → Chip) (executes : c.executing p = some r)
    (error : cs.fetchError = some b) : c.charged p cs wu f = c.runMismatch p r (if b then kParityB else kParityA)
      (c.get ((F.CLE.SLOT_PMEM.PBASE p).win r.slot) + (if b then (c.pair p).b.pc else (c.pair p).a.pc)) 3 := by
  simp only [Chip.charged, executes, Chip.badFetch, error, Chip.fetchFails]

/-- Under a true guard on every core that executes, an instruction acts for these cores. -/
theorem Chip.underGuard_of_acting {cs act : Cores} {g : Nat} (f : Cores → Chip → Chip) (acting : (c.pair p).acting cs g = some act) :
    c.underGuard p cs g f = f act (c.updPair p fun x => x.onCores cs fun b y => if act.has b then y else y.next) := by
  simp only [Chip.underGuard, acting]

/-- An LD from the data segment that meets a parity error of core A is a mismatch at that word (R87). -/
theorem Chip.cleLd_of_parityA {cs : Cores} {rd rb : Nat} {ofs : BitVec 12} (acts : cs.hasA = true)
    (inside : c.inRange r.loop false ((c.pair p).a.index rb ofs) = true) : c.cleLd p r cs rd rb false ofs .parityA =
      c.runMismatch p r kParityA (c.dbase r.loop + ((c.pair p).a.index rb ofs).toNat) 1 := by
  have reads : (MemFault.parityA == MemFault.parityA &&
      (cs.has false && !false && c.inRange r.loop false (((c.pair p).core false).index rb ofs))) = true := by
    simp [Cores.has, acts, PairSt.core, inside]
  exact if_pos reads

/-- An END in time, with both cores at one offset and room for its work units, ends the plain pass (R127, R495). -/
theorem Chip.cleEndAt_of_timely {at_ : Nat} (lib : LibIter) (executes : c.executing p = some r) (plain : r.phase = .plain)
    (timely : ¬c.deadlineAt r.loop r.trig < max c.st at_) (together : (c.pair p).a.pc = (c.pair p).b.pc)
    (fetched : c.badFetch p r .both = none) (room : (c.pair p).Each .both fun x => x.wu + 4 ≤ c.slotCost p r) :
    c.cleEndAt p at_ lib =
      ((c.goto at_).updPair p fun x => x.onCores .both fun _ y => { y with wu := y.wu + 4 }).endPlain p r lib := by
  have charged := (c.goto at_).charged_of_run p .both 4
    (fun r c => if r.phase = .speculative then c.endSpeculative p r lib else c.endPlain p r lib) (r := r) executes fetched room
  have notSpeculative : r.phase ≠ .speculative := by simp [plain]
  simp only [if_neg notSpeculative] at charged
  have pcs : ¬((c.goto at_).pair p).a.pc ≠ ((c.goto at_).pair p).b.pc := not_not.2 together
  simp only [Chip.cleEndAt, executes, if_neg timely, if_neg pcs, charged]

/-- Lists that differ are a mismatch at the first entry that differs (R148, R149). -/
theorem Chip.endPlain_of_diff (lib : LibIter) {e : Entry} (insideA : (c.pair p).a.memRej = none) (insideB : (c.pair p).b.memRej = none)
    (differ : r.firstDiff (comparedList r.adiv (c.pair p).a.list) (comparedList r.adiv (c.pair p).b.list) = some e) :
    c.endPlain p r lib = c.entryMismatch p r e := by
  simp only [Chip.endPlain, insideA, insideB, Chip.finish, differ, Option.isNone_some, Bool.false_eq_true, if_false]

/-- A NOP whose word shows a parity error of core A ends in a mismatch at its program-memory word (R87). -/
theorem exec_cleNop_of_parityA {s : State} {p : Fin 36} {g : Fin 8} (executes : s.chip.executing p = some r) :
    exec (.cleNop p .parityA g) s = .next { s with
      chip := s.chip.runMismatch p r kParityA (s.chip.get ((F.CLE.SLOT_PMEM.PBASE p).win r.slot) + (s.chip.pair p).a.pc) 3 } := by
  refine exec_of_onChip (f := fun c => c.cleOp p .parityA g 1 id) rfl ?_
  unfold Chip.cleOp
  rw [Chip.charged_of_parity (b := false) _ _ executes rfl]
  simp only [Bool.false_eq_true, if_false]

/-- The device as an instruction acts in it on both cores: its work units are charged, under true guards. -/
def Chip.acted (c : Chip) (p wu : Nat) : Chip :=
  (c.updPair p fun x => x.onCores .both fun _ y => { y with wu := y.wu + wu }).updPair p
    fun x => x.onCores .both fun b y => if Cores.both.has b then y else y.next

/-- An LD from the data segment that meets a parity error of core A ends in a mismatch at that word (R87). -/
theorem exec_cleLd_of_parityA {s : State} {p : Fin 36} {g : Fin 8} {rd rb : Fin 32} {ofs : BitVec 12} (executes : s.chip.executing p = some r)
    (fetched : s.chip.badFetch p r .both = none) (room : (s.chip.pair p).Each .both fun x => x.wu + 2 ≤ s.chip.slotCost p r)
    (acting : ((s.chip.updPair p fun x => x.onCores .both fun _ y => { y with wu := y.wu + 2 }).pair p).acting .both g = some .both)
    (inside : (s.chip.acted p 2).inRange r.loop false (((s.chip.acted p 2).pair p).a.index rb ofs) = true) :
    exec (.cleLd p .both g rd rb false ofs .parityA) s = .next { s with
      chip := (s.chip.acted p 2).runMismatch p r kParityA
        ((s.chip.acted p 2).dbase r.loop + (((s.chip.acted p 2).pair p).a.index rb ofs).toNat) 1 } := by
  refine exec_of_onChip (f := fun c => c.charged p .both (fun _ => 2) fun r c => c.underGuard p .both g fun act c =>
    c.cleLd p r act rd rb false ofs .parityA) rfl ?_
  rw [Chip.charged_of_run _ _ _ _ _ executes fetched room, Chip.underGuard_of_acting _ acting]
  exact Chip.cleLd_of_parityA rfl inside

/-- The device as an END meets the commit lists. -/
def Chip.listsMeet (c : Chip) (p at_ : Nat) : Chip :=
  (c.goto at_).updPair p fun x => x.onCores .both fun _ y => { y with wu := y.wu + 4 }

/-- An END whose lists differ ends in a mismatch at the first entry that differs (R148, R149). -/
theorem exec_cleEnd_of_diff {s : State} {p : Fin 36} {at_ : Nat} {e : Entry} (executes : s.chip.executing p = some r)
    (plain : r.phase = .plain) (timely : ¬s.chip.deadlineAt r.loop r.trig < max s.chip.st at_)
    (together : (s.chip.pair p).a.pc = (s.chip.pair p).b.pc) (fetched : s.chip.badFetch p r .both = none)
    (room : (s.chip.pair p).Each .both fun x => x.wu + 4 ≤ s.chip.slotCost p r)
    (insideA : ((s.chip.listsMeet p at_).pair p).a.memRej = none) (insideB : ((s.chip.listsMeet p at_).pair p).b.memRej = none)
    (differ : r.firstDiff (comparedList r.adiv ((s.chip.listsMeet p at_).pair p).a.list)
      (comparedList r.adiv ((s.chip.listsMeet p at_).pair p).b.list) = some e) :
    exec (.cleEnd p at_ .none) s = .next { s with chip := (s.chip.listsMeet p at_).entryMismatch p r e } := by
  refine exec_of_onChip (f := fun c => c.cleEndAt p at_ .none) rfl ?_
  rw [Chip.cleEndAt_of_timely .none executes plain timely together fetched room]
  exact Chip.endPlain_of_diff .none insideA insideB differ
end

end Sys2Proof.Machine
end

section
/-! A mismatch of a pair one of whose loops is to migrate to a pair that the device does not have. -/

namespace Sys2Proof.Machine

/-- The iteration that pair 0 runs. -/
def strayRun : RunSt := { loop := 0, slot := 0, trig := 0 }

/-- Loop 0 is admitted on pair 0, which runs it with two commit lists that differ. Its migration names pair 128 as the destination,
whose MEM_FREE would stand where MISMATCH_INFO of pair 0 stands. -/
def strayMigration : State :=
  let c : Chip :=
    { admitted := [0]
      pairs := [(0, { run := some strayRun, a := { list := [.store 0 1] }, b := { list := [.store 0 2] } })]
      loops := [(0, { mig := some (128, 0) })] }
  { chip := (c.wr (win 0 (R.CLE.SLOT_COST 0)) 24).set ((F.CLE.SLOT_DMEM.DLEN 0).win 0) 1 }

/-- A mismatch of the iteration on a device gives up the migration, and its destination's MEM_FREE overwrites MISMATCH_INFO. -/
def Chip.Overwrites (c : Chip) (kind addr space : Nat) : Prop :=
  (c.runMismatch 0 strayRun kind addr space).rd (R.PAIRCMP.MISMATCH_INFO 0) ≠
    wd (kind + strayRun.slot * 2 ^ 4 + strayRun.loop * 2 ^ 8 + 2 ^ 17)

/-- A command that ends in such a mismatch is not one that O17, O18 and O20 take every mismatch to be. -/
theorem not_mismatches_of_overwrites {i : Instr} {s : State} {c : Chip} {kind addr space : Nat} (overwrites : c.Overwrites kind addr space)
    (run : exec i s = .next { s with chip := c.runMismatch 0 strayRun kind addr space }) :
    ¬Mismatches i 0 s strayRun kind addr space := by
  rintro ⟨t, ended, info, -⟩
  injection run.symm.trans ended with next
  rw [← next] at info
  exact overwrites info

/-- The pair runs the iteration with no fetch fault, has room for 4 work units and stands at offset 0 before its deadline. -/
theorem strayMigration_runs : strayMigration.chip.executing 0 = some strayRun ∧
    strayMigration.chip.badFetch 0 strayRun .both = none ∧
    ((strayMigration.chip.pair 0).a.wu + 4 ≤ strayMigration.chip.slotCost 0 strayRun ∧
      (strayMigration.chip.pair 0).b.wu + 4 ≤ strayMigration.chip.slotCost 0 strayRun) ∧
    ¬strayMigration.chip.deadlineAt 0 0 < max strayMigration.chip.st 0 := by decide +kernel

theorem strayMigration_canRun {wu : Nat} (less : wu ≤ 4) : strayMigration.chip.CanRun 0 .both wu := by
  obtain ⟨executes, fetched, ⟨roomA, roomB⟩, -⟩ := strayMigration_runs
  exact ⟨strayRun, executes, fetched, fun _ => by omega, fun _ => by omega⟩

theorem strayMigration_overwrites : strayMigration.chip.Overwrites kParityA 0 3 := by
  rw [Chip.Overwrites, Chip.runMismatch_of_empty _ _ _ _ _ _ (List.isEmpty_iff.1 (by decide +kernel))]
  decide +kernel

theorem strayMigration_acted_overwrites : (strayMigration.chip.acted 0 2).Overwrites kParityA 0 1 := by
  rw [Chip.Overwrites, Chip.runMismatch_of_empty _ _ _ _ _ _ (List.isEmpty_iff.1 (by decide +kernel))]
  decide +kernel

theorem strayMigration_listsMeet_overwrites : (strayMigration.chip.listsMeet 0 0).Overwrites kCommit 0 1 := by
  rw [Chip.Overwrites, Chip.runMismatch_of_empty _ _ _ _ _ _ (List.isEmpty_iff.1 (by decide +kernel))]
  decide +kernel

/-- The addresses at which the mismatches are. -/
theorem strayMigration_places :
    strayMigration.chip.get ((F.CLE.SLOT_PMEM.PBASE 0).win strayRun.slot) + (strayMigration.chip.pair 0).a.pc = 0 ∧
    (strayMigration.chip.acted 0 2).dbase strayRun.loop + (((strayMigration.chip.acted 0 2).pair 0).a.index 0 0).toNat = 0 ∧
    strayMigration.chip.dbase strayRun.loop + ((strayMigration.chip.pair 0).a.val 0 + (0 : BitVec 12).toInt).toNat = 0 ∧
    (strayMigration.chip.listsMeet 0 0).dbase strayRun.loop + 0 = 0 := by decide +kernel

/-- The load reads the loop's word 0. -/
theorem strayMigration_loads :
    ((strayMigration.chip.updPair 0 fun x => x.onCores .both fun _ y => { y with wu := y.wu + 2 }).pair 0).acting .both 0 = some .both ∧
    (strayMigration.chip.acted 0 2).inRange strayRun.loop false (((strayMigration.chip.acted 0 2).pair 0).a.index 0 0) = true := by
  decide +kernel

/-- Both guards are true. -/
theorem strayMigration_guards : (strayMigration.chip.pair 0).Each .both fun x => x.getP 0 = true := ⟨fun _ => rfl, fun _ => rfl⟩

/-- Word 0 is in the loop's data segment, on both cores. -/
theorem strayMigration_inData : (strayMigration.chip.pair 0).Each .both fun y =>
    0 ≤ y.val 0 + (0 : BitVec 12).toInt ∧ y.val 0 + (0 : BitVec 12).toInt < strayMigration.chip.dlen strayRun.loop :=
  ⟨fun _ => by decide +kernel, fun _ => by decide +kernel⟩

/-- No access was rejected, and the lists differ in their first entry. -/
theorem strayMigration_differs : ((strayMigration.chip.listsMeet 0 0).pair 0).a.memRej = none ∧
    ((strayMigration.chip.listsMeet 0 0).pair 0).b.memRej = none ∧
    strayRun.firstDiff (comparedList strayRun.adiv ((strayMigration.chip.listsMeet 0 0).pair 0).a.list)
      (comparedList strayRun.adiv ((strayMigration.chip.listsMeet 0 0).pair 0).b.list) = some (.store 0 1) := by decide +kernel

/-- Refutes O18: a fetched word with a parity error is a mismatch, but where a loop of the pair is to migrate to pair 128, which does
not exist, the record of it is overwritten as the evacuation gives the migration up. The statement is about every state; the
migrations that the model starts choose among the 36 pairs, so this is not a state to expect in a run. -/
theorem not_loopsSkipsAndBudgetsOrderExecution : ¬Obligations.LoopsSkipsAndBudgetsOrderExecution := by
  rintro ⟨-, -, -, -, -, fetches, -⟩
  obtain ⟨executes, -⟩ := strayMigration_runs
  obtain ⟨place, -⟩ := strayMigration_places
  obtain ⟨mismatches, -⟩ := fetches 0 0 strayRun strayMigration executes
  have ends := exec_cleNop_of_parityA (p := 0) (g := 0) executes
  rw [Fin.val_zero, place] at ends mismatches
  exact not_mismatches_of_overwrites strayMigration_overwrites ends mismatches

/-- Refutes O17: a parity error of a loaded word is a mismatch, whose record a stray migration overwrites; see
`not_loopsSkipsAndBudgetsOrderExecution`. -/
theorem not_loadsAndStoresKeepToTheLoopsMemory : ¬Obligations.LoadsAndStoresKeepToTheLoopsMemory := by
  intro settled
  obtain ⟨executes, fetched, ⟨roomA, roomB⟩, -⟩ := strayMigration_runs
  obtain ⟨-, place, stated, -⟩ := strayMigration_places
  obtain ⟨acting, inside⟩ := strayMigration_loads
  obtain ⟨loads, -⟩ := settled 0 .both 0 0 0 0 0 strayRun strayMigration executes strayMigration_guards
  obtain ⟨data, -⟩ := loads (strayMigration_canRun (by decide))
  obtain ⟨-, -, mismatches, -⟩ := data strayMigration_inData
  have ends := exec_cleLd_of_parityA (p := 0) (g := 0) (rd := 0) (rb := 0) executes fetched
    ⟨fun _ => (Nat.le_add_right _ 2).trans roomA, fun _ => (Nat.le_add_right _ 2).trans roomB⟩ acting inside
  have mismatches : Mismatches _ 0 strayMigration strayRun kParityA
    (strayMigration.chip.dbase strayRun.loop + ((strayMigration.chip.pair 0).a.val 0 + (0 : BitVec 12).toInt).toNat) 1 := mismatches rfl
  rw [Fin.val_zero, Fin.val_zero, place] at ends
  rw [stated] at mismatches
  exact not_mismatches_of_overwrites strayMigration_acted_overwrites ends mismatches

/-- Refutes O20: two commit lists that differ are a mismatch, whose record a stray migration overwrites; see
`not_loopsSkipsAndBudgetsOrderExecution`. -/
theorem not_endCommitsTheIterationAsOne : ¬Obligations.EndCommitsTheIterationAsOne := by
  rintro ⟨ends, -⟩
  obtain ⟨executes, fetched, ⟨roomA, roomB⟩, timely⟩ := strayMigration_runs
  obtain ⟨-, -, -, place⟩ := strayMigration_places
  obtain ⟨insideA, insideB, differ⟩ := strayMigration_differs
  obtain ⟨-, -, lists⟩ := ends 0 0 strayRun strayMigration executes rfl (not_lt.1 timely) rfl (strayMigration_canRun (by decide))
  obtain ⟨mismatches, -⟩ := lists rfl rfl rfl rfl
  have mismatches := mismatches 0 1 2 [] [] rfl rfl (by decide)
  have ended := exec_cleEnd_of_diff (p := 0) (at_ := 0) executes rfl timely rfl fetched ⟨fun _ => roomA, fun _ => roomB⟩ insideA insideB differ
  rw [Fin.val_zero, Chip.entryMismatch, place] at ended
  exact not_mismatches_of_overwrites strayMigration_listsMeet_overwrites ended mismatches

end Sys2Proof.Machine
end

section
/-! A WAITP whose limit comes while the value it waits for changes. -/

namespace Sys2Proof.Machine

/-- The iteration that waits at a WAITP for the angle of PFU 0, with a limit 1 µs later. -/
def angleWait : RunSt := { loop := 0, slot := 0, trig := 0, wait := some (1, 0x400, 25600) }

/-- The turning shaft, with pair 0 at this WAITP. -/
def waitingShaft : State := { turningShaft with chip := turningShaft.chip.setPair 0 { run := some angleWait } }

theorem waitingShaft_run : (waitingShaft.chip.pair 0).run = some angleWait := by decide +kernel

/-- The limit freezes the angle as it stands 1 µs later, and the shaft has turned since. -/
theorem waitingShaft_freezes : ((waitingShaft.chip.waitLimit 0).pair 0).run.map (fun r => r.frozen.map Frozen.val) ≠
    some [waitingShaft.chip.portVal 0x400] := by decide +kernel

/-- Refutes O19: the limit of a WAITP freezes the port's value at the limit's instant (R106), and the angle of a turning shaft is not
the one it was before. That the loader lets no WAITP name such a port does not stand in the statement. -/
theorem not_portsAreReadWrittenAndAwaited : ¬Obligations.PortsAreReadWrittenAndAwaited := by
  rintro ⟨-, -, -, -, -, waits⟩
  obtain ⟨-, t, ended, -, ⟨a, b, -, -, pair⟩, -⟩ := waits 0 angleWait 1 0x400 25600 waitingShaft waitingShaft_run rfl (by decide)
  have limit : exec (.cleWaitpLimit 0) waitingShaft = .next (waitingShaft.onChip fun c => c.waitLimit 0) := rfl
  injection limit.symm.trans ended with next
  rw [← next, State.onChip_chip] at pair
  refine waitingShaft_freezes ?_
  rw [Fin.val_zero] at pair
  rw [pair]
  rfl

end Sys2Proof.Machine
end

section
/-! SUPPORT. Commands of the loop window, a trigger of a loop that is alone on its pair, and the tolerances of the comparison page. -/

namespace Sys2Proof.Machine

/-! ### Where the commands stand -/

theorem lpdCmd_place (inst : Fin 36) : takesWrites (R.LPD.LPD_CMD + inst * 0x1000) = true ∧
    aOff (R.LPD.LPD_CMD + inst * 0x1000) = 0x808 ∧ aInst (R.LPD.LPD_CMD + inst * 0x1000) = inst := by
  revert inst; decide

theorem lpdSetpt_place (inst : Fin 36) : takesWrites (R.LPD.LPD_SETPT + inst * 0x1000) = true ∧
    aOff (R.LPD.LPD_SETPT + inst * 0x1000) = 0x824 ∧ aInst (R.LPD.LPD_SETPT + inst * 0x1000) = inst := by
  revert inst; decide

theorem cmpCfg_place (inst : Fin 36) : takesWrites (R.PAIRCMP.CMP_CFG inst) = true ∧ aOff (R.PAIRCMP.CMP_CFG inst) = 0x40 := by
  revert inst; decide

/-- A write of an OP to LPD_CMD of a loop window. -/
abbrev lpdCmdWrite (src : Source) (inst : Fin 36) (op : Nat) : Acc := { src := src, addr := R.LPD.LPD_CMD + inst * 0x1000, val := wd op }

/-- A write to LPD_SETPT of a loop window. -/
abbrev setptWrite (src : Source) (inst : Fin 36) (v : Word) : Acc := { src := src, addr := R.LPD.LPD_SETPT + inst * 0x1000, val := v }

theorem Lpd.onWrite_cmd (src : Source) (inst : Fin 36) (op : Nat) (c : Chip) :
    Lpd.onWrite (lpdCmdWrite src inst op) c = c.lpdCmd (lpdCmdWrite src inst op) (c.lpdSel inst) := by
  obtain ⟨-, off, at_⟩ := lpdCmd_place inst
  simp [Lpd.onWrite, Acc.off, Acc.inst, off, at_]

section
variable {i : Instr} {s : State} {src : Source} {inst : Fin 36} {op : Nat}
  (run : exec i s = .next (s.lpdWrite src inst op)) (lets : s.Lets src (R.LPD.LPD_CMD + inst * 0x1000))
include run lets

theorem Answers.of_lpdCmd {hidden d : Chip} {l : List (Fld × Nat)}
    (does : s.chip.lpdCmd (lpdCmdWrite src inst op) (s.chip.lpdSel inst) = d) (hs : s.chip.Shows d l) (hd : hidden.OnlyRegs d) :
    Answers i s (s.spent (R.LPD.LPD_CMD + inst * 0x1000)) hidden l :=
  .of_gated run ⟨lets, (lpdCmd_place inst).1⟩ ((Lpd.onWrite_cmd ..).trans does) hs hd

theorem Completes.of_lpdCmd {post : State → Prop} {d : Chip}
    (does : s.chip.lpdCmd (lpdCmdWrite src inst op) (s.chip.lpdSel inst) = d)
    (hp : post { s.spent (R.LPD.LPD_CMD + inst * 0x1000) with chip := d }) : Completes i s post :=
  .of_gated run ⟨lets, (lpdCmd_place inst).1⟩ ((Lpd.onWrite_cmd ..).trans does) hp

theorem RefusesWrite.of_lpdCmd {reason : Nat} (hr : reason < 256)
    (does : s.chip.lpdCmd (lpdCmdWrite src inst op) (s.chip.lpdSel inst) = s.chip.reject (lpdCmdWrite src inst op) reason false) :
    RefusesWrite i s src (R.LPD.LPD_CMD + inst * 0x1000) reason false :=
  .of_gated run ⟨lets, (lpdCmd_place inst).1⟩ ((Lpd.onWrite_cmd ..).trans does) hr
end

/-! ### State commands (R132, R133, Table 4.5) -/

section
variable {c : Chip} {l : Nat}

theorem Chip.transitionOk_closed (free : (c.loop l).held = false) : c.transitionOk l opClosed = true ↔
    c.get (fState l) = lsOpen ∧ c.on (fAdmitted l) = true ∧ c.on (fLoaded l) = true ∨ c.get (fState l) = lsHold := by
  simp [Chip.transitionOk, free, and_assoc]

theorem Chip.transitionOk_hold : c.transitionOk l opHold = true ↔ c.get (fState l) = lsClosed := by
  simp [Chip.transitionOk]

theorem Chip.transitionOk_open (free : (c.loop l).held = false) : c.transitionOk l opOpen = true ↔
    c.get (fState l) = lsClosed ∨ c.get (fState l) = lsFault ∨ c.get (fState l) = lsHold := by
  simp [Chip.transitionOk, free, or_assoc]

/-- CLOSED is not listed for a loop in OPEN that is not admitted, nor for one in CLOSED or FAULT. -/
theorem Chip.closed_unlisted (free : (c.loop l).held = false) (from_ : c.get (fState l) = lsOpen ∧ c.on (fAdmitted l) = false ∨
    c.get (fState l) = lsClosed ∨ c.get (fState l) = lsFault) : ¬c.transitionOk l opClosed = true := by
  rw [Chip.transitionOk_closed free]
  rcases from_ with ⟨opened, notAdmitted⟩ | closed | fault
  · simp [opened, notAdmitted]
  · simp [closed]
  · simp [fault]

/-- OPEN is not listed for a loop in OPEN. -/
theorem Chip.open_unlisted (free : (c.loop l).held = false) (opened : c.get (fState l) = lsOpen) :
    ¬c.transitionOk l opOpen = true := by
  rw [Chip.transitionOk_open free]
  simp [opened]

variable {w : Acc}

/-- TRIGGER is for a loop with TSRC = 6. -/
theorem Chip.lpdCmd_of_noTrigger (op : bits w.val 0 3 = opTrigger) (other : c.get (lf F.LPD.LPD_TRIG.TSRC l) ≠ 6) :
    c.lpdCmd w l = c.reject w rParam false := by
  simp [Chip.lpdCmd, op, other]

theorem Chip.lpdCmd_of_trigger (op : bits w.val 0 3 = opTrigger) (host : c.get (lf F.LPD.LPD_TRIG.TSRC l) = 6)
    (admitted : c.on (fAdmitted l) = true) : c.lpdCmd w l = c.trigger loopCount l c.st := by
  simp [Chip.lpdCmd, op, host, admitted]

theorem Chip.lpdCmd_of_reserved (op : bits w.val 0 3 = 0 ∨ 4 < bits w.val 0 3) : c.lpdCmd w l = c.reject w rParam false := by
  have noTrigger : bits w.val 0 3 ≠ opTrigger := by simp only [opTrigger]; omega
  simp [Chip.lpdCmd, noTrigger, op]

variable {op : Nat} (code : bits w.val 0 3 = op) (isState : 1 ≤ op ∧ op ≤ 3)
include code isState

/-- The checks of OPEN, CLOSED and HOLD, in their order. -/
theorem Chip.lpdCmd_of_state : c.lpdCmd w l =
    if (c.loop l).held then c.reject w rSafety false
    else if !c.transitionOk l op then c.reject w rState false
    else if op = opClosed ∧ c.get (fState l) = lsOpen ∧ !c.blocksOk l then c.reject w rParam false
    else if c.get (lf F.LPD.LPD_TRIG.TSRC l) = 6 then (c.setCmd l op (some (w.inst, w.src))).applyCmd l
    else c.setCmd l op (some (w.inst, w.src)) := by
  have noTrigger : op ≠ opTrigger := by simp only [opTrigger]; omega
  have listed : ¬(op = 0 ∨ 4 < op) := by omega
  simp only [Chip.lpdCmd, code, if_neg noTrigger, if_neg listed]

theorem Chip.lpdCmd_of_held (held : (c.loop l).held = true) : c.lpdCmd w l = c.reject w rSafety false := by
  rw [Chip.lpdCmd_of_state code isState, if_pos held]

variable (free : (c.loop l).held = false)
include free

theorem Chip.lpdCmd_of_unlisted (unlisted : ¬c.transitionOk l op = true) : c.lpdCmd w l = c.reject w rState false := by
  rw [Chip.lpdCmd_of_state code isState]
  simp [free, unlisted]

/-- A listed command of a loop that waits for its boundaries is kept for the next one. -/
theorem Chip.lpdCmd_of_listed (listed : c.transitionOk l op = true)
    (blocks : op = opClosed → c.get (fState l) = lsOpen → c.blocksOk l = true)
    (waits : c.get (lf F.LPD.LPD_TRIG.TSRC l) ≠ 6) : c.lpdCmd w l = c.setCmd l op (some (w.inst, w.src)) := by
  have inRange : ¬(op = opClosed ∧ c.get (fState l) = lsOpen ∧ (!c.blocksOk l) = true) := by
    rintro ⟨closed, opened, short⟩
    simp [blocks closed opened] at short
  rw [Chip.lpdCmd_of_state code isState, if_neg inRange, if_neg waits]
  simp [free, listed]
end

theorem Chip.setCmd_shows (c : Chip) (l op : Nat) (from_ : Option (Nat × Source)) :
    c.Shows (c.setCmd l op from_) [(fCmdPend l, 1)] :=
  (Chip.Shows.of_regs (c := c) (d := c.updLoop l fun x => { x with cmd := some (op, from_) })).raise (i := 4) (by decide) (by simp)

/-- OPEN, CLOSED or HOLD, listed and in range, waits with its window and source, and CMD_PEND is set (R132). -/
theorem Answers.of_waitingCmd {i : Instr} {s : State} {src : Source} {inst : Fin 36} {op : Nat}
    (run : exec i s = .next (s.lpdWrite src inst op)) (lets : s.Lets src (R.LPD.LPD_CMD + inst * 0x1000))
    (does : s.chip.lpdCmd (lpdCmdWrite src inst op) (s.chip.lpdSel inst) =
      s.chip.setCmd (s.chip.lpdSel inst) op (some (aInst (R.LPD.LPD_CMD + inst * 0x1000), src))) :
    Answers i s (s.spent (R.LPD.LPD_CMD + inst * 0x1000))
      (s.chip.updLoop (s.chip.lpdSel inst) fun x => { x with cmd := some (op, some (inst.val, src)) })
      [(fCmdPend (s.chip.lpdSel inst), 1)] := by
  rw [(lpdCmd_place inst).2.2] at does
  exact .of_lpdCmd run lets does (s.chip.setCmd_shows ..) rfl

/-! ### The first trigger of a loop that is alone on its pair (R126, R130) -/

/-- The device with a trigger of a loop accepted. -/
def Chip.triggered (c : Chip) (l at_ : Nat) : Chip :=
  c.updLoop l fun x => { x with lastTrig := some at_, trigCount := x.trigCount + 1 }

theorem Chip.updLoop_accepted (c : Chip) (l at_ : Nat) :
    (c.updLoop l fun x => { x with lastTrig := some at_, trigCount := x.trigCount + 1 }) = c.triggered l at_ := rfl

theorem Chip.loop_updLoop_same (c : Chip) (l : Nat) (f : LoopSt → LoopSt) : (c.updLoop l f).loop l = f (c.loop l) :=
  c.loop_setLoop_same l _

theorem Chip.loop_triggered (c : Chip) (l at_ : Nat) :
    (c.triggered l at_).loop l = { c.loop l with lastTrig := some at_, trigCount := (c.loop l).trigCount + 1 } :=
  c.loop_updLoop_same l _

theorem Chip.pair_updLoop (c : Chip) (l : Nat) (f : LoopSt → LoopSt) (p : Nat) : (c.updLoop l f).pair p = c.pair p := rfl

/-- What the pages of a pair show of it stands in the registers without a window. -/
theorem Chip.rd_showPair (c : Chip) {p a : Nat} (hp : p < 64) (windowed : 0x1000000 ≤ a) : (c.showPair p).rd a = c.rd a := by
  have cle : 0x18000C + p * 0x1000 ≠ a ∧ 0x180044 + p * 0x1000 ≠ a := by omega
  have cmp : 0x20000C + p * 0x1000 ≠ a ∧ 0x200078 + p * 0x1000 ≠ a := by omega
  simp [Chip.showPair, Chip.setb, Chip.rd_set, cle, cmp]

theorem Chip.showPair_onlyRegs (c : Chip) (p : Nat) : c.OnlyRegs (c.showPair p) :=
  ((((((Chip.OnlyRegs.set rfl _ _).set _ _).set _ _).set _ _).set _ _).set _ _).set _ _

section
variable {c d : Chip} (h : c.OnlyRegs d)
include h

theorem Chip.OnlyRegs.admitted : d.admitted = c.admitted := by rw [h]
theorem Chip.OnlyRegs.pair (n : Nat) : d.pair n = c.pair n := by rw [h]; rfl
theorem Chip.OnlyRegs.loop (n : Nat) : d.loop n = c.loop n := by rw [h]; rfl
end

section
variable {c : Chip} {l p at_ : Nat}

/-- A boundary at which nothing waits changes nothing. -/
theorem Chip.atBoundary_of_quiet (stays : (c.loop l).withdraw = false) (noCmd : (c.loop l).cmd = none)
    (noOpening : (c.loop l).sdOpen = false) (noMig : (c.loop l).mig = none)
    (sound : c.get (F.PAIRCMP.STATUS.STATE (c.get (fPair l))) ≠ psSuspect) : c.atBoundary l = c := by
  have migrates : c.migBoundary l = c := by simp [Chip.migBoundary, noMig, sound]
  simp [Chip.atBoundary, stays, migrates, Chip.applyCmd, noCmd, noOpening]

/-- Nor does the boundary of an accepted trigger at which nothing waits. -/
theorem Chip.triggered_quiet (stays : (c.loop l).withdraw = false) (noCmd : (c.loop l).cmd = none)
    (noOpening : (c.loop l).sdOpen = false) (noMig : (c.loop l).mig = none)
    (sound : c.get (F.PAIRCMP.STATUS.STATE (c.get (fPair l))) ≠ psSuspect) :
    (c.triggered l at_).atBoundary l = c.triggered l at_ :=
  Chip.atBoundary_of_quiet (by rw [Chip.loop_triggered, stays]) (by rw [Chip.loop_triggered, noCmd])
    (by rw [Chip.loop_triggered, noOpening]) (by rw [Chip.loop_triggered, noMig]) sound

theorem Chip.latchSetpt_of_register (src : c.get (lf F.LPD.LPD_SPSRC.SRC l) = 0) :
    c.latchSetpt l = c.updLoop l fun x => { x with setpt := c.rd (lpd l R.LPD.LPD_SETPT) } := by
  simp only [Chip.latchSetpt, src]

/-- An idle pair takes its only loop when that loop is ready. -/
theorem Chip.dispatch_of_only (idle : (c.pair p).run = none) (only : c.loopsOn p = [l]) (ready : (c.loop l).ready = some at_) :
    c.dispatch p = c.startRun p l at_ := by
  simp [Chip.dispatch, idle, only, ready]

/-- A loop in CLOSED that is alone on its idle pair begins its iteration at the trigger. -/
theorem Chip.startIteration_of_only (closed : c.get (fState l) = lsClosed) (idle : (c.pair (c.get (fPair l))).run = none)
    (only : c.loopsOn (c.get (fPair l)) = [l]) :
    c.startIteration l at_ = (c.updLoop l fun x => { x with ready := some at_ }).startRun (c.get (fPair l)) l at_ := by
  rw [Chip.startIteration, if_pos closed]
  exact Chip.dispatch_of_only idle only (congrArg LoopSt.ready (c.loop_updLoop_same l _))

theorem Chip.startRun_eq (c : Chip) (p l trig : Nat) : ∃ r : RunSt, r.loop = l ∧ r.trig = trig ∧ c.startRun p l trig =
    ((c.updPair p fun x => { x with a := CoreSt.fresh, b := CoreSt.fresh, run := some r }).updLoop l fun x =>
      { x with ready := none }).showPair p := ⟨_, rfl, rfl, rfl⟩

/-- A pair that begins an iteration runs it, and the loop is no longer ready. -/
theorem Chip.startRun_starts (c : Chip) (p l trig : Nat) :
    (∃ r, ((c.startRun p l trig).pair p).run = some r ∧ r.loop = l ∧ r.trig = trig) ∧
    (c.startRun p l trig).loop l = { c.loop l with ready := none } := by
  obtain ⟨r, loop, trig, starts⟩ := c.startRun_eq p l trig
  rw [starts, (Chip.showPair_onlyRegs _ p).pair, (Chip.showPair_onlyRegs _ p).loop, Chip.pair_updLoop, Chip.loop_updLoop_same]
  exact ⟨⟨r, congrArg PairSt.run (c.pair_setPair_same p _), loop, trig⟩, rfl⟩

/-- The beginning of an iteration leaves what is admitted and the descriptors of the loops. -/
theorem Chip.startRun_keeps (c : Chip) {p : Nat} (l trig : Nat) (hp : p < 64) :
    (c.startRun p l trig).admitted = c.admitted ∧ ∀ a, 0x1000000 ≤ a → (c.startRun p l trig).rd a = c.rd a := by
  obtain ⟨r, -, -, starts⟩ := c.startRun_eq p l trig
  rw [starts]
  exact ⟨(Chip.showPair_onlyRegs _ p).admitted, fun a windowed => Chip.rd_showPair _ hp windowed⟩

/-- The outer loop of a cascade depends on the admitted loops and their descriptors. -/
theorem Chip.outerOf_congr {d : Chip} (admitted : d.admitted = c.admitted) (regs : ∀ a, 0x1000000 ≤ a → d.rd a = c.rd a) :
    d.outerOf l = c.outerOf l := by
  have fields (f : Fld) (o : Nat) : d.get (lf f o) = c.get (lf f o) := by
    have windowed : 0x1000000 ≤ (lf f o).reg := by simp only [Fld.win, win]; omega
    simp only [Chip.get, regs _ windowed]
  simp only [Chip.outerOf, admitted, Chip.on, fields]

/-- A loop in CLOSED that is alone on its idle pair runs the iteration of its trigger. -/
theorem Chip.startIteration_starts (closed : c.get (fState l) = lsClosed) (idle : (c.pair (c.get (fPair l))).run = none)
    (only : c.loopsOn (c.get (fPair l)) = [l]) :
    (∃ r, ((c.startIteration l at_).pair (c.get (fPair l))).run = some r ∧ r.loop = l ∧ r.trig = at_) ∧
    ((c.startIteration l at_).loop l).lastTrig = (c.loop l).lastTrig ∧ (c.startIteration l at_).outerOf l = c.outerOf l := by
  obtain ⟨runs, loop⟩ := (c.updLoop l fun x => { x with ready := some at_ }).startRun_starts (c.get (fPair l)) l at_
  obtain ⟨admitted, regs⟩ := (c.updLoop l fun x => { x with ready := some at_ }).startRun_keeps l at_
    (bits_lt _ _ _ : c.get (fPair l) < 2 ^ 6)
  rw [Chip.startIteration_of_only closed idle only]
  refine ⟨runs, ?_, Chip.outerOf_congr admitted regs⟩
  rw [loop, Chip.loop_updLoop_same]

/-- A first trigger without a cascade starts the loop's iteration, with its set-point latched. -/
theorem Chip.trigger_of_first {fuel : Nat} (first : (c.loop l).lastTrig = none) (idle : c.busyLoop l = false)
    (quiet : (c.triggered l at_).atBoundary l = c.triggered l at_) (admitted : c.on (fAdmitted l) = true)
    (noOuter : (((c.triggered l at_).latchSetpt l).startIteration l at_).outerOf l = none) :
    c.trigger (fuel + 1) l at_ = ((c.triggered l at_).latchSetpt l).startIteration l at_ := by
  have early : c.tooEarly l at_ = false := by simp [Chip.tooEarly, first]
  have stays : (c.triggered l at_).on (fAdmitted l) = true := admitted
  simp only [Chip.trigger, early, idle, Bool.false_eq_true, if_false, Chip.updLoop_accepted, quiet]
  simp [stays, noOuter]
end

/-- TRIGGER of a loop that meets nothing beside its own iteration: the pair runs the iteration of this instant. -/
theorem Chip.trigger_starts {c : Chip} {l at_ fuel : Nat} (admitted : c.on (fAdmitted l) = true)
    (closed : c.get (fState l) = lsClosed) (idle : c.busyLoop l = false) (first : (c.loop l).lastTrig = none)
    (quiet : (c.triggered l at_).atBoundary l = c.triggered l at_) (src : c.get (lf F.LPD.LPD_SPSRC.SRC l) = 0)
    (noOuter : c.outerOf l = none) (only : c.loopsOn (c.get (fPair l)) = [l]) (rests : (c.pair (c.get (fPair l))).run = none) :
    (∃ r, ((c.trigger (fuel + 1) l at_).pair (c.get (fPair l))).run = some r ∧ r.loop = l ∧ r.trig = at_) ∧
    ((c.trigger (fuel + 1) l at_).loop l).lastTrig = some at_ := by
  have latched := Chip.latchSetpt_of_register (c := c.triggered l at_) src
  obtain ⟨runs, trig, outer⟩ := Chip.startIteration_starts (c := (c.triggered l at_).latchSetpt l) (l := l) (at_ := at_)
    (by rw [latched]; exact closed) (by rw [latched]; exact rests) (by rw [latched]; exact only)
  have noOuter : (((c.triggered l at_).latchSetpt l).startIteration l at_).outerOf l = none := by
    rw [outer, latched]
    exact noOuter
  rw [Chip.trigger_of_first first idle quiet admitted noOuter]
  rw [latched] at runs trig ⊢
  refine ⟨runs, trig.trans ?_⟩
  rw [Chip.loop_updLoop_same, Chip.loop_triggered]

/-! ### Set-points (R130) -/

/-- A windowed register has the row of its register. -/
theorem rowOf_win (k a : Nat) : rowOf (win k a) = rowOf a := by
  have low : win k a % 0x1000000 = a % 0x1000000 := by simp only [win]; omega
  have off : aOff (win k a) = aOff a := by simp only [aOff, win]; omega
  simp only [rowOf, low, off]

section
variable (src : Source) (inst : Fin 36) (v : Word) {c : Chip}

theorem Lpd.onWrite_setpt (register : c.get (lf F.LPD.LPD_SPSRC.SRC (c.lpdSel inst)) = 0) :
    Lpd.onWrite (setptWrite src inst v) c = c.wr (lpd (c.lpdSel inst) R.LPD.LPD_SETPT) v := by
  obtain ⟨-, off, at_⟩ := lpdSetpt_place inst
  have row : rowOf (lpd (c.lpdSel inst) R.LPD.LPD_SETPT) = some ⟨0x824, 1, 4, 0, 0xFFFFFFFF, 0, 0, 0, false⟩ :=
    (rowOf_win _ _).trans (by decide)
  have kept : 0x24 + R.LPD.LPD_SEL = R.LPD.LPD_SETPT := rfl
  simp [Lpd.onWrite, Acc.off, Acc.inst, off, at_, Chip.lpdWritable, Chip.on, register, kept, c.storeAt_of_plain v row]

theorem Lpd.onWrite_setpt_of_other (other : c.get (lf F.LPD.LPD_SPSRC.SRC (c.lpdSel inst)) ≠ 0) :
    Lpd.onWrite (setptWrite src inst v) c = c.reject (setptWrite src inst v) rParam true := by
  obtain ⟨-, off, at_⟩ := lpdSetpt_place inst
  simp [Lpd.onWrite, Acc.off, Acc.inst, off, at_, Chip.lpdWritable, Chip.on, other]
end

/-! ### Tolerances (R184) -/

theorem PairCmp.onWrite_cmpCfg (src : Source) (inst : Fin 36) (v : Word) (c : Chip) :
    PairCmp.onWrite { src := src, addr := R.PAIRCMP.CMP_CFG inst, val := v } c = c.cmpCfg v := by
  obtain ⟨-, off⟩ := cmpCfg_place inst
  simp [PairCmp.onWrite, Acc.off, off]

theorem bits_and (v m : Word) (lo len : Nat) : bits (v &&& m) lo len = bits v lo len &&& bits m lo len := by
  apply Nat.eq_of_testBit_eq
  intro i
  simp only [Nat.testBit_and, testBit_bits, BitVec.getLsbD_and]
  cases decide (i < len) <;> simp

/-- A field of a masked word that the mask keeps. -/
theorem bits_and_of_kept {v m : Word} {lo len : Nat} (kept : bits m lo len = 2 ^ len - 1) : bits (v &&& m) lo len = bits v lo len := by
  rw [bits_and, kept, Nat.and_two_pow_sub_one_eq_mod, Nat.mod_eq_of_lt (bits_lt v lo len)]

/-- A field of a masked word that the mask leaves out. -/
theorem bits_and_of_dropped {v m : Word} {lo len : Nat} (dropped : bits m lo len = 0) : bits (v &&& m) lo len = 0 := by
  rw [bits_and, dropped, Nat.and_zero]

theorem bits_clampField_same (v : Word) {lo len b : Nat} (fits : lo + len ≤ 32) (hb : b < 2 ^ len) :
    bits (clampField v lo len 0 b) lo len = min (bits v lo len) b := by
  rw [clampField, bits_putBits_same _ _ _ _ fits, Nat.mod_eq_of_lt (by omega), Nat.zero_max, Nat.min_comm]

theorem bits_clampField_disj (v : Word) {lo len b lo' len' : Nat} (apart : lo' + len' ≤ lo ∨ lo + len ≤ lo') :
    bits (clampField v lo len 0 b) lo' len' = bits v lo' len' := bits_putBits_disj _ _ _ _ _ _ apart

/-- A word is the sum of the fields of CMP_CFG and of the bits between them. -/
theorem toNat_eq_cmpFields (v : Word) : v.toNat = bits v 0 5 + bits v 5 3 * 2 ^ 5 + bits v 8 5 * 2 ^ 8 + bits v 13 3 * 2 ^ 13 +
    bits v 16 8 * 2 ^ 16 + bits v 24 8 * 2 ^ 24 := by
  have := v.isLt
  simp only [bits, Nat.shiftRight_eq_div_pow]
  omega

/-- What CMP_CFG takes: both tolerances up to 24, and the limit. -/
abbrev cmpTaken (v : Word) : Word := clampField (clampField (v &&& 0x00FF1F1F#32) 0 5 0 24) 8 5 0 24

theorem toNat_cmpTaken (v : Word) :
    (cmpTaken v).toNat = min (bits v 0 5) 24 + min (bits v 8 5) 24 * 2 ^ 8 + bits v 16 8 * 2 ^ 16 := by
  have inTol : bits (cmpTaken v) 0 5 = min (bits v 0 5) 24 := by
    rw [bits_clampField_disj _ (by decide), bits_clampField_same _ (by decide) (by decide), bits_and_of_kept (by decide)]
  have outTol : bits (cmpTaken v) 8 5 = min (bits v 8 5) 24 := by
    rw [bits_clampField_same _ (by decide) (by decide), bits_clampField_disj _ (by decide), bits_and_of_kept (by decide)]
  have limit : bits (cmpTaken v) 16 8 = bits v 16 8 := by
    rw [bits_clampField_disj _ (by decide), bits_clampField_disj _ (by decide), bits_and_of_kept (by decide)]
  have empty {lo len : Nat} (apart : (lo + len ≤ 8 ∨ 8 + 5 ≤ lo) ∧ (lo + len ≤ 0 ∨ 0 + 5 ≤ lo))
      (dropped : bits 0x00FF1F1F#32 lo len = 0) : bits (cmpTaken v) lo len = 0 := by
    rw [bits_clampField_disj _ apart.1, bits_clampField_disj _ apart.2, bits_and_of_dropped dropped]
  rw [toNat_eq_cmpFields, inTol, outTol, limit, empty (lo := 5) (len := 3) (by decide) (by decide),
    empty (lo := 13) (len := 3) (by decide) (by decide), empty (lo := 24) (len := 8) (by decide) (by decide)]
  omega

theorem Chip.cmpCfg_shows (c : Chip) (v : Word) : c.Shows (c.cmpCfg v)
    [(whole (R.PAIRCMP.CMP_CFG 0), min (bits v 0 5) 24 + min (bits v 8 5) 24 * 2 ^ 8 + bits v 16 8 * 2 ^ 16)] := by
  rw [← toNat_cmpTaken]
  exact (Chip.Shows.of_regs (c := c)).wr (by simp)

end Sys2Proof.Machine
end

section
/-! Commands of the loop window. -/

namespace Sys2Proof.Machine

/-- The code of a command is its OP. -/
theorem bits_lpdCmdWrite (src : Source) (inst : Fin 36) {op : Nat} (h : op < 8) : bits (lpdCmdWrite src inst op).val 0 3 = op := by
  rw [bits_wd _ _ _ (by decide)]
  omega

/-- Settles O21: a state command by the first check that it fails, or by what is kept for the boundary; TRIGGER by the law of a first
trigger; set-points and tolerances by the law of their register. -/
theorem loopCommandsWaitForTheBoundary : Obligations.LoopCommandsWaitForTheBoundary := by
  refine ⟨fun src inst s => ?commands, fun src inst v s => ?setpoints, fun src inst v s lets => ?tolerances⟩
  case commands =>
    intro a l state waits no lets
    have code {op : Nat} (h : op < 8) := bits_lpdCmdWrite src inst h
    refine ⟨fun other => ?noTrigger, fun op reserved => ?invalid, fun held => ?held, fun free => ⟨?unlisted, fun boundary => ?listed⟩,
      fun host admitted closed idle first noCmd stays noMig noOpening register noOuter only rests sound => ?trigger⟩
    case noTrigger =>
      exact .of_lpdCmd rfl lets (by decide) (Chip.lpdCmd_of_noTrigger (code (by decide)) other)
    case invalid =>
      refine .of_lpdCmd (op := op.toNat) rfl lets (by decide) (Chip.lpdCmd_of_reserved ?_)
      rw [code op.isLt]
      exact reserved.imp_left (congrArg BitVec.toNat)
    case held =>
      have refused {i : Instr} {op : Nat} (run : exec i s = .next (s.lpdWrite src inst op)) (isState : 1 ≤ op ∧ op ≤ 3) : no i rSafety :=
        .of_lpdCmd run lets (by decide) (Chip.lpdCmd_of_held (code (by omega)) isState held)
      exact ⟨refused rfl (by decide), refused rfl (by decide), refused rfl (by decide)⟩
    case trigger =>
      exact .of_lpdCmd rfl lets (Chip.lpdCmd_of_trigger (code (by decide)) host admitted)
        (Chip.trigger_starts admitted closed idle first (Chip.triggered_quiet stays noCmd noOpening noMig sound) register noOuter only rests)
    case unlisted =>
      have refused {i : Instr} {op : Nat} (run : exec i s = .next (s.lpdWrite src inst op)) (isState : 1 ≤ op ∧ op ≤ 3)
          (unlisted : ¬s.chip.transitionOk l op = true) : no i rState :=
        .of_lpdCmd run lets (by decide) (Chip.lpdCmd_of_unlisted (code (by omega)) isState free unlisted)
      exact ⟨fun from_ => refused rfl (by decide) (Chip.closed_unlisted free from_),
        fun opened => refused rfl (by decide) (Chip.open_unlisted free opened),
        fun other => refused rfl (by decide) (mt Chip.transitionOk_hold.1 other)⟩
    case listed =>
      have kept {i : Instr} {op : Nat} (run : exec i s = .next (s.lpdWrite src inst op)) (isState : 1 ≤ op ∧ op ≤ 3)
          (listed : s.chip.transitionOk l op = true) (blocks : op = opClosed → state = lsOpen → s.chip.blocksOk l = true) : waits i op :=
        .of_waitingCmd run lets (Chip.lpdCmd_of_listed (code (by omega)) isState free listed blocks boundary)
      refine ⟨fun from_ => ?_, fun from_ => ?_, fun closed => ?_⟩
      · refine kept rfl (by decide) ((Chip.transitionOk_closed free).2 ?_) fun _ opened => ?_
        · exact from_.imp_left fun ⟨opened, admitted, loaded, _⟩ => ⟨opened, admitted, loaded⟩
        · rcases from_ with ⟨-, -, -, blocks⟩ | hold
          · exact blocks
          · exact absurd (opened.symm.trans hold) (by decide)
      · exact kept rfl (by decide) ((Chip.transitionOk_open free).2 from_) fun isClosed => absurd isClosed (by decide)
      · exact kept rfl (by decide) (Chip.transitionOk_hold.2 closed) fun isClosed => absurd isClosed (by decide)
  case setpoints =>
    intro a l lets
    obtain ⟨takes, -⟩ := lpdSetpt_place inst
    exact ⟨fun register => .of_gated rfl ⟨lets, takes⟩ (Lpd.onWrite_setpt src inst v register)
        ((Chip.Shows.of_regs (c := s.chip)).wr (by simp)) (.wr rfl _ _),
      fun other => .of_gated rfl ⟨lets, takes⟩ (Lpd.onWrite_setpt_of_other src inst v other) (by decide)⟩
  case tolerances =>
    exact .of_gated rfl ⟨lets, (cmpCfg_place inst).1⟩ (PairCmp.onWrite_cmpCfg src inst v s.chip) (s.chip.cmpCfg_shows v) (.wr rfl _ _)

end Sys2Proof.Machine
end
